-- ==== Sys2Proof/Word.lean ====
section
/-! DEFINITION. The widths of the part: bytes, 32-bit register and descriptor words, 64-bit words. -/

namespace Sys2Proof

/-- One byte of any memory of the part. -/
abbrev Byte := BitVec 8

/-- A register, a descriptor word, an FP32 code (R63, R462, R26). -/
abbrev Word := BitVec 32

/-- A 64-bit register pair or spin word (R100, R462). -/
abbrev Dword := BitVec 64

/-- A digest of SHA-384 (R365). -/
abbrev Sha := BitVec 384

end Sys2Proof
end

