-- ==== Sys2Proof/Syntax.lean ====
section
/-! DEFINITION. The commands of the block: one constructor of `Instr` per row of spec/opcode_table.json,
with the operands that come from outside the part or that name which unit, job or port the event is about. -/

namespace Sys2Proof

/-- Global tile number g = 16n + t (R9). -/
abbrev TileId := Fin 512
/-- Job context (R343). -/
abbrev Ctx := Fin 8
/-- Fabric port (R201). -/
abbrev Port := Fin 12
/-- Memory stack (R8). -/
abbrev StackId := Fin 12
/-- Course (R9). -/
abbrev CourseId := Fin 32
/-- Course pair, clock domain CPn (R406). -/
abbrev PairId := Fin 16
/-- Compute die (R9). -/
abbrev DieId := Fin 4
/-- Host DMA channel (R454). -/
abbrev ChanId := Fin 32
/-- Requester id (R363): 0 loader, 1 trail mover, 2 and 3 codec controllers, 4 host over PCIe,
5 host over MCTP, 6 board management controller over I3C. -/
abbrev Req := Fin 7
/-- Buffer pool (R363). -/
abbrev PoolId := Fin 16

/-- The five unit queues of a tile (R65). -/
inductive DescQueue where
  | dma | engine | vector | joint | fabric
deriving DecidableEq, Repr

/-- Barrier scope (R96). -/
inductive BarScope where
  | course | die | part | job
deriving DecidableEq, Repr

/-- Class of a control reduction (R207). -/
inductive RedClass where
  | verdict | release | jobBarrier | start
deriving DecidableEq, Repr

/-- Which pool of tags frees one (R15, R218). -/
inductive TagPool where
  | fabric (c : Ctx)
  | memory (s : StackId)
deriving DecidableEq, Repr

/-- A fabric packet (R205, R206). The payload holds the bytes after the header. -/
structure Packet where
  /-- type byte (R206) -/
  ty : Nat
  /-- virtual channel, route[7:5] -/
  vc : Nat
  /-- sidesteps taken, route[4:3] -/
  side : Nat
  /-- destination, packed physical coordinates -/
  dst : Nat
  /-- source, packed physical coordinates -/
  src : Nat
  fabricJob : Nat
  /-- initiator's fabric tag -/
  tag : Nat
  /-- step epoch of the initiator -/
  step : Nat
  /-- device address -/
  addr : Nat
  /-- type-specific word -/
  aux : Word
  payload : List Byte
deriving DecidableEq, Repr

/-- One 16-byte digest triple of the exchange of R180, with the packed coordinates of its sender. -/
structure DigestTriple where
  sender : Nat
  tensor : Nat
  shard : Nat
  digest : Dword
deriving DecidableEq, Repr

/-- A media unit of Rink (R272, R313). -/
inductive MediaUnit where
  | vdec (n : Fin 16)
  | venc (n : Fin 4)
  | idec (n : Fin 4)
  | adec
  | shap (n : Fin 8)
deriving DecidableEq, Repr

/-- One concealment unit a decoder found damaged (R290, R291). -/
structure Damage where
  byteOffset : Nat
  unitNo : Nat
  /-- 1 SYNTAX, 2 TRUNCATED, 3 MISSING_REF, 4 CHECKSUM, 5 UNSUPPORTED, 6 LIMIT -/
  cls : Nat
  block : Nat
deriving DecidableEq, Repr

/-- What a coded frame is, as far as the references go (R294): an AVC IDR, an HEVC or VVC IRAP picture other than a CRA, a
CRA, the recovery point of an HEVC SEI or a VVC GDR, an AV1 key frame, or another. -/
inductive FrameKind where
  | plain | idr | irap | cra | recovery | key
deriving DecidableEq, Repr

/-- What a decoder and its firmware found in one access unit (R273, R274, R290 to R294): the coded bytes
are read under an external coding standard, so the finding comes with the command. -/
structure Finding where
  /-- luma width; of an audio unit its samples in a channel, as coded -/
  width : Nat
  height : Nat
  /-- chroma code of R286 -/
  chroma : Nat
  depth : Nat
  /-- components of a still picture, without an alpha plane that is discarded (R276) -/
  comps : Nat
  /-- profile, numbered from 0 in the order in which R274 names those of the coding; any other number for another -/
  profile : Nat
  /-- level × 10 (R274) -/
  level : Nat
  /-- syntax of the coding that R274 to R277 do not support, beside size, profile, level, chroma and depth (R278) -/
  extra : Bool
  kind : FrameKind
  /-- the `frames` values of the pictures referred to; none for one that this part never decoded (R293) -/
  refs : List (Option Nat)
  /-- the frame's film_grain_params(), in the layout of R304; none when it carries none (R274) -/
  grain : List Byte
  /-- chroma siting that the stream signals: left-sited horizontally, centred vertically (R296) -/
  site : Option (Bool × Bool)
  damage : List Damage
deriving DecidableEq, Repr

/-- A sensor group of the thermal limits (R418). -/
inductive ThermalTarget where
  | pair (p : PairId)
  | iod
  | stack (s : StackId)
  | dram (s : StackId)
deriving DecidableEq, Repr

/-- The path an SPDM or MCTP message came over (R376, R459). -/
inductive MsgPath where
  | pcie | i3c
deriving DecidableEq, Repr

/-- Where a security operation came from (R370, R395). -/
inductive SecSource where
  | hrdm
  | spdm (p : MsgPath) (session : Nat)
deriving DecidableEq, Repr

/-- A firmware copy as the boot ROM finds it in SPI NOR (R433): the header fields it reads, whether the
copy is valid, and the digests it measures. -/
structure FwCopy where
  valid : Bool
  seq : Nat
  svn : Nat
  fwDigest : Sha
  codecDigest : Sha
deriving DecidableEq, Repr

/-- A copy of the configuration store (R439). -/
structure StoreCopy where
  /-- magic, version and CRC are correct (R440) -/
  valid : Bool
  seq : Nat
  writesOwn : Nat
  writesOther : Nat
  /-- (BAR0 offset, value) in entry order -/
  entries : List (Nat × Word)
deriving DecidableEq, Repr

/-- Where a memory holds a turned bit (R247, R480). -/
inductive UpsetPlace where
  /-- a 64-byte line of device memory, by its number in the direct window -/
  | device (line : Nat)
  /-- a 64-byte line of a tile store -/
  | store (tile line : Nat)
  /-- a bed line of a die, by the 128-byte line of device memory it holds -/
  | bed (die line : Nat)
  /-- a 64-byte line of a context's bed scratch on a die -/
  | scratch (ctx die line : Nat)
  /-- another SRAM of a compute die: unit code 1 (POST) or 9 (R482) -/
  | sram (die unit : Nat)
deriving DecidableEq, Repr

/-- Bits of a memory that have turned: `kind` 1 is corrected on a DRAM layer, or in an SRAM; 2 at the stack controller; 3
cannot be corrected (R481, R482). -/
structure Upset where
  place : UpsetPlace
  kind : Nat
deriving DecidableEq, Repr

/-- The commands of the block, in the order of spec/opcode_table.json. `hw` operands are the bytes the host
wrote into its own memory before the part reads it, in order. -/
inductive Instr where
  | descriptorIssue (t : TileId) (pc addr : Nat)
  | descriptorStart (t : TileId) (q : DescQueue)
  | descriptorComplete (t : TileId) (q : DescQueue)
  | dma (t : TileId) (n : Nat)
  | matmul (t : TileId)
  | conv (t : TileId)
  | vec (t : TileId)
  | joint (t : TileId)
  | semWait (t : TileId)
  | semSignal (t : TileId)
  | semSet (t : TileId)
  | fabPut (t : TileId) (n : Nat)
  | fabGet (t : TileId) (n : Nat)
  | fabCollectiveStep (t : TileId) (n : Nat)
  | tagGrant (p : TagPool)
  | barrier (t : TileId)
  | barrierRelease (c : Ctx) (sc : BarScope) (inst : Nat) (id : Fin 16)
  | event (t : TileId)
  | eventAccept (c : Ctx)
  | drainEnd (c : Ctx)
  | boundaryViolation (c : Ctx) (t : TileId)
  | postedTimeout (c : Ctx)
  | rollupComplete
  | telFreeze (v : Word)
  | periodicFreezeTick
  | verdictReductionComplete (c : Ctx)
  | sweep (k : StackId)
  | stagingRoom (c : Ctx)
  | sweepEnd (c : Ctx)
  | digestExchangeComplete (c : Ctx) (ts : List DigestTriple)
  | digestTriplesTimeout (c : Ctx)
  | keeperGateOpen (c : Ctx)
  | releaseReductionComplete (c : Ctx)
  | startReductionComplete (c : Ctx)
  | controlReductionTimeout (c : Ctx) (rc : RedClass) (id : Fin 16)
  | stepTimeout (c : Ctx)
  | jobLoad (r : Req)
  | loadCheck (hw : List Host.Cell)
  | jobStart (c : Ctx) (hw : List Host.Cell) (peer : List (Option (List Byte)))
  | jobResume (c : Ctx) (hw : List Host.Cell) (peer : List (Option (List Byte)))
  | jobPreempt (c : Ctx)
  | jobUnload (c : Ctx)
  | jobTeardown (c : Ctx)
  | jobClear (c : Ctx)
  | ploughFinish (c : Ctx)
  | ploughAbort (c : Ctx)
  | creditAdd (c : Ctx) (v : Word)
  | creditOverflowClear (c : Ctx)
  | snapshotRequest (c : Ctx)
  | snap (k : StackId)
  | poolTake (p : PoolId) (r : Req)
  | poolGive (p : PoolId) (v : Word)
  | trowelQueueDoorbell (c : Ctx) (tail : Nat) (hw : List Host.Cell)
  | digest (k : StackId)
  /-- `src` carries nothing: what a source in a peer part holds comes in as packets (R188) -/
  | replay (k : StackId) (src : Unit)
  | base (k : StackId)
  /-- `src` carries nothing, as for `replay` -/
  | importBase (k : StackId) (src : Unit)
  | init (k : StackId)
  | trowelDone (c : Ctx)
  | trailMover (c : Ctx) (budget : Nat)
  /-- `peer` carries nothing: the control area in a peer part comes in as packets (R187) -/
  | sinkPoll (c : Ctx) (sink : Fin 3) (hw : List Host.Cell) (peer : Unit)
  | sinkReadTimeout (c : Ctx) (sink : Fin 3)
  | packetForward (inPort : Option Port) (p : Packet)
  | write (p : Packet)
  | writeLast (p : Packet)
  | ack (p : Packet)
  | lateWrite (p : Packet)
  | readReq (p : Packet)
  | readData (p : Packet)
  | readNak (p : Packet)
  | getTimeout (c : Ctx) (tag : Nat)
  | coll (p : Packet) (axis : Fin 3) (off : Nat)
  | collectiveTimeout (c : Ctx) (collId step : Nat)
  | ctrlReduceUp (port : Port) (p : Packet)
  | ctrlReduceDown (port : Port) (p : Packet)
  | absentNotice (port : Port) (p : Packet)
  | presentNotice (port : Port) (p : Packet)
  | jobLostNotice (port : Port) (p : Packet)
  | ploughNotice (port : Port) (p : Packet)
  | fw (p : Packet)
  | timeSend
  | time (port : Port) (p : Packet)
  | timeSet (r : Req) (v : Dword)
  | heartbeatSend
  | heartbeat (port : Port) (flit : List Byte)
  | heartbeatTimeout (port : Port)
  | linkDown (port : Port)
  | linkDegraded (port : Port) (bad : BitVec 8)
  | linkTrainState (port : Port) (coords peerPort : Nat) (tag : Word)
  | linkTrainTimeout (port : Port)
  | fecReplay (port : Port) (lost : Nat)
  | creditReturn (port : Port) (vc : Fin 8) (n : Nat)
  | prbsStart (port : Port)
  | prbsStop (port : Port)
  | announcementEnd
  | unitHang (unit inst : Nat)
  | thermalTrip (unit inst reading : Nat)
  | supplyFault (reading : Nat)
  | routerFault (reading : Nat)
  | coolantOkDeassert
  | aonLoss
  | refclkLoss
  | aonPowerOnReset (straps : BitVec 3)
  | regulatorStart
  | coldBoot (bistFail : List CourseId)
  | memoryTrainingComplete
  | ready
  | rstWarm (v : Word)
  | perstNAssert
  | perstNDeassert
  | warmRestart
  | rstCompute (v : Word)
  | functionLevelReset
  | pcieLinkLoss
  | rstact (b : Byte)
  | softReset (r : Req) (page : Nat)
  | stWrite (r : Req) (off : Nat) (v : Word)
  | cfgCheck
  | cfgCheckDone
  | cfgApply
  | cfgDiscard (r : Req)
  | cfgSave
  | cfgSaveDone (ok : Bool)
  | sleep
  | wake
  | lowPowerExit
  | pairGate (p : PairId)
  | governorRelease
  | powerControlTick (watts deciamps : Nat)
  | thermalLimitTick (t : ThermalTarget) (quarterDeg : Nat)
  | droopStretch (p : PairId)
  | voltageLoopTick (p : PairId) (clocks : Nat) (load : Fin 3)
  | memoryRecentre (k : StackId) (code : Nat)
  | fabricEqualisation (port : Port) (lane : Fin 8) (code : Nat)
  | brakeAssert
  | brakeDeassert
  | tenantSwitch (src : SecSource)
  | scrubComplete (failed : Option (StackId × Nat))
  | weightSetClose (set : Fin 256)
  | weightChunk (ch : ChanId) (bytes : List Byte)
  | secRefused
  | getVersion (p : MsgPath)
  | getCapabilities (p : MsgPath) (v12 : Bool)
  | negotiateAlgorithms (p : MsgPath)
  | getDigests (p : MsgPath)
  | getCertificate (p : MsgPath) (off len : Nat)
  | challenge (p : MsgPath) (nonce : List Byte)
  | getMeasurements (p : MsgPath) (index : Nat)
  | keyExchange (p : MsgPath) (mutualAuth : Bool)
  | finish (p : MsgPath) (session : Nat) (leafKey : Option (List Byte)) (ok : Bool)
  | spdmHeartbeat (p : MsgPath) (session : Nat)
  | keyUpdate (p : MsgPath) (session : Nat)
  | endSession (p : MsgPath) (session : Nat)
  | chunkSend (p : MsgPath) (handle : Nat) (bytes : List Byte) (last : Bool)
  | chunkGet (p : MsgPath) (handle : Nat) (seqNo : Nat)
  | report (p : MsgPath) (session : Option Nat) (nonce : List Byte)
  | setKey (p : MsgPath) (session : Nat) (setId : Dword) (key : List Byte)
  | releaseKey (p : MsgPath) (session : Nat) (job : Nat) (chan : Nat) (loadId : Word) (reportDigest : Sha) (key : List Byte)
  | ownerKeyUpdate (p : MsgPath) (seq : Nat) (key : List Byte) (sig : List Byte) (writeOk : Bool)
  | setEndpointId (p : MsgPath) (eid : Byte)
  | mctpRegisterRead (p : MsgPath) (off count : Nat)
  | mctpRegisterWrite (p : MsgPath) (off : Nat) (ws : List Word)
  | i3cPrivateWrite (bytes : List Byte)
  | i3cPrivateRead (words : Nat)
  | dynamicAddressAssignment (a : BitVec 7)
  | registerWrite (r : Req) (bar2 : Bool) (off width : Nat) (v : Dword)
  | accessErrRead (r : Req) (page : Nat)
  | irqStatusClear (page : Nat) (v : Word)
  | irqForce (page : Nat) (v : Word)
  | queuePop (off : Nat) (v : Word)
  | queueConfigWrite (r : Req) (off : Nat) (v : Word)
  | bar4BaseWrite (r : Req) (hi : Word)
  | bar4Read (off len : Nat)
  | bar4Write (off : Nat) (bytes : List Byte)
  | eventQueueDoorbell (c : Option Ctx) (idx : Nat)
  | dmaDoorbell (ch : ChanId) (tail : Nat)
  | hostDmaDescriptor (ch : ChanId) (hw : List Host.Cell)
  | hostDmaComplete (ch : ChanId)
  | fwOpen (r : Req) (target : Bool)
  | fwData (r : Req) (v : Word)
  | fwCommit (r : Req)
  | fwAbort (r : Req)
  | fwUpdateDone (readBackOk : Bool)
  | courseFence (n : CourseId)
  | courseBist (n : CourseId)
  | bistDone (n : CourseId) (pass : Bool)
  | courseRelease (n : CourseId)
  | unitOutOfService (u : MediaUnit)
  | unitSelfTest (u : MediaUnit)
  | selfTestDone (u : MediaUnit) (pass : Bool)
  | unitReturnToService (u : MediaUnit)
  | idleScrub (k : StackId) (lines : Nat) (errors : List Upset)
  | ingestRingPoll (c : Ctx)
  | ingestOpen (c : Ctx) (slot : Nat)
  | decode (c : Ctx) (slot : Nat) (u : MediaUnit)
  | decodeComplete (c : Ctx) (slot : Nat) (f : Finding)
  | shape (c : Ctx) (slot : Nat) (n : Fin 8)
  | shapeComplete (c : Ctx) (slot : Nat)
  | ingestClose (c : Ctx) (slot : Nat)
  | encodeRingPoll (c : Ctx)
  | encodeOpen (c : Ctx) (slot : Nat)
  | encode (c : Ctx) (slot : Nat) (n : Fin 4)
  /-- `bits` carries nothing: the bits of an attempt follow from the pictures (R316) -/
  | encodeAttemptComplete (c : Ctx) (slot : Nat) (bits : Unit)
  | pictureComplete (c : Ctx) (slot : Nat)
  | encodeClose (c : Ctx) (slot : Nat)
  | postRingPoll (d : DieId)
  | decodeAndNms (d : DieId)
  | nms (d : DieId)
  | postCommandComplete (d : DieId)
  | peerReadTimeout (c : Ctx)
  | abortDigestWaitEnd (c : Ctx)
  | d3hotTransition (d3 : Bool)
  | bar4Resize (log2 : Nat)
  | boundaryScanInstruction (ir : Nat)
  | testLogicReset
  | sealedRangeZeroed (c : Ctx)
deriving DecidableEq, Repr

end Sys2Proof
end

