-- ==== Sys2Proof/Config.lean ====
section
/-! DEFINITION. What the manual leaves open, as constants with no body, and what one part fixes for its life.
Nothing here has a value that a proof could use. -/

namespace Sys2Proof.Config

/-- Byte `a` of contents the manual calls undefined; `i` is the free-value index under which they became
undefined (R125, R137, R259, R271, R359, R360, R386). -/
opaque freeByte (i a : Nat) : Byte

/-- A free number, for a value that the manual leaves open at one moment; `i` is the free-value index (log 63, DESIGN CHOICE). -/
opaque freeNat (i : Nat) : Nat

/-- The transcendental functions of R89 away from their tabulated cases: one fixed function of the input (log 64, DESIGN CHOICE). -/
opaque trans (sub : Nat) (x : Word) : Word

/-- SHA-384 (R365) (log 68, PRESUMED). -/
opaque sha384 (bytes : List Byte) : Sha

/-- HMAC-SHA-384 under the slot MAC key that the Hardom root derives from the device secret (R390) (log 68, PRESUMED). -/
opaque slotMac (bytes : List Byte) : List Byte

/-- Verification of an ECDSA P-384 signature: key, SHA-384 of the message, signature (R365) (log 68, PRESUMED). -/
opaque ecdsaVerify (key : List Byte) (digest : Sha) (sig : List Byte) : Bool

/-- An ECDSA P-384 signature with the identity key; `i` is the free-value index of its per-signature value (R365). -/
opaque ecdsaSign (i : Nat) (digest : Sha) : List Byte

/-- AES-256-GCM decryption: key, IV, additional data, ciphertext, tag; none when the tag does not verify (R365, R386). -/
opaque gcmOpen (key iv aad cipher tag : List Byte) : Option (List Byte)

/-- The digest of the firmware signing key, in the fuses (R366, R433). -/
opaque fwKeyDigest : Sha

/-- The fuse serial number, 16 bytes (R366). -/
opaque serial : List Byte

/-- The identity public key as an uncompressed point, 97 bytes, derived from the fused private key (R366). -/
opaque identityKey : List Byte

/-- The identity certificate chain in SPI NOR (R366, R432). -/
opaque certChain : List Byte

/-- SHA-384 of the boot ROM (R368). -/
opaque romDigest : Sha

/-- Renonza's PCI-SIG vendor ID (R451) and JEDEC manufacturer code (R488): named, their numbers not given. -/
opaque vendorId : BitVec 16
@[inherit_doc vendorId] opaque jedecCode : BitVec 11

/-- The part's clock grade, in the fuses (R2, R366): true for -B. -/
opaque gradeB : Bool

/-- Where an address lies in its DRAM: 0 pseudo-channel, 1 layer, 2 bank, 3 row, 4 column (R482): not given (log 83, DESIGN CHOICE). -/
opaque dramField (a k : Nat) : Nat

/-- A value of the DRBG (R365, R375); `i` is the free-value index. -/
opaque drbg (i : Nat) : Nat

/-- The set of a bed in which a 128-byte line is cached (R9): which address bits choose it is not given (log 65, DESIGN CHOICE). -/
opaque bedSet (line : Nat) : Nat

/-- The factory voltage table of R417: setpoint of a pair at a clock, in units of 2.5 mV. -/
opaque factorySetpoint (pair clock : Nat) : Nat

/-- Sample `i` of the picture that a decoder forms under the external coding standards of R274 and R276, from a stream: the
coded bytes of its access units, the last the one decoded, with what was found in each. `repl` is the picture that stands
in for a reference the context does not hold (R293). -/
opaque decodedSample (stream : List (List Byte × Finding)) (repl : Nat → Nat) (i : Nat) : Nat

/-- Concealment unit and block of sample `i` of the last access unit of a stream (R291), by the external coding standards. -/
opaque sampleUnit (stream : List (List Byte × Finding)) (i : Nat) : Nat × Nat

/-- Channels, sample rate, bits of a sample, and whether samples are FP32, of an audio stream: from its configuration at
OPEN and the coded bytes of the access unit (R273, R277). -/
opaque audioFormat (config unit : List Byte) : Nat × Nat × Nat × Bool

/-- Sample `n` of channel `ch` of a FLAC, AAC-LC or Opus access unit, in FP32, under the external standards of R277. -/
opaque decodedAudio (config : List Byte) (stream : List (List Byte × Finding)) (ch n : Nat) : Word

/-- FP32 factor of integer audio samples of `bits` bits: R307 does not give their scale (log 99, DESIGN CHOICE). -/
opaque audioScale (bits : Nat) : Word

/-- Picture-store bytes that OPEN requires (R287): not given by the manual. -/
opaque storeNeed (coding chroma depth w h : Nat) : Nat

/-- The rate controller of R323, internal to firmware: QP of a picture, from OPEN, the earlier pictures with their
descriptors, the picture, and the fullness. -/
opaque rcQp (opened : List Byte) (past : List (List Byte × List Nat)) (pic : List Byte × List Nat) (full : Nat) : Nat

/-- Payload of a syntax structure of an encoded stream (R315), serialised under the external standards: NAL unit or OBU
type, the values it expresses, the stream's pictures with their descriptors, the last the one coded, and its QP. -/
opaque synPayload (opened : List Byte) (pics : List (List Byte × List Nat)) (q kind : Nat) (vals : List Nat) : List Byte

/-- Motion search and mode decision (R331, R336): entry `i` of kind `k` for the last of a stream's pictures. -/
opaque motion (opened : List Byte) (pics : List (List Byte × List Nat)) (k i : Nat) : Nat

/-- Luma sample (x, y) of the best intra predictor of the 16 × 16 block `i` (R337). -/
opaque intraPred (opened : List Byte) (pics : List (List Byte × List Nat)) (i x y : Nat) : Nat

/-- Interpolation of a reference's luma at a fractional vector (R336, R337), by the coding: the predictor's sample (x, y). -/
opaque interpolated (coding : Nat) (ref : Int → Int → Nat) (mvx mvy : Int) (x y : Nat) : Nat

/-- Sample (x, y) of plane `p` of the reconstruction of the last of a stream's pictures, coded at QP `q`. -/
opaque reconSample (opened : List Byte) (pics : List (List Byte × List Nat)) (q p x y : Nat) : Nat

/-- Film grain synthesis of the AV1 specification (R304): the grained code of sample (x, y) of plane `p` of a picture of given
size, chroma and depth, from the bytes of a film_grain_params() structure and the seed that replaces its own. -/
opaque grained (params : List Byte) (seed : Option Nat) (w h chroma depth : Nat) (pic : Nat → Nat → Nat → Nat) (p x y : Nat) : Nat

/-- Bytes that a film_grain_params() structure takes, by its own contents (R304). -/
opaque grainLen (params : List Byte) : Nat

/-- One output sample of the polyphase filter of R307, whose taps are not given: rates in and out, phase, and the 64 input
samples under the taps (log 99, DESIGN CHOICE). -/
opaque resampled (rateIn rateOut phase : Nat) (window : List Word) : Word

/-- Output samples that `n` input samples give (R307): not given (log 99, DESIGN CHOICE). -/
opaque outSamples (rateIn rateOut n : Nat) : Nat

/-- |X_k|² of a windowed frame (R307): the order of its FP32 operations is not given (log 99, DESIGN CHOICE). -/
opaque power (k : Nat) (frame : List Word) : Word

/-- Energy of a triangular mel filter over a power spectrum (R307): filter m of `mels` between two frequencies, at an output
rate; the order of its FP32 operations is not given (log 99, DESIGN CHOICE). -/
opaque melEnergy (mels rate m : Nat) (fmin fmax : Word) (spectrum : List Word) : Word

/-- ln in FP32 (R307), whose rounding is not given (log 99, DESIGN CHOICE). -/
opaque ln32 (x : Word) : Word

end Sys2Proof.Config
end

