-- ==== Sys2Proof/Machine/Maps.lean ====
section
/-! DEFINITION. Sparse maps and byte memories in one canonical form, little-endian access, bit fields, CRCs. -/

namespace Sys2Proof.Machine

/-- A sparse map: (key, value) pairs, keys strictly rising, no value equal to the map's default. -/
abbrev NMap (α : Type) := List (Nat × α)

/-- The value at a key; `d` is what an unlisted key reads as. -/
def mget {α : Type} (m : NMap α) (d : α) (k : Nat) : α :=
  match m with
  | [] => d
  | (j, v) :: t => if k = j then v else mget t d k

/-- Insert or replace, keeping keys rising. -/
def mins {α : Type} (m : NMap α) (k : Nat) (v : α) : NMap α :=
  match m with
  | [] => [(k, v)]
  | (j, w) :: t => if k < j then (k, v) :: (j, w) :: t else if k = j then (k, v) :: t else (j, w) :: mins t k v

/-- Remove a key. -/
def mdel {α : Type} (m : NMap α) (k : Nat) : NMap α := m.filter fun p => p.1 ≠ k

/-- Write a key, dropping the entry where the value is the default. -/
def mset {α : Type} [DecidableEq α] (m : NMap α) (d : α) (k : Nat) (v : α) : NMap α :=
  if v = d then mdel m k else mins m k v

/-- Change the value at a key. -/
def mupd {α : Type} [DecidableEq α] (m : NMap α) (d : α) (k : Nat) (f : α → α) : NMap α :=
  mset m d k (f (mget m d k))

/-- Canonical form of a sparse map: keys strictly rising, no entry equal to the default of its key. -/
abbrev mwf {α : Type} (d : Nat → α) (m : NMap α) : Prop :=
  List.Pairwise (· < ·) (m.map (·.1)) ∧ ∀ p ∈ m, p.2 ≠ d p.1

/-- What an area of memory without entries reads as: zero, or free bytes under an index. -/
inductive Fill where
  | zero
  | free (i : Nat)
deriving DecidableEq, Repr

/-- A byte memory: entries in canonical form, over areas (first match wins) that say what an unlisted address
reads as. An address in no area reads 0x00. -/
structure Mem where
  cells : List Host.Cell := []
  /-- (first address, address after the last, what it reads as) -/
  fills : List (Nat × Nat × Fill) := []
deriving DecidableEq, Repr

/-- What an address with no entry reads as (log 7, DESIGN CHOICE). -/
def unlisted (fills : List (Nat × Nat × Fill)) (a : Nat) : Byte :=
  match fills with
  | [] => 0
  | (lo, hi, f) :: t =>
    if lo ≤ a ∧ a < hi then (match f with | .zero => 0 | .free i => Config.freeByte i a) else unlisted t a

/-- Read one byte (log 7, DESIGN CHOICE). -/
def Mem.get (m : Mem) (a : Nat) : Byte := mget m.cells (unlisted m.fills a) a

/-- Write one byte, keeping the canonical form. -/
def Mem.set (m : Mem) (a : Nat) (b : Byte) : Mem :=
  { m with cells := mset m.cells (unlisted m.fills a) a b }

/-- Read `n` bytes from `a` upward. -/
def Mem.read (m : Mem) (a n : Nat) : List Byte := (List.range n).map fun i => m.get (a + i)

/-- Write bytes from `a` upward, in increasing address. -/
def Mem.write (m : Mem) (a : Nat) (bs : List Byte) : Mem :=
  match bs with
  | [] => m
  | b :: t => (m.set a b).write (a + 1) t

/-- Write single cells in order. -/
def Mem.writeCells (m : Mem) (cs : List Host.Cell) : Mem := cs.foldl (fun m c => m.set c.1 c.2) m

/-- Make the bytes of [lo, hi) read as `f` says, whatever they held (log 45, DESIGN CHOICE). -/
def Mem.fill (m : Mem) (lo hi : Nat) (f : Fill) : Mem :=
  { cells := m.cells.filter fun c => ¬ (lo ≤ c.1 ∧ c.1 < hi), fills := (lo, hi, f) :: m.fills }

/-- The canonical form of a byte memory. -/
abbrev Mem.wf (m : Mem) : Prop :=
  List.Pairwise (· < ·) (m.cells.map (·.1)) ∧ ∀ c ∈ m.cells, c.2 ≠ unlisted m.fills c.1

/-- Little-endian value of bytes (R63). -/
def leNat : List Byte → Nat
  | [] => 0
  | b :: t => b.toNat + 256 * leNat t

/-- `n` little-endian bytes of a number. -/
def leBytes (n x : Nat) : List Byte :=
  match n with
  | 0 => []
  | n + 1 => BitVec.ofNat 8 x :: leBytes n (x / 256)

/-- Little-endian read of `n` bytes at `a`. -/
def Mem.rd (m : Mem) (a n : Nat) : Nat := leNat (m.read a n)

/-- Little-endian write of `n` bytes at `a`. -/
def Mem.wr (m : Mem) (a n x : Nat) : Mem := m.write a (leBytes n x)

/-- Little-endian value of `n` bytes of a list from offset `o`; bytes beyond the end read 0. -/
def lat (bs : List Byte) (o n : Nat) : Nat := leNat ((bs.drop o).take n)

/-- Bits [hi:lo] of a number, as the manual writes x[hi:lo]. -/
def bits (x hi lo : Nat) : Nat := (x >>> lo) % 2 ^ (hi + 1 - lo)

/-- One bit of a number. -/
def bit (x i : Nat) : Bool := x.testBit i

/-- Bits [hi:lo] of a register or descriptor word. -/
def fld (w : Word) (hi lo : Nat) : Nat := bits w.toNat hi lo

/-- ⌈a / b⌉. -/
def cdiv (a b : Nat) : Nat := (a + b - 1) / b

/-- 1 for true, 0 for false. -/
def b2n (b : Bool) : Nat := if b then 1 else 0

/-- Round up to a multiple. -/
def roundUp (a b : Nat) : Nat := b * cdiv a b

/-- One byte of a most-significant-bit-first CRC-64. -/
def crc64Byte (crc : Dword) (b : Byte) : Dword :=
  (List.range 8).foldl
    (fun c _ => if c.msb then (c <<< 1) ^^^ 0x42F0E1EBA9EA3693#64 else c <<< 1)
    (crc ^^^ ((b.setWidth 64) <<< 56))

/-- CRC-64/ECMA-182 (R179). -/
def crc64 (bs : List Byte) : Dword := bs.foldl crc64Byte 0

/-- One byte of the reflected CRC-32C. -/
def crc32cByte (crc : Word) (b : Byte) : Word :=
  (List.range 8).foldl
    (fun c _ => if c.getLsbD 0 then (c >>> 1) ^^^ 0x82F63B78#32 else c >>> 1)
    (crc ^^^ b.setWidth 32)

/-- CRC-32C (Castagnoli) (R143, R192, R253, R439). -/
def crc32c (bs : List Byte) : Word := ~~~ (bs.foldl crc32cByte 0xFFFFFFFF#32)

/-- Saturating 64-bit count (R56, R473). -/
def satAdd64 (x y : Nat) : Nat := min (x + y) (2 ^ 64 - 1)

end Sys2Proof.Machine
end

