-- ==== Sys2Proof/Machine/State.lean ====
section
/-! DEFINITION. The state of the part, as plain data, and `State.reset`. Each field's docstring gives its width,
the rule of spec/ that names it and its value at reset. A sparse map lists only entries that differ from the
reset value of their key. -/

namespace Sys2Proof.Machine

/-- Reasons for a command to stop the machine. The part reports every fault as an event and goes on (R245), so no
command stops it: there is no constructor. -/
inductive Fault where
deriving DecidableEq, Repr

/-- Reasons to have no meaning for a command. -/
inductive Refusal where
  /-- Raised by an arm of `exec` whose command has no meaning yet. Safe: the machine stops where the part goes on. -/
  | notModelled (mnemonic : String)
deriving DecidableEq, Repr

/-- What leaves the part (log 9). -/
inductive OutMsg where
  /-- a fabric packet started on a port, or `none` for one addressed to the part itself (R211) -/
  | packet (port : Option Nat) (p : Packet)
  /-- a link control flit: heartbeat (R253) -/
  | flit (port : Nat) (bs : List Byte)
  /-- flits of a packet sent again from a link's replay buffer: those of the packet from flit `from_` on (R240, R242) -/
  | replay (port : Nat) (p : Packet) (from_ : Nat)
  /-- a request for a replay from the first lost flit on a port, `lost` flits back (R240) -/
  | replayRequest (port lost : Nat)
  /-- credits returned to the sender of a port, in flits of a VC (R210) -/
  | credit (port vc n : Nat)
  /-- the part's identity record on a port: packed coordinates, port number, system tag (R204) -/
  | identity (port coords number : Nat) (tag : Word)
  /-- an MSI-X message (R458) -/
  | msix (vector : Nat)
  /-- an I3C in-band interrupt (R460) -/
  | ibi (b : Byte)
  /-- data returned to a requester (R363 id) by a register or window read -/
  | reply (r : Nat) (bs : List Byte)
  /-- a read through BAR4 completed with poisoned data (EP) and reported through AER (R453): bytes asked for -/
  | poisonedReply (n : Nat)
  /-- an SPDM response (R376): response code and body -/
  | spdm (p : MsgPath) (code : Nat) (bs : List Byte)
  /-- an MCTP response (R459) -/
  | mctp (p : MsgPath) (bs : List Byte)
  /-- the device identification register, as the TAP shifts it out (R488) -/
  | idcode (v : Word)
deriving DecidableEq, Repr

/-! ### Memory -/

/-- A memory stack and its controller. -/
structure StackSt where
  /-- HBM_STATUS[0], 1 bit; 15 R470, 14 R434; reset 0 -/
  trained : Bool := false
  /-- HBM_STATUS[1], 1 bit; 15 R470, 13 R404; reset 0 -/
  selfRefresh : Bool := false
  /-- HBM_STATUS[2], 1 bit; 15 R470, 13 R418; reset 0 -/
  dblRefresh : Bool := false
  /-- HBM_STATUS[3], 1 bit; 16 R486; reset 0 -/
  scrubbing : Bool := false
  /-- next line the idle scrub reads; 16 R486; reset DESIGN CHOICE 0, log 1 -/
  scrubLine : Nat := 0
  /-- HBM_TEMP, 10 bits; 15 R470; reset DESIGN CHOICE 0, log 1 -/
  temp : Nat := 0
  /-- threshold code kept by recentring, and the load class at which it was gathered; 13 R416, R417; reset DESIGN CHOICE 0, log 1 -/
  centre : Nat × Nat := (0, 0)
  /-- memory training data held; 08 R271, 14 R434; reset false -/
  trainData : Bool := false
deriving DecidableEq, Repr

/-- Device memory, beds and stacks. -/
structure MemSt where
  /-- device memory, one byte a cell, keyed by direct-window address below 0x90_0000_0000; 01 R12, R13; reset: nothing listed, reads 0 (DESIGN CHOICE, log 7) -/
  dev : Mem := {}
  /-- numbers of poisoned 64-byte lines; 08 R247, 16 R481; reset: none -/
  poison : List Nat := []
  /-- bits turned that nothing has read yet; 08 R247, 16 R480, R481; reset DESIGN CHOICE none, log 97 -/
  upsets : List Upset := []
  /-- the 12 stacks, keyed by stack; 01 R8; reset: each as StackSt -/
  stk : NMap StackSt := []
  /-- (die, 128-byte line) pairs held by the beds; 03 R69, 01 R9; reset: none -/
  bedLines : List (Nat × Nat) := []
  /-- bed scratch, keyed (context × 4 + die) × 2^26 + offset; 03 R79, 05 R137; reset: nothing listed, reads 0 (DESIGN CHOICE, log 7) -/
  scratch : Mem := {}
deriving DecidableEq, Repr

/-! ### Tiles -/

/-- Where an issued descriptor stands (R67, R68). -/
inductive Phase where
  | queued | started | done
deriving DecidableEq, Repr

/-- An issued descriptor. -/
structure Desc where
  /-- its place in the tile's issue order; 03 R66 -/
  seq : Nat
  /-- its store address; 03 R63, R71 -/
  addr : Nat
  /-- W0 to W15, copied at issue; 03 R63 -/
  w : List Word
  /-- waiting to start, started, or finished but not yet reported complete; 03 R67 -/
  phase : Phase := .queued
  /-- bytes or bursts already handled, for a FAB descriptor; 07 R219 -/
  prog : Nat := 0
  /-- place of a collective step in the job's issue order on this part; 07 R231 -/
  coll : Nat := 0
  /-- the 2,056 bytes of the activation table, read at start; 03 R81 -/
  tbl : List Byte := []
  /-- clock of the tile's course pair when the descriptor started; 03 R102 -/
  clk : Nat := 0
  /-- the tile stores when the descriptor started: a line written since then may be read as it was; 03 R62, R70 -/
  snap : Mem := {}
  /-- memory tags its requests hold: (stack, tags); 01 R15 -/
  tags : List (Nat × Nat) := []
  /-- the stack whose memory tags were all in use when a request was issued; 01 R15 -/
  wait : Option Nat := none
deriving DecidableEq, Repr

/-- A tile sequencer with its unit queues. -/
structure Seqr where
  /-- COURSE_TILE_PC, 21 bits; 15 R470; reset 0 -/
  pc : Nat := 0
  /-- COURSE_TILE_LAST, 21 bits; 15 R470; reset 0 -/
  last : Nat := 0
  /-- number of the next descriptor issued; 03 R66; reset 0 -/
  nextSeq : Nat := 0
  /-- issued descriptors not yet reported complete, in issue order; 03 R65 to R67; reset: none -/
  descs : List Desc := []
  /-- a descriptor that holds the sequencer: one bound for a full queue, or a SEM, BARRIER or EVENT; 03 R66; reset: none -/
  hold : Option Desc := none
  /-- the held descriptor has passed its header wait; 03 R93; reset false -/
  waited : Bool := false
  /-- an EVENT with step_end has been accepted: nothing more is issued in this step; 03 R99; reset false -/
  stepEnd : Bool := false
deriving DecidableEq, Repr

/-- A barrier generation that has opened and not released. -/
structure BarSt where
  /-- job context, 3 bits; 03 R97 -/
  ctx : Nat
  /-- scope; 03 R96 -/
  scope : BarScope
  /-- course or die number of the instance, 0 for part and job scope; 03 R97 -/
  inst : Nat
  /-- barrier 0–15; 03 R96 -/
  id : Nat
  /-- count fixed by the first arrival; 03 R97 -/
  count : Nat
  /-- tiles that have arrived; 03 R97 -/
  tiles : List Nat
deriving DecidableEq, Repr

/-- A course: test state and the state shared by its spin generators. -/
structure CourseSt where
  /-- COURSE_TEST_STATUS[0], 1 bit; 16 R483; reset 0 -/
  fenced : Bool := false
  /-- COURSE_TEST_STATUS[1], 1 bit; 16 R484; reset 0 -/
  bist : Bool := false
  /-- COURSE_TEST_STATUS[3:2], 2 bits; 16 R484; reset 0 -/
  bistResult : Nat := 0
  /-- seed S that the generators were last loaded with, 64 bits; 03 R101; reset 0 -/
  seed : Nat := 0
  /-- clocks the generators had advanced since that load when `spinSeen` was noted; 03 R102; reset 0 -/
  spinClk : Nat := 0
  /-- clock of the course pair when the generators were last loaded, stopped or set free; 03 R102, R103; reset 0 -/
  spinSeen : Nat := 0
deriving DecidableEq, Repr

/-- The 512 tiles. -/
structure TileSt where
  /-- tile stores, keyed tile × 2^21 + offset, offsets 0 to 0x13_FFFF; 03 R60; reset: nothing listed, reads 0 (DESIGN CHOICE, log 7) -/
  store : Mem := {}
  /-- semaphores, 16 bits each, keyed tile × 256 + index; 03 R72; reset DESIGN CHOICE 0, log 1 -/
  sem : NMap Nat := []
  /-- courses whose semaphores are undefined: free-value index + 1, keyed by course, 0 for defined; 08 R271; reset 0 -/
  semUndef : NMap Nat := []
  /-- vector registers, 32 bits each, keyed (tile × 32 + v) × 128 + lane; 03 R86; reset +0 -/
  vreg : NMap Word := []
  /-- sequencers and queues, keyed by tile; 03 R65, R66; reset: each as Seqr -/
  seqs : NMap Seqr := []
  /-- open barriers; 03 R97; reset: none -/
  bars : List BarSt := []
  /-- generations released by the job-scope barriers, keyed ctx × 16 + id; 07 R207; reset 0 -/
  barGen : NMap Nat := []
  /-- courses; 16 R483; reset: each as CourseSt -/
  courses : NMap CourseSt := []
  /-- consumptions of a lane in counted mode since the load, keyed 128 × tile + lane; 03 R103; reset 0 -/
  spinUse : NMap Nat := []
  /-- clocks that each course pair's domain has run, keyed by pair; 03 R102, 13 R405; reset 0 -/
  pairClk : NMap Nat := []
deriving DecidableEq, Repr

/-! ### Jobs -/

/-- The states of a job context, in register order (R343, R469). -/
inductive JState where
  | idle | loaded | running | draining | parked | tornDown
deriving DecidableEq, Repr

/-- A region table entry (R145). -/
structure Region where
  base : Nat
  len : Nat
  /-- perm byte: [0] rd, [1] wr, [2] rrd, [3] rwr, [4] shared -/
  perm : Nat
  kind : Nat
  /-- placed in the region table (R146, R156) -/
  placed : Bool
deriving DecidableEq, Repr

/-- A shard placement (R147). -/
structure Place where
  region : Nat
  stack : Nat
  records : Nat
  tensor : Nat
  first : Nat
deriving DecidableEq, Repr

/-- What the loader keeps of a manifest (R143, R144, R151). -/
structure Manifest where
  /-- model_id, 64 bits; 05 R143 -/
  modelId : Nat := 0
  /-- kind, 8 bits; 05 R143 -/
  kind : Nat := 0
  /-- flags, 8 bits: [0] resident_map, [1] counted_mode, [2] exclusive, [3] trail_export; 05 R143 -/
  flags : Nat := 0
  /-- course_mask, 32 bits; 05 R136 -/
  courseMask : Nat := 0
  /-- bed_ways, byte d for die d; 05 R143 -/
  bedWays : Nat := 0
  /-- fab_credits, 16 bits; 05 R143 -/
  fabCredits : Nat := 0
  /-- post_slots, 16 bits; 05 R143 -/
  postSlots : Nat := 0
  /-- stream_ctx, 32 bits; 05 R143 -/
  streamCtx : Nat := 0
  /-- trail_mbps, 32 bits; 05 R143 -/
  trailMbps : Nat := 0
  /-- region table in section 0 order; 05 R145 -/
  regions : List Region := []
  /-- shard placements in section 1 order; 05 R147 -/
  places : List Place := []
  /-- semaphore initial values, keyed job tile × 256 + index; 03 R73, 05 R147 -/
  semInit : NMap Nat := []
  /-- keep of each section 4 entry, in order; 05 R156 -/
  keep : List Bool := []
  /-- keep_map_addr, 32 bits; 05 R143 -/
  keepAddr : Nat := 0
  /-- collective table entries, 64 bytes each; 07 R227 -/
  colls : List (List Byte) := []
deriving DecidableEq, Repr

/-- Where the boundary of a step stands (R352). -/
inductive BPhase where
  | none | drain | awaitPosted | awaitTick | awaitVerdict | sweeping | digests | gate | awaitRelease
deriving DecidableEq, Repr

/-- Snowplough modes (R258). -/
inductive Plough where
  | finish | abort
deriving DecidableEq, Repr

/-- The boundary of one step of a job. -/
structure Boundary where
  /-- the action the boundary stands at; 11 R352; reset none -/
  phase : BPhase := .none
  /-- timebase at drain start; 11 R355; reset 0 -/
  t0 : Nat := 0
  /-- drain_us; 11 R355; reset 0 -/
  drainUs : Nat := 0
  /-- the local check passed; 11 R351; reset true -/
  localOk : Bool := true
  /-- fail_cause, 8 bits; 11 R355; reset 0 -/
  failCause : Nat := 0
  /-- this part raised BOUNDARY_VIOLATION in this boundary; 11 R354; reset false -/
  violated : Bool := false
  /-- the overflow verdict; 06 R167, R168; reset false -/
  overflow : Bool := false
  /-- park_cause that action 8 has set, 0 for none; 11 R355; reset 0 -/
  park : Nat := 0
  /-- parked at action 8: resumption takes the actions again from the overflow verdict; 06 R166; reset false -/
  retake : Bool := false
  /-- diverged shards counted by the digest comparison; 06 R181; reset 0 -/
  diverged : Nat := 0
  /-- abort plough: the digest exchange awaits only the triples of R259 action 6; 08 R259; reset false -/
  aborting : Bool := false
  /-- tails of the job's POST rings when the drain started, keyed by die; 04 R134, 11 R349; reset 0 -/
  postTail : NMap Nat := []
deriving DecidableEq, Repr

/-- Per-epoch counts of posted bursts (R222). -/
structure Epoch where
  issued : Nat := 0
  done : Nat := 0
  late : Nat := 0
deriving DecidableEq, Repr

/-- A posted burst in flight (R218, R219, R221). -/
structure Burst where
  tag : Nat
  step : Nat
  /-- 0 tile put, 1 trail or snapshot mover, 2 trowel peer write -/
  source : Nat
  /-- tile of source 0; sink of source 1 -/
  tile : Nat
  /-- issue number of its FAB descriptor, for source 0; for source 1: 0 data, 1 a producer count, 2 + step a producer
  count that completes the sequence of that step -/
  seq : Nat
  /-- packed physical coordinates of the target -/
  dst : Nat
  addr : Nat
  bytes : Nat
deriving DecidableEq, Repr

/-- An outstanding READ_REQ of a get (R218, R223). -/
structure GetReq where
  tag : Nat
  tile : Nat
  seq : Nat
  dst : Nat
  /-- local destination: tile store (true) or device memory -/
  toStore : Bool
  laddr : Nat
  /-- bytes requested and bytes received so far -/
  bytes : Nat
  got : Nat
deriving DecidableEq, Repr

/-- A READ_REQ that the part has made for a job on a tag of device firmware (R187, R188, R218). -/
structure FwRead where
  tag : Nat
  /-- packed physical coordinates of the target -/
  dst : Nat
  /-- 0, 1, 2: the control area of a sink; 3: the source of a trowel command -/
  what : Nat
  /-- id of that command -/
  cmd : Nat
  /-- bytes received, and the bytes themselves as they stand -/
  got : Nat
  buf : List Byte
  /-- READ_NAK has come: the tag is free -/
  nak : Bool := false
deriving DecidableEq, Repr

/-- A burst that is arriving at this part (R219, R220). -/
structure RxSt where
  /-- packed physical coordinates of the source -/
  src : Nat
  tag : Nat
  step : Nat
  /-- address of the burst's first byte -/
  base : Nat
  /-- bytes of the packets that have arrived -/
  got : Nat := 0
  /-- a packet has failed the check: the rest are discarded -/
  refused : Bool := false
  /-- burst bytes ÷ 64 rounded up, once WRITE_LAST has arrived -/
  units : Option Nat := none
  /-- its remote signal: tile, semaphore, value -/
  sig : Option (Nat × Nat × Nat) := none
deriving DecidableEq, Repr

/-- A running collective instance (R231). -/
structure CollInst where
  /-- coll_id and coll_step -/
  id : Nat
  step : Nat
  /-- tile and issue number of its FAB descriptor -/
  tile : Nat
  seq : Nat
  /-- (phase, offset in the part's working buffer, bytes) still to be received -/
  pend : List (Nat × Nat × Nat)
  /-- the part's working values: the chunks of the segment in rank order, or the segment of a ring shift -/
  buf : List Byte
deriving DecidableEq, Repr

/-- A control reduction in progress on this part (R225, R207). -/
structure RedSt where
  cls : RedClass
  /-- barrier id; 0 for the other classes -/
  id : Nat
  /-- the seq field expected -/
  seq : Nat
  /-- the part's own word, once contributed -/
  own : Option Dword := none
  /-- words received from child parts: (packed logical coordinates, word) -/
  kids : List (Nat × Dword) := []
  /-- the final result, once known -/
  result : Option Dword := none
deriving DecidableEq, Repr

/-- Fabric side of a job context. -/
structure JobFab where
  /-- bursts issued, done, late, keyed by step; 07 R222; reset 0 -/
  epochs : NMap Epoch := []
  /-- bursts in flight, oldest first; 07 R218; reset: none -/
  bursts : List Burst := []
  /-- gets in flight; 07 R223; reset: none -/
  gets : List GetReq := []
  /-- reads that device firmware has in flight for the job; 06 R187, R188, 07 R218; reset: none -/
  reads : List FwRead := []
  /-- collective instances running; 07 R231; reset: none -/
  insts : List CollInst := []
  /-- COLL packets that wait for their instance or phase: (phase, offset, packet); 07 R231; reset: none -/
  collHeld : List (Nat × Nat × Packet) := []
  /-- control reductions in progress; 07 R225; reset: none -/
  reds : List RedSt := []
  /-- reduction packets held for later: (port, packet); 07 R207; reset: none -/
  held : List (Nat × Packet) := []
  /-- late-error queue, records of 32 bytes, at most 256; 07 R221; reset: empty -/
  late : List (List Byte) := []
  /-- its overflow count, 32 bits; 07 R221; reset 0 -/
  lateOvf : Nat := 0
  /-- the step overflow flag of the current epoch; 06 R167; reset 0 -/
  ovf : Bool := false
  /-- collective steps issued since admission; 07 R231; reset 0 -/
  collNext : Nat := 0
  /-- the epoch closed by an abort: responses for it are discarded; 08 R259; reset: none -/
  closed : Option Nat := none
deriving DecidableEq, Repr

/-- A trowel command with its outcome so far (R183, R185). -/
structure TrwCmd where
  /-- place in the job's order of commands -/
  id : Nat
  /-- op of R184 -/
  op : Nat
  /-- W0 to W7; all 0 for a command of the part -/
  w : List Word
  /-- host command: ends with a completion record -/
  host : Bool
  /-- stacks whose trowel has not ended it -/
  todo : List Nat
  /-- records done over all stacks -/
  done : Nat := 0
  /-- failures: (stack, stack record index, result) -/
  fails : List (Nat × Nat × Nat) := []
  /-- next record to work on, keyed by stack -/
  pos : NMap Nat := []
  /-- stacks whose trowel has started it; 06 R173 -/
  begun : List Nat := []
  /-- bytes read so far from a source in a peer part; 06 R183, R188 -/
  src : List Byte := []
deriving DecidableEq, Repr

/-- A sink's place (R469): base, ring length L, in a peer part, peer coordinates (packed logical). -/
structure SinkCfg where
  base : Nat := 0
  len : Nat := 0
  peer : Bool := false
  coords : Nat := 0
deriving DecidableEq, Repr

/-- A sink ring as the part last read it (R186, R187). -/
structure SinkSt where
  /-- producer and consumer counts, 64 bits each; 06 R186; reset 0 -/
  prod : Nat := 0
  /-- consumer count; 06 R186; reset 0 -/
  cons : Nat := 0
  /-- the control area was found invalid; 06 R187; reset false -/
  invalid : Bool := false
  /-- the area has been read since the sink became live; 06 R187; reset false -/
  known : Bool := false
  /-- bytes sent to a peer sink past its producer count, still held by the mover; 06 R186, R190; reset 0 -/
  ahead : Nat := 0
  /-- step of the last CLOSE record among them, plus 1, 0 for none; 08 R262; reset 0 -/
  closeTo : Nat := 0
deriving DecidableEq, Repr

/-- Training side of a job context. -/
structure JobTrn where
  /-- trowel commands not ended, oldest first; 06 R183; reset: none -/
  cmds : List TrwCmd := []
  /-- commands numbered so far; 06 R183; reset 0 -/
  nextCmd : Nat := 0
  /-- the header checks of this boundary's sweep have passed; 06 R169; reset false -/
  checked : Bool := false
  /-- stacks whose sweep waits for staging room; 06 R190; reset: none -/
  noRoom : List Nat := []
  /-- CRC-32C inputs so far: bytes of the step sequence being written to staging; 06 R192; reset: none -/
  seqBytes : List Byte := []
  /-- the scalar block as read when the boundary check passed; 06 R165; reset: empty -/
  block : List Byte := []
  /-- records of the step sequence that wait for room in the staging ring, in order; 06 R186, R190; reset: none -/
  stageOut : List (List Byte) := []
  /-- SHARD_GRAD records held by trowels ahead of their turn in the sequence: (stack, record index, bytes); 06 R193; reset: none -/
  grads : List (Nat × Nat × List Byte) := []
  /-- (tensor_id, shard_index, digest) of the records this sweep wrote; 06 R180; reset: none -/
  triples : List (Nat × Nat × Nat) := []
  /-- triples that have arrived from peers, with the step of their packet; 06 R180; reset: none -/
  arrived : List (Nat × DigestTriple) := []
  /-- base image bytes handed to the mover and not yet written; 06 R195; reset: none -/
  baseOut : List Byte := []
  /-- snapshot bytes handed to the mover and not yet written; 06 R198; reset: none -/
  snapOut : List Byte := []
  /-- bytes of the BASE and SNAP sequences so far, for their CRCs; 06 R192; reset: none -/
  baseSeq : List Byte := []
  /-- bytes of the SNAP sequence so far; 06 R192; reset: none -/
  snapSeq : List Byte := []
  /-- step of the base image being written, then base_step in the sink, 32 bits; 08 R262; reset 0xFFFF_FFFF -/
  baseStep : Nat := 0xFFFFFFFF
  /-- label of the base image in progress; 06 R195; reset 0 -/
  baseLabel : Nat := 0
  /-- label of the snapshot in progress; 06 R198; reset 0 -/
  snapLabel : Nat := 0
  /-- JOB_CTX_TRAIL_STEP, 32 bits; 08 R262; reset 0 -/
  trailStep : Nat := 0
  /-- last step swept or skipped on this part; 08 R262; reset DESIGN CHOICE 0, log 1 -/
  committed : Nat := 0
  /-- trail, base and snapshot sinks, keyed 0, 1, 2; 06 R187; reset: each as SinkSt -/
  sinks : NMap SinkSt := []
  /-- a snapshot has been requested; 06 R198; reset false -/
  snapReq : Bool := false
  /-- the sink that the request names; 06 R198; reset: none -/
  snapNext : SinkCfg := {}
  /-- a snapshot is being exported; 06 R198; reset false -/
  snapping : Bool := false
  /-- its sink; 06 R198; reset: none -/
  snapSink : SinkCfg := {}
  /-- a base image is being exported; 06 R195; reset false -/
  basing : Bool := false
deriving DecidableEq, Repr

/-- An entry to be written to an event queue (R457). -/
structure Ev where
  code : Nat
  /-- job context, or 0xFF -/
  ctx : Nat
  time : Nat
  /-- the 48 body bytes -/
  body : List Byte
  /-- signal the queue's interrupt source -/
  irq : Bool
  /-- also held in the retention log -/
  ret : Bool := false
  /-- an EVENT descriptor of this tile waits for the entry -/
  tile : Option Nat := none
deriving DecidableEq, Repr

/-- An event queue (R457). Base and slots are registers (R467, R469). -/
structure EvQ where
  /-- producer index, 32 bits; 15 R457; reset 0 -/
  prod : Nat := 0
  /-- consumer index, 32 bits; 15 R455; reset 0 -/
  cons : Nat := 0
  /-- entries written since the base was set, 32 bits; 15 R457; reset 0 -/
  seq : Nat := 0
  /-- phase bit; 15 R457; reset 1 -/
  phase : Bool := true
  /-- entries that wait for room; 15 R457; reset: none -/
  waiting : List Ev := []
deriving DecidableEq, Repr

/-- A job context (R343). -/
structure JobCtx where
  /-- JOB_CTX_STATE[2:0]; 11 R343; reset IDLE -/
  state : JState := .idle
  /-- the live manifest; 05 R151; reset: empty -/
  man : Manifest := {}
  /-- JOB_CTX_STATE[8], a step is in progress; 15 R469; reset 0 -/
  stepIn : Bool := false
  /-- JOB_CTX_STEP, 32 bits; 15 R469; reset 0 -/
  step : Nat := 0
  /-- the first step after a start or resume is still to be admitted; 11 R345; reset false -/
  fresh : Bool := false
  /-- step credits, 16 bits; 11 R346; reset 0 -/
  credit : Nat := 0
  /-- credit overflow; 11 R346; reset 0 -/
  creditOvf : Bool := false
  /-- has entered RUNNING since its load; 11 R361; reset false -/
  ran : Bool := false
  /-- the start reduction has not completed; 11 R348; reset false -/
  startWait : Bool := false
  /-- count of starts and resumes, 16 bits; 07 R207; reset 0 -/
  starts : Nat := 0
  /-- JOB_CTX_STATE[11], preempt pending; 11 R356; reset 0 -/
  preempt : Bool := false
  /-- the snowplough running for the job; 08 R258; reset: none -/
  plough : Option Plough := none
  /-- its cause, 4 bits; 08 R262; reset 0 -/
  ploughCause : Nat := 0
  /-- the boundary of its step; 11 R352; reset: as Boundary -/
  bnd : Boundary := {}
  /-- fabric side; 07; reset: as JobFab -/
  fab : JobFab := {}
  /-- training side; 06; reset: as JobTrn -/
  trn : JobTrn := {}
  /-- event queue; 15 R457; reset: as EvQ -/
  evq : EvQ := {}
  /-- JOB_CTX_TRWQ_HEAD, 16 bits; 15 R469; reset 0 -/
  trwHead : Nat := 0
  /-- guard faults suppressed since the one reported; 05 R155; reset 0 -/
  suppressed : Nat := 0
deriving DecidableEq, Repr

/-- A buffer pool (R363). -/
structure Pool where
  /-- JOB_POOLp_CFG[31]; 15 R469; reset 0 -/
  enable : Bool := false
  /-- owning context, 3 bits; 15 R469; reset 0 -/
  owner : Nat := 0
  /-- dropped gives, 13 bits, saturating; 15 R469; reset 0 -/
  dropped : Nat := 0
  /-- entries of 32 bits, oldest first, at most 1,024; 11 R363; reset: none -/
  entries : List Word := []
deriving DecidableEq, Repr

/-- The JOB page and the contexts. -/
structure JobSt where
  /-- the 8 contexts; 11 R343; reset: each IDLE -/
  ctxs : NMap JobCtx := []
  /-- loads accepted and not yet checked: (image address, image bytes), oldest first, at most 8; 15 R469; reset: none -/
  loads : List (Nat × Nat) := []
  /-- JOB_RESULT without busy, 32 bits; 15 R469; reset 0 -/
  result : Word := 0
  /-- JOB_RESULT_INDEX, 32 bits; 15 R469; reset 0 -/
  resultIndex : Nat := 0
  /-- context the scheduler last admitted; 11 R347; reset DESIGN CHOICE 7, so that the first scan starts at context 0, log 1 -/
  lastAdmit : Nat := 7
  /-- buffer pools 0–15; 11 R363; reset: each as Pool -/
  pools : NMap Pool := []
  /-- contexts whose vector registers a course last held, keyed by course, 8 for none; 05 R137; reset 8 -/
  courseCtx : NMap Nat := []
  /-- the context whose device-memory sealed ranges await zeroing after teardown; 12 R389; reset: none -/
  zeroing : List (Nat × List (Nat × Nat)) := []
deriving DecidableEq, Repr

/-! ### Fabric -/

/-- Link training states, in register order (R239, R471). -/
inductive LState where
  | detect | equalise | align | ident | credit | up
deriving DecidableEq, Repr

/-- A packet that waits for an output port. -/
structure QPkt where
  p : Packet
  /-- it continues along the axis it arrived on (R210) -/
  cont : Bool := false
  /-- port and VC of the input buffer that holds it; none for a packet of this part (R210) -/
  inp : Option (Nat × Nat) := none
deriving DecidableEq, Repr

/-- A fabric port. -/
structure Link where
  /-- SLNK_STATE[2:0]; 07 R239; reset DETECT -/
  state : LState := .detect
  /-- SLNK_STATE[3], out of service; 15 R471; reset 0 -/
  out : Bool := false
  /-- SLNK_STATE[5:4]: 0 ×8, 1 lanes 0–3, 2 lanes 4–7; 07 R241; reset 0 -/
  lanes : Nat := 0
  /-- SLNK_STATE[6], PRBS running; 16 R485; reset 0 -/
  prbs : Bool := false
  /-- SLNK_PEER[14:0], coordinates of the peer; 15 R471; reset 0 -/
  peer : Nat := 0
  /-- SLNK_PEER[18:15], peer port; 15 R471; reset 0 -/
  peerPort : Nat := 0
  /-- system tag the peer's identity record gave, 32 bits; 07 R204; reset 0 -/
  tag : Word := 0
  /-- credits held for each VC, flits; 07 R210; reset 0 -/
  credits : NMap Nat := []
  /-- packets waiting for this port, oldest first; 07 R209, R210; reset: none -/
  queue : List QPkt := []
  /-- flits held in the port's input buffers, keyed by VC, at most 96 each; 07 R210; reset 0 -/
  inUse : NMap Nat := []
  /-- replay buffer: the packets started in the last 4 µs of traffic, with the time each started, oldest first; 07 R240; reset: none -/
  replay : List (Packet × Nat) := []
  /-- lanes that have failed since the link last trained at ×8, bit per lane; 07 R241; reset 0 -/
  bad : Nat := 0
  /-- the two ends retrain the link by agreement; 07 R241, 08 R254; reset false -/
  agreed : Bool := false
  /-- PAGE_CTRL.soft_rst of its page: a restart by the host has not ended; 14 R430; reset 0 -/
  softRst : Bool := false
  /-- the link left service while it was UP: it trains again when the far end answers; 07 R243; reset false -/
  lost : Bool := false
  /-- VC 5 was served last of VC 5 and VCs 0–3; 07 R209; reset false -/
  lastColl : Bool := false
  /-- the request VC served last; 07 R209; reset 3 (DESIGN CHOICE, log 1) -/
  lastReq : Nat := 3
  /-- sequence number of the next heartbeat, 16 bits; 08 R253; reset 0 (DESIGN CHOICE, log 1) -/
  hbSeq : Nat := 0
  /-- sequence number of the next TIME packet, 16 bits; 07 R237; reset 0 (DESIGN CHOICE, log 1) -/
  timeSeq : Nat := 0
  /-- own t_send of the last TIME packet on the port, 64 bits; 07 R237; reset 0 -/
  tSent : Nat := 0
  /-- t_send of the last TIME packet received, 64 bits; 07 R237; reset 0 -/
  tEcho : Nat := 0
  /-- timebase when it arrived, 64 bits; 07 R237; reset 0 -/
  tRecv : Nat := 0
  /-- measured link delay, ns; 07 R237; reset 0 -/
  delay : Nat := 0
  /-- hops value the neighbour last reported; 07 R237; reset 0xFF -/
  hops : Nat := 0xFF
  /-- equalisation codes and the load class at which they were gathered, keyed by lane; 13 R416, R417; reset DESIGN CHOICE 0, log 1 -/
  taps : NMap (Nat × Nat) := []
deriving DecidableEq, Repr

/-- A verdict reduction that a torn-down job's part still carries (R225, R354). -/
structure Orphan where
  fabricJob : Nat
  step : Nat
  /-- packed physical coordinates of the next part up the tree; none at the root -/
  parent : Option Nat
  /-- packed physical coordinates of the parts below -/
  kids : List Nat
  /-- those whose word has arrived -/
  heard : List Nat
  /-- the words combined so far -/
  word : Dword
deriving DecidableEq, Repr

/-- The switchback. -/
structure FabSt where
  /-- the twelve ports; 07 R201; reset: each as Link -/
  links : NMap Link := []
  /-- absent table: (coordinates, cause), at most 64, oldest first; 08 R255; reset: empty -/
  absent : List (Nat × Nat) := []
  /-- key cache of forwarded notices: (kind, bytes 0–1, byte 4 of a plough notice, time), at most 256; 08 R256; reset: empty -/
  keys : List (Nat × Nat × Nat × Nat) := []
  /-- fabric tags in use: (tag, context, 8 for device firmware); 07 R218; reset: none -/
  tags : List (Nat × Nat) := []
  /-- the fabric timebase, ns, 64 bits; 07 R236; reset 0 (DESIGN CHOICE, log 1) -/
  time : Nat := 0
  /-- SFAB_TIME_STATUS[0]; 15 R471; reset 0 -/
  locked : Bool := false
  /-- SFAB_TIME_STATUS[1]; 15 R471; reset 0 -/
  holdover : Bool := false
  /-- SFAB_TIME_STATUS[5:2], port followed; 15 R471; reset 0 -/
  follow : Nat := 0
  /-- SFAB_TIME_STATUS[15:8], hops to the master; 15 R471; reset 0 -/
  hops : Nat := 0
  /-- slew left to apply, ns, towards the followed neighbour; 07 R236; reset 0 -/
  slew : Int := 0
  /-- AON cycles since the timebase was last slewed, at most 125; 07 R236; reset 0 -/
  slewWait : Nat := 0
  /-- the timebase was set by the host since the last warm or cold reset; 15 R471; reset false -/
  timeWasSet : Bool := false
  /-- bursts arriving at this part; 07 R219, R220; reset: none -/
  rx : List RxSt := []
  /-- verdict reductions of jobs torn down by a BOUNDARY_VIOLATION; 07 R225, 11 R354; reset: none -/
  orphans : List Orphan := []
deriving DecidableEq, Repr

/-! ### Training engines -/

/-- A trowel's visible state. -/
structure Trowel where
  /-- TRW_SWEEP_CTRL[0]; 15 R470; reset 0 -/
  sweeping : Bool := false
  /-- TRW_SWEEP_CTRL[3:1]; 15 R470; reset 0 -/
  ctx : Nat := 0
  /-- TRW_SWEEP_CTRL[4], ZERO running; 15 R470; reset 0 -/
  zero : Bool := false
  /-- TRW_STATUS[1:0], fraction code; 15 R470, 13 R418; reset 0 -/
  frac : Nat := 0
  /-- TRW_RECORD, record index being processed; 15 R470; reset 0 -/
  record : Nat := 0
deriving DecidableEq, Repr

/-! ### Rink and POST -/

/-- A picture as the model knows it: mid-grey; what a decoder forms of the last access unit of a stream, with the units
concealed, as (unit, first block), the picture that stands in for missing references, and the one that concealed samples
are copied from (R292, R293); or a DPX image of a width, with 3 components or 1, whose missing rows are copied (R276). -/
inductive Pic where
  | grey
  | dec (stream : List (List Byte × Finding)) (concealed : List (Nat × Nat)) (repl from_ : Pic)
  | dpx (bytes : List Byte) (w : Nat) (rgb whole : Bool) (from_ : Pic)
deriving DecidableEq, Repr

/-- A reconstruction of the encoder: flat (R325), or that of the stream's picture `n` coded at QP `q`. -/
inductive EncPic where
  | flat
  | coded (n q : Nat)
deriving DecidableEq, Repr

/-- What firmware keeps for one stream context beside bytes 0x00–0x3F of its entry (R281, R318, R323 to R334). -/
structure Strm where
  /-- opened on the encode ring; 10 R318; reset false -/
  enc : Bool := false
  /-- most recent good frame; 09 R292; reset mid-grey -/
  good : Pic := .grey
  /-- most recent frame decoded; 09 R293; reset mid-grey -/
  prev : Pic := .grey
  /-- the OPEN descriptor, 128 bytes; 09 R286, 10 R320; reset: none -/
  open_ : List Byte := []
  /-- audio configuration or FFV1 tables given at OPEN; 09 R286; reset: none -/
  config : List Byte := []
  /-- access units decoded since the references were emptied, with what was found in each; 09 R19, R293, R309; reset: none -/
  units : List (List Byte × Finding) := []
  /-- `frames` value at which the references were emptied; 09 R293, R309; reset 0 -/
  base : Nat := 0
  /-- the next access unit finds the references emptied; 09 R309; reset false -/
  emptied : Bool := false
  /-- `frames` value of a CRA at which taint ended; 09 R294; reset: none -/
  cra : Option Nat := none
  /-- pictures coded since OPEN, as descriptor bytes and sample codes; 10 R316; reset: none -/
  pics : List (List Byte × List Nat) := []
  /-- reconstructions of the previous pictures, the latest first, at most two; 10 R329; reset: none -/
  short : List EncPic := []
  /-- reconstructions in the long-term slots, where marked; 10 R330; reset flat -/
  long : NMap EncPic := []
  /-- picture at which the last buffering period began; 10 R324; reset 0 -/
  period : Nat := 0
  /-- address and bytes left after the last access unit written; 10 R319; reset 0 -/
  tail : Nat × Nat := (0, 0)
  /-- model fullness F, bits; 10 R323; reset 0 -/
  full : Nat := 0
  /-- pictures coded since OPEN; 10 R321; reset 0 -/
  count : Nat := 0
  /-- the deferred state; 10 R326; reset false -/
  deferred : Bool := false
  /-- long-term slots 0–3: 0 empty, 1 clean, 2 dirty; 10 R330, R332; reset 0 -/
  ltr : NMap Nat := []
  /-- the refresh cycle's next step; 10 R331; reset: none -/
  cycle : Option Nat := none
deriving DecidableEq, Repr

/-- What is known of an access unit once it is decoded (R290 to R294). -/
structure Judged where
  damage : List Damage
  missing : Bool
  /-- the frame is tainted, and whether the stream stays so after it -/
  tainted : Bool
  stays : Bool
  /-- the CRA whose leading pictures stay tainted -/
  cra : Option Nat
  /-- the stream has a last good frame -/
  good : Bool
deriving DecidableEq, Repr

/-- Where a Rink descriptor stands. -/
inductive RPhase where
  | taken | decoding | decoded | shaping | encoding | coded
deriving DecidableEq, Repr

/-- A descriptor that Rink has taken from a ring and not completed (R284, R317). -/
structure RTask where
  ctx : Nat
  /-- from the encode ring -/
  enc : Bool
  slot : Nat
  /-- the 128 bytes read from the slot -/
  d : List Byte
  phase : RPhase := .taken
  /-- the unit that holds it -/
  unit : Option MediaUnit := none
  /-- the planes go to raw_addr: status HOST_SHAPE (R308) -/
  hostShape : Bool := false
  /-- the decoded picture -/
  pic : Pic := .grey
  /-- width, height, chroma, depth of the picture -/
  geom : Nat × Nat × Nat × Nat := (0, 0, 0, 0)
  /-- coded bytes, and what the decoder found in them -/
  coded : List Byte := []
  found : Option (Finding × Judged) := none
  /-- error records to write -/
  recs : List (List Byte) := []
  /-- decoder that formed the picture -/
  dec : Option MediaUnit := none
  /-- cflags gathered so far (R287, R321) -/
  cflags : Nat := 0
  errors : Nat := 0
  /-- the context's count for this access unit (R287) -/
  frame : Nat := 0
  /-- encode: bits of the picture kept, QP, attempts so far -/
  bits : Nat := 0
  qp : Nat := 0
  attempts : Nat := 0
  /-- encode: sample codes of the input picture, and whether an input value was a NaN -/
  codes : List Nat := []
  nan : Bool := false
  /-- encode: the picture's coded bytes -/
  out : List Byte := []
deriving DecidableEq, Repr

/-- A media unit (R471, R487). -/
structure RUnit where
  /-- STATUS[22], out of service; 16 R487; reset 0 -/
  out : Bool := false
  /-- command 1 has been given while the unit holds work; 16 R487; reset false -/
  leaving : Bool := false
  /-- TEST_STATUS[2]; 15 R471; reset 0 -/
  testing : Bool := false
  /-- TEST_STATUS[1:0]; 15 R471; reset 0 -/
  result : Nat := 0
  /-- FRACTION[1:0]; 15 R471; reset 0 -/
  frac : Nat := 0
deriving DecidableEq, Repr

/-- Rink. -/
structure RinkSt where
  /-- hardware context table, keyed ctx × 2^18 + stream: entry number + 1, 0 for none; 09 R280; reset 0 -/
  table : NMap Nat := []
  /-- firmware state of the entries, keyed by entry; 09 R281; reset: each as Strm -/
  strm : NMap Strm := []
  /-- descriptors taken and not completed, in the order taken; 09 R284; reset: none -/
  tasks : List RTask := []
  /-- slots of a ring completed ahead of the head, (ctx × 2 + ring, slot); 09 R288; reset: none -/
  ahead : List (Nat × Nat) := []
  /-- tail of a ring as last read, keyed ctx × 2 + ring; 09 R283, R284; reset 0 -/
  tails : NMap Nat := []
  /-- context served last, keyed 0 ingest rings, 1 encode rings; 09 R284, 10 R317; reset DESIGN CHOICE 7, log 1 -/
  turn : NMap Nat := []
  /-- head of a ring as Rink holds it, keyed ctx × 2 + ring (0 ingest, 1 encode); 09 R283, R288; reset 0 -/
  next : NMap Nat := []
  /-- media units, keyed by unit code × 16 + instance; 09 R272; reset: each as RUnit -/
  units : NMap RUnit := []
  /-- media error queues of the contexts, records of 32 bytes, at most 256; 09 R290; reset: empty -/
  merr : NMap (List (List Byte)) := []
  /-- their overflow counts, keyed by context; 09 R290; reset 0 -/
  merrOvf : NMap Nat := []
  /-- class spilling, keyed 0 VDEC, 1 IDEC, 2 ADEC, 3 SHAP; 09 R308; reset false -/
  spill : NMap Bool := []
deriving DecidableEq, Repr

/-- A command that a POST unit runs (R126, R133). -/
structure PostRun where
  ctx : Nat
  slot : Nat
  /-- W0 to W15 -/
  w : List Word
  /-- the records, W14 and W15 that completion writes, once computed -/
  result : Option (List (List Byte) × Nat × Nat) := none
deriving DecidableEq, Repr

/-- The POST units. -/
structure PostSt where
  /-- POST_RING_BASE, 64 bits, keyed die × 8 + ctx; 15 R470; reset 0 -/
  base : NMap Nat := []
  /-- POST_RING_SLOTS, keyed die × 8 + ctx; 15 R470; reset 0 -/
  slots : NMap Nat := []
  /-- the running command, keyed by die; 04 R126; reset: none -/
  run : NMap (Option PostRun) := []
  /-- context served last, keyed by die; 04 R126; reset DESIGN CHOICE 7, log 1 -/
  rr : NMap Nat := []
deriving DecidableEq, Repr

/-! ### Host interface, configuration, telemetry -/

/-- A host DMA channel (R454). -/
structure DmaChan where
  /-- HOST_DMA_HEAD, 32 bits; 15 R467; reset 0 -/
  head : Nat := 0
  /-- producer tail from the doorbell; 15 R455; reset 0 -/
  tail : Nat := 0
  /-- the descriptor being worked on, 32 bytes, with the status it will complete with; 15 R454; reset: none -/
  cur : Option (List Byte × Nat) := none
deriving DecidableEq, Repr

/-- The firmware window (R467). -/
structure FwWin where
  /-- HOST_FW_STATUS[3:0]; 15 R467; reset 0 -/
  state : Nat := 0
  /-- HOST_FW_STATUS[7:4]; 15 R467; reset 0 -/
  result : Nat := 0
  /-- owning requester; 15 R467; reset 0 -/
  owner : Nat := 0
  /-- target copy, used in RECOVERY; 15 R467; reset 0 -/
  target : Bool := false
  /-- staging buffer, 4 MiB; 15 R467; reset: nothing listed, reads 0 (DESIGN CHOICE, log 7) -/
  buf : Mem := {}
  /-- the copy found in the buffer by the commit under way; 14 R438; reset: none -/
  found : Option FwCopy := none
deriving DecidableEq, Repr

/-- ACCESS_ERR of a page (R461). -/
structure AccErr where
  cause : Nat := 0
  requester : Nat := 0
  count : Nat := 0
  offset : Nat := 0
deriving DecidableEq, Repr

/-- The host interface and the page headers. -/
structure HostSt where
  /-- plain RW registers, 32 bits each, keyed by BAR0 offset; 15 R465 to R471; reset: the value of the register tables -/
  regs : NMap Word := []
  /-- low words written and held for RW pairs, keyed requester × 2^20 + offset; 15 R462; reset: none -/
  lows : NMap (Option Word) := []
  /-- high words latched by counter reads, keyed requester × 2^20 + offset; 15 R462; reset 0 -/
  latch : NMap Word := []
  /-- ACCESS_ERR, keyed by page base; 15 R461; reset 0 -/
  acc : NMap AccErr := []
  /-- IRQ_STATUS, 32 bits, keyed by page base; 15 R461; reset 0 -/
  irqStatus : NMap Word := []
  /-- IRQ_ENABLE, 32 bits, keyed by page base; 15 R461; reset 0 -/
  irqEnable : NMap Word := []
  /-- HOST_BAR4_ERR, 64 bits; 15 R467; reset 0 -/
  bar4Err : Nat := 0
  /-- an access refused under R453 has been captured since ACCESS_ERR of HOST was read; 15 R467; reset false -/
  bar4ErrHeld : Bool := false
  /-- log2 of the BAR4 size; 15 R452; reset 36 -/
  bar4Log : Nat := 36
  /-- D3hot; 15 R451; reset false -/
  d3 : Bool := false
  /-- the PCIe link is lost; 14 R428; reset false -/
  linkLost : Bool := false
  /-- DMA channels; 15 R454; reset: each as DmaChan -/
  dma : NMap DmaChan := []
  /-- part event queue; 15 R457; reset: as EvQ -/
  evq : EvQ := {}
  /-- HOST_EVQ_LOST, 32 bits, saturating; 15 R467; reset 0 -/
  evqLost : Nat := 0
  /-- firmware window; 15 R467; reset: as FwWin -/
  fw : FwWin := {}
  /-- MSI-X vectors masked, keyed by vector; 15 R458; reset PRESUMED masked (PCI Express), log 24 -/
  msixOpen : NMap Bool := []
  /-- MSI-X pending bits, keyed by vector; 15 R458; reset 0 -/
  msixPend : NMap Bool := []
  /-- MSI-X table words (address, data), keyed by BAR2 offset; 15 R452; reset 0 -/
  msixTbl : NMap Word := []
  /-- MCTP endpoint ID, keyed by path (0 PCIe VDM, 1 I3C); 15 R459; reset DESIGN CHOICE 0, log 1 -/
  eid : NMap Nat := []
  /-- I3C dynamic address, 7 bits; 15 R460; reset: none -/
  i3cAddr : Option (BitVec 7) := none
  /-- last BAR0 offset written over I3C; 15 R460; reset DESIGN CHOICE 0, log 1 -/
  i3cOff : Nat := 0
deriving DecidableEq, Repr

/-- The configuration store and stage, check and apply. -/
structure CfgSt where
  /-- live values of ST registers, keyed by BAR0 offset; 00 R6; reset: the value of the register tables -/
  live : NMap Word := []
  /-- shadows of ST registers, keyed by BAR0 offset; 00 R6; reset: the value of the register tables -/
  shadow : NMap Word := []
  /-- STAGE_STATE[3:0]; 14 R443; reset 5 LOCKED -/
  state : Nat := 5
  /-- dirty pages, by page base; 14 R443; reset: none -/
  dirty : List Nat := []
  /-- STAGE_SEQ, 32 bits; 14 R443; reset 0 -/
  seq : Nat := 0
  /-- CFG_RESULT, 32 bits; 14 R445; reset 0 -/
  result : Word := 0
  /-- a check has been requested and the checker runs; 14 R445; reset false -/
  checking : Bool := false
  /-- CFG_BOOT_STATUS, 32 bits; 15 R468; reset 0 -/
  bootStatus : Word := 0
  /-- CFG_BOOT_WHERE, 32 bits; 15 R468; reset 0 -/
  bootWhere : Nat := 0
  /-- store copies 0 and 1 in SPI NOR; 14 R439; reset DESIGN CHOICE: none valid, log 1 -/
  copies : NMap (Option StoreCopy) := []
  /-- target copy of the save in progress; 14 R442; reset: none -/
  saving : Option Nat := none
deriving DecidableEq, Repr

/-- Telemetry. -/
structure TelSt where
  /-- 64-bit counters, keyed by BAR0 offset of the low word; 16 R473; reset 0 -/
  cnt : NMap Nat := []
  /-- their shadows; 16 R473; reset 0 -/
  shadow : NMap Nat := []
  /-- plumb counters of R53, 64 bits, keyed tile × 128 + index; 02 R53; reset 0 -/
  plumb : NMap Nat := []
  /-- their shadows; 02 R57; reset 0 -/
  plumbShadow : NMap Nat := []
  /-- increments already rolled up, keyed tile × 128 + index; 16 R478; reset 0 -/
  rolled : NMap Nat := []
  /-- totals of the contexts (0–7) and of the part (8), keyed total × 128 + index; 16 R478; reset 0 -/
  totals : NMap Nat := []
  /-- the totals as the roll-up of the last tick formed them; 16 R477; reset 0 -/
  rollup : NMap Nat := []
  /-- ticks taken since the last warm or cold reset; 15 R468; reset 0 -/
  ticks : Nat := 0
  /-- TEL_TICK_TIME, 64 bits; 15 R468; reset 0 -/
  tickTime : Nat := 0
  /-- TEL_ROLLUP[0]; 15 R468; reset 0 -/
  valid : Bool := false
  /-- a roll-up is running; 16 R477; reset false -/
  rolling : Bool := false
  /-- a tick has been requested during the roll-up; 16 R477; reset false -/
  again : Bool := false
  /-- HBM_ERR_LOG of the stacks and DIE_SRAM_LOG of the dies, keyed by port offset, records of 32 bytes, at most 64; 16 R482; reset: empty -/
  logs : NMap (List (List Byte)) := []
  /-- records lost to a full queue, keyed by port offset, saturating; 15 R464; reset 0 -/
  logOvf : NMap Nat := []
  /-- last corrected error logged, keyed by stack: (row key, time); 16 R482; reset: none -/
  lastCe : List (Nat × Nat × Nat) := []
  /-- time of the last ECC_CORRECTED entry and corrections since, keyed by stack; 15 R457; reset 0 -/
  ceEv : NMap (Nat × Nat) := []
  /-- retention log, entries of 64 bytes, newest first, at most 16; 15 R467; reset: empty -/
  ret : List (List Byte) := []
deriving DecidableEq, Repr

/-! ### Security, power, boot -/

/-- An SPDM session (R376). -/
structure Session where
  id : Nat
  path : MsgPath
  /-- FINISH has succeeded -/
  est : Bool := false
  /-- mutually authenticated as owner (R376, R393) -/
  owner : Bool := false
  /-- mutual authentication was asked for in KEY_EXCHANGE -/
  mutAuth : Bool := false
  /-- digests of the reports signed in the session, each with the configuration digest and image log it reported; a
  change of epoch ends the session, so the epoch need not be kept -/
  reports : List (Sha × Sha × List Sha) := []
deriving DecidableEq, Repr

/-- A per-load key on a sealed channel (R388). -/
structure LoadKey where
  job : Nat
  loadId : Word
  key : List Byte
  /-- configuration digest and image digests for which it was released -/
  cfg : Sha
  images : List Sha
deriving DecidableEq, Repr

/-- A security operation that was refused and is not yet answered (R395, R397). -/
inductive Refused where
  /-- a command of the HRDM page -/
  | hrdm
  /-- an SPDM request -/
  | spdm (p : MsgPath)
  /-- the image-log check of the load at the head of the queue -/
  | load
  /-- a weight transfer on a DMA channel -/
  | transfer (ch : Nat)
  /-- a snapshot request -/
  | snapshot
deriving DecidableEq, Repr

/-- A weight transfer in progress on a DMA channel (R385, R386). -/
structure Xfer where
  /-- host-side bytes that have arrived -/
  host : Nat := 0
  /-- plaintext bytes written -/
  plain : Nat := 0
  /-- set of its last chunk -/
  set : Option Nat := none
  /-- a chunk was refused: the rest is discarded, and the answer is due after the last byte -/
  refused : Bool := false
deriving DecidableEq, Repr

/-- An entry of the weight-set log (R383). -/
structure WSet where
  path : Nat := 0
  /-- 0 unused, 1 OPEN, 2 CLOSED, 3 FAILED -/
  state : Nat := 0
  bytes : Nat := 0
  root : Sha := 0
  /-- leaf digests received, in chunk order -/
  leaves : List Sha := []
  /-- id that every chunk carries -/
  id : Nat := 0
deriving DecidableEq, Repr

/-- An owner key slot (R390). -/
structure Slot where
  seq : Nat
  key : List Byte
deriving DecidableEq, Repr

/-- The Hardom root. -/
structure SecSt where
  /-- HRDM_EPOCH, 32 bits; 12 R375; reset DESIGN CHOICE 0 until the first boot draws one, log 1 -/
  epoch : Nat := 0
  /-- HRDM_STATUS[0]; 15 R468; reset 0 -/
  busy : Bool := false
  /-- HRDM_STATUS[1], SCRUBBING; 12 R372; reset 0 -/
  scrubbing : Bool := false
  /-- HRDM_STATUS[2], scrub failed; 12 R374; reset 0 -/
  scrubFailed : Bool := false
  /-- HRDM_STATUS[7:4]; 15 R468; reset 0 -/
  result : Nat := 0
  /-- refused operations whose answer is due, oldest first; 12 R397; reset: none -/
  refusing : List Refused := []
  /-- requests that wait for the Hardom, oldest first; 12 R396; reset: none -/
  waiting : List Instr := []
  /-- the scrub was asked for by this source; 12 R372; reset: none -/
  scrubFor : Option SecSource := none
  /-- device-set key: (set_id, key); 12 R387; reset: none -/
  devKey : Option (Nat × List Byte) := none
  /-- per-load keys, keyed by sealed channel 0–3; 12 R388; reset: none -/
  loadKeys : NMap (Option LoadKey) := []
  /-- SPDM sessions, at most 2; 12 R376; reset: none -/
  sessions : List Session := []
  /-- version negotiated on a path: 0 none, else 12 or 13; 12 R376; reset 0 -/
  spdmVer : NMap Nat := []
  /-- responses held for CHUNK_GET, and requests gathered by CHUNK_SEND, keyed by path × 2 + direction; 12 R376; reset: empty -/
  chunks : NMap (List Byte) := []
  /-- image log, at most 64 digests; 12 R382; reset: empty -/
  images : List Sha := []
  /-- weight-set log, keyed by set; 12 R383; reset: each unused -/
  wsets : NMap WSet := []
  /-- sealed ranges: (context, base, length), at most 64; 12 R389; reset: none -/
  sealed : List (Nat × Nat × Nat) := []
  /-- owner key slots A (0) and B (1); 12 R390; reset DESIGN CHOICE: none (as shipped), log 1 -/
  slots : NMap (Option Slot) := []
  /-- monotonic counter, 0–256; 12 R367; reset 0 (as shipped) -/
  counter : Nat := 0
  /-- weight transfers in progress, keyed by DMA channel; 12 R385; reset: none -/
  xfer : NMap (Option Xfer) := []
  /-- digests held by the root: device firmware, codec firmware; 12 R368; reset DESIGN CHOICE 0 until boot measures them, log 1 -/
  fwDigest : Sha := 0
  /-- codec controller firmware digest, 384 bits; 12 R368; reset DESIGN CHOICE 0, log 1 -/
  codecDigest : Sha := 0
  /-- fw_svn, 32 bits; 12 R379; reset DESIGN CHOICE 0, log 1 -/
  svn : Nat := 0
deriving DecidableEq, Repr

/-- The power states (R404). -/
inductive PState where
  | aonOnly | lowPower | active
deriving DecidableEq, Repr

/-- A course pair's clock and rail (R409 to R419). -/
structure Pair where
  /-- PWR_PAIRn[15], gated; 13 R405; reset true (R426) -/
  gated : Bool := true
  /-- effective clock now, in 12.5 MHz units; 13 R409; reset DESIGN CHOICE 0x30 (0.60 GHz), log 1 -/
  clk : Nat := 0x30
  /-- limit of the thermal loop, 12.5 MHz units; 13 R418; reset 0x090, no restriction (DESIGN CHOICE, log 1) -/
  therm : Nat := 0x090
  /-- limit of the voltage loop, 12.5 MHz units; 13 R415; reset 0x090, no restriction (DESIGN CHOICE, log 1) -/
  volt : Nat := 0x090
  /-- setpoint of the pair's rails, 2.5 mV units; 13 R415; reset DESIGN CHOICE 200 (0.50 V retention), log 1 -/
  setpoint : Nat := 200
  /-- guard band left, 2.5 mV units; 13 R419; reset 0 -/
  guard : Nat := 0
  /-- stretches in the present window; 13 R415; reset 0 -/
  stretch : Nat := 0
  /-- windows of 10 µs since the last stretch; 13 R415, R419; reset 0 -/
  quiet : Nat := 0
  /-- calibrated setpoints and their load class, keyed by clock; 13 R417; reset: the factory table, class 2 -/
  table : NMap (Nat × Nat) := []
  /-- hottest sensor, 0.25 °C; 13 R418; reset DESIGN CHOICE 0, log 1 -/
  temp : Nat := 0
  /-- the thermal limit restricts; 13 R418; reset false -/
  hot : Bool := false
deriving DecidableEq, Repr

/-- Power, clocks and thermal. -/
structure PwrSt where
  /-- PWR_STATE[1:0]; 13 R404; reset LOW_POWER -/
  state : PState := .lowPower
  /-- LOW_POWER was entered with every link out of service: only a warm or cold reset leaves it; 13 R404; reset false -/
  dead : Bool := false
  /-- a wake has been commanded and waits for R422; 13 R422; reset false -/
  waking : Bool := false
  /-- PWR_STATE[5], COOLANT_OK; 13 R422; reset 0 -/
  coolant : Bool := false
  /-- PWR_STATE[4], PWR_BRAKE_N asserted; 13 R420; reset 0 -/
  brake : Bool := false
  /-- PWR_STATE[6], THROTTLE_N asserted; 13 R423; reset 0 -/
  throttle : Bool := false
  /-- THERMTRIP_N asserted; 13 R423; reset false -/
  thermtrip : Bool := false
  /-- the 16 course pairs; 13 R406; reset: each as Pair -/
  pairs : NMap Pair := []
  /-- governor queue: pairs waiting for their clock start, oldest first; 13 R411; reset: none -/
  wakes : List Nat := []
  /-- clock ceiling of the power controller, 12.5 MHz units, and its cause code 2 or 3; 13 R400; reset 0x090, 2 (DESIGN CHOICE, log 1) -/
  ceil : Nat := 0x090
  /-- cause code of that ceiling; 13 R409; reset 2 -/
  ceilCause : Nat := 2
  /-- PWR_INPUT[15:0], W; 15 R468; reset 0 -/
  watts : Nat := 0
  /-- PWR_INPUT[31:16], 0.1 A; 15 R468; reset 0 -/
  amps : Nat := 0
  /-- Rink fraction code set by the IOD thermal limit; 13 R418; reset 0 -/
  iodFrac : Nat := 0
  /-- trowel fraction code set by a stack's thermal limit, keyed by stack; 13 R418; reset 0 -/
  trwFrac : NMap Nat := []
  /-- IOD temperature, 0.25 °C; 13 R418; reset DESIGN CHOICE 0, log 1 -/
  iodTemp : Nat := 0
deriving DecidableEq, Repr

/-- Reset, boot and contacts. -/
structure BootSt where
  /-- AON_BOOT_STATUS[3:0]; 15 R467; reset 0 -/
  stage : Nat := 0
  /-- AON_BOOT_STATUS[4], firmware copy booted; 15 R467; reset 0 -/
  copy : Nat := 0
  /-- AON_RESET_CAUSE[2:0]; 15 R467; reset 1 -/
  cause : Nat := 1
  /-- VIN_MAIN and AON_1V8 are in range and the regulators run; 13 R402; reset false -/
  regs : Bool := false
  /-- the AON domain runs; 13 R402; reset false -/
  aon : Bool := false
  /-- every stack has been trained in this boot; 14 R434; reset false -/
  trained : Bool := false
  /-- courses that failed the boot BIST; 14 R436; reset: none -/
  bistFail : List Nat := []
  /-- firmware copies A (0) and B (1) in SPI NOR as the boot ROM finds them; 14 R433; reset DESIGN CHOICE: both valid, seq 0, log 1 -/
  fw : NMap FwCopy := []
  /-- RST_STATUS[0], RESETTING; 15 R467; reset 0 -/
  resetting : Bool := false
  /-- announcement under way: heartbeat code 0x2 or 0x3 (R252), with the reset cause it ends in; reset: none -/
  announce : Option (Nat × Nat) := none
  /-- PERST_N is asserted; 14 R427; reset true (DESIGN CHOICE, log 1) -/
  perst : Bool := true
  /-- the part stands stopped, between the announcement and the restart; 14 R427; reset false -/
  stopped : Bool := false
  /-- I3C address straps, 3 bits, sampled at the AON power-on reset; 17 R500; reset 0 (DESIGN CHOICE, log 1) -/
  straps : BitVec 3 := 0
  /-- TAP instruction: 0 BYPASS, 1 IDCODE, 2 SAMPLE, 3 EXTEST, 4 EXTEST_PULSE, 5 EXTEST_TRAIN, 6 PRELOAD; 16 R488; reset PRESUMED IDCODE (IEEE 1149.1), log 24 -/
  tap : Nat := 1
  /-- REFCLK_25 is present; 17 R502; reset true (DESIGN CHOICE, log 1) -/
  refclk : Bool := true
deriving DecidableEq, Repr

/-- The whole part. -/
structure State where
  /-- commands waiting, first in, first out; the model's own; reset: none -/
  pending : List Instr := []
  /-- index of the next free value; the model's own (log 6); reset DESIGN CHOICE 0, log 6 -/
  free : Nat := 0
  /-- what has left the part, oldest first; the model's own (log 9); reset: none -/
  out : List OutMsg := []
  /-- memory of the host, keyed by bus address; 15 R454, R457; reset: nothing listed, reads 0 (log 8) -/
  hostMem : Mem := {}
  /-- device memory, beds, stacks; 01; reset: as MemSt -/
  mem : MemSt := {}
  /-- tiles and courses; 03; reset: as TileSt -/
  tile : TileSt := {}
  /-- job contexts, loader, pools; 11; reset: as JobSt -/
  job : JobSt := {}
  /-- switchback; 07; reset: as FabSt -/
  fab : FabSt := {}
  /-- the 12 trowels, keyed by stack; 06; reset: each as Trowel -/
  trw : NMap Trowel := []
  /-- Rink; 09, 10; reset: as RinkSt -/
  rink : RinkSt := {}
  /-- POST units; 04 R126; reset: as PostSt -/
  post : PostSt := {}
  /-- host interface; 15; reset: as HostSt -/
  host : HostSt := {}
  /-- configuration; 14; reset: as CfgSt -/
  cfg : CfgSt := {}
  /-- telemetry; 16; reset: as TelSt -/
  tel : TelSt := {}
  /-- Hardom root; 12; reset: as SecSt -/
  sec : SecSt := {}
  /-- power; 13; reset: as PwrSt -/
  pwr : PwrSt := {}
  /-- reset and boot; 14; reset: as BootSt -/
  boot : BootSt := {}
deriving DecidableEq, Repr

/-- The part as AON_1V8 and VIN_MAIN rise, before the AON power-on reset releases (log 2): every register at the
reset value of the spec's tables, every other field at the value its docstring names (log 1, DESIGN CHOICE). -/
def State.reset : State := {}

end Sys2Proof.Machine
end

