-- ==== Sys2Proof/Machine/RegMap.lean ====
section
/-! DEFINITION. The register map: offsets, types, reserved bits and reset values (spec/15_host_and_registers.md,
R461 to R471), and reading live, shadow and RW values. -/

namespace Sys2Proof.Machine

/-- Base of the register window of job context c (R469). -/
def jobBase (c : Nat) : Nat := 0x7200 + 0x180 * c
/-- Base of page COURSEn (R466). -/
def coursePage (n : Nat) : Nat := 0x20000 + 0x1000 * n
/-- Base of page SLNKn (R466). -/
def slnkPage (n : Nat) : Nat := 0x71000 + 0x1000 * n
/-- Base of page HBMn (R466). -/
def hbmPage (n : Nat) : Nat := 0x50000 + 0x1000 * n
/-- Base of page TRWn (R466). -/
def trwPage (n : Nat) : Nat := 0x60000 + 0x1000 * n
/-- Base of page DIEn (R466). -/
def diePage (n : Nat) : Nat := 0x10000 + 0x1000 * n
/-- Base of page BEDn (R466). -/
def bedPage (n : Nat) : Nat := 0x40000 + 0x1000 * n
/-- Base of page POSTn (R466). -/
def postPage (n : Nat) : Nat := 0x48000 + 0x1000 * n

/-- Unit code of a media unit, as [7:5] of R290, and VENC as 4: 0 VDEC, 1 IDEC, 2 ADEC, 3 SHAP. -/
def unitKey : MediaUnit → Nat
  | .vdec n => n.val | .idec n => 16 + n.val | .adec => 32 | .shap n => 48 + n.val | .venc n => 64 + n.val

/-- Base of a media unit's page (R466). -/
def unitPage : MediaUnit → Nat
  | .vdec n => 0x81000 + n.val * 0x1000
  | .venc n => 0x91000 + n.val * 0x1000
  | .idec n => 0x98000 + n.val * 0x1000
  | .adec => 0x9C000
  | .shap n => 0xA0000 + n.val * 0x1000

/-- The media unit of a page base (R466). -/
def pageUnit (b : Nat) : Option MediaUnit :=
  let n := (b - 0x81000) / 0x1000
  if 0x81000 ≤ b ∧ b < 0x91000 then some (.vdec (Fin.ofNat 16 n))
  else if 0x91000 ≤ b ∧ b < 0x95000 then some (.venc (Fin.ofNat 4 ((b - 0x91000) / 0x1000)))
  else if 0x98000 ≤ b ∧ b < 0x9C000 then some (.idec (Fin.ofNat 4 ((b - 0x98000) / 0x1000)))
  else if b = 0x9C000 then some .adec
  else if 0xA0000 ≤ b ∧ b < 0xA8000 then some (.shap (Fin.ofNat 8 ((b - 0xA0000) / 0x1000)))
  else none

/-- Page index k (R466); none where no page lies. -/
def pageIndex (b : Nat) : Option Nat :=
  let n := b / 0x1000
  if n ≤ 8 then some n
  else if 0x10 ≤ n ∧ n < 0x14 then some (9 + (n - 0x10))
  else if 0x20 ≤ n ∧ n < 0x40 then some (13 + (n - 0x20))
  else if 0x40 ≤ n ∧ n < 0x44 then some (45 + (n - 0x40))
  else if 0x48 ≤ n ∧ n < 0x4C then some (49 + (n - 0x48))
  else if 0x50 ≤ n ∧ n < 0x5C then some (53 + (n - 0x50))
  else if 0x60 ≤ n ∧ n < 0x6C then some (65 + (n - 0x60))
  else if n = 0x70 then some 77
  else if 0x71 ≤ n ∧ n < 0x7D then some (78 + (n - 0x71))
  else if n = 0x80 then some 90
  else if 0x81 ≤ n ∧ n < 0x91 then some (91 + (n - 0x81))
  else if 0x91 ≤ n ∧ n < 0x95 then some (107 + (n - 0x91))
  else if 0x98 ≤ n ∧ n < 0x9C then some (111 + (n - 0x98))
  else if n = 0x9C then some 115
  else if 0xA0 ≤ n ∧ n < 0xA8 then some (116 + (n - 0xA0))
  else none

/-- Block type code and page number of a page (R466, R461). -/
def pageId (b : Nat) : Nat × Nat :=
  let n := b / 0x1000
  if n ≤ 8 then (n + 1, 0)
  else if n < 0x14 then (0x10, n - 0x10)
  else if n < 0x40 then (0x11, n - 0x20)
  else if n < 0x44 then (0x12, n - 0x40)
  else if n < 0x4C then (0x13, n - 0x48)
  else if n < 0x5C then (0x20, n - 0x50)
  else if n < 0x6C then (0x21, n - 0x60)
  else if n = 0x70 then (0x30, 0)
  else if n < 0x7D then (0x31, n - 0x71)
  else if n = 0x80 then (0x40, 0)
  else if n < 0x91 then (0x41, n - 0x81)
  else if n < 0x95 then (0x42, n - 0x91)
  else if n < 0x9C then (0x43, n - 0x98)
  else if n = 0x9C then (0x44, 0)
  else (0x45, n - 0xA0)

/-- Offsets of the job window that hold ST registers, with their writable bits (R469). -/
def jobStMask (o : Nat) : Option Word :=
  if o = 0x20 then some 0xFFFF
  else if o = 0x24 then some 0x3FFFFFFF
  else if o = 0x28 then some 0x7
  else if o = 0x2C ∨ o = 0x30 ∨ o = 0x34 then some 0xFFFF
  else if o = 0x38 ∨ o = 0x3C then some 0xFFFFFFFF
  else if o = 0x4C ∨ o = 0x5C then some 0x00017FFF
  else if 0x40 ≤ o ∧ o < 0x60 then some 0xFFFFFFFF
  else none

/-- The writable bits of an ST register at a BAR0 offset; none where no ST register lies (R467 to R471). Of a ring's slot
count, whose bits R471 does not name, the 17 that a count to 65,536 needs; the others are reserved (R7) (log 95, DEDUCED). -/
def stMask (off : Nat) : Option Word :=
  let p := off / 0x1000 * 0x1000
  let o := off % 0x1000
  if off % 4 ≠ 0 then none
  else if off = 0x3100 then some 0xFFF
  else if off = 0x4100 then some 0x3
  else if off = 0x4104 then some 0xFF
  else if off = 0x4108 then some 0x3FFF
  else if off = 0x6104 then some 0xFFFFFFFF
  else if p = 0x7000 then (if 0x200 ≤ o ∧ o < 0xE00 then jobStMask ((o - 0x200) % 0x180) else none)
  else if 0x20000 ≤ off ∧ off < 0x40000 then
    (if o = 0x100 ∨ o = 0x104 then some 0xFFFFFFFF else if o = 0x108 then some 1 else none)
  else if p = 0x70000 then
    (if o = 0x100 ∨ o = 0x108 then some 0x7FFF
     else if o = 0x104 then some 0x7
     else if o = 0x10C then some 0xFFFFFFFF
     else if o = 0x110 then some 1
     else if 0x140 ≤ o ∧ o < 0x180 then some 0xFFFF7FFF
     else none)
  else if 0x71000 ≤ off ∧ off < 0x7D000 then (if o = 0x100 then some 1 else none)
  else if p = 0x80000 then
    (if 0x100 ≤ o ∧ o < 0x110 then some 0x00FF1FF3
     else if 0x200 ≤ o ∧ o < 0x300 then
       (let r := (o - 0x200) % 0x20
        if r = 0x08 ∨ r = 0x14 then some 0x1FFFF else if r < 0x18 then some 0xFFFFFFFF else none)
     else none)
  else none

/-- Reset value of an ST register (R467 to R471). -/
def stReset (off : Nat) : Word :=
  let p := off / 0x1000 * 0x1000
  let o := off % 0x1000
  if off = 0x3100 then (if Config.gradeB then 0x07C else 0x090)
  else if off = 0x4104 ∨ off = 0x4108 then 50
  else if p = 0x7000 ∧ 0x200 ≤ o ∧ o < 0xE00 then
    (let r := (o - 0x200) % 0x180
     if r = 0x28 then 1 else if r = 0x2C then 200 else if r = 0x30 then 0xFFFF else 0)
  else if 0x71000 ≤ off ∧ off < 0x7D000 ∧ o = 0x100 then 1
  else if p = 0x80000 ∧ 0x100 ≤ o ∧ o < 0x110 then 0x00200400
  else 0

/-- Live value of an ST register (R6). -/
def live (s : State) (off : Nat) : Word := mget s.cfg.live (stReset off) off
/-- Shadow of an ST register (R6). -/
def shadow (s : State) (off : Nat) : Word := mget s.cfg.shadow (stReset off) off
/-- Live 64-bit pair. -/
def live64 (s : State) (off : Nat) : Nat := (live s off).toNat + 2 ^ 32 * (live s (off + 4)).toNat

/-- Storable registers (R441). -/
def storable (off : Nat) : Bool :=
  let p := off / 0x1000 * 0x1000
  (stMask off).isSome &&
    (p == 0x3000 || p == 0x4000 || p == 0x6000 || (0x70000 ≤ off && off < 0x7D000)
     || (p == 0x80000 && off % 0x1000 < 0x110))

/-- Offsets of all storable registers, in increasing order. -/
def storables : List Nat :=
  [0x3100, 0x4100, 0x4104, 0x4108, 0x6104, 0x70100, 0x70104, 0x70108, 0x7010C, 0x70110]
    ++ (List.range 16).map (fun i => 0x70140 + 4 * i)
    ++ (List.range 12).map (fun n => slnkPage n + 0x100)
    ++ (List.range 4).map (fun k => 0x80100 + 4 * k)

/-- Reset value of a plain RW register (R467 to R471). -/
def rwReset (off : Nat) : Word :=
  let p := off / 0x1000 * 0x1000
  let o := off % 0x1000
  if p = 0 ∧ 0x400 ≤ o ∧ o < 0x800 then BitVec.ofNat 32 ((o - 0x400) / 4)
  else if off = 0x6120 then 8
  else if off = 0x710C then 8
  else if off = 0x7110 then 16000
  else if 0x50000 ≤ off ∧ off < 0x5C000 ∧ o = 0x108 then 1
  else 0

/-- The writable bits of a plain RW register, and whether it is a half of a 64-bit RW pair; none where no such
register lies (R467 to R471). -/
def rwMask (off : Nat) : Option (Word × Bool) :=
  let p := off / 0x1000 * 0x1000
  let o := off % 0x1000
  if off % 4 ≠ 0 then none
  else if off = 0x108 ∨ off = 0x10C ∨ off = 0x120 ∨ off = 0x124 then some (0xFFFFFFFF, true)
  else if off = 0x128 ∨ off = 0x134 then some (0xFFFFFFFF, false)
  else if p = 0 ∧ 0x400 ≤ o ∧ o < 0x800 then some (0x7FF, false)
  else if p = 0 ∧ 0x800 ≤ o ∧ o < 0xC00 then
    (let r := (o - 0x800) % 0x20
     if r < 8 then some (0xFFFFFFFF, true) else if r = 8 then some (0xFFFFFFFF, false)
     else if r = 0x10 then some (1, false) else none)
  else if off = 0x1114 then some (0xF, false)
  else if off = 0x6120 then some (0xF, false)
  else if off = 0x6124 then some (0x1FF, false)
  else if off = 0x8104 then some (0xFFFFFFFF, false)
  else if off = 0x710C then some (0xF, false)
  else if off = 0x7110 then some (0xFFFF, false)
  else if off = 0x7118 ∨ off = 0x711C then some (0xFFFFFFFF, true)
  else if off = 0x7120 then some (0xFFFFFFFF, false)
  else if p = 0x7000 ∧ 0x200 ≤ o ∧ o < 0xE00 then
    (let r := (o - 0x200) % 0x180
     if r = 0x08 then some (0xFFFFFFFF, false)
     else if r = 0x60 ∨ r = 0x64 then some (0xFFFFFFFF, true)
     else if r = 0x68 then some (0xFFFFFFFF, false)
     else if r = 0x6C then some (0x17FFF, false)
     else if r = 0x80 ∨ r = 0x84 ∨ r = 0x90 ∨ r = 0x94 then some (0xFFFFFFFF, true)
     else if r = 0x88 ∨ r = 0x98 then some (0xFFFFFFFF, false)
     else none)
  else if 0x20000 ≤ off ∧ off < 0x40000 ∧ 0x800 ≤ o ∧ (o - 0x800) % 0x80 = 0xC then some (0xFF, false)
  else if 0x50000 ≤ off ∧ off < 0x5C000 ∧ o = 0x108 then some (1, false)
  else if off = 0x80120 then some (7, false)
  else if off = 0x80124 then some (0x3FFFF, false)
  else none

/-- Value of a plain RW register. -/
def rw (s : State) (off : Nat) : Word := mget s.host.regs (rwReset off) off
/-- Set a plain RW register. -/
def setRw (s : State) (off : Nat) (v : Word) : State :=
  { s with host := { s.host with regs := mset s.host.regs (rwReset off) off v } }
/-- Value of an RW pair. -/
def rw64 (s : State) (off : Nat) : Nat := (rw s off).toNat + 2 ^ 32 * (rw s (off + 4)).toNat

/-- JOB page staged fields of a context (R469). -/
def fabricJob (s : State) (c : Nat) : Nat := (live s (jobBase c + 0x20)).toNat % 0x10000
@[inherit_doc fabricJob] def jobBox (s : State) (c : Nat) : Word := live s (jobBase c + 0x24)
@[inherit_doc fabricJob] def autoPlough (s : State) (c : Nat) : Bool := (live s (jobBase c + 0x28)).getLsbD 0
@[inherit_doc fabricJob] def keeperGate (s : State) (c : Nat) : Bool := (live s (jobBase c + 0x28)).getLsbD 1
@[inherit_doc fabricJob] def creditMode (s : State) (c : Nat) : Bool := (live s (jobBase c + 0x28)).getLsbD 2
@[inherit_doc fabricJob] def baseK (s : State) (c : Nat) : Nat := (live s (jobBase c + 0x2C)).toNat % 0x10000
@[inherit_doc fabricJob] def digestEntry (s : State) (c : Nat) : Nat := (live s (jobBase c + 0x30)).toNat % 0x10000
@[inherit_doc fabricJob] def stepTimeoutMs (s : State) (c : Nat) : Nat := (live s (jobBase c + 0x34)).toNat % 0x10000
@[inherit_doc fabricJob] def scalarAddr (s : State) (c : Nat) : Nat := live64 s (jobBase c + 0x38)

/-- Trail (0), base (1) or snapshot (2) sink of a context: the first two staged, the last an RW register. -/
def sinkCfg (s : State) (c k : Nat) : SinkCfg :=
  let o := jobBase c + 0x40 + 0x10 * k
  let g := fun i => if k = 2 then (rw s (o + i)).toNat else (live s (o + i)).toNat
  { base := g 0 + 2 ^ 32 * g 4, len := 64 * g 8, peer := (g 12).testBit 16, coords := g 12 % 0x8000 }

/-- Every measured ST register (R465, R381), in increasing offset. -/
def measured : List Nat :=
  ((List.range 8).flatMap fun c =>
      ([0x20, 0x24, 0x28, 0x2C, 0x30] ++ (List.range 8).map (fun i => 0x40 + 4 * i)).map (jobBase c + ·))
    ++ (List.range 32).map (fun n => coursePage n + 0x108)
    ++ [0x70100, 0x70104, 0x70108, 0x7010C, 0x70110]
    ++ (List.range 16).map (fun i => 0x70140 + 4 * i)

/-- The configuration digest (R381): each register contributes once, under its BAR0 byte offset (log 105, DEDUCED). -/
def configDigest (s : State) : Sha :=
  Config.sha384 (measured.flatMap fun o => leBytes 4 o ++ leBytes 4 (live s o).toNat)

/-- Pages with ST registers, 64-bit counters, a soft reset, and storable registers (R461 PAGE_CAPS). -/
def pageCaps (b : Nat) : Nat :=
  let n := b / 0x1000
  let media := 0x81 ≤ n
  let soft := media || (0x71 ≤ n && n < 0x7D) || (0x48 ≤ n && n < 0x4C)
  let st := n == 3 || n == 4 || n == 6 || n == 7 || (0x20 ≤ n && n < 0x40) || (0x70 ≤ n && n ≤ 0x80)
  let cnts := n == 6 || n == 7 || n == 8 || (0x10 ≤ n && n < 0x71) || (0x71 ≤ n && n < 0x7D) || media
  let sto := n == 3 || n == 4 || n == 6 || (0x70 ≤ n && n < 0x7D) || n == 0x80
  b2n soft + 2 * b2n st + 4 * b2n cnts + 8 * b2n sto

end Sys2Proof.Machine
end

