-- ==== Sys2Proof/Machine/Ops.lean ====
section
/-! DEFINITION. Named operations that many commands share: contexts, free values, counters, memory windows,
region checks, events and interrupts, semaphores, spin generators, freeze ticks. -/

namespace Sys2Proof.Machine

/-! ### Contexts and small updates -/

/-- A job context. -/
def ctxOf (s : State) (c : Nat) : JobCtx := mget s.job.ctxs {} c
/-- Change a job context. -/
def updCtx (s : State) (c : Nat) (f : JobCtx → JobCtx) : State :=
  { s with job := { s.job with ctxs := mupd s.job.ctxs {} c f } }
/-- A tile's sequencer. -/
def seqrOf (s : State) (t : Nat) : Seqr := mget s.tile.seqs {} t
/-- Change a tile's sequencer. -/
def updSeqr (s : State) (t : Nat) (f : Seqr → Seqr) : State :=
  { s with tile := { s.tile with seqs := mupd s.tile.seqs {} t f } }
/-- A course. -/
def courseOf (s : State) (n : Nat) : CourseSt := mget s.tile.courses {} n
/-- Change a course. -/
def updCourse (s : State) (n : Nat) (f : CourseSt → CourseSt) : State :=
  { s with tile := { s.tile with courses := mupd s.tile.courses {} n f } }
/-- A stack. -/
def stackOf (s : State) (k : Nat) : StackSt := mget s.mem.stk {} k
/-- Change a stack. -/
def updStack (s : State) (k : Nat) (f : StackSt → StackSt) : State :=
  { s with mem := { s.mem with stk := mupd s.mem.stk {} k f } }
/-- A fabric port. -/
def linkOf (s : State) (p : Nat) : Link := mget s.fab.links {} p
/-- Change a fabric port. -/
def updLink (s : State) (p : Nat) (f : Link → Link) : State :=
  { s with fab := { s.fab with links := mupd s.fab.links {} p f } }
/-- Change a trowel. -/
def updTrowel (s : State) (k : Nat) (f : Trowel → Trowel) : State :=
  { s with trw := mupd s.trw {} k f }
/-- A course pair. -/
def pairOf (s : State) (p : Nat) : Pair := mget s.pwr.pairs {} p
/-- Change a course pair. -/
def updPair (s : State) (p : Nat) (f : Pair → Pair) : State :=
  { s with pwr := { s.pwr with pairs := mupd s.pwr.pairs {} p f } }
/-- Change a media unit. -/
def updUnit (s : State) (u : MediaUnit) (f : RUnit → RUnit) : State :=
  { s with rink := { s.rink with units := mupd s.rink.units {} (unitKey u) f } }
/-- The job context a context-numbered change of the training side applies to. -/
def updTrn (s : State) (c : Nat) (f : JobTrn → JobTrn) : State := updCtx s c fun j => { j with trn := f j.trn }
/-- Change the fabric side of a context. -/
def updFab (s : State) (c : Nat) (f : JobFab → JobFab) : State := updCtx s c fun j => { j with fab := f j.fab }
/-- Change the boundary of a context. -/
def updBnd (s : State) (c : Nat) (f : Boundary → Boundary) : State := updCtx s c fun j => { j with bnd := f j.bnd }

/-- Apply a change for each element of a list, in order. -/
def forEach {α : Type} (xs : List α) (s : State) (f : State → α → State) : State := xs.foldl f s

/-- Append to the output trace (log 9, DESIGN CHOICE). -/
def emit (s : State) (m : OutMsg) : State := { s with out := s.out ++ [m] }

/-- The index of the next free value, and the state in which it is used up (log 6). -/
def takeFree (s : State) : Nat × State := (s.free, { s with free := s.free + 1 })

/-- The fabric timebase (R236). -/
def now (s : State) : Nat := s.fab.time

/-- Add to a 64-bit counter; counters saturate (R473). -/
def bump (s : State) (off n : Nat) : State :=
  { s with tel := { s.tel with cnt := mupd s.tel.cnt 0 off (fun x => satAdd64 x n) } }

/-- Loaded: neither IDLE nor TORN_DOWN (R149). -/
def JobCtx.loaded (j : JobCtx) : Bool := j.state ≠ .idle ∧ j.state ≠ .tornDown
/-- All contexts are IDLE or TORN_DOWN. -/
def noneLoaded (s : State) : Bool := (List.range 8).all fun c => !(ctxOf s c).loaded
/-- Contexts that are loaded, in increasing number. -/
def loadedCtxs (s : State) : List Nat := (List.range 8).filter fun c => (ctxOf s c).loaded
/-- The part answers as after READY (R434). -/
def isReady (s : State) : Bool := s.boot.stage = 0xF

/-- The courses of a job (R136), in increasing number. -/
def coursesOf (m : Manifest) : List Nat := (List.range 32).filter fun n => bit m.courseMask n
/-- The tiles of a job, in job-tile order (R136). -/
def tilesOf (m : Manifest) : List Nat := (coursesOf m).flatMap fun n => (List.range 16).map (16 * n + ·)
/-- Exclusive job (R137). -/
def Manifest.exclusive (m : Manifest) : Bool := bit m.flags 2
/-- Job that exports a trail (R143). -/
def Manifest.trailExport (m : Manifest) : Bool := bit m.flags 3
/-- Resident-map mode (R123). -/
def Manifest.resident (m : Manifest) : Bool := bit m.flags 0
/-- Bed scratch ways on die d (R143). -/
def Manifest.ways (m : Manifest) (d : Nat) : Nat := m.bedWays / 256 ^ d % 256

/-- A job's step is in progress or in its boundary. -/
def JobCtx.inStep (j : JobCtx) : Bool := j.stepIn ∨ j.state = .draining

/-- The context whose step holds course n (R470 COURSE_JOB). -/
def courseHolder (s : State) (n : Nat) : Option Nat :=
  (List.range 8).find? fun c => (ctxOf s c).inStep && bit (ctxOf s c).man.courseMask n

/-- The tile belongs to the job and the job holds it now (R153): no other job's step holds its course. -/
def holdsTile (s : State) (c t : Nat) : Bool :=
  (ctxOf s c).loaded && bit (ctxOf s c).man.courseMask (t / 16) && decide (t < 512) &&
    (match courseHolder s (t / 16) with | some d => d = c | none => true)

/-- The context whose step runs on a tile. -/
def tileCtx (s : State) (t : Nat) : Option Nat := courseHolder s (t / 16)

/-- Die of a tile (R9). -/
def tileDie (t : Nat) : Nat := t / 128

/-! ### Device memory -/

/-- Direct-window address of a device address, through either window (R12, R13). -/
def devAddr (a : Nat) : Option Nat :=
  if a < 0x9000000000 then some a
  else if 0x10000000000 ≤ a ∧ a < 0x19000000000 then
    (let o := a - 0x10000000000
     some (0xC00000000 * (o / 4096 % 12) + 4096 * (o / 49152) + o % 4096))
  else none

/-- Striped-window address of a direct-window address (R13). -/
def stripedAddr (d : Nat) : Nat :=
  let k := d / 0xC00000000
  let o := d % 0xC00000000
  0x10000000000 + 49152 * (o / 4096) + 4096 * k + o % 4096

/-- Stack of a direct-window address (R12). -/
def stackNo (d : Nat) : Nat := d / 0xC00000000

/-- One byte of device memory; an address outside the windows reads 0. -/
def devGet (s : State) (a : Nat) : Byte :=
  match devAddr a with
  | some d => s.mem.dev.get d
  | none => 0

/-- Bytes of device memory from a device address upward. -/
def devRead (s : State) (a n : Nat) : List Byte := (List.range n).map fun i => devGet s (a + i)

/-- Little-endian number in device memory. -/
def devNat (s : State) (a n : Nat) : Nat := leNat (devRead s a n)

/-- Write one byte of the device memory map. -/
def memSet (m : Mem) (a : Nat) (b : Byte) : Mem :=
  match devAddr a with
  | some d => m.set d b
  | none => m

/-- Write bytes of the device memory map, in increasing address. -/
def memWrite (m : Mem) (a : Nat) (bs : List Byte) : Mem :=
  match bs with
  | [] => m
  | b :: t => memWrite (memSet m a b) (a + 1) t

/-- The 64-byte lines wholly inside [a, a + n), as direct-window line numbers. -/
def fullLines (a n : Nat) : List Nat :=
  ((List.range ((n + a) / 64 - cdiv a 64)).filterMap fun i => (devAddr (64 * (cdiv a 64 + i))).map (· / 64))

/-- The lines of `g` bytes touched by [a, a + n), as direct-window line numbers. -/
def touchLines (g a n : Nat) : List Nat :=
  if n = 0 then [] else (List.range ((n + a - 1) / g + 1 - a / g)).filterMap fun i => (devAddr (g * (a / g + i))).map (· / g)

/-- Write to device memory: every bed but `keep` loses the written lines (R69); a full-line write replaces poison (R247). -/
def devWrite (s : State) (keep : Option Nat) (a : Nat) (bs : List Byte) : State :=
  let lines := touchLines 128 a bs.length
  let full := fullLines a bs.length
  { s with mem := { s.mem with
      dev := memWrite s.mem.dev a bs
      poison := s.mem.poison.filter fun l => !full.contains l
      bedLines := s.mem.bedLines.filter fun p => decide (some p.1 = keep) || !lines.contains p.2 } }

/-- Some line touched by [a, a + n) is poisoned; gives its device address (R247). -/
def poisonedAt (s : State) (a n : Nat) : Option Nat :=
  ((touchLines 64 a n).find? fun l => s.mem.poison.contains l).map (64 * ·)

/-- Ways of a die's bed that cache lines: the 16 less the scratch ways of the loaded jobs (R9, R79). -/
def bedWays (s : State) (d : Nat) : Nat := 16 - ((loadedCtxs s).map fun c => (ctxOf s c).man.ways d).sum
/-- The lines of a die's bed that lie in the set of a line (R9) (log 65, DESIGN CHOICE). -/
def bedSet (ls : List (Nat × Nat)) (d l : Nat) : List (Nat × Nat) :=
  ls.filter fun p => decide (p.1 = d ∧ Config.bedSet p.2 % 32768 = Config.bedSet l % 32768)
/-- Put one line into a die's bed of `w` ways; of a full set a line that is open makes room (R9) (log 65, DESIGN CHOICE). -/
def bedAdd (w d i : Nat) (ls : List (Nat × Nat)) (l : Nat) : List (Nat × Nat) :=
  let set := bedSet ls d l
  if ls.contains (d, l) ∨ w = 0 then ls
  else if set.length < w then ls ++ [(d, l)]
  else
    let gone := set.getD ((Config.freeByte i l).toNat % set.length) (d, l)
    (ls.filter fun p => decide (p ≠ gone)) ++ [(d, l)]
/-- Allocate lines in a bed (R78 bed_pol 0): 16 ways of 32,768 sets of 128-byte lines, 64 MiB (R9). -/
def bedFill (s : State) (d a n : Nat) : State :=
  { s with
    free := s.free + 1
    mem := { s.mem with bedLines := (touchLines 128 a n).foldl (bedAdd (bedWays s d) d s.free) s.mem.bedLines } }
/-- The beds give up ways to scratch, or take them back: what no longer fits leaves (R79) (log 65, DESIGN CHOICE). -/
def bedTrim (s : State) : State :=
  { s with
    free := s.free + 1
    mem := { s.mem with bedLines := s.mem.bedLines.foldl (fun ls p => bedAdd (bedWays s p.1) p.1 s.free ls p.2) [] } }

/-- Bytes of a tile store. -/
def storeRead (s : State) (t a n : Nat) : List Byte := s.tile.store.read (2 ^ 21 * t + a) n
/-- Little-endian number in a tile store. -/
def storeNat (s : State) (t a n : Nat) : Nat := leNat (storeRead s t a n)
/-- Write bytes of a tile store. -/
def storeWrite (s : State) (t a : Nat) (bs : List Byte) : State :=
  { s with tile := { s.tile with store := s.tile.store.write (2 ^ 21 * t + a) bs } }
/-- Key of a bed scratch byte. -/
def scratchKey (c d a : Nat) : Nat := 2 ^ 26 * (4 * c + d) + a

/-- Make the stores of a course undefined: free bytes under a fresh index (R137, R259, R359, R429, R483). -/
def undefCourse (s : State) (n : Nat) : State :=
  { s with
    free := s.free + 1
    tile := { s.tile with store := s.tile.store.fill (2 ^ 21 * (16 * n)) (2 ^ 21 * (16 * (n + 1))) (.free s.free) } }

/-- Make a context's bed scratch undefined (R259, R360). -/
def undefScratch (s : State) (c : Nat) : State :=
  { s with
    free := s.free + 1
    mem := { s.mem with scratch := s.mem.scratch.fill (scratchKey c 0 0) (scratchKey (c + 1) 0 0) (.free s.free) } }

/-- Set every vector register of a course's tiles to +0 (R86, R151, R429). -/
def zeroVregs (s : State) (n : Nat) : State :=
  { s with tile := { s.tile with vreg := s.tile.vreg.filter fun p => p.1 / 65536 ≠ n } }

/-! ### Region table (R153) -/

/-- A region covers a byte, through either window. -/
def Region.covers (r : Region) (d : Nat) : Bool :=
  (decide (r.base ≤ d ∧ d < r.base + r.len)) ||
    decide (r.base ≤ stripedAddr d ∧ stripedAddr d < r.base + r.len)

/-- Cause of a failing byte under R153 and R154; none when some region allows it. `perm` is a bit of the perm byte. -/
def byteCause (m : Manifest) (perm a : Nat) : Option Nat :=
  match devAddr a with
  | none => some 1
  | some d =>
    let rs := m.regions.filter fun r => r.covers d
    if rs.any fun r => r.placed && decide (r.kind ≠ 5) && bit r.perm perm then none
    else if rs.isEmpty then some 1
    else if rs.any fun r => r.placed && decide (r.kind ≠ 5) then some 2
    else some 5

/-- First failing byte of [a, a + n) and its cause (R153, R154). -/
def regionCheck (m : Manifest) (perm a n : Nat) : Option (Nat × Nat) :=
  match n with
  | 0 => none
  | n + 1 => match byteCause m perm a with
    | some c => some (a, c)
    | none => regionCheck m perm (a + 1) n

/-- Every sealed range, (base, length): those of live jobs and those that wait to be zeroed (R389). -/
def sealedRanges (s : State) : List (Nat × Nat) :=
  s.sec.sealed.map (fun r => (r.2.1, r.2.2)) ++ s.job.zeroing.flatMap (·.2)
/-- The byte is sealed (R389). -/
def isSealed (s : State) (a : Nat) : Bool :=
  match devAddr a with
  | some d => (sealedRanges s).any fun r =>
      decide (r.1 ≤ d ∧ d < r.1 + r.2) || decide (r.1 ≤ stripedAddr d ∧ stripedAddr d < r.1 + r.2)
  | none => false
/-- Bytes of device memory become undefined (R386). -/
def devUndef (s : State) (a n : Nat) : State :=
  devWrite { s with free := s.free + 1 } none a ((List.range n).map fun i => Config.freeByte s.free (a + i))

/-! ### Interrupts, page errors and events -/

/-- The message of an MSI-X vector: sent, or its pending bit set while masked or in D3hot (R451, R458) (log 24, PRESUMED). -/
def msix (s : State) (v : Nat) : State :=
  if mget s.host.msixOpen false v && !s.host.d3 && !s.host.linkLost then emit s (.msix v)
  else { s with host := { s.host with msixPend := mset s.host.msixPend false v true } }

/-- An interrupt source's condition arises: it sends one message (R458). -/
def signalSource (s : State) (i : Nat) : State := msix s ((rw s (0x400 + 4 * i)).toNat % 2048)

/-- Set bits of a page's IRQ_STATUS; the page source sends when the enabled bits become non-zero (R458, R461). -/
def setIrq (s : State) (page : Nat) (v : Word) : State :=
  let en := mget s.host.irqEnable 0 page
  let old := mget s.host.irqStatus 0 page
  let s1 := { s with host := { s.host with irqStatus := mset s.host.irqStatus 0 page (old ||| v) } }
  if (old &&& en) = 0 ∧ ((old ||| v) &&& en) ≠ 0 then
    (match pageIndex page with | some k => signalSource s1 (64 + k) | none => s1)
  else s1

/-- A page's block event (R461). -/
def blockEvent (s : State) (page : Nat) : State := setIrq s page 1

/-- Record an access error on a page (R461, R463): cause and requester of the first since the last read. -/
def accessErr (s : State) (page cause requester offset : Nat) : State :=
  let e := mget s.host.acc {} page
  let e' : AccErr := if e.count = 0 then ⟨cause, requester, 1, offset % 0x1000⟩ else { e with count := min 511 (e.count + 1) }
  setIrq { s with host := { s.host with acc := mset s.host.acc {} page e' } } page 0x80000000

/-- A page answers (R434, R437): before READY HOST, AON, RST and CFG; in RECOVERY HOST and AON; before device firmware
runs, AON alone. -/
def pageAnswers (s : State) (page : Nat) : Bool :=
  isReady s || page == 0x1000 || (decide (3 ≤ s.boot.stage) && page == 0)
    || (decide (3 ≤ s.boot.stage ∧ s.boot.stage ≠ 0xE) && (page == 0x2000 || page == 0x5000))
/-- A write to a page that does not answer: dropped, and recorded on the HOST page while that one answers (R434). -/
def notReady (s : State) (requester offset : Nat) : State :=
  if 3 ≤ s.boot.stage then accessErr s 0 3 requester offset else s

/-- The body fields that most events fill (R457). -/
structure EvF where
  step : Nat := 0
  cause : Nat := 0
  tile : Nat := 0xFFFF
  unit : Nat := 0
  inst : Nat := 0
  coords : Nat := 0xFFFF
  word : Nat := 0
  a : Nat := 0
  b : Nat := 0
  va : Nat := 0
  vb : Nat := 0

/-- The 48 body bytes of those fields (R457). -/
def EvF.bytes (f : EvF) : List Byte :=
  leBytes 4 f.step ++ leBytes 2 f.cause ++ leBytes 2 f.tile ++ leBytes 1 f.unit ++ leBytes 1 f.inst
    ++ leBytes 2 f.coords ++ leBytes 4 f.word ++ leBytes 8 f.a ++ leBytes 8 f.b ++ leBytes 8 f.va ++ leBytes 8 f.vb

/-- The 64 bytes of an entry (R457). -/
def entryBytes (e : Ev) (phase : Bool) (seq : Nat) : List Byte :=
  leBytes 2 e.code ++ leBytes 1 e.ctx ++ leBytes 1 (b2n phase + 2 * b2n e.ret) ++ leBytes 4 seq
    ++ leBytes 8 e.time ++ e.body

/-- An event queue with its entry written at `base`: the new host memory and indices (R457). -/
def evqPut (m : Mem) (base slots : Nat) (q : EvQ) (e : Ev) : Mem × EvQ :=
  (m.write (base + 64 * q.prod) (entryBytes e q.phase q.seq),
   { q with prod := (q.prod + 1) % slots, seq := (q.seq + 1) % 2 ^ 32, phase := if q.prod + 1 = slots then !q.phase else q.phase })

/-- A ring is full when advancing its tail would make tail equal to head (R455). -/
def evqFull (q : EvQ) (slots : Nat) : Bool := decide ((q.prod + 1) % slots = q.cons)

/-- Slots of a context's event queue (R469). -/
def evqSlots (s : State) (c : Nat) : Nat := (rw s (jobBase c + 0x88)).toNat

/-- Write an entry to the part event queue, or count it as lost (R456, R457) (log 78, DEDUCED). -/
def partEntry (s : State) (e : Ev) : State :=
  let slots := (rw s 0x128).toNat
  if slots = 0 ∨ evqFull s.host.evq slots then
    { s with host := { s.host with evqLost := min (2 ^ 32 - 1) (s.host.evqLost + 1) } }
  else
    let r := evqPut s.hostMem (rw64 s 0x120) slots s.host.evq e
    let s1 : State := { s with hostMem := r.1, host := { s.host with evq := r.2 } }
    if e.irq then signalSource s1 0 else s1

/-- Write an entry to a context's own queue, which has room (R457). -/
def jobEntry (s : State) (c : Nat) (e : Ev) : State :=
  let r := evqPut s.hostMem (rw64 s (jobBase c + 0x80)) (evqSlots s c) (ctxOf s c).evq e
  let s1 := updCtx { s with hostMem := r.1 } c fun j => { j with evq := r.2 }
  if e.irq then signalSource s1 (1 + c) else s1

/-- An event of a job context (R457): to its queue, waiting while that is full, or to the part event queue while
the job queue has 0 slots (log 78, DEDUCED). -/
def jobEvent (s : State) (c : Nat) (e : Ev) : State :=
  let slots := evqSlots s c
  let q := (ctxOf s c).evq
  if slots = 0 then partEntry s e
  else if q.waiting ≠ [] ∨ evqFull q slots then
    updCtx s c fun j => { j with evq := { j.evq with waiting := j.evq.waiting ++ [e] } }
  else jobEntry s c e

/-- Write an entry to the retention log, which raises an in-band interrupt (R457, R460, R467). -/
def retain (s : State) (e : Ev) : State :=
  emit { s with tel := { s.tel with ret := (entryBytes { e with ret := true } true 0 :: s.tel.ret).take 16 } } (.ibi 0x02)

/-- A fault or other event of a job, with the common fields; the step is the job's (R457). -/
def raiseJob (s : State) (c code : Nat) (f : EvF) : State :=
  jobEvent s c ⟨code, c, now s, ({ f with step := (ctxOf s c).step } : EvF).bytes, true, false, none⟩

/-- An event of the part. -/
def raisePart (s : State) (code : Nat) (f : EvF) : State := partEntry s ⟨code, 0xFF, now s, f.bytes, true, false, none⟩

/-- An event of class Compute or Part: also written to the retention log (R251, R457). -/
def raiseRetained (s : State) (code : Nat) (f : EvF) : State :=
  let e : Ev := ⟨code, 0xFF, now s, f.bytes, true, true, none⟩
  partEntry (retain s e) e

/-! ### The Hardom's refusals and host DMA descriptors -/

/-- Refuse a security operation: the Hardom is busy until the answer, which is due 2 ms on (R397). -/
def secRefuse (s : State) (r : Refused) : State :=
  { s with sec := { s.sec with busy := true, refusing := s.sec.refusing ++ [r] } }
/-- DMA channel ch (R454). -/
def chanOf (s : State) (ch : Nat) : DmaChan := mget s.host.dma {} ch
/-- Change a DMA channel. -/
def updChan (s : State) (ch : Nat) (f : DmaChan → DmaChan) : State :=
  { s with host := { s.host with dma := mupd s.host.dma {} ch f } }
/-- Register block of a DMA channel (R467). -/
def chanBase (ch : Nat) : Nat := 0x800 + 0x20 * ch
/-- Slots of a channel's ring. -/
def chanSlots (s : State) (ch : Nat) : Nat := (rw s (chanBase ch + 8)).toNat
/-- Complete the descriptor a channel holds (R454): status, head, then the interrupt source. -/
def chanFinish (s : State) (ch status : Nat) : State :=
  let k := chanOf s ch
  match k.cur with
  | none => s
  | some (d, _) =>
    let at_ := rw64 s (chanBase ch) + 32 * k.head + 0x17
    let s1 := updChan { s with hostMem := s.hostMem.set at_ (BitVec.ofNat 8 status) } ch fun k =>
      { k with head := (k.head + 1) % max 1 (chanSlots s ch), cur := none }
    if bit (lat d 0x15 1) 1 then signalSource s1 (9 + ch) else s1

/-! ### Semaphores -/

/-- What an unlisted semaphore reads as: 0, or a free count where teardown or reset left it undefined (R271) (log 75, DESIGN CHOICE). -/
def semDflt (s : State) (t i : Nat) : Nat :=
  match mget s.tile.semUndef 0 (t / 16) with
  | 0 => 0
  | k + 1 => (Config.freeByte k (2 * (t * 256 + i))).toNat + 256 * (Config.freeByte k (2 * (t * 256 + i) + 1)).toNat
/-- Count of a semaphore (R72). -/
def semGet (s : State) (t i : Nat) : Nat := mget s.tile.sem (semDflt s t i) (t * 256 + i)
/-- Set a semaphore (R72). -/
def semPut (s : State) (t i v : Nat) : State :=
  { s with tile := { s.tile with sem := mset s.tile.sem (semDflt s t i) (t * 256 + i) v } }
/-- The semaphores of a course become undefined (R271) (log 75, DESIGN CHOICE). -/
def undefSems (s : State) (n : Nat) : State :=
  { s with
    free := s.free + 1
    tile := { s.tile with
      sem := s.tile.sem.filter fun p => p.1 / 4096 ≠ n
      semUndef := mset s.tile.semUndef 0 n (s.free + 1) } }
/-- Every semaphore of a course becomes 0 (R371, R483). -/
def zeroSems (s : State) (n : Nat) : State :=
  { s with tile := { s.tile with
      sem := s.tile.sem.filter fun p => p.1 / 4096 ≠ n
      semUndef := mset s.tile.semUndef 0 n 0 } }
/-- Initial value of a semaphore of a tile under a manifest (R73). -/
def semInitOf (m : Manifest) (t i : Nat) : Nat :=
  match (tilesOf m).findIdx? (· = t) with
  | some j => mget m.semInit 0 (j * 256 + i)
  | none => 0
/-- Set every semaphore of a course to a job's initial values (R137, R151). -/
def semInitCourse (s : State) (m : Manifest) (n : Nat) : State :=
  let rank := ((coursesOf m).filter (· < n)).length
  let keep := s.tile.sem.filter fun p => p.1 / 4096 ≠ n
  let mine := (m.semInit.filter fun p => p.1 / 4096 = rank).map fun p => (p.1 - rank * 4096 + n * 4096, p.2)
  { s with tile := { s.tile with
      sem := mine.foldl (fun l p => mset l 0 p.1 p.2) keep
      semUndef := mset s.tile.semUndef 0 n 0 } }

/-! ### Spin generators (R100 to R103) -/

/-- One advance of a generator: words a, b, w (R100). -/
def spinAdvance (st : Dword × Dword × Dword) : Dword × Dword × Dword :=
  let t := st.1
  let b := st.2.1
  let t' := t ^^^ (t <<< 23)
  (b, t' ^^^ b ^^^ (t' >>> 17) ^^^ (b >>> 26), st.2.2 + 0x9E3779B97F4A7C15)

/-- The output of a generator (R100). -/
def spinOut (st : Dword × Dword × Dword) : Word := ((st.2.1 + st.2.2) >>> 32).setWidth 32

/-- Iterate `spinAdvance`. -/
def spinN (n : Nat) (st : Dword × Dword × Dword) : Dword × Dword × Dword :=
  match n with
  | 0 => st
  | n + 1 => spinN n (spinAdvance st)

/-- The state a load gives lane L under seed S (R101). -/
def spinLoad (lane seed : Nat) : Dword × Dword × Dword :=
  (BitVec.ofNat 64 (lane + 1), BitVec.ofNat 64 seed, BitVec.ofNat 64 seed)

/-- Counted mode is live on a course (R103). -/
def counted (s : State) (n : Nat) : Bool := (live s (coursePage n + 0x108)).getLsbD 0

/-- The clock of a course pair runs: it is neither gated nor waiting for its wake (R102, R405, R411). -/
def clockRuns (s : State) (p : Nat) : Bool := !(pairOf s p).gated && !s.pwr.wakes.contains p
/-- Clocks that a course pair's domain has run (R102). -/
def pairClock (s : State) (p : Nat) : Nat := mget s.tile.pairClk 0 p
/-- Set the clock of a course pair's domain. -/
def setClock (s : State) (p k : Nat) : State := { s with tile := { s.tile with pairClk := mset s.tile.pairClk 0 p k } }
/-- Clocks pass in a course pair's domain, how many is open (R102); none while its clock is stopped (log 63, DESIGN CHOICE). -/
def clockTick (s : State) (p : Nat) : State :=
  if clockRuns s p then setClock { s with free := s.free + 1 } p (pairClock s p + Config.freeNat s.free) else s
/-- Advances of a course's generators since their load: one in each clock of the pair, none in counted mode (R102, R103). -/
def spinSteps (s : State) (n : Nat) : Nat :=
  (courseOf s n).spinClk + (if counted s n then 0 else pairClock s (n / 2) - (courseOf s n).spinSeen)
/-- The present output of the generator of lane j of tile t. -/
def spinRead (s : State) (t j : Nat) : Word :=
  spinOut (spinN (spinSteps s (t / 16) + mget s.tile.spinUse 0 (128 * t + j)) (spinLoad (128 * t + j) (courseOf s (t / 16)).seed))
/-- The generators of a course are stopped or set free at this clock: what they have advanced is kept (R103). -/
def spinSettle (s : State) (n : Nat) : State :=
  updCourse s n fun k => { k with spinClk := spinSteps s n, spinSeen := pairClock s (n / 2) }

/-- Consume lane j of a tile `k` times: in counted mode each consumption advances it once (R103) (log 63, DESIGN CHOICE). -/
def spinConsume (s : State) (t j k : Nat) : State :=
  if counted s (t / 16) then
    { s with tile := { s.tile with spinUse := mupd s.tile.spinUse 0 (128 * t + j) (· + k) } }
  else s

/-- Load the generators of a course with a seed (R101). -/
def spinReload (s : State) (n seed : Nat) : State :=
  let s1 := updCourse s n fun k => { k with seed := seed, spinClk := 0, spinSeen := pairClock s (n / 2) }
  { s1 with tile := { s1.tile with spinUse := s1.tile.spinUse.filter fun p => p.1 / 2048 ≠ n } }

/-! ### Freeze ticks (R57, R474 to R478) -/

/-- Copy every counter into its shadow on one edge, and start the roll-up (R474, R477). -/
def freezeNow (s : State) : State :=
  { s with tel := { s.tel with
      shadow := s.tel.cnt
      plumbShadow := s.tel.plumb
      tickTime := now s
      ticks := s.tel.ticks + 1
      valid := false
      rolling := true } }

/-- A request for a tick: taken now, or by the single tick at the end of the running roll-up (R477). -/
def freezeTick (s : State) : State :=
  if s.tel.rolling then { s with tel := { s.tel with again := true } } else freezeNow s

/-- Add the increments of a tile counter since the previous tick to the totals of the job whose step holds its
course and of the part (R478). -/
def rollOne (s : State) (tot : NMap Nat) (p : Nat × Nat) : NMap Nat :=
  let t := p.1 / 128
  let i := p.1 % 128
  let d := p.2 - mget s.tel.rolled 0 p.1
  let tot1 := mupd tot 0 (8 * 128 + i) (fun x => satAdd64 x d)
  match tileCtx s t with
  | some c => mupd tot1 0 (c * 128 + i) (fun x => satAdd64 x d)
  | none => tot1

/-- The increments since the previous tick go to the totals, before the job that held the tiles can change (R478). -/
def rollUp (s : State) : State :=
  { s with tel := { s.tel with
      totals := s.tel.plumbShadow.foldl (rollOne s) s.tel.totals
      rolled := s.tel.plumbShadow } }

/-- A freeze tick with its roll-up's sums (R474, R478): the sums are formed from the shadows of this edge. -/
def tick (s : State) : State :=
  if s.tel.rolling then freezeTick s else rollUp (freezeNow s)

/-- The highest fraction code, of mode cap and thermal limit (R21, R410, R420): 0 full, 1 1/2, 2 1/4, 3 1/8. -/
def rinkFraction (s : State) : Nat :=
  let m := (live s 0x4100).toNat % 4
  let cap := if m = 0 then 1 else if m = 2 then 0 else 2
  max (max cap s.pwr.iodFrac) (if s.pwr.brake then 2 else 0)

/-- A course of the part is computing: from admission to the start of the drain (R21). -/
def computing (s : State) : Bool := (List.range 8).any fun c => (ctxOf s c).stepIn && (ctxOf s c).state == .running

/-- Trowel fraction of a stack (R21, R410, R418, R420). -/
def trowelFraction (s : State) (k : Nat) : Nat :=
  let m := (live s 0x4100).toNat % 4
  let cap := if !computing s then 0 else if m = 0 then 2 else if m = 1 then 3 else 0
  max (max cap (mget s.pwr.trwFrac 0 k)) (if s.pwr.brake then 3 else 0)

/-! ### Course clocks (R409) -/

/-- Course clock cap of the power mode, 12.5 MHz units (R21). -/
def modeClock (s : State) : Nat :=
  let m := (live s 0x4100).toNat % 4
  if m = 2 then 96 else if m = 3 then 72 else if Config.gradeB then 124 else 144
/-- The limits of a pair's clock in the order of their codes (R409). -/
def clockLimits (s : State) (p : Nat) : List (Nat × Nat) :=
  let x := pairOf s p
  [(0, fld (live s 0x3100) 11 0), (1, modeClock s), (s.pwr.ceilCause, s.pwr.ceil), (4, x.therm), (5, x.volt)]
    ++ (if s.pwr.brake then [(6, 48)] else [])
/-- The least limit, never below 0.60 GHz (R409). -/
def clockTarget (s : State) (p : Nat) : Nat := max 48 ((clockLimits s p).foldl (fun b l => min b l.2) 4095)
/-- The pair's effective clock: the target, or less while the governor still paces a raise (R409, R413). -/
def effClock (s : State) (p : Nat) : Nat := min (pairOf s p).clk (clockTarget s p)
/-- Limit code of a pair: the lowest code among equal causes (R409). -/
def limitCode (s : State) (p : Nat) : Nat :=
  let b := (clockLimits s p).foldl (fun b l => min b l.2) 4095
  match (clockLimits s p).find? fun l => l.2 = b with | some l => l.1 | none => 0
/-- Lowering a clock is never paced (R413). -/
def lowerClocks (s : State) : State := forEach (List.range 16) s fun s p => updPair s p fun x => { x with clk := effClock s p }

end Sys2Proof.Machine
end

