-- ==== Sys2Proof/Machine/Net.lean ====
section
/-! DEFINITION. The switchback's shared operations: coordinates, routing, credits and arbitration, notices, fabric
tags (spec/07_sorius_fabric.md, spec/08_fault_tolerance.md). -/

namespace Sys2Proof.Machine

/-! ### Coordinates (R202, R203, R216, R224, R265) -/

/-- Coordinate of a packed triple along axis 0 X, 1 Y, 2 Z (R202). -/
def coordAx (p axis : Nat) : Nat := if axis = 0 then p / 1024 % 32 else if axis = 1 then p / 32 % 32 else p % 32
/-- Pack a triple (R202). -/
def packC (x y z : Nat) : Nat := x * 1024 + y * 32 + z
/-- Replace one coordinate of a packed triple. -/
def setAx (p axis v : Nat) : Nat :=
  packC (if axis = 0 then v else coordAx p 0) (if axis = 1 then v else coordAx p 1) (if axis = 2 then v else coordAx p 2)
/-- Extent of an axis (R202). -/
def extent (s : State) (axis : Nat) : Nat := coordAx ((live s 0x70100).toNat % 0x8000) axis + 1
/-- Wrap flag of an axis; bit 0 is X (R202, log 12). -/
def wrapOn (s : State) (axis : Nat) : Bool := (live s 0x70104).getLsbD axis
/-- The part's own physical coordinates (R202). -/
def ownCoord (s : State) : Nat := (live s 0x70108).toNat % 0x8000
/-- Live alias entries: (logical, physical) (R216). -/
def aliases (s : State) : List (Nat × Nat) :=
  (List.range 16).filterMap fun i =>
    let w := live s (0x70140 + 4 * i)
    if w.msb then some (fld w 30 16, fld w 14 0) else none
/-- Translate logical to physical coordinates (R216). -/
def toPhys (s : State) (l : Nat) : Nat :=
  match (aliases s).find? (·.1 = l) with
  | some e => e.2
  | none => l
/-- The part's logical coordinates (R265). -/
def ownLogical (s : State) : Nat :=
  match (aliases s).find? (·.2 = ownCoord s) with
  | some e => e.1
  | none => ownCoord s
/-- The coordinates lie within the system extents (R202). -/
def inSystem (s : State) (p : Nat) : Bool := (List.range 3).all fun a => decide (coordAx p a < extent s a)

/-- Origin coordinate and extent of a job box along an axis; the part alone when fabric_job is 0 (R224). -/
def boxOrg (s : State) (c axis : Nat) : Nat :=
  if fabricJob s c = 0 then coordAx (ownLogical s) axis else coordAx (fld (jobBox s c) 29 15) axis
/-- Extent of a job box along an axis (R224). -/
def boxExt (s : State) (c axis : Nat) : Nat :=
  if fabricJob s c = 0 then 1 else coordAx (fld (jobBox s c) 14 0) axis + 1
/-- Coordinate of a part relative to the box origin (R228). -/
def boxRel (s : State) (c l axis : Nat) : Nat :=
  (coordAx l axis + extent s axis - boxOrg s c axis % extent s axis) % extent s axis
/-- Logical coordinates lie in a job box (R224). -/
def inBox (s : State) (c l : Nat) : Bool := (List.range 3).all fun a => decide (boxRel s c l a < boxExt s c a)
/-- Logical coordinates of a box-relative position (R224). -/
def boxLogical (s : State) (c : Nat) (u : Nat → Nat) : Nat :=
  packC ((boxOrg s c 0 + u 0) % extent s 0) ((boxOrg s c 1 + u 1) % extent s 1) ((boxOrg s c 2 + u 2) % extent s 2)
/-- A physical part holds a place in a job box, after the alias table (R257). -/
def physInBox (s : State) (c p : Nat) : Bool :=
  ((aliases s).any fun e => decide (e.2 = p) && inBox s c e.1) ||
    (decide (toPhys s p = p) && !((aliases s).any fun e => decide (e.2 = p)) && inBox s c p)

/-- The neighbour cabled to a port, and none for an unused port (R203). -/
def neighbour (s : State) (port : Nat) : Option Nat :=
  let a := port / 4
  let e := extent s a
  let x := coordAx (ownCoord s) a
  if e = 1 then none
  else if port % 4 < 2 then
    (if x + 1 < e then some (setAx (ownCoord s) a (x + 1)) else if wrapOn s a then some (setAx (ownCoord s) a 0) else none)
  else
    (if 0 < x then some (setAx (ownCoord s) a (x - 1)) else if wrapOn s a then some (setAx (ownCoord s) a (e - 1)) else none)
/-- The neighbour's port at the far end of a port (R203). -/
def farPort (port : Nat) : Nat := port / 4 * 4 + (port % 4 + 2) % 4
/-- A link is in service (R239, R244). -/
def inService (s : State) (port : Nat) : Bool :=
  let l := linkOf s port
  decide (l.state = .up) && !l.out && !l.prbs
/-- The part is absent for this one (R255). -/
def isAbsent (s : State) (p : Nat) : Bool := s.fab.absent.any (·.1 = p)

/-! ### Routing (R211 to R214) -/

/-- Flits of a packet (R210). -/
def flits (p : Packet) : Nat := cdiv (32 + p.payload.length) 64
/-- Axis and direction (0 plus, 1 minus) a packet takes; none at its destination (R211). -/
def routeDir (s : State) (dst : Nat) : Option (Nat × Nat) :=
  ((List.range 3).find? fun a => coordAx dst a ≠ coordAx (ownCoord s) a).map fun a =>
    let e := extent s a
    let x := coordAx (ownCoord s) a
    let y := coordAx dst a
    let d := (y + e - x % e) % e
    if wrapOn s a then
      (a, if d < e - d then 0 else if d > e - d then 1 else if x % 2 = 0 then 0 else 1)
    else (a, if y > x then 0 else 1)
/-- A port can carry a packet: in service and not leading to an absent part (R214). -/
def usable (s : State) (port : Nat) : Bool :=
  inService s port && (match neighbour s port with | some n => !isAbsent s n | none => false)
/-- Credits held on a port's VC. -/
def creditsOn (s : State) (port vc : Nat) : Nat := mget (linkOf s port).credits 0 vc
/-- Link a or b of a direction: more free credits, a on a tie; the other when one is out (R212). -/
def pickPort (s : State) (a dir vc : Nat) : Option Nat :=
  let pa := a * 4 + dir * 2
  let pb := pa + 1
  match usable s pa, usable s pb with
  | true, true => some (if creditsOn s pb vc > creditsOn s pa vc then pb else pa)
  | true, false => some pa
  | false, true => some pb
  | false, false => none
/-- Sidestep order of a blocked axis: (axis, direction) (R214). -/
def sideOrder (a : Nat) : List (Nat × Nat) :=
  if a = 0 then [(1, 0), (1, 1), (2, 0), (2, 1)]
  else if a = 1 then [(2, 0), (2, 1), (0, 0), (0, 1)]
  else [(0, 0), (0, 1), (1, 0), (1, 1)]
/-- What a switchback does with a packet. -/
inductive Hop where
  | deliver
  | port (n : Nat) (p : Packet) (cont : Bool)
  | discard
deriving DecidableEq, Repr
/-- Route a packet that arrived on `inPort`, or is injected (R206, R211 to R214, R255); a TIME packet is never forwarded (R237). -/
def routeHop (s : State) (inPort : Option Nat) (p : Packet) : Hop :=
  if p.ty = 0 ∨ p.ty ≥ 0x0C ∨ isAbsent s p.dst ∨ (p.ty = 0x0A ∧ p.dst ≠ ownCoord s) then .discard
  else
    match routeDir s p.dst with
    | none => .deliver
    | some (a, d) =>
      match pickPort s a d p.vc with
      | some n => .port n p (decide (inPort.map (· / 4) = some a))
      | none =>
        if p.side ≥ 2 then .discard
        else
          match (sideOrder a).findSome? fun x => pickPort s x.1 x.2 6 with
          | some n => .port n { p with vc := 6, side := p.side + 1 } false
          | none => .discard
/-- Free credits a packet needs at the next hop (R210). -/
def creditNeed (p : Packet) (cont : Bool) : Nat := if p.vc = 6 then flits p else if cont then 9 else 18
/-- A packet leaves the input buffer that held it: its credits go back to the sender on that port (R210). -/
def freeInput (s : State) (q : QPkt) : State :=
  match q.inp with
  | some (port, vc) =>
    emit (updLink s port fun l => { l with inUse := mupd l.inUse 0 vc (· - flits q.p) }) (.credit port vc (flits q.p))
  | none => s
/-- A TIME packet is stamped by the port as its first bit leaves (R237). -/
def stamped (s : State) (p : Packet) : Packet :=
  if p.ty = 0x0A then { p with payload := leBytes 8 (now s) ++ p.payload.drop 8 } else p
/-- What a replay buffer holds once a packet has started: the last 4 µs of traffic (R240). -/
def replayKeep (l : List (Packet × Nat)) (p : Packet) (t : Nat) : List (Packet × Nat) :=
  (l.filter fun x => decide (t ≤ x.2 + 4000)) ++ [(p, t)]
/-- Start a packet on a port, spending one credit a flit (R210). -/
def startPacket (s : State) (port : Nat) (q : QPkt) : State :=
  let p := stamped s q.p
  freeInput (emit (updLink s port fun l => { l with
    credits := mupd l.credits 0 p.vc (· - flits p)
    tSent := if p.ty = 0x0A then now s else l.tSent
    replay := replayKeep l.replay p (now s) }) (.packet (some port) p)) q
/-- Send a packet on a port now, or queue it (R209, R210). -/
def sendOn (s : State) (port : Nat) (q : QPkt) : State :=
  let l := linkOf s port
  if (l.queue.all fun x => x.p.vc ≠ q.p.vc) ∧ creditNeed q.p q.cont ≤ creditsOn s port q.p.vc then startPacket s port q
  else updLink s port fun l => { l with queue := l.queue ++ [q] }
/-- First queued packet of a VC, if its credits suffice. -/
def readyOn (s : State) (port vc : Nat) : Option QPkt :=
  match (linkOf s port).queue.find? fun q => q.p.vc = vc with
  | some q => if creditNeed q.p q.cont ≤ creditsOn s port vc then some q else none
  | none => none
/-- The VC served next: 7, 4, 6, then 5 and the request group in turn, requests round-robin (R209). -/
def nextVc (s : State) (port : Nat) : Option Nat :=
  let r := fun vc => (readyOn s port vc).isSome
  let l := linkOf s port
  let req := ((List.range 4).map fun i => (l.lastReq + 1 + i) % 4).find? r
  if r 7 then some 7 else if r 4 then some 4 else if r 6 then some 6
  else if r 5 ∧ (l.lastColl = false ∨ req = none) then some 5
  else match req with
    | some v => some v
    | none => if r 5 then some 5 else none
/-- Start the next queued packet of a port, if any can start (R209). -/
def serveOne (s : State) (port : Nat) : State :=
  match nextVc s port with
  | none => s
  | some vc =>
    match readyOn s port vc with
    | none => s
    | some q =>
      let s1 := updLink s port fun l => { l with
        queue := l.queue.eraseP (fun x => decide (x.p.vc = vc))
        lastColl := if vc = 5 then true else if vc < 4 then false else l.lastColl
        lastReq := if vc < 4 then vc else l.lastReq }
      startPacket s1 port q
/-- Start queued packets of a port until none can start; at most `n`. -/
def servePort (s : State) (port : Nat) : Nat → State
  | 0 => s
  | n + 1 => match nextVc s port with
    | none => s
    | some _ => servePort (serveOne s port) port n

/-- Report of a discarded packet to its source (R214): LATE_WRITE or READ_NAK with cause 5; none for other types. -/
def reportOf (s : State) (p : Packet) (cause : Nat) : Option Packet :=
  let base : Packet :=
    { ty := 4, vc := 4, side := 0, dst := p.src, src := ownCoord s, fabricJob := p.fabricJob, tag := p.tag,
      step := p.step, addr := p.addr, aux := BitVec.ofNat 32 cause, payload := [] }
  if p.ty = 1 ∨ p.ty = 2 then
    let r := leBytes 4 p.step ++ leBytes 1 cause ++ leBytes 1 0 ++ leBytes 2 0xFFFF ++ leBytes 2 p.dst ++ leBytes 2 (ownCoord s)
        ++ leBytes 4 0 ++ leBytes 8 p.addr ++ leBytes 4 0 ++ leBytes 4 0
    some { base with payload := r }
  else if p.ty = 5 ∨ p.ty = 6 then some { base with ty := 7 }
  else none
/-- Count a discarded packet (R206, R214, R255) (log 70, DEDUCED). -/
def countDiscard (s : State) : State := bump s 0x70130 1
/-- Carry a routing decision out, without reports; `inp` is the input buffer that holds the packet. -/
def doHop (s : State) (inp : Option (Nat × Nat)) (p : Packet) : Hop → State
  | .deliver => freeInput (emit s (.packet none p)) { p := p, inp := inp }
  | .port n q cont => sendOn s n { p := q, cont := cont, inp := inp }
  | .discard => freeInput (countDiscard s) { p := p, inp := inp }
/-- Route a packet and report it if it is discarded (R211 to R214). -/
def forward (s : State) (inp : Option (Nat × Nat)) (p : Packet) : State :=
  let h := routeHop s (inp.map (·.1)) p
  let s1 := doHop s inp p h
  match h, reportOf s p 5 with
  | .discard, some r => if p.ty = 0 ∨ p.ty ≥ 0x0C then s1 else doHop s1 none r (routeHop s1 none r)
  | _, _ => s1
/-- Inject a packet of this part. -/
def inject (s : State) (p : Packet) : State := forward s none p
/-- A packet arrives on a port: the input buffer of its VC holds it until it goes on (R210). -/
def arrive (s : State) (port : Nat) (p : Packet) : State :=
  forward (updLink s port fun l => { l with inUse := mupd l.inUse 0 p.vc (· + flits p) }) (some (port, p.vc)) p

/-! ### Control packets and notices (R207, R255, R256) -/

/-- A CTRL packet (R207). -/
def ctrlPacket (s : State) (dst job step : Nat) (aux : Word) (payload : List Byte) : Packet :=
  { ty := 9, vc := 7, side := 0, dst := dst, src := ownCoord s, fabricJob := job, tag := 0, step := step, addr := 0, aux := aux, payload := payload }
/-- Send a notice on every port in service but one (R255). -/
def flood (s : State) (kind job : Nat) (payload : List Byte) (except : Option Nat) : State :=
  forEach (List.range 12) s fun s port =>
    if inService s port ∧ some port ≠ except then
      (match neighbour s port with
       | some n =>
         if isAbsent s n then countDiscard s
         else sendOn s port { p := ctrlPacket s n job 0 (BitVec.ofNat 32 (kind <<< 24)) payload }
       | none => s)
    else s
/-- The payload of a notice (R256). -/
def noticeBytes (b01 reporter b4 b5 : Nat) : List Byte :=
  leBytes 2 b01 ++ leBytes 2 reporter ++ leBytes 1 b4 ++ leBytes 1 b5 ++ leBytes 2 0
/-- The key of a notice is held, not older than 100 ms (R256). -/
def hasKey (s : State) (kind b01 b4 : Nat) : Bool :=
  s.fab.keys.any fun k => decide (k.1 = kind ∧ k.2.1 = b01 ∧ k.2.2.1 = b4 ∧ now s < k.2.2.2 + 100000000)
/-- Keep a key; when the cache of 256 is full the oldest is dropped (R256). -/
def addKey (s : State) (kind b01 b4 : Nat) : State :=
  let live := s.fab.keys.filter fun k => decide (now s < k.2.2.2 + 100000000)
  let keys := live ++ [(kind, b01, b4, now s)]
  { s with fab := { s.fab with keys := keys.drop (keys.length - 256) } }
/-- Flood a job-lost notice of a job that spans parts (R248). -/
def floodJobLost (s : State) (c b4 : Nat) : State :=
  let fj := fabricJob s c
  if fj = 0 then s
  else flood (addKey s 0x12 fj 0) 0x12 fj (noticeBytes fj (ownCoord s) b4 0) none
/-- Flood a plough notice (R258). -/
def floodPlough (s : State) (c mode cause : Nat) : State :=
  let fj := fabricJob s c
  if fj = 0 then s
  else flood (addKey s 0x13 fj mode) 0x13 fj (noticeBytes fj (ownCoord s) mode cause) none

/-! ### Fabric tags (R218) -/

/-- Fabric tags a context holds; context 8 is device firmware. -/
def tagsHeld (s : State) (c : Nat) : Nat := (s.fab.tags.filter (·.2 = c)).length
/-- The lowest tag value not in use (log 15). -/
def freeTag (s : State) : Nat :=
  ((List.range (s.fab.tags.length + 1)).find? fun t => !(s.fab.tags.any (·.1 = t))).getD 0
/-- Take a tag for a context (log 15, DESIGN CHOICE). -/
def takeTag (s : State) (c : Nat) : Nat × State :=
  let t := freeTag s
  (t, { s with fab := { s.fab with tags := s.fab.tags ++ [(t, c)] } })
/-- Free a tag. -/
def dropTag (s : State) (t : Nat) : State := { s with fab := { s.fab with tags := s.fab.tags.filter (·.1 ≠ t) } }
/-- Bursts of an epoch outstanding (R222). -/
def outstanding (j : JobCtx) (step : Nat) : Nat :=
  let e := mget j.fab.epochs {} step
  e.issued - e.done

/-! ### Training of links (R239) -/

/-- SLNK_STATE of a port (R471). -/
def linkWord (l : Link) : Word :=
  let n := match l.state with | .detect => 0 | .equalise => 1 | .align => 2 | .ident => 3 | .credit => 4 | .up => 5
  BitVec.ofNat 32 (n + 8 * b2n l.out + 16 * l.lanes + 64 * b2n l.prbs)
/-- Change a port; a change of SLNK_STATE is its page's block event (R461). -/
def chgLink (s : State) (port : Nat) (f : Link → Link) : State :=
  let s1 := updLink s port f
  if linkWord (linkOf s1 port) = linkWord (linkOf s port) then s1 else blockEvent s1 (slnkPage port)
/-- Send the packets that waited for a port by another way, the twin link first (R242, R243). A TIME packet is for this
port alone (R237). -/
def reroute (s : State) (port : Nat) : State :=
  let q := (linkOf s port).queue
  forEach (q.filter fun x => x.p.ty ≠ 0x0A) (updLink s port fun l => { l with queue := [] }) fun s x => forward s x.inp x.p
/-- The port is disabled, or unused (R203, R471). -/
def portOff (s : State) (port : Nat) : Bool := !((live s (slnkPage port + 0x100)).getLsbD 0) || (neighbour s port).isNone
/-- Bring a link up anew on the lanes it has, or hold it powered down when its port is unused or disabled (R203, R239). -/
def retrainLink (s : State) (port : Nat) : State :=
  chgLink s port fun l =>
    { l with state := .detect, out := portOff s port, prbs := false, agreed := false, lost := false, credits := [], replay := [],
             inUse := [], hops := 0xFF }
/-- The host or a warm reset restarts a link: it trains on all its lanes again (R239, R241). -/
def restartLink (s : State) (port : Nat) : State := retrainLink (chgLink s port fun l => { l with lanes := 0, bad := 0 }) port
/-- Take a link out of service (R243, R254); one that was UP trains again when the far end answers. -/
def outLink (s : State) (port : Nat) : State :=
  chgLink s port fun l =>
    { l with
      lost := decide (l.state = .up) || l.agreed
      state := if l.state = .up ∨ l.agreed = true then .detect else l.state
      out := true, prbs := false, agreed := false, softRst := false, credits := [], replay := [], inUse := [], hops := 0xFF }
/-- The other link of the same direction (R201). -/
def twinOf (port : Nat) : Nat := port / 2 * 2 + (1 - port % 2)
/-- A PRBS test stops when its twin leaves service (R485). -/
def twinCheck (s : State) (port : Nat) : State := if (linkOf s (twinOf port)).prbs then retrainLink s (twinOf port) else s
/-- A port counts as present: in service, or retraining by agreement (R254). -/
def portPresent (s : State) (p : Nat) : Bool :=
  let l := linkOf s p
  !l.out && (decide (l.state = .up) || l.agreed)
/-- The switchback runs: it stops at a warm or cold reset, a loss of power and a Part-class event (R16). -/
def switchbackRuns (s : State) : Bool := s.boot.aon && !s.boot.stopped && !s.pwr.dead

/-! ### The time followed (R236, R238, R257) -/

/-- The part is the time master (R236). -/
def isMaster (s : State) : Bool := (live s 0x70110).getLsbD 0
/-- The port followed: fewest hops to the master, then the lower port (R236); an absent neighbour is not followed (R257). -/
def followPort (s : State) : Option Nat :=
  let c := (List.range 12).filter fun p => usable s p && decide ((linkOf s p).hops ≠ 0xFF)
  c.foldl (fun b p => match b with
    | none => some p
    | some q => if (linkOf s p).hops < (linkOf s q).hops then some p else some q) none
/-- Follow the best neighbour, or run on in holdover when every path to the master is lost (R236, R238). -/
def refollow (s : State) : State :=
  if isMaster s then { s with fab := { s.fab with hops := 0, holdover := false } }
  else match followPort s with
    | some p => { s with fab := { s.fab with follow := p, hops := min 255 ((linkOf s p).hops + 1), holdover := false } }
    | none =>
      let s1 := { s with fab := { s.fab with hops := 0xFF, slew := 0 } }
      if s.fab.locked ∧ ¬ s.fab.holdover then raisePart { s1 with fab := { s1.fab with holdover := true } } 0x0105 {} else s1

end Sys2Proof.Machine
end

