-- ==== Sys2Proof/Machine/RinkOps.lean ====
section
/-! DEFINITION. Rink's rings, stream contexts, tasks and the split, as every part of the model that touches Rink sees them
(spec/09_media_ingest.md, R279 to R284, R308). -/

namespace Sys2Proof.Machine

/-! ### Stream contexts (R279 to R282) -/

/-- Device address of stream context entry e (R279). -/
def entryAddr (e : Nat) : Nat := 0x8FF0000000 + 1024 * e
/-- Key of the hardware context table (R280). -/
def tableKey (c stream : Nat) : Nat := 2 ^ 18 * c + stream
/-- Entry of a stream of a job, if the table maps one (R280). -/
def entryOf (s : State) (c stream : Nat) : Option Nat :=
  match mget s.rink.table 0 (tableKey c stream) with
  | 0 => none
  | e + 1 => if stream < 2 ^ 18 then some e else none
/-- State byte of an entry: 0 FREE, 1 OPEN, 2 ACTIVE (R281). -/
def entryState (s : State) (e : Nat) : Nat := (devGet s (entryAddr e)).toNat
/-- Set the state byte of an entry. -/
def setEntryState (s : State) (e v : Nat) : State :=
  { s with mem := { s.mem with dev := memSet s.mem.dev (entryAddr e) (BitVec.ofNat 8 v) } }
/-- Entries of a job, by the table. -/
def entriesOf (s : State) (c : Nat) : List Nat :=
  (s.rink.table.filter fun p => p.1 / 2 ^ 18 = c).map fun p => p.2 - 1
/-- Entries that no job has: a job's streams take them from the lowest on; which ones R280 leaves open (log 103, DESIGN CHOICE). -/
def freeEntries (s : State) (n : Nat) : List Nat :=
  let used := s.rink.table.map fun p => p.2 - 1
  ((List.range (n + used.length)).filter fun e => !used.contains e).take n
/-- The loader enters a job's stream_ctx entries in the hardware context table (R280). -/
def giveEntries (s : State) (c n : Nat) : State :=
  let rest := s.rink.table.filter fun p => p.1 / 2 ^ 18 ≠ c
  { s with rink := { s.rink with
      table := (freeEntries s n).zipIdx.foldl (fun m p => mset m 0 (tableKey c p.2) (p.1 + 1)) rest } }
/-- A field of an entry (R281). -/
def entGet (s : State) (e o n : Nat) : Nat := devNat s (entryAddr e + o) n
/-- Write bytes of an entry; firmware alone writes there (R281). -/
def entPut (s : State) (e o : Nat) (b : List Byte) : State :=
  { s with mem := { s.mem with dev := memWrite s.mem.dev (entryAddr e + o) b } }
/-- Write a field of an entry (R281). -/
def entSet (s : State) (e o n v : Nat) : State := entPut s e o (leBytes n v)
/-- Flags of an entry: host_path, tainted, have_good (R281). -/
def entFlag (s : State) (e i : Nat) : Bool := bit (entGet s e 3 1) i
/-- Firmware state of an entry. -/
def strmOf (s : State) (e : Nat) : Strm := mget s.rink.strm {} e
/-- Change it. -/
def updStrm (s : State) (e : Nat) (f : Strm → Strm) : State :=
  { s with rink := { s.rink with strm := mupd s.rink.strm {} e f } }

/-! ### Rings and tasks (R283, R284) -/

/-- Base and slots of a Rink ring of a context: k 0 ingest, 1 encode (R283, R317). -/
def rinkRing (s : State) (c k : Nat) : Nat × Nat :=
  let o := 0x80200 + 0x20 * c
  if k = 0 then (live64 s o, (live s (o + 0x08)).toNat) else (live64 s (o + 0x0C), (live s (o + 0x14)).toNat)
/-- Key of a ring: ctx × 2 + (0 ingest, 1 encode). -/
def ringKey (c : Nat) (enc : Bool) : Nat := 2 * c + b2n enc
/-- Base and slots of a ring of a context (R283, R317). -/
def ringOf (s : State) (c : Nat) (enc : Bool) : Nat × Nat := rinkRing s c (b2n enc)
/-- Address of a slot (R283). -/
def slotAddr (s : State) (c : Nat) (enc : Bool) (slot : Nat) : Nat := (ringOf s c enc).1 + 64 + 128 * slot
/-- Head of a ring as Rink holds it. -/
def ringHead (s : State) (c : Nat) (enc : Bool) : Nat := mget s.rink.next 0 (ringKey c enc)
/-- A task of a ring's slot. -/
def taskOf (s : State) (c : Nat) (enc : Bool) (slot : Nat) : Option RTask :=
  s.rink.tasks.find? fun t => decide (t.ctx = c ∧ t.enc = enc ∧ t.slot = slot)
/-- Replace a task. -/
def putTask (s : State) (t : RTask) : State :=
  { s with rink := { s.rink with tasks := s.rink.tasks.map fun x => if x.ctx = t.ctx ∧ x.enc = t.enc ∧ x.slot = t.slot then t else x } }
/-- Stream number of a descriptor (R285, R319). -/
def RTask.stream (t : RTask) : Nat := lat t.d 4 4
/-- Entry of a task's stream. -/
def taskEntry (s : State) (t : RTask) : Option Nat := entryOf s t.ctx t.stream

/-- Bytes of the statistics of a picture of w × h (R335). -/
def statSize (w h : Nat) : Nat :=
  64 + 64 * cdiv (8 * cdiv w 8 * cdiv h 8) 64 + 64 * cdiv (4 * cdiv w 16 * cdiv h 16) 64 + 512

/-! ### Classes and the split (R308) -/

/-- Class of a coding: 0 VDEC, 1 IDEC, 2 ADEC, 3 SHAP; none for a reserved code (R284). -/
def codingClass (k : Nat) : Option Nat :=
  if 1 ≤ k ∧ k ≤ 4 then some 0 else if 5 ≤ k ∧ k ≤ 8 then some 1 else if k = 9 then some 3 else if 0x10 ≤ k ∧ k ≤ 0x13 then some 2 else none
/-- Class of a media unit; none for an encoder. -/
def unitClass : MediaUnit → Option Nat
  | .vdec _ => some 0 | .idec _ => some 1 | .adec => some 2 | .shap _ => some 3 | .venc _ => none
/-- Coding of a task's stream, as its context holds it. -/
def taskCoding (s : State) (t : RTask) : Nat := match taskEntry s t with | some e => entGet s e 1 1 | none => 0
/-- Class that a task waits for; none while it waits for no unit. -/
def waitsFor (s : State) (t : RTask) : Option Nat :=
  if t.enc then none
  else match t.phase with
    | .taken => if lat t.d 0 1 = 2 then codingClass (taskCoding s t) else if lat t.d 0 1 = 3 then some 3 else none
    | .decoded => some 3
    | _ => none
/-- Depth of a class (R308). -/
def classDepth (s : State) (k : Nat) : Nat := (s.rink.tasks.filter fun t => waitsFor s t = some k).length
/-- RINK_SPLIT of a class: mode, hi_mark, lo_mark (R471). -/
def splitOf (s : State) (k : Nat) : Nat × Nat × Nat :=
  let v := live s (0x80100 + 4 * k)
  (fld v 1 0, fld v 12 4, fld v 23 16)
/-- The spilling states follow the depths (R308). -/
def updSpill (s : State) : State :=
  forEach (List.range 4) s fun s k =>
    let m := splitOf s k
    let d := classDepth s k
    let v := decide (m.1 = 1) && (decide (m.2.1 ≤ d) || (mget s.rink.spill false k && decide (m.2.2 < d)))
    { s with rink := { s.rink with spill := mset s.rink.spill false k v } }
/-- The class sends work to the host: spilling, or always (R308). -/
def spills (s : State) (k : Nat) : Bool := decide ((splitOf s k).1 = 2) || (decide ((splitOf s k).1 = 1) && mget s.rink.spill false k)

end Sys2Proof.Machine
end

