-- ==== Sys2Proof/Machine/Stop.lean ====
section
/-! DEFINITION. Stopping a job, the snowplough, links that leave service and parts that go absent: what an apply, a
packet and a fault share (spec/08_fault_tolerance.md, R250 to R262; spec/07_sorius_fabric.md, R238 to R243). -/

namespace Sys2Proof.Machine

/-! ### The POST side of a stop -/

/-- POST ring of a context on a die: base and slots (R126). -/
def postRing (s : State) (d c : Nat) : Nat × Nat := (mget s.post.base 0 (8 * d + c), mget s.post.slots 0 (8 * d + c))
/-- The POST unit of a die runs a command of the context. -/
def postRuns (s : State) (d c : Nat) : Bool :=
  match mget s.post.run none d with | some r => r.ctx = c | none => false
/-- POST stops the job's running commands (R134). -/
def postHalt (s : State) (c : Nat) : State :=
  forEach (List.range 4) s fun s d => if postRuns s d c then { s with post := { s.post with run := mset s.post.run none d none } } else s
/-- POST discards the job's pending commands: each ring's head moves to its tail (R259, R134). -/
def postDiscard (s : State) (c : Nat) : State :=
  forEach (List.range 4) s fun s d =>
    let r := postRing s d c
    if r.2 = 0 then s else devWrite s none (r.1 + 4) (devRead s r.1 4)

/-! ### Stopping a job (R259 actions 1 to 4) -/

/-- The courses that a job holds: those of its step, those its vector registers and semaphores were left in, and, of an
exclusive job, all its courses (R137). -/
def heldCourses (s : State) (c : Nat) : List Nat :=
  let m := (ctxOf s c).man
  (coursesOf m).filter fun n => match courseHolder s n with
    | some d => decide (d = c)
    | none => m.exclusive || decide (mget s.job.courseCtx 8 n = c)
/-- Clear a sequencer's queues and hold (R259 actions 1 and 2). -/
def stopSeqr (q : Seqr) : Seqr := { q with descs := [], hold := none, waited := false, stepEnd := false }
/-- Device-memory ranges that a running descriptor writes: rows of a DMA, data of a get, the result of a collective
step (R78, R79, R94, R230). -/
def outRanges (m : Manifest) (d : Desc) : List (Nat × Nat) :=
  let w := fun i => d.w.getD i 0
  let cls := fld (w 0) 31 28
  if d.phase ≠ .started then []
  else if cls = 1 ∧ fld (w 3) 31 30 = 0 ∧ (w 3).getLsbD 27 then
    (List.range (fld (w 6) 15 0)).flatMap fun p => (List.range (fld (w 6) 31 16)).map fun r =>
      (2 ^ 32 * fld (w 3) 8 0 + (w 2).toNat + p * (w 8).toNat + r * (w 7).toNat, fld (w 5) 20 0)
  else if cls = 7 ∧ fld (w 2) 31 28 = 1 ∧ fld (w 6) 31 30 ≠ 0 then [(2 ^ 32 * fld (w 6) 8 0 + (w 5).toNat, (w 7).toNat)]
  else if cls = 7 ∧ fld (w 2) 31 28 = 2 then
    (let e := m.colls.getD (fld (w 10) 31 16) []
     let k := lat e 0 1
     let seg := lat e 0x0C 4
     let all := lat e 4 1 * lat e 5 1 * lat e 6 1 * seg
     let n := if k = 1 ∨ k = 5 then seg else all
     [(lat e 0x20 8 + fld (w 10) 15 0 * n, n)])
  else []
/-- Those ranges become undefined, as far as the job may write them (R153, R259 action 2). -/
def undefOut (m : Manifest) (s : State) (r : Nat × Nat) : State :=
  let n := match regionCheck m 1 r.1 r.2 with | some (x, _) => x - r.1 | none => r.2
  if n = 0 then s else devUndef s r.1 n
/-- Output ranges of a media task that a unit has started: rows of a tensor or planes for the host; of an encode, the
coded picture and its statistics (R285, R286, R319). -/
def mediaRanges (s : State) (t : RTask) : List (Nat × Nat) :=
  if t.phase = .taken then []
  else if t.enc then
    [(lat t.d 0x10 8, lat t.d 0x18 4)] ++ (if bit (lat t.d 1 1) 2 then
      [(lat t.d 0x20 8, match taskEntry s t with | some e => statSize (entGet s e 0x20 2) (entGet s e 0x22 2) | none => 0)] else [])
  else if (lat t.d 0 1 = 2 ∧ lat t.d 1 1 % 2 = 0) ∨ t.unit = some .adec then []
  else if t.hostShape then [(lat t.d 0x40 8, 6 * t.geom.1 * t.geom.2.1)]
  else
    let b := if devNat s (lat t.d 0x30 8 + 0xD) 1 = 4 then 32 else 64
    (List.range (lat t.d 0x2E 2)).map fun y => (lat t.d 0x20 8 + y * lat t.d 0x28 4, lat t.d 0x2C 2 * b)
/-- Rink abandons what it holds of a job: outputs become undefined, contexts return to OPEN as they were, and the ring is
taken again from its head (R311, R340) (log 103, DESIGN CHOICE). -/
def rinkStop (s : State) (c : Nat) : State :=
  let m := (ctxOf s c).man
  let outs := (s.rink.tasks.filter fun x => x.ctx = c).flatMap (mediaRanges s)
  let s0 := forEach outs s (undefOut m)
  let s1 := forEach (entriesOf s0 c) s0 fun s e => if entryState s e = 2 then setEntryState s e 1 else s
  let headOf := fun k => let r := rinkRing s c k; if r.2 = 0 then 0 else devNat s1 (r.1 + 4) 4
  updSpill { s1 with rink := { s1.rink with
      tasks := s1.rink.tasks.filter fun x => x.ctx ≠ c
      next := mset (mset s1.rink.next 0 (2 * c) (headOf 0)) 0 (2 * c + 1) (headOf 1) } }
/-- Stream contexts of a job become FREE, their bytes otherwise left (R280). -/
def rinkFree (s : State) (c : Nat) : State :=
  let es := entriesOf s c
  let s1 := forEach es s fun s e => setEntryState s e 0
  updSpill { s1 with rink := { s1.rink with
      tasks := s1.rink.tasks.filter fun x => x.ctx ≠ c
      table := s1.rink.table.filter fun p => p.1 / 2 ^ 18 ≠ c
      strm := s1.rink.strm.filter fun p => !es.contains p.1
      ahead := s1.rink.ahead.filter fun p => p.1 / 2 ≠ c
      tails := mset (mset s1.rink.tails 0 (2 * c) 0) 0 (2 * c + 1) 0
      merr := mset s1.rink.merr [] c []
      merrOvf := mset s1.rink.merrOvf 0 c 0 } }
/-- The job's tiles stop; the output ranges of their running descriptors, their stores and the job's bed scratch become
undefined (R259 actions 1 and 2). -/
def stopTiles (s : State) (c : Nat) : State :=
  let m := (ctxOf s c).man
  let cs := heldCourses s c
  let running := (s.tile.seqs.filter fun p => cs.contains (p.1 / 16)).flatMap fun p => p.2.descs
  let s0 := forEach (running.flatMap (outRanges m)) s (undefOut m)
  let s1 := forEach cs s0 fun s n =>
    undefCourse { s with tile := { s.tile with seqs := s.tile.seqs.map fun p => if p.1 / 16 = n then (p.1, stopSeqr p.2) else p } } n
  let s2 := if m.bedWays = 0 then s1 else undefScratch s1 c
  { s2 with tile := { s2.tile with bars := s2.tile.bars.filter fun b => b.ctx ≠ c } }
/-- The fabric side ends: tags freed, gets, instances and reductions end, the epoch is closed (R259 action 3). -/
def stopFab (s : State) (c : Nat) : State :=
  let j := ctxOf s c
  let s1 := updFab s c fun f => { f with
    bursts := f.bursts.filter fun b => b.source ≠ 0
    gets := []
    insts := []
    collHeld := []
    reds := []
    held := []
    closed := if j.inStep then some j.step else f.closed }
  { s1 with fab := { s1.fab with tags := s1.fab.tags.filter fun t => t.2 ≠ c } }
/-- Events of the job that wait for room with their EVENT descriptor are not accepted; accepted ones are kept (R259). -/
def stopEvents (s : State) (c : Nat) : State :=
  updCtx s c fun j => { j with evq := { j.evq with waiting := j.evq.waiting.filter fun e => e.tile = none } }
/-- Actions 1 to 4 of R259. -/
def stopJob (s : State) (c : Nat) : State := rinkStop (postHalt (stopEvents (stopFab (stopTiles s c) c) c) c) c

/-! ### Parking and the snowplough -/

/-- Every semaphore of the job's tiles takes its initial value (R259 action 5). -/
def resetSems (s : State) (c : Nat) (cs : List Nat) : State := forEach cs s fun s n => semInitCourse s (ctxOf s c).man n

/-- The context parks: no step, no reduction, the preempt and plough consumed (R343, R364). -/
def parked (s : State) (c : Nat) : State :=
  updCtx s c fun j => { j with
    state := .parked
    stepIn := false
    preempt := false
    plough := none
    startWait := false
    bnd := { j.bnd with phase := .none, aborting := false }
    fab := { j.fab with reds := [], held := [] } }

/-- Absent parts whose logical coordinates lie in the job's box (R262). -/
def absentInBox (s : State) (c : Nat) : List Nat := (s.fab.absent.map (·.1)).filter (physInBox s c)

/-- The 32-byte record of JOB_PLOUGHED (R262). -/
def ploughRecord (s : State) (c cause mode aborted : Nat) : List Byte :=
  let j := ctxOf s c
  let ab := absentInBox s c
  leBytes 4 j.trn.committed ++ leBytes 4 j.trn.trailStep ++ leBytes 4 j.trn.baseStep ++ leBytes 2 (fabricJob s c)
    ++ leBytes 1 c ++ leBytes 1 (cause * 16 + mode) ++ leBytes 2 (ab.headD 0xFFFF) ++ leBytes 2 ab.length
    ++ leBytes 4 aborted ++ leBytes 8 (now s)

/-- Park a ploughed job and raise JOB_PLOUGHED (R259 action 7). -/
def parkPloughed (s : State) (c mode aborted : Nat) : State :=
  let cause := (ctxOf s c).ploughCause
  let s1 := parked s c
  jobEvent s1 c ⟨0x0004, c, now s, ploughRecord s1 c cause mode aborted ++ leBytes 16 0, true, false, none⟩

/-- The verdict of the step has not completed (R259 action 6). -/
def beforeVerdict (b : Boundary) : Bool :=
  b.phase = .none ∨ b.phase = .drain ∨ b.phase = .awaitPosted ∨ b.phase = .awaitTick ∨ b.phase = .awaitVerdict

/-- The snowplough in abort mode on this part (R259) (log 59, DEDUCED). -/
def abortNow (s : State) (c : Nat) : State :=
  let j := ctxOf s c
  let cs := heldCourses s c
  let s1 := postDiscard (stopJob s c) c
  let s2 := resetSems s1 c cs
  let s3 := updTrn s2 c fun t => if t.checked then t else { t with cmds := t.cmds.filter (·.op ≠ 1) }
  if (j.bnd.phase = .sweeping ∧ j.trn.checked) ∨ j.bnd.phase = .digests then
    updCtx s2 c fun j => { j with plough := some .abort, bnd := { j.bnd with aborting := true } }
  else parkPloughed s3 c 1 (if j.inStep && (beforeVerdict j.bnd || decide (j.bnd.phase = .sweeping)) then j.step else 0xFFFFFFFF)

/-- Start the snowplough for a job (R258): only for a job that is RUNNING or DRAINING; a second start turns finish
mode into abort mode and has no other effect. -/
def ploughNow (s : State) (c : Nat) (mode : Plough) (cause : Nat) : State :=
  let j := ctxOf s c
  if ¬ (j.state = .running ∨ j.state = .draining) then s
  else match j.plough, mode with
    | some .abort, _ => s
    | some .finish, .finish => s
    | some .finish, .abort => abortNow (updCtx s c fun j => { j with plough := some .abort, ploughCause := cause }) c
    | none, .abort => abortNow (updCtx s c fun j => { j with plough := some .abort, ploughCause := cause }) c
    | none, .finish =>
      let s1 := updCtx s c fun j => { j with plough := some .finish, ploughCause := cause }
      if j.stepIn ∨ j.state = .draining then s1 else parkPloughed s1 c 0 0xFFFFFFFF

/-- Start the snowplough from this part: the notice is flooded first (R258). -/
def ploughSpread (s : State) (c : Nat) (mode : Plough) (cause : Nat) : State :=
  let j := ctxOf s c
  if ¬ (j.state = .running ∨ j.state = .draining) then s
  else if j.plough = some .abort ∨ (j.plough = some .finish ∧ mode = .finish) then s
  else ploughNow (floodPlough s c (if mode = .abort then 1 else 0) cause) c mode cause

/-! ### Parts that go absent, links that leave service (R243, R254 to R257) -/

/-- The part is a neighbour of this one (R203). -/
def isNeighbour (s : State) (x : Nat) : Bool := (List.range 12).any fun p => decide (neighbour s p = some x)
/-- The links to a part, which leave service as it goes absent (R257). -/
def cutLinks (s : State) (x : Nat) : State :=
  let ps := (List.range 12).filter fun p => decide (neighbour s p = some x) && !(linkOf s p).out
  forEach ps (forEach ps s fun s p => outLink s p) reroute
/-- A part has gone absent: entry, links, notice, event and ploughs (R254, R255, R257, R258). `port` is where the notice
came from, none when this part declares it (log 78, DEDUCED). -/
def absentNow (s : State) (x cause b23 : Nat) (port : Option Nat) : State :=
  if isAbsent s x then s
  else
    let full := decide (64 ≤ s.fab.absent.length)
    if full ∧ hasKey s 0x10 x 0 then s
    else
      let s1 := if full then raisePart (addKey s 0x10 x 0) 0x0107 { coords := x }
        else { s with fab := { s.fab with absent := s.fab.absent ++ [(x, cause)] } }
      let s2 := refollow (cutLinks s1 x)
      let s3 := flood s2 0x10 0 (noticeBytes x b23 cause 0) port
      let s4 := if isNeighbour s3 x then raisePart s3 0x0106 { cause := cause, coords := x } else s3
      if full then s4
      else forEach (loadedCtxs s4) s4 fun s c =>
        if fabricJob s c ≠ 0 ∧ physInBox s c x ∧ autoPlough s c then ploughSpread s c .abort 2 else s
/-- A neighbour with no port in service is declared absent (R254). -/
def portsOut (s : State) (port cause : Nat) : State :=
  match neighbour s port with
  | some n =>
    if (List.range 12).any fun p => decide (neighbour s p = some n) && portPresent s p then s
    else absentNow s n cause (ownCoord s) none
  | none => s
/-- A link has left service: traffic is sent another way, and the time followed is chosen again (R238, R243). -/
def afterOut (s : State) (port : Nat) : State := refollow (reroute (twinCheck s port) port)
/-- A link leaves service, and with it perhaps a neighbour (R243, R254). -/
def linkGone (s : State) (port cause : Nat) : State := portsOut (afterOut (outLink s port) port) port cause
/-- Links are restarted together; traffic of those that were in service goes another way (R239, R242, R254). -/
def restartLinks (s : State) (ps : List Nat) : State :=
  let was := ps.filter (inService s)
  let s1 := forEach ps s restartLink
  let s2 := forEach was s1 afterOut
  forEach was s2 fun s p => portsOut s p 1
/-- A part is present again: its entry goes and the notice is flooded (R255). -/
def goPresent (s : State) (x b23 : Nat) (port : Option Nat) : State :=
  if isAbsent s x then
    flood { s with fab := { s.fab with absent := s.fab.absent.filter fun e => e.1 ≠ x } } 0x11 0 (noticeBytes x b23 0 0) port
  else s

end Sys2Proof.Machine
end

