-- ==== Sys2Proof/Machine/CfgStage.lean ====
section
/-! DEFINITION. Stage, check and apply, and the configuration store (spec/14_reset_boot_config.md, R439 to R449). -/

namespace Sys2Proof.Machine

/-! ### The checker (R446) -/

/-- The state as it would read with every shadow live: what the checker judges. -/
def staged (s : State) : State := { s with cfg := { s.cfg with live := s.cfg.shadow } }

/-- The whole range [a, a + n) lies in one region of the job with both perm bits (R165, R283). -/
def inOneRegion (m : Manifest) (p q a n : Nat) : Bool :=
  m.regions.any fun r => r.placed && decide (r.kind ≠ 5) && bit r.perm p && bit r.perm q &&
    (decide (r.base ≤ a ∧ a + n ≤ r.base + r.len) ||
      (List.range n).all fun i => match devAddr (a + i) with | some d => r.covers d | none => false)

/-- Value range of one ST register, beyond its reserved bits (R446 rule 1). -/
def fieldOk (off : Nat) (v : Word) : Bool :=
  let o := off % 0x1000
  let r := (o - 0x200) % 0x180
  if off = 0x6104 then decide (v = 0) || decide (100 ≤ v.toNat ∧ v.toNat ≤ 60000000)
  else if 0x80100 ≤ off ∧ off < 0x80110 then decide (fld v 1 0 ≠ 3 ∧ 1 ≤ fld v 12 4 ∧ fld v 12 4 ≤ 256)
  else if 0x80200 ≤ off ∧ off < 0x80300 then
    (let k := (off - 0x80200) % 0x20
     if k = 0x08 ∨ k = 0x14 then decide (v.toNat ≤ 65536) else true)
  else if 0x7200 ≤ off ∧ off < 0x7E00 ∧ (r = 0x48 ∨ r = 0x58) then
    decide (v = 0) || decide (1048576 + 256 ≤ v.toNat * 64)
  else true

/-- Rule 1: a reserved bit held, or a value outside its range. -/
def rule1 (s : State) : Option Nat :=
  (s.cfg.shadow.find? fun p => match stMask p.1 with
    | some m => decide (p.2 &&& ~~~m ≠ 0) || !fieldOk p.1 p.2
    | none => false).map (·.1)
/-- Rule 2: the course clock (R3). -/
def rule2 (s : State) : Option Nat :=
  let v := fld (live s 0x3100) 11 0
  if v < 48 ∨ v > (if Config.gradeB then 124 else 144) then some 0x3100 else none
/-- Rule 3: power mode, didt_limit and idle hold (R21, R405, R411). -/
def rule3 (s : State) : Option Nat :=
  if (live s 0x4104).toNat < 10 ∨ 200 < (live s 0x4104).toNat then some 0x4104
  else if 10000 < (live s 0x4108).toNat then some 0x4108
  else none
/-- Rule 4: own coordinates inside the extents (R202). -/
def rule4 (s : State) : Option Nat := if inSystem s (ownCoord s) then none else some 0x70108
/-- Rule 5: the alias table (R216). -/
def rule5 (s : State) : Option Nat :=
  ((List.range 16).find? fun i =>
    let w := live s (0x70140 + 4 * i)
    w.msb && (!inSystem s (fld w 14 0) ||
      (List.range i).any fun j =>
        let u := live s (0x70140 + 4 * j)
        u.msb && (decide (fld u 30 16 = fld w 30 16) || decide (fld u 14 0 = fld w 14 0)))).map (0x70140 + 4 * ·)
/-- Rule 6: fabric identity changed while a context is loaded. `s` is the real state. -/
def rule6 (s : State) : Option Nat :=
  if noneLoaded s then none
  else [0x70100, 0x70104, 0x70108, 0x7010C].find? fun o => live s o ≠ shadow s o
/-- A selected axis of a collective entry does not divide the box extent (R227). -/
def boxMismatch (s : State) (c : Nat) : Bool :=
  (ctxOf s c).man.colls.any fun e =>
    (List.range 3).any fun a =>
      bit (lat e 2 1) a && decide (boxExt s c a % (lat e (4 + a) 1 * lat e (8 + a) 1) ≠ 0)
/-- Rule 7, for one context: `s` the real state, `h` the state judged. -/
def rule7ctx (s h : State) (c : Nat) : Option Nat :=
  let b := jobBase c
  if !(ctxOf s c).loaded then
    (s.cfg.shadow.find? fun p => decide (b ≤ p.1 ∧ p.1 < b + 0x180 ∧ live s p.1 ≠ p.2)).map (·.1)
      |>.orElse fun _ => (s.cfg.live.find? fun p => decide (b ≤ p.1 ∧ p.1 < b + 0x180 ∧ shadow s p.1 ≠ p.2)).map (·.1)
  else if fabricJob h c = 0 then (if jobBox h c ≠ 0 then some (b + 0x24) else none)
  else if (List.range 8).any fun d => decide (d ≠ c) && (ctxOf s d).loaded && decide (fabricJob h d = fabricJob h c) then some (b + 0x20)
  else if (List.range 3).any fun a => decide (extent h a < boxExt h c a) then some (b + 0x24)
  else if !inBox h c (ownLogical h) then some (b + 0x24)
  else if boxMismatch h c then some (b + 0x24)
  else none
/-- Rule 7: JOB page fields of free contexts, fabric_job and job box (R224, R227) (log 71, DEDUCED). -/
def rule7 (s h : State) : Option Nat := (List.range 8).findSome? (rule7ctx s h)
/-- The scalar block at an address breaks R165. -/
def scalarBad (s : State) (c : Nat) : Bool :=
  let a := scalarAddr s c
  decide (a ≠ 0) && (decide (a % 64 ≠ 0) || !inOneRegion (ctxOf s c).man 0 0 a (32 + 64 * devNat s (a + 0x18) 2))
/-- Rule 8 (R165) (log 71, DEDUCED). -/
def rule8 (s : State) : Option Nat := ((loadedCtxs s).find? (scalarBad s)).map (jobBase · + 0x38)
/-- The job owns a sealed range (R389). -/
def ownsSealed (s : State) (c : Nat) : Bool := s.sec.sealed.any (·.1 = c)
/-- Rule 9, for one context: sinks (R188, R389). -/
def rule9ctx (s : State) (c : Nat) : Option Nat :=
  let t := sinkCfg s c 0
  let b := sinkCfg s c 1
  let bad := fun (k : SinkCfg) => decide (k.len ≠ 0) &&
    ((k.peer && decide (fabricJob s c = 0)) || (!k.peer && ownsSealed s c))
  if bad t then some (jobBase c + 0x40)
  else if bad b then some (jobBase c + 0x50)
  else if t.len ≠ 0 ∧ b.len ≠ 0 ∧ t.base = b.base ∧ t.peer = b.peer ∧ (t.peer = false ∨ t.coords = b.coords) then some (jobBase c + 0x50)
  else if bad (sinkCfg s c 2) then some (jobBase c + 0x60)
  else none
/-- Rule 9 (log 71, DEDUCED). -/
def rule9 (s : State) : Option Nat := (loadedCtxs s).findSome? (rule9ctx s)
/-- Rule 10: the digest-exchange field (R180). -/
def rule10 (s : State) : Option Nat :=
  ((loadedCtxs s).find? fun c => decide (digestEntry s c ≠ 0xFFFF) &&
    decide (lat ((ctxOf s c).man.colls.getD (digestEntry s c) []) 0 1 ≠ 6)).map (jobBase · + 0x30)
/-- Rule 11: counted mode (R103, R138). -/
def rule11 (s : State) : Option Nat :=
  ((List.range 32).find? fun n => counted s n && (loadedCtxs s).any fun c =>
    let m := (ctxOf s c).man
    bit m.courseMask n && (m.trailExport || !m.exclusive)).map (coursePage · + 0x108)
/-- Rule 12: ingest and encode rings (R283, R317). -/
def rule12 (s : State) : Option Nat :=
  (loadedCtxs s).findSome? fun c => (List.range 2).findSome? fun k =>
    let r := rinkRing s c k
    if r.2 ≠ 0 ∧ (r.1 % 64 ≠ 0 ∨ !inOneRegion (ctxOf s c).man 0 1 r.1 (64 + 128 * r.2)) then some (0x80200 + 0x20 * c + 0x0C * k) else none
/-- Rule 13: lo_mark below hi_mark (R308). -/
def rule13 (s : State) : Option Nat :=
  ((List.range 4).find? fun k => let v := live s (0x80100 + 4 * k); decide (fld v 12 4 ≤ fld v 23 16)).map (0x80100 + 4 * ·)

/-- The rules marked "again", in order: first failing rule and register (R446, R447). -/
def checkAgain (s : State) : Option (Nat × Nat) :=
  let h := staged s
  [(6, rule6 s), (7, rule7 s h), (8, rule8 h), (9, rule9 h), (10, rule10 h), (11, rule11 h), (12, rule12 h)].findSome?
    fun p => p.2.map (p.1, ·)
/-- The checker: first failing rule and register (R446). -/
def checkAll (s : State) : Option (Nat × Nat) :=
  let h := staged s
  match [(1, rule1 s), (2, rule2 h), (3, rule3 h), (4, rule4 h), (5, rule5 h)].findSome? (fun p => p.2.map (p.1, ·)) with
  | some r => some r
  | none => match checkAgain s with
    | some r => some r
    | none => (rule13 h).map (13, ·)

/-! ### Results and the apply -/

/-- Write CFG_RESULT (R445), which is the CFG page's block event (R461). -/
def cfgResult (s : State) (code rule wh : Nat) : State :=
  blockEvent { s with cfg := { s.cfg with result := BitVec.ofNat 32 (code * 2 ^ 28 + rule * 2 ^ 20 + wh) } } 0x5000

/-- Courses whose live value of a register differs from the shadow. -/
def changedCourses (s : State) (o : Nat) : List Nat :=
  (List.range 32).filter fun n => live s (coursePage n + o) ≠ shadow s (coursePage n + o)

/-- Drop per-load keys whose configuration digest is no longer live (R388). -/
def dropStaleKeys (s : State) : State :=
  let d := configDigest s
  { s with sec := { s.sec with loadKeys := s.sec.loadKeys.filter fun p => match p.2 with | some k => decide (k.cfg = d) | none => false } }

/-- Follow-on effects of an apply: `old` is the state before (R101, R103, R187, R239, R388, R449). -/
def afterApply (old s : State) : State :=
  let seeds := (List.range 32).filter fun n => live64 old (coursePage n + 0x100) ≠ live64 s (coursePage n + 0x100)
  let s1 := forEach seeds s fun s n => spinReload s n (live64 s (coursePage n + 0x100))
  let relink := [0x70100, 0x70104, 0x70108, 0x7010C].any fun o => live old o ≠ live s o
  let ps := (List.range 12).filter fun p => relink || decide (live old (slnkPage p + 0x100) ≠ live s (slnkPage p + 0x100))
  let s2 := restartLinks (if isMaster old = isMaster s then s1 else refollow s1) ps
  let s3 := forEach (List.range 16) s2 fun s i =>
    let c := i / 2
    let k := i % 2
    if sinkCfg old c k ≠ sinkCfg s c k then updTrn s c fun t => { t with sinks := mset t.sinks {} k {} } else s
  let s4 := forEach (List.range 16) s3 fun s i =>
    let r := rinkRing s (i / 2) (i % 2)
    if rinkRing old (i / 2) (i % 2) ≠ r then
      (let h := if r.2 = 0 then 0 else devNat s (r.1 + 4) 4
       { s with rink := { s.rink with next := mset s.rink.next 0 i h, tails := mset s.rink.tails 0 i h } })
    else s
  lowerClocks (if configDigest old ≠ configDigest s then dropStaleKeys s4 else s4)

/-- Every shadow becomes live on one edge (R447). -/
def goLive (s : State) : State :=
  let cs := changedCourses s 0x108
  let ps := (List.range 16).filter fun p => cs.contains (2 * p) || cs.contains (2 * p + 1)
  let s0 := forEach cs (forEach ps s clockTick) spinSettle
  let s1 := { s0 with cfg := { s0.cfg with live := s0.cfg.shadow, seq := (s0.cfg.seq + 1) % 2 ^ 32, dirty := [], state := 0 } }
  afterApply s0 s1

/-- The apply instant of a pending apply (R447): rules marked again, then every shadow live, or APPLY_FAIL. -/
def applyNow (s : State) : State :=
  if s.cfg.state ≠ 3 then s
  else match checkAgain s with
    | some (r, w) => cfgResult { s with cfg := { s.cfg with state := 1 } } 4 r w
    | none => cfgResult (goLive s) 3 0 0

/-- No job has a step in progress or in its boundary (R353). -/
def partIdle (s : State) : Bool := (List.range 8).all fun c => !(ctxOf s c).inStep

/-- A pending apply takes effect at once while the part is idle (R353). -/
def applyIfIdle (s : State) : State := if partIdle s then applyNow s else s

/-- Stage one value (R6, R444), whatever the state. -/
def stageValue (s : State) (off : Nat) (v : Word) : State :=
  { s with cfg := { s.cfg with
      shadow := mset s.cfg.shadow (stReset off) off v
      dirty := if s.cfg.dirty.contains (off / 0x1000 * 0x1000) then s.cfg.dirty else off / 0x1000 * 0x1000 :: s.cfg.dirty
      state := 1 } }

/-- Take every shadow back to the live value (R440, R448). -/
def discardStaged (s : State) : State :=
  { s with cfg := { s.cfg with shadow := s.cfg.live, dirty := [], state := 0 } }

/-- The copy of the store a boot takes: the valid one with the higher seq, copy 0 on a tie (R440). -/
def storeCopy (s : State) : Option (Nat × StoreCopy) :=
  let v := fun k => match mget s.cfg.copies none k with | some c => if c.valid then some c else none | none => none
  match v 0, v 1 with
  | some a, some b => if b.seq > a.seq then some (1, b) else some (0, a)
  | some a, none => some (0, a)
  | none, some b => some (1, b)
  | none, none => none

/-- Apply the configuration store over live reset values (R440). -/
def applyStore (s : State) : State :=
  match storeCopy s with
  | none => discardStaged { s with cfg := { s.cfg with bootStatus := 3, bootWhere := 0 } }
  | some (k, c) =>
    let skipped := (c.entries.filter fun e => !storable e.1).length
    let s1 := forEach c.entries s fun s e => if storable e.1 then stageValue s e.1 e.2 else s
    match checkAll s1 with
    | some (r, w) => discardStaged { s1 with cfg := { s1.cfg with
        bootStatus := BitVec.ofNat 32 (k + 4 + skipped * 8 + r * 2 ^ 16), bootWhere := w } }
    | none => goLive { s1 with cfg := { s1.cfg with bootStatus := BitVec.ofNat 32 (k + skipped * 8), bootWhere := 0 } }

/-! ### The commands -/

/-- A write to an ST register (R444): dropped and recorded before READY, and in PENDING, APPLYING or LOCKED. -/
def stWriteEffect (r off : Nat) (v : Word) (s : State) : State :=
  match stMask off with
  | none => s
  | some _ =>
    if !isReady s then notReady s r off
    else if s.cfg.state ≥ 3 then accessErr s (off / 0x1000 * 0x1000) 2 r off
    else stageValue s off v
/-- ST_WRITE. -/
def execStWrite (r : Req) (off : Nat) (v : Word) (s : State) : Host.Outcome State Fault Refusal :=
  .next (stWriteEffect r.val off v s)

/-- A write of CFG_CHECK.go (R445): the checker starts in CLEAN, STAGED or CHECKED. -/
def cfgCheckEffect (r : Nat) (s : State) : State :=
  if !pageAnswers s 0x5000 then notReady s r 0x5100
  else if s.cfg.state = 5 then accessErr s 0x5000 8 r 0x5100
  else if s.cfg.state ≥ 3 then cfgResult s 5 0 0
  else { s with cfg := { s.cfg with checking := true } }
/-- CFG_CHECK. -/
def execCfgCheck (s : State) : Host.Outcome State Fault Refusal := .next (cfgCheckEffect 4 s)

/-- The checker ends (R445, R446). -/
def cfgCheckDoneEffect (s : State) : State :=
  if !s.cfg.checking then s
  else
    let s1 := { s with cfg := { s.cfg with checking := false } }
    match checkAll s with
    | none => cfgResult { s1 with cfg := { s1.cfg with state := if s1.cfg.state = 1 then 2 else s1.cfg.state } } 1 0 0
    | some (r, w) => cfgResult { s1 with cfg := { s1.cfg with state := if s1.cfg.state = 2 then 1 else s1.cfg.state } } 2 r w
/-- CFG_CHECK_DONE. -/
def execCfgCheckDone (s : State) : Host.Outcome State Fault Refusal := .next (cfgCheckDoneEffect s)

/-- A write of CFG_APPLY.go (R447): from CHECKED the apply is pending, and acts at once in an idle part (R353). -/
def cfgApplyEffect (r : Nat) (s : State) : State :=
  if !pageAnswers s 0x5000 then notReady s r 0x5104
  else if s.cfg.state = 5 then accessErr s 0x5000 8 r 0x5104
  else if s.cfg.state ≥ 3 then cfgResult s 5 0 0
  else if s.cfg.state = 2 then applyIfIdle { s with cfg := { s.cfg with state := 3 } }
  else cfgResult s 6 0 0
/-- CFG_APPLY. -/
def execCfgApply (s : State) : Host.Outcome State Fault Refusal := .next (cfgApplyEffect 4 s)

/-- A write of CFG_DISCARD.go (R448). -/
def cfgDiscardEffect (r : Nat) (s : State) : State :=
  if !pageAnswers s 0x5000 then notReady s r 0x5108
  else if s.cfg.state ≥ 4 then accessErr s 0x5000 6 r 0x5108
  else cfgResult (discardStaged { s with cfg := { s.cfg with checking := false } }) 7 0 0
/-- CFG_DISCARD. -/
def execCfgDiscard (r : Req) (s : State) : Host.Outcome State Fault Refusal := .next (cfgDiscardEffect r.val s)

/-- A copy is valid. -/
def copyValid (s : State) (k : Nat) : Bool := match mget s.cfg.copies none k with | some c => c.valid | none => false
/-- A copy is read-only: its writes_own has reached 100,000 (R442). -/
def copyReadOnly (s : State) (k : Nat) : Bool :=
  match mget s.cfg.copies none k with | some c => c.valid && decide (100000 ≤ c.writesOwn) | none => false
/-- Sequence number of a copy, 0 when it is invalid. -/
def copySeq (s : State) (k : Nat) : Nat :=
  match mget s.cfg.copies none k with | some c => if c.valid then c.seq else 0 | none => 0
/-- The copy a save writes; none when the store is frozen (R442). -/
def saveTarget (s : State) : Option Nat :=
  match copyReadOnly s 0, copyReadOnly s 1 with
  | true, true => none
  | true, false => some 1
  | false, true => some 0
  | false, false =>
    if !copyValid s 0 then some 0 else if !copyValid s 1 then some 1 else if copySeq s 1 < copySeq s 0 then some 1 else some 0
/-- The copy that a save writes over target k (R442). -/
def newCopy (s : State) (k : Nat) : StoreCopy :=
  let own := match mget s.cfg.copies none k with
    | some c => if c.valid then c.writesOwn else (match mget s.cfg.copies none (1 - k) with | some d => d.writesOther | none => 0)
    | none => (match mget s.cfg.copies none (1 - k) with | some d => d.writesOther | none => 0)
  let other := match mget s.cfg.copies none (1 - k) with | some d => if d.valid then d.writesOwn else 0 | none => 0
  { valid := true, seq := max (copySeq s 0) (copySeq s 1) + 1, writesOwn := own + 1, writesOther := other,
    entries := storables.map fun o => (o, live s o) }
/-- A write of CFG_SAVE.go (R442, R445) (log 72, DEDUCED). -/
def cfgSaveEffect (r : Nat) (s : State) : State :=
  if !pageAnswers s 0x5000 then notReady s r 0x510C
  else if s.cfg.state = 5 then accessErr s 0x5000 8 r 0x510C
  else if s.cfg.saving ≠ none then cfgResult s 5 0 0
  else match saveTarget s with
    | none => cfgResult s 0xA 0 0
    | some k => { s with cfg := { s.cfg with saving := some k, copies := mset s.cfg.copies none k (some { newCopy s k with valid := false }) } }
/-- CFG_SAVE. -/
def execCfgSave (s : State) : Host.Outcome State Fault Refusal := .next (cfgSaveEffect 4 s)

/-- The save's read-back ends (R442): the copy is valid when it is correct. -/
def cfgSaveDoneEffect (ok : Bool) (s : State) : State :=
  match s.cfg.saving with
  | none => s
  | some k =>
    let c := (mget s.cfg.copies none k).map fun c => { c with valid := ok }
    cfgResult { s with cfg := { s.cfg with saving := none, copies := mset s.cfg.copies none k c } } (if ok then 8 else 9) 0 0
/-- CFG_SAVE_DONE. -/
def execCfgSaveDone (ok : Bool) (s : State) : Host.Outcome State Fault Refusal := .next (cfgSaveDoneEffect ok s)

end Sys2Proof.Machine
end

