-- ==== Sys2Proof/Machine/Grout.lean ====
section
/-! DEFINITION. Grout coding (spec/04_convolution_and_post.md, R117 to R122). -/

namespace Sys2Proof.Machine

/-- A granule is non-zero if any of its bytes is (R119). -/
def granuleBits (m : Nat) (bs : List Byte) : List Bool :=
  (List.range (cdiv bs.length m)).map fun g => ((bs.drop (m * g)).take m).any (· ≠ 0)
/-- Bits packed as R119 says: bit g mod 8 of byte ⌊g/8⌋. -/
def packBits (bs : List Bool) : List Byte :=
  (List.range (cdiv bs.length 8)).map fun i =>
    BitVec.ofNat 8 ((List.range 8).foldl (fun v j => v + b2n (bs.getD (8 * i + j) false) * 2 ^ j) 0)
/-- Unit length of a mode (R120). -/
def groutLen (mode d z : Nat) : Nat :=
  if mode = 0 then 16 * cdiv (8 + d) 16
  else if mode = 1 then 16 * cdiv (8 + cdiv d 8 + z) 16
  else if mode = 2 then 16 * cdiv (8 + cdiv d 16 + 2 * z) 16
  else 16
/-- Non-zero granules of `m` bytes. -/
def nonZero (m : Nat) (bs : List Byte) : Nat := (granuleBits m bs).countP id
/-- The mode the encoder chooses (R120). -/
def groutMode (bs : List Byte) : Nat :=
  let d := bs.length
  let u0 := groutLen 0 d 0
  let u1 := groutLen 1 d (nonZero 1 bs)
  let u2 := groutLen 2 d (nonZero 2 bs)
  if bs.all (· = 0) then 3
  else if u0 ≤ u1 ∧ (d % 2 = 1 ∨ u0 ≤ u2) then 0
  else if d % 2 = 1 ∨ u1 ≤ u2 then 1
  else 2
/-- The granules that are non-zero, in order. -/
def keptBytes (m : Nat) (bs : List Byte) : List Byte :=
  (List.range (cdiv bs.length m)).flatMap fun g =>
    let x := (bs.drop (m * g)).take m
    if x.any (· ≠ 0) then x else []
/-- Pad with zeros to a length. -/
def padTo (n : Nat) (bs : List Byte) : List Byte := bs ++ List.replicate (n - bs.length) 0
/-- One encoded unit (R119, R120). -/
def groutUnit (bs : List Byte) : List Byte :=
  let mode := groutMode bs
  let d := bs.length
  let z := if mode = 1 then nonZero 1 bs else if mode = 2 then nonZero 2 bs else 0
  let u := groutLen mode d z
  let hdr := leBytes 1 mode ++ leBytes 1 0x47 ++ leBytes 2 d ++ leBytes 2 z ++ leBytes 2 u
  let body := if mode = 0 then bs
    else if mode = 1 then packBits (granuleBits 1 bs) ++ keptBytes 1 bs
    else if mode = 2 then packBits (granuleBits 2 bs) ++ keptBytes 2 bs
    else []
  padTo u (hdr ++ body)
/-- The units of a stream (R118). -/
def groutUnits (bs : List Byte) : List (List Byte) :=
  (List.range (cdiv bs.length 4096)).map fun u => groutUnit ((bs.drop (4096 * u)).take 4096)
/-- A whole stream (R118). -/
def groutEncode (bs : List Byte) : List Byte := (groutUnits bs).flatten

/-- Decoded bytes of unit u of a stream of T decoded bytes (R118). -/
def unitBytes (t u : Nat) : Nat := min 4096 (t - 4096 * u)
/-- Expand granules under a bitmap. -/
def expandBits (m : Nat) (bits : List Bool) (data : List Byte) : List Byte :=
  match bits with
  | [] => []
  | true :: t => data.take m ++ expandBits m t (data.drop m)
  | false :: t => List.replicate m 0 ++ expandBits m t data
/-- What the decoder makes of a unit: the failing check, or the decoded bytes and U (R121). -/
inductive UnitOut where
  | fault (check : Nat)
  | ok (bs : List Byte) (u : Nat)
deriving DecidableEq, Repr
/-- Decode the unit whose byte i is `get i`, of which D decoded bytes are expected (R121). -/
def groutDecodeUnit (get : Nat → Byte) (want : Nat) : UnitOut :=
  let rd := fun o n => (List.range n).map fun i => get (o + i)
  let mode := (get 0).toNat
  let d := leNat (rd 2 2)
  let z := leNat (rd 4 2)
  let u := leNat (rd 6 2)
  let m := if mode = 2 then 2 else 1
  let nb := if mode = 1 then cdiv d 8 else if mode = 2 then cdiv d 16 else 0
  let gs := if mode = 1 ∨ mode = 2 then cdiv d m else 0
  let bm := rd 8 nb
  let bitAt := fun g => (bm.getD (g / 8) 0).getLsbD (g % 8)
  let named := (List.range gs).map bitAt
  let rest := (List.range (8 * nb - gs)).map fun i => bitAt (gs + i)
  if mode > 3 ∨ get 1 ≠ 0x47 then .fault 1
  else if d ≠ want then .fault 2
  else if z ≠ named.countP id ∨ rest.any id ∨ (mode = 2 ∧ d % 2 = 1) then .fault 3
  else
    let used := 8 + nb + (if mode = 0 then d else m * z)
    if u ≠ groutLen mode d z ∨ (rd used (u - used)).any (· ≠ 0) then .fault 4
    else if mode = 0 then .ok (rd 8 d) u
    else if mode = 3 then .ok (List.replicate d 0) u
    else .ok (expandBits m named (rd (8 + nb) (m * z))) u

/-- Decode the units of a stream of T bytes from `get`, at most `fuel` units, from unit `n` at offset `o`; ends with
the decoded bytes and the length read, or the failing check and the offset of its unit. -/
def groutDecodeFrom (get : Nat → Byte) (t limit : Nat) : Nat → Nat → Nat → List Byte → (List Byte × Nat) × Option (Nat × Nat)
  | 0, _, o, acc => ((acc, o), none)
  | fuel + 1, n, o, acc =>
    match groutDecodeUnit (fun i => get (o + i)) (unitBytes t n) with
    | .fault k => ((acc, o), some (k, o))
    | .ok bs u => if o + u > limit then ((acc, o), some (4, o)) else groutDecodeFrom get t limit fuel (n + 1) (o + u) (acc ++ bs)
/-- Decode a whole stream of T decoded bytes that may take at most `limit` bytes. -/
def groutDecode (get : Nat → Byte) (t limit : Nat) : (List Byte × Nat) × Option (Nat × Nat) :=
  groutDecodeFrom get t limit (cdiv t 4096) 0 0 []

end Sys2Proof.Machine
end

