-- ==== Sys2Proof/Machine/JobOps.lean ====
section
/-! DEFINITION. What several job commands share: stopping a job, the snowplough, parking, context teardown, release
of resources, admission and the scheduler (spec/11_jobs_and_steps.md, spec/08_fault_tolerance.md R258 to R262). -/

namespace Sys2Proof.Machine

/-! ### The snowplough, with the apply that an idle part takes at once -/

/-- Park a ploughed job; a pending apply acts at once if the part is now idle (R259 action 7, R353). -/
def ploughPark (s : State) (c mode aborted : Nat) : State := applyIfIdle (parkPloughed s c mode aborted)
/-- Start the snowplough for a job (R258). -/
def ploughStart (s : State) (c : Nat) (mode : Plough) (cause : Nat) : State := applyIfIdle (ploughNow s c mode cause)
/-- Start the snowplough from this part (R258). -/
def ploughFrom (s : State) (c : Nat) (mode : Plough) (cause : Nat) : State := applyIfIdle (ploughSpread s c mode cause)
/-- A part has gone absent (R254, R255, R257). -/
def goAbsent (s : State) (x cause b23 : Nat) (port : Option Nat) : State := applyIfIdle (absentNow s x cause b23 port)
/-- A link leaves service (R243, R254). -/
def linkLost (s : State) (port cause : Nat) : State := applyIfIdle (linkGone s port cause)

/-! ### Release of resources (R360) -/

/-- Free words for a pool whose contents are undefined (R363) (log 73, DESIGN CHOICE). -/
def freeWords (i : Nat) : List Word :=
  (List.range (Config.freeNat i % 1025)).map fun k =>
    BitVec.ofNat 32 (leNat ((List.range 4).map fun b => Config.freeByte i (4 * k + b)))

/-- Pools of a context are disabled, and their contents undefined (R363, R469) (log 73, DESIGN CHOICE). -/
def releasePools (s : State) (c : Nat) : State :=
  { s with
    free := s.free + 1
    job := { s.job with pools := s.job.pools.map fun p =>
      if p.2.owner = c ∧ p.2.enable then (p.1, { p.2 with enable := false, entries := freeWords s.free }) else p } }

/-- A weight transfer is refused where it stands (R386): its set FAILED, its destination undefined, a per-load key of its
channel gone. -/
def failXfer (s : State) (ch : Nat) : State :=
  match (chanOf s ch).cur, mget s.sec.xfer none ch with
  | some (d, _), some x =>
    let s1 := devUndef s (lat d 8 8) x.plain
    let sets := match x.set with
      | some k => mupd s1.sec.wsets {} k fun w => { w with state := 3, root := 0 }
      | none => s1.sec.wsets
    { s1 with sec := { s1.sec with
        wsets := sets
        loadKeys := s1.sec.loadKeys.filter fun p => decide (p.1 + 28 ≠ ch)
        xfer := mset s1.sec.xfer none ch (some { x with refused := true }) } }
  | _, _ => s
/-- End a weight transfer before its last byte: refused, with the answer due (R386, R397) (log 47, DEDUCED). -/
def cutXfer (s : State) (ch : Nat) : State :=
  match mget s.sec.xfer none ch with
  | none => s
  | some x =>
    let s1 := if x.refused then s else failXfer s ch
    secRefuse { s1 with sec := { s1.sec with xfer := mset s1.sec.xfer none ch none } } (.transfer ch)
/-- Teardown of the job that a channel's descriptor names (R398, R454): a weight transfer is refused, another
descriptor is STOPPED. -/
def stopDma (s : State) (c : Nat) : State :=
  forEach (List.range 32) s fun s ch =>
    match (chanOf s ch).cur with
    | some (d, _) =>
      if lat d 0x16 1 ≠ c then s
      else if (mget s.sec.xfer none ch).isSome then cutXfer s ch
      else if bit (lat d 0x15 1) 0 then s
      else updChan s ch fun k => { k with cur := some (d, 5) }
    | none => s

/-- The job's fabric tags are free, and those on which device firmware works for it: what arrives for them later is
discarded (R217, R218, R360). -/
def releaseTags (s : State) (c : Nat) : State :=
  let f := (ctxOf s c).fab
  let fw := f.bursts.map (·.tag) ++ (f.reads.filter fun r => !r.nak).map (·.tag)
  { s with fab := { s.fab with tags := s.fab.tags.filter fun t => decide (t.2 ≠ c) && !fw.contains t.1 } }
/-- Release what R360 names; sealed ranges of the job wait to be zeroed (R389). -/
def releaseJob (s : State) (c : Nat) : State :=
  let s1 := rinkFree (releasePools (releaseTags s c) c) c
  let mine := (s1.sec.sealed.filter fun r => r.1 = c).map fun r => (r.2.1, r.2.2)
  let drop := fun (m : NMap Nat) => (List.range 4).foldl (fun m d => mset m 0 (8 * d + c) 0) m
  let zs := if mine = [] then s1.job.zeroing else s1.job.zeroing ++ [(c, mine)]
  let keys := s1.sec.loadKeys.filter fun p => match p.2 with | some k => decide (k.job ≠ c) | none => false
  let s2 : State := { s1 with
    sec := { s1.sec with sealed := s1.sec.sealed.filter fun r => r.1 ≠ c, loadKeys := keys }
    post := { s1.post with base := drop s1.post.base, slots := drop s1.post.slots }
    job := { s1.job with zeroing := zs, courseCtx := s1.job.courseCtx.filter fun p => p.2 ≠ c } }
  let s3 := forEach (List.range 12) s2 fun s k =>
    let w := mget s.trw {} k
    if w.sweeping && decide (w.ctx = c) then updTrowel s k fun w => { w with sweeping := false } else s
  updCtx s3 c fun j => { j with
    man := {}
    stepIn := false
    preempt := false
    plough := none
    startWait := false
    credit := j.credit
    bnd := {}
    fab := { j.fab with
      epochs := [], bursts := [], gets := [], reads := [], insts := [], collHeld := [], collNext := 0, reds := [], held := [], ovf := false }
    trn := { j.trn with
      cmds := [], checked := false, noRoom := [], grads := [], triples := [], arrived := [], baseOut := [], snapOut := [], stageOut := []
      seqBytes := [], baseSeq := [], snapSeq := [], snapReq := false, snapping := false, basing := false } }

/-! ### Admission and the scheduler (R345 to R347, R137, R411) -/

/-- The 16 KiB of a tile's vector registers, register by register, lane by lane (log 13). -/
def vregBytes (s : State) (t : Nat) : List Byte :=
  (List.range 4096).flatMap fun i => leBytes 4 (mget s.tile.vreg 0 (t * 4096 + i)).toNat
/-- Base of a job's register save area (R137) (log 13, DESIGN CHOICE). -/
def saveBase (m : Manifest) : Option Nat := (m.regions.find? fun r => r.kind = 5).map (·.base)
/-- Save area address of a tile of a job (R137) (log 13, DESIGN CHOICE). -/
def saveAddr (m : Manifest) (t : Nat) : Option Nat :=
  match saveBase m, (tilesOf m).findIdx? (· = t) with
  | some b, some j => some (b + 16384 * j)
  | _, _ => none
/-- Write a tile's registers to a job's save area (log 13, DESIGN CHOICE). -/
def saveVregs (s : State) (m : Manifest) (t : Nat) : State :=
  match saveAddr m t with
  | some a => devWrite s none a (vregBytes s t)
  | none => s
/-- Load a tile's registers from a job's save area. -/
def loadVregs (s : State) (m : Manifest) (t : Nat) : State :=
  match saveAddr m t with
  | some a =>
    let v := (List.range 4096).foldl (fun r i => mset r 0 (t * 4096 + i) (BitVec.ofNat 32 (devNat s (a + 4 * i) 4))) s.tile.vreg
    { s with tile := { s.tile with vreg := v } }
  | none => s
/-- The keep map of a job: its place in every job tile's store, and its 32 bytes (R156). -/
def keepMap (m : Manifest) : Option (Nat × List Byte) :=
  if m.keep = [] then none else some (m.keepAddr, padTo 32 (packBits m.keep))
/-- Write the keep map into the tiles of a course (R151, R156). -/
def writeKeep (s : State) (m : Manifest) (n : Nat) : State :=
  match keepMap m with
  | some k => forEach ((List.range 16).map (16 * n + ·)) s fun s t => storeWrite s t k.1 k.2
  | none => s
/-- A course passes to a shared job: registers saved and loaded, the keep map and the semaphores set (R137, R151, R156)
(log 23, DEDUCED). -/
def passCourse (s : State) (c n : Nat) : State :=
  let old := mget s.job.courseCtx 8 n
  if old = c then s
  else
    let ts := (List.range 16).map (16 * n + ·)
    let s1 := if old < 8 ∧ (ctxOf s old).loaded then forEach ts s fun s t => saveVregs s (ctxOf s old).man t else s
    let s2 := forEach ts s1 fun s t => loadVregs s (ctxOf s c).man t
    let s3 := semInitCourse (writeKeep s2 (ctxOf s c).man n) (ctxOf s c).man n
    { s3 with job := { s3.job with courseCtx := mset s3.job.courseCtx 8 n c } }
/-- Course pairs of a job, in increasing number. -/
def pairsOf (m : Manifest) : List Nat := (List.range 16).filter fun p => bit m.courseMask (2 * p) || bit m.courseMask (2 * p + 1)
/-- Admit a step of a job (R345, R346): credit taken, courses passed, gated pairs queued for their wake (R411) (log 58, DEDUCED) (log 60, DEDUCED). -/
def admitJob (s : State) (c : Nat) : State :=
  let j := ctxOf s c
  let step := if j.fresh then (rw s (jobBase c + 0x08)).toNat else (j.step + 1) % 2 ^ 32
  -- the epoch starts with the bursts of an earlier attempt at the step that are still unanswered
  let late := (j.fab.bursts.filter fun b => b.step = step).length
  let fresh := fun (m : NMap Epoch) => mset m {} step ({ issued := late } : Epoch)
  let s1 := updCtx s c fun j => { j with
    stepIn := true
    step := step
    fresh := false
    credit := if creditMode s c then j.credit - 1 else j.credit
    bnd := {}
    fab := { j.fab with ovf := false, closed := none, collNext := 0, epochs := fresh j.fab.epochs } }
  let s2 := if j.man.exclusive then s1
    else forEach (coursesOf j.man) s1 fun s n => undefCourse (passCourse s c n) n
  let clear := fun (p : Nat × Seqr) => if bit j.man.courseMask (p.1 / 16) then (p.1, { p.2 with stepEnd := false }) else p
  let s3 : State := { s2 with tile := { s2.tile with seqs := s2.tile.seqs.map clear } }
  let need := (pairsOf j.man).filter fun p => (pairOf s3 p).gated && !s3.pwr.wakes.contains p
  { s3 with
    pwr := { s3.pwr with wakes := s3.pwr.wakes ++ need }
    job := { s3.job with lastAdmit := c } }
/-- Ready: RUNNING, no step in progress, no start reduction awaited, a credit where one is needed (R347, R348). A job that
is resumed to take its boundary again needs neither (R166). -/
def ready (s : State) (c : Nat) : Bool :=
  let j := ctxOf s c
  decide (j.state = .running) && !j.stepIn && (j.bnd.retake || (!j.startWait && (!creditMode s c || decide (1 ≤ j.credit))))
/-- The step parked at action 8 is in its boundary again, with the overflow verdict it had: the actions from there onward
are taken again (R166, R187). -/
def retakeStep (s : State) (c : Nat) : State :=
  updCtx s c fun j =>
    let word : Dword := if j.bnd.overflow then 0x100000001 else 1
    { j with
      state := .draining
      stepIn := true
      bnd := { j.bnd with phase := .awaitVerdict, park := 0, localOk := true }
      fab := { j.fab with reds := j.fab.reds ++ [{ cls := .verdict, id := 0, seq := j.step, own := some word, result := some word }] } }
/-- One context of the scan: `b` is the union of the masks of ready jobs not admitted (R347) (log 58, DEDUCED). -/
def scanOne (p : State × Nat) (c : Nat) : State × Nat :=
  let s := p.1
  let m := (ctxOf s c).man.courseMask
  if !ready s c then p
  else if ((List.range 32).any fun n => bit m n && (courseHolder s n).isSome) ∨ m &&& p.2 ≠ 0 then (s, p.2 ||| m)
  else (if (ctxOf s c).bnd.retake then retakeStep s c else admitJob s c, p.2)
/-- The scheduler's scan, from the context after the one last admitted (R347). No step starts before READY, outside
ACTIVE, or during a compute reset or scrub (log 58, DEDUCED). -/
def schedule (s : State) : State :=
  if isReady s ∧ s.pwr.state = .active ∧ s.boot.resetting = false ∧ s.sec.scrubbing = false then
    (((List.range 8).map fun i => (s.job.lastAdmit + 1 + i) % 8).foldl scanOne (s, 0)).1
  else s

/-! ### Teardown (R359) -/

/-- Actions 1 to 4 of a teardown: stop, trowel commands, job-lost notice with its byte 4, release. -/
def tearCore (s : State) (c b4 : Nat) : State :=
  let cs := heldCourses s c
  let s1 := forEach cs (stopDma (stopJob s c) c) fun s n => undefSems s n
  releaseJob (floodJobLost s1 c b4) c
/-- The context becomes TORN_DOWN, counted (R361). -/
def tornDown (s : State) (c : Nat) : State := bump (updCtx s c fun j => { j with state := .tornDown }) 0x7140 1
/-- Tear a context down with its event (R359); then a pending apply of an idle part, and the scheduler. -/
def teardown (s : State) (c b4 : Nat) (code : Nat) (f : EvF) : State :=
  if (ctxOf s c).loaded then
    schedule (applyIfIdle (tornDown (raiseJob (tearCore s c b4) c code f) c))
  else s
/-- Tear a context down for a fault event (R246). -/
def faultJob (s : State) (c code : Nat) (f : EvF) : State := teardown s c 1 code f
/-- Units of the job that have started work on hand: each may fail an access before the teardown completes (R155). -/
def atWork (s : State) (c : Nat) : Nat :=
  (((tilesOf (ctxOf s c).man).map fun t => ((seqrOf s t).descs.filter fun d => d.phase = .started).length).sum)
    + ((List.range 4).filter fun d => postRuns s d c).length
/-- GUARD_FAULT (R154). A further failure of the job before its teardown completes is not reported; how many there are is
a free number, at most one for each other unit at work (R155) (log 96, DESIGN CHOICE). -/
def guardFault (s : State) (c : Nat) (f : EvF) : State :=
  let x := takeFree s
  faultJob x.2 c 0x0011 { f with va := Config.freeNat x.1 % max 1 (atWork s c) }
/-- DESCRIPTOR_FAULT (R71). -/
def descFault (s : State) (c : Nat) (f : EvF) : State := faultJob s c 0x0010 f
/-- MEM_UNCORRECTABLE (R247). -/
def memFault (s : State) (c unit inst addr : Nat) : State := faultJob s c 0x0018 { unit := unit, inst := inst, b := addr }
/-- REMOTE_TIMEOUT (R457): cause 1 get, 2 collective, 3 control reduction, 4 digest triples, 5 start, 6 trowel peer read. -/
def remoteTimeout (s : State) (c cause coords : Nat) : State := faultJob s c 0x0015 { cause := cause, coords := coords }

/-- Signal a semaphore (R72, R75, R76): refused above 0xFFFF, with the fields of R76 of its source. The job blamed is the one
that holds the tile; where several loaded jobs share it and none holds it now, the one of the lowest context (log 92,
DESIGN CHOICE). -/
def semSignal (s : State) (t i v : Nat) (src : EvF) : State :=
  if semGet s t i + v ≤ 0xFFFF then semPut s t i (semGet s t i + v)
  else
    match (List.range 8).find? fun c => holdsTile s c t with
    | some c => descFault s c { src with cause := 0x12, va := i + semGet s t i * 2 ^ 16, vb := v, b := t }
    | none => s

end Sys2Proof.Machine
end

