-- ==== Sys2Proof/Machine/Errors.lean ====
section
/-! DEFINITION. Errors of the memories: corrected ones are counted, logged and reported, uncorrectable ones poison a line
or tear a job down (spec/08_fault_tolerance.md R247; spec/16_telemetry_and_test.md R480 to R482). -/

namespace Sys2Proof.Machine

/-! ### Counts, logs and events -/

/-- Append a record to an error log of 64 records, or count it as lost (R464, R482). -/
def logPut (s : State) (port : Nat) (rec : List Byte) : State :=
  let q := mget s.tel.logs [] port
  if q.length < 64 then { s with tel := { s.tel with logs := mset s.tel.logs [] port (q ++ [rec]) } }
  else { s with tel := { s.tel with logOvf := mupd s.tel.logOvf 0 port fun n => min (2 ^ 32 - 1) (n + 1) } }
/-- Log a corrected error, unless one of the same DRAM row or SRAM bank line, `row`, was logged in the preceding second
(R482). -/
def logCorrected (s : State) (port row : Nat) (rec : List Byte) : State :=
  let recent := fun (e : Nat × Nat × Nat) => decide (now s < e.2.2 + 1000000000)
  if s.tel.lastCe.any fun e => decide (e.1 = port ∧ e.2.1 = row) && recent e then s
  else
    let t := logPut s port rec
    { t with tel := { t.tel with lastCe := (port, row, now s) :: t.tel.lastCe.filter recent } }
/-- ECC_CORRECTED: at most one entry for a unit's instance in 1 ms, with the corrections since the previous one (R457). -/
def eccEvent (s : State) (unit inst a : Nat) : State :=
  let key := 4096 * unit + inst
  let ev := mget s.tel.ceEv (0, 0) key
  if ev.1 = 0 ∨ ev.1 - 1 + 1000000 ≤ now s then
    raisePart { s with tel := { s.tel with ceEv := mset s.tel.ceEv (0, 0) key (now s + 1, 0) } } 0x0101
      { unit := unit, inst := inst, b := a, va := ev.2 + 1 }
  else { s with tel := { s.tel with ceEv := mset s.tel.ceEv (0, 0) key (ev.1, ev.2 + 1) } }

/-! ### Device memory (R247, R480, R481) -/

/-- Lines of a stack (R8). -/
def stackLines : Nat := 805306368
/-- Row of an address, by pseudo-channel, layer, bank and row (R482) (log 83, DESIGN CHOICE). -/
def dramRow (a : Nat) : Nat := ((Config.dramField a 0 * 256 + Config.dramField a 1) * 256 + Config.dramField a 2) * 2 ^ 32 + Config.dramField a 3
/-- An HBM_ERR_LOG record (R482): `kind` 1 to 3, `source`, free-value index for the symbols corrected (log 83, DESIGN CHOICE). -/
def hbmRecord (s : State) (a kind source ctx i : Nat) : List Byte :=
  leBytes 8 (now s) ++ leBytes 8 (if kind = 1 then 0 else a) ++ leBytes 1 kind ++ leBytes 1 source
    ++ leBytes 1 (if kind = 2 then Config.freeNat i else 0) ++ leBytes 1 (Config.dramField a 0) ++ leBytes 1 (Config.dramField a 1)
    ++ leBytes 1 (Config.dramField a 2) ++ leBytes 2 0 ++ leBytes 4 (Config.dramField a 3)
    ++ leBytes 2 (if kind = 1 then 0xFFFF else Config.dramField a 4) ++ leBytes 1 ctx ++ leBytes 1 0
/-- A corrected error of stack k: counted, logged and reported (R457, R480, R482) (log 30, DESIGN CHOICE). -/
def correctedError (s : State) (k a kind source ctx : Nat) : State :=
  let s1 := bump { s with free := s.free + 1 } (hbmPage k + 0x110) 1
  eccEvent (logCorrected s1 (hbmPage k + 0x180) (dramRow a) (hbmRecord s1 a kind source ctx s.free)) 7 k a
/-- An error of stack k that cannot be corrected: counted, logged, the line poisoned (R247, R480) (log 30, DESIGN CHOICE). -/
def uncorrectedError (s : State) (k a source ctx : Nat) : State :=
  let s1 := logPut (bump s (hbmPage k + 0x118) 1) (hbmPage k + 0x180) (hbmRecord s a 3 source ctx 0)
  if s1.mem.poison.contains (a / 64) then s1 else { s1 with mem := { s1.mem with poison := s1.mem.poison ++ [a / 64] } }
/-- Bits turned since: an error stays where it is until something reads it (log 97, DESIGN CHOICE). -/
def befall (s : State) (us : List Upset) : State := { s with mem := { s.mem with upsets := s.mem.upsets ++ us } }
/-- Bits turned that a test picks are met: they leave, and each has its effect. -/
def meetUpsets (s : State) (p : Upset → Bool) (f : State → Upset → State) : State :=
  forEach (s.mem.upsets.filter p) { s with mem := { s.mem with upsets := s.mem.upsets.filter fun u => !p u } } f
/-- The device line of an error. -/
def upsetLine (u : Upset) : Option Nat := match u.place with | .device l => some l | _ => none
/-- A stack controller reads the lines that a test picks (R247, R480, R481): `source` of R482. -/
def meetLines (s : State) (source ctx : Nat) (p : Nat → Bool) : State :=
  meetUpsets s (fun u => ((upsetLine u).map p).getD false) fun s u =>
    let l := (upsetLine u).getD 0
    if u.kind = 3 then uncorrectedError s (l / stackLines) (64 * l) source ctx
    else correctedError s (l / stackLines) (64 * l) u.kind source ctx
/-- Ranges of device memory are read by a unit (source 0), a trowel (3) or for a remote burst (1) (R247, R482). -/
def meetRanges (s : State) (source ctx : Nat) (rs : List (Nat × Nat)) : State :=
  if s.mem.upsets = [] then s
  else meetLines s source ctx fun l => rs.any fun r => (touchLines 64 r.1 r.2).contains l
/-- Parts of lines are written: the controller reads and corrects each whole line (R481). -/
def meetParts (s : State) (source ctx a n : Nat) : State :=
  if s.mem.upsets = [] then s
  else meetLines s source ctx fun l => (touchLines 64 a n).contains l && !(fullLines a n).contains l

/-! ### Tile stores, beds and other SRAM (R247, R480 to R482) -/

/-- A DIE_SRAM_LOG record (R482); the bit corrected is a free value (log 97, DESIGN CHOICE). -/
def sramRecord (s : State) (unit kind inst bank ctx line i : Nat) : List Byte :=
  leBytes 8 (now s) ++ leBytes 1 unit ++ leBytes 1 kind ++ leBytes 2 inst ++ leBytes 1 bank ++ leBytes 1 ctx ++ leBytes 2 line
    ++ leBytes 2 (if kind = 2 then 0xFFFF else Config.freeNat i % 72) ++ leBytes 14 0
/-- An error of an SRAM of die d: counted for the die and at `cnt`, and logged (R480). -/
def sramError (s : State) (d : Nat) (cnt : Option Nat) (unit kind inst bank ctx line : Nat) : State :=
  let s1 := bump { s with free := s.free + 1 } (diePage d + 0x110) 1
  let s2 := match cnt with | some c => bump s1 c 1 | none => s1
  let entry := sramRecord s2 unit kind inst bank ctx line s.free
  if kind = 2 then logPut s2 (diePage d + 0x180) entry
  else logCorrected s2 (diePage d + 0x180) (((unit * 65536 + inst) * 256 + bank) * 65536 + line) entry
/-- A corrected error of an SRAM is reported too (R246, R480). -/
def sramCorrected (s : State) (d : Nat) (cnt : Option Nat) (unit inst bank line a : Nat) : State :=
  eccEvent (sramError s d cnt unit 1 inst bank 0xFF line) unit inst a
/-- COURSE_TILE_ECC_CE of a tile (R470). -/
def tileEccCnt (t : Nat) : Nat := coursePage (t / 16) + 0x800 + 0x80 * (t % 16) + 0x18
/-- A bit of a tile store is met: corrected, or the job holding the tile is torn down (R247). -/
def meetStore (s : State) (t l kind : Nat) : State :=
  let at_ := 64 * l
  if kind = 3 then
    match tileCtx s t with
    | some c => memFault (sramError s (tileDie t) (some (tileEccCnt t)) 0 2 t (l % 64) c (l / 64)) c 0 t at_
    | none => sramError s (tileDie t) (some (tileEccCnt t)) 0 2 t (l % 64) 0xFF (l / 64)
  else sramCorrected s (tileDie t) (some (tileEccCnt t)) 0 t (l % 64) (l / 64) at_
/-- A bit of a bed line is met: a line that cannot be corrected is dropped, to be read again from its stack, and is reported
as corrected too (R247) (log 97, DESIGN CHOICE). -/
def meetBed (s : State) (d l kind : Nat) : State :=
  let s1 : State := if kind = 3 then { s with mem := { s.mem with bedLines := s.mem.bedLines.filter fun p => p ≠ (d, l) } } else s
  sramCorrected s1 d (some (bedPage d + 0x118)) 6 d (l % 32) (l / 32 % 65536) (128 * l)
/-- A bit of a bed scratch way is met: corrected, or the job that owns the way is torn down (R247). -/
def meetScratch (s : State) (c d l kind : Nat) : State :=
  if kind = 3 then memFault (sramError s d (some (bedPage d + 0x118)) 6 2 d (l % 32) c (l / 32 % 65536)) c 6 d (64 * l)
  else sramCorrected s d (some (bedPage d + 0x118)) 6 d (l % 32) (l / 32 % 65536) (64 * l)
/-- A unit of tiles `ts` works: errors in their stores are met (R247). -/
def meetStores (s : State) (ts : List Nat) : State :=
  meetUpsets s (fun u => match u.place with | .store t _ => ts.contains t | _ => false) fun s u =>
    match u.place with | .store t l => meetStore s t l u.kind | _ => s
/-- A die reads lines that its bed holds: errors in them are met (R247). -/
def meetBeds (s : State) (d a n : Nat) : State :=
  meetUpsets s (fun u => match u.place with | .bed e l => decide (e = d) && (touchLines 128 a n).contains l && s.mem.bedLines.contains (d, l) | _ => false)
    fun s u => match u.place with | .bed _ l => meetBed s d l u.kind | _ => s
/-- A die reads bytes of a context's bed scratch: errors in them are met (R247). -/
def meetScratches (s : State) (c d a n : Nat) : State :=
  meetUpsets s (fun u => match u.place with | .scratch x e l => decide (x = c ∧ e = d ∧ 64 * l < a + n ∧ a < 64 * (l + 1)) | _ => false)
    fun s u => match u.place with | .scratch _ _ l => meetScratch s c d l u.kind | _ => s
/-- Other SRAM of die d, unit code 1 (POST) or 9, whose own errors the die meets at once: R247 gives one that cannot be
corrected no outcome but its record (log 97, DESIGN CHOICE). -/
def meetSrams (s : State) : State :=
  meetUpsets s (fun u => match u.place with | .sram _ _ => true | _ => false) fun s u =>
    match u.place with
    | .sram d unit => if u.kind = 3 then sramError s d none unit 2 d 0 0xFF 0 else sramCorrected s d none unit d 0 0 0
    | _ => s

end Sys2Proof.Machine
end

