-- ==== Sys2Proof/Machine/Reals.lean ====
section
/-! DEFINITION. Real functions in fixed point, to far more places than FP32 holds: what the error bounds of the
transcendental unit are measured against (spec/03_tile.md, R89). A real is a pair (a, e), for a × 2^e. -/

namespace Sys2Proof.Machine

/-- Fractional bits of a fixed-point number. -/
def fxQ : Nat := 400
/-- e^r for r in [0, 1): the sum of r^k / k!, from the term `t` of k on. -/
def expSum (r : Nat) : Nat → Nat → Nat → Nat
  | 0, _, _ => 0
  | f + 1, k, t => t + expSum r f (k + 1) (t * r / 2 ^ fxQ / (k + 1))
@[inherit_doc expSum] def fxExp (r : Nat) : Nat := expSum r 120 0 (2 ^ fxQ)
/-- The sum of ± z^(2k+1) / (2k+1) from the power `t` on, with `q` = z²: atanh for sign 1, atan for −1. -/
def oddSum (q sign : Int) : Nat → Nat → Int → Int
  | 0, _, _ => 0
  | f + 1, k, t => t / (2 * k + 1) + oddSum q sign f (k + 1) (sign * t * q / 2 ^ fxQ)
/-- ln 2, as 2 atanh(1/3). -/
def fxLn2 : Nat := (2 * oddSum (2 ^ fxQ / 9) 1 130 0 (2 ^ fxQ / 3)).toNat
/-- π / 2, by Machin's formula. -/
def fxHalfPi : Nat := (8 * oddSum (2 ^ fxQ / 25) (-1) 90 0 (2 ^ fxQ / 5) - 2 * oddSum (2 ^ fxQ / 57121) (-1) 30 0 (2 ^ fxQ / 239)).toNat
/-- ln v for v in [1, 2), as 2 atanh((v − 1) / (v + 1)). -/
def fxLn (v : Nat) : Nat :=
  let z : Int := ((v - 2 ^ fxQ) * 2 ^ fxQ / (v + 2 ^ fxQ) : Nat)
  (2 * oddSum (z * z / 2 ^ fxQ) 1 130 0 z).toNat
/-- The sum of ± r^k / k! over every second k, from the term `t` of k on: sin from k = 1, cos from k = 0. -/
def trigSum (q : Int) : Nat → Nat → Int → Int
  | 0, _, _ => 0
  | f + 1, k, t => t + trigSum q f (k + 2) (-(t * q / 2 ^ fxQ / ((k + 1) * (k + 2))))
/-- sin of x + q quarter turns: the argument is reduced by whole quarter turns first. -/
def fxSin (x q : Int) : Int :=
  let n := x / fxHalfPi
  let r := x - n * fxHalfPi
  let r2 := r * r / 2 ^ fxQ
  let k := (n + q) % 4
  let v := if k % 2 = 0 then trigSum r2 70 1 r else trigSum r2 70 0 (2 ^ fxQ)
  if k < 2 then v else -v
/-- e^x as (a, e). -/
def fxPow (x : Int) : Int × Int := let n := x / fxLn2; ((fxExp (x - n * fxLn2).toNat : Int), n - fxQ)
/-- A real (a, e) with fxQ fractional bits, for e + fxQ ≥ 0 or rounded down. -/
def fxAt (v : Int × Int) : Int :=
  let k := v.2 + fxQ
  if 0 ≤ k then v.1 * 2 ^ k.toNat else v.1 / 2 ^ (-k).toNat
/-- The function of R89 with number `sub`, at (−1)^s × m × 2^e other than 0. -/
def realOf (sub : Nat) (s : Bool) (m : Nat) (e : Int) : Int × Int :=
  let mag : Int := fxAt ((m : Int), e)
  let x := if s then -mag else mag
  match sub with
  | 0 => let n := x / 2 ^ fxQ; ((fxExp ((x - n * 2 ^ fxQ).toNat * fxLn2 / 2 ^ fxQ) : Int), n - fxQ)
  | 1 =>
    let l := Nat.log2 m
    ((e + l) * 2 ^ fxQ + ((fxLn (m * 2 ^ (fxQ - l)) * 2 ^ fxQ / fxLn2 : Nat) : Int), -fxQ)
  | 4 => (fxSin x 0, -fxQ)
  | 5 => (fxSin x 1, -fxQ)
  | 6 =>
    let p := fxAt (fxPow (2 * mag))
    let v := (p - 2 ^ fxQ) * 2 ^ fxQ / (p + 2 ^ fxQ)
    (if s then -v else v, -fxQ)
  | 7 => fxPow x
  | _ => (x, -fxQ)
/-- v / (1 + e^−v) at v = −x, for a real e^x (R48). -/
def realSilu (x : Int) (p : Int × Int) : Int × Int := (-x * 2 ^ fxQ / (2 ^ fxQ + fxAt p), -fxQ)

end Sys2Proof.Machine
end

