-- ==== Sys2Proof/Machine/Fp.lean ====
section
/-! DEFINITION. Number formats and FP32 arithmetic, exact to the bit (spec/02_number_formats.md, R26 to R36, R89). -/

namespace Sys2Proof.Machine

/-- The formats of R27. -/
inductive Fmt where
  | fp32 | bf16 | fp16 | f8e5 | f8e4 | b6 | int8 | int32
deriving DecidableEq, Repr

/-- The 4-bit format code (R27); codes 0x8 to 0xF are reserved. -/
def fmtOf (c : Nat) : Option Fmt :=
  match c with
  | 0 => some .fp32 | 1 => some .bf16 | 2 => some .fp16 | 3 => some .f8e5
  | 4 => some .f8e4 | 5 => some .b6 | 6 => some .int8 | 7 => some .int32
  | _ => none

/-- The code of a format (R27). -/
def fmtCode : Fmt → Nat
  | .fp32 => 0 | .bf16 => 1 | .fp16 => 2 | .f8e5 => 3 | .f8e4 => 4 | .b6 => 5 | .int8 => 6 | .int32 => 7

/-- Element bytes; B6 elements have no byte size of their own (R30). -/
def fmtBytes : Fmt → Nat
  | .fp32 => 4 | .int32 => 4 | .bf16 => 2 | .fp16 => 2 | _ => 1

/-- Exponent bits, mantissa bits and bias (R26). -/
def fmtLayout : Fmt → Nat × Nat × Nat
  | .fp32 => (8, 23, 127) | .bf16 => (8, 7, 127) | .fp16 => (5, 10, 15) | .f8e5 => (5, 2, 15)
  | .f8e4 => (4, 3, 7) | .b6 => (3, 2, 3) | .int8 => (0, 7, 0) | .int32 => (0, 31, 0)

/-- Formats with infinities (R26). -/
def hasInf : Fmt → Bool
  | .fp32 | .bf16 | .fp16 | .f8e5 => true
  | _ => false

/-- A value read from a code: a NaN, an infinity, or (−1)^s × m × 2^e. -/
inductive Fv where
  | nan
  | inf (s : Bool)
  | fin (s : Bool) (m : Nat) (e : Int)
deriving DecidableEq, Repr

/-- Number of bits of a magnitude. -/
def blen (m : Nat) : Nat := if m = 0 then 0 else Nat.log2 m + 1

/-- Read a code of a floating-point format: subnormal codes are zeros (R28, R29, R32), any NaN code is a NaN (R33). -/
def fdec (f : Fmt) (x : Nat) : Fv :=
  let eb := (fmtLayout f).1
  let mb := (fmtLayout f).2.1
  let bias := (fmtLayout f).2.2
  let man := x % 2 ^ mb
  let ex := (x >>> mb) % 2 ^ eb
  let s := x.testBit (eb + mb)
  match hasInf f with
  | true =>
    if ex = 2 ^ eb - 1 then (if man = 0 then .inf s else .nan)
    else if ex = 0 then .fin s 0 0
    else .fin s (2 ^ mb + man) ((ex : Int) - bias - mb)
  | false =>
    if s ∧ ex = 0 ∧ man = 0 then .nan
    else if ex = 0 then .fin false 0 0
    else .fin s (2 ^ mb + man) ((ex : Int) - bias - mb)

/-- A non-zero subnormal code, as flush_in counts it (R54). -/
def isSubnormal (f : Fmt) (x : Nat) : Bool :=
  let eb := (fmtLayout f).1
  let mb := (fmtLayout f).2.1
  decide ((x >>> mb) % 2 ^ eb = 0 ∧ x % 2 ^ mb ≠ 0)

/-- An FP32 code as a value. -/
def f32 (w : Word) : Fv := fdec .fp32 w.toNat

/-- Round a magnitude (with `sticky` set when bits below it are non-zero) to the binade spacing 2^(e + sh),
nearest even; gives the multiple (R34, R49). -/
def rneShift (m sh : Nat) (sticky : Bool) : Nat :=
  let q := m >>> sh
  let r := m % 2 ^ sh
  let h := 2 ^ (sh - 1)
  if sh = 0 then m
  else if r > h ∨ (r = h ∧ (sticky ∨ q % 2 = 1)) then q + 1 else q

/-- The stochastic choice of R49: `r16` are the 16 random bits. -/
def stochShift (m sh r16 : Nat) : Nat :=
  let q := m >>> sh
  let r := m % 2 ^ sh
  let f16 := (r <<< 16) >>> sh
  if f16 + r16 ≥ 65536 then q + 1 else q

/-- Round m × 2^e to `p` significant bits, nearest even, exponent unbounded (R34). -/
def rne (p m : Nat) (e : Int) (sticky : Bool) : Nat × Int :=
  if blen m ≤ p then (m, e)
  else (rneShift m (blen m - p) sticky, e + (blen m - p : Nat))

/-- FP32 code of a rounded magnitude: overflow gives the infinity, below 2^−126 flushes (R32, R34, R35). -/
def pack32 (s : Bool) (m : Nat) (e : Int) : Word :=
  let sb := if s then 0x80000000#32 else 0#32
  if m = 0 then sb
  else
    let top : Int := e + (blen m : Int) - 1
    if top > 127 then sb ||| 0x7F800000#32
    else if top < -126 then sb
    else
      let man := (m <<< 23) >>> (blen m - 1)
      sb ||| BitVec.ofNat 32 (((top + 127).toNat <<< 23) + man % 2 ^ 23)

/-- Round an exact value once to FP32 (R34). -/
def round32 (s : Bool) (m : Nat) (e : Int) (sticky : Bool) : Word :=
  let r := rne 24 m e sticky
  pack32 s r.1 r.2

/-- The canonical FP32 NaN (R33). -/
def nan32 : Word := 0x7FC00000#32

/-- FP32 infinity of a sign. -/
def inf32 (s : Bool) : Word := if s then 0xFF800000#32 else 0x7F800000#32

/-- FP32 zero of a sign. -/
def zero32 (s : Bool) : Word := if s then 0x80000000#32 else 0#32

/-- Write a value as FP32. -/
def wr32 : Fv → Word
  | .nan => nan32
  | .inf s => inf32 s
  | .fin s m e => round32 s m e false

/-- A code read under R32 and R33 and written again. -/
def canon32 (w : Word) : Word := wr32 (f32 w)

/-- Signed integer of (−1)^s m scaled by 2^k. -/
def sgnInt (s : Bool) (m k : Nat) : Int := if s then -((m <<< k : Nat) : Int) else ((m <<< k : Nat) : Int)

/-- Exact sum of two finite values; an exact zero is +0 unless both are negative (R35). -/
def addFin (s1 : Bool) (m1 : Nat) (e1 : Int) (s2 : Bool) (m2 : Nat) (e2 : Int) : Fv :=
  if m1 = 0 ∧ m2 = 0 then .fin (s1 && s2) 0 0
  else if m1 = 0 then .fin s2 m2 e2
  else if m2 = 0 then .fin s1 m1 e1
  else
    let e := min e1 e2
    let t := sgnInt s1 m1 (e1 - e).toNat + sgnInt s2 m2 (e2 - e).toNat
    if t = 0 then .fin false 0 0 else .fin (t < 0) t.natAbs e

/-- Exact sum. -/
def addFv : Fv → Fv → Fv
  | .nan, _ => .nan
  | _, .nan => .nan
  | .inf a, .inf b => if a = b then .inf a else .nan
  | .inf a, .fin _ _ _ => .inf a
  | .fin _ _ _, .inf b => .inf b
  | .fin s1 m1 e1, .fin s2 m2 e2 => addFin s1 m1 e1 s2 m2 e2

/-- Exact product (R35). -/
def mulFv : Fv → Fv → Fv
  | .nan, _ => .nan
  | _, .nan => .nan
  | .inf a, .inf b => .inf (a != b)
  | .inf a, .fin s m _ => if m = 0 then .nan else .inf (a != s)
  | .fin s m _, .inf b => if m = 0 then .nan else .inf (s != b)
  | .fin s1 m1 e1, .fin s2 m2 e2 => .fin (s1 != s2) (m1 * m2) (e1 + e2)

/-- −v: the sign inverted, which is exact. -/
def negFv : Fv → Fv
  | .nan => .nan
  | .inf s => .inf (!s)
  | .fin s m e => .fin (!s) m e

/-- add32 (R35). -/
def add32 (a b : Word) : Word := wr32 (addFv (f32 a) (f32 b))
/-- sub32 (R35). -/
def sub32 (a b : Word) : Word := wr32 (addFv (f32 a) (negFv (f32 b)))
/-- mul32 (R35). -/
def mul32 (a b : Word) : Word := wr32 (mulFv (f32 a) (f32 b))
/-- fma32 (R35). -/
def fma32 (a b c : Word) : Word := wr32 (addFv (mulFv (f32 a) (f32 b)) (f32 c))
/-- The operand with its sign bit inverted (R48, R175). -/
def neg32 (a : Word) : Word := a ^^^ 0x80000000#32
/-- The operand with its sign bit cleared. -/
def abs32 (a : Word) : Word := a &&& 0x7FFFFFFF#32

/-- div32 (R35). -/
def div32 (a b : Word) : Word :=
  match f32 a, f32 b with
  | .nan, _ => nan32
  | _, .nan => nan32
  | .inf _, .inf _ => nan32
  | .inf s, .fin t _ _ => inf32 (s != t)
  | .fin s _ _, .inf t => zero32 (s != t)
  | .fin s m e, .fin t n g =>
    if n = 0 then (if m = 0 then nan32 else inf32 (s != t))
    else if m = 0 then zero32 (s != t)
    else
      let k := 30 + blen n
      let q := (m <<< k) / n
      round32 (s != t) q (e - g - k) (decide ((m <<< k) % n ≠ 0))

/-- Integer square root, bit by bit from `k` down. -/
def isqrt (n : Nat) : Nat → Nat → Nat
  | 0, r => r
  | k + 1, r => let c := r + 2 ^ k; isqrt n k (if c * c ≤ n then c else r)

/-- sqrt32 (R35). -/
def sqrt32 (a : Word) : Word :=
  match f32 a with
  | .nan => nan32
  | .inf s => if s then nan32 else inf32 false
  | .fin s m e =>
    if m = 0 then zero32 s
    else if s then nan32
    else
      -- make the exponent even and leave at least 27 result bits
      let k := if (e % 2 = 0) then 40 else 41
      let n := m <<< k
      let r := isqrt n 40 0
      round32 false r ((e - k) / 2) (decide (r * r ≠ n))

/-- a < b on FP32 values; false on a NaN; −0 equals +0. -/
def ltFv (a b : Fv) : Bool :=
  match a, b with
  | .nan, _ => false
  | _, .nan => false
  | .inf s, .inf t => s && !t
  | .inf s, .fin _ _ _ => s
  | .fin _ _ _, .inf t => !t
  | .fin s m e, .fin t n g =>
    let x := min e g
    decide (sgnInt s m (e - x).toNat < sgnInt t n (g - x).toNat)

/-- a < b (R88 vcmp). -/
def lt32 (a b : Word) : Bool := ltFv (f32 a) (f32 b)
/-- A NaN code. -/
def isNan32 (a : Word) : Bool := f32 a = .nan
/-- Finite: neither a NaN nor an infinity. -/
def isFin32 (a : Word) : Bool :=
  match f32 a with
  | .fin _ _ _ => true
  | _ => false
/-- a = b as values; false on a NaN. -/
def eq32 (a b : Word) : Bool := !isNan32 a && !isNan32 b && !lt32 a b && !lt32 b a
/-- a ≤ b; false on a NaN. -/
def le32 (a b : Word) : Bool := lt32 a b || eq32 a b
/-- Greater than +0. -/
def pos32 (a : Word) : Bool := lt32 0 a

/-- min32 (R35): with one NaN the other operand; of zeros of opposite sign −0. -/
def min32 (a b : Word) : Word :=
  if isNan32 a then canon32 b
  else if isNan32 b then canon32 a
  else if lt32 a b then canon32 a
  else if lt32 b a then canon32 b
  else canon32 a ||| canon32 b

/-- max32 (R35): with one NaN the other operand; of zeros of opposite sign +0. -/
def max32 (a b : Word) : Word :=
  if isNan32 a then canon32 b
  else if isNan32 b then canon32 a
  else if lt32 a b then canon32 b
  else if lt32 b a then canon32 a
  else canon32 a &&& canon32 b

/-- Target codes: NaN (R33), infinity and largest finite of a sign (R26, R50). -/
def nanCode : Fmt → Nat
  | .fp32 => 0x7FC00000 | .bf16 => 0x7FC0 | .fp16 => 0x7E00 | .f8e5 => 0x7E | .f8e4 => 0x80 | .b6 => 0x20 | _ => 0

/-- Sign bit of a format. -/
def signBit (f : Fmt) : Nat := 2 ^ ((fmtLayout f).1 + (fmtLayout f).2.1)

/-- Infinity code of a sign; only for formats that have infinities. -/
def infCode (f : Fmt) (s : Bool) : Nat :=
  (if s then signBit f else 0) + ((2 ^ (fmtLayout f).1 - 1) <<< (fmtLayout f).2.1)

/-- Largest finite code of a sign (R28). -/
def maxCode (f : Fmt) (s : Bool) : Nat :=
  match f with
  | .int8 => if s then 0x80 else 0x7F
  | _ => (if s then signBit f else 0) + (if hasInf f then infCode f false - 1 else signBit f - 1)

/-- Zero of a sign: F8E4 and B6 have no negative zero (R32). -/
def zeroCode (f : Fmt) (s : Bool) : Nat := if hasInf f ∧ s then signBit f else 0

/-- What one conversion gives: the code, and the plumb counters it meets (R54, R55). -/
structure ConvOut where
  code : Nat
  overflowed : Bool
  flushed : Bool
  nan : Bool
deriving DecidableEq, Repr

/-- Steps 5 to 8 of R46 on an exact value: `rnd` none is nearest-even, `some r` stochastic with bits r (R49) (log 69, DEDUCED). -/
def convMag (f : Fmt) (rnd : Option Nat) (clip : Bool) (v : Fv) : ConvOut :=
  match v with
  | .nan => ⟨nanCode f, false, false, true⟩
  | .inf s =>
    if clip ∨ f = .int8 then ⟨maxCode f s, true, false, false⟩
    else if hasInf f then ⟨infCode f s, true, false, false⟩
    else ⟨nanCode f, true, false, true⟩
  | .fin s m e =>
    match f with
    | .int8 =>
      let n : Nat := if e ≥ 0 then m <<< e.toNat
        else match rnd with
          | none => rneShift m (-e).toNat false
          | some r => stochShift m (-e).toNat r
      if n > (if s then 128 else 127) then ⟨maxCode .int8 s, true, false, false⟩
      else ⟨(if s then (256 - n) % 256 else n), false, false, false⟩
    | _ =>
      if m = 0 then ⟨zeroCode f s, false, false, false⟩
      else
        let mb := (fmtLayout f).2.1
        let bias : Int := (fmtLayout f).2.2
        let p := mb + 1
        let sh := blen m - p
        let m5 : Nat := if f = .fp32 then m else if blen m ≤ p then m
          else match rnd with
            | none => rneShift m sh false
            | some r => stochShift m sh r
        let e5 : Int := if f = .fp32 then e else if blen m ≤ p then e else e + (sh : Nat)
        let top : Int := e5 + (blen m5 : Int) - 1
        let maxTop : Int := if hasInf f then (2 ^ (fmtLayout f).1 - 2 : Int) - bias
          else (2 ^ (fmtLayout f).1 - 1 : Int) - bias
        if top < 1 - bias then ⟨zeroCode f s, false, true, false⟩
        else if top > maxTop then
          (if clip then ⟨maxCode f s, true, false, false⟩
           else if hasInf f then ⟨infCode f s, true, false, false⟩
           else ⟨nanCode f, true, false, true⟩)
        else
          let man := ((m5 <<< mb) >>> (blen m5 - 1)) % 2 ^ mb
          ⟨(if s then signBit f else 0) + ((top + bias).toNat <<< mb) + man, false, false, false⟩

/-- cvt(x, fmt, nearest-even) of R35: conversion under R49 with clip off (log 69, DEDUCED). -/
def cvt (x : Word) (f : Fmt) : Nat := (convMag f none false (f32 x)).code

/-- Widen a code of a 16- or 8-bit format to FP32, reading under R32; every such value is exact in FP32. -/
def widen (f : Fmt) (x : Nat) : Word := wr32 (fdec f x)

/-- The FP32 value of an integer, rounded under R34. -/
def ofInt32 (i : Int) : Word := if i = 0 then 0#32 else round32 (i < 0) i.natAbs 0 false

/-- ⌊v⌋ of a finite value. -/
def floorFv : Fv → Int
  | .fin s m e => sgnInt s m 0 * (if e ≥ 0 then (2 ^ e.toNat : Int) else 1) / (if e ≥ 0 then 1 else (2 ^ (-e).toNat : Int))
  | _ => 0

/-- FP32 to INT32, nearest-even, saturating, NaN to 0 (R88 vcvt sub 0). -/
def toInt32 (w : Word) : Word :=
  match f32 w with
  | .nan => 0
  | .inf s => if s then 0x80000000#32 else 0x7FFFFFFF#32
  | .fin s m e =>
    let n := if e ≥ 0 then m <<< e.toNat else rneShift m (-e).toNat false
    if s then (if n ≥ 2 ^ 31 then 0x80000000#32 else BitVec.ofInt 32 (-(n : Int)))
    else (if n ≥ 2 ^ 31 then 0x7FFFFFFF#32 else BitVec.ofNat 32 n)

/-- A positive finite power of two (R81, R166). -/
def isPow2 (w : Word) : Bool := decide (w.toNat % 2 ^ 23 = 0 ∧ 0 < w.toNat ∧ w.toNat < 0x7F800000)

/-- One of the two FP32 neighbours of an exact quotient or root q × 2^e (with remainder), within 1 ulp (R89):
`up` takes the upper one. -/
def neighbour32 (s : Bool) (q : Nat) (e : Int) (rem : Bool) (up : Bool) : Word :=
  let sh := blen q - 24
  let lo := q >>> sh
  let exact := !rem && q % 2 ^ sh == 0
  pack32 s (if exact || !up then lo else lo + 1) (e + (sh : Nat))

/-- A number of whole units of 2^−600. -/
def units600 (a e : Int) : Int := if 0 ≤ e + 600 then a * 2 ^ (e + 600).toNat else a / 2 ^ (-(e + 600)).toNat
/-- An FP32 result lies within `ulps` ulp of a real, or within 2^`least` of it, whichever allows more, as far as `realOf`
resolves; a result below 2^−126 is written as a zero, and one that overflows as an infinity (R32, R34, R89). -/
def nearReal (w : Word) (v : Int × Int) (ulps : Nat) (least : Int) : Bool :=
  let u := max ((blen v.1.natAbs : Int) - 1 + v.2 - 23) (-149)
  let b := max (units600 ulps u) (units600 1 least) + units600 1 (v.2 + 140)
  let r := units600 v.1 v.2
  match f32 w with
  | .nan => false
  | .inf s => decide (units600 1 128 - units600 1 103 ≤ (if s then -r else r) + b)
  | .fin s m e => if m = 0 then decide ((r.natAbs : Int) - b < units600 1 (-126)) else decide (((units600 (sgnInt s m 0) e - r).natAbs : Int) ≤ b)
/-- Absolute error that R89 allows beside 2 ulp, as a power of two: log2 within [0.5, 2], and sin and cos; none else. -/
def leastErr (sub : Nat) (x : Word) : Int :=
  if sub = 1 then (if le32 0x3F000000#32 x && le32 x 0x40000000#32 then -22 else -600)
  else if sub = 4 ∨ sub = 5 then -23 else -600
/-- A result that R89 leaves open: the free function's where it keeps the stated error, else the real value rounded (log 64,
DESIGN CHOICE). The exponential also keeps the bound that R48 states of SiLU. -/
def boundTrans (sub : Nat) (x : Word) (s : Bool) (m : Nat) (e : Int) : Word :=
  let w := canon32 (Config.trans sub x)
  let r := realOf sub s m e
  let silu := decide (sub ≠ 7) || !le32 (abs32 x) 0x42B00000#32 ||
    nearReal (div32 (neg32 x) (add32 0x3F800000#32 w)) (realSilu (fxAt (sgnInt s m 0, e)) r) 2 (-600)
  if nearReal w r 2 (leastErr sub x) && silu then w else round32 (decide (r.1 < 0)) r.1.natAbs r.2 false

/-- The transcendental unit (R89): the tabulated cases, and elsewhere one fixed function within the stated error, flushed and
with canonical NaN. Subs 2 and 3 keep the stated 1 ulp. Facts R48 states of tanh32 and exp32 hold:
tanh32 is ±1.0 from 158 on, exp32 is +0 below −88 (log 64, DESIGN CHOICE). -/
def trans32 (sub : Nat) (x : Word) : Word :=
  let open32 := boundTrans sub x
  match sub, f32 x with
  | _, .nan => nan32
  | 0, .inf s => if s then 0#32 else inf32 false
  | 0, .fin s m e => if m = 0 then 0x3F800000#32
      else if !s && !lt32 x 0x43000000#32 then inf32 false
      else if s && lt32 x 0xC2FE0000#32 then 0#32 else open32 s m e
  | 1, .inf s => if s then nan32 else inf32 false
  | 1, .fin s m e => if m = 0 then inf32 true else if s then nan32 else open32 s m e
  | 2, .inf s => zero32 s
  | 2, .fin s m e =>
      if m = 0 then inf32 s
      else if lt32 0x7E800000#32 (abs32 x) then zero32 s
      else neighbour32 s ((1 <<< 60) / m) (-e - 60) (decide ((1 <<< 60) % m ≠ 0)) (Config.trans 2 x).msb
  | 3, .inf s => if s then nan32 else 0#32
  | 3, .fin s m e =>
      if m = 0 then inf32 s
      else if s then nan32
      else
        -- 1/√(m 2^e) = √(2^k / m) 2^(−(e + k)/2), with e + k even
        let k : Nat := if e % 2 = 0 then 90 else 91
        let n := (1 <<< k) / m
        let r := isqrt n 46 0
        neighbour32 false r (-(e + k) / 2) (decide (r * r ≠ n ∨ (1 <<< k) % m ≠ 0)) (Config.trans 3 x).msb
  | 4, .inf _ => nan32
  | 4, .fin s m e => if m = 0 then zero32 s else open32 s m e
  | 5, .inf _ => nan32
  | 5, .fin s m e => if m = 0 then 0x3F800000#32 else open32 s m e
  | 6, .inf s => if s then 0xBF800000#32 else 0x3F800000#32
  | 6, .fin s m e => if m = 0 then zero32 s
      else if !lt32 (abs32 x) 0x431E0000#32 then (if s then 0xBF800000#32 else 0x3F800000#32) else open32 s m e
  | 7, .inf s => if s then 0#32 else inf32 false
  | 7, .fin s m e => if m = 0 then 0x3F800000#32
      else if !s && !lt32 x 0x42B20000#32 then inf32 false
      else if s && lt32 x 0xC2B00000#32 then 0#32 else open32 s m e
  | _, _ => nan32

end Sys2Proof.Machine
end

