-- ==== Sys2Proof/Machine/Optim.lean ====
section
/-! DEFINITION. Shard records and the trowels' arithmetic: record headers and their checks, optimisers, working copies,
Philox rounding, digests (spec/06_training_state.md, R157 to R179). -/

namespace Sys2Proof.Machine

/-! ### The record header (R158) -/

/-- Offset of a plane in a record (R157): 1 master, 2 and 3 moments, 4 gradient, 5 working. -/
def planeOff (k : Nat) : Nat :=
  if k = 1 then 0x100 else if k = 2 then 0x4100 else if k = 3 then 0x8100 else if k = 4 then 0xC100 else 0xE100
/-- Bytes of a record (R157). -/
def recBytes : Nat := 65792
/-- Working format code of a header (R158). -/
def hWfmt (h : List Byte) : Nat := lat h 6 1
/-- Gradient format code. -/
def hGfmt (h : List Byte) : Nat := lat h 7 1
/-- Parameters in use. -/
def hCount (h : List Byte) : Nat := lat h 0x10 2
/-- Parameter group. -/
def hGroup (h : List Byte) : Nat := lat h 0x13 1
/-- Dimension d of shape, start or extent. -/
def hShape (h : List Byte) (d : Nat) : Nat := lat h (0x18 + 4 * d) 4
@[inherit_doc hShape] def hStart (h : List Byte) (d : Nat) : Nat := lat h (0x28 + 4 * d) 4
@[inherit_doc hShape] def hExtent (h : List Byte) (d : Nat) : Nat := lat h (0x38 + 4 * d) 4
/-- last_step. -/
def hLast (h : List Byte) : Nat := lat h 0x48 4
/-- Working plane bytes of a record: BF16 8,192, F8E4 4,096 (R157). -/
def workBytes (h : List Byte) : Nat := if hWfmt h = 4 then 4096 else 8192

/-- Checks 1 to 5 of R169 on one header; `sameG` says whether gfmt is the one it must equal. First failing check. -/
def headerCheck (h : List Byte) (tensor shard : Nat) (sameG : Bool) : Option Nat :=
  let rank := lat h 0x12 1
  let c1 := lat h 0 4 = 0x52444853 ∧ lat h 4 2 = 1
  let c2 := lat h 8 4 = tensor ∧ lat h 0xC 4 = shard
  let c3 := (hWfmt h = 1 ∨ hWfmt h = 4) ∧ (hGfmt h = 1 ∨ hGfmt h = 2) ∧ sameG ∧ (hWfmt h = 1 → lat h 0x14 1 = 0)
  let dims := (List.range 4).all fun d =>
    if d < rank then decide (1 ≤ hExtent h d ∧ hStart h d + hExtent h d ≤ hShape h d)
    else decide (hShape h d = 1 ∧ hExtent h d = 1 ∧ hStart h d + hExtent h d ≤ hShape h d)
  let prod := fun (f : Nat → Nat) => f 0 * f 1 * f 2 * f 3
  let c4 := 1 ≤ rank ∧ rank ≤ 4 ∧ 1 ≤ hCount h ∧ hCount h ≤ 4096 ∧ hCount h = prod (hExtent h) ∧ dims ∧ prod (hShape h) < 2 ^ 62
  let c5 := lat h 0x15 3 = 0 ∧ lat h 0x4C 4 = 0 ∧ ((h.drop 0x58).take 168).all (· = 0)
  if ¬ c1 then some 1 else if ¬ c2 then some 2 else if ¬ c3 then some 3 else if ¬ c4 then some 4 else if ¬ c5 then some 5 else none

/-- Flat index of record element i within its tensor (R159). -/
def flatIdx (h : List Byte) (i : Nat) : Nat :=
  let e := hExtent h
  let x3 := hStart h 3 + i % e 3
  let x2 := hStart h 2 + i / e 3 % e 2
  let x1 := hStart h 1 + i / (e 3 * e 2) % e 1
  let x0 := hStart h 0 + i / (e 3 * e 2 * e 1)
  ((x0 * hShape h 1 + x1) * hShape h 2 + x2) * hShape h 3 + x3

/-! ### The scalar block (R164) -/

/-- One group entry of the step scalar block (R164). -/
structure Grp where
  opt : Nat
  flags : Nat
  lr : Word
  wd : Word
  b1 : Word
  b2 : Word
  omb1 : Word
  omb2 : Word
  eps : Word
  b1t : Word
  b2t : Word
  mu : Word
  omd : Word
deriving DecidableEq, Repr

/-- A little-endian word of a byte list. -/
def wordAt (bs : List Byte) (o : Nat) : Word := BitVec.ofNat 32 (lat bs o 4)
/-- Entry g of a block. -/
def grpAt (blk : List Byte) (g : Nat) : Grp :=
  let o := 32 + 64 * g
  { opt := lat blk o 1, flags := lat blk (o + 1) 1, lr := wordAt blk (o + 4), wd := wordAt blk (o + 8),
    b1 := wordAt blk (o + 12), b2 := wordAt blk (o + 16), omb1 := wordAt blk (o + 20), omb2 := wordAt blk (o + 24),
    eps := wordAt blk (o + 28), b1t := wordAt blk (o + 32), b2t := wordAt blk (o + 36), mu := wordAt blk (o + 40),
    omd := wordAt blk (o + 44) }
/-- groups of a block. -/
def blkGroups (blk : List Byte) : Nat := lat blk 0x18 2
/-- Causes 2 to 5 of R166 on a block: `gs` the groups of the job's records, `bf16` its gradient format; `recs` says
whether the header's records field must be 0 (R196). -/
def scalarCause25 (blk : List Byte) (gs : List Nat) (bf16 recs : Bool) : Option Nat :=
  let n := blkGroups blk
  let ls := wordAt blk 0x10
  let gm := wordAt blk 0x14
  let badEntry := (List.range n).any fun g =>
    let e := grpAt blk g
    let o := 32 + 64 * g
    decide (e.opt > 3 ∨ e.flags > 3 ∨ lat blk (o + 2) 2 ≠ 0 ∨ lat blk (o + 0x30) 8 ≠ 0 ∨ lat blk (o + 0x38) 8 ≠ 0)
  if n = 0 ∨ 256 < n ∨ gs.any (fun g => n ≤ g) then some 2
  else if badEntry ∨ lat blk 0x1A 2 ≠ 0 ∨ (recs ∧ lat blk 0x1C 4 ≠ 0) then some 3
  else if ¬ isPow2 ls ∨ (bf16 ∧ ls ≠ 0x3F800000) then some 4
  else if ¬ (pos32 gm ∧ isFin32 gm) then some 5
  else none

/-! ### Optimisers (R175) -/

/-- sgn of R175. -/
def sgn32 (x : Word) : Word :=
  if isNan32 x then nan32 else if lt32 0 x then 0x3F800000 else if lt32 x 0 then 0xBF800000 else 0
/-- adam_dir of R175. -/
def adamDir (p : Grp) (m1 m2 : Word) : Word :=
  let c1 := sub32 0x3F800000 p.b1t
  let c2 := sub32 0x3F800000 p.b2t
  div32 (div32 m1 c1) (add32 (sqrt32 (div32 m2 c2)) p.eps)
/-- One element's update: gradient as FP32, master, moments; gives master and moments (R175). -/
def updElem (p : Grp) (gm grad w m1 m2 : Word) : Word × Word × Word :=
  let g0 := mul32 grad gm
  match p.opt with
  | 0 =>
    let g := fma32 p.wd w g0
    let m1' := fma32 p.omb1 g (mul32 p.b1 m1)
    let m2' := fma32 p.omb2 (mul32 g g) (mul32 p.b2 m2)
    (fma32 (neg32 p.lr) (adamDir p m1' m2') w, m1', m2')
  | 1 =>
    let m1' := fma32 p.omb1 g0 (mul32 p.b1 m1)
    let m2' := fma32 p.omb2 (mul32 g0 g0) (mul32 p.b2 m2)
    (fma32 (neg32 p.lr) (fma32 p.wd w (adamDir p m1' m2')) w, m1', m2')
  | 2 =>
    let g := fma32 p.wd w g0
    let m1' := fma32 p.mu m1 (mul32 p.omd g)
    let d := if p.flags % 2 = 1 then fma32 p.mu m1' g else m1'
    (fma32 (neg32 p.lr) d w, m1', m2)
  | _ =>
    let d := sgn32 (fma32 p.omb1 g0 (mul32 p.b1 m1))
    (fma32 (neg32 p.lr) (fma32 p.wd w d) w, fma32 p.omb2 g0 (mul32 p.b2 m1), m2)

/-! ### Rounding of working copies (R176, R177) -/

/-- One round of Philox-4x32. -/
def philoxRound (x : (Word × Word × Word × Word) × (Word × Word)) : (Word × Word × Word × Word) × (Word × Word) :=
  let c := x.1
  let k := x.2
  let p0 : Dword := (0xD2511F53#64) * c.1.setWidth 64
  let p1 : Dword := (0xCD9E8D57#64) * c.2.2.1.setWidth 64
  let hi := fun (p : Dword) => (p >>> 32).setWidth 32
  let lo := fun (p : Dword) => p.setWidth 32
  ((hi p1 ^^^ c.2.1 ^^^ k.1, lo p1, hi p0 ^^^ c.2.2.2 ^^^ k.2, lo p0), (k.1 + 0x9E3779B9, k.2 + 0xBB67AE85))
/-- Philox-4x32-10 (R177). -/
def philox (c : Word × Word × Word × Word) (k : Word × Word) : Word × Word × Word × Word :=
  ((List.range 10).foldl (fun x _ => philoxRound x) (c, k)).1
/-- work_bits of R177. -/
def workBits (idx tensor step seed : Nat) : Nat :=
  let q := idx / 4
  let w := fun (n : Nat) => BitVec.ofNat 32 n
  let o := philox (w q, w (q / 2 ^ 32), w tensor, w step) (w seed, w (seed / 2 ^ 32))
  let x := if idx % 4 = 0 then o.1 else if idx % 4 = 1 then o.2.1 else if idx % 4 = 2 then o.2.2.1 else o.2.2.2
  x.toNat / 65536
/-- The exponent k of R176 for one finite master value; none for zero, NaN or infinity. -/
def scaleExp (w : Word) : Option Int :=
  match f32 w with
  | .fin _ m e =>
    if m = 0 then none
    else
      let top : Int := e + (blen m : Int) - 1
      some (if m * 8 ≤ 15 * 2 ^ (blen m - 1) then top - 8 else top - 7)
  | _ => none
/-- k of R176 for the record's new master values. -/
def recScale (ws : List Word) : Int :=
  let es := ws.filterMap scaleExp
  match es with
  | [] => 0
  | e :: t => max (-127) (min 127 (t.foldl max e))
/-- A finite value times a power of two, exact. -/
def scaleFv (v : Fv) (k : Int) : Fv :=
  match v with
  | .fin s m e => .fin s m (e + k)
  | x => x
/-- The working code of one master value (R176): format, scale exponent, random bits. -/
def workCode (f : Fmt) (k : Int) (rnd : Option Nat) (w : Word) : ConvOut := convMag f rnd true (scaleFv (f32 w) (-k))

/-! ### Whole records -/

/-- Words of a plane of FP32. -/
def planeWords (bs : List Byte) (n : Nat) : List Word := (List.range n).map fun i => wordAt bs (4 * i)
/-- What a sweep of one record writes: the planes from element 0 on, wscale, and R178's counts. -/
structure SweepOut where
  master : List Byte
  mom1 : List Byte
  mom2 : List Byte
  work : List Byte
  wscale : Nat
  nans : Nat
  ovf : Nat
  flush : Nat
deriving DecidableEq, Repr

/-- The working plane written from new master values (R176, R177): bytes, wscale, overflows, flushes. -/
def workPlane (h : List Byte) (stoch : Bool) (step seed : Nat) (ws : List Word) : List Byte × Nat × Nat × Nat :=
  let f8 := hWfmt h = 4
  let f : Fmt := if f8 then .f8e4 else .bf16
  let k : Int := if f8 then recScale ws else 0
  let outs := ws.zipIdx.map fun p =>
    workCode f k (if stoch then some (workBits (flatIdx h p.2) (lat h 8 4) step seed) else none) p.1
  (outs.flatMap fun o => leBytes (if f8 then 1 else 2) o.code, if f8 then (k + 127).toNat else lat h 0x14 1,
    outs.countP (·.overflowed), outs.countP (·.flushed))

/-- Sweep one record, given as a reader of its bytes (R170, R175 to R177). -/
def sweepRec (rd : Nat → Nat → List Byte) (h blk : List Byte) (step : Nat) : SweepOut :=
  let n := hCount h
  let p := grpAt blk (hGroup h)
  let gm := wordAt blk 0x14
  let gf : Fmt := if hGfmt h = 2 then .fp16 else .bf16
  let g := rd (planeOff 4) (2 * n)
  let w := rd (planeOff 1) (4 * n)
  let a := rd (planeOff 2) (4 * n)
  let b := rd (planeOff 3) (4 * n)
  let outs := (List.range n).map fun i =>
    updElem p gm (widen gf (lat g (2 * i) 2)) (wordAt w (4 * i)) (wordAt a (4 * i)) (wordAt b (4 * i))
  let wk := workPlane h (p.flags / 2 % 2 = 1) step (lat blk 0 8) (outs.map (·.1))
  let flat := fun (xs : List Word) => xs.flatMap fun x => leBytes 4 x.toNat
  { master := flat (outs.map (·.1)), mom1 := flat (outs.map (·.2.1)),
    mom2 := if p.opt ≤ 1 then flat (outs.map (·.2.2)) else [],
    work := wk.1, wscale := wk.2.1, nans := outs.countP (fun o => isNan32 o.1), ovf := wk.2.2.1, flush := wk.2.2.2 }

/-- Master value that INIT forms from a working code (R184). -/
def initMaster (h : List Byte) (code : Nat) : Word :=
  if hWfmt h = 4 then wr32 (scaleFv (fdec .f8e4 code) ((lat h 0x14 1 : Int) - 127)) else widen .bf16 code
/-- Digest of a master plane (R179). -/
def recDigest (master : List Byte) : Nat := (crc64 master).toNat

end Sys2Proof.Machine
end

