-- ==== Sys2Proof/Machine/Posted.lean ====
section
/-! DEFINITION. Posted bursts, the step epoch and the late-error queue on the initiating part
(spec/07_sorius_fabric.md, R218 to R222). -/

namespace Sys2Proof.Machine

/-- Data packets of a burst: pieces of 512 bytes, the last at most `lastMax` (504 where a signal follows; log 16). -/
def burstPieces (lastMax : Nat) : Nat → List Byte → List (List Byte)
  | 0, bs => [bs]
  | fuel + 1, bs => if bs.length ≤ lastMax then [bs] else bs.take 512 :: burstPieces lastMax fuel (bs.drop 512)

/-- The packets of one burst (R205, R206, R219): `sig` are the 8 signal bytes, empty for none (log 16, DEDUCED). -/
def burstPackets (base : Packet) (bs sig : List Byte) : List Packet :=
  let ps := burstPieces (if sig = [] then 512 else 504) 32 bs
  let n := ps.length
  ps.zipIdx.map fun p =>
    if p.2 + 1 < n then { base with ty := 1, addr := base.addr + 512 * p.2, aux := BitVec.ofNat 32 (512 * p.2), payload := p.1 }
    else { base with
      ty := 2
      addr := base.addr + 512 * p.2
      aux := BitVec.ofNat 32 (cdiv bs.length 64 + (if sig = [] then 0 else 2 ^ 31))
      payload := p.1 ++ sig }

/-- Post one burst of a job: a tag of `owner` (the context, or 8 for device firmware) is taken, the burst counted in
the step epoch, its packets injected (R218, R219, R222). `b` names its source (log 60, DEDUCED). -/
def postBurst (s : State) (c owner vc dst : Nat) (b : Burst) (addr : Nat) (bs sig : List Byte) : State :=
  let t := takeTag s owner
  let step := (ctxOf s c).step
  let s1 := updFab t.2 c fun f => { f with
    bursts := f.bursts ++ [{ b with tag := t.1, step := step, dst := dst, addr := addr, bytes := bs.length }]
    epochs := mupd f.epochs {} step fun e => { e with issued := e.issued + 1 } }
  let base : Packet :=
    { ty := 1, vc := vc, side := 0, dst := dst, src := ownCoord s, fabricJob := fabricJob s c, tag := t.1, step := step,
      addr := addr, aux := 0, payload := [] }
  forEach (burstPackets base bs sig) s1 fun s p => inject s p

/-- Device firmware has tags for one more record: of the 16,384 those promised to loaded jobs are not its own (R218) (log 15, DESIGN CHOICE). -/
def firmwareTagFree (s : State) : Bool :=
  let promised := ((loadedCtxs s).map fun c => (ctxOf s c).man.fabCredits).sum
  decide (tagsHeld s 8 + 8 ≤ 16384 - promised)

/-- A tag is free for context c (R15, R218). -/
def jobTagFree (s : State) (c : Nat) : Bool := decide (tagsHeld s c < (ctxOf s c).man.fabCredits)

/-- The burst that a response answers: of its tag and its step epoch; none for an epoch that an abort has closed (R219,
R222, R259). -/
def burstOf (s : State) (c : Nat) (p : Packet) : Option Burst :=
  (ctxOf s c).fab.bursts.find? fun b => decide (b.tag = p.tag ∧ b.step = p.step)

/-- The job of a fabric_job on this part: the loaded context whose live field equals it; for 0, the context whose
burst or get holds the tag (R224). -/
def ctxOfFabricJob (s : State) (fj : Nat) : Option Nat :=
  if fj = 0 then none else (loadedCtxs s).find? fun c => decide (fabricJob s c = fj)
/-- The context that issued a request with a tag (R219). -/
def ctxOfTag (s : State) (fj tag : Nat) : Option Nat :=
  (List.range 8).find? fun c => decide (fabricJob s c = fj) &&
    ((ctxOf s c).fab.bursts.any (fun b => decide (b.tag = tag)) || (ctxOf s c).fab.gets.any (fun g => decide (g.tag = tag)))

/-- A burst is done: its tag frees and its epoch counts it, late if `late` (R218, R222). -/
def burstDone (s : State) (c : Nat) (b : Burst) (late : Bool) : State :=
  dropTag (updFab s c fun f => { f with
    bursts := f.bursts.filter fun x => x.tag ≠ b.tag
    epochs := mupd f.epochs {} b.step fun e => { e with done := e.done + 1, late := e.late + b2n late } }) b.tag

/-- The initiator's late-error record of a LATE_WRITE (R221): the reporter's record with the initiator's own fields. -/
def lateRecord (b : Burst) (r : List Byte) : List Byte :=
  leBytes 4 b.step ++ leBytes 1 (lat r 4 1) ++ leBytes 1 b.source ++ leBytes 2 (if b.source = 0 then b.tile else 0xFFFF)
    ++ leBytes 2 b.dst ++ leBytes 2 (lat r 0xA 2) ++ leBytes 4 0 ++ leBytes 8 (lat r 0x10 8) ++ leBytes 4 b.bytes ++ leBytes 4 0
/-- Store a record in the late-error queue, or count it (R221). -/
def pushLate (s : State) (c : Nat) (r : List Byte) : State :=
  updFab s c fun f =>
    if f.late.length < 256 then { f with late := f.late ++ [r] } else { f with lateOvf := min (2 ^ 32 - 1) (f.lateOvf + 1) }

end Sys2Proof.Machine
end

