-- ==== Sys2Proof/Machine/Trail.lean ====
section
/-! DEFINITION. Records of a job, sink rings, trail records, staging and the mover (spec/06_training_state.md, R160,
R164 to R166, R186 to R199). -/

namespace Sys2Proof.Machine

/-! ### Records a job places (R160) -/

/-- One shard record of a job. -/
structure Rec where
  stack : Nat
  /-- stack record index -/
  idx : Nat
  addr : Nat
  tensor : Nat
  shard : Nat
deriving DecidableEq, Repr

/-- Records of the placements that satisfy a test, among the first `i`. -/
def placedBefore (ps : List Place) (i : Nat) (f : Place → Bool) : Nat := (((ps.take i).filter f).map (·.records)).sum
/-- Every record of a job, by increasing stack, then stack record index (R160, R193). -/
def recsOf (m : Manifest) : List Rec :=
  let all := m.places.zipIdx.flatMap fun p =>
    let base := (m.regions.map (·.base)).getD p.1.region 0
    let off := placedBefore m.places p.2 fun q => decide (q.region = p.1.region)
    let k0 := placedBefore m.places p.2 fun q => decide (q.stack = p.1.stack)
    (List.range p.1.records).map fun j => (⟨p.1.stack, k0 + j, base + recBytes * (off + j), p.1.tensor, p.1.first + j⟩ : Rec)
  (List.range 12).flatMap fun k => all.filter fun r => r.stack = k
/-- Records of a job in one stack. -/
def recsIn (m : Manifest) (k : Nat) : List Rec := (recsOf m).filter fun r => r.stack = k
/-- Stacks that hold records of a job. -/
def recStacks (m : Manifest) : List Nat := (List.range 12).filter fun k => (m.places.any fun p => decide (p.stack = k ∧ 0 < p.records))
/-- Header bytes of a record. -/
def hdrOf (s : State) (r : Rec) : List Byte := devRead s r.addr 256
/-- A training job (R143). -/
def Manifest.training (m : Manifest) : Bool := m.kind = 0
/-- gfmt of record r equals that of every other record of the job (R169 check 3). -/
def sameGfmt (s : State) (m : Manifest) (g : Nat) : Bool := (recsOf m).all fun r => decide (lat (devRead s (r.addr + 7) 1) 0 1 = g)

/-! ### The scalar block (R164 to R166) -/

/-- The live scalar block of a job. -/
def scalarBlock (s : State) (c : Nat) : List Byte :=
  let a := scalarAddr s c
  devRead s a (32 + 64 * devNat s (a + 0x18) 2)
/-- The job's gradients are BF16 (R162). -/
def bf16Grads (s : State) (m : Manifest) : Bool :=
  match recsOf m with
  | r :: _ => decide (lat (devRead s (r.addr + 7) 1) 0 1 = 1)
  | [] => false
/-- Groups of the job's records. -/
def recGroups (s : State) (m : Manifest) : List Nat := (recsOf m).map fun r => devNat s (r.addr + 0x13) 1
/-- The trowels read the live scalar block: errors in it are met (R166, R247). -/
def scalarMeet (s : State) (c : Nat) : State :=
  let a := scalarAddr s c
  meetRanges s 3 c [(a, 32 + 64 * devNat s (a + 0x18) 2)]
/-- A poisoned line under the live scalar block, where one is named: the first trowel of the job that reads it faults
(R166, R247). -/
def scalarPoison (s : State) (c : Nat) : Option Nat :=
  let a := scalarAddr s c
  if a = 0 ∧ ¬ inOneRegion (ctxOf s c).man 0 0 a (32 + 64 * devNat s (a + 0x18) 2) then none
  else poisonedAt s a (32 + 64 * devNat s (a + 0x18) 2)
/-- First failing cause of R166 for the boundary of step `step`; cause 6 is judged first, since no block can be read then (log 17). -/
def scalarCause (s : State) (c step : Nat) : Option Nat :=
  let m := (ctxOf s c).man
  let a := scalarAddr s c
  if a = 0 ∧ ¬ inOneRegion m 0 0 a (32 + 64 * devNat s (a + 0x18) 2) then some 6
  else if devNat s (a + 8) 4 ≠ step then some 1
  else scalarCause25 (scalarBlock s c) (recGroups s m) (bf16Grads s m) true

/-! ### Sink rings (R186, R187) -/

/-- Magic of a control area. -/
def sinkMagic : Nat := 0x4C494152
/-- Pieces of a record at stream position `pos` of a ring of length `len` (R186): (offset, bytes). -/
def ringPieces (len pos : Nat) (bs : List Byte) : List (Nat × List Byte) :=
  let d := len - 256
  let n := d - pos % d
  if bs.length ≤ n then [(256 + pos % d, bs)] else [(256 + pos % d, bs.take n), (256, bs.drop n)]
/-- Room for a record (R186). -/
def ringRoom (len prod cons n : Nat) : Bool := decide (n ≤ len - 256 - (prod - cons))
/-- Why a control area is invalid (R187): 1 magic, 2 counts. -/
def areaCause (len : Nat) (area : List Byte) : Option Nat :=
  let p := lat area 8 8
  let q := lat area 0x40 8
  if lat area 0 4 ≠ sinkMagic then some 1 else if p < q ∨ len - 256 < p - q then some 2 else none
/-- Place of a sink: a snapshot goes where its request said (R198). -/
def sinkAt (s : State) (c k : Nat) : SinkCfg :=
  let t := (ctxOf s c).trn
  if k = 2 ∧ t.snapping then t.snapSink else if k = 2 ∧ t.snapReq then t.snapNext else sinkCfg s c k
/-- A sink of a context. -/
def sinkOf (s : State) (c k : Nat) : SinkSt := mget (ctxOf s c).trn.sinks {} k
/-- Change a sink. -/
def updSink (s : State) (c k : Nat) (f : SinkSt → SinkSt) : State := updTrn s c fun t => { t with sinks := mupd t.sinks {} k f }

/-- The snapshot in progress is abandoned (R187). -/
def dropSnap (s : State) (c : Nat) : State :=
  updTrn s c fun t => { t with snapOut := [], snapSeq := [], snapping := false, cmds := t.cmds.filter (·.op ≠ 6) }
/-- Record a sink found invalid: SINK_INVALID once, and its effect on a snapshot (R187). -/
def sinkBad (s : State) (c k cause : Nat) : State :=
  let cfg := sinkAt s c k
  let s1 := updSink s c k fun x => { x with invalid := true, known := true }
  let s2 := if (sinkOf s c k).invalid then s1
    else raiseJob s1 c 0x001D { cause := cause, inst := k, coords := if cfg.peer then toPhys s cfg.coords else 0xFFFF, a := cfg.base }
  if k = 2 then dropSnap s2 c else s2
/-- Take a control area as read (R187): the counts are taken at the first read, the consumer count at every read. -/
def takeArea (s : State) (c k : Nat) (area : List Byte) : State :=
  match areaCause (sinkAt s c k).len area with
  | some e => sinkBad s c k e
  | none =>
    updSink s c k fun x =>
      { x with prod := if x.known then x.prod else lat area 8 8, cons := lat area 0x40 8, invalid := false, known := true }
/-! ### Reads on the tags of device firmware (R187, R188, R218) -/

/-- Read n bytes of a peer: a firmware tag is taken and READ_REQ injected; counted in no step epoch (log 60, DEDUCED). -/
def fwAsk (s : State) (c dst addr n what cmd : Nat) : State :=
  let t := takeTag s 8
  inject (updFab t.2 c fun f => { f with reads := f.reads ++ [⟨t.1, dst, what, cmd, 0, List.replicate n 0, false⟩] })
    { ty := 5, vc := 0, side := 0, dst := dst, src := ownCoord s, fabricJob := fabricJob s c, tag := t.1, step := 0
      addr := addr, aux := BitVec.ofNat 32 n, payload := [] }
/-- A read that waits for its answer. -/
def fwReadOf (s : State) (c what cmd : Nat) : Option FwRead :=
  (ctxOf s c).fab.reads.find? fun r => decide (r.what = what ∧ r.cmd = cmd)
/-- A read is over: its tag is free. -/
def fwDone (s : State) (c : Nat) (r : FwRead) : State :=
  let s1 := updFab s c fun f => { f with reads := f.reads.erase r }
  if r.nak then s1 else dropTag s1 r.tag
/-- Ask for the control area of a peer sink, unless a read of it is under way or firmware has no tag left (R187). -/
def fwAskArea (s : State) (c k : Nat) : State :=
  let cfg := sinkAt s c k
  if (fwReadOf s c k 0).isSome ∨ ¬ firmwareTagFree s then s else fwAsk s c (toPhys s cfg.coords) cfg.base 256 k 0
/-- The answer to the read of a peer sink's area: its bytes, or none for READ_NAK or no response (R187). -/
def fwAnswered (s : State) (c k : Nat) (area : Option (List Byte)) : State :=
  match fwReadOf s c k 0 with
  | none => s
  | some r => match area with
    | some a => takeArea (fwDone s c r) c k a
    | none => sinkBad (fwDone s c r) c k 3
/-- Address and bytes of the source of an IMPORT or REPLAY (R183). -/
def cmdAddr (x : TrwCmd) : Nat := 2 ^ 32 * fld (x.w.getD 0 0) 8 0 + (x.w.getD 1 0).toNat
@[inherit_doc cmdAddr] def cmdLen (x : TrwCmd) : Nat := (x.w.getD 2 0).toNat * 64
/-- The source lies in a peer part. -/
def cmdPeer (x : TrwCmd) : Bool := (x.w.getD 0 0).getLsbD 24
/-- Ask for the next piece of a command's source in a peer, at most 4 KiB, unless a piece is under way (R188) (log 29, DEDUCED). -/
def fwAskSource (s : State) (c : Nat) (x : TrwCmd) : State :=
  let at_ := x.src.length
  if cmdLen x ≤ at_ ∨ (fwReadOf s c 3 x.id).isSome ∨ ¬ firmwareTagFree s then s
  else fwAsk s c (toPhys s (fld (x.w.getD 0 0) 23 9)) (cmdAddr x + at_) (min 4096 (cmdLen x - at_)) 3 x.id
/-- READ_DATA of a read of device firmware (R218): once all of it has arrived the tag is free and the bytes are used. -/
def fwData (s : State) (c : Nat) (r : FwRead) (off : Nat) (bs : List Byte) : State :=
  let buf := (r.buf.take off ++ bs ++ r.buf.drop (off + bs.length)).take r.buf.length
  let got := r.got + bs.length
  if got < r.buf.length then updFab s c fun f => { f with reads := f.reads.map fun y => if y.tag = r.tag ∧ y.nak = false then { y with buf := buf, got := got } else y }
  else if r.what < 3 then fwAnswered s c r.what (some buf)
  else
    let s1 := updTrn (fwDone s c r) c fun t => { t with cmds := t.cmds.map fun y => if y.id = r.cmd then { y with src := y.src ++ buf } else y }
    match (ctxOf s1 c).trn.cmds.find? fun y => y.id = r.cmd with
    | some x => fwAskSource s1 c x
    | none => s1
/-- READ_NAK of such a read (R187, R218): a sink's area is unreadable; a command's source does not arrive (log 29, DEDUCED). -/
def fwNak (s : State) (c : Nat) (r : FwRead) : State :=
  if r.what < 3 then fwAnswered s c r.what none
  else dropTag (updFab s c fun f => { f with reads := f.reads.map fun y => if y = r then { y with nak := true } else y }) r.tag

/-- The control area of a sink in host memory. -/
def hostArea (s : State) (c k : Nat) : List Byte := s.hostMem.read (sinkAt s c k).base 256
/-- Forget what was read of the sinks of a context, so that each is read again before it is written (R266). Records that
were sent and not published are still held and go again (R190). -/
def forgetSinks (s : State) (c : Nat) : State :=
  updTrn s c fun t => { t with sinks := t.sinks.map fun p => (p.1, { p.2 with known := false, ahead := 0, closeTo := 0 }) }

/-! ### Trail records (R191, R192) -/

/-- The 32-byte header of a record whose payload has `n` bytes. The producing part is named by its physical
coordinates (log 18). -/
def trailHdr (s : State) (ty flags step n tensor shard digest : Nat) : List Byte :=
  leBytes 1 ty ++ leBytes 1 flags ++ leBytes 2 0 ++ leBytes 4 (roundUp (32 + n) 64) ++ leBytes 4 step ++ leBytes 4 (ownCoord s)
    ++ leBytes 4 tensor ++ leBytes 4 shard ++ leBytes 8 digest
/-- A whole record, padded. -/
def trailRec (s : State) (ty flags step tensor shard digest : Nat) (payload : List Byte) : List Byte :=
  padTo (roundUp (32 + payload.length) 64) (trailHdr s ty flags step payload.length tensor shard digest ++ payload)
/-- STEP_OPEN: the live block with its records field set (R192). -/
def stepOpen (s : State) (c step : Nat) (skipped : Bool) (n : Nat) : List Byte :=
  let b := scalarBlock s c
  trailRec s 0x01 (b2n skipped) step 0 0 0 (b.take 0x1C ++ leBytes 4 n ++ b.drop 0x20)
/-- A CLOSE record over the sequence so far (R192). -/
def closeRec (s : State) (ty flags step n diverged : Nat) (seq : List Byte) : List Byte :=
  trailRec s ty flags step 0 0 0 (leBytes 4 n ++ leBytes 4 diverged ++ leBytes 4 (crc32c seq).toNat ++ List.replicate 20 0)
/-- Gradient plane with padding elements zero (R192). -/
def gradPlane (s : State) (r : Rec) (count : Nat) : List Byte := padTo 8192 (devRead s (r.addr + planeOff 4) (2 * count))
/-- BASE_SHARD or SNAP_SHARD (R192). -/
def shardRec (s : State) (ty step : Nat) (r : Rec) : List Byte :=
  let h := hdrOf s r
  let work := devRead s (r.addr + planeOff 5) (workBytes h)
  let body := if ty = 0x12 then devRead s r.addr 0xC100 ++ work else h ++ work
  trailRec s ty 0 step r.tensor r.shard (lat h 0x50 8) body
/-- Length field of a record. -/
def recLen (bs : List Byte) : Nat := lat bs 4 4

/-! ### Staging (R189, R190) -/

/-- The trail staging ring of a job (R189). -/
def staging (m : Manifest) : Option Region := if m.trailExport then m.regions.find? fun r => r.kind = 2 else none
/-- Write a record to a ring in device memory if it has room: bytes, then the producer count (R186). -/
def stagePut (s : State) (r : Region) (bs : List Byte) : Option State :=
  let prod := devNat s (r.base + 8) 8
  let cons := devNat s (r.base + 0x40) 8
  if ringRoom r.len prod cons bs.length then
    let s1 := forEach (ringPieces r.len prod bs) s fun s p => devWrite s none (r.base + p.1) p.2
    some (devWrite s1 none (r.base + 8) (leBytes 8 (prod + bs.length)))
  else none
/-- Write waiting records of the step sequence while the staging ring has room (R186, R190). -/
def flushStage (s : State) (c : Nat) : Nat → State
  | 0 => s
  | n + 1 =>
    match staging (ctxOf s c).man, (ctxOf s c).trn.stageOut with
    | some r, x :: rest =>
      match stagePut s r x with
      | some s1 => flushStage (updTrn s1 c fun t => { t with stageOut := rest }) c n
      | none => s
    | _, _ => s
/-- Flush everything that waits. -/
def flushAll (s : State) (c : Nat) : State := flushStage s c ((ctxOf s c).trn.stageOut.length)
/-- Append a record to the step sequence (R193) and write it when there is room. -/
def stageRecord (s : State) (c : Nat) (bs : List Byte) : State :=
  flushAll (updTrn s c fun t => { t with stageOut := t.stageOut ++ [bs], seqBytes := t.seqBytes ++ bs }) c
/-- SHARD_GRAD records whose turn has come join the sequence: every trowel of a lower stack has ended its sweep (R193). -/
def turnGrads (s : State) (c : Nat) (todo : List Nat) : Nat → State
  | 0 => s
  | n + 1 =>
    let t := (ctxOf s c).trn
    match ((List.range 12).findSome? fun k => t.grads.find? fun g => g.1 = k) with
    | some g =>
      if todo.any (· < g.1) then s
      else turnGrads (stageRecord (updTrn s c fun t => { t with grads := t.grads.erase g }) c g.2.2) c todo n
    | none => s

/-! ### The mover (R190) -/

/-- The sink is live and may be written. -/
def sinkReady (s : State) (c k : Nat) : Bool :=
  decide ((sinkAt s c k).len ≠ 0) && (sinkOf s c k).known && !(sinkOf s c k).invalid
/-- Record that a sink holds the CLOSE of a step (R262). -/
def sinkClosed (s : State) (c k step : Nat) : State :=
  updTrn s c fun t => if k = 0 then { t with trailStep := step } else if k = 1 then { t with baseStep := step } else { t with snapping := false }
/-- Pieces of at most 16 KiB (R219). -/
def cut16k : Nat → Nat → List Byte → List (Nat × List Byte)
  | 0, _, _ => []
  | fuel + 1, a, bs => if bs = [] then [] else (a, bs.take 16384) :: cut16k fuel (a + 16384) (bs.drop 16384)
/-- Write a record to a sink that has room (R186, R188). For a peer sink the bytes go as posted bursts, and the
producer count follows when they are acknowledged. -/
def sinkWrite (s : State) (c k : Nat) (bs : List Byte) : State :=
  let cfg := sinkAt s c k
  let x := sinkOf s c k
  let close := bit (lat bs 0 1) 0 && bit (lat bs 0 1) 1
  let step := lat bs 8 4
  if cfg.peer then
    let pos := x.prod + x.ahead
    let s1 := forEach ((ringPieces cfg.len pos bs).flatMap fun p => cut16k (cdiv p.2.length 16384) p.1 p.2) s fun s p =>
      postBurst s c 8 0 (toPhys s cfg.coords) ⟨0, 0, 1, k, 0, 0, 0, 0⟩ (cfg.base + p.1) p.2 []
    updSink s1 c k fun x => { x with ahead := x.ahead + bs.length, closeTo := if close then step + 1 else x.closeTo }
  else
    let m := (ringPieces cfg.len x.prod bs).foldl (fun m p => m.write (cfg.base + p.1) p.2) s.hostMem
    let s1 := updSink { s with hostMem := m.wr (cfg.base + 8) 8 (x.prod + bs.length) } c k fun x => { x with prod := x.prod + bs.length }
    if close then sinkClosed s1 c k step else s1
/-- Data bursts of a sink still unanswered. -/
def sinkBusy (s : State) (c k : Nat) : Bool := (ctxOf s c).fab.bursts.any fun b => decide (b.source = 1 ∧ b.tile = k)
/-- Remove n bytes that the mover has done with from where they waited (R190). -/
def consumeFor (s : State) (c k n : Nat) : State :=
  if k = 0 then
    (match staging (ctxOf s c).man with
     | some r => devWrite s none (r.base + 0x40) (leBytes 8 (devNat s (r.base + 0x40) 8 + n))
     | none => s)
  else updTrn s c fun t => if k = 1 then { t with baseOut := t.baseOut.drop n } else { t with snapOut := t.snapOut.drop n }
/-- Send the producer count of a peer sink once every byte before it is acknowledged: only now are the bytes done with
(R186, R190). An invalid sink is written nothing (R187). -/
def publish (s : State) (c k : Nat) : State :=
  let x := sinkOf s c k
  let cfg := sinkAt s c k
  if x.ahead = 0 ∨ sinkBusy s c k ∨ x.invalid ∨ ¬ x.known then s
  else postBurst (consumeFor (updSink s c k fun x => { x with prod := x.prod + x.ahead, ahead := 0, closeTo := 0 }) c k x.ahead) c 8 0
    (toPhys s cfg.coords) ⟨0, 0, 1, k, 1 + x.closeTo, 0, 0, 0⟩ (cfg.base + 8) (leBytes 8 (x.prod + x.ahead)) []
/-- Room in a sink for a record of n bytes. -/
def sinkRoom (s : State) (c k n : Nat) : Bool :=
  let x := sinkOf s c k
  ringRoom (sinkAt s c k).len (x.prod + x.ahead) x.cons n
/-- Device addresses of n bytes of a ring's stream from position p (R186). -/
def streamAt (r : Region) (p n : Nat) : List Nat := (List.range n).map fun i => r.base + 256 + (p + i) % (r.len - 256)
/-- The record in the staging ring at `off` bytes past its consumer count, by its addresses. -/
def stagedRecord (s : State) (r : Region) (off : Nat) : List Nat :=
  let prod := devNat s (r.base + 8) 8
  let pos := devNat s (r.base + 0x40) 8 + off
  if prod ≤ pos then [] else streamAt r pos (leNat ((streamAt r (pos + 4) 4).map (devGet s)))
/-- The next record for a sink, past those sent and not yet published: trail from staging, snapshot or base from the
mover's hands. -/
def nextFor (s : State) (c k : Nat) : List Byte :=
  let t := (ctxOf s c).trn
  let off := (sinkOf s c k).ahead
  let head := fun (bs : List Byte) => bs.take (recLen bs)
  if k = 0 then (match staging (ctxOf s c).man with | some r => (stagedRecord s r off).map (devGet s) | none => [])
  else if k = 1 then head (t.baseOut.drop off) else head (t.snapOut.drop off)
/-- Errors under the next staged record are met (R247). -/
def stagedMeet (s : State) (c : Nat) : State :=
  match staging (ctxOf s c).man with
  | some r => meetRanges s 0 c ((stagedRecord s r (sinkOf s c 0).ahead).map fun a => (a, 1))
  | none => s
/-- Address of a poisoned line under the next staged record (R247). -/
def stagedPoison (s : State) (c : Nat) : Option Nat :=
  match staging (ctxOf s c).man with
  | some r => (stagedRecord s r (sinkOf s c 0).ahead).find? fun a => (poisonedAt s a 1).isSome
  | none => none
/-- A record waits for a sink that can take it (R186, R190). -/
def movable (s : State) (c k : Nat) : Bool :=
  let bs := nextFor s c k
  decide (bs ≠ []) && sinkReady s c k && sinkRoom s c k bs.length && (!(sinkAt s c k).peer || firmwareTagFree s)
/-- Serve one record in the order trail, snapshot, base (R190); none when the first of these that can move exceeds the
budget, or none can. A staged record that holds poisoned data is a fault of the job (R247). -/
def moverOne (s0 : State) (c budget : Nat) : Option (State × Nat) :=
  match [0, 2, 1].find? (movable s0 c) with
  | none => none
  | some k =>
    let bs := nextFor s0 c k
    let s := if k = 0 then stagedMeet s0 c else s0
    if budget < bs.length then none
    else match (if k = 0 then stagedPoison s c else none) with
      | some a => some (memFault s c 10 0 a, 0)
      | none =>
        let s1 := sinkWrite s c k bs
        some (if (sinkAt s c k).peer then publish s1 c k else consumeFor s1 c k bs.length, budget - bs.length)
/-- Serve records while the budget lasts. -/
def moverRun (s : State) (c budget : Nat) : Nat → State
  | 0 => s
  | n + 1 =>
    match moverOne s c budget with
    | some r => moverRun r.1 c r.2 n
    | none => s

end Sys2Proof.Machine
end

