-- ==== Sys2Proof/Machine/Boundary.lean ====
section
/-! DEFINITION. Control reductions (spec/07_sorius_fabric.md, R207, R225, R226) and the step boundary
(spec/11_jobs_and_steps.md, R349 to R355; spec/06_training_state.md, R166 to R170, R180 to R182, R194, R195, R200). -/

namespace Sys2Proof.Machine

/-! ### Control reductions -/

/-- Class field of a reduction packet (R207). -/
def classCode : RedClass → Nat
  | .verdict => 1 | .release => 2 | .jobBarrier => 3 | .start => 4
/-- Class of a code. -/
def classOf (n : Nat) : Option RedClass :=
  if n = 1 then some .verdict else if n = 2 then some .release else if n = 3 then some .jobBarrier else if n = 4 then some .start else none
/-- Box-relative position of the part (R225). -/
def ownRel (s : State) (c a : Nat) : Nat := boxRel s c (ownLogical s) a
/-- Logical coordinates of the part whose position along axis a is v. -/
def relPart (s : State) (c a v : Nat) : Nat := boxLogical s c fun x => if x = a then v else ownRel s c x
/-- The next part up the tree; none at the root (R225): along X to the origin's x, then Y, then Z. -/
def treeParent (s : State) (c : Nat) : Option Nat :=
  if 0 < ownRel s c 0 then some (relPart s c 0 (ownRel s c 0 - 1))
  else if 0 < ownRel s c 1 then some (relPart s c 1 (ownRel s c 1 - 1))
  else if 0 < ownRel s c 2 then some (relPart s c 2 (ownRel s c 2 - 1))
  else none
/-- The parts below in the tree (R225). -/
def treeKids (s : State) (c : Nat) : List Nat :=
  let up := fun a => if ownRel s c a + 1 < boxExt s c a then [relPart s c a (ownRel s c a + 1)] else []
  up 0 ++ (if ownRel s c 0 = 0 then up 1 else []) ++ (if ownRel s c 0 = 0 ∧ ownRel s c 1 = 0 then up 2 else [])
/-- AND of bits [31:0], OR of bits [63:32] (R225). -/
def combine (a b : Dword) : Dword := ((a &&& b) &&& 0xFFFFFFFF) ||| ((a ||| b) &&& 0xFFFFFFFF00000000)
/-- Logical coordinates of a physical place (R216). -/
def toLogical (s : State) (p : Nat) : Nat := match (aliases s).find? (·.2 = p) with | some e => e.1 | none => p
/-- The number of the step that a part expects next when none is in progress (R345). -/
def nextStep (s : State) (c : Nat) : Nat :=
  let j := ctxOf s c
  if j.fresh then (rw s (jobBase c + 0x08)).toNat else (j.step + 1) % 2 ^ 32
/-- The step or sequence number of the reduction of a class that the part expects next (R207). -/
def expectedSeq (s : State) (c : Nat) (cls : RedClass) (id : Nat) : Nat :=
  let j := ctxOf s c
  match cls with
  | .verdict => if j.inStep && beforeVerdict j.bnd then j.step else nextStep s c
  | .release => if j.inStep then j.step else nextStep s c
  | .jobBarrier => mget s.tile.barGen 0 (c * 16 + id) % 65536
  | .start => if j.startWait then j.starts else (j.starts + 1) % 65536
/-- A reduction in progress. -/
def redOf (s : State) (c : Nat) (cls : RedClass) (id : Nat) : Option RedSt :=
  (ctxOf s c).fab.reds.find? fun r => decide (r.cls = cls ∧ r.id = id)
/-- Replace or add a reduction. -/
def putRed (s : State) (c : Nat) (r : RedSt) : State :=
  updFab s c fun f => { f with reds := (f.reds.filter fun x => !(decide (x.cls = r.cls ∧ x.id = r.id))) ++ [r] }
/-- Remove a reduction. -/
def dropRed (s : State) (c : Nat) (cls : RedClass) (id : Nat) : State :=
  updFab s c fun f => { f with reds := f.reds.filter fun x => !(decide (x.cls = cls ∧ x.id = id)) }
/-- A reduction packet to a neighbour in the tree (R207). -/
def redPacket (s : State) (c kind : Nat) (r : RedSt) (nxt : Nat) (word : Dword) : Packet :=
  let stepped := r.cls = .verdict ∨ r.cls = .release
  ctrlPacket s (toPhys s nxt) (fabricJob s c) (if stepped then r.seq else 0)
    (BitVec.ofNat 32 (kind * 2 ^ 24 + classCode r.cls * 2 ^ 20 + r.id * 2 ^ 16 + r.seq % 65536)) (leBytes 8 word.toNat)
/-- Send the result to the parts below. -/
def sendDown (s : State) (c : Nat) (r : RedSt) (word : Dword) : State :=
  forEach (treeKids s c) s fun s k => inject s (redPacket s c 2 r k word)
/-- Once the own word and every word from below are in, combine and pass on; the root has the result (R225). -/
def tryCombine (s : State) (c : Nat) (r : RedSt) : State :=
  match r.own with
  | none => putRed s c r
  | some w =>
    if r.result.isSome then putRed s c r
    else if (treeKids s c).all fun k => r.kids.any fun x => x.1 = k then
      let word := (r.kids.map (·.2)).foldl combine w
      match treeParent s c with
      | some p => inject (putRed s c r) (redPacket s c 1 r p word)
      | none => sendDown (putRed s c { r with result := some word }) c r word
    else putRed s c r
/-- Contribute the part's own word (R225, R226). -/
def contribute (s : State) (c : Nat) (cls : RedClass) (id seq : Nat) (word : Dword) : State :=
  let r := (redOf s c cls id).getD { cls := cls, id := id, seq := seq }
  tryCombine s c { r with seq := seq, own := some word }
/-- Discard a reduction packet and count it (R207). -/
def redDiscard (s : State) : State := countDiscard s
/-- A packet of a later reduction, or one that goes up before the part's own contribution, is held: one per class and port
(R207). -/
def redHold (s : State) (c port : Nat) (p : Packet) : State :=
  let same := fun (h : Nat × Packet) => decide (h.1 = port ∧ fld h.2.aux 23 20 = fld p.aux 23 20)
  if (ctxOf s c).fab.held.any same then redDiscard s
  else updFab s c fun f => { f with held := f.held ++ [(port, p)] }
/-- Whether a packet's reduction is the expected one (0), a later one (1) or an earlier one (2) (R207). -/
def redOrder (s : State) (c : Nat) (cls : RedClass) (id : Nat) (p : Packet) : Nat :=
  let e := expectedSeq s c cls id
  match cls with
  | .verdict | .release => if p.step = e then 0 else if e < p.step then 1 else 2
  | _ =>
    let d := (fld p.aux 15 0 + 65536 - e % 65536) % 65536
    if d = 0 then 0 else if d ≤ 0x7FFF then 1 else 2
/-- Take a reduction packet of a job (R207, R225). -/
def redTake (s : State) (c port : Nat) (p : Packet) : State :=
  let id := fld p.aux 19 16
  match classOf (fld p.aux 23 20) with
  | none => redDiscard s
  | some cls =>
    let o := redOrder s c cls id p
    let word : Dword := BitVec.ofNat 64 (leNat p.payload)
    let r := (redOf s c cls id).getD { cls := cls, id := id, seq := expectedSeq s c cls id }
    if o = 1 then redHold s c port p
    else if o = 2 then redDiscard s
    else if fld p.aux 31 24 = 1 then
      let k := toLogical s p.src
      if r.result.isSome ∨ ¬ (treeKids s c).contains k ∨ r.kids.any (fun x => decide (x.1 = k)) then redDiscard s
      else if r.own.isNone then redHold s c port p
      else tryCombine s c { r with kids := r.kids ++ [(k, word)] }
    else if r.own.isNone ∨ r.result.isSome then redDiscard s
    else sendDown (putRed s c { r with result := some word }) c r word
/-- Present held packets again: those now expected are taken, the others held on (R207). -/
def redRetry (s : State) (c : Nat) : State :=
  let hs := (ctxOf s c).fab.held
  forEach hs (updFab s c fun f => { f with held := [] }) fun s h => redTake s c h.1 h.2
/-- A part of a job that spans parts, or one alone (R224). -/
def spans (s : State) (c : Nat) : Bool := decide (fabricJob s c ≠ 0)
/-- Contribute, with the local value as the result of a job confined to the part (R224, R352). -/
def reduce (s : State) (c : Nat) (cls : RedClass) (id seq : Nat) (word : Dword) : State :=
  if spans s c then redRetry (contribute s c cls id seq word) c
  else putRed s c { cls := cls, id := id, seq := seq, own := some word, result := some word }

/-! ### Actions 1 to 5 -/

/-- Every tile of the job has issued step_end (R99). -/
def allEnded (s : State) (c : Nat) : Bool := (tilesOf (ctxOf s c).man).all fun t => (seqrOf s t).stepEnd
/-- The drain starts (R349). -/
def startDrain (s : State) (c : Nat) : State :=
  if (ctxOf s c).stepIn && decide ((ctxOf s c).state = .running) && allEnded s c then
    let tail := fun d => let r := postRing s d c; if r.2 = 0 then 0 else devNat s r.1 4
    updCtx s c fun j => { j with
      state := .draining
      bnd := { phase := .drain, t0 := now s, postTail := (List.range 4).foldl (fun m d => mset m 0 d (tail d)) [] } }
  else s
/-- A tile of the job has nothing issued left (R349, R67, R68). -/
def tileDrained (s : State) (t : Nat) : Bool := decide ((seqrOf s t).descs = []) && (seqrOf s t).hold.isNone
/-- No packet of the job waits in this part's queues (R218) (log 19, DEDUCED). -/
def noneQueued (s : State) (c : Nat) : Bool :=
  fabricJob s c = 0 ∨ (List.range 12).all fun p =>
    (linkOf s p).queue.all fun q => !(decide (q.p.fabricJob = fabricJob s c ∧ q.p.src = ownCoord s ∧ q.p.ty ≠ 9))
/-- POST rings of the job are empty with no command running (R134) (log 19, DEDUCED). -/
def postDrained (s : State) (c : Nat) : Bool :=
  (List.range 4).all fun d =>
    let r := postRing s d c
    !postRuns s d c && (decide (r.2 = 0) || decide (devNat s r.1 4 = devNat s (r.1 + 4) 4))
/-- Every fabric tag of the job is free but those of posted bursts: for these the boundary check waits up to 10 ms (R218,
R222, R349) (log 19, DEDUCED). -/
def tagsFree (s : State) (c : Nat) : Bool :=
  s.fab.tags.all fun t => decide (t.2 ≠ c) || (ctxOf s c).fab.bursts.any fun b => decide (b.tag = t.1)
/-- The drain conditions of R349. -/
def drained (s : State) (c : Nat) : Bool :=
  let j := ctxOf s c
  (tilesOf j.man).all (tileDrained s) && tagsFree s c && decide (j.fab.gets = []) && decide (j.fab.insts = []) && noneQueued s c
    && postDrained s c && s.rink.tasks.all fun x => decide (x.ctx ≠ c ∨ x.phase = .taken)

/-- First tile, semaphore and value that differ from the initial value (R351). -/
def semMismatch (s : State) (c : Nat) : Option (Nat × Nat × Nat) :=
  let m := (ctxOf s c).man
  (tilesOf m).findSome? fun t =>
    (List.range 256).findSome? fun i => if semGet s t i = semInitOf m t i then none else some (t, i, semGet s t i)
/-- Scope code of a barrier (R96). -/
def scopeCode : BarScope → Nat
  | .course => 0 | .die => 1 | .part => 2 | .job => 3
/-- The verdict reduction to which a part has contributed, as far as it is still to be passed on once the job is torn down
(R225, R354). -/
def orphanOf (s : State) (c : Nat) : List Orphan :=
  match redOf s c .verdict 0 with
  | some r =>
    if r.result.isSome then []
    else [{ fabricJob := fabricJob s c, step := r.seq, parent := (treeParent s c).map (toPhys s), kids := (treeKids s c).map (toPhys s),
            heard := r.kids.map fun x => toPhys s x.1, word := (r.kids.map (·.2)).foldl combine (r.own.getD 0) }]
  | none => []
/-- The orphaned reduction of a packet. -/
def orphanFor (s : State) (p : Packet) : Option Orphan :=
  if fld p.aux 23 20 = 1 then s.fab.orphans.find? fun o => decide (o.fabricJob = p.fabricJob ∧ o.step = p.step) else none
/-- Forget an orphaned reduction, or keep it as it now stands. -/
def putOrphan (s : State) (o : Orphan) (keep : Bool) : State :=
  { s with fab := { s.fab with
      orphans := (s.fab.orphans.filter fun x => !(decide (x.fabricJob = o.fabricJob ∧ x.step = o.step))) ++ (if keep then [o] else []) } }
/-- A packet of an orphaned reduction, up (1) or down (2) the tree (R207). -/
def orphanPacket (s : State) (o : Orphan) (kind dst : Nat) (word : Dword) : Packet :=
  ctrlPacket s dst o.fabricJob o.step (BitVec.ofNat 32 (kind * 2 ^ 24 + 2 ^ 20 + o.step % 65536)) (leBytes 8 word.toNat)
/-- Send the result of an orphaned reduction to the parts below: it ends. -/
def orphanDown (s : State) (o : Orphan) (word : Dword) : State :=
  forEach o.kids (putOrphan s o false) fun s k => inject s (orphanPacket s o 2 k word)
/-- A reduction packet for a job that this part has torn down (R225, R354). -/
def orphanTake (s : State) (p : Packet) : State :=
  let word : Dword := BitVec.ofNat 64 (leNat p.payload)
  match orphanFor s p with
  | none => redDiscard s
  | some o =>
    if fld p.aux 31 24 = 2 then orphanDown s o word
    else if ¬ o.kids.contains p.src ∨ o.heard.contains p.src = true then redDiscard s
    else
      let o1 := { o with heard := o.heard ++ [p.src], word := combine o.word word }
      if o1.kids.all o1.heard.contains then
        (match o1.parent with
         | some q => inject (putOrphan s o1 true) (orphanPacket s o1 1 q o1.word)
         | none => orphanDown s o1 o1.word)
      else putOrphan s o1 true
/-- BOUNDARY_VIOLATION (R354): a failed verdict is contributed, and goes on through the tree after the job is torn down with
a job-lost notice (log 59, DEDUCED). -/
def violate (s : State) (c : Nat) (f : EvF) : State :=
  let s1 := tick (updBnd s c fun b => { b with localOk := false, failCause := 3, violated := true })
  let j := ctxOf s1 c
  let s2 := if spans s1 c then reduce s1 c .verdict 0 j.step (if j.fab.ovf then 0x100000000 else 0) else s1
  let s3 := { s2 with fab := { s2.fab with orphans := s2.fab.orphans ++ (if spans s1 c then orphanOf s2 c else []) } }
  faultJob s3 c 0x0017 f
/-- Contribute to the verdict (R226) (log 59, DEDUCED). -/
def toVerdict (s : State) (c : Nat) : State :=
  let j := ctxOf s c
  let word : Dword := (if j.bnd.localOk then 1 else 0) ||| (if j.fab.ovf then 0x100000000 else 0)
  reduce (updBnd s c fun b => { b with phase := .awaitVerdict }) c .verdict 0 j.step word
/-- Action 4: the freeze tick; while a roll-up runs the boundary waits for the tick at its end (R352, R477). -/
def toTick (s : State) (c : Nat) : State :=
  if s.tel.rolling then updBnd (tick s) c fun b => { b with phase := .awaitTick }
  else toVerdict (tick s) c
/-- The local check has ended with a posted-write outcome: 0 holds, 1 late write, 2 timeout (R222, R351). -/
def endCheck (s : State) (c cause : Nat) : State :=
  toTick (updBnd s c fun b => { b with
    localOk := decide (cause = 0)
    failCause := cause
    drainUs := min (2 ^ 32 - 1) ((now s - b.t0) / 1000) }) c
/-- The posted-write condition (R222): waits while bursts of the epoch are outstanding. -/
def postedCheck (s : State) (c : Nat) : State :=
  let j := ctxOf s c
  if 0 < outstanding j j.step then updBnd s c fun b => { b with phase := .awaitPosted }
  else endCheck s c (if (mget j.fab.epochs {} j.step).late = 0 then 0 else 1)
/-- The local check (R351) (log 19, DEDUCED). -/
def localCheck (s : State) (c : Nat) : State :=
  match semMismatch s c with
  | some (t, i, v) => violate s c { cause := 2, tile := t, va := i, vb := v }
  | none =>
    match s.tile.bars.find? fun b => b.ctx = c with
    | some b => violate s c { cause := 3, va := scopeCode b.scope * 256 + b.id }
    | none => postedCheck s c
/-- DRAIN_END (R349) (log 3, DEDUCED). -/
def drainEndEffect (c : Nat) (s : State) : State :=
  if decide ((ctxOf s c).state = .draining ∧ (ctxOf s c).bnd.phase = .drain) && drained s c then localCheck s c else s
/-- DRAIN_END. -/
def execDrainEnd (c : Ctx) (s : State) : Host.Outcome State Fault Refusal := .next (drainEndEffect c.val s)

/-- A descriptor that waits on a semaphore of its tile, with that semaphore: the header wait of one that has not started,
or a held SEM wait (R67, R93, R350). -/
def semWaiter (s : State) (t : Nat) : Option (Desc × Nat) :=
  let q := seqrOf s t
  let wait := fun (d : Desc) =>
    let w1 := d.w.getD 1 0
    if (d.w.getD 0 0).getLsbD 26 ∧ semGet s t (fld (d.w.getD 0 0) 23 16) < fld w1 31 16 then some (d, fld (d.w.getD 0 0) 23 16) else none
  let sem := fun (d : Desc) =>
    let i := fld (d.w.getD 2 0) 7 0
    if fld (d.w.getD 0 0) 31 28 = 6 ∧ fld (d.w.getD 2 0) 31 30 = 0 ∧ semGet s t i < fld (d.w.getD 3 0) 15 0 then some (d, i) else none
  let holding := match q.hold with
    | some d => if q.waited then sem d else (wait d).orElse fun _ => sem d
    | none => none
  ((q.descs.filter fun d => d.phase = .queued).findSome? wait).orElse fun _ => holding
/-- A descriptor still waits on a semaphore 600 ms after drain start (R350). -/
def boundaryViolationEffect (c t : Nat) (s : State) : State :=
  let j := ctxOf s c
  if j.state = .draining ∧ j.bnd.phase = .drain ∧ t ∈ tilesOf j.man then
    match semWaiter s t with
    | some (d, i) => violate s c { cause := 1, tile := t, a := d.addr, va := i, vb := semGet s t i }
    | none => s
  else s
/-- BOUNDARY_VIOLATION. -/
def execBoundaryViolation (c : Ctx) (t : TileId) (s : State) : Host.Outcome State Fault Refusal :=
  .next (boundaryViolationEffect c.val t.val s)
/-- The job's tags do not stay allocated past the boundary: bursts that were never answered are given up (R15, R222). -/
def dropUnanswered (s : State) (c : Nat) : State :=
  let lost := ((ctxOf s c).fab.bursts.filter (·.source = 0)).map (·.tag)
  let s1 := updFab s c fun f => { f with bursts := f.bursts.filter (·.source ≠ 0) }
  { s1 with fab := { s1.fab with tags := s1.fab.tags.filter fun t => !lost.contains t.1 } }
/-- Bursts remain outstanding 10 ms after the drain ended (R222) (log 4, DEDUCED). -/
def postedTimeoutEffect (c : Nat) (s : State) : State :=
  let j := ctxOf s c
  if j.bnd.phase = .awaitPosted ∧ 0 < outstanding j j.step then
    endCheck (dropUnanswered (raiseJob s c 0x001B { va := outstanding j j.step }) c) c (if (mget j.fab.epochs {} j.step).late = 0 then 2 else 1)
  else s
/-- POSTED_TIMEOUT. -/
def execPostedTimeout (c : Ctx) (s : State) : Host.Outcome State Fault Refusal := .next (postedTimeoutEffect c.val s)
/-- A response may end the wait of the posted-write condition (R222). -/
def postedResume (s : State) (c : Nat) : State :=
  if (ctxOf s c).bnd.phase = .awaitPosted then postedCheck s c else s

/-! ### Action 4: freeze ticks -/

/-- Boundaries that wait for the tick that has just been taken go on to the verdict (R477). -/
def ticksTaken (s : State) : State :=
  forEach (List.range 8) s fun s c => if (ctxOf s c).bnd.phase = .awaitTick then toVerdict s c else s
/-- The roll-up ends (R477): the sums become readable, and a postponed tick is taken. -/
def rollupCompleteEffect (s : State) : State :=
  if !s.tel.rolling then s
  else
    let s1 := { s with tel := { s.tel with rolling := false, rollup := s.tel.totals, valid := true } }
    if s.tel.again then ticksTaken (tick { s1 with tel := { s1.tel with again := false } }) else s1
/-- ROLLUP_COMPLETE. -/
def execRollupComplete (s : State) : Host.Outcome State Fault Refusal := .next (rollupCompleteEffect s)
/-- A write of TEL_FREEZE: bit 0 takes a freeze tick (R476). -/
def telFreezeEffect (v : Word) (s : State) : State :=
  if !isReady s then notReady s 4 0x6100 else if v.getLsbD 0 then tick s else s
/-- TEL_FREEZE. -/
def execTelFreeze (v : Word) (s : State) : Host.Outcome State Fault Refusal := .next (telFreezeEffect v s)
/-- A periodic tick, while TEL_PERIOD is not 0 (R476). -/
def periodicFreezeTickEffect (s : State) : State := if live s 0x6104 = 0 then s else tick s
/-- PERIODIC_FREEZE_TICK. -/
def execPeriodicFreezeTick (s : State) : Host.Outcome State Fault Refusal := .next (periodicFreezeTickEffect s)

/-! ### Actions 8 to 10 -/

/-- The boundary event record (R355). -/
def boundaryEvent (s : State) (c outcome next park fail : Nat) : State :=
  let j := ctxOf s c
  let body := leBytes 4 j.step ++ leBytes 1 outcome ++ leBytes 1 next ++ leBytes 1 park ++ leBytes 1 fail
    ++ leBytes 4 j.bnd.drainUs ++ leBytes 4 (min (2 ^ 32 - 1) ((now s - j.bnd.t0) / 1000)) ++ leBytes 4 s.cfg.seq ++ leBytes 4 0
    ++ leBytes 8 (now s)
  jobEvent s c ⟨0x0002, c, now s, body ++ List.replicate 16 0, true, false, none⟩
/-- JOB_PLOUGHED for a finish-mode plough that parks here (R260, R262) (log 21, DESIGN CHOICE). -/
def finishPlough (s : State) (c aborted : Nat) : State :=
  let j := ctxOf s c
  if j.plough = some .finish then
    jobEvent s c ⟨0x0004, c, now s, ploughRecord s c j.ploughCause 0 aborted ++ leBytes 16 0, true, false, none⟩
  else s
/-- Action 6: a failed verdict parks the job with cause 4 and commits nothing (R354, R200). -/
def failStep (s : State) (c : Nat) : State :=
  let b := (ctxOf s c).bnd
  let s1 := boundaryEvent s c 3 1 4 (if b.localOk then 4 else b.failCause)
  applyIfIdle (parked (finishPlough s1 c (ctxOf s c).step) c)
/-- outcome field: skipped, failed at action 8, or committed (R355, log 20). -/
def outcomeOf (b : Boundary) : Nat := if b.retake then 3 else if b.overflow then 2 else 1
/-- Action 10 (R355): the boundary event, and RUNNING or PARKED. A park by a finish-mode plough alone has no cause
code, which is left free (log 21). -/
def action10 (s : State) (c park : Nat) : State :=
  let b := (ctxOf s c).bnd
  if park = 0 ∧ (ctxOf s c).plough.isNone then
    let s1 := boundaryEvent s c (outcomeOf b) 0 0 0
    let s2 := updCtx s1 c fun j => { j with state := .running, stepIn := false, bnd := {} }
    schedule (applyIfIdle s2)
  else
    let f := takeFree s
    let s0 := if park = 0 then f.2 else s
    let code := if park = 0 then Config.freeNat f.1 % 256 else park
    let s1 := finishPlough (boundaryEvent s0 c (outcomeOf b) 1 code 0) c 0xFFFFFFFF
    let s2 := parked s1 c
    schedule (applyIfIdle (updBnd s2 c fun b' => { b' with retake := b.retake, overflow := b.overflow, drainUs := b.drainUs, t0 := b.t0 }))
/-- Action 9: contribute the release word, with bit 32 where the part parks the job (R226, R354, R356). -/
def toRelease (s : State) (c : Nat) : State :=
  let j := ctxOf s c
  let park := if j.bnd.park ≠ 0 then j.bnd.park else if j.preempt then 1 else 0
  let flag := park ≠ 0 ∨ j.plough.isSome
  let s1 := updCtx s c fun j => { j with
    preempt := false
    bnd := { j.bnd with phase := .awaitRelease, park := park } }
  reduce s1 c .release 0 j.step (if flag then 0x100000001 else 1)
/-- STEP_CLOSE of the step is in the trail sink, and the mover's last write to it is acknowledged (R263) (log 22, DEDUCED). -/
def gateOpen (s : State) (c : Nat) : Bool :=
  let j := ctxOf s c
  decide (j.trn.trailStep = j.step ∧ (sinkOf s c 0).ahead = 0) && !sinkBusy s c 0
/-- After STEP_CLOSE: an aborted boundary parks; otherwise the keeper gate, then the release (R259, R263). The gate
holds only a step whose STEP_CLOSE was written (log 22). -/
def afterClose (s : State) (c : Nat) : State :=
  let j := ctxOf s c
  if j.trn.stageOut ≠ [] then updBnd s c fun b => { b with phase := .gate }
  else if j.bnd.aborting then ploughPark s c 1 0xFFFFFFFF
  else if keeperGate s c ∧ j.man.trailExport ∧ j.bnd.retake = false ∧ ¬ gateOpen s c then updBnd s c fun b => { b with phase := .gate }
  else toRelease s c
/-- Number of the next trowel command, in one order for all contexts (R173). -/
def trwNext (s : State) : Nat := ((List.range 8).map fun c => (ctxOf s c).trn.nextCmd).foldl max 0
/-- Queue a command of the part: SWEEP on every trowel that holds records of the job, BASE and SNAP on every trowel
(R169, R195, R198). -/
def queuePartCmd (s : State) (c op step : Nat) : State :=
  let n := trwNext s
  updTrn s c fun t => { t with
    nextCmd := n + 1
    cmds := t.cmds ++ [{ id := n, op := op, w := [0, 0, 0, BitVec.ofNat 32 step], host := false
                         todo := if op = 1 then recStacks (ctxOf s c).man else List.range 12 }] }
/-- BASE when it is due, and SNAP when requested, after the boundary's sweep (R195, R198, R199). The snapshot's ring is the
one its request named; it is read afresh before it is written. -/
def queueExports (s : State) (c : Nat) : State :=
  let j := ctxOf s c
  let k := baseK s c
  let s1 := if k ≠ 0 ∧ j.step % k = 0 ∧ (sinkCfg s c 1).len ≠ 0 then queuePartCmd s c 4 j.step else s
  if j.trn.snapReq ∧ ¬ j.trn.snapping then
    updTrn (queuePartCmd s1 c 6 j.step) c fun t => { t with
      snapReq := false
      snapping := true
      snapSink := t.snapNext
      snapSeq := []
      snapLabel := j.step
      sinks := mset t.sinks {} 2 {} }
  else s1
/-- Write STEP_CLOSE and end action 8 (R192, R194). -/
def closeStep (s : State) (c : Nat) (skipped : Bool) (n : Nat) : State :=
  let j := ctxOf s c
  let s1 := if j.man.trailExport then
      (let flags := b2n skipped + (if j.bnd.diverged = 0 then 0 else 2)
       updTrn (stageRecord s c (closeRec s 0x03 flags j.step n j.bnd.diverged j.trn.seqBytes)) c fun t => { t with seqBytes := [] })
    else s
  afterClose (queueExports s1 c) c
/-- A digest exchange is named and its entry exists (R180). -/
def exchanges (s : State) (c : Nat) : Bool :=
  decide (digestEntry s c ≠ 0xFFFF) && decide (digestEntry s c < (ctxOf s c).man.colls.length)
/-- Action 8 (R352, R200): scalar check, sinks, STEP_OPEN, then the sweep or the skip. -/
def commitStep (s0 : State) (c : Nat) : State :=
  let s := if (ctxOf s0 c).man.training then scalarMeet s0 c else s0
  let j := ctxOf s c
  let n := (recsOf j.man).length
  let ovf := j.bnd.overflow
  if !j.man.training then toRelease s c
  else match scalarPoison s c, scalarCause s c j.step with
    | some a, _ => memFault s c 3 ((recStacks j.man).headD 0) a
    | none, some e => toRelease (updBnd (raiseJob s c 0x0019 { cause := e }) c fun b => { b with park := 2, retake := true }) c
    | none, none =>
      if (sinkOf s c 0).invalid ∨ (sinkOf s c 1).invalid then toRelease (updBnd s c fun b => { b with park := 6, retake := true }) c
      else
        let s1 := updTrn (updBnd s c fun b => { b with retake := false, park := 0, diverged := 0 }) c fun t =>
          { t with checked := false, noRoom := [], grads := [], triples := [], seqBytes := [], block := scalarBlock s c }
        let s2 := if j.man.trailExport then stageRecord s1 c (stepOpen s1 c j.step ovf (if ovf then 0 else n)) else s1
        if ovf then closeStep (updTrn s2 c fun t => { t with committed := j.step }) c true 0
        else updBnd (queuePartCmd s2 c 1 j.step) c fun b => { b with phase := .sweeping }
/-- The verdict's result is known (R352 actions 5 to 8). -/
def verdictDone (s : State) (c : Nat) (word : Dword) : State :=
  let s1 := dropRed s c .verdict 0
  if word.getLsbD 0 then
    let s2 := applyNow (updBnd s1 c fun b => { b with overflow := word.getLsbD 32, phase := .sweeping })
    redRetry (commitStep s2 c) c
  else failStep s1 c
/-- VERDICT_REDUCTION_COMPLETE (R352). -/
def verdictReductionCompleteEffect (c : Nat) (s : State) : State :=
  match redOf s c .verdict 0 with
  | some r => if (ctxOf s c).bnd.phase = .awaitVerdict then (match r.result with | some w => verdictDone s c w | none => s) else s
  | none => s
/-- VERDICT_REDUCTION_COMPLETE. -/
def execVerdictReductionComplete (c : Ctx) (s : State) : Host.Outcome State Fault Refusal :=
  .next (verdictReductionCompleteEffect c.val s)

/-- Every trowel has ended the sweep, and every record of the sequence is in staging (R170, R194). -/
def sweepEnded (s : State) (c : Nat) : Bool :=
  let t := (ctxOf s c).trn
  decide ((ctxOf s c).bnd.phase = .sweeping) && (t.cmds.all fun x => decide (x.op = 1 → x.todo = [])) && decide (t.grads = []) && decide (t.stageOut = [])
/-- Members along axis a of a collective entry (R228). -/
def collSpan (e : List Byte) (a : Nat) : Nat := lat e (4 + a) 1
/-- Spacing of members along axis a. -/
def collStride (e : List Byte) (a : Nat) : Nat := lat e (8 + a) 1
/-- Logical coordinates of the members of the part's group, rank by rank (R228); a snake's group is the same set. -/
def groupMembers (s : State) (c : Nat) (e : List Byte) : List Nat :=
  let rel := fun a v =>
    let u := ownRel s c a
    let blk := collSpan e a * collStride e a
    if bit (lat e 2 1) a then u / blk * blk + v * collStride e a + u % blk % collStride e a else u
  let n := fun a => if bit (lat e 2 1) a then collSpan e a else 1
  (List.range (n 2)).flatMap fun z => (List.range (n 1)).flatMap fun y => (List.range (n 0)).map fun x =>
    boxLogical s c fun a => if a = 0 then rel 0 x else if a = 1 then rel 1 y else rel 2 z
/-- The other parts of the digest exchange (R180). -/
def digestPeers (s : State) (c : Nat) : List Nat :=
  (groupMembers s c ((ctxOf s c).man.colls.getD (digestEntry s c) [])).filter fun p => p ≠ ownLogical s
/-- Triples of a message, 16 bytes each, and back (R180). -/
def tripleBytes (t : Nat × Nat × Nat) : List Byte := leBytes 4 t.1 ++ leBytes 4 t.2.1 ++ leBytes 8 t.2.2
@[inherit_doc tripleBytes] def triplesOf (src : Nat) (bs : List Byte) : List DigestTriple :=
  (List.range (bs.length / 16)).map fun i => ⟨src, lat bs (16 * i) 4, lat bs (16 * i + 4) 4, BitVec.ofNat 64 (lat bs (16 * i + 8) 8)⟩
/-- The part sends its triples to every other part of the entry, in COLL packets of at most 32 (R180) (log 67, DESIGN CHOICE). -/
def sendTriples (s : State) (c : Nat) : State :=
  let ts := (ctxOf s c).trn.triples
  let p : Packet :=
    { ty := 8, vc := 5, side := 0, dst := 0, src := ownCoord s, fabricJob := fabricJob s c, tag := 0, step := (ctxOf s c).step
      addr := 0, aux := BitVec.ofNat 32 (digestEntry s c * 2 ^ 16), payload := [] }
  forEach (digestPeers s c) s fun s l => forEach (List.range (cdiv ts.length 32)) s fun s i =>
    inject s { p with dst := toPhys s l, addr := 512 * i, payload := ((ts.drop (32 * i)).take 32).flatMap tripleBytes }
/-- Triples of a peer arrive (R180, R181). -/
def takeTriples (s : State) (c : Nat) (k : Packet) : State :=
  updTrn s c fun t => { t with arrived := t.arrived ++ (triplesOf k.src k.payload).map fun x => (k.step, x) }
/-- SWEEP_END (R170, R180): the digest exchange, or STEP_CLOSE where none is named. -/
def sweepEndEffect (c : Nat) (s : State) : State :=
  if sweepEnded s c then
    let n := (recsOf (ctxOf s c).man).length
    let s1 := updTrn s c fun t => { t with cmds := t.cmds.filter (·.op ≠ 1), committed := (ctxOf s c).step }
    if exchanges s c then sendTriples (updBnd s1 c fun b => { b with phase := .digests }) c else closeStep s1 c false n
  else s
/-- SWEEP_END. -/
def execSweepEnd (c : Ctx) (s : State) : Host.Outcome State Fault Refusal := .next (sweepEndEffect c.val s)

/-- One divergence that the comparison finds (R181). -/
structure Diverge where
  cause : Nat
  tensor : Nat
  shard : Nat
  own : Nat
  got : Nat
  sender : Nat
deriving DecidableEq, Repr
/-- Header digest of a shard that the part holds. -/
def ownDigest (s : State) (m : Manifest) (tensor shard : Nat) : Option Nat :=
  ((recsOf m).find? fun r => decide (r.tensor = tensor ∧ r.shard = shard)).map fun r => devNat s (r.addr + 0x50) 8
/-- Compare the triples that arrived; `missing` says whether absent triples count (R181, R259). -/
def compareTriples (s : State) (c : Nat) (ts : List DigestTriple) (missing : Bool) : List Diverge :=
  let m := (ctxOf s c).man
  let peers := digestPeers s c
  let got := ts.filterMap fun t =>
    match ownDigest s m t.tensor t.shard with
    | none => some ⟨2, t.tensor, t.shard, 0, t.digest.toNat, t.sender⟩
    | some d => if d = t.digest.toNat then none else some ⟨1, t.tensor, t.shard, d, t.digest.toNat, t.sender⟩
  let lost := if missing then
      (ctxOf s c).trn.triples.flatMap fun o => peers.filterMap fun p =>
        if ts.any fun t => decide (t.tensor = o.1 ∧ t.shard = o.2.1 ∧ t.sender = toPhys s p) then none
        else some ⟨2, o.1, o.2.1, o.2.2, 0, toPhys s p⟩
    else []
  got ++ lost
/-- End the digest exchange with the triples that arrived for this step (R181, R194). -/
def endExchange (s0 : State) (c : Nat) (more : List DigestTriple) (missing : Bool) : State :=
  let j := ctxOf s0 c
  let ts := (j.trn.arrived.filter (·.1 = j.step)).map (·.2) ++ more
  let s := updTrn s0 c fun t => { t with arrived := t.arrived.filter (·.1 ≠ j.step) }
  let ds := compareTriples s c ts missing
  let shards := (ds.map fun d => (d.tensor, d.shard)).eraseDups.length
  let s1 := forEach ds s fun s d =>
    raiseJob s c 0x001A { cause := d.cause, coords := d.sender, a := 2 ^ 32 * d.tensor + d.shard, va := d.own, vb := d.got }
  closeStep (updBnd s1 c fun b => { b with diverged := shards, park := if shards = 0 then b.park else 3 }) c false
    (recsOf (ctxOf s c).man).length
/-- DIGEST_EXCHANGE_COMPLETE (R181) (log 67, DESIGN CHOICE). -/
def digestExchangeCompleteEffect (c : Nat) (ts : List DigestTriple) (s : State) : State :=
  if (ctxOf s c).bnd.phase = .digests then endExchange s c ts (!(ctxOf s c).bnd.aborting) else s
/-- DIGEST_EXCHANGE_COMPLETE. -/
def execDigestExchangeComplete (c : Ctx) (ts : List DigestTriple) (s : State) : Host.Outcome State Fault Refusal :=
  .next (digestExchangeCompleteEffect c.val ts s)
/-- Triples late by 500 ms (R182). -/
def digestTriplesTimeoutEffect (c : Nat) (s : State) : State :=
  if (ctxOf s c).bnd.phase = .digests ∧ (ctxOf s c).bnd.aborting = false then remoteTimeout s c 4 0xFFFF else s
/-- DIGEST_TRIPLES_TIMEOUT. -/
def execDigestTriplesTimeout (c : Ctx) (s : State) : Host.Outcome State Fault Refusal := .next (digestTriplesTimeoutEffect c.val s)
/-- The wait for triples in abort mode ends: those still missing are not counted (R259). -/
def abortDigestWaitEndEffect (c : Nat) (s : State) : State :=
  if (ctxOf s c).bnd.phase = .digests ∧ (ctxOf s c).bnd.aborting then endExchange s c [] false else s
/-- ABORT_DIGEST_WAIT_END. -/
def execAbortDigestWaitEnd (c : Ctx) (s : State) : Host.Outcome State Fault Refusal := .next (abortDigestWaitEndEffect c.val s)
/-- The keeper gate opens (R263) (log 22, DEDUCED). -/
def keeperGateOpenEffect (c : Nat) (s : State) : State :=
  if (ctxOf s c).bnd.phase = .gate ∧ (ctxOf s c).trn.stageOut = [] then afterClose s c else s
/-- KEEPER_GATE_OPEN. -/
def execKeeperGateOpen (c : Ctx) (s : State) : Host.Outcome State Fault Refusal := .next (keeperGateOpenEffect c.val s)
/-- A waiting record of the step sequence is written, and the boundary goes on (R186, R190). -/
def stagingRoomEffect (c : Nat) (s : State) : State :=
  let s1 := flushAll s c
  let todo := match (ctxOf s1 c).trn.cmds.find? fun x => x.op = 1 with | some x => x.todo | none => []
  let s2 := turnGrads s1 c todo (ctxOf s1 c).trn.grads.length
  let s3 := updTrn s2 c fun t => { t with noRoom := if t.stageOut = [] then [] else t.noRoom }
  if (ctxOf s3 c).bnd.phase = .gate ∧ (ctxOf s3 c).trn.stageOut = [] then afterClose s3 c else s3
/-- STAGING_ROOM. -/
def execStagingRoom (c : Ctx) (s : State) : Host.Outcome State Fault Refusal := .next (stagingRoomEffect c.val s)

/-! ### Actions 9 to 11, start reductions and timeouts -/

/-- RELEASE_REDUCTION_COMPLETE (R352, R354, R355). -/
def releaseReductionCompleteEffect (c : Nat) (s : State) : State :=
  match redOf s c .release 0 with
  | some r =>
    match r.result with
    | some w =>
      if (ctxOf s c).bnd.phase = .awaitRelease then
        let own := (ctxOf s c).bnd.park
        let park := if own ≠ 0 then own else if w.getLsbD 32 ∧ (ctxOf s c).plough.isNone then 5 else 0
        action10 (dropRed s c .release 0) c park
      else s
    | none => s
  | none => s
/-- RELEASE_REDUCTION_COMPLETE. -/
def execReleaseReductionComplete (c : Ctx) (s : State) : Host.Outcome State Fault Refusal :=
  .next (releaseReductionCompleteEffect c.val s)
/-- START_REDUCTION_COMPLETE: the first step may be admitted (R348). -/
def startReductionCompleteEffect (c : Nat) (s : State) : State :=
  match redOf s c .start 0 with
  | some r => if r.result.isSome ∧ (ctxOf s c).startWait then
      schedule (redRetry (updCtx (dropRed s c .start 0) c fun j => { j with startWait := false }) c)
    else s
  | none => s
/-- START_REDUCTION_COMPLETE. -/
def execStartReductionComplete (c : Ctx) (s : State) : Host.Outcome State Fault Refusal := .next (startReductionCompleteEffect c.val s)
/-- A control reduction is not complete 500 ms after the own contribution (R225, R348). -/
def controlReductionTimeoutEffect (c : Nat) (rc : RedClass) (id : Nat) (s : State) : State :=
  match redOf s c rc (if rc = .jobBarrier then id else 0) with
  | some r => if r.own.isSome ∧ r.result.isNone then remoteTimeout s c (if rc = .start then 5 else 3) 0xFFFF else s
  | none => s
/-- CONTROL_REDUCTION_TIMEOUT. -/
def execControlReductionTimeout (c : Ctx) (rc : RedClass) (id : Fin 16) (s : State) : Host.Outcome State Fault Refusal :=
  .next (controlReductionTimeoutEffect c.val rc id.val s)
/-- A step has not passed its boundary check within the step timeout (R249, R258) (log 4, DEDUCED). -/
def stepTimeoutEffect (c : Nat) (s : State) : State :=
  let j := ctxOf s c
  if stepTimeoutMs s c ≠ 0 ∧ j.inStep ∧ beforeVerdict j.bnd ∧ ¬ j.bnd.retake then
    let s1 := raiseJob s c 0x001C {}
    if autoPlough s c then ploughFrom s1 c .abort 4 else s1
  else s
/-- STEP_TIMEOUT. -/
def execStepTimeout (c : Ctx) (s : State) : Host.Outcome State Fault Refusal := .next (stepTimeoutEffect c.val s)

/-- A reduction packet that reached this part (R207). -/
def ctrlReduceEffect (kind port : Nat) (p : Packet) (s : State) : State :=
  if fld p.aux 31 24 ≠ kind ∨ s.boot.resetting ∨ p.dst ≠ ownCoord s then redDiscard s
  else match ctxOfFabricJob s p.fabricJob with
    | some c => redTake s c port p
    | none => orphanTake s p
/-- CTRL_REDUCE_UP. -/
def execCtrlReduceUp (port : Port) (p : Packet) (s : State) : Host.Outcome State Fault Refusal := .next (ctrlReduceEffect 1 port.val p s)
/-- CTRL_REDUCE_DOWN. -/
def execCtrlReduceDown (port : Port) (p : Packet) (s : State) : Host.Outcome State Fault Refusal := .next (ctrlReduceEffect 2 port.val p s)

end Sys2Proof.Machine
end

