-- ==== Sys2Proof/Machine/Flags.lean ====
section
/-! DEFINITION. Output conversion, the plumb counters it feeds, and the gradient overflow indication
(spec/02_number_formats.md, R46 to R58). -/

namespace Sys2Proof.Machine

/-! ### Plumb counters (R53, R56, R58) -/

/-- Index of a conversion counter (R53): kind 0 converted, 1 overflowed, 2 flushed, 3 NaN. -/
def convIndex (f : Fmt) (tag kind : Nat) : Nat := fmtCode f * 16 + tag * 4 + kind
/-- Index of an engine counter (R53): kind 0 nan_in, 1 flush_in, 2 prod_ovf, 3 acc_ovf. -/
def engIndex (tag kind : Nat) : Nat := 112 + tag * 4 + kind
/-- Counters of tag gradient whose events raise the overflow indication (R58). -/
def alarming (i : Nat) : Bool :=
  decide (i / 4 % 4 = 2) && (if i < 112 then decide (i % 4 = 1 ∨ i % 4 = 3) else decide (i % 4 ≠ 1))
/-- Count n events of counter i on tile t; a gradient event raises the indication of the running step (R56, R58). -/
def countOne (t : Nat) (s : State) (p : Nat × Nat) : State :=
  if p.2 = 0 then s
  else
    let s1 := { s with tel := { s.tel with plumb := mupd s.tel.plumb 0 (t * 128 + p.1) (fun x => satAdd64 x p.2) } }
    if alarming p.1 then
      (match tileCtx s t with
       | some c => updFab s1 c fun f => { f with ovf := true }
       | none => s1)
    else s1
/-- Count a list of (counter, events). -/
def plumbCount (s : State) (t : Nat) (ps : List (Nat × Nat)) : State := forEach ps s (countOne t)
/-- What a list of conversions counts (R54). -/
def convCounts (f : Fmt) (tag : Nat) (outs : List ConvOut) : List (Nat × Nat) :=
  [(convIndex f tag 0, outs.length), (convIndex f tag 1, outs.countP (·.overflowed)),
   (convIndex f tag 2, outs.countP (·.flushed)), (convIndex f tag 3, outs.countP (·.nan))]

/-! ### Output conversion (R46 to R52) -/

/-- Parameters of a conversion (R47); `tbl` holds the 2,056 bytes of an activation table. -/
structure ConvP where
  fmt : Fmt
  rnd : Bool
  clip : Bool
  act : Nat
  lo : Word
  hi : Word
  tbl : List Byte
deriving DecidableEq, Repr

/-- Word i of an activation table (R81). -/
def tblWord (tbl : List Byte) (i : Nat) : Word := BitVec.ofNat 32 (lat tbl (4 * i) 4)
/-- The table is valid: w a positive finite power of two, x0 finite (R81). -/
def tblOk (tbl : List Byte) : Bool := isPow2 (tblWord tbl 513) && isFin32 (tblWord tbl 512)
/-- Index of the table entry for v (R48). -/
def tblIndex (tbl : List Byte) (v : Word) : Nat :=
  match f32 (sub32 v (tblWord tbl 512)), f32 (tblWord tbl 513) with
  | .inf s, _ => if s then 0 else 255
  | .fin s m e, .fin _ n g =>
    -- w = n × 2^g is a power of two, so the quotient is exact
    let k := floorFv (.fin s m (e - g - (blen n : Int) + 1))
    if k < 0 then 0 else min 255 k.toNat
  | _, _ => 0
/-- The table activation (R48). -/
def actTable (tbl : List Byte) (v : Word) : Word :=
  let i := tblIndex tbl v
  fma32 (tblWord tbl (2 * i)) v (tblWord tbl (2 * i + 1))
/-- −0 written as +0. -/
def plusZero (w : Word) : Word := if w = 0x80000000#32 then 0 else w
/-- The activations (R48). -/
def activate (act : Nat) (tbl : List Byte) (v : Word) : Word :=
  if isNan32 v then nan32
  else match act with
    | 1 => if lt32 0 v then v else 0
    | 2 =>
      if v = inf32 false then v else if v = inf32 true then 0
      else
        let u := mul32 v v
        let w := fma32 (mul32 0x3D372713 v) u v
        let t := trans32 6 (mul32 0x3F4C422A w)
        plusZero (mul32 (mul32 0x3F000000 v) (add32 0x3F800000 t))
    | 3 =>
      if v = inf32 false then v else if v = inf32 true then 0
      else plusZero (div32 v (add32 0x3F800000 (trans32 7 (neg32 v))))
    | 4 => actTable tbl v
    | _ => v
/-- Steps 1 to 4 of R46. -/
def preConv (p : ConvP) (scale bias acc : Word) : Word :=
  let v := activate p.act p.tbl (add32 (mul32 acc scale) bias)
  if isNan32 v then v else min32 (max32 v p.lo) p.hi
/-- Steps 5 to 8 of R46 on one value scaled by 2^−k (R51). -/
def postConv (p : ConvP) (k : Int) (r : Option Nat) (v : Word) : ConvOut :=
  convMag p.fmt r p.clip (match f32 v with | .fin s m e => .fin s m (e - k) | x => x)

/-- The least k with |v| ≤ 28 × 2^k, for a finite non-zero value (R51). -/
def b6Exp (v : Word) : Option Int :=
  match f32 v with
  | .fin _ m e =>
    if m = 0 then none
    else
      let top : Int := e + (blen m : Int) - 1
      some (if m * 4 ≤ 7 * 2 ^ (blen m - 1) then top - 4 else top - 3)
  | _ => none
/-- The block exponent of 32 values after step 4 (R51). -/
def b6Scale (vs : List Word) : Int :=
  match vs.filterMap b6Exp with
  | [] => 0
  | e :: t => max (-127) (min 127 (t.foldl max e))
/-- The 25 bytes of a B6 block (R30). -/
def b6Block (k : Int) (codes : List Nat) : List Byte :=
  leBytes 1 (k + 127).toNat ++ leBytes 24 (codes.zipIdx.foldl (fun x p => x + p.1 % 64 * 2 ^ (6 * p.2)) 0)

/-- Cut a list into pieces of g, at most `fuel` of them. -/
def cutList {α : Type} (g : Nat) : Nat → List α → List (List α)
  | 0, _ => []
  | fuel + 1, xs => if xs.isEmpty then [] else xs.take g :: cutList g fuel (xs.drop g)

/-- What a run of converted values gives: the conversions, in order, and the bytes written. -/
structure RowOut where
  outs : List ConvOut
  bytes : List Byte
deriving DecidableEq, Repr

/-- One B6 block of values after step 4, padded with `pad` zero codes to 32 (R51, R107). -/
def convBlock (p : ConvP) (pad : Nat) (vs : List (Word × Option Nat)) : RowOut :=
  let k := b6Scale (vs.map (·.1))
  let outs := vs.map fun v => postConv p k v.2 v.1
  ⟨outs, b6Block k (outs.map (·.code) ++ List.replicate pad 0)⟩
/-- Convert a run of values after step 4 and pack it; in B6 a short last block is padded with zero codes (R46, R51, R107). -/
def convRun (p : ConvP) (vs : List (Word × Option Nat)) : RowOut :=
  match p.fmt with
  | .b6 =>
    let rs := (cutList 32 (cdiv vs.length 32) vs).map fun b => convBlock p (32 - b.length) b
    ⟨rs.flatMap (·.outs), rs.flatMap (·.bytes)⟩
  | f =>
    let outs := vs.map fun v => postConv p 0 v.2 v.1
    ⟨outs, outs.flatMap fun o => leBytes (fmtBytes f) o.code⟩

/-! ### Spin bits of stochastic rounding (R49, R102, R103) -/

/-- The 16 spin bits for one value in column j: in free-running mode at a clock that is open and not before that of the
value before it, in counted mode by consumption (R49, R102, R103) (log 63, DESIGN CHOICE). -/
def spin16 (s : State) (t j : Nat) : Nat × State :=
  let l := j % 128
  if counted s (t / 16) then ((spinRead s t l).toNat % 65536, spinConsume s t l 1)
  else
    let s1 := clockTick s (t / 32)
    ((spinRead s1 t l).toNat % 65536, s1)
/-- Spin bits for the values of a row, where rounding is stochastic: columns first, first + 1, … -/
def spinRow (s : State) (t : Nat) (rnd : Bool) (first : Nat) : Nat → List (Option Nat) × State
  | 0 => ([], s)
  | n + 1 =>
    if rnd then
      let r := spin16 s t first
      let q := spinRow r.2 t rnd (first + 1) n
      (some r.1 :: q.1, q.2)
    else (List.replicate (n + 1) none, s)
/-- Convert a row of values after step 4, columns 0, 1, …: its conversions and bytes (log 85, DEDUCED). -/
def convRow (s : State) (t : Nat) (p : ConvP) (vs : List Word) : RowOut × State :=
  let r := spinRow s t p.rnd 0 vs.length
  (convRun p (vs.zip r.1), r.2)

end Sys2Proof.Machine
end

