-- ==== Sys2Proof/Machine/Operands.lean ====
section
/-! DEFINITION. Descriptors: header, operand fields and the issue-time checks (spec/03_tile.md, R63 to R71, R78 to R98;
spec/04_convolution_and_post.md, R107 to R113, R122, R123; spec/07_sorius_fabric.md, R208, R231). -/

namespace Sys2Proof.Machine

/-! ### Words and fields -/

/-- Word Wi (R63). -/
def Desc.word (d : Desc) (i : Nat) : Word := d.w.getD i 0
/-- Bits [hi:lo] of Wi. -/
def Desc.fld (d : Desc) (i hi lo : Nat) : Nat := Machine.fld (d.word i) hi lo
/-- One bit of Wi. -/
def Desc.bit (d : Desc) (i b : Nat) : Bool := (d.word i).getLsbD b
/-- A store address field, bits [20:0]. -/
def Desc.sa (d : Desc) (i : Nat) : Nat := d.fld i 20 0
/-- Class code (R64). -/
def Desc.cls (d : Desc) : Nat := d.fld 0 31 28
/-- fence. An EVENT with step_end behaves as if it were set (R99). -/
def Desc.fence (d : Desc) : Bool := d.bit 0 27 || (decide (d.cls = 9) && d.bit 2 31)
/-- The unit queue of a class (R65). -/
def queueOf (cls : Nat) : Option DescQueue :=
  if cls = 1 then some .dma else if cls = 2 ∨ cls = 3 then some .engine else if cls = 4 then some .vector
  else if cls = 5 then some .joint else if cls = 7 then some .fabric else none
/-- Depth of a queue, and descriptors it may run at once (R65). -/
def queueDepth : DescQueue → Nat
  | .dma => 16 | .fabric => 16 | _ => 8
@[inherit_doc queueDepth] def queueRuns : DescQueue → Nat
  | .dma => 4 | .fabric => 8 | _ => 1
/-- Some field of a list of (word, hi, lo) is not zero. -/
def Desc.anySet (d : Desc) (fs : List (Nat × Nat × Nat)) : Bool := fs.any fun f => decide (d.fld f.1 f.2.1 f.2.2 ≠ 0)
/-- Some word from Wi to W15 is not zero. -/
def Desc.tailSet (d : Desc) (i : Nat) : Bool := (d.w.drop i).any (· ≠ 0)
/-- First byte after the store; addresses from here to 0x1F_FFFF do not exist (R60). -/
def storeEnd : Nat := 0x140000
/-- Byte after the last of `rows` rows of `len` bytes at a stride. -/
def rowsEnd (a rows stride len : Nat) : Nat := a + (rows - 1) * stride + len
/-- Bytes of n elements of a format in a row; B6 in blocks (R30, R107). -/
def rowBytes (f n : Nat) : Nat :=
  match fmtOf f with
  | some .b6 => n / 32 * 25
  | some x => n * fmtBytes x
  | none => n
/-- Alignment of an address or row stride of a format (R81). -/
def fmtAlign (f : Nat) : Nat :=
  match fmtOf f with
  | some .b6 => 32
  | some x => fmtBytes x
  | none => 1

/-- A check: reason code, and whether the descriptor fails it. -/
abbrev Chk := Nat × Bool
/-- The lowest reason among the checks that fail (R71). -/
def lowest (cs : List Chk) : Option Nat :=
  (cs.filter (·.2)).foldl (fun b c => match b with | none => some c.1 | some x => some (min x c.1)) none

/-! ### Checks by class -/

/-- Header checks (R64, R63). -/
def headChecks (d : Desc) : List Chk :=
  [(0x01, decide (d.cls = 0 ∨ 9 < d.cls)), (0x02, d.anySet [(0, 24, 24), (0, 7, 0)]), (0x08, decide (storeEnd < d.addr + 64)),
   (0x0C, decide (d.addr % 64 ≠ 0))]
/-- DMA (R78, R122, R123) (log 76, DEDUCED). -/
def dmaChecks (m : Manifest) (d : Desc) : List Chk :=
  let space := d.fld 3 31 30
  let grout := d.bit 3 26
  let rb := d.sa 5
  let rows := d.fld 6 31 16
  let planes := d.fld 6 15 0
  [(0x02, decide (2 ≤ space ∨ 2 ≤ d.fld 3 29 28 ∨ (space = 1 ∧ d.fld 3 29 28 ≠ 0))
      || d.anySet [(3, 25, 9), (4, 31, 21), (5, 31, 21), (9, 31, 21), (10, 31, 21)] || d.tailSet 11
      || (grout && (m.resident || decide (d.word 7 ≠ 0 ∨ d.word 8 ≠ 0)))),
   (0x07, decide (rb = 0 ∨ storeEnd < rb ∨ rows = 0 ∨ planes = 0)),
   (0x08, decide (storeEnd < d.sa 4 + (planes - 1) * d.sa 10 + (rows - 1) * d.sa 9 + rb)),
   (0x0C, grout && decide (d.fld 2 3 0 ≠ 0))]
/-- Operand pairing (R37, R45). -/
def pairOk (a b : Nat) : Bool :=
  decide ((a = 0 ∧ b = 0) ∨ (a = 1 ∧ b = 1) ∨ (a = 2 ∧ b = 2) ∨ ((a = 3 ∨ a = 4) ∧ (b = 3 ∨ b = 4)) ∨ (a = 5 ∧ b = 5) ∨ (a = 6 ∧ b = 6))
/-- Reserved formats, or INT32 as a target; the pairing (R27, R37). -/
def fmtChecks (a b c : Nat) : List Chk :=
  [(0x03, decide (8 ≤ a ∨ 8 ≤ b ∨ 7 ≤ c)), (0x04, !pairOk a b)]
/-- lo, hi and act (R47). -/
def convChecks (act : Nat) (lo hi : Word) : Chk := (0x05, isNan32 lo || isNan32 hi || lt32 hi lo || decide (5 ≤ act))
/-- MATMUL (R80, R81). -/
def matmulChecks (d : Desc) : List Chk :=
  let fa := d.fld 2 31 28
  let fb := d.fld 3 31 28
  let fc := d.fld 4 31 28
  let m := d.fld 6 31 16
  let n := d.fld 6 15 0
  let k := d.fld 7 31 16
  let act := d.fld 8 31 29
  let load := d.bit 4 25
  let sb := d.bit 8 26
  fmtChecks fa fb fc ++
  [(0x02, d.anySet [(2, 25, 21), (3, 25, 21), (4, 24, 21), (5, 31, 21), (7, 15, 0), (8, 25, 21), (9, 31, 21), (10, 31, 21), (15, 31, 21)]
      || (sb && decide (d.fld 11 31 21 ≠ 0 ∨ d.word 12 ≠ 0)) || decide (act ≠ 4 ∧ d.sa 15 ≠ 0)),
   convChecks act (d.word 13) (d.word 14),
   (0x06, decide (((fa = 5 ∨ fb = 5) ∧ k % 32 ≠ 0) ∨ (fc = 5 ∧ n % 32 ≠ 0))),
   (0x07, decide (m = 0 ∨ n = 0 ∨ k = 0)),
   (0x08, decide (storeEnd < rowsEnd (d.sa 2) m (d.sa 8) (rowBytes fa k) ∨ storeEnd < rowsEnd (d.sa 3) n (d.sa 9) (rowBytes fb k)
      ∨ storeEnd < rowsEnd (d.sa 4) m (d.sa 10) (rowBytes fc n))
      || (load && decide (storeEnd < d.sa 5 + 4 * n * m)) || (sb && decide (storeEnd < d.sa 11 + 8 * n))
      || decide (act = 4 ∧ storeEnd < d.sa 15 + 2056)),
   (0x0B, load && decide (fa = 6 ∨ fb = 6)),
   (0x0C, decide (d.sa 2 % fmtAlign fa ≠ 0 ∨ d.sa 8 % fmtAlign fa ≠ 0 ∨ d.sa 3 % fmtAlign fb ≠ 0 ∨ d.sa 9 % fmtAlign fb ≠ 0
      ∨ d.sa 4 % fmtAlign fc ≠ 0 ∨ d.sa 10 % fmtAlign fc ≠ 0 ∨ d.sa 5 % 4 ≠ 0 ∨ (sb = true ∧ d.sa 11 % 4 ≠ 0) ∨ (act = 4 ∧ d.sa 15 % 4 ≠ 0)))]

/-- Geometry of a CONV (R83, R109). -/
structure Geo where
  inW : Nat
  inRows : Nat
  cIn : Nat
  cOut : Nat
  kh : Nat
  kw : Nat
  sh : Nat
  sw : Nat
  dh : Nat
  dw : Nat
  top : Nat
  bottom : Nat
  left : Nat
  right : Nat
  outRows : Nat
  depthwise : Bool
  transposed : Bool
deriving DecidableEq, Repr
/-- Geometry of a descriptor. -/
def geoOf (d : Desc) : Geo :=
  { inW := d.fld 5 31 16, inRows := d.fld 5 15 0, cIn := d.fld 6 31 16, cOut := d.fld 6 15 0,
    kh := d.fld 7 31 28, kw := d.fld 7 27 24, sh := d.fld 7 23 22 + 1, sw := d.fld 7 21 20 + 1,
    dh := d.fld 7 19 18 + 1, dw := d.fld 7 17 16 + 1, top := d.fld 7 15 12, bottom := d.fld 7 11 8,
    left := d.fld 7 7 4, right := d.fld 7 3 0, outRows := d.fld 8 15 0, depthwise := d.bit 3 25, transposed := d.bit 3 24 }
/-- Output width; negative or zero when there is none (R109, R113). -/
def Geo.outW (g : Geo) : Int :=
  if g.transposed then ((g.inW : Int) - 1) * g.sw + g.kw - g.left - g.right
  else
    let n : Int := (g.inW : Int) + g.left + g.right - g.dw * ((g.kw : Int) - 1) - 1
    if n < 0 then 0 else n / g.sw + 1
/-- Channels of the output, padded (R107). -/
def Geo.outC (g : Geo) : Nat := 32 * cdiv g.cOut 32
/-- Row pitch of n elements (R107). -/
def pitch (f n : Nat) : Nat := 64 * cdiv (rowBytes f n) 64
/-- K of one output channel (R107, R110, R112). -/
def Geo.redK (g : Geo) : Nat := g.kh * g.kw * g.cIn
/-- Store bytes of the weights (R107). -/
def Geo.wBytes (g : Geo) (f : Nat) : Nat :=
  if g.depthwise then rowBytes f g.redK else (g.cOut - 1) * pitch f g.redK + rowBytes f g.redK
/-- CONV (R83, R84, R107, R109, R112, R113) (log 76, DEDUCED). -/
def convDescChecks (d : Desc) : List Chk :=
  let fx := d.fld 2 31 28
  let fw := d.fld 3 31 28
  let fy := d.fld 4 31 28
  let g := geoOf d
  let act := d.fld 8 31 29
  let load := d.bit 4 25
  let sb := d.bit 8 26
  let ow := g.outW.toNat
  fmtChecks fx fw fy ++
  [(0x02, d.anySet [(2, 25, 21), (3, 23, 21), (4, 24, 21), (8, 25, 16), (9, 31, 21), (14, 31, 21), (15, 31, 0)]
      || (sb && decide (d.fld 10 31 21 ≠ 0 ∨ d.word 11 ≠ 0)) || decide (act ≠ 4 ∧ d.sa 9 ≠ 0)
      || (g.depthwise && (g.transposed || decide (fx = 5 ∨ fw = 5)))
      || (g.transposed && decide (g.dh ≠ 1 ∨ g.dw ≠ 1))),
   convChecks act (d.word 12) (d.word 13),
   (0x06, decide ((fx = 5 ∨ fw = 5) ∧ g.cIn % 32 ≠ 0)),
   (0x07, decide (g.kh = 0 ∨ 11 < g.kh ∨ g.kw = 0 ∨ 11 < g.kw ∨ g.cIn = 0 ∨ g.cIn % 32 ≠ 0 ∨ g.cOut = 0 ∨ g.inW = 0 ∨ g.inRows = 0
      ∨ g.outRows = 0 ∨ g.outW < 1 ∨ (g.depthwise = true ∧ g.cOut ≠ g.cIn)
      ∨ (g.transposed = false ∧ ((g.outRows : Int) - 1) * g.sh + g.dh * ((g.kh : Int) - 1) - g.top > (g.inRows : Int) - 1 + g.bottom))),
   (0x08, decide (storeEnd < rowsEnd (d.sa 2) g.inRows (pitch fx (g.inW * g.cIn)) (rowBytes fx (g.inW * g.cIn))
      ∨ storeEnd < d.sa 3 + g.wBytes fw
      ∨ storeEnd < rowsEnd (d.sa 4) g.outRows (pitch fy (ow * g.outC)) (rowBytes fy (ow * g.outC)))
      || (load && decide (storeEnd < rowsEnd (d.sa 14) g.outRows (64 * cdiv (4 * ow * g.outC) 64) (4 * ow * g.outC)))
      || (sb && decide (storeEnd < d.sa 10 + 8 * g.cOut)) || decide (act = 4 ∧ storeEnd < d.sa 9 + 2056)),
   (0x0B, load && decide (fx = 6 ∨ fw = 6)),
   (0x0C, decide (d.sa 2 % 64 ≠ 0 ∨ d.sa 3 % 64 ≠ 0 ∨ d.sa 4 % 64 ≠ 0 ∨ d.sa 14 % 64 ≠ 0 ∨ (sb = true ∧ d.sa 10 % 4 ≠ 0)
      ∨ (act = 4 ∧ d.sa 9 % 4 ≠ 0)))]
/-- VEC (R85). -/
def vecChecks (d : Desc) : List Chk :=
  let n := d.fld 2 31 21
  let act := d.fld 3 31 29
  [(0x02, d.anySet [(3, 26, 16)]), convChecks act (d.word 14) (d.word 15),
   (0x07, decide (n = 0 ∨ 1024 < n ∨ d.fld 3 15 0 = 0)),
   (0x08, decide (storeEnd < d.sa 2 + 8 * n ∨ (act = 4 ∧ storeEnd < d.sa 11 + 2056))),
   (0x0C, decide (d.sa 2 % 8 ≠ 0 ∨ (act = 4 ∧ d.sa 11 % 4 ≠ 0)))]
/-- Die coordinates of a tile: row, column (R92). -/
def dieRow (t : Nat) : Nat := 4 * (t / 16 % 8 / 4) + t % 16 / 4
@[inherit_doc dieRow] def dieCol (t : Nat) : Nat := 4 * (t / 16 % 4) + t % 4
/-- The tile at a row and column of a die (R92). -/
def tileAt (die row col : Nat) : Nat := 128 * die + 16 * (4 * (row / 4) + col / 4) + 4 * (row % 4) + col % 4
/-- The neighbour in a direction: 0 north, 1 south, 2 east, 3 west; none without a joint link (R92). -/
def jointNeighbour (t dir : Nat) : Option Nat :=
  let r := dieRow t
  let c := dieCol t
  if dir = 0 then (if 0 < r then some (tileAt (t / 128) (r - 1) c) else none)
  else if dir = 1 then (if r < 7 then some (tileAt (t / 128) (r + 1) c) else none)
  else if dir = 2 then (if c < 15 then some (tileAt (t / 128) r (c + 1)) else none)
  else (if 0 < c then some (tileAt (t / 128) r (c - 1)) else none)
/-- JOINT (R91, R92). -/
def jointChecks (t : Nat) (d : Desc) : List Chk :=
  let rows := d.fld 4 31 16
  let rb := d.sa 5
  [(0x02, d.anySet [(3, 31, 21), (5, 31, 21), (6, 31, 21), (7, 31, 21)] || d.tailSet 8),
   (0x07, decide (rows = 0 ∨ rb = 0 ∨ storeEnd < rb)),
   (0x08, decide (storeEnd < rowsEnd (d.sa 2) rows (d.sa 6) rb ∨ storeEnd < rowsEnd (d.sa 3) rows (d.sa 7) rb)),
   (0x09, (jointNeighbour t (d.fld 2 31 30)).isNone)]
/-- SEM (R93). -/
def semChecks (t : Nat) (d : Desc) : List Chk :=
  let op := d.fld 2 31 30
  [(0x02, decide (op = 3) || d.anySet [(2, 19, 8), (3, 31, 16)] || d.tailSet 4),
   (0x0A, decide (op = 0 ∧ d.fld 2 28 20 ≠ t) && d.bit 2 29)]
/-- Target of a put or get, packed logical coordinates (R94). -/
def fabTarget (d : Desc) : Nat := packC (d.fld 2 24 20) (d.fld 2 19 15) (d.fld 2 14 10)
/-- FAB (R94, R95, R208, R231). -/
def fabChecks (s : State) (c : Nat) (d : Desc) : List Chk :=
  let m := (ctxOf s c).man
  let op := d.fld 2 31 28
  let space := d.fld 6 31 30
  if 3 ≤ op then [(0x02, true)]
  else if op = 2 then
    let e := m.colls.getD (d.fld 10 31 16) []
    [(0x02, decide (d.fld 2 24 0 ≠ 0) || (List.range 7).any (fun i => decide (d.word (3 + i) ≠ 0)) || d.tailSet 11
        || decide (m.colls.length ≤ d.fld 10 31 16 ∨ lat e 0 1 = 6)),
     (0x07, decide (d.fld 10 31 16 < m.colls.length ∧ lat e 0x10 4 ≤ d.fld 10 15 0))]
  else
    let p := toPhys s (fabTarget d)
    let la := 2 ^ 32 * d.fld 6 8 0 + (d.word 5).toNat
    [(0x02, d.anySet [(2, 9, 0), (4, 31, 9), (6, 29, 9), (8, 13, 0), (9, 31, 16)] || decide (2 ≤ space) || decide (d.word 10 ≠ 0) || d.tailSet 11
        || decide (space = 0 ∧ d.fld 6 8 0 ≠ 0) || decide (op = 1 ∧ (d.word 8 ≠ 0 ∨ d.fld 9 15 0 ≠ 0))),
     (0x07, decide (d.word 7 = 0)),
     (0x08, decide (space = 0 ∧ storeEnd < la + (d.word 7).toNat)),
     (0x0D, decide (4 ≤ d.fld 2 27 25)),
     (0x0E, decide (m.fabCredits = 0)),
     (0x0F, !inSystem s p || decide (fabricJob s c = 0 ∧ p ≠ ownCoord s))]
/-- Greatest count of a barrier's scope; 0 for job scope (R96). -/
def scopeMax (sc : Nat) : Nat := if sc = 0 then 16 else if sc = 1 then 128 else if sc = 2 then 512 else 0
/-- BARRIER (R96). -/
def barrierChecks (d : Desc) : List Chk :=
  let sc := d.fld 2 31 30
  let n := d.fld 2 15 0
  [(0x02, d.anySet [(2, 25, 16)] || d.tailSet 3), (0x07, decide (scopeMax sc < n ∨ (sc ≠ 3 ∧ n = 0)))]
/-- EVENT (R98). -/
def eventChecks (d : Desc) : List Chk := [(0x02, d.anySet [(2, 29, 16)] || d.tailSet 5)]

/-- The issue-time checks of a descriptor of tile t of job c: the lowest reason it fails (R71) (log 76, DEDUCED). -/
def issueReason (s : State) (c t : Nat) (d : Desc) : Option Nat :=
  let k := d.cls
  lowest (headChecks d ++
    (if k = 1 then dmaChecks (ctxOf s c).man d else if k = 2 then matmulChecks d else if k = 3 then convDescChecks d
     else if k = 4 then vecChecks d else if k = 5 then jointChecks t d else if k = 6 then semChecks t d
     else if k = 7 then fabChecks s c d else if k = 8 then barrierChecks d else if k = 9 then eventChecks d else []))

/-- Store address of the activation table of a descriptor that uses one (R80, R83, R85). -/
def tableAddr (d : Desc) : Option Nat :=
  if d.cls = 2 ∧ d.fld 8 31 29 = 4 then some (d.sa 15)
  else if d.cls = 3 ∧ d.fld 8 31 29 = 4 then some (d.sa 9)
  else if d.cls = 4 ∧ d.fld 3 31 29 = 4 then some (d.sa 11)
  else none

end Sys2Proof.Machine
end

