-- ==== Sys2Proof/Machine/Tile.lean ====
section
/-! DEFINITION. The tile sequencer, its queues, semaphores, barriers and events, and the DMA and JOINT descriptors
(spec/03_tile.md, R63 to R79, R91 to R99; spec/04_convolution_and_post.md, R121, R122; spec/05_mapping_and_admission.md,
R153, R154). -/

namespace Sys2Proof.Machine

/-! ### Issued descriptors -/

/-- Descriptors of a queue, in issue order. -/
def inQueue (q : DescQueue) (ds : List Desc) : List Desc := ds.filter fun d => queueOf d.cls = some q
/-- The queue holds its depth of descriptors waiting to start (R65). -/
def queueFull (z : Seqr) (q : DescQueue) : Bool := decide (queueDepth q ≤ (inQueue q z.descs).countP (·.phase = .queued))
/-- The i-th started descriptor of a class that has not finished. -/
def pickDesc (s : State) (t k i : Nat) : Option Desc := ((seqrOf s t).descs.filter fun d => decide (d.cls = k ∧ d.phase = .started))[i]?
/-- Change an issued descriptor. -/
def updDesc (s : State) (t seq : Nat) (f : Desc → Desc) : State :=
  updSeqr s t fun z => { z with descs := z.descs.map fun d => if d.seq = seq then f d else d }
/-- A descriptor's work is done: it waits to be reported complete (R67, R68). -/
def markDone (s : State) (t seq : Nat) : State := updDesc s t seq fun d => { d with phase := .done, tags := [] }
/-- The event fields of a descriptor (R71, R76). -/
def descEv (t : Nat) (d : Desc) : EvF := { tile := t, word := (d.word 0).toNat, a := d.addr }
/-- DESCRIPTOR_FAULT of a descriptor (R71). -/
def failDesc (s : State) (c t reason : Nat) (d : Desc) : State := descFault s c { descEv t d with cause := reason }
/-- GUARD_FAULT of a descriptor (R154) (log 77, DEDUCED). -/
def failGuard (s : State) (c t cause addr : Nat) (d : Desc) : State := guardFault s c { descEv t d with cause := cause, b := addr }
/-- MEM_UNCORRECTABLE of a tile (R247, R457) (log 77, DEDUCED). -/
def failMem (s : State) (c t addr : Nat) : State := faultJob s c 0x0018 { tile := t, b := addr }
/-- The completion signal of a descriptor (R68). -/
def completionSignal (s : State) (t : Nat) (d : Desc) : State :=
  if d.bit 0 25 then semSignal s t (d.fld 0 15 8) (d.fld 1 15 0) (descEv t d) else s

/-- A DMA's fields (R78). -/
structure DmaF where
  scratch : Bool
  stream : Bool
  out : Bool
  grout : Bool
  ext : Nat
  store : Nat
  rb : Nat
  rows : Nat
  planes : Nat
  ers : Nat
  eps : Nat
  srs : Nat
  sps : Nat
deriving DecidableEq, Repr
/-- Fields of a descriptor. -/
def dmaOf (d : Desc) : DmaF :=
  { scratch := decide (d.fld 3 31 30 = 1), stream := decide (d.fld 3 29 28 = 1), out := d.bit 3 27, grout := d.bit 3 26,
    ext := 2 ^ 32 * d.fld 3 8 0 + (d.word 2).toNat, store := d.sa 4, rb := d.sa 5, rows := d.fld 6 31 16, planes := d.fld 6 15 0,
    ers := (d.word 7).toNat, eps := (d.word 8).toNat, srs := d.sa 9, sps := d.sa 10 }
/-- External and store address of each row, in increasing plane, then row (R79). -/
def dmaRows (f : DmaF) : List (Nat × Nat) :=
  (List.range f.planes).flatMap fun p => (List.range f.rows).map fun r =>
    (f.ext + p * f.eps + r * f.ers, f.store + p * f.sps + r * f.srs)

/-! ### Memory tags (R15) -/

/-- Stacks that a DMA descriptor sends requests to (R12, R13, R78). -/
def dmaStacks (d : Desc) : List Nat :=
  let f := dmaOf d
  let rs := if f.grout then [(f.ext, f.planes * f.rows * f.rb)] else (dmaRows f).map fun r => (r.1, f.rb)
  if f.scratch then [] else (rs.flatMap fun r => (touchLines 4096 r.1 r.2).map fun l => stackNo (4096 * l)).eraseDups
/-- Memory tags of a stack in use (R15). -/
def memTagsUsed (s : State) (k : Nat) : Nat :=
  ((s.tile.seqs.flatMap fun p => p.2.descs.flatMap fun d => d.tags).filter (·.1 = k)).foldl (fun n x => n + x.2) 0
/-- Requests go to the stacks in turn, how many are outstanding together is open (log 89, DESIGN CHOICE); a request whose
stack has all of its 4,096 tags in use waits (R15): the tags held, and the stack waited for. -/
def memAsk (s : State) (held : List (Nat × Nat)) : List Nat → List (Nat × Nat) × Option Nat
  | [] => (held, none)
  | k :: rest =>
    if held.any (·.1 = k) then memAsk s held rest
    else if 4096 ≤ memTagsUsed s k then (held, some k)
    else memAsk s (held ++ [(k, 1 + Config.freeNat (s.free + k) % (4096 - memTagsUsed s k))]) rest
/-- A started DMA asks for the memory tags it does not hold (R15). -/
def dmaAsk (s : State) (t : Nat) (d : Desc) : State :=
  let r := memAsk s d.tags (dmaStacks d)
  updDesc { s with free := s.free + 12 } t d.seq fun e => { e with tags := r.1, wait := r.2 }
/-- The first DMA, by tile and issue order, that waits for a tag of a stack. -/
def tagWaiter (s : State) (k : Nat) : Option (Nat × Desc) :=
  s.tile.seqs.findSome? fun p => (p.2.descs.find? fun d => decide (d.phase = .started ∧ d.wait = some k)).map fun d => (p.1, d)

/-! ### DESCRIPTOR_ISSUE, DESCRIPTOR_START, DESCRIPTOR_COMPLETE -/

/-- The clock of a tile's course pair runs (R405, R411). -/
def pairRuns (s : State) (t : Nat) : Bool := clockRuns s (t / 32)
/-- The 64 bytes at a store address; those beyond the store are open (R60) (log 10, DESIGN CHOICE) (log 75, DESIGN CHOICE). -/
def descBytes (s : State) (t addr i : Nat) : List Byte :=
  (List.range 64).map fun j => if addr + j < storeEnd then (storeRead s t (addr + j) 1).headD 0 else Config.freeByte i j
/-- Words of 64 bytes (R63). -/
def wordsOf (bs : List Byte) : List Word := (List.range 16).map fun i => BitVec.ofNat 32 (lat bs (4 * i) 4)
/-- Put an accepted descriptor into its queue, or hold the sequencer with it (R66). -/
def enqueue (s : State) (t : Nat) (d : Desc) : State :=
  updSeqr s t fun z =>
    let z1 := { z with nextSeq := z.nextSeq + 1, last := d.addr, waited := false }
    match queueOf d.cls with
    | some q => if queueFull z q then { z1 with hold := some d } else { z1 with descs := z1.descs ++ [d] }
    | none => { z1 with hold := some d }
/-- A collective step takes its place in the job's order on this part as it is issued (R231). -/
def stampColl (s : State) (c : Nat) (d : Desc) : Desc × State :=
  if d.cls = 7 ∧ d.fld 2 31 28 = 2 then
    ({ d with coll := (ctxOf s c).fab.collNext }, updFab s c fun f => { f with collNext := f.collNext + 1 })
  else (d, s)
/-- DESCRIPTOR_ISSUE of the descriptor at a store address by the sequencer at `pc` (R66, R71) (log 10, DESIGN CHOICE). -/
def descriptorIssueEffect (t pc addr : Nat) (s : State) : State :=
  let z := seqrOf s t
  match tileCtx s t with
  | none => s
  | some c =>
    if (ctxOf s c).state ≠ .running ∨ z.hold.isSome ∨ z.stepEnd ∨ ¬ pairRuns s t then s
    else
      let a := addr % 2 ^ 21
      let s0 := if storeEnd < a + 64 then { s with free := s.free + 1 } else s
      let d : Desc := { seq := z.nextSeq, addr := a, w := wordsOf (descBytes s t a s.free) }
      let s1 := updSeqr s0 t fun z => { z with pc := pc % 2 ^ 21 }
      match issueReason s1 c t d with
      | some r => failDesc s1 c t r d
      | none =>
        let x := stampColl s1 c d
        enqueue x.2 t x.1
/-- DESCRIPTOR_ISSUE. -/
def execDescriptorIssue (t : TileId) (pc addr : Nat) (s : State) : Host.Outcome State Fault Refusal :=
  .next (descriptorIssueEffect t.val pc addr s)

/-- The microinstructions of a VEC descriptor (R85, R87). -/
def vecProgram (s : State) (t : Nat) (d : Desc) : List Nat := (List.range (d.fld 2 31 21)).map fun i => storeNat s t (d.sa 2 + 8 * i) 8
/-- A descriptor that draws spin bits (R103). -/
def drawsSpin (s : State) (t : Nat) (d : Desc) : Bool :=
  (decide (d.cls = 2 ∨ d.cls = 3) && d.bit 8 28) ||
    (decide (d.cls = 4) && (vecProgram s t d).any fun u => decide (bits u 63 58 = 0x12 ∨ (bits u 63 58 = 0x02 ∧ d.bit 3 28 = true)))
/-- In counted mode, a drawing descriptor waits for every earlier one on the other of the engine and vector queues (R103). -/
def spinHeld (s : State) (t : Nat) (d : Desc) : Bool :=
  counted s (t / 16) && drawsSpin s t d &&
    (seqrOf s t).descs.any fun e => decide (e.seq < d.seq) && decide (queueOf e.cls ≠ queueOf d.cls) && drawsSpin s t e
/-- The fence condition: no earlier descriptor of the tile is incomplete (R64). -/
def fenceOk (z : Seqr) (d : Desc) : Bool := !d.fence || z.descs.all fun e => decide (d.seq ≤ e.seq)
/-- The header's wait condition (R67). -/
def waitOk (s : State) (t : Nat) (d : Desc) : Bool := !d.bit 0 26 || decide (d.fld 1 31 16 ≤ semGet s t (d.fld 0 23 16))
/-- A queue has one of its unit's running places free (R65). -/
def slotFree (z : Seqr) (q : DescQueue) : Bool := decide ((inQueue q z.descs).countP (·.phase ≠ .queued) < queueRuns q)
/-- The descriptor that a queue would start next, were its wait satisfied (R67). -/
def headOf (s : State) (t : Nat) (q : DescQueue) : Option Desc :=
  let z := seqrOf s t
  ((inQueue q z.descs).find? (·.phase = .queued)).filter fun d => slotFree z q && fenceOk z d && !spinHeld s t d && pairRuns s t
/-- A descriptor waits on a semaphore that satisfies it now. -/
def takes (s : State) (t i : Nat) (d : Desc) : Bool := d.bit 0 26 && decide (d.fld 0 23 16 = i) && waitOk s t d
/-- The sequencer's held descriptor would take from a semaphore now: by its header wait, or by its SEM wait (R66, R93). -/
def holdTakes (s : State) (t i : Nat) : Bool :=
  let z := seqrOf s t
  match z.hold with
  | none => false
  | some d =>
    if (queueOf d.cls).isSome ∨ ¬ fenceOk z d then false
    else if d.bit 0 26 ∧ ¬ z.waited then takes s t i d
    else decide (d.cls = 6 ∧ d.fld 2 31 30 = 0 ∧ d.fld 2 7 0 = i ∧ d.fld 3 15 0 ≤ semGet s t i)
/-- A wait that is tested before that of the head of queue q takes from the semaphore first (R74): the sequencer's, then
the heads of the DMA, engine, vector, joint and fabric queues. -/
def waitBehind (s : State) (t : Nat) (q : DescQueue) (d : Desc) : Bool :=
  let i := d.fld 0 23 16
  let before := [DescQueue.dma, .engine, .vector, .joint, .fabric].takeWhile (· ≠ q)
  d.bit 0 26 && (holdTakes s t i || before.any fun p => match headOf s t p with | some e => takes s t i e | none => false)
/-- Take wait_val (R67). -/
def takeWait (s : State) (t : Nat) (d : Desc) : State :=
  if d.bit 0 26 then semPut s t (d.fld 0 23 16) (semGet s t (d.fld 0 23 16) - d.fld 1 31 16) else s
/-- A descriptor held for a full queue enters it when there is room (R66). -/
def admitHeld (s : State) (t : Nat) (q : DescQueue) : State :=
  let z := seqrOf s t
  match z.hold with
  | some d => if queueOf d.cls = some q ∧ queueFull z q = false then updSeqr s t fun z => { z with hold := none, descs := z.descs ++ [d] } else s
  | none => s
/-- DESCRIPTOR_START of the head of a queue (R67). The activation table is read here (R81) (log 3, DEDUCED). -/
def descriptorStartEffect (t : Nat) (q : DescQueue) (s : State) : State :=
  let z := seqrOf s t
  match (inQueue q z.descs).find? (·.phase = .queued), tileCtx s t with
  | some d, some c =>
    if ¬ slotFree z q ∨ ¬ fenceOk z d ∨ ¬ waitOk s t d ∨ spinHeld s t d ∨ ¬ pairRuns s t ∨ waitBehind s t q d then s
    else
      let tbl := match tableAddr d with | some a => storeRead s t a 2056 | none => []
      let s0 := if drawsSpin s t d then clockTick s (t / 32) else s
      let s1 := admitHeld (updDesc (takeWait s0 t d) t d.seq fun e =>
        { e with phase := .started, tbl := tbl, clk := pairClock s0 (t / 32), snap := s0.tile.store }) t q
      let s2 := if d.cls = 1 then dmaAsk s1 t d else s1
      if (tableAddr d).isSome ∧ ¬ tblOk tbl then failDesc s2 c t 0x11 d else s2
  | _, _ => s
/-- DESCRIPTOR_START. -/
def execDescriptorStart (t : TileId) (q : DescQueue) (s : State) : Host.Outcome State Fault Refusal :=
  .next (descriptorStartEffect t.val q s)

/-- A queue of the part's links holds a packet of this part. -/
def queuedOut (s : State) (f : Packet → Bool) : Bool :=
  (List.range 12).any fun p => (linkOf s p).queue.any fun q => decide (q.p.src = ownCoord s) && f q.p
/-- What a FAB descriptor sends has left the part: the last byte of a put, the contribution of a collective step (R68). -/
def hasLeft (s : State) (t : Nat) (d : Desc) : Bool :=
  match tileCtx s t with
  | none => true
  | some c =>
    if d.cls ≠ 7 then true
    else if d.fld 2 31 28 = 0 then
      let mine := (ctxOf s c).fab.bursts.filter fun b => decide (b.source = 0 ∧ b.tile = t ∧ b.seq = d.seq)
      !queuedOut s fun p => decide (p.ty = 1 ∨ p.ty = 2) && mine.any fun b => decide (b.tag = p.tag)
    else if d.fld 2 31 28 = 2 then
      !queuedOut s fun p => decide (p.ty = 8 ∧ p.fabricJob = fabricJob s c ∧ p.step = (ctxOf s c).step ∧ p.aux = d.word 10)
    else true

/-- DESCRIPTOR_COMPLETE: the oldest descriptor of a queue is reported complete once its work is done (R67, R68). -/
def descriptorCompleteEffect (t : Nat) (q : DescQueue) (s : State) : State :=
  match (inQueue q (seqrOf s t).descs).head? with
  | some d =>
    if d.phase = .done ∧ hasLeft s t d then
      completionSignal (updSeqr s t fun z => { z with descs := z.descs.filter fun e => e.seq ≠ d.seq }) t d
    else s
  | none => s
/-- DESCRIPTOR_COMPLETE. -/
def execDescriptorComplete (t : TileId) (q : DescQueue) (s : State) : Host.Outcome State Fault Refusal :=
  .next (descriptorCompleteEffect t.val q s)

/-! ### Descriptors that the sequencer executes: SEM, BARRIER, EVENT (R66, R93, R97, R99) -/

/-- The held descriptor of a class whose fence holds, once its header wait has been taken; none while it waits. -/
def heldReady (s : State) (t k : Nat) : Option (Nat × Desc × State) :=
  let z := seqrOf s t
  match z.hold, tileCtx s t with
  | some d, some c =>
    if d.cls ≠ k ∨ ¬ fenceOk z d then none
    else if z.waited then some (c, d, s)
    else if waitOk s t d then some (c, d, updSeqr (takeWait s t d) t fun z => { z with waited := true })
    else none
  | _, _ => none
/-- The held descriptor completes: the sequencer goes on, and its signal is given (R66, R68). -/
def holdDone (s : State) (t : Nat) (d : Desc) : State :=
  completionSignal (updSeqr s t fun z => { z with hold := none, waited := false }) t d
/-- Target tile of a SEM descriptor (R93). -/
def semTarget (t : Nat) (d : Desc) : Nat := if d.bit 2 29 then d.fld 2 28 20 else t
/-- SEM_WAIT (R72, R93): on the own semaphore. -/
def semWaitEffect (t : Nat) (s : State) : State :=
  match heldReady s t 6 with
  | some (_, d, s1) =>
    let i := d.fld 2 7 0
    let v := d.fld 3 15 0
    if d.fld 2 31 30 = 0 then
      (if v ≤ semGet s1 t i then holdDone (semPut s1 t i (semGet s1 t i - v)) t d else s1)
    else s
  | none => s
/-- SEM_WAIT. -/
def execSemWait (t : TileId) (s : State) : Host.Outcome State Fault Refusal := .next (semWaitEffect t.val s)
/-- SEM_SIGNAL (R72, R75, R77): a tile of the same job that the job holds now. -/
def semSignalEffect (t : Nat) (s : State) : State :=
  match heldReady s t 6 with
  | some (c, d, s1) =>
    if d.fld 2 31 30 ≠ 1 then s
    else if !holdsTile s1 c (semTarget t d) then failGuard s1 c t 4 (semTarget t d) d
    else holdDone (semSignal s1 (semTarget t d) (d.fld 2 7 0) (d.fld 3 15 0) (descEv t d)) t d
  | none => s
/-- SEM_SIGNAL. -/
def execSemSignal (t : TileId) (s : State) : Host.Outcome State Fault Refusal := .next (semSignalEffect t.val s)
/-- SEM_SET (R72, R77). -/
def semSetEffect (t : Nat) (s : State) : State :=
  match heldReady s t 6 with
  | some (c, d, s1) =>
    if d.fld 2 31 30 ≠ 2 then s
    else if !holdsTile s1 c (semTarget t d) then failGuard s1 c t 4 (semTarget t d) d
    else holdDone (semPut s1 (semTarget t d) (d.fld 2 7 0) (d.fld 3 15 0)) t d
  | none => s
/-- SEM_SET. -/
def execSemSet (t : TileId) (s : State) : Host.Outcome State Fault Refusal := .next (semSetEffect t.val s)

/-- Scope of a code (R96). -/
def scopeOf (n : Nat) : BarScope := if n = 0 then .course else if n = 1 then .die else if n = 2 then .part else .job
/-- Instance of a scope for a tile (R97). -/
def scopeInst (sc : BarScope) (t : Nat) : Nat := match sc with | .course => t / 16 | .die => t / 128 | _ => 0
/-- A barrier of a job is this one. -/
def BarSt.is (b : BarSt) (c : Nat) (sc : BarScope) (inst id : Nat) : Bool := decide (b.ctx = c ∧ b.scope = sc ∧ b.inst = inst ∧ b.id = id)
/-- The arrivals of a generation have reached its count. -/
def BarSt.full (b : BarSt) : Bool := decide (b.count ≤ b.tiles.length)
/-- The generation of a barrier that takes arrivals: once one is full, the next arrival opens another (R97). -/
def barOf (s : State) (c : Nat) (sc : BarScope) (inst id : Nat) : Option BarSt := s.tile.bars.find? fun b => b.is c sc inst id && !b.full
/-- The oldest generation of a barrier that is full and not released. -/
def barFull (s : State) (c : Nat) (sc : BarScope) (inst id : Nat) : Option BarSt := s.tile.bars.find? fun b => b.is c sc inst id && b.full
/-- Open a generation, or replace the one that takes arrivals. -/
def setBar (s : State) (b : BarSt) : State :=
  { s with tile := { s.tile with bars := (s.tile.bars.filter fun x => !(x.is b.ctx b.scope b.inst b.id && !x.full)) ++ [b] } }
/-- The part's arrivals of a job-scope barrier are complete: it contributes to the reduction (R97, R225, R226). -/
def jobBarrierIn (s : State) (c id : Nat) : State :=
  match barFull s c .job 0 id with
  | some _ => reduce s c .jobBarrier id (mget s.tile.barGen 0 (c * 16 + id) % 65536) 1
  | none => s
/-- BARRIER: the tile arrives once every earlier descriptor has completed (R97). -/
def barrierEffect (t : Nat) (s : State) : State :=
  if (seqrOf s t).descs ≠ [] then s
  else match heldReady s t 8 with
    | none => s
    | some (c, d, s1) =>
      let sc := scopeOf (d.fld 2 31 30)
      let inst := scopeInst sc t
      let id := d.fld 2 29 26
      let n := if sc = .job then (tilesOf (ctxOf s c).man).length else d.fld 2 15 0
      match barOf s1 c sc inst id with
      | none => let s2 := setBar s1 ⟨c, sc, inst, id, n, [t]⟩
                if sc = .job then jobBarrierIn s2 c id else s2
      | some b =>
        if b.tiles.contains t then s
        else if b.count ≠ n then failDesc s1 c t 0x13 d
        else
          let s2 := setBar s1 { b with tiles := b.tiles ++ [t] }
          if sc = .job then jobBarrierIn s2 c id else s2
/-- BARRIER. -/
def execBarrier (t : TileId) (s : State) : Host.Outcome State Fault Refusal := .next (barrierEffect t.val s)
/-- The tiles that wait at a barrier go on (R97, R68). -/
def releaseTiles (s : State) (ts : List Nat) : State :=
  forEach ts s fun s t => match (seqrOf s t).hold with | some d => holdDone s t d | none => s
/-- BARRIER_RELEASE (R97): the arrivals have reached the count; in job scope, the reduction has completed. -/
def barrierReleaseEffect (c : Nat) (sc : BarScope) (inst id : Nat) (s : State) : State :=
  match barFull s c sc inst id with
  | none => s
  | some b =>
    let drop := fun (s : State) => { s with tile := { s.tile with bars := s.tile.bars.erase b } }
    if sc = .job then
      (match (redOf s c .jobBarrier id).bind (·.result) with
       | some _ =>
         let s1 := dropRed (drop s) c .jobBarrier id
         let s2 := { s1 with tile := { s1.tile with barGen := mupd s1.tile.barGen 0 (c * 16 + id) (· + 1) } }
         redRetry (releaseTiles s2 b.tiles) c
       | none => s)
    else releaseTiles (drop s) b.tiles
/-- BARRIER_RELEASE. -/
def execBarrierRelease (c : Ctx) (sc : BarScope) (inst : Nat) (id : Fin 16) (s : State) : Host.Outcome State Fault Refusal :=
  .next (barrierReleaseEffect c.val sc inst id.val s)

/-- The record of an EVENT descriptor (R98, R99, R457). -/
def eventOf (s : State) (c t : Nat) (d : Desc) : Ev :=
  { code := 0x0001, ctx := c, time := now s,
    body := ({ step := (ctxOf s c).step, cause := d.fld 2 15 0, tile := t, word := d.fld 2 31 31 + 2 * d.fld 2 30 30,
               va := (d.word 3).toNat + 2 ^ 32 * (d.word 4).toNat } : EvF).bytes,
    irq := d.bit 2 30, tile := some t }
/-- The EVENT of a tile has been accepted (R68, R99): with step_end nothing more is issued, and the last tile's starts
the drain (R349). -/
def eventDone (s : State) (c t : Nat) : State :=
  match (seqrOf s t).hold with
  | some d =>
    if d.bit 2 31 then startDrain (holdDone (updSeqr s t fun z => { z with stepEnd := true }) t d) c else holdDone s t d
  | none => s
/-- EVENT (R99): accepted at once, or waiting for room in the job's event queue. -/
def eventEffect (t : Nat) (s : State) : State :=
  match heldReady s t 9 with
  | none => s
  | some (c, d, s1) =>
    let e := eventOf s1 c t d
    let q := (ctxOf s1 c).evq
    if q.waiting.any fun x => x.tile = some t then s
    else if evqSlots s1 c = 0 then eventDone (partEntry s1 e) c t
    else if q.waiting ≠ [] ∨ evqFull q (evqSlots s1 c) then
      updCtx s1 c fun j => { j with evq := { j.evq with waiting := j.evq.waiting ++ [e] } }
    else eventDone (jobEntry s1 c e) c t
/-- EVENT. -/
def execEvent (t : TileId) (s : State) : Host.Outcome State Fault Refusal := .next (eventEffect t.val s)
/-- EVENT_ACCEPT: the oldest waiting entry of a job's event queue is written once there is room; a tile's record carries
the time of acceptance (R99, R457). -/
def eventAcceptEffect (c : Nat) (s : State) : State :=
  match (ctxOf s c).evq.waiting with
  | [] => s
  | e :: rest =>
    let slots := evqSlots s c
    if slots ≠ 0 ∧ evqFull (ctxOf s c).evq slots then s
    else
      let s1 := updCtx s c fun j => { j with evq := { j.evq with waiting := rest } }
      let e1 := if e.tile.isSome then { e with time := now s } else e
      let s2 := if slots = 0 then partEntry s1 e1 else jobEntry s1 c e1
      match e.tile with
      | some t => eventDone s2 c t
      | none => s2
/-- EVENT_ACCEPT. -/
def execEventAccept (c : Ctx) (s : State) : Host.Outcome State Fault Refusal := .next (eventAcceptEffect c.val s)

/-! ### DMA (R78, R79, R122) -/

/-- First byte of an external access that fails R153, with its cause. -/
def extFault (s : State) (c t : Nat) (f : DmaF) (a n : Nat) : Option (Nat × Nat) :=
  let m := (ctxOf s c).man
  if f.scratch then
    let lim := 2 ^ 22 * m.ways (tileDie t)
    if a + n ≤ lim then none else some (max a lim, 3)
  else regionCheck m (if f.out then 1 else 0) a n
/-- Bed hits and misses of a read of device memory by a die, by 128-byte line (R470) (log 65, DEDUCED). -/
def bedCount (s : State) (d a n : Nat) : State :=
  let ls := touchLines 128 a n
  let h := ls.countP fun l => s.mem.bedLines.contains (d, l)
  bump (bump s (bedPage d + 0x108) h) (bedPage d + 0x110) (ls.length - h)
/-- A unit of die d reads device memory through its bed (R78) (log 65, DEDUCED). -/
def bedRead (s : State) (d a n : Nat) (stream : Bool) : State :=
  let s1 := bedCount s d a n
  if stream then s1 else bedFill s1 d a n
/-- A unit of die d writes device memory through its bed (R69, R78). -/
def bedWrite (s : State) (d a : Nat) (bs : List Byte) (stream : Bool) : State :=
  let s1 := devWrite s (some d) a bs
  if stream then s1 else bedFill s1 d a bs.length
/-- External bytes of an access. -/
def extBytes (s : State) (c t : Nat) (f : DmaF) (a n : Nat) : List Byte :=
  if f.scratch then s.mem.scratch.read (scratchKey c (tileDie t) a) n else devRead s a n
/-- Read external bytes: the state after the access. -/
def extRead (s : State) (t : Nat) (f : DmaF) (a n : Nat) : State :=
  if f.scratch then s else bedRead s (tileDie t) a n f.stream
/-- Write external bytes. -/
def extWrite (s : State) (c t : Nat) (f : DmaF) (a : Nat) (bs : List Byte) : State :=
  if f.scratch then { s with mem := { s.mem with scratch := s.mem.scratch.write (scratchKey c (tileDie t) a) bs } }
  else bedWrite (meetParts s 4 c a bs.length) (tileDie t) a bs f.stream
/-- Errors met by an access that reads external bytes: of the scratch, or of the bed lines and stack lines read (R247). -/
def extMeet (s : State) (c t : Nat) (f : DmaF) (a n : Nat) : State :=
  if s.mem.upsets = [] then s
  else if f.scratch then meetScratches s c (tileDie t) a n
  else
    let held := fun (l : Nat) => s.mem.bedLines.contains (tileDie t, l / 2)
    meetLines (meetBeds s (tileDie t) a n) 0 c fun l => (touchLines 64 a n).contains l && !held l
/-- A poisoned line in an access that reads device memory (R247). -/
def extPoison (s : State) (f : DmaF) (a n : Nat) : Option Nat := if f.scratch then none else poisonedAt s a n
/-- Copy rows one by one; the row that first reaches a byte that fails is not moved (R79, R154, R155). -/
def dmaCopy (c t : Nat) (d : Desc) (f : DmaF) (s : State) : List (Nat × Nat) → State
  | [] => markDone s t d.seq
  | (e, a) :: rest =>
    match extFault s c t f e f.rb with
    | some (x, k) => failGuard s c t k x d
    | none =>
      if f.out then dmaCopy c t d f (extWrite s c t f e (storeRead s t a f.rb)) rest
      else
        let s1 := extMeet s c t f e f.rb
        if !(ctxOf s1 c).loaded then s1
        else match extPoison s1 f e f.rb with
          | some x => failMem s1 c t x
          | none => dmaCopy c t d f (storeWrite (extRead s1 t f e f.rb) t a (extBytes s1 c t f e f.rb)) rest
/-- Lay decoded bytes into the rows of the store (R122). -/
def scatterRows (t rb : Nat) (s : State) : List (Nat × Nat) → List Byte → State
  | [], _ => s
  | (_, a) :: rest, bs => scatterRows t rb (storeWrite s t a (bs.take rb)) rest (bs.drop rb)
/-- Decode the units of a stream of T bytes from unit n at offset o (R118, R121, R122): every unit's bytes are checked
against the region table before it is read. -/
def dmaDecode (c t : Nat) (d : Desc) (f : DmaF) (total : Nat) (s : State) : Nat → Nat → Nat → List Byte → State
  | 0, _, _, acc => markDone (scatterRows t f.rb s (dmaRows f) acc) t d.seq
  | fuel + 1, n, o, acc =>
    let a := f.ext + o
    let hd := extBytes s c t f a 8
    let want := unitBytes total n
    let u := if lat hd 0 1 ≤ 3 ∧ lat hd 1 1 = 0x47 ∧ lat hd 2 2 = want then max 8 (lat hd 6 2) else 8
    match (extFault s c t f a 8).orElse fun _ => extFault s c t f a u with
    | some (x, k) => failGuard s c t k x d
    | none =>
      let s1 := extMeet s c t f a u
      if !(ctxOf s1 c).loaded then s1
      else match extPoison s1 f a u with
      | some x => failMem s1 c t x
      | none =>
        match groutDecodeUnit (fun i => (extBytes s1 c t f (a + i) 1).headD 0) want with
        | .fault k => faultJob (extRead s1 t f a u) c 0x0012 { descEv t d with cause := k, b := a }
        | .ok bs len => dmaDecode c t d f total (extRead s1 t f a u) fuel (n + 1) (o + len) (acc ++ bs)
/-- Write the units of an encoding in order; the unit that holds a failing byte is not written (R122). -/
def dmaEncode (c t : Nat) (d : Desc) (f : DmaF) (s : State) : Nat → List (List Byte) → State
  | _, [] => markDone s t d.seq
  | o, u :: rest =>
    match extFault s c t f (f.ext + o) u.length with
    | some (x, k) => failGuard s c t k x d
    | none => dmaEncode c t d f (extWrite s c t f (f.ext + o) u) (o + u.length) rest
/-- DMA: the i-th started DMA descriptor of a tile does its copy, once its requests have their memory tags (R15, R79, R122)
(log 77, DEDUCED). -/
def dmaWork (t i : Nat) (s : State) : State :=
  match pickDesc s t 1 i, tileCtx s t with
  | some d, some c =>
    let f := dmaOf d
    let rows := dmaRows f
    let total := f.planes * f.rows * f.rb
    if d.wait.isSome then s
    else if f.grout then
      (if f.out then dmaEncode c t d f s 0 (groutUnits (rows.flatMap fun r => storeRead s t r.2 f.rb))
       else dmaDecode c t d f total s (cdiv total 4096) 0 0 [])
    else dmaCopy c t d f s rows
  | _, _ => s

/-! ### JOINT (R91, R92) -/

/-- JOINT: rows go to the neighbour's store in increasing order, then its semaphore is signalled (R92). -/
def jointWork (t : Nat) (s : State) : State :=
  match pickDesc s t 5 0, tileCtx s t with
  | some d, some c =>
    (match jointNeighbour t (d.fld 2 31 30) with
     | none => s
     | some n =>
       if !holdsTile s c n then failGuard s c t 4 n d
       else
         let s1 := forEach (List.range (d.fld 4 31 16)) s fun s r =>
           storeWrite s n (d.sa 3 + r * d.sa 7) (storeRead s t (d.sa 2 + r * d.sa 6) (d.sa 5))
         let s2 := markDone s1 t d.seq
         if d.bit 2 29 then semSignal s2 n (d.fld 2 28 21) (d.fld 4 15 0) (descEv t d) else s2)
  | _, _ => s

end Sys2Proof.Machine
end

