-- ==== Sys2Proof/Machine/Fabric.lean ====
section
/-! DEFINITION. Puts, gets and collectives, the packets that carry them, notices (spec/03_tile.md, R94, R95;
spec/07_sorius_fabric.md, R206, R213, R218 to R223, R227 to R233; spec/08_fault_tolerance.md, R255 to R258). -/

namespace Sys2Proof.Machine

/-! ### Puts and gets: the initiating part -/

/-- Remote address of a put or get (R94). -/
def remoteAddr (d : Desc) : Nat := 2 ^ 32 * d.fld 4 8 0 + (d.word 3).toNat
/-- Local address. -/
def localAddr (d : Desc) : Nat := 2 ^ 32 * d.fld 6 8 0 + (d.word 5).toNat
/-- Length. -/
def fabLen (d : Desc) : Nat := (d.word 7).toNat
/-- The local side is the tile store. -/
def inStore (d : Desc) : Bool := decide (d.fld 6 31 30 = 0)
/-- The 8 signal bytes of the last burst of a put (R206); empty without a remote signal (log 16, DEDUCED). -/
def putSignal (d : Desc) : List Byte :=
  if d.bit 8 31 then leBytes 4 (d.fld 8 30 22) ++ leBytes 4 (d.fld 8 21 14 + d.fld 9 15 0 * 2 ^ 16) else []
/-- Bytes of the next burst of a put with `rem` bytes left (R219, log 16). -/
def nextBurst (sig : Bool) (rem : Nat) : Nat :=
  if !sig then min 16384 rem else if 16384 < rem then 16384 else if 16376 < rem then rem - 64 else rem
/-- Bursts of a put that await their response. -/
def putOpen (s : State) (c t seq : Nat) : Bool :=
  (ctxOf s c).fab.bursts.any fun b => decide (b.source = 0 ∧ b.tile = t ∧ b.seq = seq)
/-- The put's work is done once every burst has been injected; it completes when they have left the part (R68). -/
def putEnd (s : State) (t : Nat) (d : Desc) (prog : Nat) : State :=
  updDesc s t d.seq fun e => { e with prog := prog, phase := if fabLen d ≤ prog then .done else e.phase }
/-- Send bursts of a put while tags are free (R15, R218); a last burst that carries a signal is held until every earlier
burst has its response (R213). -/
def putRun (c t : Nat) (d : Desc) : Nat → Nat → State → State
  | 0, prog, s => putEnd s t d prog
  | fuel + 1, prog, s0 =>
    let rem := fabLen d - prog
    let sig := putSignal d
    let n := nextBurst (decide (sig ≠ [])) rem
    let last := decide (n = rem)
    let s := if inStore d then s0 else meetRanges s0 0 c [(localAddr d + prog, n)]
    if rem = 0 ∨ ¬ jobTagFree s c ∨ (last = true ∧ sig ≠ [] ∧ putOpen s c t d.seq = true) then putEnd s t d prog
    else
      let a := localAddr d + prog
      let chk := if inStore d then none else regionCheck (ctxOf s c).man 0 a n
      let bad := if inStore d then none else poisonedAt s a n
      match chk, bad with
      | some (x, k), _ => failGuard s c t k x d
      | none, some x => failMem s c t x
      | none, none =>
        let bs := if inStore d then storeRead s t a n else devRead s a n
        let s1 := postBurst s c c (d.fld 2 27 25) (toPhys s (fabTarget d)) ⟨0, 0, 0, t, d.seq, 0, 0, 0⟩ (remoteAddr d + prog) bs
          (if last then sig else [])
        putRun c t d fuel (prog + n) s1
/-- Ask for the bytes of a get in READ_REQs of at most 4,096 bytes while tags are free (R206, R218). -/
def getRun (c t : Nat) (d : Desc) : Nat → Nat → State → State
  | 0, prog, s => updDesc s t d.seq fun e => { e with prog := prog }
  | fuel + 1, prog, s =>
    let n := min 4096 (fabLen d - prog)
    if n = 0 ∨ ¬ jobTagFree s c then updDesc s t d.seq fun e => { e with prog := prog }
    else
      let k := takeTag s c
      let dst := toPhys s (fabTarget d)
      let g : GetReq := { tag := k.1, tile := t, seq := d.seq, dst := dst, toStore := inStore d, laddr := localAddr d + prog, bytes := n, got := 0 }
      let p : Packet :=
        { ty := 5, vc := d.fld 2 27 25, side := 0, dst := dst, src := ownCoord s, fabricJob := fabricJob s c, tag := k.1,
          step := (ctxOf s c).step, addr := remoteAddr d + prog, aux := BitVec.ofNat 32 n, payload := [] }
      getRun c t d fuel (prog + n) (inject (updFab k.2 c fun f => { f with gets := f.gets ++ [g] }) p)
/-- A put or get goes on from where it stands. -/
def fabRun (s : State) (c t : Nat) (d : Desc) : State :=
  if d.fld 2 31 28 = 0 then putRun c t d (cdiv (fabLen d - d.prog) 16384 + 2) d.prog s
  else if d.fld 2 31 28 = 1 then getRun c t d (cdiv (fabLen d - d.prog) 4096 + 1) d.prog s
  else s
/-- FAB_PUT and FAB_GET of the i-th started FAB descriptor of a tile, if it has that op. -/
def fabMove (op t i : Nat) (s : State) : State :=
  match pickDesc s t 7 i, tileCtx s t with
  | some d, some c => if d.fld 2 31 28 = op then fabRun s c t d else s
  | _, _ => s
/-- FAB_PUT (R95, R219). -/
def execFabPut (t : TileId) (i : Nat) (s : State) : Host.Outcome State Fault Refusal := .next (fabMove 0 t.val i s)
/-- FAB_GET (R95, R218). -/
def execFabGet (t : TileId) (i : Nat) (s : State) : Host.Outcome State Fault Refusal := .next (fabMove 1 t.val i s)
/-- A started put or get that has bytes left to ask for or send. -/
def fabWaits (d : Desc) : Bool := decide (d.cls = 7 ∧ d.phase = .started ∧ d.fld 2 31 28 ≤ 1 ∧ d.prog < fabLen d)
/-- TAG_GRANT (R15): the first waiting put or get of the job, or the first DMA that waits for a tag of the stack, by tile
and issue order, goes on. -/
def tagGrantEffect (p : TagPool) (s : State) : State :=
  match p with
  | .memory k =>
    match tagWaiter s k.val with
    | some (t, d) => if memTagsUsed s k.val < 4096 then dmaAsk s t d else s
    | none => s
  | .fabric c =>
    match (tilesOf (ctxOf s c.val).man).findSome? fun t => ((seqrOf s t).descs.find? fabWaits).map fun d => (t, d) with
    | some (t, d) => if tileCtx s t = some c.val ∧ jobTagFree s c.val then fabRun s c.val t d else s
    | none => s
/-- TAG_GRANT. -/
def execTagGrant (p : TagPool) (s : State) : Host.Outcome State Fault Refusal := .next (tagGrantEffect p s)

/-- PACKET_FORWARD (R211). -/
def execPacketForward (inPort : Option Port) (p : Packet) (s : State) : Host.Outcome State Fault Refusal :=
  .next (match inPort with
    | some q => arrive s q.val p
    | none => inject s p)

/-! ### WRITE, WRITE_LAST and READ_REQ: the target (R219, R220) -/

/-- The job a request is for: the one with its fabric_job; for 0, the own job that sent it (R224). -/
def targetCtx (s : State) (p : Packet) : Option Nat :=
  if p.fabricJob = 0 then (if p.src = ownCoord s then ctxOfTag s 0 p.tag else none) else ctxOfFabricJob s p.fabricJob
/-- Data bytes of a write packet, and its signal (R206). -/
def writeData (p : Packet) : List Byte × Option (Nat × Nat × Nat) :=
  if p.ty = 2 ∧ p.aux.msb then
    let n := p.payload.length - 8
    let g := p.payload.drop n
    (p.payload.take n, some (lat g 0 4 % 512, lat g 4 1, lat g 6 2))
  else (p.payload, none)
/-- Address of the first byte of the burst of a packet. -/
def burstBase (p : Packet) : Nat :=
  if p.ty = 1 then p.addr - p.aux.toNat else p.addr - 64 * (fld p.aux 14 0 - cdiv (writeData p).1.length 64)
/-- The entry of a packet's burst; a fresh one when the burst has none. -/
def rxOf (s : State) (p : Packet) : RxSt :=
  match s.fab.rx.find? fun r => decide (r.src = p.src ∧ r.tag = p.tag ∧ r.step = p.step ∧ r.base = burstBase p) with
  | some r => r
  | none => { src := p.src, tag := p.tag, step := p.step, base := burstBase p }
/-- Keep an entry, or forget it once every packet of its burst has been seen. -/
def putRx (s : State) (r : RxSt) : State :=
  let rest := s.fab.rx.filter fun x => !(decide (x.src = r.src ∧ x.tag = r.tag))
  { s with fab := { s.fab with rx := if r.units = some (cdiv r.got 64) then rest else rest ++ [r] } }
/-- An error that the stack controller reports while writing: part of a poisoned line is written (R247). -/
def writePoison (s : State) (a n : Nat) : Option Nat :=
  let full := fullLines a n
  ((touchLines 64 a n).find? fun l => s.mem.poison.contains l && !full.contains l).map (64 * ·)
/-- The check of R220 on a packet: cause and failing address. `perm` is the bit of rrd or rwr. -/
def packetCause (s : State) (p : Packet) (perm n : Nat) (sig : Option (Nat × Nat × Nat)) : Option (Nat × Nat) :=
  if s.boot.resetting then some (3, p.addr)
  else match targetCtx s p with
    | none => some (1, p.addr)
    | some c =>
      match regionCheck (ctxOf s c).man perm p.addr n with
      | some (x, _) => some (2, x)
      | none =>
        match sig, (if perm = 3 then writePoison s p.addr n else poisonedAt s p.addr n) with
        | some g, e => if !holdsTile s c g.1 then some (4, p.addr) else e.map (6, ·)
        | none, e => e.map (6, ·)
/-- A response to a request (R206). -/
def responseTo (s : State) (p : Packet) (ty : Nat) (aux : Word) (payload : List Byte) : Packet :=
  { ty := ty, vc := 4, side := 0, dst := p.src, src := ownCoord s, fabricJob := p.fabricJob, tag := p.tag, step := p.step,
    addr := p.addr, aux := aux, payload := payload }
/-- LATE_WRITE of this part with its record (R220, R221). -/
def lateReply (s : State) (p : Packet) (cause addr : Nat) : Packet :=
  responseTo s p 4 (BitVec.ofNat 32 cause)
    (leBytes 4 p.step ++ leBytes 1 cause ++ leBytes 1 0 ++ leBytes 2 0xFFFF ++ leBytes 2 (ownCoord s) ++ leBytes 2 (ownCoord s)
      ++ leBytes 4 0 ++ leBytes 8 addr ++ leBytes 4 0 ++ leBytes 4 0)
/-- The burst is whole: its signal is applied and its ACK sent, or LATE_WRITE with cause 7 (R76, R219, R220). -/
def burstWhole (s : State) (p : Packet) (c : Nat) (r : RxSt) : State :=
  let ack := inject s (responseTo s p 3 0 [])
  match r.sig with
  | none => ack
  | some (t, i, v) =>
    if semGet s t i + v ≤ 0xFFFF then semPut ack t i (semGet s t i + v)
    else
      descFault (inject s (lateReply s p 7 r.base)) c
        { cause := 0x12, tile := t, unit := 4, coords := p.src, va := i + semGet s t i * 2 ^ 16, vb := v, b := t }
/-- The context that a packet reaches, as an error record names it: 0xFF for none (R482). -/
def targetOr (s : State) (p : Packet) : Nat := (targetCtx s p).getD 0xFF
/-- A WRITE or WRITE_LAST at its target (R219, R220). -/
def writeEffect (ty : Nat) (p : Packet) (s0 : State) : State :=
  if p.ty ≠ ty ∨ p.dst ≠ ownCoord s0 then s0
  else
    let w := writeData p
    let s := meetParts s0 1 (targetOr s0 p) p.addr w.1.length
    let r := rxOf s p
    let r1 : RxSt := { r with
      got := r.got + w.1.length
      units := if ty = 2 then some (fld p.aux 14 0) else r.units
      sig := if ty = 2 then w.2 else r.sig }
    if r.refused then putRx s r1
    else match packetCause s p 3 w.1.length w.2, targetCtx s p with
      | some (k, x), _ => inject (putRx s { r1 with refused := true }) (lateReply s p k x)
      | none, some c =>
        let s1 := putRx (devWrite s none p.addr w.1) r1
        if r1.units = some (cdiv r1.got 64) then burstWhole s1 p c r1 else s1
      | none, none => s
/-- WRITE. -/
def execWrite (p : Packet) (s : State) : Host.Outcome State Fault Refusal := .next (writeEffect 1 p s)
/-- WRITE_LAST. -/
def execWriteLast (p : Packet) (s : State) : Host.Outcome State Fault Refusal := .next (writeEffect 2 p s)
/-- READ_REQ (R220): READ_DATA in packets of 512 bytes, or READ_NAK. -/
def readReqEffect (p : Packet) (s0 : State) : State :=
  if p.ty ≠ 5 ∨ p.dst ≠ ownCoord s0 then s0
  else
    let n := p.aux.toNat
    let s := meetRanges s0 0 (targetOr s0 p) [(p.addr, n)]
    match packetCause s p 2 n none with
    | some (k, _) => inject s (responseTo s p 7 (BitVec.ofNat 32 k) [])
    | none =>
      let bs := devRead s p.addr n
      forEach (List.range (cdiv n 512)) s fun s i =>
        inject s { responseTo s p 6 (BitVec.ofNat 32 (512 * i)) ((bs.drop (512 * i)).take 512) with addr := p.addr + 512 * i }
/-- READ_REQ. -/
def execReadReq (p : Packet) (s : State) : Host.Outcome State Fault Refusal := .next (readReqEffect p s)

/-! ### ACK, LATE_WRITE, READ_DATA, READ_NAK: the initiator -/

/-- What a response to a sink's burst lets the mover do (R186, R262). A refused burst leaves the bytes past the producer
count unpublished. -/
def sinkAnswered (s : State) (c : Nat) (b : Burst) (late : Bool) : State :=
  if late then updSink s c b.tile fun x => { x with ahead := 0, closeTo := 0 }
  else publish (if 2 ≤ b.seq then sinkClosed s c b.tile (b.seq - 2) else s) c b.tile
/-- A held last burst of a put is sent (R213). -/
def putResume (s : State) (c : Nat) (b : Burst) : State :=
  match (seqrOf s b.tile).descs.find? fun d => decide (d.seq = b.seq) && fabWaits d with
  | some d => if putSignal d ≠ [] ∧ ¬ putOpen s c b.tile b.seq then fabRun s c b.tile d else s
  | none => s
/-- The burst that a response answers is done (R218, R219, R222). -/
def answered (s : State) (c : Nat) (b : Burst) (late : Bool) : State :=
  let s1 := burstDone s c b late
  let s2 := if b.source = 1 then sinkAnswered s1 c b late else if b.source = 0 then putResume s1 c b else s1
  postedResume s2 c
/-- ACK (R219, R222); a response to no burst that is counted is ignored. -/
def ackEffect (p : Packet) (s : State) : State :=
  match ctxOfTag s p.fabricJob p.tag with
  | some c => (match burstOf s c p with | some b => answered s c b false | none => s)
  | none => s
/-- ACK. -/
def execAck (p : Packet) (s : State) : Host.Outcome State Fault Refusal := .next (ackEffect p s)
/-- LATE_WRITE (R221, R222). -/
def lateWriteEffect (p : Packet) (s : State) : State :=
  match ctxOfTag s p.fabricJob p.tag with
  | some c =>
    (match burstOf s c p with
     | some b => answered (pushLate s c (lateRecord b p.payload)) c b true
     | none => s)
  | none => s
/-- LATE_WRITE. -/
def execLateWrite (p : Packet) (s : State) : Host.Outcome State Fault Refusal := .next (lateWriteEffect p s)
/-- The get that a response belongs to. -/
def getOf (s : State) (p : Packet) : Option (Nat × GetReq) :=
  match ctxOfTag s p.fabricJob p.tag with
  | some c =>
    if (ctxOf s c).fab.closed = some p.step then none
    else ((ctxOf s c).fab.gets.find? fun g => decide (g.tag = p.tag)).map fun g => (c, g)
  | none => none
/-- The read of device firmware that a response belongs to (R218): on a tag that firmware holds for the job. -/
def fwReadAt (s : State) (p : Packet) : Option (Nat × FwRead) :=
  (List.range 8).findSome? fun c =>
    if fabricJob s c = p.fabricJob then ((ctxOf s c).fab.reads.find? fun r => decide (r.tag = p.tag) && !r.nak).map fun r => (c, r) else none
/-- A get's descriptor is done once all of its data has arrived. -/
def getEnd (s : State) (c : Nat) (g : GetReq) : State :=
  if (ctxOf s c).fab.gets.any fun x => decide (x.tile = g.tile ∧ x.seq = g.seq) then s
  else updDesc s g.tile g.seq fun e => { e with phase := if fabLen e ≤ e.prog then .done else e.phase }
/-- READ_DATA (R218): written locally; the tag frees when all data has arrived (log 70, DEDUCED). -/
def readDataEffect (p : Packet) (s : State) : State :=
  match getOf s p with
  | none => (match fwReadAt s p with | some (c, r) => fwData s c r p.aux.toNat p.payload | none => s)
  | some (c, g) =>
    let a := g.laddr + p.aux.toNat
    let chk := if g.toStore then none else regionCheck (ctxOf s c).man 1 a p.payload.length
    match chk, (seqrOf s g.tile).descs.find? fun d => decide (d.seq = g.seq) with
    | some (x, k), d => guardFault s c { (match d with | some d => descEv g.tile d | none => { tile := g.tile }) with cause := k, b := x }
    | none, _ =>
      let s1 := if g.toStore then storeWrite s g.tile a p.payload else devWrite s none a p.payload
      let got := g.got + p.payload.length
      if got < g.bytes then updFab s1 c fun f => { f with gets := f.gets.map fun x => if x.tag = g.tag then { x with got := got } else x }
      else getEnd (dropTag (updFab s1 c fun f => { f with gets := f.gets.filter fun x => x.tag ≠ g.tag }) g.tag) c g
/-- READ_DATA. -/
def execReadData (p : Packet) (s : State) : Host.Outcome State Fault Refusal := .next (readDataEffect p s)
/-- READ_NAK (R223): REMOTE_FAULT, and the job is torn down. -/
def readNakEffect (p : Packet) (s : State) : State :=
  match getOf s p with
  | some (c, g) => faultJob s c 0x0014 { cause := p.aux.toNat % 65536, coords := g.dst }
  | none => (match fwReadAt s p with | some (c, r) => fwNak s c r | none => s)
/-- READ_NAK. -/
def execReadNak (p : Packet) (s : State) : Host.Outcome State Fault Refusal := .next (readNakEffect p s)
/-- GET_TIMEOUT (R95, R223) (log 4, DEDUCED). -/
def getTimeoutEffect (c tag : Nat) (s : State) : State :=
  match (ctxOf s c).fab.gets.find? fun g => decide (g.tag = tag) with
  | some g => remoteTimeout s c 1 g.dst
  | none => s
/-- GET_TIMEOUT. -/
def execGetTimeout (c : Ctx) (tag : Nat) (s : State) : Host.Outcome State Fault Refusal := .next (getTimeoutEffect c.val tag s)

/-! ### Collectives (R227 to R233) -/

/-- Kind of an entry (R227). -/
def cKind (e : List Byte) : Nat := lat e 0 1
@[inherit_doc cKind] def cFmt (e : List Byte) : Fmt := (fmtOf (lat e 1 1)).getD .fp32
@[inherit_doc cKind] def cSnake (e : List Byte) : Bool := bit (lat e 2 1) 3
@[inherit_doc cKind] def cSeg (e : List Byte) : Nat := lat e 0x0C 4
/-- Members of a group (R228). -/
def cSize (e : List Byte) : Nat := collSpan e 0 * collSpan e 1 * collSpan e 2
/-- The two axes of a snake, A before B (R229). -/
def snakeAxes (e : List Byte) : Nat × Nat :=
  let sel := (List.range 3).filter fun a => bit (lat e 2 1) a
  (sel.getD 0 0, sel.getD 1 1)
/-- Ring order of a snake of spans A and B (R229). -/
def snakeOrder (a b : Nat) : List (Nat × Nat) :=
  (0, 0) :: ((List.range a).flatMap fun i =>
      (List.range (b - 1)).map fun j => (i, if i % 2 = 0 then j + 1 else b - 1 - j))
    ++ (List.range (a - 1)).map fun i => (a - 1 - i, 0)
/-- Spans of the phases of a sum: X, Y, Z, or the snake as one (R232). -/
def cDims (e : List Byte) : List Nat := if cSnake e then [cSize e] else [collSpan e 0, collSpan e 1, collSpan e 2]
/-- Position of the part in a snake. -/
def snakePos (s : State) (c : Nat) (e : List Byte) : Nat :=
  let x := snakeAxes e
  ((snakeOrder (collSpan e x.1) (collSpan e x.2)).findIdx? fun p =>
    decide (p = (ownRel s c x.1 % collSpan e x.1, ownRel s c x.2 % collSpan e x.2))).getD 0
/-- The part's own rank on each phase (R228, R229). -/
def cRanks (s : State) (c : Nat) (e : List Byte) : List Nat :=
  if cSnake e then [snakePos s c e]
  else (List.range 3).map fun a =>
    if bit (lat e 2 1) a then ownRel s c a % (collSpan e a * collStride e a) / collStride e a else 0
/-- Ranks on each phase of the member of a group rank (R228). -/
def chunkRanks (e : List Byte) (r : Nat) : List Nat :=
  if cSnake e then [r] else [r % collSpan e 0, r / collSpan e 0 % collSpan e 1, r / (collSpan e 0 * collSpan e 1)]
/-- The part's own group rank. -/
def cOwn (s : State) (c : Nat) (e : List Byte) : Nat :=
  let k := cRanks s c e
  if cSnake e then k.getD 0 0 else k.getD 0 0 + collSpan e 0 * (k.getD 1 0 + collSpan e 1 * k.getD 2 0)
/-- Logical coordinates of the member with given ranks (R228, R229). -/
def cMember (s : State) (c : Nat) (e : List Byte) (ks : List Nat) : Nat :=
  let u := ownRel s c
  if cSnake e then
    let x := snakeAxes e
    let p := (snakeOrder (collSpan e x.1) (collSpan e x.2)).getD (ks.getD 0 0) (0, 0)
    boxLogical s c fun a =>
      if a = x.1 then u a / collSpan e a * collSpan e a + p.1 else if a = x.2 then u a / collSpan e a * collSpan e a + p.2 else u a
  else
    boxLogical s c fun a =>
      if bit (lat e 2 1) a then
        (let blk := collSpan e a * collStride e a
         u a / blk * blk + ks.getD a 0 * collStride e a + u a % collStride e a)
      else u a
/-- Replace the rank on a phase. -/
def onPhase (ks : List Nat) (p v : Nat) : List Nat := ks.set p v
/-- One packet's piece of a chunk: offset, bytes, and whether it lies in the first half (R232) (log 66, DESIGN CHOICE). -/
def cPieces (sz : Nat) : List (Nat × Nat × Bool) :=
  let half : Nat → Bool → List (Nat × Nat × Bool) := fun lo b => (List.range (cdiv (sz / 2) 512)).map fun i => (lo + 512 * i, min 512 (sz / 2 - 512 * i), b)
  half 0 true ++ half (sz / 2) false
/-- The pieces of the chunks that satisfy a test, with the chunk: (rank, offset in the buffer, bytes, first half). -/
def cAll (e : List Byte) (f : Nat → Bool) : List (Nat × Nat × Nat × Bool) :=
  ((List.range (cSize e)).filter f).flatMap fun r => (cPieces (cSeg e)).map fun x => (r, r * cSeg e + x.1, x.2.1, x.2.2)
/-- Phases of more than one member. -/
def cPhases (e : List Byte) : List Nat := (List.range (cDims e).length).filter fun p => decide (1 < (cDims e).getD p 1)
/-- The chunk's sum reaches this part in phase p: their ranks agree on the phases before it. -/
def cMeets (own ks : List Nat) (p : Nat) : Bool := decide (own.take p = ks.take p)
/-- Next rank of a ring in a direction, and the rank before. -/
def ringNext (n v : Nat) (inc : Bool) : Nat := if inc then (v + 1) % n else (v + n - 1) % n
/-- The part is the first member of the sum of a chunk in phase p (R232). -/
def cFirst (e : List Byte) (own ks : List Nat) (p : Nat) (inc : Bool) : Bool :=
  decide (own.getD p 0 = ringNext ((cDims e).getD p 1) (ks.getD p 0) inc)
/-- Buffer offset added to the pieces that copy final chunks in an all-reduce. -/
def cGather (e : List Byte) : Nat := if cKind e = 3 then cSize e * cSeg e else 0
/-- What an instance has to receive (R230, R232). -/
def cPend (e : List Byte) (own : List Nat) (rank : Nat) : List (Nat × Nat × Nat) :=
  let sum := (cPhases e).flatMap fun p =>
    ((cAll e fun r => cMeets own (chunkRanks e r) p).filter fun x => !cFirst e own (chunkRanks e x.1) p x.2.2.2).map fun x => (p, x.2.1, x.2.2.1)
  let copy := (cPhases e).flatMap fun p =>
    (cAll e fun r => cMeets own (chunkRanks e r) p && decide (own.getD p 0 ≠ (chunkRanks e r).getD p 0)).map fun x => (p, cGather e + x.2.1, x.2.2.1)
  let k := cKind e
  if k = 1 then sum else if k = 2 then copy else if k = 3 then sum ++ copy
  else if k = 4 then (cAll e fun r => decide (r ≠ rank)).map fun x => (0, x.2.1, x.2.2.1)
  else (cPieces (cSeg e)).map fun x => (0, x.1, x.2.1)
/-- Logical coordinates of the part that a piece comes from. -/
def cFrom (s : State) (c : Nat) (e : List Byte) (p off : Nat) : Nat :=
  let own := cRanks s c e
  let o := off % (cSize e * cSeg e)
  let inc := decide (o % cSeg e < cSeg e / 2)
  if cKind e = 4 then cMember s c e (chunkRanks e (o / cSeg e))
  else if cKind e = 5 then cMember s c e (chunkRanks e ((cOwn s c e + cSize e - 1) % cSize e))
  else cMember s c e (onPhase own p (ringNext ((cDims e).getD p 1) (own.getD p 0) !inc))
/-- Send a piece to the part with given ranks (R206, R208) (log 66, DESIGN CHOICE). -/
def cSend (s : State) (c : Nat) (e : List Byte) (i : CollInst) (p : Nat) (ks : List Nat) (off n : Nat) (bs : List Byte) : State :=
  inject s { ty := 8, vc := 5, side := 0, dst := toPhys s (cMember s c e ks), src := ownCoord s, fabricJob := fabricJob s c, tag := p,
             step := (ctxOf s c).step, addr := off, aux := BitVec.ofNat 32 (i.id * 2 ^ 16 + i.step), payload := bs.take n }
/-- Bytes of the working buffer. -/
def CollInst.at_ (i : CollInst) (off n : Nat) : List Byte := (i.buf.drop off).take n
/-- Write the working buffer. -/
def CollInst.put (i : CollInst) (off : Nat) (bs : List Byte) : CollInst :=
  { i with buf := i.buf.take off ++ bs ++ i.buf.drop (off + bs.length) }
/-- Copy a final piece on along phase p, until it is back before its origin (R230). -/
def cCopyOn (s : State) (c : Nat) (e : List Byte) (i : CollInst) (own ks : List Nat) (off n : Nat) (inc : Bool) (p : Nat) : State :=
  let v := ringNext ((cDims e).getD p 1) (own.getD p 0) inc
  if v = ks.getD p 0 then s else cSend s c e i p (onPhase own p v) (cGather e + off) n (i.at_ off n)
/-- The part holds the own value of a piece for the phases from the list on: as first member it sends it; past the last
phase the sum is complete, and an all-reduce copies it on (R232). -/
def cEnter (s : State) (c : Nat) (e : List Byte) (i : CollInst) (own ks : List Nat) (off n : Nat) (inc : Bool) (ps : List Nat) : State :=
  match ps with
  | [] => if cKind e = 3 then forEach (cPhases e) s fun s p => cCopyOn s c e i own ks off n inc p else s
  | p :: _ =>
    if cFirst e own ks p inc then
      cSend s c e i p (onPhase own p (ringNext ((cDims e).getD p 1) (own.getD p 0) inc)) off n (i.at_ off n)
    else s
/-- Elements of bytes in a format. -/
def cElems (f : Fmt) (bs : List Byte) : List Nat := (List.range (bs.length / fmtBytes f)).map fun i => lat bs (fmtBytes f * i) (fmtBytes f)
/-- One hop of a sum (R232) (log 87, DEDUCED). -/
def hopAdd (f : Fmt) (a b : Nat) : Nat :=
  let v := add32 (widen f a) (widen f b)
  if f = .fp32 then v.toNat else cvt v f
/-- The result in the format is an infinity or a NaN (R233). -/
def hopBad (f : Fmt) (x : Nat) : Bool := !isFin32 (widen f x)
/-- Count infinite and NaN results, and raise the step overflow flag where the entry reports it (R233). -/
def cCount (s : State) (c : Nat) (e : List Byte) (n : Nat) : State :=
  let s1 := bump s 0x70138 n
  if 0 < n ∧ bit (lat e 3 1) 0 then updFab s1 c fun f => { f with ovf := true } else s1
/-- Replace an instance. -/
def putInst (s : State) (c : Nat) (i : CollInst) : State :=
  updFab s c fun f => { f with insts := f.insts.map fun x => if x.id = i.id ∧ x.step = i.step then i else x }
/-- An instance with nothing left to receive writes its result and ends (R230, R231). -/
def cEnd (s : State) (c : Nat) (e : List Byte) (i : CollInst) : State :=
  if i.pend ≠ [] then putInst s c i
  else
    let sz := cSeg e
    let dst := lat e 0x20 8
    let r := if cKind e = 1 then (dst + i.step * sz, i.at_ (cOwn s c e * sz) sz)
      else if cKind e = 5 then (dst + i.step * sz, i.buf)
      else (dst + i.step * cSize e * sz, i.buf)
    let s1 := devWrite s none r.1 r.2
    markDone (updFab s1 c fun f => { f with insts := f.insts.filter fun x => !(decide (x.id = i.id ∧ x.step = i.step)) }) i.tile i.seq
/-- A piece that the instance awaits is taken: added and passed on, or copied (R230, R232). -/
def cReceive (s : State) (c : Nat) (e : List Byte) (i : CollInst) (p off : Nat) (bs : List Byte) : State :=
  let own := cRanks s c e
  let n := bs.length
  let copy := decide (cKind e = 2) || (decide (cKind e = 3) && decide (cGather e ≤ off))
  let o := if copy then off - cGather e else off
  let i0 : CollInst := { i with pend := i.pend.erase (p, off, n) }
  if 4 ≤ cKind e then cEnd s c e (i0.put o bs)
  else
    let ks := chunkRanks e (o / cSeg e)
    let inc := decide (o % cSeg e < cSeg e / 2)
    if copy then
      let i1 := i0.put o bs
      let s1 := forEach ((cPhases e).filter (· ≤ p)) s fun s q => cCopyOn s c e i1 own ks o n inc q
      cEnd s1 c e i1
    else
      let f := cFmt e
      let sum := (List.zip (cElems f bs) (cElems f (i.at_ o n))).map fun x => hopAdd f x.1 x.2
      let i1 := i0.put o (sum.flatMap (leBytes (fmtBytes f)))
      let s1 := cCount s c e (sum.countP (hopBad f))
      let s2 := if own.getD p 0 = ks.getD p 0 then cEnter s1 c e i1 own ks o n inc ((cPhases e).filter (p < ·))
        else cSend s1 c e i1 p (onPhase own p (ringNext ((cDims e).getD p 1) (own.getD p 0) inc)) o n (i1.at_ o n)
      cEnd s2 c e i1
/-- The packet's own instance awaits a piece of this phase and place, and the earlier phases of the place are done. -/
def cReady (i : CollInst) (p off : Nat) : Bool := !(i.pend.any fun x => decide (x.2.1 = off ∧ x.1 < p))
/-- Hold a COLL packet until its instance or its phase comes. -/
def cHold (s : State) (c : Nat) (x : Nat × Nat × Packet) : State := updFab s c fun f => { f with collHeld := f.collHeld ++ [x] }
/-- Collective steps of the job that have been issued and not ended, as (order of issue, coll_id and coll_step) (R231). -/
def issuedColls (s : State) (c : Nat) : List (Nat × Word) :=
  (tilesOf (ctxOf s c).man).flatMap fun t =>
    ((seqrOf s t).descs ++ (seqrOf s t).hold.toList).filterMap fun d =>
      if d.cls = 7 ∧ d.fld 2 31 28 = 2 ∧ d.phase ≠ .done then some (d.coll, d.word 10) else none
/-- The one issued first on this part (R231). -/
def firstColl (s : State) (c : Nat) : Option (Nat × Word) :=
  (issuedColls s c).foldl (fun b x => match b with | none => some x | some y => if x.1 < y.1 then some x else some y) none
/-- A COLL packet of a job names an instance that its collective table does not have (R227, R231). -/
def collUnknown (s : State) (c : Nat) (k : Packet) : Bool :=
  let cs := (ctxOf s c).man.colls
  let e := cs.getD (fld k.aux 31 16) []
  decide (cs.length ≤ fld k.aux 31 16 ∨ cKind e = 6 ∨ lat e 0x10 4 ≤ fld k.aux 15 0)
/-- A COLL packet that the part cannot place. With an instance running, one of another instance is a mismatch when the part
still awaits a piece from its sender; with none running, when it is not one that the job has issued (R231) (log 66, DESIGN CHOICE). -/
def collStray (s : State) (c : Nat) (k : Packet) : Option Nat :=
  let f := (ctxOf s c).fab
  let issued := issuedColls s c
  if collUnknown s c k then some 0
  else match f.insts.find? fun i => i.pend.any fun x => decide (cFrom s c ((ctxOf s c).man.colls.getD i.id []) x.1 x.2.1 = toLogical s k.src) with
    | some i => if issued.any fun x => decide (x.2 = k.aux) then none else some (i.id * 2 ^ 16 + i.step)
    | none =>
      if f.insts = [] ∧ issued ≠ [] ∧ ¬ (issued.any fun x => decide (x.2 = k.aux)) then (firstColl s c).map (·.2.toNat) else none
/-- A COLL packet of a loaded job (R231, R232): taken, held for its instance or phase, or a mismatch. Triples of the
digest exchange wait for the comparison (R180). -/
def collTake (s : State) (c p off : Nat) (k : Packet) : State :=
  let f := (ctxOf s c).fab
  if exchanges s c ∧ fld k.aux 31 16 = digestEntry s c ∧ fld k.aux 15 0 = 0 then takeTriples s c k
  else match f.insts.find? fun i => decide (i.id = fld k.aux 31 16 ∧ i.step = fld k.aux 15 0) with
  | some i =>
    let e := (ctxOf s c).man.colls.getD i.id []
    if ¬ i.pend.contains (p, off, k.payload.length) then s
    else if cReady i p off then cReceive s c e i p off k.payload
    else cHold s c (p, off, k)
  | none =>
    match collStray s c k with
    | some x => faultJob s c 0x0016 { coords := k.src, va := x, vb := k.aux.toNat }
    | none => cHold s c (p, off, k)
/-- Present held COLL packets again, up to n rounds. -/
def collRetry (s : State) (c : Nat) : Nat → State
  | 0 => s
  | n + 1 =>
    let hs := (ctxOf s c).fab.collHeld
    collRetry (forEach hs (updFab s c fun f => { f with collHeld := [] }) fun s x =>
      if (ctxOf s c).loaded then collTake s c x.1 x.2.1 x.2.2 else s) c n
/-- Present them until no further one can be taken. -/
def collSettle (s : State) (c : Nat) : State := collRetry s c (ctxOf s c).fab.collHeld.length
/-- COLL (R231, R232): `axis` and `off` say which phase and place of the working buffer the packet carries (log 66, DESIGN CHOICE). -/
def collEffect (k : Packet) (axis off : Nat) (s : State) : State :=
  if k.ty ≠ 8 ∨ k.dst ≠ ownCoord s then s
  else match ctxOfFabricJob s k.fabricJob with
    | some c => collSettle (collTake s c axis off k) c
    | none => s
/-- COLL. -/
def execColl (p : Packet) (axis : Fin 3) (off : Nat) (s : State) : Host.Outcome State Fault Refusal := .next (collEffect p axis.val off s)

/-- Source range of a segment: address and bytes (R230). -/
def cSource (e : List Byte) (i : Nat) : Nat × Nat :=
  let own := decide (cKind e = 2 ∨ cKind e = 5)
  let n := if own then cSeg e else cSize e * cSeg e
  (lat e 0x18 8 + i * n, n)
/-- Result range of a segment (R230). -/
def cResult (e : List Byte) (i : Nat) : Nat × Nat :=
  let own := decide (cKind e = 1 ∨ cKind e = 5)
  let n := if own then cSeg e else cSize e * cSeg e
  (lat e 0x20 8 + i * n, n)
/-- The working buffer at the start. -/
def cBuf (e : List Byte) (rank : Nat) (src : List Byte) : List Byte :=
  let z := List.replicate (cSize e * cSeg e) (0 : Byte)
  let lay := fun (bs : List Byte) => z.take (rank * cSeg e) ++ bs ++ z.drop ((rank + 1) * cSeg e)
  let k := cKind e
  if k = 2 then lay src else if k = 4 then lay ((src.drop (rank * cSeg e)).take (cSeg e))
  else if k = 5 then List.replicate (cSeg e) 0 else src
/-- The first sends of an instance (R230, R232). -/
def cLaunch (s : State) (c : Nat) (e : List Byte) (i : CollInst) (src : List Byte) : State :=
  let own := cRanks s c e
  let rank := cOwn s c e
  let k := cKind e
  if k = 4 then
    forEach (cAll e fun r => decide (r ≠ rank)) s fun s x =>
      cSend s c e i 0 (chunkRanks e x.1) (rank * cSeg e + (x.2.1 - x.1 * cSeg e)) x.2.2.1 ((src.drop x.2.1).take x.2.2.1)
  else if k = 5 then
    forEach (cPieces (cSeg e)) s fun s x => cSend s c e i 0 (chunkRanks e ((rank + 1) % cSize e)) x.1 x.2.1 ((src.drop x.1).take x.2.1)
  else if k = 2 then
    forEach (cAll e fun r => decide (r = rank)) s fun s x =>
      forEach (cPhases e) s fun s p => cCopyOn s c e i own own x.2.1 x.2.2.1 x.2.2.2 p
  else forEach (cAll e fun _ => true) s fun s x => cEnter s c e i own (chunkRanks e x.1) x.2.1 x.2.2.1 x.2.2.2 (cPhases e)
/-- FAB_COLLECTIVE_STEP: the i-th started FAB descriptor of a tile starts its instance; instances run in issue order,
one at a time (R230, R231). -/
def fabCollectiveEffect (t i : Nat) (s : State) : State :=
  match pickDesc s t 7 i, tileCtx s t with
  | some d, some c =>
    if d.fld 2 31 28 ≠ 2 ∨ (ctxOf s c).fab.insts ≠ [] ∨ (firstColl s c).map (·.1) ≠ some d.coll then s
    else
      let m := (ctxOf s c).man
      let e := m.colls.getD (d.fld 10 31 16) []
      let step := d.fld 10 15 0
      let src := cSource e step
      let dst := cResult e step
      match (regionCheck m 0 src.1 src.2).orElse fun _ => regionCheck m 1 dst.1 dst.2 with
      | some (x, k) => failGuard s c t k x d
      | none =>
        let s := meetRanges s 0 c [src]
        match poisonedAt s src.1 src.2 with
        | some x => failMem s c t x
        | none =>
          let bs := devRead s src.1 src.2
          let rank := cOwn s c e
          let n : CollInst :=
            { id := d.fld 10 31 16, step := step, tile := t, seq := d.seq, pend := cPend e (cRanks s c e) rank, buf := cBuf e rank bs }
          let s1 := updFab s c fun f => { f with insts := f.insts ++ [n] }
          collSettle (cLaunch s1 c e n bs) c
  | _, _ => s
/-- FAB_COLLECTIVE_STEP. -/
def execFabCollectiveStep (t : TileId) (i : Nat) (s : State) : Host.Outcome State Fault Refusal := .next (fabCollectiveEffect t.val i s)
/-- COLLECTIVE_TIMEOUT (R231). -/
def collectiveTimeoutEffect (c id step : Nat) (s : State) : State :=
  if (ctxOf s c).fab.insts.any fun i => decide (i.id = id ∧ i.step = step) then remoteTimeout s c 2 0xFFFF else s
/-- COLLECTIVE_TIMEOUT. -/
def execCollectiveTimeout (c : Ctx) (collId step : Nat) (s : State) : Host.Outcome State Fault Refusal :=
  .next (collectiveTimeoutEffect c.val collId step s)

/-! ### Notices (R255 to R258) -/

/-- A packet is a notice of a kind for this part. -/
def isNotice (s : State) (p : Packet) (kind : Nat) : Bool := decide (p.ty = 9 ∧ fld p.aux 31 24 = kind ∧ p.dst = ownCoord s)
/-- A CTRL packet addressed to a part in compute reset is discarded and counted (R217). -/
def unlessReset (s : State) (t : State) : State := if s.boot.resetting then countDiscard s else t
/-- ABSENT_NOTICE (R255). -/
def absentNoticeEffect (port : Nat) (p : Packet) (s : State) : State :=
  if isNotice s p 0x10 then goAbsent s (lat p.payload 0 2) (lat p.payload 4 1) (lat p.payload 2 2) (some port) else s
@[inherit_doc absentNoticeEffect] def execAbsentNotice (port : Port) (p : Packet) (s : State) : Host.Outcome State Fault Refusal := .next (unlessReset s (absentNoticeEffect port.val p s))
/-- PRESENT_NOTICE (R255, R256). -/
def presentNoticeEffect (port : Nat) (p : Packet) (s : State) : State :=
  if isNotice s p 0x11 then goPresent s (lat p.payload 0 2) (lat p.payload 2 2) (some port) else s
@[inherit_doc presentNoticeEffect] def execPresentNotice (port : Port) (p : Packet) (s : State) : Host.Outcome State Fault Refusal := .next (unlessReset s (presentNoticeEffect port.val p s))
/-- JOB_LOST_NOTICE (R248, R256, R258). -/
def jobLostNoticeEffect (port : Nat) (p : Packet) (s : State) : State :=
  let fj := lat p.payload 0 2
  if ¬ isNotice s p 0x12 ∨ hasKey s 0x12 fj 0 then s
  else
    let s1 := flood (addKey s 0x12 fj 0) 0x12 fj p.payload (some port)
    match ctxOfFabricJob s1 fj with
    | some c => if autoPlough s1 c then ploughFrom s1 c .abort 3 else s1
    | none => s1
@[inherit_doc jobLostNoticeEffect] def execJobLostNotice (port : Port) (p : Packet) (s : State) : Host.Outcome State Fault Refusal := .next (unlessReset s (jobLostNoticeEffect port.val p s))
/-- PLOUGH_NOTICE (R256, R258). -/
def ploughNoticeEffect (port : Nat) (p : Packet) (s : State) : State :=
  let fj := lat p.payload 0 2
  let mode := lat p.payload 4 1
  if ¬ isNotice s p 0x13 ∨ hasKey s 0x13 fj mode then s
  else
    let s1 := flood (addKey s 0x13 fj mode) 0x13 fj p.payload (some port)
    match ctxOfFabricJob s1 fj with
    | some c => ploughStart s1 c (if mode = 1 then .abort else .finish) (lat p.payload 5 1 % 16)
    | none => s1
@[inherit_doc ploughNoticeEffect] def execPloughNotice (port : Port) (p : Packet) (s : State) : Host.Outcome State Fault Refusal := .next (unlessReset s (ploughNoticeEffect port.val p s))
/-- FW (R206): the message is for device firmware, which defines it; no state of the spec changes (log 67, DESIGN CHOICE). -/
def execFw (_p : Packet) (s : State) : Host.Outcome State Fault Refusal := .next s

end Sys2Proof.Machine
end

