-- ==== Sys2Proof/Machine/Post.lean ====
section
/-! DEFINITION. The POST units: command rings, box decoding, non-maximum suppression, completion
(spec/04_convolution_and_post.md, R126 to R134). -/

namespace Sys2Proof.Machine

/-- A field of a command record (R127). -/
def postF (w : List Word) (i hi lo : Nat) : Nat := fld (w.getD i 0) hi lo
/-- A 41-bit address of a command record: words i and i + 1 (R127). -/
def postAddr (w : List Word) (i : Nat) : Nat := (w.getD i 0).toNat + 2 ^ 32 * postF w (i + 1) 8 0
/-- Head and tail of a context's ring on a die (R126); an index of slots or more counts modulo slots (log 93, DESIGN CHOICE). -/
def postHead (s : State) (d c : Nat) : Nat := devNat s ((postRing s d c).1 + 4) 4 % max 1 (postRing s d c).2
@[inherit_doc postHead] def postTail (s : State) (d c : Nat) : Nat := devNat s (postRing s d c).1 4 % max 1 (postRing s d c).2
/-- The ring has pending work, and its job is RUNNING, or DRAINING with a command that was pending when the drain started
(R126, R134, R349). -/
def postWork (s : State) (d c : Nat) : Bool :=
  let j := ctxOf s c
  let end_ := mget j.bnd.postTail 0 d % max 1 (postRing s d c).2
  (j.state == .running || (j.state == .draining && decide (postHead s d c ≠ end_))) && decide ((postRing s d c).2 ≠ 0)
    && decide (postHead s d c ≠ postTail s d c)
/-- GUARD_FAULT of a POST unit (R129, R154). -/
def postGuard (s : State) (d c slot cause a : Nat) : State :=
  guardFault s c { unit := 1, inst := d, word := slot, cause := cause, b := a }
/-- Reserved op, reserved field non-zero, or a count out of range (R127, R129 error 0x01). -/
def postBad (w : List Word) : Bool :=
  let f := postF w
  !(decide (f 0 31 28 = 1) || decide (f 0 31 28 = 2)) || decide (f 0 24 9 ≠ 0)
    || !(decide (1 ≤ f 0 8 0 ∧ f 0 8 0 ≤ 256)) || !(decide (1 ≤ f 1 31 16 ∧ f 1 31 16 ≤ 4096))
    || decide (f 3 31 9 ≠ 0 ∨ f 5 31 9 ≠ 0 ∨ f 7 31 9 ≠ 0 ∨ f 9 31 9 ≠ 0 ∨ f 11 31 9 ≠ 0)
    || (decide (f 0 31 28 = 2) && decide (postAddr w 6 ≠ 0))
    || decide (f 12 31 17 ≠ 0) || !(decide (1 ≤ f 12 16 0 ∧ f 12 16 0 ≤ 65536)) || decide (f 13 13 0 ≠ 0)
/-- Parameter block: FP32 word i (R128), read under R32. -/
def postPrm (p : List Byte) (i : Nat) : Word := canon32 (BitVec.ofNat 32 (lat p (4 * i) 4))
/-- Errors of the parameter block (R128, R129); 0 for none. -/
def postPrmErr (w : List Word) (p : List Byte) : Nat :=
  let iou := postPrm p 1
  let good := fun x => pos32 x && isFin32 x
  if (p.drop 36).any (· ≠ 0) then 1
  else if isNan32 (postPrm p 0) || isNan32 iou || isNan32 (postPrm p 6) || !(le32 0 iou && le32 iou 0x3F800000) then 2
  else if bit (postF w 0 27 27) 0 && !(good (postPrm p 7) && good (postPrm p 8)) then 3
  else 0
/-- Bytes of a score or delta (R127). -/
def postElem (bf : Nat) : Nat := if bf = 1 then 2 else 4
/-- The input ranges of a command (R127, R128). -/
def postInputs (w : List Word) : List (Nat × Nat) :=
  let n := postF w 12 16 0
  [(postAddr w 2, 64), (postAddr w 4, 16 * n), (postAddr w 8, n * postF w 0 8 0 * postElem (postF w 0 26 26))]
    ++ (if postF w 0 31 28 = 1 then [(postAddr w 6, 4 * n * postElem (postF w 0 25 25))] else [])
/-- W14 of a command that ends with an error and no output (R129). -/
def postErr (e : Nat) : List (List Byte) × Nat × Nat := ([], 2 ^ 31 + e * 2 ^ 24, 0)
/-- A unit starts on a command; the next poll begins after its context (R126). -/
def postStart (s : State) (d : Nat) (x : PostRun) : State :=
  { s with post := { s.post with run := mset s.post.run none d (some x), rr := mset s.post.rr 7 d x.ctx } }
/-- A unit checks the command words it has read, in this order: tile, reserved fields, guards of its inputs, poison,
parameter block; then it starts (R127 to R129, R154) (log 51, DEDUCED). -/
def postAdmit (s0 : State) (d c slot : Nat) (w : List Word) : State :=
  let s := meetRanges s0 0 c (postInputs w)
  let run := fun r => postStart s d ⟨c, slot, w, r⟩
  let tile := postF w 13 30 22
  if bit (postF w 13 31 31) 0 && !holdsTile s c tile then postGuard s d c slot 4 tile
  else if postBad w then run (some (postErr 1))
  else match (postInputs w).findSome? fun r => regionCheck (ctxOf s c).man 0 r.1 r.2 with
    | some (x, k) => postGuard s d c slot k x
    | none => match (postInputs w).findSome? fun r => poisonedAt s r.1 r.2 with
      | some x => memFault s c 1 d x
      | none =>
        let e := postPrmErr w (devRead s (postAddr w 2) 64)
        if e = 0 then run none else run (some (postErr e))
/-- The 16 words of the command in a ring's slot (R127). -/
def postWords (s : State) (d c slot : Nat) : List Word :=
  (List.range 16).map fun i => BitVec.ofNat 32 (devNat s ((postRing s d c).1 + 64 + 64 * slot + 4 * i) 4)
/-- A unit takes the command at the head of a context's ring; one with an error is ready to complete at once, and one that
fails a guard or reads poison tears the job down (R126, R129, R153, R247). -/
def postTake (s0 : State) (d c : Nat) : State :=
  let slot := postHead s0 d c
  let a := (postRing s0 d c).1 + 64 + 64 * slot
  let s := meetRanges s0 0 c [(a, 64)]
  match poisonedAt s a 64 with
  | some x => memFault s c 1 d x
  | none => postAdmit s d c slot (postWords s d c slot)
/-- An idle unit reads its rings' tails and takes the next command, round-robin over the contexts (R126). -/
def postRingPollEffect (d : Nat) (s : State) : State :=
  if (mget s.post.run none d).isSome ∨ s.pwr.state ≠ .active then s
  else match ((List.range 8).map fun i => (mget s.post.rr 7 d + 1 + i) % 8).find? (postWork s d) with
    | none => s
    | some c =>
      let r := postRing s d c
      match regionCheck (ctxOf s c).man 1 r.1 64, regionCheck (ctxOf s c).man 0 (r.1 + 64 + 64 * postHead s d c) 64 with
      | some (x, k), _ => postGuard s d c (postHead s d c) k x
      | none, some (x, k) => postGuard s d c (postHead s d c) k x
      | none, none => postTake s d c
/-- POST_RING_POLL. -/
def execPostRingPoll (d : DieId) (s : State) : Host.Outcome State Fault Refusal := .next (postRingPollEffect d.val s)

/-! ### Boxes (R130, R131) -/

/-- A box: x1, y1, x2, y2. -/
structure Box where
  x1 : Word
  y1 : Word
  x2 : Word
  y2 : Word
deriving DecidableEq, Repr

/-- FP32 element `i` at an address, read under R32. -/
def postWord (s : State) (a i : Nat) : Word := canon32 (BitVec.ofNat 32 (devNat s (a + 4 * i) 4))
/-- Element `i` in FP32 or BF16, widened exactly (R128). -/
def postRead (s : State) (bf a i : Nat) : Word := if bf = 1 then widen .bf16 (devNat s (a + 2 * i) 2) else postWord s a i
/-- Decode a candidate (R130): anchor (cx, cy, w, h), deltas, parameter block. -/
def postDecode (p : List Byte) (clip : Bool) (cx cy w h tx ty tw th : Word) : Box :=
  let v := postPrm p
  let x := fma32 (mul32 tx (v 2)) w cx
  let y := fma32 (mul32 ty (v 3)) h cy
  let bw := mul32 w (trans32 7 (min32 (mul32 tw (v 4)) (v 6)))
  let bh := mul32 h (trans32 7 (min32 (mul32 th (v 5)) (v 6)))
  let hw := mul32 bw 0x3F000000
  let hh := mul32 bh 0x3F000000
  let cl := fun z m => if clip then min32 (max32 z 0) m else z
  ⟨cl (sub32 x hw) (v 7), cl (sub32 y hh) (v 8), cl (add32 x hw) (v 7), cl (add32 y hh) (v 8)⟩
/-- Every coordinate is finite. -/
def boxFin (b : Box) : Bool := isFin32 b.x1 && isFin32 b.y1 && isFin32 b.x2 && isFin32 b.y2
/-- Box of candidate `i` of op 1; none when dropped (R130). -/
def decodedBox (s : State) (w : List Word) (p : List Byte) (i : Nat) : Option Box :=
  let an := fun k => postWord s (postAddr w 4) (4 * i + k)
  let de := fun k => postRead s (postF w 0 25 25) (postAddr w 6) (4 * i + k)
  if (List.range 4).all fun k => isFin32 (an k) && isFin32 (de k) then
    let b := postDecode p (postF w 0 27 27 = 1) (an 0) (an 1) (an 2) (an 3) (de 0) (de 1) (de 2) (de 3)
    if boxFin b then some b else none
  else none
/-- Box of candidate `i` of op 2; none when dropped (R130). -/
def givenBox (s : State) (w : List Word) (i : Nat) : Option Box :=
  let g := fun k => postWord s (postAddr w 4) (4 * i + k)
  let b : Box := ⟨g 0, g 1, g 2, g 3⟩
  if boxFin b && !lt32 b.x2 b.x1 && !lt32 b.y2 b.y1 then some b else none
/-- Overlap of two boxes (R131). -/
def iou (p q : Box) : Word :=
  let iw := max32 0 (sub32 (min32 p.x2 q.x2) (max32 p.x1 q.x1))
  let ih := max32 0 (sub32 (min32 p.y2 q.y2) (max32 p.y1 q.y1))
  let inter := mul32 iw ih
  let ap := mul32 (sub32 p.x2 p.x1) (sub32 p.y2 p.y1)
  let aq := mul32 (sub32 q.x2 q.x1) (sub32 q.y2 q.y1)
  let u := sub32 (add32 ap aq) inter
  if lt32 0 u then div32 inter u else 0

/-- A kept entry: score, class, candidate, box. -/
structure Hit where
  score : Word
  cls : Nat
  cand : Nat
  box : Box
deriving DecidableEq, Repr

/-- Insert after every entry of at least the score (R131, R132): a stable descending sort. -/
def hitIns (h : Hit) : List Hit → List Hit
  | [] => [h]
  | x :: t => if lt32 x.score h.score then h :: x :: t else x :: hitIns h t
/-- Sort by score descending, equal scores in the order given. -/
def hitSort (hs : List Hit) : List Hit := hs.foldl (fun l h => hitIns h l) []
/-- Suppression within a class (R131). -/
def nmsClass (thr iouThr : Word) (hs : List Hit) : List Hit :=
  (hitSort (hs.filter fun h => lt32 thr h.score)).foldl
    (fun kept h => if kept.all fun k => le32 (iou h.box k.box) iouThr then kept ++ [h] else kept) []
/-- The 32-byte output record (R132). -/
def hitBytes (h : Hit) : List Byte :=
  leBytes 4 h.box.x1.toNat ++ leBytes 4 h.box.y1.toNat ++ leBytes 4 h.box.x2.toNat ++ leBytes 4 h.box.y2.toNat
    ++ leBytes 4 h.score.toNat ++ leBytes 2 h.cls ++ leBytes 2 0 ++ leBytes 4 h.cand ++ leBytes 4 0
/-- All candidates of a class, in increasing index. -/
def classHits (s : State) (w : List Word) (boxes : List (Option Box)) (c : Nat) : List Hit :=
  boxes.zipIdx.filterMap fun b =>
    b.1.map fun x => ⟨postRead s (postF w 0 26 26) (postAddr w 8) (b.2 * postF w 0 8 0 + c), c, b.2, x⟩
/-- Run a command over the boxes of its candidates (R131, R132): the records, W14 and W15. -/
def postResult (s : State) (w : List Word) (p : List Byte) (boxes : List (Option Box)) : List (List Byte) × Nat × Nat :=
  let cs := (List.range (postF w 0 8 0)).filter (· ≠ postF w 1 15 0)
  let kept := hitSort (cs.flatMap fun c => nmsClass (postPrm p 0) (postPrm p 1) (classHits s w boxes c))
  let out := kept.take (postF w 1 31 16)
  (out.map hitBytes, 2 ^ 31 + out.length, (boxes.filter (·.isNone)).length)
/-- Run the command that a unit holds, if it has this op and is not yet run. -/
def postRunOp (s : State) (d op : Nat) (box : List Word → List Byte → Nat → Option Box) : State :=
  match mget s.post.run none d with
  | some r =>
    if r.result ≠ none ∨ postF r.w 0 31 28 ≠ op then s
    else
      let p := devRead s (postAddr r.w 2) 64
      let boxes := (List.range (postF r.w 12 16 0)).map (box r.w p)
      { s with post := { s.post with run := mset s.post.run none d (some { r with result := some (postResult s r.w p boxes) }) } }
  | none => s
/-- Op 1: decode and NMS (R130 to R132). -/
def decodeAndNmsEffect (d : Nat) (s : State) : State := postRunOp s d 1 (decodedBox s)
/-- DECODE_AND_NMS. -/
def execDecodeAndNms (d : DieId) (s : State) : Host.Outcome State Fault Refusal := .next (decodeAndNmsEffect d.val s)
/-- Op 2: NMS on given boxes (R130 to R132). -/
def nmsEffect (d : Nat) (s : State) : State := postRunOp s d 2 fun w _ i => givenBox s w i
/-- NMS. -/
def execNms (d : DieId) (s : State) : Host.Outcome State Fault Refusal := .next (nmsEffect d.val s)

/-! ### Completion (R133) -/

/-- The signal of a completed command (R133, R76). -/
def postSignal (s : State) (d : Nat) (r : PostRun) : State :=
  let tile := postF r.w 13 30 22
  if postF r.w 13 31 31 = 0 then s
  else if holdsTile s r.ctx tile then
    semSignal s tile (postF r.w 13 21 14) 1 { tile := tile, unit := 1, inst := d, word := r.slot }
  else postGuard s d r.ctx r.slot 4 tile
/-- Records, W15, W14, head, signal, in that order (R133) (log 51, DEDUCED). -/
def postCommandCompleteEffect (d : Nat) (s : State) : State :=
  match mget s.post.run none d with
  | none => s
  | some r => match r.result with
    | none => s
    | some (recs, w14, w15) =>
      let ring := postRing s d r.ctx
      let at_ := ring.1 + 64 + 64 * r.slot
      let out := recs.flatten
      match regionCheck (ctxOf s r.ctx).man 1 (postAddr r.w 10) out.length, regionCheck (ctxOf s r.ctx).man 1 (at_ + 56) 8 with
      | some (x, k), _ => postGuard s d r.ctx r.slot k x
      | none, some (x, k) => postGuard s d r.ctx r.slot k x
      | none, none =>
        let s1 := devWrite s none (postAddr r.w 10) out
        let s2 := devWrite (devWrite s1 none (at_ + 60) (leBytes 4 w15)) none (at_ + 56) (leBytes 4 w14)
        let s3 := devWrite s2 none (ring.1 + 4) (leBytes 4 ((r.slot + 1) % max 1 ring.2))
        let s4 := bump { s3 with post := { s3.post with run := mset s3.post.run none d none } } (postPage d + 0x108) 1
        postSignal s4 d r
/-- POST_COMMAND_COMPLETE. -/
def execPostCommandComplete (d : DieId) (s : State) : Host.Outcome State Fault Refusal := .next (postCommandCompleteEffect d.val s)

end Sys2Proof.Machine
end

