-- ==== Sys2Proof/Machine/Shaper.lean ====
section
/-! DEFINITION. What a shaper and the audio front end compute: a picture in, a tensor out
(spec/09_media_ingest.md, R292, R296 to R307). -/

namespace Sys2Proof.Machine

/-! ### Pictures -/

/-- A picture as a shaper reads it: size, chroma code (R286), depth, and the code of a sample by plane, x and y. -/
structure Pict where
  w : Nat
  h : Nat
  chroma : Nat
  depth : Nat
  px : Nat → Nat → Nat → Nat

/-- Number of a sample of a picture, by plane, x and y. -/
def sampleNo (p x y : Nat) : Nat := (p * 65536 + y) * 65536 + x
/-- A big- or little-endian number of a DPX file, as its magic says (log 101, PRESUMED). -/
def dpxNum (b : List Byte) (o n : Nat) : Nat := if lat b 0 4 = 0x58504453 then leNat ((b.drop o).take n).reverse else lat b o n
/-- The file is of the kind that R276 names: 10-bit, packing method A, descriptor 50 or 6 (log 101, PRESUMED). -/
def dpxKnown (b : List Byte) : Bool :=
  decide ((lat b 0 4 = 0x58504453 ∨ lat b 0 4 = 0x53445058) ∧ dpxNum b 803 1 = 10 ∧ dpxNum b 804 2 = 1 ∧
    (dpxNum b 800 1 = 50 ∨ dpxNum b 800 1 = 6))
/-- Words of a row of a DPX image: one a pixel of RGB, one for three samples of luma (log 101, PRESUMED). -/
def dpxWords (w : Nat) (rgb : Bool) : Nat := if rgb then w else cdiv w 3
/-- Bytes of the file that rows 0 to y take. -/
def dpxEnd (b : List Byte) (w y : Nat) (rgb : Bool) : Nat := dpxNum b 4 4 + 4 * dpxWords w rgb * (y + 1)
/-- The file ends within its rows (R291). -/
def dpxShort (b : List Byte) (w h : Nat) (rgb : Bool) : Bool := decide (b.length < dpxEnd b w (h - 1) rgb)
/-- A 10-bit sample of a DPX image: of RGB in bits 31:22, 21:12 and 11:2 of a word, of luma from bits 11:2 up (log 101,
PRESUMED). -/
def dpxSample (b : List Byte) (w : Nat) (rgb : Bool) (p x y : Nat) : Nat :=
  let word := fun (i : Nat) => dpxNum b (dpxNum b 4 4 + 4 * (dpxWords w rgb * y + i)) 4
  if rgb then bits (word x) (31 - 10 * p) (22 - 10 * p) else bits (word (x / 3)) (11 + 10 * (x % 3)) (2 + 10 * (x % 3))
/-- Code of a sample of a decoded picture (R291 to R293): concealed samples come from the picture copied, or are mid-grey. A
unit is concealed from its first damaged block to its end; of a DPX image, the rows from the first short byte on. -/
def picSample : Pic → Nat → Nat → Nat
  | .grey, d, _ => 2 ^ (d - 1)
  | .dec stream concealed repl from_, d, i =>
    let u := Config.sampleUnit stream i
    if concealed.any fun c => decide (c.1 = 0xFFFF ∨ (c.1 = u.1 ∧ c.2 ≤ u.2)) then picSample from_ d i
    else Config.decodedSample stream (fun k => picSample repl d k) i % 2 ^ d
  | .dpx b w rgb whole from_, d, i =>
    if whole ∨ b.length < dpxEnd b w (i / 65536 % 65536) rgb then picSample from_ d i
    else dpxSample b w rgb (i / 2 ^ 32) (i % 65536) (i / 65536 % 65536) % 2 ^ d
/-- Horizontal and vertical chroma subsampling (R286). -/
def subX (chroma : Nat) : Nat := if chroma = 1 ∨ chroma = 2 then 2 else 1
@[inherit_doc subX] def subY (chroma : Nat) : Nat := if chroma = 1 then 2 else 1
/-- Planes of a picture. -/
def planes (chroma : Nat) : Nat := if chroma = 0 then 1 else 3
/-- Width of plane p (R286). -/
def planeW (chroma w p : Nat) : Nat := if p = 0 then w else cdiv w (subX chroma)
@[inherit_doc planeW] def planeH (chroma h p : Nat) : Nat := if p = 0 then h else cdiv h (subY chroma)

/-! ### FP32 pieces -/

/-- An integer as FP32. -/
def fpN (n : Int) : Word := ofInt32 n
/-- k × 2^e as FP32, for whole k and any e. -/
def fpPow (k : Int) (e : Int) : Word :=
  if 0 ≤ e then fpN (k * 2 ^ e.toNat) else div32 (fpN k) (fpN (2 ^ (-e).toNat))
/-- pow(v, γ) of R300. -/
def pow32 (v g : Word) : Word :=
  if g = 0x3F800000 then v
  else if abs32 v = 0 then 0
  else
    let m := trans32 0 (mul32 g (trans32 1 (abs32 v)))
    if v.msb then neg32 m else m
/-- A row of a 3 × 3 matrix times a vector, in the order of R300. -/
def mat3 (m0 m1 m2 : Word) (v : List Word) : Word :=
  fma32 m2 (v.getD 2 0) (fma32 m1 (v.getD 1 0) (mul32 m0 (v.getD 0 0)))

/-! ### Resize (R301) -/

/-- sinc of R301. -/
def sinc32 (x : Word) : Word :=
  if abs32 x = 0 then 0x3F800000
  else
    let p := mul32 0x40490FDB x
    div32 (trans32 4 p) p
/-- Lanczos-3. -/
def lanczos3 (x : Word) : Word := if lt32 (abs32 x) 0x40400000 then mul32 (sinc32 x) (sinc32 (div32 x 0x40400000)) else 0
/-- Bicubic. -/
def bicubic (x : Word) : Word :=
  let a := abs32 x
  let a2 := mul32 a a
  let a3 := mul32 a2 a
  if le32 a 0x3F800000 then add32 (sub32 (mul32 0x3FC00000 a3) (mul32 0x40200000 a2)) 0x3F800000
  else if lt32 a 0x40000000 then
    add32 (sub32 (add32 (mul32 0xBF000000 a3) (mul32 0x40200000 a2)) (mul32 0x40800000 a)) 0x40000000
  else 0
/-- clamp(i, 0, n − 1). -/
def clampIx (i : Int) (n : Nat) : Nat := if i < 0 then 0 else min i.toNat (n - 1)
/-- The integers from lo to hi. -/
def intRange (lo hi : Int) : List Int := (List.range (hi + 1 - lo).toNat).map fun k => lo + (k : Int)
/-- The weighted sum of R301 over taps in increasing i. -/
def tapSum (src : Nat → Word) (n : Nat) (ws : List (Int × Word)) : Word :=
  let t := (ws.map (·.2)).foldl add32 0
  (ws.map fun p => mul32 (div32 p.2 t) (src (clampIx p.1 n))).foldl add32 0
/-- Taps about a centre c with radius R × s (R301). -/
def kernTaps (kern : Word → Word) (r s c : Word) : List (Int × Word) :=
  let e := mul32 r s
  (intRange (floorFv (f32 (sub32 c e)) + 1) (floorFv (f32 (add32 c e)))).map fun i => (i, kern (div32 (sub32 (fpN i) c) s))
/-- Taps of the area rule: overlaps of [i, i + 1) with [o × r, (o + 1) × r), divided by r (R301) (log 56, DEDUCED). -/
def areaTaps (r : Word) (o : Nat) : List (Int × Word) :=
  let lo := mul32 (fpN o) r
  let hi := mul32 (fpN (o + 1 : Nat)) r
  ((intRange (floorFv (f32 lo)) (floorFv (f32 hi))).map fun i =>
    (i, div32 (sub32 (min32 (fpN (i + 1)) hi) (max32 (fpN i) lo)) r)).filter fun p => pos32 p.2
/-- resize_1d for one output (R301): `k` 1 Lanczos-3, 2 bicubic, 3 area, else none. -/
def resize1 (k nIn nOut : Nat) (src : Nat → Word) (o : Nat) : Word :=
  let r := div32 (fpN nIn) (fpN nOut)
  let s := max32 0x3F800000 r
  let c := sub32 (mul32 (add32 (fpN o) 0x3F000000) r) 0x3F000000
  if k = 1 then tapSum src nIn (kernTaps lanczos3 0x40400000 s c)
  else if k = 2 then tapSum src nIn (kernTaps bicubic 0x40000000 s c)
  else if k = 3 then tapSum src nIn (areaTaps r o)
  else src o
/-- Chroma brought to the luma grid in one direction (R296): co-sited with even samples, or centred between. -/
def chromaUp (nIn : Nat) (cosited : Bool) (src : Nat → Word) (o : Nat) : Word :=
  let c := if cosited then mul32 (fpN o) 0x3F000000 else sub32 (mul32 (add32 (fpN o) 0x3F000000) 0x3F000000) 0x3F000000
  tapSum src nIn (kernTaps bicubic 0x40000000 0x3F800000 c)

/-! ### The shaping block (R297, R298) -/

/-- FP32 field of the block. -/
def blkF (b : List Byte) (o : Nat) : Word := wordAt b o
/-- Element size of the output format (R297). -/
def blkSize (b : List Byte) : Nat := if lat b 0xD 1 = 4 then 1 else 2
/-- Resize target: width and height (R301). -/
def blkTarget (b : List Byte) (outW outH : Nat) : Nat × Nat := if bit (lat b 9 1) 0 then (outH, outW) else (outW, outH)
/-- The block is refused with BAD_DESCRIPTOR for a picture of w × h (R297, R298, R305). -/
def blkBad (b : List Byte) (w h outW outH stride : Nat) : Bool :=
  let cw := lat b 4 2
  let ch := lat b 6 2
  let t := blkTarget b outW outH
  let k := lat b 8 1
  let lim := if k = 3 then 16 else 8
  let f := lat b 0xD 1
  (b.drop 0x88).any (· ≠ 0) || decide (3 < k ∨ 7 < lat b 9 1 ∨ 2 < lat b 0xA 1 ∨ 1 < lat b 0xB 1 ∨ 2 < lat b 0xC 1 ∨ (f ≠ 1 ∧ f ≠ 4))
    || ([0x10, 0x14, 0x6C, 0x70] ++ (List.range 21).map (0x18 + 4 * ·)).any (fun o => !isFin32 (blkF b o))
    || !pos32 (blkF b 0x10) || !pos32 (blkF b 0x14)
    || decide (cw = 0 ∨ ch = 0 ∨ w < lat b 0 2 + cw ∨ h < lat b 2 2 + ch)
    || decide (k = 0 ∧ (cw, ch) ≠ t) || decide (1 ≤ k ∧ (lim * t.1 < cw ∨ lim * t.2 < ch))
    || decide (stride < outW * 32 * blkSize b)
/-- Philox noise of R303. -/
def shapeNoise (p ch sample seed : Nat) : Word :=
  let o := philox (BitVec.ofNat 32 p, BitVec.ofNat 32 ch, BitVec.ofNat 32 sample, 0x4E534859)
    (BitVec.ofNat 32 seed, BitVec.ofNat 32 (seed / 2 ^ 32))
  let u1 := mul32 (fpN (o.1.toNat / 256 + 1 : Nat)) 0x33800000
  let u2 := mul32 (fpN (o.2.1.toNat / 256 : Nat)) 0x33800000
  mul32 (sqrt32 (mul32 0xBFB17218 (trans32 1 u1))) (trans32 5 (mul32 0x40C90FDB u2))

/-! ### The stages (R296 to R305) -/

/-- Stage 1: film grain on the codes of a picture, of its depth and subsampling (R304). -/
def grainedPict (params : List Byte) (seed : Option Nat) (p : Pict) : Pict :=
  { p with px := fun pl x y => Config.grained params seed p.w p.h p.chroma p.depth p.px pl x y % 2 ^ p.depth }
/-- Stage 2: a code as FP32 (R299). -/
def stage2 (b : List Byte) (p : Pict) (pl x y : Nat) : Word :=
  let v := fpN (p.px pl x y : Nat)
  let d : Int := p.depth
  let rgb := lat b 0xA 1 = 2
  let full := lat b 0xB 1 = 1
  if pl = 0 ∨ rgb then
    (if full then div32 v (fpN (2 ^ p.depth - 1)) else div32 (sub32 v (fpPow 16 (d - 8))) (fpPow 219 (d - 8)))
  else if full then div32 (sub32 v (fpPow 1 (d - 1))) (fpN (2 ^ p.depth - 1))
  else div32 (sub32 v (fpPow 128 (d - 8))) (fpPow 224 (d - 8))
/-- Stage 3: chroma on the luma grid (R296). `site`: left-sited, vertically centred (log 56, DEDUCED). -/
def stage3 (p : Pict) (site : Bool × Bool) (v : Nat → Nat → Nat → Word) (pl x y : Nat) : Word :=
  if pl = 0 then v 0 x y
  else if p.chroma = 0 then 0
  else
    let cw := planeW p.chroma p.w pl
    let ch := planeH p.chroma p.h pl
    let row := fun (j : Nat) => if subX p.chroma = 2 then chromaUp cw site.1 (fun i => v pl i j) x else v pl x j
    if subY p.chroma = 2 then chromaUp ch (!site.2) row y else row y
/-- Stage 5: YCbCr to RGB (R299), with 2(1 − Kr), 2(1 − Kb) and the coefficients of G. -/
def stage5 (b : List Byte) (v : List Word) : List Word :=
  let y := v.getD 0 0
  let cb := v.getD 1 0
  let cr := v.getD 2 0
  let k : Word × Word × Word × Word := if lat b 0xA 1 = 0 then (0x3FC9930C, 0x3FED844D, 0x3E3FD1EF, 0x3EEFADFC)
    else (0x3FBCBFB1, 0x3FF0D1B7, 0x3E28809D, 0x3F124433)
  if lat b 0xA 1 = 2 then v
  else [fma32 k.1 cr y, fma32 (neg32 k.2.2.2) cr (fma32 (neg32 k.2.2.1) cb y), fma32 k.2.1 cb y]
/-- Stages 5 to 7 on one pixel. -/
def colourIn (b : List Byte) (v : List Word) : List Word :=
  let rgb := lat b 0xC 1 = 0
  let a := (if rgb then stage5 b v else v).map fun x => pow32 x (blkF b 0x10)
  if rgb then (List.range 3).map fun i => mat3 (blkF b (0x18 + 12 * i)) (blkF b (0x1C + 12 * i)) (blkF b (0x20 + 12 * i)) a else a
/-- Stage 9: where the output pixel (x, y) comes from in the resized picture of W × H (R302). -/
def orientAt (b : List Byte) (outW rw rh x y : Nat) : Nat × Nat :=
  let o := lat b 9 1
  let x := if bit o 2 then outW - 1 - x else x
  let q := o % 4
  if q = 0 then (x, y) else if q = 1 then (y, rh - 1 - x) else if q = 2 then (rw - 1 - x, rh - 1 - y) else (rw - 1 - y, x)
/-- Stages 10 to 12 on one output pixel. -/
def colourOut (b : List Byte) (outW sample x y : Nat) (v : List Word) : List Word :=
  let j := if lat b 0xC 1 = 0 then
      (List.range 3).map fun i =>
        add32 (mat3 (blkF b (0x3C + 12 * i)) (blkF b (0x40 + 12 * i)) (blkF b (0x44 + 12 * i)) v) (blkF b (0x60 + 4 * i))
    else v
  (j.map fun a => pow32 a (blkF b 0x14)).zipIdx.map fun p =>
    if abs32 (blkF b 0x6C) = 0 then p.1
    else add32 p.1 (mul32 (blkF b 0x6C) (shapeNoise (y * outW + x) p.2 sample (lat b 0x78 8)))
/-- Stage 13 on one value (R305). -/
def shapeCode (b : List Byte) (v : Word) : List Byte :=
  let f := if lat b 0xD 1 = 4 then Fmt.f8e4 else Fmt.bf16
  let x := add32 (mul32 v (blkF b 0x70)) (blkF b 0x74)
  leBytes (fmtBytes f) (convMag f none true (f32 x)).code
/-- The three components of the output pixel (x, y) after stage 12 (R296). -/
def shapeAt (b : List Byte) (p : Pict) (site : Bool × Bool) (outW outH sample x y : Nat) : List Word :=
  let t := blkTarget b outW outH
  let src := fun (i j : Nat) =>
    colourIn b ((List.range 3).map fun pl => stage3 p site (stage2 b p) pl (lat b 0 2 + i) (lat b 2 2 + j))
  let hor := fun (k i j : Nat) => resize1 (lat b 8 1) (lat b 4 2) t.1 (fun a => (src a j).getD k 0) i
  let ver := fun (k i j : Nat) => resize1 (lat b 8 1) (lat b 6 2) t.2 (fun a => hor k i a) j
  let q := orientAt b outW t.1 t.2 x y
  colourOut b outW sample x y ((List.range 3).map fun k => ver k q.1 q.2)
/-- A row of the output tensor (R305): 32 channels a pixel, padded with +0. -/
def shapeRow (b : List Byte) (p : Pict) (site : Bool × Bool) (outW outH sample y : Nat) : List Byte :=
  (List.range outW).flatMap fun x =>
    let v := shapeAt b p site outW outH sample x y
    let used := (if lat b 0xC 1 = 1 then v.take 1 else v).flatMap (shapeCode b)
    used ++ List.replicate (32 * blkSize b - used.length) 0

/-! ### Audio (R307) -/

/-- Output rate of a block for a stream's rate (R307). -/
def audioRate (b : List Byte) (rate : Nat) : Nat :=
  let k := lat b 0 1
  if k = 1 then 16000 else if k = 2 then 24000 else if k = 3 then 48000 else rate
/-- An audio block is not as R307 has it, for a stream's sample rate. -/
def audioBad (b : List Byte) (rate : Nat) : Bool :=
  let front := lat b 1 1
  let fft := lat b 0xC 2
  let half := div32 (fpN (audioRate b rate : Nat)) (fpN 2)
  decide (3 < lat b 0 1 ∨ 2 < front ∨ (lat b 2 1 ≠ 1 ∧ lat b 2 1 ≠ 4) ∨ lat b 3 1 ≠ 0 ∨ lat b 6 2 = 0) || (b.drop 0x20).any (· ≠ 0)
    || (decide (1 ≤ front) && decide (fft < 256 ∨ 4096 < fft ∨ 2 ^ Nat.log2 fft ≠ fft ∨ fft < lat b 8 2 ∨ lat b 8 2 = 0 ∨ lat b 0xA 2 = 0))
    || (decide (front = 2) && (decide (lat b 0xE 2 < 1 ∨ 256 < lat b 0xE 2) || !le32 0 (blkF b 0x10) || !lt32 (blkF b 0x10) (blkF b 0x14)
        || !le32 (blkF b 0x14) half || !pos32 (blkF b 0x18) || !isFin32 (blkF b 0x18)))
    || !isFin32 (blkF b 0x1C)
/-- Outer and inner extents of the audio output for L output samples (R307): rows, and values in a row. -/
def audioShape (b : List Byte) (l : Nat) : Nat × Nat :=
  let front := lat b 1 1
  let frames := if lat b 8 2 ≤ l then (l - lat b 8 2) / lat b 0xA 2 + 1 else 0
  if front = 0 then (l, lat b 6 2) else (lat b 6 2 * frames, if front = 1 then lat b 0xC 2 / 2 + 1 else lat b 0xE 2)
/-- Sample n of channel ch of interleaved little-endian PCM (R277): FP32, or an integer times a scale that is not given
(log 99, DESIGN CHOICE). Past the end of the bytes it is 0. -/
def pcmSample (coded : List Byte) (channels bits : Nat) (float : Bool) (ch n : Nat) : Word :=
  let w := bits / 8
  let v := lat coded ((n * channels + ch) * w) w
  if float then canon32 (BitVec.ofNat 32 v) else mul32 (fpN (BitVec.ofNat bits v).toInt) (Config.audioScale bits)
/-- Samples after resampling from `rate` (R307): as coded where the rates agree. The window of 64 input samples lies about
the output sample's place (log 99, DESIGN CHOICE). -/
def resample (b : List Byte) (rate : Nat) (x : Nat → Word) (n : Nat) : Word :=
  let out := audioRate b rate
  if out = rate then x n
  else
    let at_ := n * rate / max 1 out
    Config.resampled rate out (n * rate % max 1 out) ((List.range 64).map fun k => if at_ + k < 31 then 0 else x (at_ + k - 31))
/-- Output samples that an access unit gives (R307). -/
def audioLen (b : List Byte) (rate n : Nat) : Nat := if audioRate b rate = rate then n else Config.outSamples rate (audioRate b rate) n
/-- The Hann window of R307 (log 99, DEDUCED). -/
def hann (win n : Nat) : Word := sub32 0x3F000000 (mul32 0x3F000000 (trans32 5 (div32 (mul32 0x40C90FDB (fpN (n : Nat))) (fpN (win : Nat)))))
/-- Frame t of a channel: win_len samples under the window, padded with zeros to fft samples (R307). -/
def audioFrame (b : List Byte) (x : Nat → Word) (t : Nat) : List Word :=
  let win := lat b 8 2
  (List.range (lat b 0xC 2)).map fun n => if n < win then mul32 (hann win n) (x (t * lat b 0xA 2 + n)) else 0
/-- The power spectrum of a frame (R307). -/
def audioPower (b : List Byte) (x : Nat → Word) (t : Nat) : List Word :=
  let fr := audioFrame b x t
  (List.range (lat b 0xC 2 / 2 + 1)).map fun k => Config.power k fr
/-- The values of row r of an audio output, from the resampled channels (R307): a sample in every channel, or a frame's
spectrum or log-mel energies. -/
def audioRow (b : List Byte) (rate frames : Nat) (x : Nat → Nat → Word) (r : Nat) : List Word :=
  let front := lat b 1 1
  let ch := lat b 4 2 + r / max 1 frames
  if front = 0 then (List.range (lat b 6 2)).map fun c => x (lat b 4 2 + c) r
  else if front = 1 then audioPower b (x ch) (r % max 1 frames)
  else
    let p := audioPower b (x ch) (r % max 1 frames)
    (List.range (lat b 0xE 2)).map fun m =>
      Config.ln32 (max32 (Config.melEnergy (lat b 0xE 2) (audioRate b rate) m (blkF b 0x10) (blkF b 0x14) p) (blkF b 0x18))
/-- The bytes written for one access unit of n coded samples of each channel (R305, R307). -/
def audioBytes (b : List Byte) (rate n : Nat) (sound : Nat → Nat → Word) : List Byte :=
  let s := audioShape b (audioLen b rate n)
  let f := if lat b 2 1 = 4 then Fmt.f8e4 else Fmt.bf16
  let x := fun ch => resample b rate (sound ch)
  (List.range s.1).flatMap fun r =>
    ((audioRow b rate (s.1 / lat b 6 2) x r).flatMap fun v => leBytes (fmtBytes f) (convMag f none true (f32 (mul32 v (blkF b 0x1C)))).code)
      ++ List.replicate ((32 * cdiv s.2 32 - s.2) * fmtBytes f) 0

end Sys2Proof.Machine
end

