-- ==== Sys2Proof/Machine/Loader.lean ====
section
/-! DEFINITION. The manifest and the loader's checks (spec/05_mapping_and_admission.md, R143 to R152, R156;
spec/07_sorius_fabric.md, R227, R229). -/

namespace Sys2Proof.Machine

/-! ### Reading a manifest -/

/-- Entry bytes of a section (R144). -/
def secBytes (k : Nat) : Nat := [32, 16, 8, 8, 8, 4, 64, 0].getD k 0
/-- Directory entry k: offset, count, entry bytes (R143). -/
def secDir (b : List Byte) (k : Nat) : Nat × Nat × Nat :=
  (lat b (0x40 + 8 * k) 4, lat b (0x44 + 8 * k) 2, lat b (0x46 + 8 * k) 2)
/-- Entries of section k. -/
def secEntries (b : List Byte) (k : Nat) : List (List Byte) :=
  let d := secDir b k
  (List.range d.2.1).map fun i => (b.drop (d.1 + secBytes k * i)).take (secBytes k)
/-- Offset of entry i of section k. -/
def entryOff (b : List Byte) (k i : Nat) : Nat := (secDir b k).1 + secBytes k * i

/-- The manifest as the loader keeps it. Regions are not placed yet. -/
def parseManifest (b : List Byte) : Manifest :=
  let mask := lat b 0x1C 4
  let tiles := 16 * ((List.range 32).filter fun n => bit mask n).length
  let sems := (secEntries b 2).foldl (fun m e =>
    let v := lat e 4 2
    if lat e 0 2 = 0xFFFF then (List.range tiles).foldl (fun m j => mset m 0 (j * 256 + lat e 2 1) v) m
    else mset m 0 (lat e 0 2 * 256 + lat e 2 1) v) ([] : NMap Nat)
  { modelId := lat b 0x10 8, kind := lat b 0x18 1, flags := lat b 0x19 1, courseMask := mask, bedWays := lat b 0x24 4,
    fabCredits := lat b 0x28 2, postSlots := lat b 0x2A 2, streamCtx := lat b 0x2C 4, trailMbps := lat b 0x30 4,
    regions := (secEntries b 0).map fun e => ⟨lat e 0 8, lat e 8 8, lat e 16 1, lat e 17 1, lat e 17 1 ≠ 4⟩,
    places := (secEntries b 1).map fun e => ⟨lat e 0 1, lat e 1 1, lat e 4 4, lat e 8 4, lat e 12 4⟩,
    semInit := sems,
    keep := (secEntries b 4).map fun _ => false, keepAddr := lat b 0x34 4,
    colls := secEntries b 6 }

/-! ### MANIFEST_FORMAT -/

/-- First element of a list of (condition that fails, byte offset) (log 62, DEDUCED). -/
def firstBad (xs : List (Bool × Nat)) : Option Nat := (xs.find? (·.1)).map (·.2)
/-- A collective entry breaks R227 or R229. -/
def collBad (e : List Byte) : Bool :=
  let kind := lat e 0 1
  let fmt := lat e 1 1
  let axes := lat e 2 1
  let sel := fun a => bit axes a
  let span := fun a => lat e (4 + a) 1
  let stride := fun a => lat e (8 + a) 1
  let snake := bit axes 3
  let count := ((List.range 3).filter sel).length
  let pick := (List.range 3).filter sel
  let sa := span (pick.getD 0 0)
  let sb := span (pick.getD 1 0)
  decide (kind < 1 ∨ 6 < kind) || (if kind = 1 ∨ kind = 3 then decide (2 < fmt) else decide (fmt ≠ 0))
    || decide (15 < axes) || decide (1 < lat e 3 1) || decide (lat e 7 1 ≠ 0) || decide (lat e 0xB 1 ≠ 0)
    || (List.range 3).any (fun a => decide (span a < 1 ∨ 32 < span a ∨ stride a < 1 ∨ 32 < stride a)
        || (!sel a && decide (span a ≠ 1 ∨ stride a ≠ 1)) || (snake && decide (stride a ≠ 1)))
    || (if kind = 6 then decide (lat e 0xC 8 ≠ 0 ∨ lat e 0x18 8 ≠ 0 ∨ lat e 0x20 8 ≠ 0)
        else decide (lat e 0xC 4 = 0 ∨ lat e 0xC 4 % 128 ≠ 0 ∨ lat e 0x10 4 < 1 ∨ 65536 < lat e 0x10 4
          ∨ lat e 0x18 8 % 64 ≠ 0 ∨ lat e 0x20 8 % 64 ≠ 0))
    || decide (lat e 0x14 4 ≠ 0) || (e.drop 0x28).any (· ≠ 0)
    || decide (span 0 * span 1 * span 2 < 2)
    || (snake && decide (count ≠ 2 ∨ sa % 2 ≠ 0 ∨ sa < 2 ∨ sb < 2 ∨ 64 < sa * sb))
/-- A section 0 entry is malformed (R145, R146); a length of 0 is taken as a reserved value, with the byte offset of the
entry (log 62, DEDUCED) (log 94, DEDUCED). -/
def regionBad (e : List Byte) : Bool :=
  decide (2 ^ 41 ≤ lat e 0 8 ∨ lat e 8 8 = 0 ∨ 31 < lat e 16 1 ∨ 5 < lat e 17 1) || (e.drop 18).any (· ≠ 0)
/-- Entry i of section k breaks a rule that code 0x01 covers (R146, R147, R227); a rewrite code above 2 is taken as a
reserved value (log 94, DEDUCED). -/
def entryBad (b : List Byte) (k : Nat) (e : List Byte) : Bool :=
  let regions := (secDir b 0).2.1
  let tiles := 16 * ((List.range 32).filter fun n => bit (lat b 0x1C 4) n).length
  if k = 0 then regionBad e
  else if k = 1 then decide (regions ≤ lat e 0 1 ∨ lat e 2 2 ≠ 0)
  else if k = 2 then decide ((tiles ≤ lat e 0 2 ∧ lat e 0 2 ≠ 0xFFFF) ∨ lat b 0x1A 2 ≤ lat e 2 1 ∨ lat e 3 1 ≠ 0 ∨ lat e 6 2 ≠ 0)
  else if k = 3 then decide (2 < lat e 4 1) || (e.drop 5).any (· ≠ 0)
  else if k = 4 then decide (regions ≤ lat e 0 1 ∨ lat e 1 1 ≠ 0 ∨ lat e 2 2 ≠ 0)
    || decide (lat ((secEntries b 0).getD (lat e 0 1) []) 17 1 ≠ 4)
  else if k = 6 then collBad e
  else false
/-- Counts that R144 allows for section k. -/
def countBad (b : List Byte) (k : Nat) : Bool :=
  let n := (secDir b k).2.1
  let tiles := 16 * ((List.range 32).filter fun n => bit (lat b 0x1C 4) n).length
  if k = 0 then decide (n < 1 ∨ 256 < n)
  else if k = 1 then decide (4096 < n ∨ (lat b 0x18 1 ≠ 0 ∧ n ≠ 0))
  else if k = 4 then decide (256 < n)
  else if k = 5 then decide (n ≠ if bit (lat b 0x19 1) 0 then tiles else 0)
  else if k = 6 then decide (1024 < n)
  else if k = 7 then decide (n ≠ 0)
  else false
/-- MANIFEST_FORMAT (R143, R144, R146, R147, R227): the byte offset of the first failure in the order of R143. A section
that overlaps the header is refused; entry_bytes of an absent section and keep_map_addr without section 4 entries are not
judged (log 94, DEDUCED). -/
def formatBad (img : List Byte) : Option Nat :=
  let total := lat img 8 4
  let b := img.take total
  let secs := List.range 8
  let live := secs.filter fun k => (secDir b k).2.1 ≠ 0
  let spans := live.map fun k => ((secDir b k).1, (secDir b k).1 + secBytes k * (secDir b k).2.1)
  let flags := lat b 0x19 1
  let head := firstBad [
    (decide (lat img 0 4 ≠ 0x31464D55), 0), (decide (lat img 4 2 ≠ 3), 4), (decide (lat img 6 2 ≠ 128), 6),
    (decide (total < 128 ∨ img.length < total), 8)]
  let dir := firstBad (secs.flatMap fun k =>
    let d := secDir b k
    let out := d.2.1 ≠ 0 ∧ (d.1 < 128 ∨ total < d.1 + secBytes k * d.2.1)
    [(decide (d.2.1 = 0 ∧ d.1 ≠ 0) || decide out, 0x40 + 8 * k), (countBad b k, 0x44 + 8 * k),
     (decide (d.2.1 ≠ 0 ∧ d.2.2 ≠ secBytes k), 0x46 + 8 * k)])
  let fields := firstBad [
    (decide (2 < lat b 0x18 1), 0x18), (decide (15 < flags), 0x19), (decide (lat b 0x1C 4 = 0), 0x1C),
    (decide (lat b 0x20 4 = 0), 0x20), (decide (4096 < lat b 0x2A 2), 0x2A),
    (decide (lat b 0x30 4 ≠ 0 ∧ ¬ bit flags 3), 0x30), (decide ((lat b 0x34 4 % 64 ≠ 0 ∨ 0x140000 ≤ lat b 0x34 4) ∧ (secDir b 4).2.1 ≠ 0), 0x34)]
  let gap := (List.range (min total img.length - 128)).findSome? fun i =>
    let o := 128 + i
    if b.getD o 0 ≠ 0 ∧ ¬ spans.any (fun x => decide (x.1 ≤ o ∧ o < x.2)) then some o else none
  let entry := live.findSome? fun k => (secEntries b k).zipIdx.findSome? fun p =>
    if entryBad b k p.1 then some (entryOff b k p.2) else none
  let crc := if (crc32c (b.take 12 ++ [0, 0, 0, 0] ++ b.drop 16)).toNat ≠ lat b 12 4 then some 12 else none
  [head, dir, fields, gap, entry, crc].findSome? id

/-! ### Regions (R146) -/

/-- The direct-window intervals that a region covers (R13). -/
def intervals (r : Region) : List (Nat × Nat) :=
  if r.base < 0x9000000000 then [(r.base, r.base + r.len)]
  else
    let o := (r.base - 0x10000000000) / 12
    (List.range 12).map fun k => (0xC00000000 * k + o, 0xC00000000 * k + o + r.len / 12)
/-- Two interval lists share a byte. -/
def meet (a b : List (Nat × Nat)) : Bool := a.any fun x => b.any fun y => decide (x.1 < y.2 ∧ y.1 < x.2)
/-- Regions of the loaded jobs (log 14, DESIGN CHOICE). -/
def otherRegions (s : State) : List Region := (loadedCtxs s).flatMap fun c => (ctxOf s c).man.regions
/-- The "Against other jobs" row fails (R146), or the region overlaps a sealed range that waits to be zeroed (R389) (log 14, DESIGN CHOICE). -/
def againstOthers (s : State) (rs : List Region) (r : Region) : Bool :=
  rs.any (fun x => meet (intervals r) (intervals x) &&
    !(bit r.perm 4 && bit x.perm 4 && decide (r.base = x.base ∧ r.len = x.len ∧ r.kind = x.kind)))
  || s.job.zeroing.any fun z => meet (intervals r) (z.2.map fun q => (q.1, q.1 + q.2))
/-- The rows of R146 that concern the region and its own job, for region i. -/
def regionOk (m : Manifest) (tiles : Nat) (i : Nat) (r : Region) : Bool :=
  let direct := r.base + r.len ≤ 0x9000000000
  let striped := 0x10000000000 ≤ r.base ∧ r.base + r.len ≤ 0x19000000000
  let al := if direct then r.base % 4096 = 0 ∧ r.len % 4096 = 0
    else (r.base - 0x10000000000) % 49152 = 0 ∧ r.len % 49152 = 0
  let own := m.regions.zipIdx.all fun p => decide (p.2 = i) || !meet (intervals r) (intervals p.1)
  let rw := bit r.perm 0 && bit r.perm 1 && !bit r.perm 4
  let kinds := if r.kind = 1 then direct && decide (r.base / 0xC00000000 = (r.base + r.len - 1) / 0xC00000000) && rw
    else if r.kind = 3 then decide (4 * (64 + 64 * m.postSlots) ≤ r.len) && rw
    else if r.kind = 5 then decide (r.perm = 0 ∧ 16384 * tiles ≤ r.len) && !m.exclusive
    else if r.kind = 2 then decide (r.perm = 12)
    else true
  (decide (direct ∨ striped)) && decide al && own && !meet (intervals r) [(0x8FF0000000, 0x9000000000)]
    && (!bit r.perm 4 || decide (r.perm = 0x11)) && kinds
/-- A region that the job must have exactly once is there a second time. -/
def repeated (m : Manifest) (i : Nat) (r : Region) : Bool :=
  (decide (r.kind = 5) || decide (r.kind = 3 ∧ 0 < m.postSlots)) && (m.regions.take i).any fun x => decide (x.kind = r.kind)
/-- MEMORY (R146, R189): the failing region, or 0xFFFF_FFFF for one that is missing. -/
def memoryBad (s : State) (m : Manifest) : Option Nat :=
  let tiles := (tilesOf m).length
  let has := fun k => m.regions.any fun r => decide (r.kind = k)
  let bad := m.regions.zipIdx.findSome? fun p =>
    if !regionOk m tiles p.2 p.1 || repeated m p.2 p.1 || (decide (p.1.kind ≠ 4) && againstOthers s (otherRegions s) p.1)
    then some p.2 else none
  let need := 256 + 16448 + 64 + 8256 * (m.places.map (·.records)).sum
  let stagingBad := m.trailExport && (match m.regions.find? fun r => decide (r.kind = 2) with | some r => decide (r.len < need) | none => true)
  match bad with
  | some i => some i
  | none => if (0 < m.postSlots ∧ ¬ has 3) ∨ (m.exclusive = false ∧ ¬ has 5) ∨ stagingBad then some 0xFFFFFFFF else none

/-- Gathered buffers (R156): keep of each entry, and the regions retained. -/
def gatherKeep (s : State) (m : Manifest) (idx : List Nat) (budget : Nat) : List Bool × List Nat :=
  let placed := ((loadedCtxs s).flatMap fun c => (ctxOf s c).man.regions.filter (·.placed))
  let r := idx.foldl (fun (a : Nat × List Bool × List Nat) i =>
    let reg := m.regions.getD i ⟨0, 0, 0, 0, false⟩
    if reg.len ≤ a.1 ∧ ¬ againstOthers s placed reg then (a.1 - reg.len, a.2.1 ++ [true], a.2.2 ++ [i])
    else (a.1, a.2.1 ++ [false], a.2.2)) (budget, [], [])
  r.2

/-! ### The checks of R149 -/

/-- SHARD_PLACEMENT (R147, R160). -/
def placementBad (m : Manifest) : Option Nat :=
  m.places.zipIdx.findSome? fun p =>
    let r := m.regions.getD p.1.region ⟨0, 0, 0, 0, false⟩
    let before := placedBefore m.places p.2 fun q => decide (q.region = p.1.region)
    if r.kind ≠ 1 ∨ r.base / 0xC00000000 ≠ p.1.stack ∨ r.len < recBytes * (before + p.1.records) then some p.2 else none
/-- SHARD_BALANCE (R150). -/
def balanceBad (m : Manifest) : Option Nat :=
  let n := (m.places.map (·.records)).sum
  (List.range 12).find? fun k => decide (cdiv (17 * n) 192 < ((m.places.filter (·.stack = k)).map (·.records)).sum)
/-- Ways that loaded jobs hold on die d. -/
def waysHeld (s : State) (d : Nat) : Nat := ((loadedCtxs s).map fun c => (ctxOf s c).man.ways d).sum
/-- BED_WAYS. -/
def waysBad (s : State) (m : Manifest) : Option Nat :=
  (List.range 4).find? fun d =>
    let course := (m.courseMask >>> (8 * d)) % 256 ≠ 0
    decide ((0 < m.ways d ∧ ¬ course) ∨ 12 < waysHeld s d + m.ways d)
/-- Sum over the loaded jobs. -/
def loadedSum (s : State) (f : Manifest → Nat) : Nat := ((loadedCtxs s).map fun c => f (ctxOf s c).man).sum
/-- COURSES. -/
def coursesBad (s : State) (m : Manifest) : Option Nat :=
  (coursesOf m).find? fun n => (loadedCtxs s).any fun c =>
    let o := (ctxOf s c).man
    bit o.courseMask n && (o.exclusive || m.exclusive)
/-- The context a load takes (R344): the lowest IDLE, else the lowest TORN_DOWN. -/
def loadCtx (s : State) : Option Nat :=
  ((List.range 8).find? fun c => (ctxOf s c).state = .idle).orElse fun _ => (List.range 8).find? fun c => (ctxOf s c).state = .tornDown
/-- First failing check: code and index (R149) (log 62, DEDUCED). -/
def loadFault (s : State) (img : List Byte) : Option (Nat × Nat) :=
  let m := parseManifest img
  let none32 := 0xFFFFFFFF
  let at0 := fun (code : Nat) (c : Bool) => if c then some (code, 0) else none
  let ix := fun (code : Nat) (o : Option Nat) => o.map fun i => (code, i)
  let peaks := (secEntries img 5).map fun e => lat e 0 4
  [ix 0x01 (formatBad img),
   at0 0x02 ((loadedCtxs s).any fun c => decide ((ctxOf s c).man.modelId ≠ m.modelId)),
   at0 0x03 (loadCtx s).isNone,
   at0 0x04 (decide ((rw s 0x710C).toNat % 16 ≤ (loadedCtxs s).length)),
   at0 0x05 ((bit m.flags 1 && m.trailExport) || ((m.resident || bit m.flags 1) && !m.exclusive)),
   ix 0x10 (coursesBad s m),
   ix 0x11 ((coursesOf m).find? fun n => (courseOf s n).fenced),
   ix 0x12 (if 1310720 < lat img 0x20 4 then some none32 else peaks.findIdx? (fun p => decide (1310720 < p))),
   at0 0x13 (decide (256 < lat img 0x1A 2)),
   ix 0x14 (waysBad s m),
   ix 0x15 (memoryBad s m),
   ix 0x16 (placementBad m),
   ix 0x17 (balanceBad m),
   at0 0x18 (decide (14336 < loadedSum s (·.fabCredits) + m.fabCredits)),
   at0 0x19 (decide (262144 < loadedSum s (·.streamCtx) + m.streamCtx)),
   at0 0x1A (decide ((rw s 0x7110).toNat < loadedSum s (·.trailMbps) + m.trailMbps))].findSome? id

/-! ### Making a job live (R151) -/

/-- Steps 2 to 4 of R151 for one course: keep map, semaphores, registers. The course passes to the job as R137 has it: the
registers of the job that held it last are saved. While a step of another job runs there, the course keeps that job's
contents, and passes when this job is first admitted: its registers wait as zeros in its save area (log 23). -/
def loadCourse (s : State) (c n : Nat) : State :=
  let ts := (List.range 16).map (16 * n + ·)
  let m := (ctxOf s c).man
  let s1 := if m.exclusive then s
    else forEach ts s fun s t => match saveAddr m t with
      | some a => devWrite s none a (List.replicate 16384 0)
      | none => s
  if (courseHolder s n).isNone then
    let old := mget s.job.courseCtx 8 n
    let s2 := if old < 8 ∧ old ≠ c ∧ (ctxOf s old).loaded then forEach ts s1 fun s t => saveVregs s (ctxOf s old).man t else s1
    let s3 := zeroVregs (semInitCourse (writeKeep s2 m n) m n) n
    { s3 with job := { s3.job with courseCtx := mset s3.job.courseCtx 8 n c } }
  else s1
/-- Initial control area of the staging ring (R189). -/
def initStaging (s : State) (m : Manifest) : State :=
  match staging m with
  | some r => devWrite s none r.base (leBytes 4 sinkMagic ++ List.replicate 252 0)
  | none => s
/-- The context after a load: its queue indices and late-error queue stay (R221, R457) (log 60, DEDUCED). -/
def freshCtx (j : JobCtx) (m : Manifest) : JobCtx :=
  { state := .loaded, man := m, evq := j.evq, trwHead := j.trwHead,
    fab := { late := j.fab.late, lateOvf := j.fab.lateOvf }, trn := { nextCmd := j.trn.nextCmd } }
/-- Make a job live in context c (R151, R156, R478). Its bed scratch ways hold undefined bytes (R360). A manifest's request
for counted mode sets nothing: the mode stands in the staged field that the host writes (R103) (log 91, DEDUCED). -/
def makeLive (s : State) (c : Nat) (img : List Byte) : State :=
  let m0 := parseManifest img
  let g := gatherKeep s m0 ((secEntries img 4).map fun e => lat e 0 1) (lat img 0x38 8)
  let m : Manifest := { m0 with
    keep := g.1
    regions := m0.regions.zipIdx.map fun p => if p.1.kind = 4 then { p.1 with placed := g.2.contains p.2 } else p.1 }
  let s0 := updCtx s c fun j => freshCtx j m
  let s1 := if m.bedWays = 0 then s0 else bedTrim (undefScratch s0 c)
  let s2 := giveEntries (forEach (coursesOf m) s1 fun s n => loadCourse s c n) c m.streamCtx
  let ringAt := fun d => match m.regions.find? fun r => decide (r.kind = 3) with
    | some r => r.base + d * (64 + 64 * m.postSlots) | none => 0
  let has := 0 < m.postSlots
  let base := (List.range 4).foldl (fun x d => mset x 0 (8 * d + c) (if has then ringAt d else 0)) s2.post.base
  let slots := (List.range 4).foldl (fun x d => mset x 0 (8 * d + c) m.postSlots) s2.post.slots
  let clear := fun (x : NMap Nat) => x.filter fun p => p.1 / 128 ≠ c
  initStaging { s2 with
    post := { s2.post with base := base, slots := slots }
    tel := { s2.tel with totals := clear s2.tel.totals, rollup := clear s2.tel.rollup } } m

end Sys2Proof.Machine
end

