-- ==== Sys2Proof/Machine/Jobs.lean ====
section
/-! DEFINITION. The commands of the JOB page (spec/11_jobs_and_steps.md, R343 to R348, R356 to R363;
spec/15_host_and_registers.md, R469). -/

namespace Sys2Proof.Machine

/-- Write JOB_RESULT, which is the JOB page's block event (R461, R469). -/
def jobResult (s : State) (c code index : Nat) : State :=
  blockEvent { s with job := { s.job with result := BitVec.ofNat 32 (c * 2 ^ 24 + code * 2 ^ 16), resultIndex := index } } 0x7000
/-- JOB_RESULT.busy: loads are queued or being checked (R469). -/
def jobBusy (s : State) : Bool := decide (s.job.loads ≠ [])
/-- A write of JOB_CMD other than a load (R344, R429, R469): before READY it is refused, while busy it completes with
BUSY, during a compute reset with JOB_STATE. -/
def jobCommand (s : State) (c : Nat) (f : State → State) : State :=
  if !isReady s then notReady s 4 0x7100
  else if jobBusy s then jobResult s c 0x22 0
  else if s.boot.resetting then jobResult s c 0x20 0
  else f s

/-! ### Loads -/

/-- A load command: up to eight wait (R152, R469) (log 53, DEDUCED). -/
def jobLoadEffect (r : Nat) (s : State) : State :=
  if !isReady s then notReady s r 0x7100
  else if 8 ≤ s.job.loads.length then jobResult s 0 0x22 0
  else { s with job := { s.job with loads := s.job.loads ++ [(rw64 s 0x7118, (rw s 0x7120).toNat)] } }
/-- JOB_LOAD. -/
def execJobLoad (r : Req) (s : State) : Host.Outcome State Fault Refusal := .next (jobLoadEffect r.val s)

/-- LOAD_DONE and JOB_RESULT of a load (R149, R457). -/
def loadDone (s : State) (code index : Nat) (c : Option Nat) : State :=
  let s1 := jobResult s (c.getD 0) code index
  raisePart s1 0x0006 { cause := code, inst := c.getD 0xFF, va := index }
/-- The image log takes an accepted image; a new entry discards the per-load keys (R382, R388). -/
def logImage (s : State) (d : Sha) : State :=
  if s.sec.images.contains d then s
  else { s with sec := { s.sec with images := s.sec.images ++ [d], loadKeys := [] } }
/-- The loader checks the next load (R149 to R152). It waits for a busy Hardom, whose image-log check comes first (R382,
R396); while a scrub runs the load is refused (R372, R374). -/
def loadCheckEffect (hw : List Host.Cell) (s : State) : State :=
  let s0 := { s with hostMem := s.hostMem.writeCells hw }
  match s0.job.loads with
  | [] => s0
  | (a, n) :: rest =>
    if s0.boot.resetting ∨ (s0.sec.busy ∧ ¬ s0.sec.scrubbing) then s0
    else
      let img := s0.hostMem.read a n
      let d := Config.sha384 img
      let s1 := { s0 with job := { s0.job with loads := rest } }
      if s1.sec.scrubbing then loadDone s1 0x23 0 (loadCtx s1)
      else if 64 ≤ s1.sec.images.length ∧ ¬ s1.sec.images.contains d then secRefuse s0 .load
      else match loadFault s1 img with
        | some (code, i) => loadDone s1 code i (if code = 0x03 then none else loadCtx s1)
        | none =>
          match loadCtx s1 with
          | some c => loadDone (makeLive (logImage s1 d) c img) 0 0 (some c)
          | none => s1
/-- LOAD_CHECK. -/
def execLoadCheck (hw : List Host.Cell) (s : State) : Host.Outcome State Fault Refusal := .next (loadCheckEffect hw s)

/-! ### Start, resume and the other commands -/

/-- The next step does not exceed some record's last_step (R265) (log 25, DEDUCED). -/
def nextInvalid (s : State) (c : Nat) : Bool :=
  (recsOf (ctxOf s c).man).any fun r => decide ((rw s (jobBase c + 0x08)).toNat ≤ devNat s (r.addr + 0x48) 4)
/-- Read the control areas of the context's sinks (R187, R266). A peer sink is read over the fabric on a firmware tag;
`peer` holds what these reads gave (log 8, DESIGN CHOICE). -/
def readSinks (s : State) (c : Nat) (peer : List (Option (List Byte))) : State :=
  forEach [0, 1, 2] (forgetSinks s c) fun s k =>
    let cfg := sinkAt s c k
    if cfg.len = 0 then s
    else if cfg.peer then fwAnswered (fwAskArea s c k) c k (peer.getD k none)
    else takeArea s c k (hostArea s c k)
/-- Some sink of the context is invalid. -/
def anyInvalid (s : State) (c : Nat) : Bool := [0, 1, 2].any fun k => decide ((sinkAt s c k).len ≠ 0) && (sinkOf s c k).invalid
/-- Reductions left by a torn-down job of the same fabric_job end when the job starts. -/
def dropOrphans (s : State) (c : Nat) : State :=
  { s with fab := { s.fab with orphans := s.fab.orphans.filter fun o => o.fabricJob ≠ fabricJob s c } }
/-- The context becomes RUNNING and the scheduler runs (R345, R347, R348, R361). A boundary that it takes again goes on at
once when its courses are free (R166). -/
def goRunning (s : State) (c : Nat) : State :=
  let j := ctxOf s c
  let s1 := updCtx (dropOrphans (if j.ran then s else bump s 0x7130 1) c) c fun j => { j with
    state := .running, fresh := true, ran := true, stepIn := false, startWait := spans s c, starts := (j.starts + 1) % 65536 }
  let s2 := schedule (if spans s1 c then reduce s1 c .start 0 (ctxOf s1 c).starts 1 else s1)
  let k := ctxOf s2 c
  if k.bnd.retake ∧ k.inStep ∧ k.bnd.phase = .awaitVerdict then
    redRetry (commitStep (updBnd (dropRed s2 c .verdict 0) c fun b => { b with phase := .sweeping }) c) c
  else s2
/-- Start or resume from a state (R265, R227, R187): the checks in this order (log 25). -/
def startFrom (s : State) (c : Nat) (st : JState) (peer : List (Option (List Byte))) : State :=
  if (ctxOf s c).state ≠ st then jobResult s c 0x20 0
  else if nextInvalid s c then jobResult s c 0x21 0
  else if boxMismatch s c then jobResult s c 0x25 0
  else
    let s1 := readSinks s c peer
    if anyInvalid s1 c then jobResult s1 c 0x24 0 else jobResult (goRunning s1 c) c 0 0
/-- JOB_START (R344) (log 25, DEDUCED). -/
def jobStartEffect (c : Nat) (hw : List Host.Cell) (peer : List (Option (List Byte))) (s : State) : State :=
  jobCommand { s with hostMem := s.hostMem.writeCells hw } c fun s => startFrom s c .loaded peer
@[inherit_doc jobStartEffect] def execJobStart (c : Ctx) (hw : List Host.Cell) (peer : List (Option (List Byte))) (s : State) :
    Host.Outcome State Fault Refusal := .next (jobStartEffect c.val hw peer s)
/-- JOB_RESUME (R344). -/
def jobResumeEffect (c : Nat) (hw : List Host.Cell) (peer : List (Option (List Byte))) (s : State) : State :=
  jobCommand { s with hostMem := s.hostMem.writeCells hw } c fun s => startFrom s c .parked peer
@[inherit_doc jobResumeEffect] def execJobResume (c : Ctx) (hw : List Host.Cell) (peer : List (Option (List Byte))) (s : State) :
    Host.Outcome State Fault Refusal := .next (jobResumeEffect c.val hw peer s)

/-- JOB_PREEMPT (R356). -/
def jobPreemptEffect (c : Nat) (s : State) : State :=
  jobCommand s c fun s =>
    if (ctxOf s c).state = .running ∨ (ctxOf s c).state = .draining then
      jobResult (updCtx s c fun j => { j with preempt := true }) c 0 0
    else jobResult s c 0x20 0
@[inherit_doc jobPreemptEffect] def execJobPreempt (c : Ctx) (s : State) : Host.Outcome State Fault Refusal := .next (jobPreemptEffect c.val s)
/-- JOB_UNLOAD (R344, R361). -/
def jobUnloadEffect (c : Nat) (s : State) : State :=
  jobCommand s c fun s =>
    let j := ctxOf s c
    if j.state = .loaded ∨ j.state = .parked then
      let s1 := updCtx (releaseJob s c) c fun j => { j with state := .idle }
      jobResult (if j.ran then bump s1 0x7138 1 else s1) c 0 0
    else jobResult s c 0x20 0
@[inherit_doc jobUnloadEffect] def execJobUnload (c : Ctx) (s : State) : Host.Outcome State Fault Refusal := .next (jobUnloadEffect c.val s)
/-- JOB_TEARDOWN by the host (R359): a TEARDOWN event, and job-lost byte 4 = 2 (R256). -/
def jobTeardownEffect (c : Nat) (s : State) : State :=
  jobCommand s c fun s =>
    if (ctxOf s c).loaded then jobResult (teardown s c 2 0x0005 {}) c 0 0 else jobResult s c 0x20 0
@[inherit_doc jobTeardownEffect] def execJobTeardown (c : Ctx) (s : State) : Host.Outcome State Fault Refusal := .next (jobTeardownEffect c.val s)
/-- JOB_CLEAR (R344). -/
def jobClearEffect (c : Nat) (s : State) : State :=
  jobCommand s c fun s =>
    if (ctxOf s c).state = .tornDown then jobResult (updCtx s c fun j => { j with state := .idle }) c 0 0 else jobResult s c 0x20 0
@[inherit_doc jobClearEffect] def execJobClear (c : Ctx) (s : State) : Host.Outcome State Fault Refusal := .next (jobClearEffect c.val s)
/-- A plough command (R258): it acts on a job that is RUNNING or DRAINING (log 26). -/
def ploughCommand (c : Nat) (mode : Plough) (s : State) : State :=
  jobCommand s c fun s =>
    if (ctxOf s c).state = .running ∨ (ctxOf s c).state = .draining then jobResult (ploughFrom s c mode 1) c 0 0
    else jobResult s c 0x20 0
/-- PLOUGH_FINISH (R260). -/
def execPloughFinish (c : Ctx) (s : State) : Host.Outcome State Fault Refusal := .next (ploughCommand c.val .finish s)
/-- PLOUGH_ABORT (R259). -/
def execPloughAbort (c : Ctx) (s : State) : Host.Outcome State Fault Refusal := .next (ploughCommand c.val .abort s)

/-! ### Credits, snapshots, pools -/

/-- A write to JOB_CTX_CREDIT_ADD (R346, R347, R469): bit 31 clears the overflow and adds nothing. -/
def creditWrite (c : Nat) (v : Word) (s : State) : State :=
  if !isReady s then notReady s 4 (jobBase c + 0x10) else
  let n := (ctxOf s c).credit + v.toNat % 65536
  schedule (updCtx s c fun j =>
    if v.msb then { j with creditOvf := false }
    else { j with credit := min 65535 n, creditOvf := j.creditOvf || decide (65535 < n) })
/-- CREDIT_ADD. -/
def execCreditAdd (c : Ctx) (v : Word) (s : State) : Host.Outcome State Fault Refusal := .next (creditWrite c.val v s)
/-- CREDIT_OVERFLOW_CLEAR: a write of JOB_CTX_CREDIT_ADD with bit 31 set (R469). -/
def creditOverflowClearEffect (c : Nat) (s : State) : State := creditWrite c 0x80000000 s
/-- CREDIT_OVERFLOW_CLEAR. -/
def execCreditOverflowClear (c : Ctx) (s : State) : Host.Outcome State Fault Refusal := .next (creditOverflowClearEffect c.val s)
/-- SNAPSHOT_REQUEST (R198, R199): recorded, with the ring it names, for a loaded job; the ring is read afresh. A
sink in host memory is refused for a job that owns a sealed range (R389, R395). -/
def snapshotRequestEffect (c : Nat) (s : State) : State :=
  if !isReady s then notReady s 4 (jobBase c + 0x70)
  else if (sinkCfg s c 2).len ≠ 0 ∧ ¬ (sinkCfg s c 2).peer ∧ ownsSealed s c then
    (if s.sec.busy then { s with sec := { s.sec with waiting := s.sec.waiting ++ [.snapshotRequest (Fin.ofNat 8 c)] } }
     else secRefuse s .snapshot)
  else if (ctxOf s c).loaded ∧ (sinkCfg s c 2).len ≠ 0 then
    let s1 := updTrn s c fun t => { t with snapReq := true, snapNext := sinkCfg s c 2 }
    if (ctxOf s c).trn.snapping then s1 else updSink s1 c 2 fun _ => {}
  else s
/-- SNAPSHOT_REQUEST. -/
def execSnapshotRequest (c : Ctx) (s : State) : Host.Outcome State Fault Refusal := .next (snapshotRequestEffect c.val s)

/-- Pool p (R363). -/
def poolOf (s : State) (p : Nat) : Pool := mget s.job.pools {} p
/-- Change a pool. -/
def updPool (s : State) (p : Nat) (f : Pool → Pool) : State :=
  { s with job := { s.job with pools := mupd s.job.pools {} p f } }
/-- What a take returns (R363): the oldest entry, or POOL_EMPTY; a pool that is not enabled reads empty (log 27). -/
def poolHead (s : State) (p : Nat) : Word :=
  let q := poolOf s p
  if q.enable then q.entries.headD 0xFFFFFFFF else 0xFFFFFFFF
/-- A take removes the oldest entry (R363) (log 27, DESIGN CHOICE). -/
def poolTaken (s : State) (p : Nat) : State := updPool s p fun q => if q.enable then { q with entries := q.entries.drop 1 } else q
/-- POOL_TAKE: the entry goes to the requester. Before READY the page reads 0 (R434). -/
def poolTakeEffect (p r : Nat) (s : State) : State :=
  if isReady s then emit (poolTaken s p) (.reply r (leBytes 4 (poolHead s p).toNat)) else emit s (.reply r (leBytes 4 0))
/-- POOL_TAKE. -/
def execPoolTake (p : PoolId) (r : Req) (s : State) : Host.Outcome State Fault Refusal := .next (poolTakeEffect p.val r.val s)
/-- POOL_GIVE (R363, R469): appended, or dropped and counted when the pool is full (log 27, DESIGN CHOICE). -/
def poolGiveEffect (p : Nat) (v : Word) (s : State) : State :=
  if !isReady s then notReady s 4 (0x7E04 + 8 * p) else updPool s p fun q =>
    if !q.enable then q
    else if q.entries.length < 1024 then { q with entries := q.entries ++ [v] }
    else { q with dropped := min 8191 (q.dropped + 1) }
/-- POOL_GIVE. -/
def execPoolGive (p : PoolId) (v : Word) (s : State) : Host.Outcome State Fault Refusal := .next (poolGiveEffect p.val v s)

end Sys2Proof.Machine
end

