-- ==== Sys2Proof/Machine/Links.lean ====
section
/-! DEFINITION. The fabric timebase, links and heartbeats (spec/07_sorius_fabric.md, R204, R236 to R244;
spec/08_fault_tolerance.md, R252 to R254; spec/16_telemetry_and_test.md, R485). -/

namespace Sys2Proof.Machine

/-! ### Timebase (R236 to R238) -/

/-- Hops to the master as the part reports them (R237) (log 80, DEDUCED). -/
def ownHops (s : State) : Nat := if isMaster s then 0 else if !s.fab.locked || s.fab.holdover then 0xFF else s.fab.hops
/-- The timebase after one AON cycle: it slews by at most 200 ppm, 1 ns in each 125 cycles of 40 ns (R236). -/
def timeTick (f : FabSt) : FabSt :=
  if f.slew ≠ 0 ∧ 124 ≤ f.slewWait then
    (if 0 < f.slew then { f with time := f.time + 41, slew := f.slew - 1, slewWait := 0 }
     else { f with time := f.time + 39, slew := f.slew + 1, slewWait := 0 })
  else { f with time := f.time + 40, slewWait := min 125 (f.slewWait + 1) }
/-- A compute reset under way ends: a pending apply takes effect, and loads accepted meanwhile are checked (R429, R450). -/
def resetEnds (s : State) : State :=
  if s.boot.resetting then applyIfIdle { s with boot := { s.boot with resetting := false } } else s
/-- One AON cycle of 40 ns: the timebase counts while the switchback runs (R16, R236); a compute reset under way ends
(R429; log 5). -/
def idleTick (s : State) : State :=
  let s1 := resetEnds s
  if switchbackRuns s1 then { s1 with fab := timeTick s1.fab } else s1
/-- A TIME packet on a port (R237). -/
def timePacket (s : State) (port nb : Nat) : Packet :=
  let l := linkOf s port
  { ty := 0x0A, vc := 7, side := 0, dst := nb, src := ownCoord s, fabricJob := 0, tag := 0, step := 0, addr := 0, aux := 0,
    payload := leBytes 8 (now s) ++ leBytes 8 l.tEcho ++ leBytes 8 l.tRecv ++ leBytes 1 (ownHops s)
      ++ leBytes 1 (b2n s.fab.locked + 2 * b2n s.fab.holdover) ++ leBytes 2 l.timeSeq ++ leBytes 4 0 }
/-- TIME_SEND (R236): on every link in service; a packet to an absent part is discarded (R255). -/
def timeSendEffect (s : State) : State :=
  forEach (List.range 12) s fun s p =>
    match neighbour s p with
    | some nb =>
      if ¬ inService s p then s
      else if isAbsent s nb then countDiscard s
      else sendOn (updLink s p fun l => { l with timeSeq := (l.timeSeq + 1) % 65536 }) p { p := timePacket s p nb }
    | none => s
/-- TIME_SEND. -/
def execTimeSend (s : State) : Host.Outcome State Fault Refusal := .next (timeSendEffect s)
/-- Follow the neighbour's time on a port: one step at the first lock, then slewing only (R236). The timebase never
moves backward (log 80, DEDUCED). -/
def followTime (s : State) (v : Nat) : State :=
  if !s.fab.locked then { s with fab := { s.fab with time := max s.fab.time v, locked := true, slew := 0 } }
  else { s with fab := { s.fab with slew := (v : Int) - s.fab.time } }
/-- TIME (R236, R237). -/
def timeEffect (port : Nat) (p : Packet) (s : State) : State :=
  if p.ty ≠ 0x0A ∨ p.dst ≠ ownCoord s ∨ ¬ inService s port then s
  else
    let l := linkOf s port
    let t4 := now s
    let tSend := lat p.payload 0 8
    let echo := lat p.payload 8 8
    let tRecv := lat p.payload 0x10 8
    let hit := decide (echo = l.tSent ∧ 0 < echo)
    let delay := if hit then ((t4 - echo) - (tSend - tRecv)) / 2 else l.delay
    let s1 := refollow (updLink s port fun l => { l with tEcho := tSend, tRecv := t4, hops := lat p.payload 0x18 1, delay := delay })
    if hit ∧ ¬ isMaster s1 ∧ followPort s1 = some port then followTime s1 (tSend + delay) else s1
/-- TIME. -/
def execTime (port : Port) (p : Packet) (s : State) : Host.Outcome State Fault Refusal := .next (timeEffect port.val p s)
/-- TIME_SET (R236, R471): on the time master, once after each warm or cold reset (log 80, DEDUCED). -/
def timeSetEffect (r : Nat) (v : Dword) (s : State) : State :=
  if !isReady s then notReady s r 0x70124
  else if !isMaster s || s.fab.timeWasSet then accessErr s 0x70000 8 r 0x124
  else { s with fab := { s.fab with time := v.toNat, timeWasSet := true, locked := true, holdover := false, hops := 0, slew := 0 } }
/-- TIME_SET. -/
def execTimeSet (r : Req) (v : Dword) (s : State) : Host.Outcome State Fault Refusal := .next (timeSetEffect r.val v s)

/-! ### Links in and out of service (R239 to R244) -/

/-- LINK_DOWN with its event (R243, R457). -/
def linkDownAs (s : State) (port cause : Nat) : State := linkLost (raisePart s 0x0103 { inst := port }) port cause
/-- LINK_DOWN: no valid codeword for 2 µs (R243, R255 cause 1). -/
def linkDownEffect (port : Nat) (s : State) : State := if inService s port then linkDownAs s port 1 else s
/-- LINK_DOWN. -/
def execLinkDown (port : Port) (s : State) : Host.Outcome State Fault Refusal := .next (linkDownEffect port.val s)
/-- HEARTBEAT_TIMEOUT (R254, R255 cause 2). -/
def heartbeatTimeoutEffect (port : Nat) (s : State) : State := if inService s port then linkDownAs s port 2 else s
/-- HEARTBEAT_TIMEOUT. -/
def execHeartbeatTimeout (port : Port) (s : State) : Host.Outcome State Fault Refusal := .next (heartbeatTimeoutEffect port.val s)
/-- Lanes that carry traffic: bit per lane (R241). -/
def activeLanes (l : Link) : Nat := if l.lanes = 1 then 0x0F else if l.lanes = 2 then 0xF0 else 0xFF
/-- LINK_DEGRADED (R241): `bad` marks failing lanes. The link retrains on a half of which no lane has failed since it last
trained at ×8, and leaves service when there is none. -/
def linkDegradedEffect (port : Nat) (bad : BitVec 8) (s : State) : State :=
  let l := linkOf s port
  let all := l.bad ||| bad.toNat
  let lo := decide (all % 16 = 0)
  let hi := decide (all / 16 = 0)
  if ¬ inService s port ∨ bad.toNat &&& activeLanes l = 0 then s
  else if lo = false ∧ hi = false then linkDownAs (updLink s port fun l => { l with bad := all }) port 1
  else
    let half := if lo then 1 else 2
    let s1 := chgLink s port fun l => { l with state := .equalise, lanes := half, bad := all, agreed := true, credits := [], hops := 0xFF }
    afterOut (raisePart s1 0x0102 { inst := port, va := half }) port
/-- LINK_DEGRADED. -/
def execLinkDegraded (port : Port) (bad : BitVec 8) (s : State) : Host.Outcome State Fault Refusal := .next (linkDegradedEffect port.val bad s)
/-- The identity record agrees with R204. -/
def identOk (s : State) (port coords peerPort : Nat) (tag : Word) : Bool :=
  decide (tag = live s 0x7010C ∧ neighbour s port = some coords ∧ farPort port = peerPort)
/-- Credits granted on every VC (R210, R239). -/
def fullCredits : NMap Nat := (List.range 8).map fun v => (v, 96)
/-- The part sends its identity record on a port (R204). -/
def sendIdentity (s : State) (port : Nat) : State := emit s (.identity port (ownCoord s) port (live s 0x7010C))
/-- A link is UP: its credits are granted anew, what its replay buffer holds is replayed, and waiting packets start (R210,
R239, R242) (log 81, DEDUCED). -/
def linkUp (s : State) (port : Nat) : State :=
  let s1 := chgLink s port fun l => { l with
    state := .up, out := false, agreed := false, lost := false, softRst := false, credits := fullCredits, inUse := [] }
  servePort (forEach (linkOf s1 port).replay s1 fun s x => emit s (.replay port x.1 0)) port 4096
/-- The identity record of the peer does not agree: the link stays out of service (R204). -/
def identFails (s : State) (port coords peerPort : Nat) (tag : Word) : State :=
  let s1 := chgLink (outLink s port) port fun l => { l with lost := false }
  let s2 := raisePart s1 0x0104 { inst := port, va := coords % 2 ^ 15 + peerPort % 16 * 2 ^ 16 + tag.toNat * 2 ^ 32 }
  applyIfIdle (portsOut (refollow s2) port 1)
/-- LINK_TRAIN_STATE (R239): the present state completes; `coords`, `peerPort` and `tag` are the record received at IDENT.
A link that left service while it was UP trains again when the far end answers (R243). -/
def linkTrainStateEffect (port coords peerPort : Nat) (tag : Word) (s : State) : State :=
  let l := linkOf s port
  if (l.out = true ∧ l.lost = false) ∨ l.prbs ∨ s.boot.stage < 5 ∨ ¬ switchbackRuns s then s
  else match l.state with
    | .detect => chgLink s port fun l => { l with state := .equalise }
    | .equalise => chgLink s port fun l => { l with state := .align }
    | .align => sendIdentity (chgLink s port fun l => { l with state := .ident }) port
    | .ident =>
      let s1 := updLink s port fun l => { l with peer := coords, peerPort := peerPort, tag := tag }
      if identOk s port coords peerPort tag then
        goPresent (chgLink s1 port fun l => { l with state := .credit }) coords (ownCoord s) none
      else identFails s1 port coords peerPort tag
    | .credit => linkUp s port
    | .up => s
/-- LINK_TRAIN_STATE. -/
def execLinkTrainState (port : Port) (coords peerPort : Nat) (tag : Word) (s : State) : Host.Outcome State Fault Refusal :=
  .next (linkTrainStateEffect port.val coords peerPort tag s)
/-- LINK_TRAIN_TIMEOUT (R239). A link that was retraining by agreement no longer counts as present (R254). -/
def linkTrainTimeoutEffect (port : Nat) (s : State) : State :=
  if (linkOf s port).state ≠ .up ∧ ¬ (linkOf s port).out then linkLost s port 1 else s
/-- LINK_TRAIN_TIMEOUT. -/
def execLinkTrainTimeout (port : Port) (s : State) : Host.Outcome State Fault Refusal := .next (linkTrainTimeoutEffect port.val s)
/-- FEC_REPLAY (R240): the flits of the codeword are discarded and a replay is asked for from the first lost flit; every flit
is still delivered once and in order, so of this part's state only the counters change (R471) (log 81, DEDUCED). -/
def execFecReplay (port : Port) (lost : Nat) (s : State) : Host.Outcome State Fault Refusal :=
  .next (if inService s port.val then
    emit (bump (bump s (slnkPage port.val + 0x118) 1) (slnkPage port.val + 0x120) 1) (.replayRequest port.val lost) else s)
/-- CREDIT_RETURN (R210): credits come back, and waiting packets start. -/
def creditReturnEffect (port vc n : Nat) (s : State) : State :=
  if inService s port then
    servePort (updLink s port fun l => { l with credits := mupd l.credits 0 vc fun x => min 96 (x + n) }) port 4096
  else s
/-- CREDIT_RETURN. -/
def execCreditReturn (port : Port) (vc : Fin 8) (n : Nat) (s : State) : Host.Outcome State Fault Refusal :=
  .next (creditReturnEffect port.val vc.val n s)
/-- PRBS_START (R485). -/
def prbsStartEffect (port : Nat) (s : State) : State :=
  if !isReady s then notReady s 4 (slnkPage port + 0x10C)
  else if inService s port ∧ inService s (twinOf port) ∧ ((List.range 12).all fun p => !(linkOf s p).prbs) then
    refollow (reroute (chgLink s port fun l => { l with prbs := true, out := true, credits := [], replay := [], inUse := [], hops := 0xFF }) port)
  else accessErr s (slnkPage port) 8 4 0x10C
/-- PRBS_START. -/
def execPrbsStart (port : Port) (s : State) : Host.Outcome State Fault Refusal := .next (prbsStartEffect port.val s)
/-- PRBS_STOP (R485): the bit errors counted are a free value (log 81, DEDUCED). -/
def prbsStopEffect (port : Nat) (s : State) : State :=
  if !isReady s then notReady s 4 (slnkPage port + 0x10C)
  else if (linkOf s port).prbs then
    retrainLink (bump { s with free := s.free + 1 } (slnkPage port + 0x128) (Config.freeNat s.free)) port
  else accessErr s (slnkPage port) 8 4 0x10C
/-- PRBS_STOP. -/
def execPrbsStop (port : Port) (s : State) : Host.Outcome State Fault Refusal := .next (prbsStopEffect port.val s)

/-! ### Heartbeats (R252 to R254) -/

/-- State code of a heartbeat (R252). -/
def hbCode (s : State) : Nat :=
  match s.boot.announce with
  | some a => a.1
  | none => if s.boot.resetting then 1 else if s.pwr.state = .lowPower then 4 else 0
/-- The 64 bytes of a heartbeat (R253). -/
def hbFlit (s : State) (port : Nat) : List Byte :=
  let b := leBytes 1 0x48 ++ leBytes 1 (hbCode s) ++ leBytes 2 (linkOf s port).hbSeq ++ leBytes 2 (ownCoord s) ++ leBytes 1 port
    ++ leBytes 1 0 ++ leBytes 4 (live s 0x7010C).toNat
  b ++ leBytes 4 (crc32c b).toNat ++ List.replicate 48 0
/-- HEARTBEAT_SEND (R252). -/
def heartbeatSendEffect (s : State) : State :=
  forEach (List.range 12) s fun s p =>
    if inService s p then emit (updLink s p fun l => { l with hbSeq := (l.hbSeq + 1) % 65536 }) (.flit p (hbFlit s p)) else s
/-- HEARTBEAT_SEND. -/
def execHeartbeatSend (s : State) : Host.Outcome State Fault Refusal := .next (heartbeatSendEffect s)
/-- A valid heartbeat (R253). -/
def hbValid (s : State) (port : Nat) (f : List Byte) : Bool :=
  let l := linkOf s port
  decide (f.length = 64 ∧ lat f 0 1 = 0x48 ∧ lat f 1 1 < 16 ∧ lat f 7 1 = 0 ∧ lat f 12 4 = (crc32c (f.take 12)).toNat
    ∧ lat f 4 2 = l.peer ∧ lat f 6 1 = l.peerPort ∧ lat f 8 4 = l.tag.toNat) && (f.drop 16).all (· = 0)
/-- HEARTBEAT (R253, R254): an announced warm reset or power-off makes the neighbour absent. -/
def heartbeatEffect (port : Nat) (f : List Byte) (s : State) : State :=
  if inService s port ∧ hbValid s port f then
    (if lat f 1 1 = 2 then goAbsent s (linkOf s port).peer 3 (ownCoord s) none
     else if lat f 1 1 = 3 then goAbsent s (linkOf s port).peer 4 (ownCoord s) none
     else s)
  else s
/-- HEARTBEAT. -/
def execHeartbeat (port : Port) (flit : List Byte) (s : State) : Host.Outcome State Fault Refusal := .next (heartbeatEffect port.val flit s)

end Sys2Proof.Machine
end

