-- ==== Sys2Proof/Machine/Reset.lean ====
section
/-! DEFINITION. Part-class faults, the reset levels, power-up and boot (spec/14_reset_boot_config.md, R426 to R437;
spec/08_fault_tolerance.md, R250, R251, R271; spec/13_power_clocks_thermal.md, R402 to R404, R422;
spec/12_security.md, R371, R373, R375). -/

namespace Sys2Proof.Machine

/-! ### What a warm or cold reset leaves (R271) -/

/-- Everything volatile is lost: memory, stores and semaphores are undefined, registers at reset. What AON retention
memory, SPI NOR, fuses and the pins hold is kept, as are the power and thermal controllers, which run in the AON domain
(R271, R406, R417, R427, R499) (log 106, DEDUCED). -/
def wiped (s : State) : State :=
  { pending := s.pending
    free := s.free + 4
    out := s.out
    hostMem := s.hostMem
    mem :=
      { dev := { fills := [(0, 0x9000000000, .free s.free)] }
        scratch := { fills := [(0, 32 * 2 ^ 26, .free (s.free + 1))] }
        stk := s.mem.stk.map fun p => (p.1, { selfRefresh := true, trainData := p.2.trainData, centre := p.2.centre, temp := p.2.temp }) }
    tile :=
      { store := { fills := [(0, 512 * 2 ^ 21, .free (s.free + 2))] }
        semUndef := (List.range 32).map fun n => (n, s.free + 4) }
    fab := { links := (s.fab.links.filter fun p => decide (p.2.taps ≠ [])).map fun p => (p.1, { taps := p.2.taps }) }
    cfg := { copies := s.cfg.copies }
    tel := { ret := s.tel.ret }
    sec := { slots := s.sec.slots, counter := s.sec.counter }
    pwr := { s.pwr with
      state := .lowPower, dead := false, waking := false, thermtrip := false, wakes := []
      pairs := s.pwr.pairs.map fun p => (p.1, { table := p.2.table, temp := p.2.temp, hot := p.2.hot, therm := p.2.therm }) }
    host := { i3cAddr := s.host.i3cAddr, i3cOff := s.host.i3cOff }
    boot :=
      { fw := s.boot.fw, cause := s.boot.cause, regs := s.boot.regs, aon := s.boot.aon, perst := s.boot.perst,
        straps := s.boot.straps, refclk := s.boot.refclk, tap := s.boot.tap } }
/-- AON_1V8 is lost: what only AON held is lost as well (R271, R403, R417). -/
def aonLost (s : State) (cause : Nat) : State :=
  let w := wiped s
  { w with
    mem := { w.mem with stk := [] }
    fab := {}
    tel := {}
    pwr := { state := .aonOnly, brake := s.pwr.brake }
    host := {}
    boot := { fw := s.boot.fw, cause := cause, perst := s.boot.perst, refclk := s.boot.refclk } }

/-! ### Compute reset (R429) -/

/-- Tear every job down, with job-lost notices of byte 4 = 3 (R256, R429 action 1). -/
def tearAll (s : State) : State := forEach (loadedCtxs s) s fun s c => tornDown (tearCore s c 3) c
/-- Trowel counters (R178) are at these offsets. -/
def isTrowelCounter (off : Nat) : Bool := decide (0x60000 ≤ off ∧ off < 0x6C000)
/-- Units, stores, counters with their shadows, and registers of a compute reset (R429 actions 3 to 5, R271, R474, R478).
A test that runs ends with result 0 (R490). -/
def clearUnits (s : State) : State :=
  let s1 := forEach (List.range 32) s fun s n => undefSems (undefCourse s n) n
  let s2 : State := { s1 with
    mem := { s1.mem with bedLines := [] }
    tile := { s1.tile with
      vreg := [], seqs := [], bars := [], barGen := []
      courses := s1.tile.courses.map fun p => if p.2.bist then (p.1, { p.2 with bist := false, bistResult := 0 }) else p }
    trw := []
    rink := { s1.rink with tasks := [], table := [], strm := [], ahead := [], next := [], merr := [], merrOvf := [], spill := [] }
    post := { s1.post with run := [], rr := [] }
    fab := { s1.fab with rx := [], orphans := [] }
    job := { s1.job with courseCtx := [] }
    sec := { s1.sec with loadKeys := [] }
    tel := { s1.tel with
      cnt := s1.tel.cnt.filter fun p => !isTrowelCounter p.1
      shadow := s1.tel.shadow.filter fun p => !isTrowelCounter p.1
      plumb := [], plumbShadow := [], rolled := [], totals := [], rollup := [] } }
  forEach (List.range 32) s2 fun s n => spinReload s n (live64 s (coursePage n + 0x100))
/-- Start a compute reset (R429): actions 1 to 5; one that is under way is not begun again (R450); RST_STATUS reads RESETTING until the next idle cycle (log 5) (log 79, DEDUCED). -/
def computeReset (s : State) : State :=
  if s.boot.resetting then s
  else
    let s1 := tearAll s
    clearUnits { s1 with boot := { s1.boot with resetting := true } }
/-- RST_COMPUTE (R429, R467). -/
def rstComputeEffect (v : Word) (s : State) : State :=
  if !pageAnswers s 0x2000 then notReady s 4 0x2104
  else if fld v 31 16 ≠ 0x434D then accessErr s 0x2000 8 4 0x104
  else if v.getLsbD 0 then computeReset s else s
/-- RST_COMPUTE. -/
def execRstCompute (v : Word) (s : State) : Host.Outcome State Fault Refusal := .next (rstComputeEffect v s)
/-- A unit with a progress monitor has an operation under way that waits on nothing outstanding: no semaphore, fabric
response, queue space, sink room or memory tag (R250). Units by their codes of R457; the DMA engine counts as its tile. -/
def mayHang (s : State) (unit inst : Nat) : Bool :=
  if unit = 0 then
    let z := seqrOf s inst
    decide (inst < 512) && ((z.descs.any fun d => decide (d.cls = 1 ∧ d.phase = .started ∧ d.wait = none)) ||
      (match z.hold with | some d => decide (d.cls = 6 ∧ d.fld 2 31 30 ≠ 0) && fenceOk z d | none => false))
  else if unit = 1 then decide (inst < 4) && (mget s.post.run none inst).isSome
  else if unit = 2 then decide (inst = 0) && s.rink.tasks.any fun x => x.unit.isSome
  else if unit = 3 then
    let w := mget s.trw {} inst
    decide (inst < 12) && ((w.sweeping && !((ctxOf s w.ctx).trn.noRoom.contains inst)) || w.zero)
  else false
/-- UNIT_HANG (R250): retained, then a compute reset (log 79, DEDUCED). -/
def unitHangEffect (unit inst : Nat) (s : State) : State :=
  if mayHang s unit inst then computeReset (raiseRetained s 0x0110 { unit := unit, inst := inst }) else s
/-- UNIT_HANG. -/
def execUnitHang (unit inst : Nat) (s : State) : Host.Outcome State Fault Refusal := .next (unitHangEffect unit inst s)

/-- Every DMA channel stops (R428, R454): the descriptor it holds ends as STOPPED, and a weight transfer is refused. -/
def stopChannels (s : State) : State :=
  forEach (List.range 32) s fun s ch => chanFinish (cutXfer s ch) ch 5
/-- The host interface returns to its reset state (R428) (log 54, DEDUCED). -/
def hostReset (s : State) : State :=
  let h := (stopChannels s).host
  let ctrl := fun (o : Nat) => decide (0x800 ≤ o ∧ o < 0xC00 ∧ (o - 0x800) % 0x20 = 0x10)
  let s1 : State := { stopChannels s with
    host := { h with
      regs := h.regs.filter fun p => !ctrl p.1
      dma := h.dma.map fun p => (p.1, { head := p.2.head, tail := p.2.head })
      evq := { h.evq with cons := 0 }
      msixOpen := [], msixPend := [], msixTbl := []
      eid := mset h.eid 0 0 0
      linkLost := false
      d3 := false } }
  let s2 := forEach (List.range 8) s1 fun s c => updCtx s c fun j => { j with evq := { j.evq with cons := 0 } }
  { s2 with sec := { s2.sec with
      sessions := s2.sec.sessions.filter fun x => x.path ≠ .pcie
      spdmVer := mset s2.sec.spdmVer 0 0 0
      chunks := s2.sec.chunks.filter fun p => p.1 / 2 ≠ 0 } }
/-- FUNCTION_LEVEL_RESET (R428); before READY it acts on the host interface only (R450) (log 54, DEDUCED). -/
def functionLevelResetEffect (s : State) : State := hostReset (if isReady s then computeReset s else s)
/-- FUNCTION_LEVEL_RESET. -/
def execFunctionLevelReset (s : State) : Host.Outcome State Fault Refusal := .next (functionLevelResetEffect s)
/-- PCIE_LINK_LOSS (R428): nothing is reset. -/
def execPcieLinkLoss (s : State) : Host.Outcome State Fault Refusal :=
  .next (if s.boot.perst then s else { s with host := { s.host with linkLost := true } })

/-! ### Part-class faults (R251) -/

/-- Record a Part-class event and start the power-off announcement (R251, R252). -/
def partFault (s : State) (code : Nat) (f : EvF) : State :=
  if ¬ s.boot.aon ∨ s.boot.stopped then s
  else
    let s1 := raiseRetained s code f
    { s1 with boot := { s1.boot with announce := some (3, 6) } }
/-- THERMAL_TRIP (R251, R423): a reading of 115 °C or more, in units of 0.25 °C (log 98, DEDUCED). -/
def thermalTripEffect (unit inst reading : Nat) (s : State) : State :=
  if reading < 460 then s else
  let s1 := partFault s 0x0120 { unit := unit, inst := inst, va := reading }
  if s.boot.aon then { s1 with pwr := { s1.pwr with thermtrip := true } } else s1
/-- THERMAL_TRIP. -/
def execThermalTrip (unit inst reading : Nat) (s : State) : Host.Outcome State Fault Refusal := .next (thermalTripEffect unit inst reading s)
/-- SUPPLY_FAULT: VIN_MAIN leaves 5.7–6.3 V once it has been in range (R251, R403); the reading is in mV (log 98, DESIGN CHOICE). -/
def supplyFaultEffect (reading : Nat) (s : State) : State :=
  if s.boot.regs ∧ (reading < 5700 ∨ 6300 < reading) then partFault s 0x0121 { va := reading } else s
/-- SUPPLY_FAULT. -/
def execSupplyFault (reading : Nat) (s : State) : Host.Outcome State Fault Refusal := .next (supplyFaultEffect reading s)
/-- ROUTER_FAULT (R251). -/
def execRouterFault (reading : Nat) (s : State) : Host.Outcome State Fault Refusal :=
  .next (if s.boot.regs then partFault s 0x0123 { unit := 4, va := reading } else s)
/-- COOLANT_OK_DEASSERT (R422): an event only while ACTIVE. -/
def coolantOkDeassertEffect (s : State) : State :=
  let s1 := { s with pwr := { s.pwr with coolant := false } }
  if s.pwr.state = .active then partFault s1 0x0122 {} else s1
/-- COOLANT_OK_DEASSERT. -/
def execCoolantOkDeassert (s : State) : Host.Outcome State Fault Refusal := .next (coolantOkDeassertEffect s)
/-- AON_LOSS (R403): SUPPLY_FAULT while VIN_MAIN is present, then everything stops. -/
def aonLossEffect (s : State) : State :=
  if ¬ s.boot.aon then s else aonLost (if s.boot.regs then raiseRetained s 0x0121 {} else s) 1
/-- AON_LOSS. -/
def execAonLoss (s : State) : Host.Outcome State Fault Refusal := .next (aonLossEffect s)
/-- REFCLK_LOSS (R502): SUPPLY_FAULT in the retention log, and every regulator stops; AON_1V8 stays. -/
def refclkLossEffect (s : State) : State :=
  if ¬ s.boot.aon then { s with boot := { s.boot with refclk := false } }
  else
    let w := wiped (retain s ⟨0x0121, 0xFF, now s, ({} : EvF).bytes, true, true, none⟩)
    { w with
      boot := { w.boot with regs := false, refclk := false }
      pwr := { w.pwr with state := .aonOnly, dead := true } }
/-- REFCLK_LOSS. -/
def execRefclkLoss (s : State) : Host.Outcome State Fault Refusal := .next (refclkLossEffect s)

/-! ### Warm reset (R427) -/

/-- A warm trigger: the announcement begins, or begins again (R427). -/
def warmBegin (s : State) (cause : Nat) : State :=
  if s.boot.aon then { s with boot := { s.boot with announce := some (2, cause) } } else s
/-- RST_WARM (R427, R467). -/
def rstWarmEffect (v : Word) (s : State) : State :=
  if !pageAnswers s 0x2000 then notReady s 4 0x2100
  else if fld v 31 16 ≠ 0x574D then accessErr s 0x2000 8 4 0x100
  else if v.getLsbD 0 then warmBegin s 3 else s
/-- RST_WARM. -/
def execRstWarm (v : Word) (s : State) : Host.Outcome State Fault Refusal := .next (rstWarmEffect v s)
/-- PERST_N_ASSERT (R427). -/
def perstNAssertEffect (s : State) : State :=
  if s.boot.perst then s else warmBegin { s with boot := { s.boot with perst := true } } 2
/-- PERST_N_ASSERT. -/
def execPerstNAssert (s : State) : Host.Outcome State Fault Refusal := .next (perstNAssertEffect s)
/-- PERST_N_DEASSERT (R427): WARM_RESTART may follow. -/
def perstNDeassertEffect (s : State) : State :=
  { s with boot := { s.boot with perst := false }, host := { s.host with linkLost := false } }
/-- PERST_N_DEASSERT. -/
def execPerstNDeassert (s : State) : Host.Outcome State Fault Refusal := .next (perstNDeassertEffect s)
/-- RSTACT (R460): warm, or cold as a loss of AON_1V8 for 10 ms (R426). -/
def rstactEffect (b : Byte) (s : State) : State :=
  if ¬ s.boot.aon then s else if b = 1 then warmBegin s 4 else if b = 2 then aonLost s 5 else s
/-- RSTACT. -/
def execRstact (b : Byte) (s : State) : Host.Outcome State Fault Refusal := .next (rstactEffect b s)
/-- The jobs of a part that leaves the fabric stop where they are (R251, R424). -/
def haltAll (s : State) : State :=
  forEach (loadedCtxs s) s fun s c => updTrn (updCtx (stopJob s c) c fun j => { j with bnd := {} }) c fun t => { t with cmds := [] }
/-- Every stack enters self-refresh (R404, R427). -/
def selfRefreshAll (s : State) (b : Bool) : State := forEach (List.range 12) s fun s k => updStack s k fun x => { x with selfRefresh := b }
/-- Every course pair is gated, with no wake waiting. -/
def gateAll (s : State) : State :=
  let s1 := forEach (List.range 16) s fun s p => updPair s p fun x => { x with gated := true }
  { s1 with pwr := { s1.pwr with wakes := [] } }
/-- Low power with every link out of service (R251 actions 3 and 4). -/
def leaveFabric (s : State) : State :=
  let s1 := gateAll (haltAll (forEach (List.range 12) s fun s p => outLink (updLink s p fun l => { l with queue := [] }) p))
  let s2 := selfRefreshAll s1 true
  { s2 with
    pwr := { s2.pwr with state := .lowPower, dead := true, waking := false }
    trw := s2.trw.map fun p => (p.1, { p.2 with sweeping := false, zero := false }) }
/-- ANNOUNCEMENT_END (R251, R427): a warm reset stops every domain but AON; a Part-class event leaves the fabric (log 79, DEDUCED). -/
def announcementEndEffect (s : State) : State :=
  match s.boot.announce with
  | none => s
  | some (code, cause) =>
    if code = 2 then
      let w := wiped s
      { w with boot := { w.boot with cause := cause, stopped := true } }
    else
      let s1 := leaveFabric s
      { s1 with boot := { s1.boot with announce := none, cause := cause } }
/-- ANNOUNCEMENT_END. -/
def execAnnouncementEnd (s : State) : Host.Outcome State Fault Refusal := .next (announcementEndEffect s)

/-! ### Power-up and boot (R402, R433 to R437) -/

/-- AON_POWER_ON_RESET (R402): the straps are sampled. -/
def aonPowerOnResetEffect (straps : BitVec 3) (s : State) : State :=
  if s.boot.aon then s else { s with boot := { s.boot with aon := true, straps := straps, refclk := true } }
/-- AON_POWER_ON_RESET. -/
def execAonPowerOnReset (straps : BitVec 3) (s : State) : Host.Outcome State Fault Refusal := .next (aonPowerOnResetEffect straps s)
/-- REGULATOR_START (R402): the rails come up and the boot ROM starts, in LOW_POWER. -/
def regulatorStartEffect (s : State) : State :=
  if ¬ s.boot.aon ∨ s.boot.regs ∨ ¬ s.boot.refclk then s
  else { s with boot := { s.boot with regs := true, stage := 1 }, pwr := { s.pwr with state := .lowPower } }
/-- REGULATOR_START. -/
def execRegulatorStart (s : State) : Host.Outcome State Fault Refusal := .next (regulatorStartEffect s)
/-- The firmware copy the boot ROM takes: the valid one with the higher seq, A on a tie (R433). -/
def pickFw (s : State) : Option (Nat × FwCopy) :=
  let get := fun k => let f := mget s.boot.fw ⟨true, 0, 0, 0, 0⟩ k; if f.valid then some f else none
  match get 0, get 1 with
  | some a, some b => if a.seq < b.seq then some (1, b) else some (0, a)
  | some a, none => some (0, a)
  | none, some b => some (1, b)
  | none, none => none
/-- The boot ROM runs: the chosen copy is measured and started, and the part waits to leave low power; with no valid
copy it stops in RECOVERY (R433, R434, R437). A new epoch is drawn (R375). -/
def bootRom (s : State) : State :=
  let s0 : State := { s with free := s.free + 1, sec := { s.sec with epoch := Config.drbg s.free % 2 ^ 31 } }
  match pickFw s0 with
  | none =>
    let s1 := forEach (List.range 12) s0 outLink
    emit { s1 with boot := { s1.boot with stage := 0xE } } (.ibi 0x03)
  | some (k, f) =>
    { s0 with
      boot := { s0.boot with stage := 3, copy := k }
      sec := { s0.sec with fwDigest := f.fwDigest, codecDigest := f.codecDigest, svn := BitVec.toNat (BitVec.ofNat 32 f.svn) }
      pwr := { s0.pwr with waking := true } }
/-- COLD_BOOT (R434): firmware verified and run; `bistFail` are the courses that the BIST of stage 5 fails (R436). -/
def coldBootEffect (bistFail : List CourseId) (s : State) : State :=
  if s.boot.stage ≠ 1 ∨ ¬ s.boot.regs ∨ s.pwr.dead then s
  else bootRom { s with boot := { s.boot with bistFail := (List.range 32).filter fun n => bistFail.any fun c => decide (c.val = n) } }
/-- COLD_BOOT. -/
def execColdBoot (bistFail : List CourseId) (s : State) : Host.Outcome State Fault Refusal := .next (coldBootEffect bistFail s)
/-- An EXTEST-class instruction is loaded in the TAP (R488). -/
def tapHolds (s : State) : Bool := decide (3 ≤ s.boot.tap)
/-- The restart at t_r (R427, R435). -/
def restart (s : State) : State := bootRom { s with boot := { s.boot with stopped := false, regs := true, refclk := true, stage := 1 } }
/-- WARM_RESTART (R427, R435, R488): not while PERST_N is held or the TAP holds the part. -/
def warmRestartEffect (s : State) : State :=
  if s.boot.stopped ∧ ¬ s.boot.perst ∧ ¬ tapHolds s then restart s else s
/-- WARM_RESTART. -/
def execWarmRestart (s : State) : Host.Outcome State Fault Refusal := .next (warmRestartEffect s)
/-- Fence the courses that failed the boot BIST (R436); the others passed. A warm restart runs no BIST (R435). -/
def bistFences (s : State) : State :=
  if s.boot.cause = 1 ∨ s.boot.cause = 5 then
    forEach (List.range 32) s fun s n =>
      if s.boot.bistFail.contains n then
        raisePart (updCourse s n fun k => { k with fenced := true, bistResult := 2 }) 0x0109 { inst := n }
      else updCourse s n fun k => { k with bistResult := 1 }
  else s
/-- Leave LOW_POWER (R404, R422): a boot step goes on to its BIST, links and memory training (R434). -/
def goActive (s : State) : State :=
  let s1 := { s with pwr := { s.pwr with state := .active, waking := false } }
  if s.boot.stage = 3 then
    forEach (List.range 12) (bistFences { s1 with boot := { s1.boot with stage := 5 } }) restartLink
  else selfRefreshAll s1 false
/-- A scrub begins (R371, R372): keys discarded, sessions ended, ZERO on every trowel. A request that waits in an ended
session is never answered (R398). -/
def scrubStart (s : State) : State :=
  let s1 := forEach (List.range 12) s fun s k => updTrowel s k fun w => { w with zero := true }
  { s1 with sec := { s1.sec with
      scrubbing := true, devKey := none, loadKeys := [], sessions := []
      waiting := s1.sec.waiting.filter fun i => match i with | .setKey .. => false | .releaseKey .. => false | .finish .. => false | _ => true } }
/-- MEMORY_TRAINING_COMPLETE (R434, R435): the stacks are trained or confirmed, and the boot scrub begins (R373). -/
def memoryTrainingCompleteEffect (s : State) : State :=
  if s.boot.stage ≠ 5 then s
  else
    let s1 := forEach (List.range 12) s fun s k => updStack s k fun x => { x with trained := true, trainData := true, selfRefresh := false }
    scrubStart { s1 with boot := { s1.boot with stage := 7, trained := true } }
/-- MEMORY_TRAINING_COMPLETE. -/
def execMemoryTrainingComplete (s : State) : Host.Outcome State Fault Refusal := .next (memoryTrainingCompleteEffect s)

/-! ### The scrub (R371 to R375) -/

/-- Registers of the SFAB and SLNK pages, which a scrub keeps. -/
def fabricPage (off : Nat) : Bool := decide (0x70000 ≤ off ∧ off < 0x7D000)
/-- Apply the configuration store, which moves the count of R443 as every apply does (R440). In a tenant scrub the fabric
pages keep their values (log 72, DEDUCED). -/
def storeApply (s : State) (keepFabric : Bool) : State :=
  let part := fun (x : Option StoreCopy) => x.map fun c => { c with entries := if keepFabric then c.entries.filter (fun e => !fabricPage e.1) else c.entries }
  let s1 := applyStore { s with cfg := { s.cfg with copies := s.cfg.copies.map fun p => (p.1, part p.2) } }
  { s1 with cfg := { s1.cfg with copies := s.cfg.copies } }
/-- What a scrub clears (R371); the count of ticks runs on (R477) (log 72, DEDUCED) (log 73, DESIGN CHOICE). -/
def scrubClear (s : State) : State :=
  let keep := fun (m : NMap Word) => m.filter fun p => fabricPage p.1
  { s with
    mem := { stk := s.mem.stk }
    tile := { courses := s.tile.courses, spinUse := s.tile.spinUse, pairClk := s.tile.pairClk }
    job := { ctxs := s.job.ctxs.map fun p => (p.1, { state := p.2.state }), lastAdmit := s.job.lastAdmit }
    trw := []
    rink := { units := s.rink.units.map fun p => (p.1, if p.2.testing then { p.2 with leaving := false, testing := false, result := 0 } else { p.2 with leaving := false }) }
    post := {}
    host := { s.host with
      regs := keep s.host.regs, irqStatus := keep s.host.irqStatus, irqEnable := keep s.host.irqEnable
      acc := s.host.acc.filter fun p => fabricPage p.1
      lows := [], latch := [], bar4Err := 0, bar4ErrHeld := false, dma := [], evq := {}, evqLost := 0 }
    cfg := { s.cfg with live := keep s.cfg.live, shadow := keep s.cfg.live, dirty := [], result := 0, checking := false }
    tel := { ret := s.tel.ret, ticks := s.tel.ticks, tickTime := s.tel.tickTime }
    sec := { s.sec with images := [], wsets := [], sealed := [], xfer := [], epoch := (s.sec.epoch + 1) % 2 ^ 32, scrubbing := false } }
/-- After a scrub and the store's apply, the generators of a course are loaded only where the live seed is a new one (R101,
R104) (log 63, DESIGN CHOICE). -/
def spinAfterScrub (old s : State) : State :=
  let s1 := { s with tile := { s.tile with courses := old.tile.courses, spinUse := old.tile.spinUse, pairClk := old.tile.pairClk } }
  let new := (List.range 32).filter fun n => live64 old (coursePage n + 0x100) ≠ live64 s (coursePage n + 0x100)
  forEach new s1 fun s n => spinReload s n (live64 s (coursePage n + 0x100))
/-- READY (R434): MSI-X vector 0 is signalled though no part event queue is set up to hold the entry. -/
def readyEffect (s : State) : State :=
  if s.boot.stage ≠ 8 then s
  else
    let s1 : State := { s with boot := { s.boot with stage := 0xF }, cfg := { s.cfg with state := 0 } }
    let s2 := raisePart (emit s1 (.ibi 0x01)) 0x0100 {}
    if s2.host.evqLost = s1.host.evqLost then s2 else signalSource s2 0
/-- READY. -/
def execReady (s : State) : Host.Outcome State Fault Refusal := .next (readyEffect s)

/-! ### Block soft reset (R430) -/

/-- SOFT_RESET: PAGE_CTRL.soft_rst of a page. -/
def softResetEffect (r page : Nat) (s : State) : State :=
  let no := accessErr s page 6 r 0x10
  if !isReady s ∧ 0x3000 ≤ page ∧ page ≠ 0x5000 then notReady s r (page + 0x10)
  else if 0x71000 ≤ page ∧ page < 0x7D000 then
    (let port := (page - 0x71000) / 0x1000
     if switchbackRuns s then
       applyIfIdle (restartLinks (updLink s port fun l => { l with softRst := !portOff s port }) [port])
     else s)
  else if 0x48000 ≤ page ∧ page < 0x4C000 then
    (if noneLoaded s then
       (let d := (page - 0x48000) / 0x1000
        let zero := fun (m : NMap Nat) => m.filter fun p => decide (p.1 / 8 ≠ d)
        { s with post := { s.post with base := zero s.post.base, slots := zero s.post.slots, run := mset s.post.run none d none, rr := mset s.post.rr 7 d 7 } })
     else no)
  else match pageUnit page with
    | some u =>
      if (mget s.rink.units {} (unitKey u)).out then updUnit s u fun x => { x with testing := false, result := 0 } else no
    | none => s
/-- SOFT_RESET. -/
def execSoftReset (r : Req) (page : Nat) (s : State) : Host.Outcome State Fault Refusal := .next (softResetEffect r.val (page / 0x1000 * 0x1000) s)

end Sys2Proof.Machine
end

