-- ==== Sys2Proof/Machine/Power.lean ====
section
/-! DEFINITION. Power states, the wake governor, the power controller and the adaptive loops
(spec/13_power_clocks_thermal.md, R400, R404 to R424). -/

namespace Sys2Proof.Machine

/-! ### Power states (R404, R422) -/

/-- Every junction reads 90 °C or less (R422). -/
def coolEnough (s : State) : Bool :=
  ((List.range 16).all fun p => decide ((pairOf s p).temp ≤ 360)) && decide (s.pwr.iodTemp ≤ 360)
    && (List.range 12).all fun k => decide ((stackOf s k).temp ≤ 360)
/-- A waiting wake command or boot step proceeds where R422 allows it. -/
def tryExit (s : State) : State :=
  if s.pwr.waking ∧ ¬ s.pwr.dead ∧ s.pwr.coolant ∧ s.pwr.state = .lowPower ∧ coolEnough s then goActive s else s
/-- LOW_POWER_EXIT: COOLANT_OK has been asserted for 100 ms (R422). -/
def lowPowerExitEffect (s : State) : State := tryExit { s with pwr := { s.pwr with coolant := true } }
/-- LOW_POWER_EXIT. -/
def execLowPowerExit (s : State) : Host.Outcome State Fault Refusal := .next (lowPowerExitEffect s)
/-- SLEEP (R404): accepted only while every job context is IDLE or TORN_DOWN. -/
def sleepEffect (s : State) : State :=
  if !isReady s then notReady s 4 0x410C
  else if s.pwr.state = .active ∧ noneLoaded s then
    (let s1 := selfRefreshAll (gateAll s) true
     { s1 with pwr := { s1.pwr with state := .lowPower, waking := false } })
  else accessErr s 0x4000 8 4 0x10C
/-- SLEEP. -/
def execSleep (s : State) : Host.Outcome State Fault Refusal := .next (sleepEffect s)
/-- WAKE (R404, R422): waits while a condition is not met; only a reset ends the low power of R251. -/
def wakeEffect (s : State) : State :=
  if !isReady s then notReady s 4 0x410C
  else if s.pwr.state = .lowPower ∧ ¬ s.pwr.dead then tryExit { s with pwr := { s.pwr with waking := true } }
  else s
/-- WAKE. -/
def execWake (s : State) : Host.Outcome State Fault Refusal := .next (wakeEffect s)

/-! ### Gating and the wake governor (R405, R411 to R413) -/

/-- A pair may be gated (R405). -/
def mayGate (s : State) (p : Nat) : Bool :=
  [2 * p, 2 * p + 1].all (fun n => (courseHolder s n).isNone && !(courseOf s n).bist) && !s.boot.resetting && !s.sec.scrubbing
/-- PAIR_GATE (R405): clock stopped, rails at 0.50 V. -/
def pairGateEffect (p : Nat) (s : State) : State :=
  if mayGate s p then
    (let s1 := updPair s p fun x => { x with gated := true, setpoint := 200 }
     { s1 with pwr := { s1.pwr with wakes := s1.pwr.wakes.filter (· ≠ p) } })
  else s
/-- PAIR_GATE. -/
def execPairGate (p : PairId) (s : State) : Host.Outcome State Fault Refusal := .next (pairGateEffect p.val s)
/-- Calibrated setpoint of a pair at a clock, and its load class (R417). -/
def tableEntry (s : State) (p clk : Nat) : Nat × Nat := mget (pairOf s p).table (Config.factorySetpoint p clk, 2) clk
/-- The clock of a pair starts at its target (R412, R424). -/
def startPair (s : State) (p : Nat) : State :=
  let c := clockTarget s p
  updPair s p fun x => { x with gated := false, clk := c, setpoint := (tableEntry s p c).1, guard := 0, stretch := 0, quiet := 0 }
/-- GOVERNOR_RELEASE: the next queued clock start, or one step of the raises (R411, R413). -/
def governorReleaseEffect (s : State) : State :=
  if s.pwr.state ≠ .active then s
  else match s.pwr.wakes with
    | p :: rest => startPair { s with pwr := { s.pwr with wakes := rest } } p
    | [] =>
      forEach (List.range 16) (lowerClocks s) fun s p =>
        let x := pairOf s p
        if x.gated ∨ clockTarget s p ≤ x.clk then s else updPair s p fun x => { x with clk := x.clk + 1 }
/-- GOVERNOR_RELEASE. -/
def execGovernorRelease (s : State) : Host.Outcome State Fault Refusal := .next (governorReleaseEffect s)

/-! ### Power controller (R24, R400) -/

/-- The fastest effective clock of the running pairs. -/
def fastest (s : State) : Nat := ((List.range 16).map fun p => if (pairOf s p).gated then 48 else effClock s p).foldl max 48
/-- POWER_CONTROL_TICK: readings averaged over 1 ms; the clocks fall by one step while a limit is passed, and rise by one
while there is room (R24, R400) (log 82, DEDUCED). -/
def powerControlTickEffect (watts amps : Nat) (s : State) : State :=
  if s.pwr.state ≠ .active then s
  else
    let above := decide (2600 < watts) || decide (4500 < amps)
    let room := decide (watts < 2600 ∧ amps < 4500)
    let ceil := if above then max 48 (min s.pwr.ceil (fastest s) - 1) else if room then min 0x090 (s.pwr.ceil + 1) else s.pwr.ceil
    let cause := if 2600 < watts then 2 else if 4500 < amps then 3 else s.pwr.ceilCause
    lowerClocks { s with pwr := { s.pwr with watts := watts % 65536, amps := amps % 65536, ceil := ceil, ceilCause := cause } }
/-- POWER_CONTROL_TICK. -/
def execPowerControlTick (watts deciamps : Nat) (s : State) : Host.Outcome State Fault Refusal := .next (powerControlTickEffect watts deciamps s)

/-! ### Thermal limits (R418, R423) -/

/-- Some thermal limit restricts a pair, a Rink unit or a trowel (R423). -/
def restricted (s : State) : Bool :=
  ((List.range 16).any fun p => decide ((pairOf s p).therm < 0x090)) || decide (0 < s.pwr.iodFrac)
    || (List.range 12).any fun k => decide (0 < mget s.pwr.trwFrac 0 k)
/-- THROTTLE_N follows; its change is the PWR page's block event (R423, R461). -/
def throttleOut (s : State) : State :=
  if restricted s = s.pwr.throttle then s else blockEvent { s with pwr := { s.pwr with throttle := restricted s } } 0x4000
/-- THERMAL_THROTTLE when an episode begins (R423, R457). -/
def throttleEvent (s : State) (begins : Bool) (unit inst q : Nat) : State :=
  if begins then raisePart s 0x0108 { unit := unit, inst := inst, va := q } else s
/-- A pair's limit: down one step from 100 °C until 98 °C, then up until it no longer restricts (R418). -/
def thermPair (s : State) (p q : Nat) : State :=
  let x := pairOf s p
  let hot := decide (400 ≤ q) || (x.hot && decide (392 < q))
  let cool := decide (q ≤ 392)
  let others := clockTarget (updPair s p fun x => { x with therm := 0x090 }) p
  let lim := if hot then max 48 (min x.therm (effClock s p) - 1)
    else if cool then (if others ≤ x.therm + 1 then 0x090 else x.therm + 1) else x.therm
  throttleEvent (lowerClocks (updPair s p fun x => { x with temp := q, hot := hot, therm := lim })) (hot && decide (0x090 ≤ x.therm)) 8 p q
/-- A fraction code under a thermal limit: one level down from 100 °C, one level back at 98 °C or less (R418). -/
def thermFrac (q old now_ : Nat) : Nat := if 400 ≤ q then min 3 (max old now_ + 1) else if q ≤ 392 then old - 1 else old
/-- A stack's trowel fraction. -/
def thermStack (s : State) (k q : Nat) : State :=
  let old := mget s.pwr.trwFrac 0 k
  let new := thermFrac q old (trowelFraction s k)
  throttleEvent (updStack { s with pwr := { s.pwr with trwFrac := mset s.pwr.trwFrac 0 k new } } k fun x => { x with temp := q })
    (decide (old = 0 ∧ 0 < new)) 7 k q
/-- THERMAL_LIMIT_TICK with a reading in units of 0.25 °C (R418) (log 82, DEDUCED). -/
def thermalLimitTickEffect (t : ThermalTarget) (q : Nat) (s : State) : State :=
  throttleOut (match t with
    | .pair p => thermPair s p.val q
    | .iod =>
      let old := s.pwr.iodFrac
      let new := thermFrac q old (rinkFraction s)
      throttleEvent { s with pwr := { s.pwr with iodFrac := new, iodTemp := q } } (decide (old = 0 ∧ 0 < new)) 10 0 q
    | .stack k => thermStack s k.val q
    | .dram k => updStack (thermStack s k.val q) k.val fun x => { x with dblRefresh := decide (340 < q) })
/-- THERMAL_LIMIT_TICK. -/
def execThermalLimitTick (t : ThermalTarget) (quarterDeg : Nat) (s : State) : Host.Outcome State Fault Refusal :=
  .next (thermalLimitTickEffect t quarterDeg s)

/-! ### Adaptive loops (R415 to R419) -/

/-- DROOP_STRETCH (R415): clock periods lengthen; no result bit changes. -/
def droopStretchEffect (p : Nat) (s : State) : State :=
  if (pairOf s p).gated then s else updPair s p fun x => { x with stretch := x.stretch + 1, quiet := 0 }
/-- DROOP_STRETCH. -/
def execDroopStretch (p : PairId) (s : State) : Host.Outcome State Fault Refusal := .next (droopStretchEffect p.val s)
/-- Guard band of 25 mV in units of 2.5 mV (R419), and the voltage limit of 0.95 V (R415). -/
def guardBand : Nat := 10
@[inherit_doc guardBand] def voltMax : Nat := 380
/-- The pair's clock falls by one step for the voltage limit, code 5 (R415). -/
def voltLower (s : State) (p : Nat) : State :=
  let c := effClock s p
  lowerClocks (updPair s p fun x => { x with volt := max 48 (c - 1) })
/-- VOLTAGE_LOOP_TICK: one window of 10 µs with its count of clocks and the load class (R415, R417, R419) (log 82, DEDUCED). -/
def voltageLoopTickEffect (p clocks load : Nat) (s : State) : State :=
  let x := pairOf s p
  if x.gated then s
  else
    let c := effClock s p
    let e := tableEntry s p c
    let quiet := if x.stretch = 0 then x.quiet + 1 else 0
    let s1 := updPair s p fun x => { x with stretch := 0, quiet := quiet, setpoint := max x.setpoint (e.1 + x.guard) }
    let v := (pairOf s1 p).setpoint
    if clocks < 10000 * x.stretch then
      (if voltMax < v + 1 then voltLower s1 p else updPair s1 p fun x => { x with setpoint := v + 1 })
    else if e.2 < load ∧ x.guard = 0 then
      (if voltMax < e.1 + guardBand then voltLower s1 p
       else updPair s1 p fun x => { x with guard := guardBand, setpoint := max v (e.1 + guardBand), quiet := 0 })
    else if 0 < x.guard ∧ 64 ≤ quiet then
      updPair s1 p fun x =>
        if x.guard = 1 then { x with guard := 0, setpoint := v - 1, volt := 0x090, table := mset x.table (Config.factorySetpoint p c, 2) c (e.1, load) }
        else { x with guard := x.guard - 1, setpoint := v - 1 }
    else if quiet % 100 = 0 ∧ 0 < quiet then
      updPair s1 p fun x => { x with setpoint := max (e.1 + x.guard) (v - 1), volt := min 0x090 (x.volt + 1) }
    else s1
/-- VOLTAGE_LOOP_TICK. -/
def execVoltageLoopTick (p : PairId) (clocks : Nat) (load : Fin 3) (s : State) : Host.Outcome State Fault Refusal :=
  .next (voltageLoopTickEffect p.val clocks load.val s)
/-- Move a code by at most one towards another; its load class is that of the traffic now, which no command tells (R416,
R417) (log 82, DEDUCED). -/
def moveCode (i : Nat) (old : Nat × Nat) (to_ : Nat) : Nat × Nat :=
  (if old.1 < to_ then old.1 + 1 else if to_ < old.1 then old.1 - 1 else old.1, Config.freeNat i % 3)
/-- MEMORY_RECENTRE (R416). -/
def memoryRecentreEffect (k code : Nat) (s : State) : State :=
  if (stackOf s k).trained ∧ ¬ (stackOf s k).selfRefresh then updStack { s with free := s.free + 1 } k fun x => { x with centre := moveCode s.free x.centre code } else s
/-- MEMORY_RECENTRE. -/
def execMemoryRecentre (k : StackId) (code : Nat) (s : State) : Host.Outcome State Fault Refusal := .next (memoryRecentreEffect k.val code s)
/-- FABRIC_EQUALISATION (R416): while the link is UP. -/
def fabricEqualisationEffect (port lane code : Nat) (s : State) : State :=
  if (linkOf s port).state = .up ∧ ¬ (linkOf s port).out then
    updLink { s with free := s.free + 1 } port fun l => { l with taps := mupd l.taps (0, 0) lane fun x => moveCode s.free x code }
  else s
/-- FABRIC_EQUALISATION. -/
def execFabricEqualisation (port : Port) (lane : Fin 8) (code : Nat) (s : State) : Host.Outcome State Fault Refusal :=
  .next (fabricEqualisationEffect port.val lane.val code s)

/-! ### Brake (R420) -/

/-- BRAKE_ASSERT (R420): pairs at 0.60 GHz; Rink and trowel fractions follow from the pin. -/
def brakeAssertEffect (s : State) : State := lowerClocks { s with pwr := { s.pwr with brake := true } }
/-- BRAKE_ASSERT. -/
def execBrakeAssert (s : State) : Host.Outcome State Fault Refusal := .next (brakeAssertEffect s)
/-- BRAKE_DEASSERT (R413, R420): clocks return through the governor. -/
def brakeDeassertEffect (s : State) : State := { s with pwr := { s.pwr with brake := false } }
/-- BRAKE_DEASSERT. -/
def execBrakeDeassert (s : State) : Host.Outcome State Fault Refusal := .next (brakeDeassertEffect s)

end Sys2Proof.Machine
end

