-- ==== Sys2Proof/Machine/Security.lean ====
section
/-! DEFINITION. The Hardom root: tenancy and the scrub, attestation over SPDM, weight transfers, keys and owner slots,
refusals (spec/12_security.md, R365 to R398). -/

namespace Sys2Proof.Machine

/-! ### Measurements and the report (R377 to R384) -/

/-- A digest in the byte order of its standard (R379). -/
def shaBytes (d : Sha) : List Byte := (leBytes 48 d.toNat).reverse
/-- Owner key slot k (R390). -/
def slotOf (s : State) (k : Nat) : Option Slot := mget s.sec.slots none k
/-- A slot is valid under the counter (R391): c − 1 ≤ seq ≤ c. -/
def slotValid (s : State) (k : Nat) : Bool :=
  match slotOf s k with
  | some x => decide (s.sec.counter ≤ x.seq + 1 ∧ x.seq ≤ s.sec.counter ∧ 1 ≤ x.seq)
  | none => false
/-- Sequence number of a slot. -/
def slotSeq (s : State) (k : Nat) : Nat := match slotOf s k with | some x => x.seq | none => 0
/-- The slot in use: the valid one with the higher seq (R391). -/
def ownerSlot (s : State) : Option Nat :=
  match slotValid s 0, slotValid s 1 with
  | true, true => some (if slotSeq s 0 < slotSeq s 1 then 1 else 0)
  | true, false => some 0
  | false, true => some 1
  | false, false => none
/-- The owner key (R391). -/
def ownerKey (s : State) : Option (List Byte) :=
  match ownerSlot s with
  | some k => (slotOf s k).map (·.key)
  | none => none
/-- A sealed channel holds a per-load key. -/
def chanKey (s : State) (i : Nat) : Option LoadKey := mget s.sec.loadKeys none i
/-- The 16 bytes of the security state (R380). -/
def secState (s : State) : List Byte :=
  let b0 := 1 + 2 * b2n s.sec.devKey.isSome + 4 * b2n (decide (sealedRanges s ≠ [])) + 8 * b2n ((List.range 32).any (counted s))
    + 16 * b2n (decide (s.sec.counter = 256)) + 32 * b2n (ownerSlot s).isNone
  let b4 := ((List.range 4).map fun i => b2n (chanKey s i).isSome * 2 ^ i).sum
  leBytes 1 b0 ++ leBytes 1 ((ownerSlot s).getD 0xFF) ++ leBytes 2 s.sec.counter ++ leBytes 1 b4 ++ leBytes 3 0
    ++ leBytes 8 (match s.sec.devKey with | some k => k.1 | none => 0)
/-- The report's image digest array (R379, R382). -/
def imageArray (s : State) : List Byte :=
  let used := s.sec.images.flatMap shaBytes
  used ++ List.replicate (3072 - used.length) 0
/-- Weight-set log entry of set k (R383). -/
def wset (s : State) (k : Nat) : WSet := mget s.sec.wsets {} k
/-- The 64 bytes of that entry (R383). -/
def wsetBytes (s : State) (k : Nat) : List Byte :=
  let w := wset s k
  leBytes 1 k ++ leBytes 1 w.path ++ leBytes 1 w.state ++ leBytes 5 0 ++ leBytes 8 w.bytes
    ++ (if w.state = 2 then shaBytes w.root else List.replicate 48 0)
/-- The report's weight entry array. -/
def wsetArray (s : State) : List Byte := (List.range 256).flatMap (wsetBytes s)
/-- Bytes 0x0000 to 0x4D5F of the report (R379). -/
def reportBody (s : State) (nonce : List Byte) : List Byte :=
  leBytes 4 0x31545441 ++ leBytes 2 1 ++ leBytes 2 0 ++ leBytes 4 19904 ++ leBytes 4 s.sec.epoch ++ padTo 32 (nonce.take 32)
    ++ padTo 16 (Config.serial.take 16) ++ shaBytes (Config.sha384 Config.identityKey)
    ++ leBytes 1 0xB1 ++ leBytes 1 (if Config.gradeB then 0x42 else 0x41) ++ leBytes 2 0
    ++ leBytes 4 s.sec.svn ++ leBytes 1 s.boot.copy ++ leBytes 7 0
    ++ shaBytes Config.romDigest ++ shaBytes s.sec.fwDigest ++ shaBytes s.sec.codecDigest ++ shaBytes (configDigest s)
    ++ secState s ++ leBytes 2 s.sec.images.length ++ leBytes 2 ((List.range 256).filter fun k => (wset s k).state ≠ 0).length
    ++ leBytes 12 0 ++ imageArray s ++ wsetArray s
/-- The signed report (R379), with free-value index `i` for its per-signature value. -/
def reportBytes (s : State) (i : Nat) (nonce : List Byte) : List Byte :=
  reportBody s nonce ++ padTo 96 ((Config.ecdsaSign i (Config.sha384 (reportBody s nonce))).take 96)
/-- A measurement block (R377). -/
def measurement (s : State) (i : Nat) : List Byte :=
  match i with
  | 1 => shaBytes Config.romDigest
  | 2 => shaBytes s.sec.fwDigest
  | 3 => shaBytes s.sec.codecDigest
  | 4 => shaBytes (configDigest s)
  | 5 => shaBytes (Config.sha384 (imageArray s))
  | 6 => shaBytes (Config.sha384 (wsetArray s))
  | 7 => secState s
  | _ => []
/-- One level of the Merkle tree (R384): whole pairs hashed, an odd last one carried up. -/
def merkleUp : List Sha → List Sha
  | a :: b :: t => Config.sha384 (1 :: (shaBytes a ++ shaBytes b)) :: merkleUp t
  | l => l
/-- The root of a level, with fuel for its levels (R384). -/
def merkleRoot (fuel : Nat) (l : List Sha) : Sha :=
  match fuel, l with
  | _, [a] => a
  | f + 1, l => merkleRoot f (merkleUp l)
  | 0, _ => 0
/-- leaf(i) (R384). -/
def merkleLeaf (plain : List Byte) : Sha := Config.sha384 (0 :: plain)

/-! ### Answers -/

/-- The result of an HRDM command (R461, R468). -/
def hrdmResult (s : State) (r : Nat) : State := blockEvent { s with sec := { s.sec with result := r } } 0x8000
/-- An SPDM response (log 31). -/
def spdm (s : State) (p : MsgPath) (code : Nat) (bs : List Byte) : State := emit s (.spdm p code bs)
/-- ERROR response with a code and data 0 (R397, log 31). -/
def spdmError (s : State) (p : MsgPath) (code : Nat) : State := spdm s p 0x7F [BitVec.ofNat 8 code, 0]
/-- SPDM is served from the start of device firmware, outside RECOVERY (log 32). -/
def spdmUp (s : State) : Bool := decide (3 ≤ s.boot.stage ∧ s.boot.stage ≠ 0xE)
/-- A request of a vendor operation succeeded: its response carries the request code (log 31). -/
def vendorOk (s : State) (p : MsgPath) (code : Nat) : State := spdm s p 0x7E [BitVec.ofNat 8 code]
/-- Key of a path in maps. -/
def pathKey : MsgPath → Nat | .pcie => 0 | .i3c => 1
/-- An established session of a path, by id. -/
def sessionOf (s : State) (p : MsgPath) (id : Nat) : Option Session :=
  s.sec.sessions.find? fun x => decide (x.id = id) && decide (x.path = p) && x.est
/-- Change the sessions with an id. -/
def updSession (s : State) (id : Nat) (f : Session → Session) : State :=
  { s with sec := { s.sec with sessions := s.sec.sessions.map fun x => if x.id = id then f x else x } }

/-! ### Security operations, while the Hardom is free (R395) -/

/-- A tenant switch (R370, R372): refused unless no job is loaded and no weight transfer is in progress. -/
def doTenantSwitch (src : SecSource) (s : State) : State :=
  let from_ : Refused := match src with | .hrdm => .hrdm | .spdm p _ => .spdm p
  if s.sec.scrubFailed ∨ ¬ noneLoaded s ∨ s.sec.xfer ≠ [] then secRefuse s from_
  else
    let s1 := scrubStart s
    { s1 with
      sec := { s1.sec with busy := true, scrubFor := some src }
      cfg := { s1.cfg with state := 5, checking := false } }
/-- WEIGHT_SET_CLOSE (R383, R384): CLOSED with its root, or FAILED on a wrong count, which is refused (log 33). -/
def doClose (k : Nat) (s : State) : State :=
  let w := wset s k
  if s.sec.scrubFailed ∨ w.state ≠ 1 then secRefuse s .hrdm
  else
    let ok := (rw s 0x8104).toNat = w.leaves.length
    let w1 := if ok then { w with state := 2, root := merkleRoot w.leaves.length w.leaves } else { w with state := 3 }
    let keys := s.sec.loadKeys.filter fun p => match p.2 with
      | some x => decide (¬ (w.path = 2 ∧ x.loadId.toNat = w.id))
      | none => false
    let s1 : State := { s with sec := { s.sec with wsets := mset s.sec.wsets {} k w1, loadKeys := keys } }
    if ok then hrdmResult s1 1 else secRefuse s1 .hrdm
/-- SET_KEY (R387). -/
def doSetKey (p : MsgPath) (id setId : Nat) (key : List Byte) (s : State) : State :=
  match sessionOf s p id with
  | some x =>
    if s.sec.scrubFailed ∨ ¬ x.owner then secRefuse s (.spdm p)
    else match s.sec.devKey with
      | none => vendorOk { s with sec := { s.sec with devKey := some (setId, key) } } p 2
      | some k => if k = (setId, key) then vendorOk s p 2 else secRefuse s (.spdm p)
  | none => secRefuse s (.spdm p)
/-- RELEASE_KEY (R388). -/
def doReleaseKey (p : MsgPath) (id job chan : Nat) (loadId : Word) (d : Sha) (key : List Byte) (s : State) : State :=
  match sessionOf s p id with
  | some x =>
    let fresh := x.reports.any fun r => decide (r.1 = d ∧ r.2.1 = configDigest s ∧ r.2.2 = s.sec.images)
    let inJob := decide (job < 8) && (decide ((ctxOf s job).state = .loaded) || decide ((ctxOf s job).state = .parked))
    if s.sec.scrubFailed ∨ ¬ fresh ∨ ¬ inJob ∨ 3 < chan ∨ (chanKey s chan).isSome then secRefuse s (.spdm p)
    else
      let k : LoadKey := { job := job, loadId := loadId, key := key, cfg := configDigest s, images := s.sec.images }
      vendorOk { s with sec := { s.sec with loadKeys := mset s.sec.loadKeys none chan (some k) } } p 3
  | none => secRefuse s (.spdm p)
/-- What an owner signature covers (R392). -/
def ownerMessage (seq : Nat) (key : List Byte) : List Byte := padTo 16 (Config.serial.take 16) ++ leBytes 2 seq ++ key
/-- An update carries the signature the counter asks for (R392, R393). -/
def updateSigned (s : State) (seq : Nat) (key sig : List Byte) : Bool :=
  if s.sec.counter = 0 then true
  else match ownerKey s with
    | some k => Config.ecdsaVerify k (Config.sha384 (ownerMessage seq key)) sig
    | none => false
/-- OWNER_KEY_UPDATE (R392 to R394). `writeOk`: the slot reads back with its MAC correct (log 54, DEDUCED). -/
def doOwnerKeyUpdate (p : MsgPath) (seq : Nat) (key sig : List Byte) (writeOk : Bool) (s : State) : State :=
  if s.sec.scrubFailed ∨ 256 ≤ s.sec.counter ∨ seq ≠ s.sec.counter + 1 ∨ key.length ≠ 97 ∨ ¬ updateSigned s seq key sig then secRefuse s (.spdm p)
  else
    let k := match ownerSlot s with | some 0 => 1 | _ => 0
    if writeOk then
      vendorOk { s with sec := { s.sec with slots := mset s.sec.slots none k (some ⟨seq, key⟩), counter := seq } } p 4
    else secRefuse { s with sec := { s.sec with slots := mset s.sec.slots none k none } } (.spdm p)
/-- KEY_EXCHANGE (R376): a session of the lowest free id of 1 and 2, refused beyond two (log 31). -/
def doKeyExchange (p : MsgPath) (mutualAuth : Bool) (s : State) : State :=
  if s.sec.scrubFailed ∨ 2 ≤ s.sec.sessions.length then secRefuse s (.spdm p)
  else
    let id := if s.sec.sessions.any (fun x => decide (x.id = 1)) then 2 else 1
    let x : Session := { id := id, path := p, mutAuth := mutualAuth }
    spdm { s with sec := { s.sec with sessions := s.sec.sessions ++ [x] } } p 0x64 [BitVec.ofNat 8 id]
/-- FINISH (R376, R393): `ok` is whether the requester's proof verifies; mutual authentication needs the owner key. -/
def doFinish (p : MsgPath) (id : Nat) (leafKey : Option (List Byte)) (ok : Bool) (s : State) : State :=
  match s.sec.sessions.find? fun x => decide (x.id = id) && decide (x.path = p) && !x.est with
  | some x =>
    let owner := leafKey.isSome && decide (leafKey = ownerKey s)
    if s.sec.scrubFailed ∨ ¬ ok ∨ (x.mutAuth ∧ ¬ owner) then secRefuse s (.spdm p)
    else spdm (updSession s id fun x => { x with est := true, owner := x.mutAuth }) p 0x65 []
  | none => secRefuse s (.spdm p)

/-! ### Weight transfers (R385, R386, R389) -/

/-- The header of a chunk is well formed and suits the channel (R385, R386). -/
def chunkHeaderOk (ch : Nat) (b : List Byte) : Bool :=
  let kind := lat b 4 1
  let n := lat b 0xC 4
  decide (64 ≤ b.length) && decide (lat b 0 4 = 0x42574B52) && decide (kind ≤ 2) && decide (lat b 6 2 = 0)
    && decide (lat b 0x24 28 = 0) && decide (n ≤ 4194304) && decide (b.length = 64 + n + if kind = 0 then 0 else 16)
    && (decide (kind = 2) == decide (28 ≤ ch))
    && (decide (kind ≠ 0) || decide (lat b 0x10 8 = 0 ∧ lat b 0x18 12 = 0))
    && (decide (kind ≠ 2) || decide (lat b 0x14 4 = 0))
/-- The key a chunk decrypts under (R386); `some none` for a plain chunk. -/
def chunkKey (s : State) (ch : Nat) (b : List Byte) : Option (Option (List Byte)) :=
  if lat b 4 1 = 0 then some none
  else if lat b 4 1 = 1 then
    (match s.sec.devKey with | some k => if lat b 0x10 8 = k.1 then some (some k.2) else none | none => none)
  else match chanKey s (ch - 28) with
    | some k => if lat b 0x10 8 = k.loadId.toNat then some (some k.key) else none
    | none => none
/-- The chunk is the next of its set, of the same kind and id (R383, R386); only a last chunk is short (R385). -/
def chunkNext (s : State) (b : List Byte) : Bool :=
  let w := wset s (lat b 5 1)
  let i := lat b 8 4
  decide (i = w.leaves.length) &&
    ((decide (w.state = 0) && decide (i = 0))
      || (decide (w.state = 1) && decide (w.path = lat b 4 1 ∧ w.id = lat b 0x10 8 ∧ w.bytes = 4194304 * i)))
/-- The destination of a chunk (R386). -/
def chunkPlace (s : State) (d : List Byte) (x : Xfer) (n : Nat) : Bool :=
  let c := lat d 0x16 1
  decide (c < 8) && (decide ((ctxOf s c).state = .loaded) || decide ((ctxOf s c).state = .parked))
    && (regionCheck (ctxOf s c).man 1 (lat d 8 8 + x.plain) n).isNone
/-- The plaintext of a chunk, if its tag verifies (R385, R386). -/
def chunkPlain (key : Option (List Byte)) (b : List Byte) : Option (List Byte) :=
  let n := lat b 0xC 4
  match key with
  | none => some ((b.drop 64).take n)
  | some k => Config.gcmOpen k ((b.drop 0x18).take 12) (b.take 64) ((b.drop 64).take n) (b.drop (64 + n))
/-- A live sink of the job is in host memory (R389). -/
def hostSink (s : State) (c : Nat) : Bool := (List.range 3).any fun k => decide ((sinkCfg s c k).len ≠ 0) && !(sinkCfg s c k).peer
/-- The sealed ranges with [a, a + n) added: the range that ends at `a` grows, or a new one begins; none for a 65th (R389). -/
def sealAdd (s : State) (c a n : Nat) : Option (List (Nat × Nat × Nat)) :=
  if s.sec.sealed.any fun r => decide (r.1 = c ∧ r.2.1 + r.2.2 = a) then
    some (s.sec.sealed.map fun r => if r.1 = c ∧ r.2.1 + r.2.2 = a then (r.1, r.2.1, r.2.2 + n) else r)
  else if 64 ≤ (sealedRanges s).length then none
  else some (s.sec.sealed ++ [(c, a, n)])
/-- What an accepted chunk leaves (R383, R385, R389): its plaintext, its leaf, its sealed range; none when refused (log 52, DEDUCED). -/
def chunkAccept (s : State) (ch : Nat) (d : List Byte) (x : Xfer) (b : List Byte) : Option State :=
  let c := lat d 0x16 1
  let n := lat b 0xC 4
  let a := lat d 8 8 + x.plain
  let k := lat b 5 1
  if ¬ chunkHeaderOk ch b ∨ ¬ chunkNext s b ∨ ¬ chunkPlace s d x n ∨ s.sec.scrubFailed then none
  else match chunkKey s ch b with
    | none => none
    | some key => match chunkPlain key b with
      | none => none
      | some plain =>
        let sealed := if lat b 4 1 = 2 then (if hostSink s c then none else sealAdd s c a n) else some s.sec.sealed
        match sealed with
        | none => none
        | some sl =>
          let w := wset s k
          let w1 : WSet := { path := lat b 4 1, state := 1, bytes := w.bytes + n, leaves := w.leaves ++ [merkleLeaf plain], id := lat b 0x10 8 }
          let s1 := devWrite s none a plain
          some { s1 with sec := { s1.sec with wsets := mset s1.sec.wsets {} k w1, sealed := sl } }
/-- A refused chunk (R383, R386): its destination undefined where the transfer may write, its set FAILED (log 52, DEDUCED). -/
def chunkRefuse (s : State) (ch : Nat) (d : List Byte) (x : Xfer) (b : List Byte) : State :=
  let n := min (lat b 0xC 4) b.length
  let s1 := if chunkPlace s d x n then devUndef s (lat d 8 8 + x.plain) n else s
  let k := if 64 ≤ b.length ∧ lat b 0 4 = 0x42574B52 then some (lat b 5 1) else x.set
  failXfer { s1 with sec := { s1.sec with xfer := mset s1.sec.xfer none ch (some { x with set := k }) } } ch
/-- The last byte of a transfer has arrived (R397, R454). -/
def xferEnd (s : State) (ch : Nat) (x : Xfer) : State :=
  let s1 : State := { s with sec := { s.sec with xfer := mset s.sec.xfer none ch none } }
  if x.refused then secRefuse s1 (.transfer ch) else updChan s1 ch fun k => { k with cur := k.cur.map fun c => (c.1, 1) }
/-- WEIGHT_CHUNK: the next chunk of the transfer that a channel holds (R385, R386) (log 52, DEDUCED). -/
def doChunk (ch : Nat) (b : List Byte) (s : State) : State :=
  match (chanOf s ch).cur, mget s.sec.xfer none ch with
  | some (d, _), some x =>
    let host := x.host + b.length
    let s1 := if x.refused then s
      else if lat d 0x10 4 < host then chunkRefuse s ch d x b
      else match chunkAccept s ch d x b with
        | some t => { t with sec := { t.sec with xfer := mset t.sec.xfer none ch (some { x with plain := x.plain + lat b 0xC 4, set := some (lat b 5 1) }) } }
        | none => chunkRefuse s ch d x b
    let y := { (mget s1.sec.xfer none ch).getD x with host := host }
    let s2 : State := { s1 with sec := { s1.sec with xfer := mset s1.sec.xfer none ch (some y) } }
    if lat d 0x10 4 ≤ host then xferEnd s2 ch y else s2
  | _, _ => s

/-! ### The queue of the Hardom (R395 to R397) -/

/-- The security operation a waiting request asks for. -/
def secDo (i : Instr) (s : State) : State :=
  match i with
  | .tenantSwitch src => doTenantSwitch src s
  | .setKey p id setId key => doSetKey p id setId.toNat key s
  | .releaseKey p id job chan loadId d key => doReleaseKey p id job chan loadId d key s
  | .ownerKeyUpdate p seq key sig ok => doOwnerKeyUpdate p seq key sig ok s
  | .keyExchange p m => doKeyExchange p m s
  | .finish p id k ok => doFinish p id k ok s
  | .weightChunk ch b => doChunk ch.val b s
  | .snapshotRequest c => snapshotRequestEffect c.val s
  | _ => s
/-- Serve waiting requests while the Hardom is free (R396) (log 37, DESIGN CHOICE). -/
def drainSec (fuel : Nat) (s : State) : State :=
  match fuel, s.sec.waiting with
  | f + 1, i :: t => if s.sec.busy then s else drainSec f (secDo i { s with sec := { s.sec with waiting := t } })
  | _, _ => s
/-- The Hardom becomes free, and the next request is served (R396). -/
def secFree (s : State) : State := drainSec s.sec.waiting.length { s with sec := { s.sec with busy := decide (s.sec.refusing ≠ []) } }
/-- A security request arrives (R396): it waits for a busy Hardom (log 37, DESIGN CHOICE). -/
def secArrive (i : Instr) (s : State) : State :=
  if s.sec.busy ∨ (s.sec.scrubbing ∧ ¬ s.sec.scrubFailed) then { s with sec := { s.sec with waiting := s.sec.waiting ++ [i] } }
  else secDo i s
/-- A security request over SPDM. -/
def secRequest (i : Instr) (s : State) : State := if spdmUp s then secArrive i s else s
/-- A command of the HRDM page (R396, R463): dropped while busy, or before READY. -/
def hrdmCommand (s : State) (r : Nat) (f : State → State) : State :=
  if !isReady s then notReady s r 0x8100
  else if s.sec.busy then accessErr s 0x8000 4 r 0x8100
  else f s

/-- TENANT_SWITCH, by HRDM command from requester r. -/
def tenantSwitchHrdm (r : Nat) (s : State) : State := hrdmCommand s r (doTenantSwitch .hrdm)
/-- TENANT_SWITCH (R370). -/
def tenantSwitchEffect (src : SecSource) (s : State) : State :=
  match src with
  | .hrdm => tenantSwitchHrdm 4 s
  | .spdm .. => secRequest (.tenantSwitch src) s
/-- TENANT_SWITCH. -/
def execTenantSwitch (src : SecSource) (s : State) : Host.Outcome State Fault Refusal := .next (tenantSwitchEffect src s)
/-- WEIGHT_SET_CLOSE, from requester r (R383) (log 33, DEDUCED). -/
def weightSetCloseEffect (r k : Nat) (s : State) : State := hrdmCommand s r (doClose k)
/-- WEIGHT_SET_CLOSE. -/
def execWeightSetClose (set : Fin 256) (s : State) : Host.Outcome State Fault Refusal := .next (weightSetCloseEffect 4 set.val s)
/-- WEIGHT_CHUNK (R385, R386): host DMA is stopped in D3hot and while the link is down (R451); during a scrub the chunk
waits for the Hardom. -/
def weightChunkEffect (ch : Nat) (b : List Byte) (s : State) : State :=
  if s.host.d3 ∨ s.host.linkLost ∨ s.boot.perst then s
  else if s.sec.scrubbing ∧ ¬ s.sec.scrubFailed then { s with sec := { s.sec with waiting := s.sec.waiting ++ [.weightChunk (Fin.ofNat 32 ch) b] } }
  else doChunk ch b s
/-- WEIGHT_CHUNK. -/
def execWeightChunk (ch : ChanId) (bytes : List Byte) (s : State) : Host.Outcome State Fault Refusal := .next (weightChunkEffect ch.val bytes s)
/-- The answer of a refused operation (R397). -/
def secAnswer (r : Refused) (s : State) : State :=
  match r with
  | .hrdm => hrdmResult s 2
  | .spdm p => spdmError s p 5
  | .load => loadDone { s with job := { s.job with loads := s.job.loads.drop 1 } } 0x23 0 (loadCtx s)
  | .transfer ch => updChan s ch fun k => { k with cur := k.cur.map fun c => (c.1, 2) }
  | .snapshot => s
/-- SEC_REFUSED (R397): one refusal is answered and counted; a scrub keeps the Hardom busy. -/
def secRefusedEffect (s : State) : State :=
  match s.sec.refusing with
  | [] => s
  | r :: t =>
    let s1 := bump (secAnswer r { s with sec := { s.sec with refusing := t } }) 0x8120 1
    if s1.sec.scrubbing ∧ ¬ s1.sec.scrubFailed then s1 else secFree s1
/-- SEC_REFUSED. -/
def execSecRefused (s : State) : Host.Outcome State Fault Refusal := .next (secRefusedEffect s)

/-! ### The end of a scrub (R371 to R375) and sealed ranges (R389) -/

/-- A stack reports a write failure (R374): the part stays in SCRUBBING (log 53, DEDUCED). -/
def scrubFail (k : StackId) (a : Nat) (s : State) : State :=
  secFree (raisePart { s with sec := { s.sec with scrubFailed := true } } 0x010A { inst := k.val, b := a })
/-- The scrub ends (R371, R372, R373): the session begins; at boot the configuration store is applied (R434). -/
def scrubDone (s : State) : State :=
  let s1 := scrubClear s
  if s.boot.stage = 7 then
    let s2 := spinAfterScrub s (storeApply s1 false)
    { s2 with boot := { s2.boot with stage := 8 }, cfg := { s2.cfg with state := 5 } }
  else
    let s2 := spinAfterScrub s (storeApply s1 true)
    let s3 : State := { s2 with sec := { s2.sec with scrubFor := none }, cfg := { s2.cfg with state := 0 } }
    secFree (match s.sec.scrubFor with
      | some .hrdm => hrdmResult s3 1
      | some (.spdm p _) => vendorOk s3 p 5
      | none => s3)
/-- Answer the reports that waited for the scrub, in order (R398). -/
def heldReports (s : State) : List Instr := s.sec.waiting.filter fun i => match i with | .report .. => true | _ => false
/-- REPORT: signed and sent; a session keeps what RELEASE_KEY will ask of it (R379, R388) (log 53, DEDUCED). -/
def doReport (p : MsgPath) (session : Option Nat) (nonce : List Byte) (s : State) : State :=
  let b := reportBytes s s.free nonce
  let s1 : State := { s with
    free := s.free + 1
    sec := { s.sec with chunks := mset s.sec.chunks [] (2 * pathKey p + 1) b } }
  let s2 := match session with
    | some id => if (sessionOf s p id).isSome then updSession s1 id fun x => { x with reports := x.reports ++ [(Config.sha384 b, configDigest s, s.sec.images)] } else s1
    | none => s1
  spdm s2 p 0x7E (1 :: b)
/-- Serve the reports that waited, which are no security operation. -/
def answerReports (is : List Instr) (s : State) : State :=
  forEach is s fun s i => match i with | .report p id nonce => doReport p id nonce s | _ => s
/-- SCRUB_COMPLETE. `failed`: the stack and address of a write failure (R374). -/
def scrubCompleteEffect (failed : Option (StackId × Nat)) (s : State) : State :=
  if ¬ s.sec.scrubbing ∨ s.sec.scrubFailed then s
  else
    let held := heldReports s
    let s1 : State := { s with sec := { s.sec with waiting := s.sec.waiting.filter fun i => !held.contains i } }
    match failed with
    | some (k, a) => scrubFail k a s1
    | none => answerReports held (scrubDone s1)
/-- SCRUB_COMPLETE. -/
def execScrubComplete (failed : Option (StackId × Nat)) (s : State) : Host.Outcome State Fault Refusal := .next (scrubCompleteEffect failed s)
/-- SEALED_RANGE_ZEROED (R389): zeros are in place and the ranges are free. -/
def sealedRangeZeroedEffect (c : Nat) (s : State) : State :=
  let mine := (s.job.zeroing.filter (·.1 = c)).flatMap (·.2)
  let s1 := forEach mine s fun s r => devWrite s none r.1 (List.replicate r.2 0)
  { s1 with job := { s1.job with zeroing := s1.job.zeroing.filter (·.1 ≠ c) } }
/-- SEALED_RANGE_ZEROED. -/
def execSealedRangeZeroed (c : Ctx) (s : State) : Host.Outcome State Fault Refusal := .next (sealedRangeZeroedEffect c.val s)

/-! ### SPDM requests (R376 to R378) -/

/-- A request answered at once (log 31, PRESUMED). -/
def spdmRequest (s : State) (f : State → State) : State := if spdmUp s then f s else s
/-- GET_VERSION: 1.2 and 1.3; the negotiation starts again (R376). -/
def getVersionEffect (p : MsgPath) (s : State) : State :=
  spdmRequest s fun s => spdm { s with sec := { s.sec with spdmVer := mset s.sec.spdmVer 0 (pathKey p) 0 } } p 0x04 [0x12, 0x13]
/-- GET_VERSION. -/
def execGetVersion (p : MsgPath) (s : State) : Host.Outcome State Fault Refusal := .next (getVersionEffect p s)
/-- GET_CAPABILITIES: the requester's version, 1.2 or 1.3, is taken (R376). -/
def getCapabilitiesEffect (p : MsgPath) (v12 : Bool) (s : State) : State :=
  let v := if v12 then 12 else 13
  spdmRequest s fun s => spdm { s with sec := { s.sec with spdmVer := mset s.sec.spdmVer 0 (pathKey p) v } } p 0x61 [if v12 then 0x12 else 0x13]
/-- GET_CAPABILITIES. -/
def execGetCapabilities (p : MsgPath) (v12 : Bool) (s : State) : Host.Outcome State Fault Refusal := .next (getCapabilitiesEffect p v12 s)
/-- NEGOTIATE_ALGORITHMS: the one set of algorithms of R376. -/
def execNegotiateAlgorithms (p : MsgPath) (s : State) : Host.Outcome State Fault Refusal := .next (spdmRequest s fun s => spdm s p 0x63 [])
/-- GET_DIGESTS: the digest of slot 0's chain (R376). -/
def execGetDigests (p : MsgPath) (s : State) : Host.Outcome State Fault Refusal :=
  .next (spdmRequest s fun s => spdm s p 0x01 (shaBytes (Config.sha384 Config.certChain)))
/-- GET_CERTIFICATE: a part of slot 0's chain (R376). -/
def execGetCertificate (p : MsgPath) (off len : Nat) (s : State) : Host.Outcome State Fault Refusal :=
  .next (spdmRequest s fun s => spdm s p 0x02 ((Config.certChain.drop off).take len))
/-- CHALLENGE: signed with the identity key over chain digest and nonce (R376, log 31). -/
def challengeEffect (p : MsgPath) (nonce : List Byte) (s : State) : State :=
  spdmRequest s fun s =>
    let d := shaBytes (Config.sha384 Config.certChain)
    spdm { s with free := s.free + 1 } p 0x03 (d ++ Config.ecdsaSign s.free (Config.sha384 (d ++ nonce)))
/-- CHALLENGE. -/
def execChallenge (p : MsgPath) (nonce : List Byte) (s : State) : Host.Outcome State Fault Refusal := .next (challengeEffect p nonce s)
/-- GET_MEASUREMENTS (R377): index 0 gives their number and 0xFF all of them, under DSP0274 (log 31). -/
def getMeasurementsEffect (p : MsgPath) (i : Nat) (s : State) : State :=
  spdmRequest s fun s =>
    if i = 0 then spdm s p 0x60 [7]
    else if i = 0xFF then spdm s p 0x60 ((List.range 7).flatMap fun k => BitVec.ofNat 8 (k + 1) :: measurement s (k + 1))
    else if i ≤ 7 then spdm s p 0x60 (BitVec.ofNat 8 i :: measurement s i)
    else spdmError s p 1
/-- GET_MEASUREMENTS. -/
def execGetMeasurements (p : MsgPath) (index : Nat) (s : State) : Host.Outcome State Fault Refusal := .next (getMeasurementsEffect p index s)
/-- KEY_EXCHANGE. -/
def execKeyExchange (p : MsgPath) (mutualAuth : Bool) (s : State) : Host.Outcome State Fault Refusal :=
  .next (secRequest (.keyExchange p mutualAuth) s)
/-- FINISH. -/
def execFinish (p : MsgPath) (session : Nat) (leafKey : Option (List Byte)) (ok : Bool) (s : State) : Host.Outcome State Fault Refusal :=
  .next (secRequest (.finish p session leafKey ok) s)
/-- A request inside a session: acknowledged, or InvalidSession (log 31). -/
def inSession (p : MsgPath) (id code : Nat) (f : State → State) (s : State) : State :=
  spdmRequest s fun s => if (sessionOf s p id).isSome then spdm (f s) p code [] else spdmError s p 2
/-- SPDM HEARTBEAT (R376). -/
def execSpdmHeartbeat (p : MsgPath) (session : Nat) (s : State) : Host.Outcome State Fault Refusal := .next (inSession p session 0x68 id s)
/-- KEY_UPDATE (R376): session keys change, which the model does not hold (log 31). -/
def execKeyUpdate (p : MsgPath) (session : Nat) (s : State) : Host.Outcome State Fault Refusal := .next (inSession p session 0x69 id s)
/-- END_SESSION (R376). -/
def endSessionEffect (p : MsgPath) (id : Nat) (s : State) : State :=
  inSession p id 0x6C (fun s => { s with sec := { s.sec with sessions := s.sec.sessions.filter fun x => x.id ≠ id } }) s
/-- END_SESSION. -/
def execEndSession (p : MsgPath) (session : Nat) (s : State) : Host.Outcome State Fault Refusal := .next (endSessionEffect p session s)
/-- CHUNK_SEND (R376): a large request is gathered; the request itself acts as the command it spells (log 31). -/
def chunkSendEffect (p : MsgPath) (handle : Nat) (bytes : List Byte) (last : Bool) (s : State) : State :=
  spdmRequest s fun s =>
    let k := 2 * pathKey p
    let b := if last then [] else mget s.sec.chunks [] k ++ bytes
    spdm { s with sec := { s.sec with chunks := mset s.sec.chunks [] k b } } p 0x05 [BitVec.ofNat 8 handle]
/-- CHUNK_SEND. -/
def execChunkSend (p : MsgPath) (handle : Nat) (bytes : List Byte) (last : Bool) (s : State) : Host.Outcome State Fault Refusal :=
  .next (chunkSendEffect p handle bytes last s)
/-- CHUNK_GET (R376): piece seqNo, of 1,024 bytes, of the response held (log 31). -/
def chunkGetEffect (p : MsgPath) (handle seqNo : Nat) (s : State) : State :=
  spdmRequest s fun s =>
    let b := mget s.sec.chunks [] (2 * pathKey p + 1)
    if b.length ≤ 1024 * seqNo then spdmError s p 1
    else spdm s p 0x06 (BitVec.ofNat 8 handle :: (b.drop (1024 * seqNo)).take 1024)
/-- CHUNK_GET. -/
def execChunkGet (p : MsgPath) (handle : Nat) (seqNo : Nat) (s : State) : Host.Outcome State Fault Refusal := .next (chunkGetEffect p handle seqNo s)
/-- REPORT (R378, R379): it waits for a scrub to end (R398). -/
def reportEffect (p : MsgPath) (session : Option Nat) (nonce : List Byte) (s : State) : State :=
  spdmRequest s fun s =>
    if s.sec.scrubbing ∧ ¬ s.sec.scrubFailed then { s with sec := { s.sec with waiting := s.sec.waiting ++ [.report p session nonce] } }
    else doReport p session nonce s
/-- REPORT. -/
def execReport (p : MsgPath) (session : Option Nat) (nonce : List Byte) (s : State) : Host.Outcome State Fault Refusal :=
  .next (reportEffect p session nonce s)
/-- SET_KEY. -/
def execSetKey (p : MsgPath) (session : Nat) (setId : Dword) (key : List Byte) (s : State) : Host.Outcome State Fault Refusal :=
  .next (secRequest (.setKey p session setId key) s)
/-- RELEASE_KEY. -/
def execReleaseKey (p : MsgPath) (session : Nat) (job : Nat) (chan : Nat) (loadId : Word) (reportDigest : Sha) (key : List Byte) (s : State) :
    Host.Outcome State Fault Refusal := .next (secRequest (.releaseKey p session job chan loadId reportDigest key) s)
/-- OWNER_KEY_UPDATE. -/
def execOwnerKeyUpdate (p : MsgPath) (seq : Nat) (key : List Byte) (sig : List Byte) (writeOk : Bool) (s : State) :
    Host.Outcome State Fault Refusal := .next (secRequest (.ownerKeyUpdate p seq key sig writeOk) s)

end Sys2Proof.Machine
end

