-- ==== Sys2Proof/Machine/Test.lean ====
section
/-! DEFINITION. Error logs, fencing and BIST of courses, self-test of media units, the idle scrub, boundary scan
(spec/16_telemetry_and_test.md, R480 to R490). -/

namespace Sys2Proof.Machine

/-! ### Courses (R483, R484) -/

/-- A write that a page accepts only in other states, or before READY (R434, R463). -/
def guarded (s : State) (page off r : Nat) (ok : Bool) (f : State → State) : State :=
  if !isReady s then notReady s r (page + off)
  else if ok then f s
  else accessErr s page 8 r off
/-- A loaded job's course mask names the course. -/
def courseNamed (s : State) (n : Nat) : Bool := (loadedCtxs s).any fun c => bit (ctxOf s c).man.courseMask n
/-- COURSE_FENCE: release will ask for a BIST that passes from here on (R483, log 34). -/
def courseFenceEffect (r n : Nat) (s : State) : State :=
  guarded s (coursePage n) 0x110 r (!courseNamed s n) fun s => updCourse s n fun k => { k with fenced := true, bistResult := 0 }
/-- COURSE_FENCE. -/
def execCourseFence (n : CourseId) (s : State) : Host.Outcome State Fault Refusal := .next (courseFenceEffect 4 n.val s)
/-- COURSE_BIST (R484): the pair is woken through the governor. -/
def courseBistEffect (r n : Nat) (s : State) : State :=
  guarded s (coursePage n) 0x110 r ((courseOf s n).fenced && !(courseOf s n).bist) fun s =>
    let s1 := updCourse s n fun k => { k with bist := true }
    if (pairOf s (n / 2)).gated ∧ ¬ s.pwr.wakes.contains (n / 2) then
      { s1 with pwr := { s1.pwr with wakes := s1.pwr.wakes ++ [n / 2] } }
    else s1
/-- COURSE_BIST. -/
def execCourseBist (n : CourseId) (s : State) : Host.Outcome State Fault Refusal := .next (courseBistEffect 4 n.val s)
/-- BIST_DONE (R484, R461): result, block event, and BIST_FAIL on a failure. -/
def bistDoneEffect (n : Nat) (pass : Bool) (s : State) : State :=
  if (courseOf s n).bist then
    (let s1 := blockEvent (updCourse s n fun k => { k with bist := false, bistResult := if pass then 1 else 2 }) (coursePage n)
     if pass then s1 else raisePart s1 0x0109 { inst := n })
  else s
/-- BIST_DONE. -/
def execBistDone (n : CourseId) (pass : Bool) (s : State) : Host.Outcome State Fault Refusal := .next (bistDoneEffect n.val pass s)
/-- COURSE_RELEASE (R483): stores undefined, registers +0, semaphores 0, generators reloaded. -/
def courseReleaseEffect (r n : Nat) (s : State) : State :=
  let k := courseOf s n
  guarded s (coursePage n) 0x110 r (k.fenced && !k.bist && decide (k.bistResult = 1)) fun s =>
    let s1 := updCourse (zeroSems (zeroVregs (undefCourse s n) n) n) n fun k => { k with fenced := false }
    spinReload s1 n (live64 s1 (coursePage n + 0x100))
/-- COURSE_RELEASE. -/
def execCourseRelease (n : CourseId) (s : State) : Host.Outcome State Fault Refusal := .next (courseReleaseEffect 4 n.val s)

/-! ### Media units (R487) -/

/-- A media unit. -/
def unitOf (s : State) (u : MediaUnit) : RUnit := mget s.rink.units {} (unitKey u)
/-- The unit holds an access unit, picture or packet. -/
def unitBusy (s : State) (u : MediaUnit) : Bool := s.rink.tasks.any fun t => decide (t.unit = some u)
/-- UNIT_OUT_OF_SERVICE: at once, or when the item the unit holds is finished (R487). -/
def unitOutOfServiceEffect (r : Nat) (u : MediaUnit) (s : State) : State :=
  guarded s (unitPage u) 0x108 r true fun s =>
    updUnit s u fun x => if unitBusy s u then { x with leaving := true } else { x with out := true }
/-- UNIT_OUT_OF_SERVICE. -/
def execUnitOutOfService (u : MediaUnit) (s : State) : Host.Outcome State Fault Refusal := .next (unitOutOfServiceEffect 4 u s)
/-- UNIT_SELF_TEST: out of service only (R487). -/
def unitSelfTestEffect (r : Nat) (u : MediaUnit) (s : State) : State :=
  guarded s (unitPage u) 0x108 r ((unitOf s u).out && !(unitOf s u).testing) fun s => updUnit s u fun x => { x with testing := true }
/-- UNIT_SELF_TEST. -/
def execUnitSelfTest (u : MediaUnit) (s : State) : Host.Outcome State Fault Refusal := .next (unitSelfTestEffect 4 u s)
/-- SELF_TEST_DONE (R461, R487). -/
def selfTestDoneEffect (u : MediaUnit) (pass : Bool) (s : State) : State :=
  if (unitOf s u).testing then
    blockEvent (updUnit s u fun x => { x with testing := false, result := if pass then 1 else 2 }) (unitPage u)
  else s
/-- SELF_TEST_DONE. -/
def execSelfTestDone (u : MediaUnit) (pass : Bool) (s : State) : Host.Outcome State Fault Refusal := .next (selfTestDoneEffect u pass s)
/-- UNIT_RETURN_TO_SERVICE: not while its self-test runs (R487, log 34). -/
def unitReturnToServiceEffect (r : Nat) (u : MediaUnit) (s : State) : State :=
  guarded s (unitPage u) 0x108 r (!(unitOf s u).testing) fun s => updUnit s u fun x => { x with out := false, leaving := false }
/-- UNIT_RETURN_TO_SERVICE. -/
def execUnitReturnToService (u : MediaUnit) (s : State) : Host.Outcome State Fault Refusal := .next (unitReturnToServiceEffect 4 u s)

/-! ### Memory errors and the idle scrub (R457, R480 to R482, R486) -/

/-- IDLE_SCRUB: `errors` are the bits that have turned since the last one; then `lines` lines are read from where the scrub
stopped, each corrected or poisoned; 0 lines is a request that stops it (R486, log 35) (log 30, log 97, DESIGN CHOICE). -/
def idleScrubEffect (k lines : Nat) (errors : List Upset) (s0 : State) : State :=
  let s := meetSrams (befall s0 errors)
  let x := stackOf s k
  if lines = 0 ∨ ¬ (rw s (hbmPage k + 0x108)).getLsbD 0 ∨ ¬ x.trained ∨ x.selfRefresh ∨ s.sec.scrubbing then
    updStack s k fun x => { x with scrubbing := false }
  else
    let s1 := meetLines s 2 0xFF fun l =>
      decide (l / stackLines = k ∧ (l % stackLines + stackLines - x.scrubLine) % stackLines < lines)
    updStack s1 k fun x => { x with scrubbing := true, scrubLine := (x.scrubLine + lines) % stackLines }
/-- IDLE_SCRUB. -/
def execIdleScrub (k : StackId) (lines : Nat) (errors : List Upset) (s : State) : Host.Outcome State Fault Refusal :=
  .next (idleScrubEffect k.val lines errors s)

/-! ### Boundary scan (R488) -/

/-- What IDCODE reads (R488). -/
def idcode : Word := BitVec.ofNat 32 (0x1 * 2 ^ 28 + 0x0512 * 2 ^ 12 + Config.jedecCode.toNat * 2 + 1)
/-- BOUNDARY_SCAN_INSTRUCTION: codes of `BootSt.tap`; EXTEST-class instructions and PRELOAD act only while PERST_N is
asserted, else as BYPASS; with IDCODE loaded the identification register shifts out (R488). -/
def boundaryScanInstructionEffect (ir : Nat) (s : State) : State :=
  let t := if ir ≤ 2 then ir else if ir ≤ 6 ∧ s.boot.perst then ir else 0
  let s1 : State := { s with boot := { s.boot with tap := t } }
  if t = 1 then emit s1 (.idcode idcode) else s1
/-- BOUNDARY_SCAN_INSTRUCTION. -/
def execBoundaryScanInstruction (ir : Nat) (s : State) : Host.Outcome State Fault Refusal := .next (boundaryScanInstructionEffect ir s)
/-- TEST_LOGIC_RESET: IDCODE is loaded (PRESUMED, IEEE 1149.1, log 24), and a warm restart held back begins (R488). -/
def testLogicResetEffect (s : State) : State :=
  let s1 : State := { s with boot := { s.boot with tap := 1 } }
  if tapHolds s ∧ s.boot.stopped ∧ ¬ s.boot.perst then restart s1 else s1
/-- TEST_LOGIC_RESET. -/
def execTestLogicReset (s : State) : Host.Outcome State Fault Refusal := .next (testLogicResetEffect s)

end Sys2Proof.Machine
end

