-- ==== Sys2Proof/Machine/RinkIngest.lean ====
section
/-! DEFINITION. Rink's decode side: ingest rings, stream contexts, split, damage, shaping, completion
(spec/09_media_ingest.md, R279 to R312). -/

namespace Sys2Proof.Machine

/-! ### Rings, contexts and region checks shared with the encode side -/

/-- GUARD_FAULT of Rink (R289, R457). -/
def rinkGuard (s : State) (c slot cause a : Nat) : State := guardFault s c { unit := 2, word := slot, cause := cause, b := a }
/-- First failing byte of a list of ranges, with its cause (R153, R289). -/
def rangesFault (s : State) (c perm : Nat) (rs : List (Nat × Nat)) : Option (Nat × Nat) :=
  rs.findSome? fun r => regionCheck (ctxOf s c).man perm r.1 r.2
/-- A poisoned line among ranges that are read (R289). -/
def rangesPoison (s : State) (rs : List (Nat × Nat)) : Option Nat := rs.findSome? fun r => poisonedAt s r.1 r.2
/-- Check ranges: `rd` are read now, so errors in them are met and poison tears the job down, `wr` are written, and `store`
is checked against both permissions; then go on, or tear the job down (R289). -/
def withRanges (s : State) (t : RTask) (rd store wr : List (Nat × Nat)) (f : State → State) : State :=
  match (rangesFault s t.ctx 0 (rd ++ store)).orElse fun _ => rangesFault s t.ctx 1 (wr ++ store) with
  | some (a, k) => rinkGuard s t.ctx t.slot k a
  | none =>
    let s1 := meetRanges s 0 t.ctx rd
    match rangesPoison s1 rd with
    | some a => memFault s1 t.ctx 2 0 a
    | none => f s1
/-- Bytes of a picture store that firmware and a unit write become undefined: their layout is not given (R282) (log 103,
DESIGN CHOICE). -/
def storeUndef (s : State) (a n : Nat) : State :=
  if n = 0 then s
  else if a + n ≤ 0x9000000000 then
    { s with free := s.free + 1, mem := { s.mem with
        dev := s.mem.dev.fill a (a + n) (.free s.free)
        bedLines := s.mem.bedLines.filter fun p => !decide (a < 128 * (p.2 + 1) ∧ 128 * p.2 < a + n) } }
  else devUndef s a n
/-- The context of a task that a unit has taken returns from ACTIVE to OPEN (R282). -/
def freeEntry (s : State) (t : RTask) : State :=
  match taskEntry s t with
  | some e => if t.phase ≠ .taken ∧ entryState s e = 2 then setEntryState s e 1 else s
  | none => s
/-- A unit that is to leave service leaves when it holds nothing (R487). -/
def settleUnit (s : State) (u : Option MediaUnit) : State :=
  match u with
  | some m => if (unitOf s m).leaving ∧ ¬ unitBusy s m then updUnit s m fun x => { x with leaving := false, out := true } else s
  | none => s
/-- A unit takes work: in service, and holding nothing; ADEC holds several access units at once (R277, R487). -/
def unitFree (s : State) (u : MediaUnit) : Bool :=
  !(unitOf s u).out && !(unitOf s u).leaving && (decide (u = .adec) || !unitBusy s u)
/-- A unit starts an access unit or picture, with the fraction that holds until it ends (R410). -/
def startUnit (s : State) (u : MediaUnit) : State := updUnit s u fun x => { x with frac := rinkFraction s }
/-- Advance the head past completed slots, in ring order (R288). -/
def advanceHead (s : State) (c : Nat) (enc : Bool) : Nat → State
  | 0 => s
  | f + 1 =>
    let k := ringKey c enc
    let h := ringHead s c enc
    let n := (ringOf s c enc).2
    if s.rink.ahead.contains (k, h) then
      advanceHead { s with rink := { s.rink with
        ahead := s.rink.ahead.filter (· ≠ (k, h)), next := mset s.rink.next 0 k ((h + 1) % max 1 n) } } c enc f
    else s
/-- Source code of a unit in an error record (R290). -/
def sourceCode (u : MediaUnit) : Nat :=
  match u with
  | .vdec n => n.val | .idec n => 32 + n.val | .adec => 64 | .shap n => 96 + n.val | .venc n => 128 + n.val
/-- The signal of a completion (R74, R76, R288, R289). Where it overflows, the event names the unit by its code of R290, or
128 + n for VENC n, and 0 where the task holds none, as at OPEN and CLOSE (log 92, DESIGN CHOICE). -/
def rinkSignal (s : State) (t : RTask) : State :=
  let o := if t.enc then 0x28 else 0x38
  let g := lat t.d o 2 % 512
  if ¬ bit (lat t.d 1 1) 3 then s
  else if holdsTile s t.ctx g then semSignal s g (lat t.d (o + 2) 1) 1
    { tile := g, unit := 2, inst := (match t.unit with | some u => sourceCode u | none => 0), word := t.slot }
  else rinkGuard s t.ctx t.slot 4 g
/-- Complete a descriptor in the order of R288: bytes past status, status, head, signal, interrupt. `comp` is what
follows the status byte. -/
def rinkFinish (s : State) (t : RTask) (status : Nat) (comp : List Byte) : State :=
  let a := slotAddr s t.ctx t.enc t.slot + 0x60
  let s1 := devWrite (devWrite s none (a + 1) comp) none a [BitVec.ofNat 8 status]
  let s2 : State := { s1 with rink := { s1.rink with
    tasks := s1.rink.tasks.filter fun x => decide ¬ (x.ctx = t.ctx ∧ x.enc = t.enc ∧ x.slot = t.slot)
    ahead := s1.rink.ahead ++ [(ringKey t.ctx t.enc, t.slot)] } }
  let s3 := advanceHead s2 t.ctx t.enc (ringOf s2 t.ctx t.enc).2
  let s4 := devWrite s3 none ((ringOf s3 t.ctx t.enc).1 + 4) (leBytes 4 (ringHead s3 t.ctx t.enc))
  let s5 := rinkSignal (updSpill (settleUnit s4 t.unit)) t
  if bit (lat t.d 1 1) 4 && (ctxOf s5 t.ctx).loaded then signalSource s5 (1 + t.ctx) else s5
/-- Slots from the head up to the tail as last read (R283). -/
def ringWindow (s : State) (c : Nat) (enc : Bool) : List Nat :=
  let r := ringOf s c enc
  let h := ringHead s c enc
  let tail := mget s.rink.tails 0 (ringKey c enc) % max 1 r.2
  (List.range ((tail + r.2 - h) % max 1 r.2)).map fun i => (h + i) % r.2
/-- The oldest slot of a ring whose descriptor may be taken: not behind an uncompleted one of its stream, and its stream not
ACTIVE. `seen` holds the streams with an earlier descriptor that has not completed (R284). -/
def nextSlot (s : State) (c : Nat) (enc : Bool) (seen : List Nat) : List Nat → Option Nat
  | [] => none
  | slot :: rest =>
    let stream := devNat s (slotAddr s c enc slot + 4) 4
    let busy := match entryOf s c stream with | some e => decide (entryState s e = 2) | none => false
    if s.rink.ahead.contains (ringKey c enc, slot) then nextSlot s c enc seen rest
    else if (taskOf s c enc slot).isSome || seen.contains stream || busy then nextSlot s c enc (stream :: seen) rest
    else some slot
/-- The slot that a ring offers: a RUNNING job's ring with work that may be taken (R283, R284, R310). -/
def ringOffers (s : State) (c : Nat) (enc : Bool) : Option Nat :=
  if (ctxOf s c).state = .running ∧ (ringOf s c enc).2 ≠ 0 then nextSlot s c enc [] (ringWindow s c enc) else none
/-- Take a descriptor from a slot; its bytes are read first (R289). -/
def takeSlot (take : State → Nat → Nat → List Byte → State) (s : State) (c : Nat) (enc : Bool) (slot : Nat) : State :=
  let a := slotAddr s c enc slot
  let s1 := meetRanges s 0 c [(a, 128)]
  match poisonedAt s1 a 128 with
  | some x => memFault s1 c 2 0 x
  | none => take s1 c slot (devRead s1 a 128)
/-- Descriptors are taken from the rings in round-robin order of job context while one may be (R284, R317). -/
def takeTurns (take : State → Nat → Nat → List Byte → State) (enc : Bool) : Nat → State → State
  | 0, s => s
  | fuel + 1, s =>
    match ((List.range 8).map fun i => (mget s.rink.turn 7 (b2n enc) + 1 + i) % 8).find? fun c => (ringOffers s c enc).isSome with
    | none => s
    | some c =>
      let s1 : State := { s with rink := { s.rink with turn := mset s.rink.turn 7 (b2n enc) c } }
      takeTurns take enc fuel (match ringOffers s c enc with | some slot => takeSlot take s1 c enc slot | none => s1)
/-- A poll of a ring reads its tail; then Rink takes what the rings of its kind offer (R283, R284). -/
def pollRing (take : State → Nat → Nat → List Byte → State) (s : State) (c : Nat) (enc : Bool) : State :=
  let r := ringOf s c enc
  if (ctxOf s c).state ≠ .running ∨ r.2 = 0 ∨ s.pwr.state ≠ .active then s
  else match regionCheck (ctxOf s c).man 0 r.1 (64 + 128 * r.2) with
    | some (a, k) => rinkGuard s c (ringHead s c enc) k a
    | none =>
      let s0 := meetRanges s 0 c [(r.1, 4)]
      match poisonedAt s0 r.1 4 with
      | some x => memFault s0 c 2 0 x
      | none =>
        let s1 : State := { s0 with rink := { s0.rink with tails := mset s0.rink.tails 0 (ringKey c enc) (devNat s0 r.1 4) } }
        takeTurns take enc ((List.range 8).map fun c => (ringWindow s1 c enc).length).sum s1

/-! ### Classes and the split (R308, R309) -/

/-- A DECODE goes to the host (R308, R309, R312): a stream on the host path stays there but at a random access point taken
while its class does not spill; another's class spills, and it is eligible. -/
def toHost (s : State) (e : Nat) (d : List Byte) : Bool :=
  let coding := entGet s e 1 1
  let k := (codingClass coding).getD 0
  let rap := bit (lat d 1 1) 2
  if entFlag s e 0 then !(rap && !spills s k)
  else spills s k && bit (lat d 1 1) 1 && (decide (coding = 5 ∨ coding = 6 ∨ coding = 7 ∨ coding = 9) || rap)
/-- The planes of a DECODE go to the host for shaping (R308). -/
def toHostShape (s : State) (d : List Byte) : Bool :=
  decide (lat d 0 1 = 2) && spills s 3 && bit (lat d 1 1) 1 && decide (lat d 0x40 8 ≠ 0)

/-! ### Descriptor checks (R285, R286) -/

/-- A video picture is asked for: emit on a DECODE, or a SHAPE. -/
def wantsOut (d : List Byte) : Bool := decide (lat d 0 1 = 3) || bit (lat d 1 1) 0
/-- BAD_DESCRIPTOR for reasons that the descriptor alone shows (R285, R286). -/
def ingestBad (d : List Byte) : Bool :=
  let op := lat d 0 1
  decide (op < 1 ∨ 4 < op ∨ 31 < lat d 1 1 ∨ 2 < lat d 2 1 ∨ 2 < lat d 3 1 ∨ 511 < lat d 0x38 2 ∨ lat d 0x3B 5 ≠ 0)
    || (decide (op = 1) && ((codingClass (lat d 0x40 1)).isNone || decide (3 < lat d 0x41 1 ∨ lat d 0x43 1 ≠ 0)))
    || (decide (op = 2) && decide (lat d 0x48 24 ≠ 0))
    || (decide (op = 3) && decide (1 < lat d 0x40 1 ∨ 3 < lat d 0x41 1 ∨ lat d 0x42 1 < 1 ∨ 16 < lat d 0x42 1 ∨ lat d 0x50 16 ≠ 0
        ∨ lat d 0x44 2 < 1 ∨ 16384 < lat d 0x44 2 ∨ lat d 0x46 2 < 1 ∨ 12288 < lat d 0x46 2))
    || (decide (op = 4) && decide (lat d 0x40 32 ≠ 0))
    || ((decide (op = 2) || decide (op = 3)) && wantsOut d && decide (lat d 0x20 8 % 64 ≠ 0 ∨ lat d 0x28 4 % 64 ≠ 0 ∨ lat d 0x30 8 % 64 ≠ 0))
/-- Output size of a picture out of range (R285). -/
def outBad (d : List Byte) : Bool := decide (lat d 0x2C 2 < 1 ∨ 16384 < lat d 0x2C 2 ∨ lat d 0x2E 2 < 1 ∨ 16384 < lat d 0x2E 2)
/-- Bytes 0x61 to 0x7F of an ingest completion (R287). -/
def ingestComp (s : State) (cflags frame errors need : Nat) : List Byte :=
  leBytes 1 cflags ++ leBytes 2 0 ++ leBytes 4 frame ++ leBytes 2 errors ++ leBytes 2 0 ++ leBytes 4 0 ++ leBytes 8 need ++ leBytes 8 (now s)
/-- Complete an ingest descriptor with a status and nothing else (R287). -/
def ingestEnd (s : State) (t : RTask) (status : Nat) : State :=
  rinkFinish (freeEntry s t) t status (ingestComp s t.cflags t.frame t.errors 0)
/-- Status of a descriptor that may not act: BAD_DESCRIPTOR, or STREAM_STATE (R287, R318). -/
def ingestStatus (s : State) (t : RTask) : Option Nat :=
  if ingestBad t.d then some 0x10
  else match taskEntry s t with
    | none => some 0x11
    | some e =>
      let free := decide (entryState s e = 0)
      if lat t.d 0 1 = 1 then (if free then none else some 0x11)
      else if free || (strmOf s e).enc then some 0x11 else none

/-! ### Taking descriptors (R284, R308) -/

/-- Take one ingest descriptor: one with a reserved op completes with BAD_DESCRIPTOR, and a DECODE that goes to the host
with HOST, at once. A stream leaves the host path here, and its references are emptied (R309) (log 55, DEDUCED). -/
def takeIngest (s : State) (c slot : Nat) (d : List Byte) : State :=
  let t : RTask := { ctx := c, enc := false, slot := slot, d := d, hostShape := toHostShape s d }
  let s1 : State := { s with rink := { s.rink with tasks := s.rink.tasks ++ [t] } }
  if lat d 0 1 < 1 ∨ 4 < lat d 0 1 then ingestEnd s1 t 0x10
  else if lat d 0 1 ≠ 2 ∨ (ingestStatus s t).isSome then updSpill s1
  else match taskEntry s t with
    | none => updSpill s1
    | some e =>
      if toHost s e d then
        let s2 := entSet s1 e 3 1 (entGet s1 e 3 1 ||| 1)
        rinkFinish s2 t 0x04 (ingestComp s2 16 (entGet s2 e 8 4) 0 0)
      else if entFlag s e 0 then updSpill (updStrm (entSet s1 e 3 1 (entGet s1 e 3 1 &&& 2)) e fun x => { x with emptied := true })
      else updSpill s1
/-- INGEST_RING_POLL. -/
def execIngestRingPoll (c : Ctx) (s : State) : Host.Outcome State Fault Refusal := .next (pollRing takeIngest s c.val false)

/-! ### OPEN and CLOSE (R281, R286, R287) -/

/-- A task in a phase that the command is about. -/
def atPhase (s : State) (c : Nat) (enc : Bool) (slot op : Nat) (ph : RPhase) (f : RTask → State) : State :=
  match taskOf s c enc slot with
  | some t => if t.phase = ph ∧ lat t.d 0 1 = op ∧ (ctxOf s c).state = .running then f t else s
  | none => s
/-- The first 64 bytes of an entry at OPEN (R281). -/
def openEntry (c : Nat) (coding stream store bytes w h chroma depth : Nat) : List Byte :=
  leBytes 1 1 ++ leBytes 1 coding ++ leBytes 1 c ++ leBytes 1 0 ++ leBytes 4 stream ++ leBytes 4 0 ++ leBytes 4 0
    ++ leBytes 8 store ++ leBytes 8 bytes ++ leBytes 2 w ++ leBytes 2 h ++ leBytes 1 chroma ++ leBytes 1 depth ++ leBytes 2 0
    ++ leBytes 4 0 ++ leBytes 4 0 ++ leBytes 8 0 ++ leBytes 8 0
/-- INGEST_OPEN (R286, R287). -/
def ingestOpenEffect (c slot : Nat) (s : State) : State :=
  atPhase s c false slot 1 .taken fun t =>
    let d := t.d
    let need := Config.storeNeed (lat d 0x40 1) (lat d 0x41 1) (lat d 0x42 1) (lat d 0x44 2) (lat d 0x46 2)
    let fin := fun (s : State) (st : Nat) => rinkFinish s t st (ingestComp s 0 0 0 (if st = 0x10 ∨ st = 0x11 then 0 else need))
    match ingestStatus s t, taskEntry s t with
    | some st, _ => fin s st
    | none, some e =>
      if lat d 0x50 8 < need then fin s 0x12
      else
        let cfg := if lat d 0x5C 4 = 0 then [] else [(lat d 8 8 + lat d 0x58 4, lat d 0x5C 4)]
        withRanges s t cfg [(lat d 0x48 8, lat d 0x50 8)] [] fun s =>
          let b := openEntry c (lat d 0x40 1) t.stream (lat d 0x48 8) (lat d 0x50 8) (lat d 0x44 2) (lat d 0x46 2) (lat d 0x41 1) (lat d 0x42 1)
          let s1 := entPut s e 0 b
          fin (updStrm s1 e fun _ => { open_ := d, config := cfg.flatMap fun r => devRead s r.1 r.2 }) 0x01
    | none, none => fin s 0x11
/-- INGEST_OPEN. -/
def execIngestOpen (c : Ctx) (slot : Nat) (s : State) : Host.Outcome State Fault Refusal := .next (ingestOpenEffect c.val slot s)
/-- INGEST_CLOSE (R286): the context becomes FREE. -/
def ingestCloseEffect (c slot : Nat) (s : State) : State :=
  atPhase s c false slot 4 .taken fun t =>
    match ingestStatus s t, taskEntry s t with
    | none, some e => rinkFinish (updStrm (setEntryState s e 0) e fun _ => {}) t 0x01 (ingestComp s 0 (entGet s e 8 4) 0 0)
    | some st, _ => ingestEnd s t st
    | none, none => ingestEnd s t 0x11
/-- INGEST_CLOSE. -/
def execIngestClose (c : Ctx) (slot : Nat) (s : State) : Host.Outcome State Fault Refusal := .next (ingestCloseEffect c.val slot s)

/-! ### DECODE (R274 to R278, R282, R290 to R295) -/

/-- What a DECODE reads: its coded bytes and the stream's picture store, where its references lie (R282, R289). -/
def decodeReads (s : State) (e : Nat) (d : List Byte) : List (Nat × Nat) :=
  [(lat d 8 8, lat d 0x10 4), (entGet s e 0x10 8, entGet s e 0x18 8)]
/-- Channel slots that an audio access unit holds: one for each channel of its stream, at most 1,024 (R277). -/
def audioSlots (s : State) (t : RTask) : Nat :=
  match taskEntry s t with
  | some e => max 1 (min 1024 (Config.audioFormat (strmOf s e).config (devRead s (lat t.d 8 8) (lat t.d 0x10 4))).1)
  | none => 1
/-- Slots in use of ADEC (R277, R471). -/
def adecSlots (s : State) : Nat := ((s.rink.tasks.filter fun t => t.unit = some .adec).map (audioSlots s)).sum
/-- DECODE: the descriptor is given to unit u, which reads the coded bytes (R282); a wrong one completes at once (log 38,
DEDUCED). -/
def decodeEffect (c slot : Nat) (u : MediaUnit) (s : State) : State :=
  atPhase s c false slot 2 .taken fun t =>
    match ingestStatus s t, taskEntry s t with
    | none, some e =>
      if !unitFree s u || decide (unitClass u ≠ codingClass (entGet s e 1 1)) || (decide (u = .adec) && decide (1024 < adecSlots s + audioSlots s t)) then s
      else if bit (lat t.d 1 1) 0 && decide (unitClass u ≠ some 2) && outBad t.d then ingestEnd s t 0x10
      else
        withRanges s t (decodeReads s e t.d) [] [(entGet s e 0x10 8, entGet s e 0x18 8)] fun s =>
          updSpill (putTask (startUnit (setEntryState s e 2) u)
            { t with phase := .decoding, unit := some u, frame := entGet s e 8 4, coded := devRead s (lat t.d 8 8) (lat t.d 0x10 4) })
    | some st, _ => ingestEnd s t st
    | none, none => ingestEnd s t 0x11
/-- DECODE. -/
def execDecode (c : Ctx) (slot : Nat) (u : MediaUnit) (s : State) : Host.Outcome State Fault Refusal := .next (decodeEffect c.val slot u s)

/-- The picture or the sound lies outside R274 to R277 for its coding: sizes, profiles, levels, chroma and depth, components,
channels and rates (R278). -/
def unsupported (coding : Nat) (f : Finding) (audio : Nat × Nat × Nat × Bool) : Bool :=
  let video := decide (16 ≤ f.width ∧ f.width ≤ 8192 ∧ 16 ≤ f.height ∧ f.height ≤ 4320)
  let image := decide (1 ≤ f.width ∧ f.width ≤ 16384 ∧ 1 ≤ f.height ∧ f.height ≤ 12288)
  let ch := audio.1
  let rate := decide (8000 ≤ audio.2.1 ∧ audio.2.1 ≤ 192000)
  let d := f.depth
  f.extra || !(match coding with
    | 0x01 => video && decide (f.profile < 2 ∧ f.level ≤ 62) &&
        decide ((f.chroma ≤ 1 ∧ d = 8) ∨ (f.profile = 1 ∧ f.chroma = 2 ∧ 8 ≤ d ∧ d ≤ 10))
    | 0x02 => video && decide (f.profile < 4 ∧ f.level ≤ 62 ∧ f.chroma ≤ 3 ∧ 8 ≤ d ∧ d ≤ 12)
    | 0x03 => video && decide (f.profile < 1 ∧ f.level ≤ 62 ∧ f.chroma ≤ 1 ∧ 8 ≤ d ∧ d ≤ 10)
    | 0x04 => video && decide (f.profile < 2 ∧ f.level ≤ 63 ∧ 8 ≤ d ∧ d ≤ 10 ∧ (f.chroma ≤ 1 ∨ (f.profile = 1 ∧ f.chroma = 3)))
    | 0x05 | 0x06 => image && decide (1 ≤ f.comps ∧ f.comps ≤ 4 ∧ 1 ≤ d ∧ d ≤ 16)
    | 0x07 => image && decide ((f.comps = 1 ∨ f.comps = 3) ∧ d = 8)
    | 0x08 => image && decide (1 ≤ f.chroma ∧ f.chroma ≤ 3 ∧ 8 ≤ d ∧ d ≤ 16)
    | 0x09 => image && decide ((f.comps = 1 ∨ f.comps = 3) ∧ d = 10)
    | 0x10 => rate && decide (1 ≤ ch ∧ ch ≤ 1024) && (if audio.2.2.2 then decide (audio.2.2.1 = 32) else [16, 24, 32].contains audio.2.2.1)
    | 0x11 => rate && decide (1 ≤ ch ∧ ch ≤ 8 ∧ audio.2.2.1 ≤ 24)
    | 0x12 => rate && decide (1 ≤ ch ∧ ch ≤ 48)
    | 0x13 => rate && decide (1 ≤ ch ∧ ch ≤ 255)
    | _ => false)
/-- The damage of an access unit: what the decoder found, or the whole unit where it uses unsupported syntax (R278, R290). -/
def unitDamage (coding : Nat) (f : Finding) (audio : Nat × Nat × Nat × Bool) : List Damage :=
  if unsupported coding f audio then [⟨0, 0xFFFF, 5, 0xFFFFFFFF⟩] else f.damage
/-- A reference is not held by the context: it was never decoded here, or lies before the references were emptied (R293). -/
def missingRef (base frame : Nat) (f : Finding) : Bool :=
  f.refs.any fun r => match r with | some n => decide (n < base ∨ frame ≤ n) | none => true
/-- The frame resets its stream's references (R294), by its coding. -/
def resetsRefs (coding : Nat) (f : Finding) : Bool :=
  match coding, f.kind with
  | 1, .idr => true
  | 2, .idr | 2, .irap | 2, .cra | 2, .recovery => true
  | 3, .idr | 3, .irap | 3, .cra | 3, .recovery => true
  | 4, .key => true
  | _, _ => false
/-- Taint lasts for the unit alone: intra-only codings and audio (R294). -/
def taintAlone (coding : Nat) : Bool := decide (5 ≤ coding)
/-- An error record (R290). -/
def errRecord (t : RTask) (u : MediaUnit) (off unitNo cls action block : Nat) : List Byte :=
  leBytes 4 t.stream ++ leBytes 4 t.frame ++ leBytes 8 (lat t.d 0x18 8) ++ leBytes 4 off ++ leBytes 2 unitNo ++ leBytes 1 cls
    ++ leBytes 1 action ++ leBytes 4 block ++ leBytes 2 t.slot ++ leBytes 1 (sourceCode u) ++ leBytes 1 0
/-- Write an error record to the job's media error queue of 256 (R290); the queue's becoming non-empty is the RINK page's
block event (R461). -/
def putErr (s : State) (c : Nat) (r : List Byte) : State :=
  let q := mget s.rink.merr [] c
  if 256 ≤ q.length then { s with rink := { s.rink with merrOvf := mupd s.rink.merrOvf 0 c fun n => min (2 ^ 32 - 1) (n + 1) } }
  else
    let s1 : State := { s with rink := { s.rink with merr := mset s.rink.merr [] c (q ++ [r]) } }
    if q = [] then blockEvent s1 0x80000 else s1
/-- The records of an access unit (R290, R292, R293) (log 55, DEDUCED). -/
def findRecords (t : RTask) (u : MediaUnit) (audio good missing : Bool) (ds : List Damage) : List (List Byte) :=
  let action := if audio then 3 else if good then 1 else 2
  ds.map (fun x => errRecord t u x.byteOffset x.unitNo x.cls action x.block)
    ++ (if missing then [errRecord t u 0 0xFFFF 3 4 0xFFFFFFFF] else [])
/-- Judge an access unit against its context: damage, missing references and taint. Pictures that refer to pictures before
a CRA stay tainted where those were (R294). -/
def judge (s : State) (e coding frame : Nat) (coded : List Byte) (f : Finding) : Judged :=
  let x := strmOf s e
  let ds := unitDamage coding f (Config.audioFormat x.config coded)
  let missing := missingRef (if x.emptied then frame else x.base) frame f
  let hurt := decide (ds ≠ []) || missing
  let was := entFlag s e 1
  let resets := resetsRefs coding f
  let cra := if resets then (if was ∧ f.kind = .cra then some frame else none) else x.cra
  let before := fun (k : Nat) => f.refs.any fun r => match r with | some n => decide (n < k) | none => false
  let leading := !resets && (match x.cra with | some k => before k | none => false)
  { damage := ds, missing := missing, tainted := hurt || (was && !resets) || leading
    stays := (hurt || (was && !resets)) && !taintAlone coding, cra := cra, good := entFlag s e 2 }
/-- cflags of an access unit (R287): concealed, missing_ref, tainted, grain. -/
def findFlags (f : Finding) (j : Judged) : Nat :=
  b2n (decide (j.damage ≠ [])) + 2 * b2n j.missing + 4 * b2n j.tainted + 8 * b2n (decide (f.grain ≠ []))
/-- Access units of a stream since its references were emptied (R309). -/
def unitsNow (x : Strm) : List (List Byte × Finding) := if x.emptied then [] else x.units
/-- The picture of an access unit (R291 to R293): concealed units come from the last good frame, and the most recent frame
decoded stands in for a missing reference; mid-grey where there is none. -/
def unitPicture (x : Strm) (coding : Nat) (coded : List Byte) (f : Finding) (j : Judged) : Pic :=
  let from_ := if j.good then x.good else .grey
  if coding = 9 then .dpx coded f.width (decide (f.comps = 3)) (decide (j.damage.any fun d => d.unitNo = 0xFFFF)) from_
  else .dec (unitsNow x ++ [(coded, f)]) (j.damage.map fun d => (d.unitNo, d.block)) (if j.missing then x.prev else .grey) from_
/-- What the context holds after an access unit (R281, R292 to R294, R309). -/
def noteFrame (s : State) (e : Nat) (t : RTask) (f : Finding) (j : Judged) : State :=
  let clean := decide (j.damage = []) && !j.missing
  let n := t.frame
  let s1 := entSet s e 3 1 (2 * b2n j.stays + 4 * b2n (clean || j.good))
  let s2 := entSet s1 e 8 4 ((n + 1) % 2 ^ 32)
  let s3 := if clean then entSet s2 e 0xC 4 n else s2
  let s4 := entSet (entSet s3 e 0x28 4 ((entGet s3 e 0x28 4 + t.recs.length) % 2 ^ 32)) e 0x2C 4 ((entGet s3 e 0x2C 4 + j.damage.length) % 2 ^ 32)
  let s5 := storeUndef (entSet s4 e 0x30 8 (lat t.d 0x18 8)) (entGet s e 0x10 8) (entGet s e 0x18 8)
  updStrm s5 e fun x => { x with
    good := if clean then t.pic else x.good
    prev := t.pic
    units := unitsNow x ++ [(t.coded, f)]
    base := if x.emptied then n else x.base
    emptied := false
    cra := j.cra }
/-- Ranges of planes in the layout of R286 from an address: rows of 16-bit samples. -/
def planeRanges (chroma w h a planePitch rowPitch : Nat) : List (Nat × Nat) :=
  (List.range (planes chroma)).flatMap fun p =>
    (List.range (planeH chroma h p)).map fun y => (a + p * planePitch + y * rowPitch, 2 * planeW chroma w p)
/-- Row pitch and plane pitch of planes that the host-shape split writes: packed (log 39). -/
def packedPitch (w h : Nat) : Nat × Nat := (2 * w, 2 * w * h)
/-- Write decoded planes at raw_addr (R286, R308) (log 39, DESIGN CHOICE). -/
def writePlanes (s : State) (t : RTask) : State :=
  let g := t.geom
  let a := lat t.d 0x40 8
  let pp := packedPitch g.1 g.2.1
  forEach (List.range (planes g.2.2.1)) s fun s p =>
    forEach (List.range (planeH g.2.2.1 g.2.1 p)) s fun s y =>
      devWrite s none (a + p * pp.2 + y * pp.1)
        ((List.range (planeW g.2.2.1 g.1 p)).flatMap fun x => leBytes 2 (picSample t.pic g.2.2.2 (sampleNo p x y)))
/-- Rows that a shaper writes (R305). -/
def outRows (d blk : List Byte) : List (Nat × Nat) :=
  (List.range (lat d 0x2E 2)).map fun y => (lat d 0x20 8 + y * lat d 0x28 4, lat d 0x2C 2 * 32 * blkSize blk)
/-- Counters of a unit: access units completed, error records (R471). -/
def countUnit (s : State) (u : MediaUnit) (errors : Nat) : State := bump (bump s (unitPage u + 0x110) 1) (unitPage u + 0x118) errors
/-- Status when output is written, or none was asked for (R287, R312) (log 55, DEDUCED). -/
def plainStatus (t : RTask) : Nat := if t.errors = 0 then 0x01 else 0x02
/-- An access unit ends, with the shaping of its output: its context advances to this frame boundary, its records are
written, its decoder counts it, and the slot completes (R282, R288, R290, R311). -/
def unitEnd (s : State) (t : RTask) (status : Nat) : State :=
  match t.found, taskEntry s t with
  | some (f, j), some e =>
    let s1 := noteFrame s e t f j
    let s2 := forEach t.recs s1 fun s r => putErr s t.ctx r
    ingestEnd (match t.dec with | some u => countUnit s2 u t.recs.length | none => s2) t status
  | _, _ => ingestEnd s t status
/-- The drop policy acts on the access unit (R295). -/
def dropped (t : RTask) : Bool :=
  (decide (lat t.d 2 1 ≠ 0) && decide (t.cflags % 4 ≠ 0)) || (decide (lat t.d 2 1 = 2) && bit t.cflags 2)
/-- The sound of an access unit: FP32 samples by channel (R277); damaged sound is silence (R292). -/
def unitSound (x : Strm) (coding : Nat) (coded : List Byte) (f : Finding) (hurt : Bool) (ch n : Nat) : Word :=
  let fm := Config.audioFormat x.config coded
  if hurt ∨ f.width ≤ n then 0
  else if coding = 0x10 then pcmSample coded fm.1 fm.2.2.1 fm.2.2.2 ch n
  else Config.decodedAudio x.config (unitsNow x ++ [(coded, f)]) ch n
/-- What follows decoding: completion, an audio output, planes for the host, or a shaper (R295, R305, R307, R308). -/
def afterDecode (s : State) (t : RTask) (audio : Bool) (x : Strm) (coding : Nat) (f : Finding) : State :=
  let d := t.d
  if ¬ bit (lat d 1 1) 0 then unitEnd s t (if t.errors = 0 ∧ dropped t then 0x03 else plainStatus t)
  else if dropped t then unitEnd s t 0x03
  else if audio then
    let rate := (Config.audioFormat x.config t.coded).2.1
    let b := audioBytes (devRead s (lat d 0x30 8) 64) rate f.width (unitSound x coding t.coded f (decide (t.cflags % 4 ≠ 0)))
    withRanges s t [] [] [(lat d 0x20 8, b.length)] fun s => unitEnd (devWrite s none (lat d 0x20 8) b) t (plainStatus t)
  else if t.hostShape then
    let g := t.geom
    let pp := packedPitch g.1 g.2.1
    withRanges s t [] [] (planeRanges g.2.2.1 g.1 g.2.1 (lat d 0x40 8) pp.2 pp.1) fun s => unitEnd (writePlanes s t) t 0x05
  else updSpill (settleUnit (putTask s { t with phase := .decoded, unit := none }) t.unit)
/-- A unit reads the shaping or audio block of a task that needs one: checked against rd first (R289). -/
def withBlock (s : State) (t : RTask) (audio : Bool) (f : State → State) : State :=
  if ¬ wantsOut t.d ∨ t.hostShape then f s
  else withRanges s t [(lat t.d 0x30 8, if audio then 64 else 192)] [] [] f
/-- The shaping or audio block refuses the picture (R298, R305, R307): known before the context changes (log 56, DEDUCED). -/
def blockBad (s : State) (t : RTask) (audio : Bool) (w h rate : Nat) : Bool :=
  let d := t.d
  if ¬ wantsOut d ∨ t.hostShape then false
  else if audio then audioBad (devRead s (lat d 0x30 8) 64) rate
  else blkBad (devRead s (lat d 0x30 8) 192) w h (lat d 0x2C 2) (lat d 0x2E 2) (lat d 0x28 4)
/-- The access unit exceeds what OPEN declared (R287 LIMIT). -/
def overLimit (s : State) (e : Nat) (audio : Bool) (f : Finding) : Bool :=
  !audio && decide (entGet s e 0x20 2 < f.width ∨ entGet s e 0x22 2 < f.height ∨ entGet s e 0x24 1 < f.chroma ∨ entGet s e 0x25 1 < f.depth)
/-- DECODE_COMPLETE: a decoder has finished an access unit, with what it found (R288, R290 to R295) (log 55, DEDUCED). -/
def decodeCompleteEffect (c slot : Nat) (f : Finding) (s : State) : State :=
  match taskOf s c false slot with
  | some t =>
    match t.unit, taskEntry s t with
    | some u, some e =>
      let audio := decide (unitClass u = some 2)
      let x := strmOf s e
      let coding := entGet s e 1 1
      if t.phase ≠ .decoding then s
      else if overLimit s e audio f then ingestEnd s { t with frame := 0 } 0x13
      else withBlock s t audio fun s =>
        if blockBad s t audio f.width f.height (Config.audioFormat x.config t.coded).2.1 then ingestEnd s { t with frame := 0 } 0x10
        else
          let j := judge s e coding t.frame t.coded f
          let recs := findRecords t u audio j.good j.missing j.damage
          let t1 : RTask := { t with
            cflags := findFlags f j, errors := recs.length, recs := recs, found := some (f, j), dec := some u
            pic := unitPicture x coding t.coded f j, geom := (f.width, f.height, f.chroma, f.depth) }
          afterDecode (putTask s t1) t1 audio x coding f
    | _, _ => s
  | none => s
/-- DECODE_COMPLETE. -/
def execDecodeComplete (c : Ctx) (slot : Nat) (f : Finding) (s : State) : Host.Outcome State Fault Refusal :=
  .next (decodeCompleteEffect c.val slot f s)

/-! ### SHAPE (R276, R286, R296, R309) -/

/-- Raw planes in memory, as a SHAPE descriptor gives them (R286). -/
def rawPicture (s : State) (d : List Byte) : Pict :=
  let bits := lat d 0x42 1
  { w := lat d 0x44 2, h := lat d 0x46 2, chroma := lat d 0x41 1, depth := bits
    px := fun p x y => devNat s (lat d 8 8 + p * lat d 0x48 4 + y * lat d 0x4C 4 + 2 * x) 2 % 2 ^ bits }
/-- The picture that a shaper works on: raw planes of a SHAPE, or what was decoded or read (R286, R296). -/
def taskPict (s : State) (t : RTask) : Pict :=
  if t.found = none then rawPicture s t.d
  else
    let g := t.geom
    { w := g.1, h := g.2.1, chroma := g.2.2.1, depth := g.2.2.2, px := fun p x y => picSample t.pic g.2.2.2 (sampleNo p x y) }
/-- Grain parameters named by a shaping block (R304). -/
def grainAt (s : State) (blk : List Byte) : Nat × Nat :=
  (lat blk 0x80 8, Config.grainLen (devRead s (lat blk 0x80 8) 256) % 257)
/-- What the shaper reads beside its block: grain parameters, source planes (R289, R304). -/
def shapeReads (s : State) (t : RTask) : List (Nat × Nat) :=
  let d := t.d
  let grain := if lat d 3 1 = 2 then [grainAt s (devRead s (lat d 0x30 8) 192)] else []
  let src := if lat d 0 1 ≠ 3 then []
    else if lat d 0x40 1 = 1 then [(lat d 8 8, lat d 0x10 4)]
    else planeRanges (lat d 0x41 1) (lat d 0x44 2) (lat d 0x46 2) (lat d 8 8) (lat d 0x48 4) (lat d 0x4C 4)
  [(lat d 0x30 8, 192)] ++ grain ++ src
/-- What a shaper finds in a DPX file (R276, R278, R291): it is of a kind that R276 does not name, or its rows end early;
the first byte missing, no unit number and no block are recorded (log 101, PRESUMED). -/
def dpxFinding (b d : List Byte) : Finding :=
  let rgb := decide (dpxNum b 800 1 = 50)
  let w := lat d 0x44 2
  let short := dpxShort b w (lat d 0x46 2) rgb
  { width := w, height := lat d 0x46 2, chroma := lat d 0x41 1, depth := lat d 0x42 1, comps := if rgb then 3 else 1
    profile := 0, level := 0, extra := !dpxKnown b, kind := .plain, refs := [], grain := [], site := none
    damage := if short then [⟨b.length, 0, 2, 0xFFFFFFFF⟩] else [] }
/-- A shaper reads a DPX file: an access unit of its stream, with its damage (R276, R291) (log 101, PRESUMED). -/
def readDpx (s : State) (e : Nat) (u : MediaUnit) (t : RTask) : RTask :=
  let b := devRead s (lat t.d 8 8) (lat t.d 0x10 4)
  let f := dpxFinding b t.d
  let j := judge s e 9 t.frame b f
  let recs := findRecords t u false j.good j.missing j.damage
  { t with
    coded := b, found := some (f, j), dec := none, recs := recs, errors := recs.length, cflags := findFlags f j
    pic := unitPicture (strmOf s e) 9 b f j, geom := (f.width, f.height, f.chroma, f.depth) }
/-- SHAPE: a free shaper takes a SHAPE descriptor or a decoded picture (R296, R306). -/
def shapeEffect (c slot : Nat) (n : Fin 8) (s : State) : State :=
  match taskOf s c false slot with
  | none => s
  | some t =>
    let fresh := decide (t.phase = .taken ∧ lat t.d 0 1 = 3 ∧ (ctxOf s c).state = .running)
    let go := fun (s : State) (t : RTask) =>
      updSpill (putTask (startUnit s (.shap n)) { t with phase := .shaping, unit := some (.shap n) })
    if !unitFree s (.shap n) then s
    else if t.phase = .decoded then withRanges s t (shapeReads s t) [] [] fun s => go s t
    else if !fresh then s
    else match ingestStatus s t, taskEntry s t with
      | none, some e =>
        let t1 : RTask := { t with frame := entGet s e 8 4 }
        withBlock s t false fun s =>
          if outBad t.d || blockBad s t false (lat t.d 0x44 2) (lat t.d 0x46 2) 0 then ingestEnd s t 0x10
          else withRanges s t (shapeReads s t) [] [] fun s =>
            go (setEntryState s e 2) (if lat t.d 0x40 1 = 1 then readDpx s e (.shap n) t1 else t1)
      | some st, _ => ingestEnd s t st
      | none, none => ingestEnd s t 0x11
/-- SHAPE. -/
def execShape (c : Ctx) (slot : Nat) (n : Fin 8) (s : State) : Host.Outcome State Fault Refusal := .next (shapeEffect c.val slot n s)
/-- The picture with film grain (R304): with grain 1 that of the stream's frame, if it carries any; with grain 2 that of the
block's parameters under its own seed. -/
def grainOf (s : State) (t : RTask) (blk : List Byte) (p : Pict) : Pict :=
  let g := lat t.d 3 1
  let own := match t.found with | some q => q.1.grain | none => []
  let q := grainAt s blk
  if g = 1 ∧ own ≠ [] then grainedPict own none p
  else if g = 2 then grainedPict (devRead s q.1 q.2) (some (lat blk 0xE 2)) p
  else p
/-- SHAPE_COMPLETE: the tensor is written and the slot completes (R288, R295, R305); a dropped image is not written. -/
def shapeCompleteEffect (c slot : Nat) (s : State) : State :=
  match taskOf s c false slot with
  | none => s
  | some t =>
    match t.phase, t.unit with
    | .shaping, some u =>
      let d := t.d
      let blk := devRead s (lat d 0x30 8) 192
      let p := grainOf s t blk (taskPict s t)
      let site := (t.found.bind fun q => q.1.site).getD (true, true)
      let rows := (List.range (lat d 0x2E 2)).map fun y =>
        (lat d 0x20 8 + y * lat d 0x28 4, shapeRow blk p site (lat d 0x2C 2) (lat d 0x2E 2) (lat d 0x14 4) y)
      let errors := if t.dec.isNone then t.errors else 0
      if dropped t then unitEnd (countUnit s u errors) t 0x03
      else withRanges s t [] [] (outRows d blk) fun s =>
        unitEnd (countUnit (forEach rows s fun s r => devWrite s none r.1 r.2) u errors) t (plainStatus t)
    | _, _ => s
/-- SHAPE_COMPLETE. -/
def execShapeComplete (c : Ctx) (slot : Nat) (s : State) : Host.Outcome State Fault Refusal := .next (shapeCompleteEffect c.val slot s)

end Sys2Proof.Machine
end

