-- ==== Sys2Proof/Machine/RinkEncode.lean ====
section
/-! DEFINITION. Rink's encode side: encode rings, the buffer model and its fallbacks, references, gradual refresh,
statistics (spec/10_media_encode.md, R313 to R341). -/

namespace Sys2Proof.Machine

/-! ### Descriptors and the model of OPEN (R319, R320, R323, R328) -/

/-- A field of the OPEN descriptor of a stream. -/
def encF (d : List Byte) (o n : Nat) : Nat := lat d o n
/-- N_sb of a picture size (R325). -/
def sbCount (w h : Nat) : Nat := cdiv w 64 * cdiv h 64
/-- Longest all-skip picture (R325). -/
def sSkip (w h : Nat) : Nat := 4096 + 2 * sbCount w h
/-- Longest flat intra picture (R325). -/
def sFlat (w h : Nat) : Nat := 8192 + 96 * sbCount w h
/-- ⌊n × R × fr_den / fr_num⌋ (R323). -/
def arrived (d : List Byte) (n : Nat) : Nat := n * encF d 0x48 4 * encF d 0x56 2 / encF d 0x54 2
/-- a(n) (R323). -/
def arrival (d : List Byte) (n : Nat) : Nat := arrived d (n + 1) - arrived d n
/-- F_0 (R323). -/
def initFull (d : List Byte) : Nat := 90000 * encF d 0x50 4 / encF d 0x48 4 * encF d 0x48 4 / 90000
/-! ### Levels (R313, R328 check 2) (log 102, PRESUMED) -/

/-- A row of HEVC Annex A: level × 10, luma samples of a picture and in a second, then 1,000 bits/s and 1,000 bits of the Main
and High tiers. -/
structure HevcLevel where
  level : Nat
  size : Nat
  rate : Nat
  br : Nat × Nat
  cpb : Nat × Nat
deriving DecidableEq, Repr
/-- HEVC Annex A up to level 6.1 (R313) (log 102, PRESUMED). -/
def hevcLevels : List HevcLevel :=
  [⟨10, 36864, 552960, (128, 0), (350, 0)⟩, ⟨20, 122880, 3686400, (1500, 0), (1500, 0)⟩]
    ++ [⟨21, 245760, 7372800, (3000, 0), (3000, 0)⟩, ⟨30, 552960, 16588800, (6000, 0), (6000, 0)⟩]
    ++ [⟨31, 983040, 33177600, (10000, 0), (10000, 0)⟩, ⟨40, 2228224, 66846720, (12000, 30000), (12000, 30000)⟩]
    ++ [⟨41, 2228224, 133693440, (20000, 50000), (20000, 50000)⟩, ⟨50, 8912896, 267386880, (25000, 100000), (25000, 100000)⟩]
    ++ [⟨51, 8912896, 534773760, (40000, 160000), (40000, 160000)⟩, ⟨52, 8912896, 1069547520, (60000, 240000), (60000, 240000)⟩]
    ++ [⟨60, 35651584, 1069547520, (60000, 240000), (60000, 240000)⟩, ⟨61, 35651584, 2139095040, (120000, 480000), (120000, 480000)⟩]
/-- A row of AV1 Annex A: seq_level_idx, luma samples of a picture, width, height, samples and headers in a second, and
100,000 bits/s of the Main and High tiers. -/
structure Av1Level where
  idx : Nat
  size : Nat
  width : Nat
  height : Nat
  rate : Nat
  headers : Nat
  br : Nat × Nat
deriving DecidableEq, Repr
/-- AV1 Annex A up to level 6.1 (R313) (log 102, PRESUMED). -/
def av1Levels : List Av1Level :=
  [⟨0, 147456, 2048, 1152, 4423680, 150, (15, 0)⟩, ⟨1, 278784, 2816, 1584, 8363520, 150, (30, 0)⟩]
    ++ [⟨4, 665856, 4352, 2448, 19975680, 150, (60, 0)⟩, ⟨5, 1065024, 5504, 3096, 31950720, 150, (100, 0)⟩]
    ++ [⟨8, 2359296, 6144, 3456, 70778880, 300, (120, 300)⟩, ⟨9, 2359296, 6144, 3456, 141557760, 300, (200, 500)⟩]
    ++ [⟨12, 8912896, 8192, 4352, 267386880, 300, (300, 1000)⟩, ⟨13, 8912896, 8192, 4352, 534773760, 300, (400, 1600)⟩]
    ++ [⟨14, 8912896, 8192, 4352, 1069547520, 300, (600, 2400)⟩, ⟨15, 8912896, 8192, 4352, 1069547520, 300, (600, 2400)⟩]
    ++ [⟨16, 35651584, 16384, 8704, 1069547520, 300, (600, 2400)⟩, ⟨17, 35651584, 16384, 8704, 2139095040, 300, (1000, 4800)⟩]
/-- Picture size, picture rate, R and B lie within the named level and tier (R328 check 2) (log 102, PRESUMED). -/
def levelAllows (d : List Byte) : Bool :=
  let w := encF d 0x34 2
  let h := encF d 0x36 2
  let num := encF d 0x54 2
  let den := encF d 0x56 2
  let r := encF d 0x48 4
  let b := encF d 0x4C 4
  let tier := fun (p : Nat × Nat) => if encF d 0x5D 1 = 0 then p.1 else p.2
  if encF d 0x30 1 = 2 then
    (let nal := if encF d 0x31 1 = 2 then 1833 else 1100
     hevcLevels.any fun v => decide (v.level = encF d 0x5C 1 ∧ w * h ≤ v.size ∧ w * w ≤ 8 * v.size ∧ h * h ≤ 8 * v.size ∧
       w * h * num ≤ v.rate * den ∧ r ≤ nal * tier v.br ∧ b ≤ nal * tier v.cpb))
  else
    av1Levels.any fun v => decide (v.idx = encF d 0x5C 1 ∧ w * h ≤ v.size ∧ w ≤ v.width ∧ h ≤ v.height ∧
      w * h * num ≤ v.rate * den ∧ num ≤ v.headers * den ∧ r ≤ 100000 * tier v.br ∧ b ≤ 100000 * tier v.br)
/-- Lowest profile that covers chroma and depth (R313): general_profile_idc or seq_profile (log 100, PRESUMED). -/
def encProfile (o : List Byte) : Nat :=
  if encF o 0x30 1 ≠ 2 then 0 else if encF o 0x31 1 = 2 then 4 else if encF o 0x32 1 = 8 then 1 else 2
/-- D (R323, R324). -/
def initDelay (o : List Byte) : Nat := 90000 * encF o 0x50 4 / encF o 0x48 4

/-- BAD_DESCRIPTOR for reasons that the descriptor alone shows (R319 to R321). -/
def encodeBad (d : List Byte) : Bool :=
  let op := lat d 0 1
  decide (op < 1 ∨ 3 < op ∨ 31 < lat d 1 1 ∨ 511 < lat d 0x28 2 ∨ lat d 0x2B 5 ≠ 0)
    || (decide (op = 1) && decide (lat d 1 1 % 8 ≠ 0 ∨ lat d 2 2 ≠ 0 ∨ lat d 8 32 ≠ 0 ∨ 1 < lat d 0x33 1 ∨ 1 < lat d 0x58 1
        ∨ 1 < lat d 0x5D 1 ∨ 1 < lat d 0x5E 1 ∨ lat d 0x5F 1 ≠ 0))
    || (decide (op = 2) && decide (lat d 0x38 40 ≠ 0 ∨ lat d 2 1 / 4 % 32 ≠ 0 ∨ 15 < lat d 3 1 ∨ lat d 8 8 % 64 ≠ 0
        ∨ lat d 0x20 8 % 64 ≠ 0 ∨ (bit (lat d 1 1) 2 = true ∧ lat d 0x20 8 = 0) ∨ (bit (lat d 1 1) 2 = false ∧ lat d 0x20 8 ≠ 0)))
    || (decide (op = 3) && decide (lat d 1 3 ≠ 0 ∨ lat d 8 40 ≠ 0 ∨ lat d 0x30 48 ≠ 0))
/-- Check 1 of R328 (R313, R320). -/
def encCheck1 (d : List Byte) : Bool :=
  let k := encF d 0x30 1
  let ch := encF d 0x31 1
  let dp := encF d 0x32 1
  let w := encF d 0x34 2
  let h := encF d 0x36 2
  let qmax := if k = 2 then 51 else 255
  ((decide (k = 2) && decide ((ch = 1 ∨ ch = 2) ∧ 8 ≤ dp ∧ dp ≤ 10)) || (decide (k = 4) && decide (ch ≤ 1 ∧ (dp = 8 ∨ dp = 10))))
    && decide (64 ≤ w ∧ w ≤ 8192 ∧ 64 ≤ h ∧ h ≤ 4320 ∧ (ch = 0 ∨ w % 2 = 0) ∧ (ch ≠ 1 ∨ h % 2 = 0))
    && decide (1 ≤ encF d 0x54 2 ∧ 1 ≤ encF d 0x56 2 ∧ encF d 0x59 1 ≤ encF d 0x5A 1 ∧ encF d 0x5A 1 ≤ qmax)
    && decide (1 ≤ encF d 0x5B 1 ∧ encF d 0x5B 1 ≤ 16)
/-- First failing check of R328, 1 to 6. -/
def modelCheck (d : List Byte) : Option Nat :=
  let w := encF d 0x34 2
  let h := encF d 0x36 2
  let r := encF d 0x48 4
  let b := encF d 0x4C 4
  let num := encF d 0x54 2
  let den := encF d 0x56 2
  if !encCheck1 d then some 1
  else if !levelAllows d then some 2
  else if encF d 0x30 1 = 2 ∧ (r % 64 ≠ 0 ∨ b % 16 ≠ 0) then some 3
  else if r * den / num < sSkip w h + cdiv (sFlat w h) 64 then some 4
  else if initFull d < sFlat w h ∨ b < sFlat w h + 64 ∨ b < initFull d then some 5
  else if encF d 0x58 1 = 0 ∧ b < cdiv (r * den) num + 64 then some 6
  else none
/-- Picture-store bytes that an encode OPEN needs (R328). -/
def encNeed (d : List Byte) : Nat := Config.storeNeed (encF d 0x30 1) (encF d 0x31 1) (encF d 0x32 1) (encF d 0x34 2) (encF d 0x36 2)
/-- Bytes 0x61 to 0x7F of an encode completion (R321). -/
def encodeComp (s : State) (cflags attempts qp bytes fill full frame last : Nat) : List Byte :=
  leBytes 1 cflags ++ leBytes 1 attempts ++ leBytes 1 qp ++ leBytes 4 bytes ++ leBytes 4 fill ++ leBytes 4 full ++ leBytes 4 frame
    ++ leBytes 1 last ++ leBytes 3 0 ++ leBytes 8 (now s)
/-- Complete an encode descriptor with a status and nothing else; `last` is byte 0x74. -/
def encodeEnd (s : State) (t : RTask) (status last : Nat) : State := rinkFinish s t status (encodeComp s 0 0 0 0 0 0 0 last)
/-- Status of a descriptor that may not act (R318, R321). -/
def encodeStatus (s : State) (t : RTask) : Option Nat :=
  if encodeBad t.d then some 0x10
  else match taskEntry s t with
    | none => some 0x11
    | some e =>
      let free := decide (entryState s e = 0)
      if lat t.d 0 1 = 1 then (if free then none else some 0x11)
      else if free || !(strmOf s e).enc then some 0x11 else none

/-! ### The picture and its references (R322, R329 to R334) -/

/-- A channel value of a BF16 tensor picture, as FP32 (R322). -/
def tensorAt (s : State) (d : List Byte) (ch x y : Nat) : Word :=
  widen .bf16 (devNat s (lat d 8 8 + y * lat d 0x34 4 + 64 * x + 2 * ch) 2)
/-- The value behind a code (R322): a chroma code's is the mean of its 2 × 2 group, or of its horizontal pair. -/
def tensorMean (s : State) (o d : List Byte) (p x y : Nat) : Word :=
  let v := tensorAt s d p
  if p = 0 then v x y
  else if encF o 0x31 1 = 1 then
    mul32 (add32 (add32 (add32 (v (2 * x) (2 * y)) (v (2 * x + 1) (2 * y))) (v (2 * x) (2 * y + 1))) (v (2 * x + 1) (2 * y + 1))) 0x3E800000
  else mul32 (add32 (v (2 * x) y) (v (2 * x + 1) y)) 0x3F000000
/-- k and o of R322, which invert the row of R299 for the range and the component. -/
def codeScale (o : List Byte) (p : Nat) : Word × Word :=
  let dp := encF o 0x32 1
  let e : Int := (dp : Int) - 8
  if encF o 0x5E 1 = 1 then (fpN (2 ^ dp - 1), if p = 0 then 0 else fpN (2 ^ (dp - 1)))
  else if p = 0 then (fpPow 219 e, fpPow 16 e) else (fpPow 224 e, fpPow 128 e)
/-- An integer code from a normalised value (R322): fma32(v, k, o), rounded to nearest-even and clamped; NaN gives 0. -/
def normCode (o : List Byte) (p : Nat) (v : Word) : Nat :=
  let q := codeScale o p
  if isNan32 v then 0
  else (max 0 (min (2 ^ encF o 0x32 1 - 1 : Int) (toInt32 (fma32 v q.1 q.2)).toInt)).toNat
/-- Source code of a sample (R320, R322). -/
def sourceSample (s : State) (o d : List Byte) (p x y : Nat) : Nat :=
  if encF o 0x33 1 = 0 then devNat s (lat d 8 8 + p * lat d 0x30 4 + y * lat d 0x34 4 + 2 * x) 2 % 2 ^ encF o 0x32 1
  else normCode o p (tensorMean s o d p x y)
/-- Every sample of a plane-major raster, by plane, x and y. -/
def samplesOf {α : Type} (o : List Byte) (f : Nat → Nat → Nat → α) : List α :=
  let ch := encF o 0x31 1
  (List.range (planes ch)).flatMap fun p => (List.range (planeH ch (encF o 0x36 2) p)).flatMap fun y =>
    (List.range (planeW ch (encF o 0x34 2) p)).map fun x => f p x y
/-- The input picture of an ENCODE, as codes (R316, R322). -/
def sourceCodes (s : State) (o d : List Byte) : List Nat := samplesOf o (sourceSample s o d)
/-- Some input value of the picture is a NaN (R322). -/
def anyNanIn (s : State) (o d : List Byte) : Bool :=
  decide (encF o 0x33 1 = 1) && ((samplesOf o fun p x y => isNan32 (tensorMean s o d p x y)).any id)
/-- Luma code of a captured picture, edge samples replicated (R335). -/
def lumaAt (o : List Byte) (codes : List Nat) (x y : Nat) : Nat :=
  codes.getD (min y (encF o 0x36 2 - 1) * encF o 0x34 2 + min x (encF o 0x34 2 - 1)) 0
/-- What a picture depends on, beside OPEN and the pictures before it: its descriptor and its codes (R316). -/
def picKey (d : List Byte) (codes : List Nat) : List Byte × List Nat := (d.take 0x60, codes)
/-- Luma of a reconstruction, edge samples replicated: of flat intra mid-grey (R325) (log 100, PRESUMED). -/
def reconLuma (o : List Byte) (pics : List (List Byte × List Nat)) (r : EncPic) (x y : Int) : Nat :=
  match r with
  | .flat => 2 ^ (encF o 0x32 1 - 1)
  | .coded n q => Config.reconSample o (pics.take (n + 1)) q 0 (clampIx x (encF o 0x34 2)) (clampIx y (encF o 0x36 2)) % 2 ^ encF o 0x32 1
/-- Steps of a refresh cycle (R331). -/
def cycleSteps (d : List Byte) : Nat := cdiv (cdiv (encF d 0x34 2) 64) (encF d 0x5B 1)
/-- The picture must be intra: the first, forced, deferred, or a refresh of fewer than two steps (R323, R329, R331). -/
def needsIntra (x : Strm) (d : List Byte) : Bool :=
  let fl := lat d 1 1
  decide (x.count = 0) || bit fl 0 || x.deferred || (bit fl 1 && decide (x.cycle = none ∧ cycleSteps x.open_ < 2))
/-- The refresh step at a picture (R331): that of the cycle, or 0 where the picture starts one. -/
def stepNow (x : Strm) (d : List Byte) (intra : Bool) : Option Nat :=
  if intra then none
  else match x.cycle with
    | some k => some k
    | none => if bit (lat d 1 1) 1 ∧ 2 ≤ cycleSteps x.open_ then some 0 else none
/-- The picture is the first of a cycle (R315, R333). -/
def startsCycle (x : Strm) (d : List Byte) (intra : Bool) : Bool := decide (x.cycle = none) && (stepNow x d intra).isSome
/-- First column of the intra column of a step, and the column after it, in units of 64 samples (R331). -/
def intraCols (o : List Byte) (k : Nat) : Nat × Nat :=
  let c := encF o 0x5B 1
  (k * c, min (cdiv (encF o 0x34 2) 64) ((k + 1) * c))
/-- References that a block at column `x` of a picture may use, by the codes of R336: the short-term ones and the slots that
ltr_use names; in the clean area of a cycle the previous picture and clean slots; in the intra column none (R332, R334). -/
def refsAllowed (m : Strm) (d : List Byte) (x : Nat) : List Nat :=
  let slots := (List.range 4).filter fun i => bit (lat d 3 1) i
  match stepNow m d false with
  | none => (List.range m.short.length).map (· + 1) ++ slots.map (· + 3)
  | some k =>
    let cols := intraCols m.open_ k
    if x / 64 < cols.1 then (List.range (min 1 m.short.length)).map (· + 1) ++ (slots.filter fun i => mget m.ltr 0 i = 1).map (· + 3)
    else if x / 64 < cols.2 then []
    else (List.range m.short.length).map (· + 1) ++ slots.map (· + 3)
/-- Reference picture of a code of R336. -/
def refPic (m : Strm) (r : Nat) : EncPic := if r ≤ 2 then m.short.getD (r - 1) .flat else mget m.long .flat (r - 3)
/-- Samples that a predictor of n samples at `p` with vector `v` reaches to in one direction: its first and last, with the
8-tap filter's reach where the vector is fractional (R332, R336) (log 100, PRESUMED). -/
def footprint (p n : Nat) (v : Int) : Int × Int :=
  let at_ := (p : Int) + v / 4
  if v % 4 = 0 then (at_, at_ + n - 1) else (at_ - 3, at_ + n + 3)
/-- The vector and reference found for block `i` of n × n samples at column x, as (mv_x, mv_y, ref); none where no reference may
be used. In the clean area of a cycle the footprint stays 8 (HEVC) or 16 (AV1) samples inside the clean area's right edge
(R332, R336). `k` numbers the kind of block. -/
def motionAt (m : Strm) (d : List Byte) (pics : List (List Byte × List Nat)) (k n i x : Nat) : Option (Int × Int × Nat) :=
  let o := m.open_
  let mo := fun j => Config.motion o pics (8 * k + j) i
  let refs := refsAllowed m d x
  let v : Int × Int := ((mo 0 % 2049 : Nat) - 1024, (mo 1 % 1025 : Nat) - 512)
  let margin : Int := if encF o 0x30 1 = 2 then 8 else 16
  let near := match stepNow m d false with
    | some st => decide (x / 64 < (intraCols o st).1 ∧ (64 * (intraCols o st).1 : Int) - margin ≤ (footprint x n v.1).2)
    | none => false
  if refs = [] ∨ near = true then none else some (v.1, v.2, refs.getD (mo 2 % refs.length) 0)
/-- Sample (a, b) of the inter predictor of a block at (x, y): the reference itself at a whole vector (R336, R337). -/
def interPred (m : Strm) (pics : List (List Byte × List Nat)) (v : Int × Int × Nat) (x y a b : Nat) : Nat :=
  let o := m.open_
  let ref := reconLuma o pics (refPic m v.2.2)
  if v.1 % 4 = 0 ∧ v.2.1 % 4 = 0 then ref ((x + a : Nat) + v.1 / 4) ((y + b : Nat) + v.2.1 / 4)
  else Config.interpolated (encF o 0x30 1) ref v.1 v.2.1 (x + a) (y + b) % 2 ^ encF o 0x32 1

/-! ### Costs (R337) -/

/-- Sign of a 4-point Hadamard coefficient. -/
def hadSign (u i : Nat) : Int := if (bit u 0 && bit i 0) != (bit u 1 && bit i 1) then -1 else 1
/-- SATD of a 4 × 4 block of differences: half the sum of the absolute Hadamard coefficients, rounded down (R337). -/
def satd4 (d : Nat → Nat → Int) : Nat :=
  (((List.range 4).flatMap fun u => (List.range 4).map fun v =>
    (((List.range 4).flatMap fun i => (List.range 4).map fun j => hadSign u i * hadSign v j * d i j).sum).natAbs).sum) / 2
/-- SATD of an n × n block of the source at (x, y) against a predictor, saturating (R337). -/
def satd (o : List Byte) (codes : List Nat) (pred : Nat → Nat → Nat) (n x y : Nat) : Nat :=
  let diff := fun (a b : Nat) => ((lumaAt o codes (x + a) (y + b) : Int) - (pred a b : Int)) / 2 ^ (encF o 0x32 1 - 8)
  min 0xFFFF (((List.range (n / 4)).flatMap fun j => (List.range (n / 4)).map fun i =>
    satd4 fun b a => diff (4 * i + a) (4 * j + b)).sum)

/-! ### The access unit (R315, R324, R327, R333) -/

/-- leb128 of n in k bytes. -/
def leb128 (n : Nat) : Nat → List Byte
  | 0 => []
  | 1 => [BitVec.ofNat 8 (n % 128)]
  | k + 2 => BitVec.ofNat 8 (n % 128 + 128) :: leb128 (n / 128) (k + 1)
/-- Bytes of the least leb128 of n, at most 8. -/
def lebSize (n : Nat) : Nat := ((List.range 7).find? fun k => decide (n < 128 ^ (k + 1))).getD 7 + 1
/-- A NAL unit with a 4-byte start code (R315) (log 100, PRESUMED). -/
def nalUnit (ty : Nat) (payload : List Byte) : List Byte := [0, 0, 0, 1, BitVec.ofNat 8 (2 * ty), 1] ++ payload
/-- An OBU with a size field (R315) (log 100, PRESUMED). -/
def obu (ty : Nat) (payload : List Byte) : List Byte :=
  [BitVec.ofNat 8 (8 * ty + 2)] ++ leb128 payload.length (lebSize payload.length) ++ payload
/-- How a picture is coded: intra, its QP, and 0 as asked, 1 all-skip, 2 flat intra (R323, R325). -/
structure Coding where
  intra : Bool
  q : Nat
  mode : Nat
deriving DecidableEq, Repr
/-- The values of the sequence's parameter sets (R313, R324): profile, level, tier, chroma, depth, size, range, picture rate;
then of HEVC cbr_flag, bit_rate_value and cpb_size_value, which express R and B exactly at scale 0, and of AV1
decoder_model_present_for_this_op, low_delay_mode_flag, the decoder buffer delay, R and B. -/
def seqValues (o : List Byte) : List Nat :=
  let r := encF o 0x48 4
  let b := encF o 0x4C 4
  [encProfile o, encF o 0x5C 1, encF o 0x5D 1, encF o 0x31 1, encF o 0x32 1, encF o 0x34 2, encF o 0x36 2, encF o 0x5E 1, encF o 0x54 2, encF o 0x56 2]
    ++ (if encF o 0x30 1 = 2 then [1 - encF o 0x58 1, r / 64, b / 16] else [1, 0, initDelay o, r, b])
/-- Tile columns of an AV1 picture, in superblocks (R313): two wider than 4,096 samples, the left one the larger. -/
def tileCols (w : Nat) : List Nat := let n := cdiv w 64; if 4096 < w then [n - n / 2, n / 2] else [n]
/-- Values of a picture's own headers (R313, R329 to R331): frame type, QP and how it is coded, the intra columns of a refresh
step, short-term references, and the long-term slots it names. -/
def pictureValues (m : Strm) (d : List Byte) (k : Coding) : List Nat :=
  let cols := match stepNow m d k.intra with | some i => intraCols m.open_ i | none => (0, 0)
  [b2n (!k.intra), k.q, k.mode, cols.1, cols.2, if k.intra then 0 else m.short.length] ++ (List.range 4).filter fun i => bit (lat d 3 1) i
/-- An HEVC access unit (R315, R324, R333): delimiter; at an IDR picture or the first of a cycle VPS, SPS, PPS and a buffering
period with D; picture timing, with pictures since that period; a recovery point at the first of a cycle; the slice, an
IDR_N_LP or TRAIL_R, whose long-term pictures carry delta_poc_msb_present_flag = 1 (R330). -/
def hevcUnit (m : Strm) (d : List Byte) (pics : List (List Byte × List Nat)) (k : Coding) : List Byte :=
  let o := m.open_
  let start := startsCycle m d k.intra
  let put := fun (ty : Nat) (vals : List Nat) => nalUnit ty (Config.synPayload o pics k.q ty vals)
  nalUnit 35 [if k.intra then 0x10 else 0x30]
    ++ (if k.intra || start then put 32 (seqValues o) ++ put 33 (seqValues o) ++ put 34 [] ++ put 39 [0, initDelay o] else [])
    ++ put 39 [1, if k.intra || start then 0 else m.count - m.period]
    ++ (if start then put 39 [6, cycleSteps o - 1, 1, 0] else [])
    ++ put (if k.intra then 20 else 1) (pictureValues m d k ++ [1])
/-- refresh_frame_flags (R329, R330): every slot of a key frame; else one of slots 0 and 1 in turn, and the slot of the
long-term one marked (log 100, DESIGN CHOICE). -/
def refreshFlags (m : Strm) (d : List Byte) (k : Coding) : Nat :=
  let mark := lat d 2 1
  if k.intra then 0xFF else 2 ^ (m.count % 2) + (if bit mark 7 then 2 ^ (4 + mark % 4) else 0)
/-- An AV1 temporal unit (R315, R324): delimiter; at a key frame or the first picture of a cycle the sequence header; the
frame. -/
def av1Unit (m : Strm) (d : List Byte) (pics : List (List Byte × List Nat)) (k : Coding) : List Byte :=
  let o := m.open_
  let put := fun (ty : Nat) (vals : List Nat) => obu ty (Config.synPayload o pics k.q ty vals)
  obu 2 [] ++ (if k.intra || startsCycle m d k.intra then put 1 (seqValues o) else [])
    ++ put 6 (pictureValues m d k ++ [refreshFlags m d k] ++ tileCols (encF o 0x34 2))
/-- The access unit of a picture: of an all-skip or flat intra picture never more than its bound (R315, R325). -/
def accessUnit (m : Strm) (d : List Byte) (codes : List Nat) (k : Coding) : List Byte :=
  let o := m.open_
  let pics := m.pics ++ [picKey d codes]
  let w := encF o 0x34 2
  let h := encF o 0x36 2
  let b := if encF o 0x30 1 = 2 then hevcUnit m d pics k else av1Unit m d pics k
  if k.mode = 1 then b.take (sSkip w h / 8) else if k.mode = 2 then b.take (sFlat w h / 8) else b
/-- `n` bytes of filler (R327): an FD_NUT NAL unit or a padding OBU, with payload bytes 0xFF; of an OBU the size field takes
what it needs (log 100, PRESUMED). -/
def fillerUnit (o : List Byte) (n : Nat) : List Byte :=
  if n = 0 then []
  else if encF o 0x30 1 = 2 then nalUnit 38 (List.replicate (n - 6) 0xFF)
  else
    let k := ((List.range 7).find? fun k => decide (n - 2 - k < 128 ^ (k + 1))).getD 7 + 1
    [0x7A] ++ leb128 (n - 1 - k) k ++ List.replicate (n - 1 - k) 0xFF

/-! ### The ring, OPEN and CLOSE (R317 to R319) -/

/-- Take one encode descriptor; one with a reserved op completes with BAD_DESCRIPTOR at once (R319, R321). -/
def takeEncode (s : State) (c slot : Nat) (d : List Byte) : State :=
  let t : RTask := { ctx := c, enc := true, slot := slot, d := d }
  let s1 : State := { s with rink := { s.rink with tasks := s.rink.tasks ++ [t] } }
  if lat d 0 1 < 1 ∨ 3 < lat d 0 1 then encodeEnd s1 t 0x10 0 else s1
/-- ENCODE_RING_POLL (R317). -/
def execEncodeRingPoll (c : Ctx) (s : State) : Host.Outcome State Fault Refusal := .next (pollRing takeEncode s c.val true)
/-- ENCODE_OPEN (R318, R328). -/
def encodeOpenEffect (c slot : Nat) (s : State) : State :=
  atPhase s c true slot 1 .taken fun t =>
    let d := t.d
    match encodeStatus s t, taskEntry s t with
    | some st, _ => encodeEnd s t st 0
    | none, some e =>
      match modelCheck d with
      | some k => encodeEnd s t 0x14 k
      | none =>
        if encF d 0x40 8 < encNeed d then encodeEnd s t 0x12 0
        else
          let store := (encF d 0x38 8, encF d 0x40 8)
          withRanges s t [] [store] [] fun s =>
            let b := openEntry c (encF d 0x30 1) t.stream store.1 store.2 (encF d 0x34 2) (encF d 0x36 2) (encF d 0x31 1) (encF d 0x32 1)
            let s1 := entPut s e 0 b
            let s2 := updStrm s1 e fun _ => { enc := true, open_ := d, full := initFull d }
            rinkFinish s2 t 0x01 (encodeComp s2 0 0 0 0 0 (initFull d) 0 0)
    | none, none => encodeEnd s t 0x11 0
/-- ENCODE_OPEN. -/
def execEncodeOpen (c : Ctx) (slot : Nat) (s : State) : Host.Outcome State Fault Refusal := .next (encodeOpenEffect c.val slot s)
/-- Where CLOSE writes the end of sequence: after the last access unit, where its output has room; AV1 has none (R319, R334)
(log 104, DESIGN CHOICE). -/
def endAt (x : Strm) : List (Nat × Nat) := if encF x.open_ 0x30 1 = 2 ∧ 0 < x.count ∧ 6 ≤ x.tail.2 then [(x.tail.1, 6)] else []
/-- ENCODE_CLOSE (R319): the end of sequence is written, and the context becomes FREE. -/
def encodeCloseEffect (c slot : Nat) (s : State) : State :=
  atPhase s c true slot 3 .taken fun t =>
    match encodeStatus s t, taskEntry s t with
    | none, some e =>
      let x := strmOf s e
      withRanges s t [] [] (endAt x) fun s =>
        let s1 := forEach (endAt x) s fun s p => devWrite s none p.1 (nalUnit 36 [])
        rinkFinish (updStrm (setEntryState s1 e 0) e fun _ => {}) t 0x01 (encodeComp s1 0 0 0 0 0 x.full x.count 0)
    | some st, _ => encodeEnd s t st 0
    | none, none => encodeEnd s t 0x11 0
/-- ENCODE_CLOSE. -/
def execEncodeClose (c : Ctx) (slot : Nat) (s : State) : Host.Outcome State Fault Refusal := .next (encodeCloseEffect c.val slot s)

/-! ### Coding one picture (R323 to R326) -/

/-- Source rows that the pipe reads (R320 to R322). -/
def sourceRanges (o d : List Byte) : List (Nat × Nat) :=
  let w := encF o 0x34 2
  let h := encF o 0x36 2
  if encF o 0x33 1 = 0 then planeRanges (encF o 0x31 1) w h (lat d 8 8) (lat d 0x30 4) (lat d 0x34 4)
  else (List.range h).flatMap fun y => (List.range w).map fun x => (lat d 8 8 + y * lat d 0x34 4 + 64 * x, 6)
/-- What a pipe reads for a picture: its source, and the reconstruction store, where its references lie (R318, R321). -/
def encodeReads (o d : List Byte) : List (Nat × Nat) := sourceRanges o d ++ [(encF o 0x38 8, encF o 0x40 8)]
/-- Bytes of the whole statistics output (R335). -/
def statBytes (o : List Byte) : Nat := statSize (encF o 0x34 2) (encF o 0x36 2)
/-- Least QP step of a first re-encode: the least j with b ≤ b_max × 2^(j/6) (R323), with fuel. -/
def stepsOver (b bmax : Nat) : Nat → Nat → Nat
  | 0, j => j
  | f + 1, j => if b ^ 6 ≤ bmax ^ 6 * 2 ^ j then j else stepsOver b bmax f (j + 1)
/-- QP of the first re-encode (R323). -/
def nextQp (o : List Byte) (q b bmax : Nat) : Nat :=
  let u := if encF o 0x30 1 = 2 then 1 else 4
  min (encF o 0x5A 1) (q + u * max 3 (stepsOver b bmax 1536 0 + 1))
/-- QP of the first attempt: the rate controller's, within the bounds of OPEN (R323). -/
def firstQp (m : Strm) (d : List Byte) (codes : List Nat) : Nat :=
  max (encF m.open_ 0x59 1) (min (encF m.open_ 0x5A 1) (Config.rcQp m.open_ m.pics (picKey d codes) m.full))
/-- The bits of a task's next attempt, headers included (R323). -/
def attemptBits (m : Strm) (t : RTask) (k : Coding) : Nat := 8 * (accessUnit m t.d t.codes k).length
/-- How a task codes its picture as asked. -/
def asAsked (t : RTask) : Coding := ⟨bit t.cflags 5, t.qp, 0⟩
/-- The task keeps a coding: its bytes and bits. -/
def kept (m : Strm) (t : RTask) (k : Coding) : RTask :=
  { t with phase := .coded, bits := attemptBits m t k, out := accessUnit m t.d t.codes k }
/-- ENCODE: a pipe takes the context, reads the picture and starts the first attempt; with no room for an intra picture it
is deferred and coded all-skip (R323, R326) (log 57, DEDUCED). -/
def encodeEffect (c slot : Nat) (n : Fin 4) (s : State) : State :=
  atPhase s c true slot 2 .taken fun t =>
    let d := t.d
    match encodeStatus s t, taskEntry s t with
    | some st, _ => encodeEnd s t st 0
    | none, some e =>
      let x := strmOf s e
      let o := x.open_
      let empty := (List.range 4).any fun i => bit (lat d 3 1) i && decide (mget x.ltr 0 i = 0)
      if !unitFree s (.venc n) then s
      else if empty || decide (encF o 0x33 1 = 1 ∧ lat d 0x30 4 ≠ 0) then encodeEnd s t 0x10 0
      else if lat d 0x18 4 < cdiv (encF o 0x4C 4) 8 then encodeEnd s t 0x15 0
      else
        let stats := if bit (lat d 1 1) 2 then [(lat d 0x20 8, statBytes o)] else []
        withRanges s t (encodeReads o d) [] (stats ++ [(encF o 0x38 8, encF o 0x40 8)]) fun s =>
          let intra := needsIntra x d
          let t0 : RTask := { t with
            unit := some (.venc n), frame := x.count, attempts := 1, codes := sourceCodes s o d, nan := anyNanIn s o d }
          let t1 : RTask :=
            if intra && decide (x.full < sFlat (encF o 0x34 2) (encF o 0x36 2)) then kept x { t0 with cflags := 2 + 64 } ⟨false, 0, 1⟩
            else { t0 with phase := .encoding, qp := firstQp x d t0.codes, cflags := if intra then 32 else 0 }
          putTask (startUnit (setEntryState s e 2) (.venc n)) t1
    | none, none => encodeEnd s t 0x11 0
/-- ENCODE. -/
def execEncode (c : Ctx) (slot : Nat) (n : Fin 4) (s : State) : Host.Outcome State Fault Refusal := .next (encodeEffect c.val slot n s)
/-- What becomes of an attempt that takes `bits`: it is kept, coded again, or replaced by a fallback (R323). -/
def attemptNext (m : Strm) (t : RTask) (bits : Nat) : RTask :=
  let qmax := encF m.open_ 0x5A 1
  if bits ≤ m.full then kept m t (asAsked t)
  else if t.qp < qmax ∧ t.attempts < 3 then
    { t with qp := if t.attempts = 1 then nextQp m.open_ t.qp bits m.full else qmax, attempts := t.attempts + 1, cflags := t.cflags ||| 1 }
  else if bit t.cflags 5 then kept m { t with qp := 0, cflags := t.cflags ||| 4 } ⟨true, 0, 2⟩
  else kept m { t with qp := 0, cflags := t.cflags ||| 2 } ⟨false, 0, 1⟩
/-- ENCODE_ATTEMPT_COMPLETE (R316, R323). -/
def encodeAttemptCompleteEffect (c slot : Nat) (s : State) : State :=
  match taskOf s c true slot with
  | none => s
  | some t =>
    match taskEntry s t with
    | none => s
    | some e =>
      if t.phase ≠ .encoding then s else putTask s (attemptNext (strmOf s e) t (attemptBits (strmOf s e) t (asAsked t)))
/-- ENCODE_ATTEMPT_COMPLETE. -/
def execEncodeAttemptComplete (c : Ctx) (slot : Nat) (_bits : Unit) (s : State) : Host.Outcome State Fault Refusal :=
  .next (encodeAttemptCompleteEffect c.val slot s)

/-! ### Statistics (R335 to R338) -/

/-- w8, h8, w16, h16 of a picture (R335). -/
def statGrid (o : List Byte) : Nat × Nat × Nat × Nat :=
  let w := encF o 0x34 2
  let h := encF o 0x36 2
  (cdiv w 8, cdiv h 8, cdiv w 16, cdiv h 16)
/-- cost_off and hist_off (R335). -/
def statOffs (o : List Byte) : Nat × Nat :=
  let g := statGrid o
  let c := 64 + 64 * cdiv (8 * g.1 * g.2.1) 64
  (c, c + 64 * cdiv (4 * g.2.2.1 * g.2.2.2) 64)
/-- Mean source luma code, rounded down (R335). -/
def meanLuma (o : List Byte) (codes : List Nat) : Nat :=
  let n := encF o 0x34 2 * encF o 0x36 2
  (codes.take n).sum / n
/-- A motion vector entry (R336): vector, reference, whether the footprint reaches beyond the picture's edge, and the SATD of
the 8 × 8 block's inter prediction; all 0 where there is none. -/
def mvEntry (m : Strm) (d : List Byte) (codes : List Nat) (i : Nat) : List Byte :=
  let o := m.open_
  let pics := m.pics ++ [picKey d codes]
  let g := statGrid o
  let x := 8 * (i % g.1)
  let y := 8 * (i / g.1)
  match motionAt m d pics 0 8 i x with
  | none => List.replicate 8 0
  | some v =>
    let fx := footprint x 8 v.1
    let fy := footprint y 8 v.2.1
    let edge := decide (fx.1 < 0 ∨ fy.1 < 0 ∨ (encF o 0x34 2 : Int) ≤ fx.2 ∨ (encF o 0x36 2 : Int) ≤ fy.2)
    leBytes 2 (BitVec.ofInt 16 v.1).toNat ++ leBytes 2 (BitVec.ofInt 16 v.2.1).toNat ++ leBytes 1 v.2.2 ++ leBytes 1 (b2n edge)
      ++ leBytes 2 (satd o codes (interPred m pics v x y) 8 x y)
/-- Intra and inter cost of 16 × 16 block i (R335, R337); without a reference to use, the inter cost is 0xFFFF. -/
def blockCosts (m : Strm) (d : List Byte) (codes : List Nat) (intra : Bool) (i : Nat) : Nat × Nat :=
  let o := m.open_
  let pics := m.pics ++ [picKey d codes]
  let g := statGrid o
  let x := 16 * (i % g.2.2.1)
  let y := 16 * (i / g.2.2.1)
  (satd o codes (fun a b => Config.intraPred o pics i a b % 2 ^ encF o 0x32 1) 16 x y,
   if intra then 0xFFFF
   else match motionAt m d pics 1 16 i x with | some v => satd o codes (interPred m pics v x y) 16 x y | none => 0xFFFF)
/-- hist_bin of R338. -/
def histBin (c : Nat) : Nat :=
  let x := c + 1
  let e := Nat.log2 x
  min 63 (4 * e + x * 4 / 2 ^ e - 4)
/-- Sixty-four bins over a list of costs (R338). -/
def histogram (cs : List Nat) : List Nat := (List.range 64).map fun b => cs.countP fun c => histBin c = b
/-- The statistics of the first coding attempt (R335). -/
def statOutput (m : Strm) (d : List Byte) (codes : List Nat) (frame : Nat) (intra : Bool) : List Byte :=
  let o := m.open_
  let g := statGrid o
  let f := statOffs o
  let cs := (List.range (g.2.2.1 * g.2.2.2)).map (blockCosts m d codes intra)
  let mv := (List.range (g.1 * g.2.1)).flatMap fun i => if intra then List.replicate 8 0 else mvEntry m d codes i
  let cost := cs.flatMap fun p => leBytes 2 p.1 ++ leBytes 2 p.2
  let hist := if intra then List.replicate 128 0 else histogram (cs.map (·.1)) ++ histogram (cs.map (·.2))
  let head := leBytes 4 0x31545356 ++ leBytes 4 (lat d 0x1C 4) ++ leBytes 4 frame ++ leBytes 2 g.1 ++ leBytes 2 g.2.1 ++ leBytes 2 g.2.2.1
    ++ leBytes 2 g.2.2.2 ++ leBytes 4 64 ++ leBytes 4 f.1 ++ leBytes 4 f.2 ++ leBytes 8 (cs.map (·.1)).sum
    ++ leBytes 8 (if intra then 0 else (cs.map (·.2)).sum) ++ leBytes 4 (cs.countP fun p => p.1 < p.2) ++ leBytes 2 (meanLuma o codes) ++ List.replicate 10 0
  padTo f.1 (head ++ mv) ++ padTo (f.2 - f.1) cost ++ hist.flatMap (leBytes 4)

/-! ### Completion of a picture (R321, R323, R327, R329 to R334) -/

/-- Filler bytes that bring b to b_min or above (R323, R327). -/
def fillBytes (o : List Byte) (b bmin : Nat) : Nat := if b < bmin then max (if encF o 0x30 1 = 2 then 6 else 2) (cdiv (bmin - b) 8) else 0
/-- b_min (R323). -/
def bMin (o : List Byte) (full n : Nat) : Nat := if encF o 0x58 1 = 0 then full + arrival o n - encF o 0x4C 4 else 0
/-- The refresh cycle and its flags after a picture: next step, recovery_point, refresh_ignored, in a cycle (R331, R334) (log 57, DEDUCED). -/
def cycleAfter (x : Strm) (t : RTask) : Option Nat × Bool × Bool × Bool :=
  let refresh := bit (lat t.d 1 1) 1
  let intra := bit t.cflags 5
  let skip := bit t.cflags 1
  let n := cycleSteps x.open_
  if intra then (none, false, false, false)
  else match x.cycle with
    | none =>
      if ¬ refresh ∨ n < 2 then (none, false, false, false)
      else if skip then (some 0, false, false, true) else (some 1, false, false, true)
    | some k =>
      if skip then (some k, false, refresh, true)
      else if n ≤ k + 1 then (none, true, refresh, true) else (some (k + 1), false, refresh, true)
/-- Long-term slots after a picture (R329, R330, R332). -/
def ltrAfter (x : Strm) (t : RTask) (recovery inCycle : Bool) : NMap Nat :=
  let m := lat t.d 2 1
  let base := if bit t.cflags 5 then [] else x.ltr
  if bit m 7 then mset base 0 (m % 4) (if inCycle && !recovery then 2 else 1) else base
/-- The reconstruction of a picture: an all-skip picture copies the previous one, a flat intra picture is flat (R325). -/
def reconOf (x : Strm) (t : RTask) : EncPic :=
  if bit t.cflags 1 then x.short.headD .flat else if bit t.cflags 2 then .flat else .coded x.count t.qp
/-- What the stream holds after a picture, its fullness `full` and its cycle `cy` (R316, R323, R329 to R334). -/
def strmAfter (x : Strm) (t : RTask) (full au : Nat) (cy : Option Nat × Bool × Bool × Bool) : Strm :=
  let intra := bit t.cflags 5
  let m := lat t.d 2 1
  let old := if intra then [] else x.long
  { x with
    full := full, count := x.count + 1, deferred := bit t.cflags 6
    ltr := ltrAfter x t cy.2.1 cy.2.2.2, cycle := cy.1
    pics := x.pics ++ [picKey t.d t.codes]
    short := reconOf x t :: (if intra then [] else x.short.take 1)
    long := if bit m 7 then mset old .flat (m % 4) (reconOf x t) else old
    period := if intra || startsCycle x t.d intra then x.count else x.period
    tail := (lat t.d 0x10 8 + au, lat t.d 0x18 4 - au) }
/-- PICTURE_COMPLETE: output, statistics, completion, and the context's model (R321, R323). -/
def pictureCompleteEffect (c slot : Nat) (s : State) : State :=
  match taskOf s c true slot with
  | none => s
  | some t =>
    match taskEntry s t, t.unit with
    | some e, some u =>
      if t.phase ≠ .coded then s
      else
        let d := t.d
        let x := strmOf s e
        let o := x.open_
        let fill := fillBytes o t.bits (bMin o x.full x.count)
        let au := t.out ++ fillerUnit o fill
        let full := min (encF o 0x4C 4) (x.full - (t.bits + 8 * fill) + arrival o x.count)
        let cy := cycleAfter x t
        let cflags := t.cflags + 8 * b2n (decide (0 < fill)) + 16 * b2n cy.2.1 + 128 * b2n cy.2.2.1
        withRanges s t [] [] [(lat d 0x10 8, au.length)] fun s =>
          let s1 := devWrite s none (lat d 0x10 8) au
          let s2 := if bit (lat d 1 1) 2 then devWrite s1 none (lat d 0x20 8) (statOutput x d t.codes t.frame (bit t.cflags 5)) else s1
          let s3 := updStrm (storeUndef s2 (encF o 0x38 8) (encF o 0x40 8)) e fun x => strmAfter x t full au.length cy
          let s4 := bump (bump (countUnit s3 u 0) (unitPage u + 0x120) (t.attempts - 1)) (unitPage u + 0x128) (b2n (bit t.cflags 1 || bit t.cflags 2))
          rinkFinish (freeEntry s4 t) t 0x01
            (encodeComp s4 cflags t.attempts t.qp au.length fill full t.frame (b2n t.nan))
    | _, _ => s
/-- PICTURE_COMPLETE. -/
def execPictureComplete (c : Ctx) (slot : Nat) (s : State) : Host.Outcome State Fault Refusal := .next (pictureCompleteEffect c.val slot s)

end Sys2Proof.Machine
end

