-- ==== Sys2Proof/Machine/RegFile.lean ====
section
/-! DEFINITION. Reading BAR0: page headers, block registers, counters with their latches, queue read ports
(spec/15_host_and_registers.md, R452, R461 to R471). -/

namespace Sys2Proof.Machine

/-! ### Small pieces -/

/-- Low and high word of a 64-bit value. -/
def loW (v : Nat) : Word := BitVec.ofNat 32 v
@[inherit_doc loW] def hiW (v : Nat) : Word := BitVec.ofNat 32 (v / 2 ^ 32)
/-- Word i of a byte list, 0 past its end. -/
def wordOf (bs : List Byte) (i : Nat) : Word := BitVec.ofNat 32 (lat bs (4 * i) 4)
/-- Pages whose block event is defined (R461). -/
def blockPage (page : Nat) : Bool :=
  page == 0 || page == 0x4000 || page == 0x5000 || page == 0x7000 || page == 0x8000 || page == 0x80000
    || decide (0x20000 ≤ page ∧ page < 0x40000) || decide (0x71000 ≤ page ∧ page < 0x7D000) || (pageUnit page).isSome
/-- Bits of the IRQ registers that a page has (R461). -/
def irqMask (page : Nat) : Word := if blockPage page then 0x80000001 else 0x80000000
/-- A requester reaches BAR0: over I3C while AON runs, over PCIe from the start of device firmware (R404, R434, R437). -/
def reachable (s : State) (r : Nat) : Bool :=
  if r = 6 then s.boot.aon else decide (3 ≤ s.boot.stage) && (decide (r < 4) || !s.boot.perst)
/-- ACCESS_ERR as a word (R461). -/
def accWord (e : AccErr) : Word := BitVec.ofNat 32 (e.cause * 2 ^ 28 + e.requester * 2 ^ 25 + e.count * 2 ^ 16 + e.offset)
/-- A queue read port at a relative offset (R464). -/
def portVal (recs : List (List Byte)) (ovf o : Nat) : Option Word :=
  if o = 0 then some (loW recs.length) else if o = 4 then some (loW ovf) else if o = 8 then some 0
  else if 0x40 ≤ o ∧ o < 0x80 then some (wordOf (recs.headD []) ((o - 0x40) / 4)) else none
/-- JOB_RESULT (R469). -/
def jobResultWord (s : State) : Word := s.job.result ||| (if jobBusy s then 0x80000000 else 0)
/-- State code of a context (R469). -/
def jstateCode : JState → Nat
  | .idle => 0 | .loaded => 1 | .running => 2 | .draining => 3 | .parked => 4 | .tornDown => 5
/-- A clock domain of R467's numbering runs (R406). -/
def domainRuns (s : State) (k : Nat) : Bool :=
  let on := s.boot.aon && s.boot.regs && !s.boot.stopped && decide (s.pwr.state ≠ .aonOnly)
  let act := on && decide (s.pwr.state = .active)
  if k = 0 then s.boot.aon
  else if k ≤ 16 then act && !(pairOf s (k - 1)).gated
  else if k ≤ 28 then act
  else if k ≤ 40 then on && !(linkOf s (k - 29)).out
  else if k = 41 then on && !s.pwr.dead
  else if k ≤ 44 then act
  else on
/-- CLK_RUN word i (R467). -/
def clkRun (s : State) (i : Nat) : Word :=
  loW (((List.range (if i = 0 then 32 else 16)).map fun k => b2n (domainRuns s (32 * i + k)) * 2 ^ k).sum)
/-- HOST_STATUS (R467): while the link is up it has its full width and rate (log 36). -/
def hostStatus (s : State) : Word :=
  let up := !s.boot.perst && !s.host.linkLost
  loW (b2n (isReady s) + 2 * b2n (decide (s.boot.stage = 0xE)) + (if up then 16 * 2 ^ 4 + 6 * 2 ^ 9 else 0))

/-! ### 64-bit counters and timebases (R462, R473) -/

/-- The offset is the low word of a counter that reads its shadow (log 81, DEDUCED). -/
def counterAt (off : Nat) : Bool :=
  let n := off / 0x1000
  let o := off % 0x1000
  off == 0x8120 || (n == 7 && (o == 0x130 || o == 0x138 || o == 0x140))
    || (0x10 ≤ n && n < 0x14 && (o == 0x108 || o == 0x110))
    || (0x20 ≤ n && n < 0x40 && decide (0x800 ≤ o ∧ (o - 0x800) % 0x80 = 0x18))
    || (0x40 ≤ n && n < 0x44 && (o == 0x108 || o == 0x110 || o == 0x118))
    || (0x48 ≤ n && n < 0x4C && o == 0x108)
    || (0x50 ≤ n && n < 0x5C && (o == 0x110 || o == 0x118))
    || (0x60 ≤ n && n < 0x6C && (o == 0x110 || o == 0x118 || o == 0x120))
    || (n == 0x70 && (o == 0x130 || o == 0x138))
    || (0x71 ≤ n && n < 0x7D && (o == 0x110 || o == 0x118 || o == 0x120 || o == 0x128))
    || ((pageUnit (n * 0x1000)).isSome && (o == 0x110 || o == 0x118))
    || (0x91 ≤ n && n < 0x95 && (o == 0x120 || o == 0x128))
/-- Value of the 64-bit counter whose low word is at an offset; none where none lies. -/
def counterVal (s : State) (off : Nat) : Option Nat :=
  let o := off % 0x1000
  if off = 0x1108 ∨ off = 0x70118 then some (now s)
  else if off = 0x6110 then some s.tel.tickTime
  else if 0x6400 ≤ off ∧ off < 0x6800 ∧ o % 8 = 0 then
    some (mget s.tel.rollup 0 (fld (rw s 0x6120) 3 0 * 128 + (off - 0x6400) / 8))
  else if 0x6800 ≤ off ∧ off < 0x6C00 ∧ o % 8 = 0 then
    some (mget s.tel.plumbShadow 0 (fld (rw s 0x6124) 8 0 * 128 + (off - 0x6800) / 8))
  else if counterAt off then some (mget s.tel.shadow 0 off)
  else none

/-! ### The pages -/

/-- The page header (R461). PAGE_CTRL.soft_rst of a link reads 1 until the link has come up or has left service; every
other block's reset ends with the command that starts it (R430). -/
def headerVal (s : State) (page o : Nat) : Option Word :=
  match o with
  | 0x00 => some (loW ((pageId page).1 * 2 ^ 16 + (pageId page).2))
  | 0x04 => some 0x0001B100
  | 0x08 => some (loW (pageCaps page))
  | 0x0C =>
    let fenced := decide (0x20000 ≤ page ∧ page < 0x40000) && (courseOf s ((page - 0x20000) / 0x1000)).fenced
    let test := match pageUnit page with | some u => (unitOf s u).out | none => false
    some (loW (b2n (isReady s) + 2 * b2n test + 4 * b2n fenced))
  | 0x10 => some (loW (b2n (decide (0x71000 ≤ page ∧ page < 0x7D000) && (linkOf s ((page - 0x71000) / 0x1000)).softRst)))
  | 0x14 => some (mget s.host.irqStatus 0 page)
  | 0x18 => some (mget s.host.irqEnable 0 page)
  | 0x1C => some 0
  | 0x20 => some (accWord (mget s.host.acc {} page))
  | 0x24 => some (loW s.cfg.seq)
  | 0x28 => some (loW (s.cfg.state + 256 * b2n (s.cfg.dirty.contains page)))
  | _ => none
/-- HOST page (R467) (log 47, DEDUCED). -/
def hostVal (s : State) (o : Nat) : Option Word :=
  if o = 0x100 then some (hostStatus s)
  else if o = 0x110 then some (loW s.host.bar4Err) else if o = 0x114 then some (hiW s.host.bar4Err)
  else if o = 0x118 then some (loW s.host.evqLost) else if o = 0x12C then some (loW s.host.evq.prod)
  else if o = 0x130 ∨ o = 0x138 then some 0
  else if o = 0x13C then some (loW (s.host.fw.state + 16 * s.host.fw.result))
  else if 0x800 ≤ o ∧ o < 0xC00 then
    let ch := (o - 0x800) / 0x20
    let k := chanOf s ch
    let enabled := (rw s (chanBase ch + 0x10)).getLsbD 0
    if o % 0x20 = 0xC then some (loW k.head)
    else if o % 0x20 = 0x14 then some (loW (b2n (enabled && k.cur.isNone && decide (k.head = k.tail))))
    else none
  else none
/-- AON, RST, CLK and PWR pages (R467, R468). -/
def aonVal (s : State) (off : Nat) : Option Word :=
  if off = 0x1100 then some (loW (s.boot.stage + 16 * s.boot.copy)) else if off = 0x1104 then some (loW s.boot.cause)
  else if off = 0x1110 then some (loW s.tel.ret.length)
  else if 0x1140 ≤ off ∧ off < 0x1180 then some (wordOf (s.tel.ret.getD (fld (rw s 0x1114) 3 0) []) ((off - 0x1140) / 4))
  else if off = 0x2100 ∨ off = 0x2104 then some 0 else if off = 0x2108 then some (loW (b2n s.boot.resetting))
  else if off = 0x3108 then some (clkRun s 0) else if off = 0x310C then some (clkRun s 1)
  else if off = 0x410C then some 0
  else if off = 0x4110 then
    let m := match s.pwr.state with | .aonOnly => 0 | .lowPower => 1 | .active => 2
    some (loW (m + 16 * b2n s.pwr.brake + 32 * b2n s.pwr.coolant + 64 * b2n s.pwr.throttle))
  else if off = 0x4114 then some (loW (s.pwr.watts % 65536 + s.pwr.amps % 65536 * 65536))
  else if 0x4140 ≤ off ∧ off < 0x4180 then
    let p := (off - 0x4140) / 4
    let x := pairOf s p
    some (loW (effClock s p % 4096 + limitCode s p * 2 ^ 12 + b2n x.gated * 2 ^ 15 + x.setpoint % 512 * 2 ^ 16 + b2n (decide (x.guard ≠ 0)) * 2 ^ 25))
  else none
/-- CFG, TEL and HRDM pages (R468). -/
def cfgVal (s : State) (off : Nat) : Option Word :=
  let own := fun k => match mget s.cfg.copies none k with | some c => c.writesOwn | none => 0
  if 0x5100 ≤ off ∧ off < 0x5110 then some 0
  else if off = 0x5110 then some s.cfg.result else if off = 0x5114 then some s.cfg.bootStatus
  else if off = 0x5118 then some (loW s.cfg.bootWhere)
  else if off = 0x511C then
    let a := copyReadOnly s 0
    let b := copyReadOnly s 1
    some (loW (b2n (a && b) + 2 * b2n a + 4 * b2n b + 8 * b2n s.cfg.saving.isSome))
  else if off = 0x5120 then some (loW (own 0)) else if off = 0x5124 then some (loW (own 1))
  else if off = 0x6100 then some 0
  else if off = 0x6108 then some (loW (b2n s.tel.valid + s.tel.ticks % 65536 * 65536))
  else if off = 0x8100 then some 0
  else if off = 0x8108 then
    some (loW (b2n s.sec.busy + 2 * b2n s.sec.scrubbing + 4 * b2n s.sec.scrubFailed + 16 * s.sec.result))
  else if off = 0x810C then some (loW s.sec.epoch)
  else if 0x8110 ≤ off ∧ off < 0x8120 then some (wordOf (secState s) ((off - 0x8110) / 4))
  else none
/-- A context's window of the JOB page, at a relative offset (R469). -/
def jobWinVal (s : State) (c o : Nat) : Option Word :=
  let j := ctxOf s c
  if o = 0 then some (loW (jstateCode j.state + 256 * b2n j.inStep + 512 * b2n j.trn.snapReq + 1024 * b2n j.trn.snapping + 2048 * b2n j.preempt))
  else if o = 4 then some (loW j.step)
  else if o = 0xC then some (loW (j.credit + 65536 * b2n j.creditOvf)) else if o = 0x10 then some 0
  else if o = 0x14 then some (loW j.trn.trailStep) else if o = 0x18 then some (loW j.trn.baseStep)
  else if o = 0x70 then some 0
  else if o = 0x8C then some (loW j.evq.prod) else if o = 0x9C then some (loW j.trwHead)
  else if 0xA0 ≤ o ∧ o < 0xC0 then
    some (loW (((List.range 32).map fun i => b2n (j.man.keep.getD (8 * (o - 0xA0) + i) false) * 2 ^ i).sum))
  else if 0x100 ≤ o then portVal j.fab.late j.fab.lateOvf (o - 0x100)
  else none
/-- JOB page (R469); takes are left to `readWord`. -/
def jobVal (s : State) (o : Nat) : Option Word :=
  if o = 0x100 then some 0 else if o = 0x104 then some (jobResultWord s) else if o = 0x108 then some (loW s.job.resultIndex)
  else if 0x200 ≤ o ∧ o < 0xE00 then jobWinVal s ((o - 0x200) / 0x180) ((o - 0x200) % 0x180)
  else if 0xE00 ≤ o ∧ o < 0xE80 then (if o % 8 = 0 then some (poolHead s ((o - 0xE00) / 8)) else some 0)
  else if 0xE80 ≤ o ∧ o < 0xEC0 then
    let q := poolOf s ((o - 0xE80) / 4)
    some (loW (b2n q.enable * 2 ^ 31 + q.owner * 2 ^ 24 + q.dropped * 2 ^ 11 + q.entries.length))
  else none
/-- A tile's window of a COURSE page (R470). -/
def tileWinVal (s : State) (t o : Nat) : Option Word :=
  let q := seqrOf s t
  match o with
  | 0x00 =>
    let held := match tileCtx s t with | some c => c + 8 | none => 0
    some (loW (held + 16 * b2n q.hold.isSome + min 31 (q.descs.filter (·.phase ≠ .done)).length * 256))
  | 0x04 => some (loW q.pc)
  | 0x08 => some (loW q.last)
  | 0x10 => some (loW (semGet s t (fld (rw s (coursePage (t / 16) + 0x80C + 0x80 * (t % 16))) 7 0)))
  | _ => none
/-- Compute and memory pages (R470). -/
def unitVal (s : State) (off : Nat) : Option Word :=
  let n := off / 0x1000
  let o := off % 0x1000
  let log := fun (port : Nat) => portVal (mget s.tel.logs [] port) (mget s.tel.logOvf 0 port) (off - port)
  if 0x10 ≤ n ∧ n < 0x14 then
    (if o = 0x100 then
       some (loW ((((List.range 4).map fun i => (pairOf s (4 * (n - 0x10) + i)).temp).foldl max 0) % 1024))
     else if 0x180 ≤ o ∧ o < 0x200 then log (n * 0x1000 + 0x180) else none)
  else if 0x20 ≤ n ∧ n < 0x40 then
    let k := courseOf s (n - 0x20)
    (if o = 0x10C then some (loW (match courseHolder s (n - 0x20) with | some c => c + 8 | none => 0))
     else if o = 0x110 then some 0
     else if o = 0x114 then some (loW (b2n k.fenced + 2 * b2n k.bist + 4 * k.bistResult))
     else if 0x800 ≤ o then tileWinVal s (16 * (n - 0x20) + (o - 0x800) / 0x80) ((o - 0x800) % 0x80)
     else none)
  else if 0x40 ≤ n ∧ n < 0x44 then (if o = 0x100 then some (loW (waysHeld s (n - 0x40) % 16)) else none)
  else if 0x48 ≤ n ∧ n < 0x4C then
    let d := n - 0x48
    (if o = 0x100 then some (loW (match mget s.post.run none d with | some r => 1 + 2 * r.ctx | none => 0))
     else if 0x200 ≤ o ∧ o < 0x280 then
       (let r := postRing s d ((o - 0x200) / 0x10)
        if o % 0x10 = 0 then some (loW r.1) else if o % 0x10 = 4 then some (hiW r.1)
        else if o % 0x10 = 8 then some (loW r.2) else none)
     else none)
  else if 0x50 ≤ n ∧ n < 0x5C then
    let x := stackOf s (n - 0x50)
    (if o = 0x100 then some (loW (b2n x.trained + 2 * b2n x.selfRefresh + 4 * b2n x.dblRefresh + 8 * b2n x.scrubbing))
     else if o = 0x104 then some (loW (x.temp % 1024))
     else if 0x180 ≤ o ∧ o < 0x200 then log (n * 0x1000 + 0x180) else none)
  else if 0x60 ≤ n ∧ n < 0x6C then
    let k := n - 0x60
    let w := mget s.trw {} k
    let queued := ((List.range 8).map fun c => ((ctxOf s c).trn.cmds.filter fun x => x.todo.contains k).length).sum
    (if o = 0x100 then some (loW (b2n w.sweeping + 2 * w.ctx + 16 * b2n w.zero))
     else if o = 0x104 then some (loW (w.frac + min 255 queued * 256))
     else if o = 0x108 then some (loW w.record) else none)
  else none
/-- Fabric pages (R471). -/
def fabVal (s : State) (off : Nat) : Option Word :=
  let n := off / 0x1000
  let o := off % 0x1000
  if n = 0x70 then
    (if o = 0x120 ∨ o = 0x124 then some 0
     else if o = 0x128 then some (loW (b2n s.fab.locked + 2 * b2n s.fab.holdover + 4 * s.fab.follow + 256 * s.fab.hops))
     else if 0x200 ≤ o ∧ o < 0x300 then
       some (match s.fab.absent[(o - 0x200) / 4]? with | some e => loW (2 ^ 31 + e.2 * 2 ^ 16 + e.1) | none => 0)
     else none)
  else if 0x71 ≤ n ∧ n < 0x7D then
    let l := linkOf s (n - 0x71)
    (if o = 0x104 then some (linkWord l) else if o = 0x108 then some (loW (l.peer + l.peerPort * 2 ^ 15))
     else if o = 0x10C then some 0 else none)
  else none
/-- RINK page and media unit pages (R471). -/
def rinkVal (s : State) (off : Nat) : Option Word :=
  let o := off % 0x1000
  if off / 0x1000 = 0x80 then
    (if 0x110 ≤ o ∧ o < 0x120 then
       some (loW (classDepth s ((o - 0x110) / 4) % 512 + 65536 * b2n (mget s.rink.spill false ((o - 0x110) / 4))))
     else if 0x140 ≤ o ∧ o < 0x180 then
       some (match entryOf s (fld (rw s 0x80120) 2 0) (fld (rw s 0x80124) 17 0) with
         | some e => loW (entGet s e (o - 0x140) 4)
         | none => 0)
     else if 0x400 ≤ o ∧ o < 0x800 then
       (let c := (o - 0x400) / 0x80
        portVal (mget s.rink.merr [] c) (mget s.rink.merrOvf 0 c) ((o - 0x400) % 0x80))
     else none)
  else match pageUnit (off / 0x1000 * 0x1000) with
    | none => none
    | some u =>
      let x := unitOf s u
      (if o = 0x100 then
         (let t := s.rink.tasks.find? fun t => decide (t.unit = some u)
          some (loW ((match t with | some t => 1 + 2 * t.ctx + 16 * t.stream | none => 0) + b2n x.out * 2 ^ 22)))
       else if o = 0x104 then some (loW x.frac) else if o = 0x108 then some 0
       else if o = 0x10C then some (loW (x.result + 4 * b2n x.testing))
       else if o = 0x120 ∧ u = .adec then some (loW (adecSlots s % 2048))
       else none)
/-- A register that reads without effect, at an aligned BAR0 offset; none where no register lies (R452). -/
def regVal (s : State) (off : Nat) : Option Word :=
  let page := off / 0x1000 * 0x1000
  let o := off % 0x1000
  if (pageIndex page).isNone then none
  else if o < 0x100 then headerVal s page o
  else match stMask off, rwMask off with
    | some m, _ => some (shadow s off &&& m)
    | none, some _ => some (rw s off)
    | none, none =>
      if page = 0 then hostVal s o
      else if page < 0x5000 then aonVal s off
      else if page = 0x7000 then jobVal s o
      else if page < 0x9000 then cfgVal s off
      else if page < 0x70000 then unitVal s off
      else if page < 0x80000 then fabVal s off
      else rinkVal s off

/-! ### A 32-bit read (R461 to R463) -/

/-- Key of a requester's latch or held low word. -/
def reqKey (r off : Nat) : Nat := 2 ^ 20 * r + off
/-- Clear ACCESS_ERR of a page (R461); HOST's read re-arms HOST_BAR4_ERR (R467). -/
def clearAcc (s : State) (page : Nat) : State :=
  { s with host := { s.host with
      acc := mset s.host.acc {} page {}
      bar4ErrHeld := if page = 0 then false else s.host.bar4ErrHeld } }
/-- A read of the aligned word at `off` by requester `r`: its value and what it leaves (R462, R463, R469). -/
def readWord (s : State) (r off : Nat) : Word × State :=
  let page := off / 0x1000 * 0x1000
  if !pageAnswers s page || (pageIndex page).isNone then (0, s)
  else match counterVal s off, (if 4 ≤ off then counterVal s (off - 4) else none) with
    | some v, _ => (loW v, { s with host := { s.host with latch := mset s.host.latch 0 (reqKey r off) (hiW v) } })
    | none, some _ => (mget s.host.latch 0 (reqKey r (off - 4)), s)
    | none, none =>
      let v := (regVal s off).getD 0
      if off % 0x1000 = 0x20 then (v, clearAcc s page)
      else if 0x7E00 ≤ off ∧ off < 0x7E80 ∧ off % 8 = 0 then (v, poolTaken s ((off - 0x7E00) / 8))
      else (v, s)
/-- Reads of consecutive words, in increasing offset. -/
def readWords (s : State) (r off : Nat) : Nat → List Word × State
  | 0 => ([], s)
  | n + 1 =>
    let a := readWord s r off
    let b := readWords a.2 r (off + 4) n
    (a.1 :: b.1, b.2)

end Sys2Proof.Machine
end

