-- ==== Sys2Proof/Machine/Trowel.lean ====
section
/-! DEFINITION. Trowel commands, the command queue, the mover and sink polls (spec/06_training_state.md, R169 to R199). -/

namespace Sys2Proof.Machine

/-! ### Shared by the commands -/

/-- The commands that wait on trowel k, with their contexts. -/
def waitingOn (s : State) (k : Nat) : List (Nat × TrwCmd) :=
  (List.range 8).flatMap fun c => ((ctxOf s c).trn.cmds.filter fun x => x.todo.contains k).map fun x => (c, x)
/-- The oldest command with op `op` that trowel k may start or go on with: commands start in the order they were queued,
whatever the job, and those of one job, which name the same records, follow one another (R173). -/
def headCmd (s : State) (k op : Nat) : Option (Nat × TrwCmd) :=
  let q := waitingOn s k
  let may := q.filter fun x => decide (x.2.op = op) && q.all fun y =>
    decide (x.2.id ≤ y.2.id) || (y.2.begun.contains k && decide (y.1 ≠ x.1))
  may.find? fun x => may.all fun y => decide (x.2.id ≤ y.2.id)
/-- Change a command of a job. -/
def updCmd (s : State) (c id : Nat) (f : TrwCmd → TrwCmd) : State :=
  updTrn s c fun t => { t with cmds := t.cmds.map fun x => if x.id = id then f x else x }
/-- Trowel k has started a command (R173). -/
def beginOn (s : State) (c k : Nat) (x : TrwCmd) : State :=
  updCmd s c x.id fun y => { y with begun := if y.begun.contains k then y.begun else k :: y.begun }
/-- Trowel k has ended a command; the part's own BASE and SNAP commands are dropped when all have. -/
def endOn (s : State) (c k : Nat) (x : TrwCmd) : State :=
  let s1 := updCmd s c x.id fun y => { y with todo := y.todo.filter (· ≠ k) }
  updTrn s1 c fun t => { t with cmds := t.cmds.filter fun y => !(decide (y.id = x.id ∧ y.todo = [] ∧ y.op ≠ 1) && !y.host) }
/-- Trowel k stops at its first failing record (R185). -/
def failOn (s : State) (c k idx code : Nat) (x : TrwCmd) : State :=
  endOn (updCmd s c x.id fun y => { y with fails := y.fails ++ [(k, idx, code)] }) c k x
/-- The whole command fails with nothing done: no stack is named (R185, R196). -/
def failAll (s : State) (c code : Nat) (x : TrwCmd) : State :=
  updCmd s c x.id fun y => { y with fails := [(0xFF, 0, code)], todo := [] }
/-- One more record done (R185). -/
def didOne (s : State) (c : Nat) (x : TrwCmd) : State := updCmd s c x.id fun y => { y with done := y.done + 1 }
/-- Write bytes of a record. -/
def recWrite (s : State) (r : Rec) (off : Nat) (bs : List Byte) : State := devWrite s none (r.addr + off) bs
/-- Trowel k starts a record: TRW_RECORD, and the fraction that holds from here on (R410, R470). -/
def startRec (s : State) (k idx : Nat) : State := updTrowel s k fun w => { w with record := idx, frac := trowelFraction s k }
/-- Recompute and store the digest of a record's master plane (R179). -/
def storeDigest (s : State) (r : Rec) : State := recWrite s r 0x50 (leBytes 8 (recDigest (devRead s (0x100 + r.addr) 16384)))
/-- Trowel counters (R178): NaN master values written, working elements that overflowed, and those flushed. -/
def countWritten (s : State) (k nans ovf flush : Nat) : State :=
  bump (bump (bump s (trwPage k + 0x110) nans) (trwPage k + 0x118) ovf) (trwPage k + 0x120) flush
/-- NaN values of a master plane's first bytes. -/
def nansIn (master : List Byte) : Nat := (planeWords master (master.length / 4)).countP isNan32
/-- Sweep one record with a block and step: planes, wscale, last_step, digest (R170, R175 to R178). -/
def applySweep (s : State) (k : Nat) (r : Rec) (blk : List Byte) (step : Nat) : State :=
  let h := hdrOf s r
  let o := sweepRec (fun off n => devRead s (r.addr + off) n) h blk step
  let s1 := recWrite (recWrite (recWrite (recWrite s r 0x100 o.master) r 0x4100 o.mom1) r 0x8100 o.mom2) r 0xE100 o.work
  let s2 := if hWfmt h = 4 then recWrite s1 r 0x14 (leBytes 1 o.wscale) else s1
  countWritten (storeDigest (recWrite s2 r 0x48 (leBytes 4 step)) r) k o.nans o.ovf o.flush

/-! ### Poisoned lines under what a trowel reads (R171, R247, R512) -/

/-- First poisoned line among planes of a record: (offset, bytes). -/
def recPoison (s : State) (r : Rec) (rs : List (Nat × Nat)) : Option Nat := rs.findSome? fun p => poisonedAt s (r.addr + p.1) p.2
/-- Errors in planes of a record are met by the trowel that reads them (R247). -/
def recMeet (s : State) (c : Nat) (r : Rec) (rs : List (Nat × Nat)) : State :=
  meetRanges s 3 c (rs.map fun p => (r.addr + p.1, p.2))
/-- What a sweep reads of a record: its header, elements 0 to count − 1 of master, moment 1 and, under Adam and AdamW,
moment 2, and the gradient where `grad` says it is not replayed; padding is never read (R159, R171). -/
def sweepReads (h blk : List Byte) (grad : Bool) : List (Nat × Nat) :=
  let n := hCount h
  [(0, 256), (0x100, 4 * n), (0x4100, 4 * n)] ++ (if (grpAt blk (hGroup h)).opt ≤ 1 then [(0x8100, 4 * n)] else [])
    ++ (if grad then [(0xC100, 2 * n)] else [])

/-! ### SWEEP (R169, R170, R194) -/

/-- First record of the job whose header fails R169, with the check. -/
def recordFault (s : State) (c : Nat) : Option (Rec × Nat) :=
  let m := (ctxOf s c).man
  (recsOf m).findSome? fun r =>
    let h := hdrOf s r
    (headerCheck h r.tensor r.shard (sameGfmt s m (hGfmt h))).map fun e => (r, e)
/-- Sweep the records of a list in order, stopping where staging lacks room (R170, R190) or a record is poisoned (R247). -/
def sweepRun (s : State) (c k : Nat) (x : TrwCmd) (step : Nat) : List Rec → State
  | [] =>
    let s1 := updTrowel (endOn s c k x) k fun w => { w with sweeping := false }
    turnGrads s1 c (x.todo.filter (· ≠ k)) (ctxOf s1 c).trn.grads.length
  | r :: rest =>
    let s := recMeet s c r (sweepReads (hdrOf s r) (ctxOf s c).trn.block true)
    match recPoison s r (sweepReads (hdrOf s r) (ctxOf s c).trn.block true) with
    | some a => memFault (updTrowel s k fun w => { w with sweeping := false }) c 3 k a
    | none =>
      let j := ctxOf s c
      let s1 := updTrowel (applySweep (startRec s k r.idx) k r j.trn.block step) k fun w => { w with sweeping := true, ctx := c }
      let h := hdrOf s1 r
      let s2 := updTrn s1 c fun t => { t with triples := t.triples ++ [(r.tensor, r.shard, lat h 0x50 8)] }
      let s3 := updCmd s2 c x.id fun y => { y with pos := mset y.pos 0 k (r.idx + 1), done := y.done + 1 }
      if j.man.trailExport then
        let g := trailRec s3 0x02 0 step r.tensor r.shard (lat h 0x50 8) (groutEncode (gradPlane s3 r (hCount h)))
        let s4 := updTrn s3 c fun t => { t with grads := t.grads ++ [(k, r.idx, g)] }
        let s5 := turnGrads s4 c x.todo (ctxOf s4 c).trn.grads.length
        if (ctxOf s5 c).trn.stageOut = [] then sweepRun s5 c k x step rest
        else updTrn s5 c fun t => { t with noRoom := k :: t.noRoom.filter (· ≠ k) }
      else sweepRun s3 c k x step rest
/-- A trowel runs its SWEEP: all headers of the job are checked before any trowel writes (R169). -/
def sweepEffect (k : Nat) (s0 : State) : State :=
  match headCmd s0 k 1 with
  | none => s0
  | some (c, x) =>
    let j := ctxOf s0 c
    if j.bnd.phase ≠ .sweeping ∨ j.trn.stageOut ≠ [] then s0
    else
      let s := if j.trn.checked then s0 else meetRanges s0 3 c ((recsOf j.man).map fun r => (r.addr, 256))
      let poison := (recsOf j.man).findSome? fun r => (poisonedAt s r.addr 256).map fun a => (r.stack, a)
      let bad := if j.trn.checked then none else recordFault s c
      match (if j.trn.checked then none else poison), bad with
      | some p, _ => memFault s c 3 p.1 p.2
      | none, some (r, e) => faultJob s c 0x0013 { cause := e, unit := 3, inst := r.stack, word := r.idx }
      | none, none =>
        let s1 := beginOn (updTrn s c fun t => { t with checked := true }) c k x
        sweepRun s1 c k x j.step ((recsIn j.man k).filter fun r => decide (mget x.pos 0 k ≤ r.idx))
/-- SWEEP. -/
def execSweep (k : StackId) (s : State) : Host.Outcome State Fault Refusal := .next (sweepEffect k.val s)

/-! ### BASE and SNAP (R195, R198) -/

/-- Hand the records of trowel k of an export to the mover: OPEN before the first stack, CLOSE after the last (R192, R193). -/
def exportRun (s : State) (c k : Nat) (x : TrwCmd) (label : Nat) : State :=
  let j := ctxOf s c
  let n := (recsOf j.man).length
  let isBase := decide (x.op = 4)
  let ty := if isBase then 0x12 else 0x22
  let seq0 := if x.begun = [] then [] else if isBase then j.trn.baseSeq else j.trn.snapSeq
  let open_ := if x.begun = [] then
      trailRec s (if isBase then 0x11 else 0x21) 0 label 0 0 0
        (if isBase then leBytes 4 (baseK s c) ++ leBytes 4 n ++ List.replicate 24 0 else leBytes 4 n ++ List.replicate 28 0)
    else []
  let body := open_ ++ (recsIn j.man k).flatMap fun r => shardRec s ty label r
  let seq := seq0 ++ body
  let last := x.todo = [k]
  let out := body ++ (if last then closeRec s (if isBase then 0x13 else 0x23) 0 label n 0 seq else [])
  let keep := if last then [] else seq
  let s1 := updTrn s c fun t =>
    if isBase then { t with baseOut := t.baseOut ++ out, baseSeq := keep, baseLabel := label, basing := !decide last }
    else { t with snapOut := t.snapOut ++ out, snapSeq := keep, snapLabel := label }
  let s2 := forEach (recsIn j.man k) s1 fun s r => startRec s k r.idx
  endOn (updCmd (beginOn s2 c k x) c x.id fun y => { y with done := y.done + (recsIn j.man k).length }) c k x
/-- What an export reads of a record: header and working plane, and in a base image master and moments (R192). -/
def exportReads (h : List Byte) (isBase : Bool) : List (Nat × Nat) := [(0, if isBase then 0xC100 else 256), (0xE100, workBytes h)]
/-- Trowel k takes its turn in the oldest export of its kind: stacks follow in increasing number (R193). A host BASE is
labelled with the last committed step (R184); without a base sink it exports nothing (log 28). -/
def exportEffect (op k : Nat) (s : State) : State :=
  match headCmd s k op with
  | none => s
  | some (c, x) =>
    let j := ctxOf s c
    let first := (j.trn.cmds.find? fun y => decide (y.op = op ∧ y.todo ≠ [])).map (·.id) = some x.id
    if x.todo.any (· < k) ∨ ¬ first then s
    else if op = 4 ∧ (sinkCfg s c 1).len = 0 then endOn s c k x
    else
      let s := forEach (recsIn j.man k) s fun s r => recMeet s c r (exportReads (hdrOf s r) (decide (op = 4)))
      match (recsIn j.man k).findSome? fun r => recPoison s r (exportReads (hdrOf s r) (decide (op = 4))) with
      | some a => memFault s c 3 k a
      | none => exportRun s c k x (if x.host then j.trn.committed else (x.w.getD 3 0).toNat)
/-- BASE. -/
def execBase (k : StackId) (s : State) : Host.Outcome State Fault Refusal := .next (exportEffect 4 k.val s)
/-- SNAP. -/
def execSnap (k : StackId) (s : State) : Host.Outcome State Fault Refusal := .next (exportEffect 6 k.val s)

/-! ### DIGEST and INIT (R184) -/

/-- Recompute digests in order until one differs. -/
def digestRun (s : State) (c k : Nat) (x : TrwCmd) : List Rec → State
  | [] => endOn s c k x
  | r :: rest =>
    let s := recMeet s c r [(0, 0x4100)]
    match poisonedAt s r.addr 0x4100 with
    | some a => memFault s c 3 k a
    | none =>
      if recDigest (devRead s (0x100 + r.addr) 16384) = devNat s (r.addr + 0x50) 8 then
        digestRun (didOne (startRec s k r.idx) c x) c k x rest
      else failOn (startRec s k r.idx) c k r.idx 5 x
/-- DIGEST. -/
def digestEffect (k : Nat) (s : State) : State :=
  match headCmd s k 2 with
  | some (c, x) => digestRun s c k x (recsIn (ctxOf s c).man k)
  | none => s
@[inherit_doc digestEffect] def execDigest (k : StackId) (s : State) : Host.Outcome State Fault Refusal := .next (digestEffect k.val s)
/-- Initialise one record; NaN master values are counted (R178, R184). -/
def initRec (s : State) (k : Nat) (r : Rec) : State :=
  let h := hdrOf s r
  let n := hCount h
  let eb := if hWfmt h = 4 then 1 else 2
  let work := devRead s (0xE100 + r.addr) (eb * n)
  let master := (List.range n).flatMap fun i => leBytes 4 (initMaster h (lat work (eb * i) eb)).toNat
  let z := List.replicate (4 * n) (0 : Byte)
  let s1 := recWrite (recWrite (recWrite (recWrite s r 0x100 master) r 0x4100 z) r 0x8100 z) r 0xC100 (z.take (2 * n))
  countWritten (storeDigest (recWrite s1 r 0x48 (leBytes 4 0)) r) k (nansIn master) 0 0
/-- Initialise records in order until a header fails. -/
def initRun (s : State) (c k : Nat) (x : TrwCmd) : List Rec → State
  | [] => endOn s c k x
  | r :: rest =>
    let s := recMeet s c r [(0, 256)]
    match poisonedAt s r.addr 256 with
    | some a => memFault s c 3 k a
    | none =>
      let h := hdrOf s r
      let s := recMeet s c r [(0xE100, if hWfmt h = 4 then hCount h else 2 * hCount h)]
      match headerCheck h r.tensor r.shard (sameGfmt s (ctxOf s c).man (hGfmt h)) with
      | some _ => failOn s c k r.idx 4 x
      | none => match poisonedAt s (0xE100 + r.addr) (if hWfmt h = 4 then hCount h else 2 * hCount h) with
        | some a => memFault s c 3 k a
        | none => initRun (didOne (initRec (startRec s k r.idx) k r) c x) c k x rest
/-- INIT. -/
def initEffect (k : Nat) (s : State) : State :=
  match headCmd s k 8 with
  | some (c, x) => initRun s c k x (recsIn (ctxOf s c).man k)
  | none => s
@[inherit_doc initEffect] def execInit (k : StackId) (s : State) : Host.Outcome State Fault Refusal := .next (initEffect k.val s)

/-! ### REPLAY and IMPORT (R196) -/

/-- The source's byte i from its address: device memory here, or what a peer's answers gave. -/
def srcByte (s : State) (x : TrwCmd) (i : Nat) : Byte := if cmdPeer x then x.src.getD i 0 else devGet s (cmdAddr x + i)
/-- The whole of a peer source has arrived (R188). -/
def srcReady (x : TrwCmd) : Bool := !cmdPeer x || decide (cmdLen x ≤ x.src.length)
/-- Place of stream byte n in the source (R196): a run, or the data area of a ring from `pos`. -/
def srcAt (x : TrwCmd) (n : Nat) : Nat :=
  let pos := (x.w.getD 5 0).toNat + 2 ^ 32 * (x.w.getD 6 0).toNat
  if (x.w.getD 4 0).getLsbD 0 then 256 + (pos + n) % (cmdLen x - 256) else n
/-- The sequence's bytes and its greatest length (R196). -/
def seqSource (s : State) (x : TrwCmd) : (Nat → Byte) × Nat :=
  (fun n => srcByte s x (srcAt x n), if (x.w.getD 4 0).getLsbD 0 then cmdLen x - 256 else cmdLen x)
/-- First poisoned line under the first n bytes of a source in this part's memory (R247). -/
def srcPoison (s : State) (x : TrwCmd) (n : Nat) : Option Nat :=
  if cmdPeer x then none else (List.range (cdiv n 64)).findSome? fun i => poisonedAt s (cmdAddr x + srcAt x (64 * i)) 64
/-- Errors under the first n bytes of such a source are met (R247). -/
def srcMeet (s : State) (c : Nat) (x : TrwCmd) (n : Nat) : State :=
  if cmdPeer x then s else meetRanges s 3 c ((List.range (cdiv n 64)).map fun i => (cmdAddr x + srcAt x (64 * i), 64))
/-- Length that R191 and R192 give an OPEN record: a STEP_OPEN holds its block, a BASE_OPEN 32 bytes. -/
def openLen (opn : Nat) (groups : Nat) : Nat := if opn = 1 then 64 + 64 * groups else 64
/-- Records of a sequence: from offset o, at most `fuel` records, up to and including its CLOSE, with its offset; a type,
length or step that fails, or a source that ends first, gives none and the offset of that record. -/
def seqRecs (get : Nat → Byte) (limit opn shard close step : Nat) : Nat → Nat → List (Nat × Nat) → Option (List (Nat × Nat)) × Nat
  | 0, o, _ => (none, o)
  | fuel + 1, o, acc =>
    let rd := fun a n => leNat ((List.range n).map fun i => get (o + a + i))
    let ty := rd 0 1
    let len := rd 4 4
    if limit < o + 64 ∨ len < 64 ∨ len % 64 ≠ 0 ∨ limit < o + len ∨ (acc ≠ [] ∧ rd 8 4 ≠ step) then (none, o)
    else if acc = [] then
      if ty = opn ∧ len = openLen opn (rd 0x38 2) then seqRecs get limit opn shard close (rd 8 4) fuel (o + len) [(o, len)] else (none, o)
    else if ty = close then (if len = 64 then some acc else none, o)
    else if ty = shard then seqRecs get limit opn shard close step fuel (o + len) (acc ++ [(o, len)])
    else (none, o)
/-- A complete sequence under R193: its OPEN and shard records, by offset and length; none when incomplete. Beside it the
bytes that were read. -/
def seqParse (s : State) (x : TrwCmd) (opn shard close : Nat) : Option (List (Nat × Nat)) × Nat :=
  let g := seqSource s x
  let magicOk := (x.w.getD 4 0).getLsbD 0 = false ∨ leNat ((List.range 4).map (srcByte s x)) = sinkMagic
  if ¬ magicOk then (none, 0)
  else match seqRecs g.1 g.2 opn shard close 0 (g.2 / 64 + 1) 0 [] with
    | (none, o) => (none, o + 64)
    | (some rs, o) =>
      let crc := crc32c ((List.range o).map g.1)
      let cnt := leNat ((List.range 4).map fun i => g.1 (o + 32 + i))
      let sum := leNat ((List.range 4).map fun i => g.1 (o + 40 + i))
      (if cnt = rs.length - 1 ∧ sum = crc.toNat then some rs else none, o + 64)
/-- Bytes of a record of the sequence. -/
def seqRec (get : Nat → Byte) (p : Nat × Nat) : List Byte := (List.range p.2).map fun i => get (p.1 + i)
/-- Shard records that no placement of the job holds fail the command without a stack (R185). -/
def noteUnheld (s : State) (c : Nat) (x : TrwCmd) (rs : List (List Byte)) : State :=
  let m := (ctxOf s c).man
  let lost := rs.any fun b => (recsOf m).all fun r => decide (r.tensor ≠ lat b 0x10 4 ∨ r.shard ≠ lat b 0x14 4)
  if lost then updCmd s c x.id fun y => { y with fails := if y.fails.contains (0xFF, 0, 4) then y.fails else y.fails ++ [(0xFF, 0, 4)] } else s
/-- The record of trowel k that a source record names. -/
def named (m : Manifest) (k : Nat) (b : List Byte) : Option Rec :=
  (recsIn m k).find? fun r => decide (r.tensor = lat b 0x10 4 ∧ r.shard = lat b 0x14 4)
/-- Replay the SHARD_GRAD records of trowel k in order (R196). -/
def replayRun (s : State) (c k : Nat) (x : TrwCmd) (blk : List Byte) (step : Nat) : List (List Byte) → State
  | [] => endOn s c k x
  | b :: rest =>
    match named (ctxOf s c).man k b with
    | none => replayRun s c k x blk step rest
    | some r =>
      match groutDecode (fun i => b.getD (32 + i) 0) 8192 (b.length - 32) with
      | (_, some _) => failOn s c k r.idx 3 x
      | ((plane, used), none) =>
        let s := recMeet s c r (sweepReads (hdrOf s r) blk false)
        match recPoison s r (sweepReads (hdrOf s r) blk false) with
        | some a => memFault s c 3 k a
        | none =>
          if b.length ≠ roundUp (32 + used) 64 then failOn s c k r.idx 3 x else
          let s1 := recWrite (startRec s k r.idx) r 0xC100 plane
          if step ≤ hLast (hdrOf s1 r) then failOn s1 c k r.idx 6 x
          else
            let s2 := applySweep s1 k r blk step
            if devNat s2 (r.addr + 0x50) 8 = lat b 0x18 8 then replayRun (didOne s2 c x) c k x blk step rest
            else failOn s2 c k r.idx 5 x
/-- Run an IMPORT or REPLAY on trowel k: a peer source is first read whole over the fabric (R188), then the sequence is
parsed, and a complete one goes on to `f` (R196). -/
def withSequence (s : State) (c k : Nat) (x : TrwCmd) (opn shard close : Nat) (f : State → List Byte → List (List Byte) → State) : State :=
  if ¬ srcReady x then fwAskSource (beginOn s c k x) c x
  else
    let p := seqParse s x opn shard close
    let s := srcMeet s c x p.2
    match srcPoison s x p.2, p.1 with
    | some a, _ => memFault s c 3 k a
    | none, none => failAll s c 3 x
    | none, some rs =>
      let g := (seqSource s x).1
      let recs := rs.tail.map (seqRec g)
      f (noteUnheld s c x recs) (seqRec g (rs.headD (0, 0))) recs
/-- REPLAY. -/
def replayEffect (k : Nat) (s : State) : State :=
  match headCmd s k 3 with
  | none => s
  | some (c, x) => withSequence s c k x 1 2 3 fun s opn recs =>
    let blk := opn.drop 32
    let m := (ctxOf s c).man
    if (scalarCause25 blk (recGroups s m) (bf16Grads s m) false).isSome then failAll s c 7 x
    else if bit (lat opn 1 1) 0 then endOn s c k x
    else replayRun s c k x blk (lat opn 8 4) recs
/-- REPLAY. -/
def execReplay (k : StackId) (_src : Unit) (s : State) : Host.Outcome State Fault Refusal := .next (replayEffect k.val s)
/-- gfmt that the records an import writes and the records of the job it does not write must carry (R169). -/
def importGfmt (s : State) (m : Manifest) (rs : List (List Byte)) (g : Nat) : Bool :=
  (recsOf m).all fun r => match rs.filter fun b => decide (r.tensor = lat b 0x10 4 ∧ r.shard = lat b 0x14 4) with
    | [] => decide (devNat s (r.addr + 7) 1 = g)
    | bs => bs.all fun b => decide (lat b (32 + 7) 1 = g)
/-- Import the BASE_SHARD records of trowel k in order (R196). -/
def importRun (s : State) (c k : Nat) (x : TrwCmd) (all : List (List Byte)) : List (List Byte) → State
  | [] => endOn s c k x
  | b :: rest =>
    let m := (ctxOf s c).man
    match named m k b with
    | none => importRun s c k x all rest
    | some r =>
      let h := (b.drop 32).take 256
      if b.length ≠ roundUp (32 + 0xC100 + workBytes h) 64 then failOn s c k r.idx 3 x
      else match headerCheck h r.tensor r.shard (importGfmt s m all (hGfmt h)) with
        | some _ => failOn s c k r.idx 4 x
        | none =>
          let s1 := recWrite (recWrite (startRec s k r.idx) r 0 ((b.drop 32).take 0xC100)) r 0xE100 ((b.drop (32 + 0xC100)).take (workBytes h))
          let master := (b.drop (32 + 0x100)).take 16384
          let s2 := countWritten s1 k (nansIn master) 0 0
          if recDigest master = lat h 0x50 8 then importRun (didOne s2 c x) c k x all rest else failOn s2 c k r.idx 5 x
/-- IMPORT. -/
def importEffect (k : Nat) (s : State) : State :=
  match headCmd s k 5 with
  | none => s
  | some (c, x) => withSequence s c k x 0x11 0x12 0x13 fun s _ recs => importRun s c k x recs recs
/-- IMPORT. -/
def execImportBase (k : StackId) (_src : Unit) (s : State) : Host.Outcome State Fault Refusal := .next (importEffect k.val s)

/-! ### The queue and completion (R183 to R185, R455) -/

/-- TROWEL_DONE of a command (R185, R457). -/
def trowelEvent (s : State) (c tag code stack idx n : Nat) : State :=
  jobEvent s c ⟨0x0003, c, now s, leBytes 2 tag ++ leBytes 1 code ++ leBytes 1 stack ++ leBytes 4 idx ++ leBytes 4 n ++ leBytes 4 0
    ++ List.replicate 32 0, true, false, none⟩
/-- A rule of R184 for host commands is broken. -/
def cmdReserved (c : Nat) (w : List Word) : Bool :=
  let g := fun i => w.getD i 0
  let op := fld (g 0) 31 28
  let src := op = 3 ∨ op = 5
  decide (¬ (op = 2 ∨ op = 3 ∨ op = 4 ∨ op = 5 ∨ op = 8)) || decide (fld (g 0) 27 25 ≠ c) || decide (fld (g 4) 15 1 ≠ 0) || decide (g 7 ≠ 0)
    || decide (g 3 ≠ 0)
    || (!decide src && decide (fld (g 0) 24 0 ≠ 0 ∨ g 1 ≠ 0 ∨ g 2 ≠ 0 ∨ (g 4).getLsbD 0 ∨ g 5 ≠ 0 ∨ g 6 ≠ 0))
    || (!(g 4).getLsbD 0 && decide (g 5 ≠ 0 ∨ g 6 ≠ 0))
    || (!(g 0).getLsbD 24 && decide (fld (g 0) 23 9 ≠ 0)) || decide ((g 1).toNat % 64 ≠ 0)
/-- Take one host command (R184). -/
def takeCmd (s : State) (c : Nat) (w : List Word) : State :=
  let op := fld (w.getD 0 0) 31 28
  let tag := fld (w.getD 4 0) 31 16
  let st := (ctxOf s c).state
  if cmdReserved c w then trowelEvent s c tag 2 0xFF 0 0
  else if ¬ (st = .loaded ∨ (st = .parked ∧ op ≠ 8)) then trowelEvent s c tag 1 0xFF 0 0
  else
    let n := trwNext s
    let ks := recStacks (ctxOf s c).man
    let todo := if op = 4 then List.range 12 else if ks = [] ∧ (op = 3 ∨ op = 5) then [0] else ks
    updTrn s c fun t => { t with nextCmd := n + 1, cmds := t.cmds ++ [{ id := n, op := op, w := w, host := true, todo := todo }] }
/-- Take the commands from the head up to the new tail, at most `fuel` (R183, R455). -/
def takeCmds (s : State) (c base slots tail : Nat) : Nat → State
  | 0 => s
  | n + 1 =>
    let h := (ctxOf s c).trwHead
    if h = tail then s
    else
      let w := (List.range 8).map fun i => BitVec.ofNat 32 (s.hostMem.rd (base + 32 * h + 4 * i) 4)
      takeCmds (updCtx (takeCmd s c w) c fun j => { j with trwHead := (h + 1) % slots }) c base slots tail n
/-- A trowel command queue doorbell (R455, R456). -/
def trowelQueueDoorbellEffect (c tail : Nat) (hw : List Host.Cell) (s : State) : State :=
  let s0 := { s with hostMem := s.hostMem.writeCells hw }
  let slots := (rw s0 (jobBase c + 0x98)).toNat
  if slots ≤ tail then accessErr s0 0 7 4 (0x0008 + c * 0x1000)
  else takeCmds s0 c (rw64 s0 (jobBase c + 0x90)) slots tail slots
/-- TROWEL_QUEUE_DOORBELL. -/
def execTrowelQueueDoorbell (c : Ctx) (tail : Nat) (hw : List Host.Cell) (s : State) : Host.Outcome State Fault Refusal :=
  .next (trowelQueueDoorbellEffect c.val tail hw s)
/-- The failure a completion record reports: that of the lowest stack (R185). -/
def worstFail (fs : List (Nat × Nat × Nat)) : Nat × Nat × Nat :=
  fs.foldl (fun b f => if f.1 < b.1 ∨ (b.1 = 0xFF ∧ b.2.2 = 0) then f else b) (0xFF, 0, 0)
/-- The oldest host command that every trowel has ended is completed (R185) (log 3, DEDUCED). -/
def trowelDoneEffect (c : Nat) (s : State) : State :=
  match (ctxOf s c).trn.cmds.find? fun x => x.host && decide (x.todo = []) with
  | none => s
  | some x =>
    let f := worstFail x.fails
    let s1 := updTrn s c fun t => { t with cmds := t.cmds.filter fun y => y.id ≠ x.id }
    trowelEvent s1 c (fld (x.w.getD 4 0) 31 16) f.2.2 f.1 f.2.1 x.done
/-- TROWEL_DONE. -/
def execTrowelDone (c : Ctx) (s : State) : Host.Outcome State Fault Refusal := .next (trowelDoneEffect c.val s)
/-- A peer read of an IMPORT or REPLAY is late by 500 ms (R185, R246, R457): the command ends with REMOTE_TIMEOUT, and
the event of cause 6 tears the job down (log 29). -/
def peerReadTimeoutEffect (c : Nat) (s : State) : State :=
  match (ctxOf s c).fab.reads.find? fun r => r.what = 3 with
  | none => s
  | some r => match (ctxOf s c).trn.cmds.find? fun x => x.id = r.cmd with
    | none => s
    | some x =>
      let s1 := trowelEvent s c (fld (x.w.getD 4 0) 31 16) 8 0xFF 0 x.done
      remoteTimeout (updTrn s1 c fun t => { t with cmds := t.cmds.filter fun y => y.id ≠ x.id }) c 6 r.dst
/-- PEER_READ_TIMEOUT. -/
def execPeerReadTimeout (c : Ctx) (s : State) : Host.Outcome State Fault Refusal := .next (peerReadTimeoutEffect c.val s)

/-! ### The mover and sink polls (R186, R187, R190) -/

/-- Read the sinks that have not been read since they became live (R187). -/
def readFresh (s : State) (c : Nat) : State :=
  forEach [0, 1, 2] s fun s k =>
    let cfg := sinkAt s c k
    if cfg.len = 0 ∨ (sinkOf s c k).known = true then s
    else if cfg.peer then fwAskArea s c k
    else takeArea s c k (hostArea s c k)
/-- The mover moves records of a job, at most `budget` bytes of what its trail_mbps allows since it last moved (R190). -/
def trailMoverEffect (c budget : Nat) (s : State) : State :=
  if (ctxOf s c).loaded ∧ (ctxOf s c).man.trailMbps ≠ 0 then
    moverRun (forEach [0, 2, 1] (readFresh s c) fun s k => if (sinkAt s c k).peer then publish s c k else s) c budget (budget / 64)
  else s
/-- TRAIL_MOVER. -/
def execTrailMover (c : Ctx) (budget : Nat) (s : State) : Host.Outcome State Fault Refusal := .next (trailMoverEffect c.val budget s)
/-- A read of a sink's control area (R187): `hw` is what its consumer wrote in host memory before it. A peer's area is
asked for over the fabric, and taken when READ_DATA brings it. -/
def sinkPollEffect (c k : Nat) (hw : List Host.Cell) (s : State) : State :=
  let s0 := { s with hostMem := s.hostMem.writeCells hw }
  let cfg := sinkAt s0 c k
  if ¬ (ctxOf s0 c).loaded ∨ cfg.len = 0 then s0
  else if cfg.peer then fwAskArea s0 c k
  else takeArea s0 c k (hostArea s0 c k)
/-- SINK_POLL. -/
def execSinkPoll (c : Ctx) (sink : Fin 3) (hw : List Host.Cell) (_peer : Unit) (s : State) : Host.Outcome State Fault Refusal :=
  .next (sinkPollEffect c.val sink.val hw s)
/-- A fabric read of a peer sink's area has no response within 500 ms (R187). -/
def sinkReadTimeoutEffect (c k : Nat) (s : State) : State :=
  if (ctxOf s c).loaded then fwAnswered s c k none else s
/-- SINK_READ_TIMEOUT. -/
def execSinkReadTimeout (c : Ctx) (sink : Fin 3) (s : State) : Host.Outcome State Fault Refusal := .next (sinkReadTimeoutEffect c.val sink.val s)

end Sys2Proof.Machine
end

