-- ==== Sys2Proof/Machine/HostIf.lean ====
section
/-! DEFINITION. Writing BAR0 and BAR2, the BAR4 window, host DMA, the firmware window, MCTP and I3C
(spec/15_host_and_registers.md, R451 to R472; spec/14_reset_boot_config.md, R437, R438). -/

namespace Sys2Proof.Machine

/-! ### Interrupt registers (R458, R461) -/

/-- IRQ_STATUS_CLEAR: W1C (R6, R461). -/
def irqStatusClearEffect (page : Nat) (v : Word) (s : State) : State :=
  if (pageIndex page).isNone then s
  else if !pageAnswers s page then notReady s 4 (page + 0x14)
  else { s with host := { s.host with irqStatus := mupd s.host.irqStatus 0 page fun x => x &&& ~~~ v } }
/-- IRQ_STATUS_CLEAR. -/
def execIrqStatusClear (page : Nat) (v : Word) (s : State) : Host.Outcome State Fault Refusal :=
  .next (irqStatusClearEffect (page / 0x1000 * 0x1000) v s)
/-- IRQ_FORCE: sets bits that the page has (R461). -/
def irqForceEffect (page : Nat) (v : Word) (s : State) : State :=
  if (pageIndex page).isNone then s
  else if !pageAnswers s page then notReady s 4 (page + 0x1C)
  else setIrq s page (v &&& irqMask page)
/-- IRQ_FORCE. -/
def execIrqForce (page : Nat) (v : Word) (s : State) : Host.Outcome State Fault Refusal :=
  .next (irqForceEffect (page / 0x1000 * 0x1000) v s)
/-- A write of IRQ_ENABLE: the source sends when an enabled bit is set that was not (R458). -/
def irqEnableWrite (s : State) (page : Nat) (v : Word) : State :=
  let st := mget s.host.irqStatus 0 page
  let en := v &&& irqMask page
  let was := st &&& mget s.host.irqEnable 0 page
  let s1 : State := { s with host := { s.host with irqEnable := mset s.host.irqEnable 0 page en } }
  if was = 0 ∧ st &&& en ≠ 0 then (match pageIndex page with | some k => signalSource s1 (64 + k) | none => s1) else s1
/-- ACCESS_ERR_READ: the first error recorded, which the read clears (R6, R461, R463). -/
def accessErrReadEffect (r page : Nat) (s : State) : State :=
  let a := readWord s r (page + 0x20)
  emit a.2 (.reply r (leBytes 4 a.1.toNat))
/-- ACCESS_ERR_READ. -/
def execAccessErrRead (r : Req) (page : Nat) (s : State) : Host.Outcome State Fault Refusal :=
  .next (accessErrReadEffect r.val (page / 0x1000 * 0x1000) s)

/-! ### Queue read ports (R464) -/

/-- QUEUE_POP: the oldest record of the port whose _POP lies at `off` is removed. -/
def queuePopEffect (off : Nat) (v : Word) (s : State) : State :=
  let port := off - 8
  let o := port % 0x1000
  if !pageAnswers s (off / 0x1000 * 0x1000) then notReady s 4 off
  else if off < 8 ∨ ¬ v.getLsbD 0 then s
  else if port / 0x1000 = 7 ∧ 0x200 ≤ o ∧ o < 0xE00 ∧ (o - 0x200) % 0x180 = 0x100 then
    updFab s ((o - 0x200) / 0x180) fun f => { f with late := f.late.drop 1 }
  else if (0x10000 ≤ port ∧ port < 0x14000 ∨ 0x50000 ≤ port ∧ port < 0x5C000) ∧ o = 0x180 then
    { s with tel := { s.tel with logs := mupd s.tel.logs [] port fun q => q.drop 1 } }
  else if port / 0x1000 = 0x80 ∧ 0x400 ≤ o ∧ o < 0x800 ∧ o % 0x80 = 0 then
    { s with rink := { s.rink with merr := mupd s.rink.merr [] ((o - 0x400) / 0x80) fun q => q.drop 1 } }
  else s
/-- QUEUE_POP. -/
def execQueuePop (off : Nat) (v : Word) (s : State) : Host.Outcome State Fault Refusal := .next (queuePopEffect off v s)

/-! ### RW pairs (R462) and queue configuration (R456) -/

/-- The low word of an RW pair waits for its high word, for its requester. -/
def holdLow (s : State) (r off : Nat) (v : Word) : State :=
  { s with host := { s.host with lows := mset s.host.lows none (reqKey r off) (some v) } }
/-- The low word that a high-word write takes: the one its requester holds, or the register's current one. -/
def takeLow (s : State) (r off : Nat) (cur : Word) : Word × State :=
  ((mget s.host.lows none (reqKey r off)).getD cur,
   { s with host := { s.host with lows := mset s.host.lows none (reqKey r off) none } })
/-- Set an RW pair. -/
def setRw64 (s : State) (off : Nat) (lo hi : Word) : State := setRw (setRw s off lo) (off + 4) hi
/-- A power of two between two bounds (R456). -/
def pow2In (lo hi v : Nat) : Bool := decide (lo ≤ v ∧ v ≤ hi ∧ 2 ^ Nat.log2 v = v)

/-- The queues whose place the host writes (R456). -/
inductive QCfg where
  | hostEvq
  | jobEvq (c : Nat)
  | trwq (c : Nat)
  | dma (ch : Nat)
deriving DecidableEq, Repr

/-- The queue of a register offset, with the offset of its base (R456, R467, R469). -/
def qcfgAt (off : Nat) : Option (QCfg × Nat) :=
  let o := off % 0x1000
  if off = 0x120 ∨ off = 0x124 ∨ off = 0x128 then some (.hostEvq, 0x120)
  else if off / 0x1000 = 0 ∧ 0x800 ≤ o ∧ o < 0xC00 ∧ (o % 0x20 = 0 ∨ o % 0x20 = 4 ∨ o % 0x20 = 8) then
    some (.dma ((o - 0x800) / 0x20), chanBase ((o - 0x800) / 0x20))
  else if off / 0x1000 = 7 ∧ 0x200 ≤ o ∧ o < 0xE00 then
    (let c := (o - 0x200) / 0x180
     let w := (o - 0x200) % 0x180
     if w = 0x80 ∨ w = 0x84 ∨ w = 0x88 then some (.jobEvq c, jobBase c + 0x80)
     else if w = 0x90 ∨ w = 0x94 ∨ w = 0x98 then some (.trwq c, jobBase c + 0x90) else none)
  else none
/-- Slot counts a queue allows (R456). -/
def slotsOk (q : QCfg) (v : Nat) : Bool :=
  match q with
  | .hostEvq => pow2In 64 65536 v
  | .jobEvq _ => decide (v = 0) || pow2In 64 65536 v
  | .trwq _ | .dma _ => pow2In 16 4096 v
/-- Alignment of a base (R456). -/
def baseAlign : QCfg → Nat
  | .hostEvq | .jobEvq _ => 64
  | .trwq _ | .dma _ => 32
/-- A valid write resets the indices; a base write also restarts an event queue's seq and phase (R456) (log 47, DEDUCED). -/
def resetQueue (s : State) (q : QCfg) (base : Bool) : State :=
  let ev := fun (e : EvQ) => if base then { e with prod := 0, cons := 0, seq := 0, phase := true } else { e with prod := 0, cons := 0 }
  match q with
  | .hostEvq => { s with host := { s.host with evq := ev s.host.evq } }
  | .jobEvq c => updCtx s c fun j => { j with evq := ev j.evq }
  | .trwq c => updCtx s c fun j => { j with trwHead := 0 }
  | .dma ch => updChan (cutXfer s ch) ch fun _ => {}
/-- The context of a job's queue is RUNNING or DRAINING: its place cannot be written (R469). -/
def queueLocked (s : State) (q : QCfg) : Bool :=
  match q with
  | .jobEvq c | .trwq c => (ctxOf s c).state == .running || (ctxOf s c).state == .draining
  | _ => false
/-- QUEUE_CONFIG_WRITE: a word of a base, or a slot count (R456, R462, R469). -/
def queueConfigWriteEffect (r off : Nat) (v : Word) (s : State) : State :=
  let page := off / 0x1000 * 0x1000
  if !pageAnswers s page then notReady s r off
  else match qcfgAt off with
    | none => s
    | some (q, b) =>
      if queueLocked s q then accessErr s page 8 r off
      else if off = b then holdLow s r b v
      else if off = b + 4 then
        let l := takeLow s r b (rw s b)
        if l.1.toNat % baseAlign q = 0 then resetQueue (setRw64 l.2 b l.1 v) q true else accessErr l.2 page 10 r off
      else if slotsOk q v.toNat then resetQueue (setRw s off v) q false
      else accessErr s page 10 r off
/-- QUEUE_CONFIG_WRITE. -/
def execQueueConfigWrite (r : Req) (off : Nat) (v : Word) (s : State) : Host.Outcome State Fault Refusal :=
  .next (queueConfigWriteEffect r.val off v s)

/-! ### Messages that wait for the link, D3hot, MSI-X table (R451, R452, R458) -/

/-- Pending vectors that are not masked are sent (R458, PRESUMED PCI Express, log 24) (log 41, DEDUCED). -/
def sendPending (s : State) : State :=
  forEach (s.host.msixPend.map (·.1)) s fun s v =>
    if mget s.host.msixOpen false v && !s.host.d3 && !s.host.linkLost then
      emit { s with host := { s.host with msixPend := mset s.host.msixPend false v false } } (.msix v)
    else s
/-- An access over PCIe shows that the host has retrained its link and reattached (R428, log 41). -/
def attached (s : State) (r : Nat) : State :=
  if s.host.linkLost ∧ (r = 4 ∨ r = 5) ∧ ¬ s.boot.perst then sendPending { s with host := { s.host with linkLost := false } } else s
/-- D3HOT_TRANSITION (R451): a return to D0 keeps all state, and held messages go out. -/
def d3hotTransitionEffect (d3 : Bool) (s : State) : State := sendPending { s with host := { s.host with d3 := d3 } }
/-- D3HOT_TRANSITION. -/
def execD3hotTransition (d3 : Bool) (s : State) : Host.Outcome State Fault Refusal := .next (d3hotTransitionEffect d3 s)
/-- A write to the MSI-X table (R452): word 3 of an entry holds the mask bit (log 24, PRESUMED). -/
def msixWrite (s : State) (off : Nat) (v : Word) : State :=
  if off % 16 = 12 then
    sendPending { s with host := { s.host with msixOpen := mset s.host.msixOpen false ((off - 0x10000) / 16) (!v.getLsbD 0) } }
  else { s with host := { s.host with msixTbl := mset s.host.msixTbl 0 off v } }

/-! ### BAR4 (R453) -/

/-- BAR4_BASE_WRITE: the high word of HOST_BAR4_BASE is written (R453, R462). -/
def bar4BaseWriteEffect (r : Nat) (hi : Word) (s : State) : State :=
  if !pageAnswers s 0 then notReady s r 0x10C
  else
    let l := takeLow s r 0x108 (rw s 0x108)
    if (l.1.toNat + 2 ^ 32 * hi.toNat) % 2 ^ s.host.bar4Log = 0 then setRw64 l.2 0x108 l.1 hi else accessErr l.2 0 10 r 0x10C
/-- BAR4_BASE_WRITE. -/
def execBar4BaseWrite (r : Req) (hi : Word) (s : State) : Host.Outcome State Fault Refusal := .next (bar4BaseWriteEffect r.val hi s)
/-- BAR4_RESIZE (R452, R453): 1 GiB to 2 TiB. -/
def bar4ResizeEffect (log2 : Nat) (s : State) : State :=
  if log2 < 30 ∨ 41 < log2 then s
  else
    let s1 : State := { s with host := { s.host with bar4Log := log2 } }
    if rw64 s 0x108 % 2 ^ log2 = 0 then s1 else setRw64 s1 0x108 0 0
/-- BAR4_RESIZE. -/
def execBar4Resize (log2 : Nat) (s : State) : Host.Outcome State Fault Refusal := .next (bar4ResizeEffect log2 s)
/-- A byte that a host access may not touch (R453): sealed, in the stream context area, outside the windows, or any byte
while the part is SCRUBBING or not yet READY (log 46, DEDUCED). -/
def hostBarred (s : State) (a : Nat) : Bool :=
  s.sec.scrubbing || !isReady s ||
    (match devAddr a with
     | none => true
     | some d => decide (0x8FF0000000 ≤ d) || isSealed s a)
/-- An access refused under R453 is recorded, and the first address captured (R463 cause 5, R467) (log 46, DEDUCED). -/
def refuseAccess (s : State) (a : Nat) : State :=
  let s1 := if s.host.bar4ErrHeld then s else { s with host := { s.host with bar4Err := a, bar4ErrHeld := true } }
  accessErr s1 0 5 4 0
/-- Some byte of an access is barred. -/
def accessBarred (s : State) (a n : Nat) : Bool := (List.range n).any fun i => hostBarred s (a + i)
/-- BAR4_READ (R453) (log 46, DEDUCED). -/
def bar4ReadEffect (off len : Nat) (s0 : State) : State :=
  let s1 := attached s0 4
  let a := rw64 s1 0x108 + off
  let s := meetRanges s1 0 0xFF [(a, len)]
  if !reachable s1 4 || decide (2 ^ s1.host.bar4Log < off + len) then s1
  else if accessBarred s1 a len then emit (refuseAccess s1 a) (.reply 4 (List.replicate len 0))
  else if (poisonedAt s a len).isSome then emit s (.poisonedReply len)
  else emit s (.reply 4 (devRead s a len))
/-- BAR4_READ. -/
def execBar4Read (off len : Nat) (s : State) : Host.Outcome State Fault Refusal := .next (bar4ReadEffect off len s)
/-- BAR4_WRITE (R453): the lines written leave every bed. -/
def bar4WriteEffect (off : Nat) (bytes : List Byte) (s0 : State) : State :=
  let s := attached s0 4
  let a := rw64 s 0x108 + off
  if !reachable s 4 || decide (2 ^ s.host.bar4Log < off + bytes.length) then s
  else if accessBarred s a bytes.length then refuseAccess s a
  else devWrite s none a bytes
/-- BAR4_WRITE. -/
def execBar4Write (off : Nat) (bytes : List Byte) (s : State) : Host.Outcome State Fault Refusal := .next (bar4WriteEffect off bytes s)

/-! ### Doorbells (R455) -/

/-- EVENT_QUEUE_DOORBELL: the consumer index of a job's queue, or of the part's (log 49, DEDUCED). -/
def eventQueueDoorbellEffect (c : Option Nat) (idx : Nat) (s : State) : State :=
  match c with
  | some c =>
    if evqSlots s c ≤ idx then accessErr s 0 7 4 (c * 0x1000) else updCtx s c fun j => { j with evq := { j.evq with cons := idx } }
  | none =>
    if (rw s 0x128).toNat ≤ idx then accessErr s 0 7 4 0x9000 else { s with host := { s.host with evq := { s.host.evq with cons := idx } } }
/-- EVENT_QUEUE_DOORBELL. -/
def execEventQueueDoorbell (c : Option Ctx) (idx : Nat) (s : State) : Host.Outcome State Fault Refusal :=
  .next (eventQueueDoorbellEffect (c.map (·.val)) idx s)
/-- DMA_DOORBELL: a channel's producer tail. -/
def dmaDoorbellEffect (ch tail : Nat) (s : State) : State :=
  if chanSlots s ch ≤ tail then accessErr s 0 7 4 (0x8000 + ch * 8) else updChan s ch fun k => { k with tail := tail }
/-- DMA_DOORBELL. -/
def execDmaDoorbell (ch : ChanId) (tail : Nat) (s : State) : Host.Outcome State Fault Refusal := .next (dmaDoorbellEffect ch.val tail s)

/-! ### Host DMA (R454) -/

/-- A descriptor that completes with BAD_DESCRIPTOR: the two cases of R454, and a field outside its range (log 42). -/
def dmaBad (ch : Nat) (d : List Byte) : Bool :=
  let w := bit (lat d 0x15 1) 0
  let dir := lat d 0x14 1
  let job := lat d 0x16 1
  (w && (decide (dir = 1) || decide (job = 0xFF))) || (decide (28 ≤ ch) && !w)
    || decide (1 < dir) || decide (lat d 0x10 4 = 0) || (decide (8 ≤ job) && decide (job ≠ 0xFF))
/-- The 64-byte pieces of a range (R62) (log 44, DEDUCED). -/
def pieces (a n : Nat) : List (Nat × Nat) :=
  if n = 0 then [] else
    (List.range ((a + n - 1) / 64 + 1 - a / 64)).map fun i =>
      let lo := max a (64 * (a / 64 + i))
      (lo, min (a + n) (64 * (a / 64 + i + 1)) - lo)
/-- Host to device, piece by piece; a piece that R453 refuses is dropped and recorded (log 44, DEDUCED). -/
def dmaIn (s : State) (free : Bool) (host dev n : Nat) : State :=
  forEach (pieces dev n) s fun s p =>
    if free && accessBarred s p.1 p.2 then refuseAccess s p.1 else devWrite s none p.1 (s.hostMem.read (host + (p.1 - dev)) p.2)
/-- Device to host, piece by piece; a piece that R453 refuses, or that holds a sealed byte (R389), reads 0 and is recorded (log 44, DEDUCED). -/
def dmaOut (s : State) (free : Bool) (host dev n : Nat) : State :=
  forEach (pieces dev n) s fun s p =>
    let no := if free then accessBarred s p.1 p.2 else (List.range p.2).any fun i => isSealed s (p.1 + i)
    let s1 := if no then refuseAccess s p.1 else s
    { s1 with hostMem := s1.hostMem.write (host + (p.1 - dev)) (if no then List.replicate p.2 0 else devRead s p.1 p.2) }
/-- An ordinary descriptor moves its bytes (R153, R454): the state and its status (log 45, DESIGN CHOICE). -/
def dmaMove (s : State) (d : List Byte) : State × Nat :=
  let host := lat d 0 8
  let dev := lat d 8 8
  let n := lat d 0x10 4
  let out := decide (lat d 0x14 1 = 1)
  let job := lat d 0x16 1
  let free := decide (job = 0xFF)
  if !free && (regionCheck (ctxOf s job).man (if out then 0 else 1) dev n).isSome then (s, 3)
  else if out then
    let s := meetRanges s 0 job [(dev, n)]
    (match poisonedAt s dev n with
     | some _ =>
       -- what the host's memory holds after a poisoned read is open
       ({ s with free := s.free + 1, hostMem := s.hostMem.fill host (host + n) (.free s.free) }, 4)
     | none => (dmaOut s free host dev n, 1))
  else (dmaIn s free host dev n, 1)
/-- A channel may take a descriptor: enabled, with one waiting, none held, and the host reachable (R451, R454, R456). -/
def dmaReady (s : State) (ch : Nat) : Bool :=
  let k := chanOf s ch
  isReady s && (rw s (chanBase ch + 0x10)).getLsbD 0 && decide (chanSlots s ch ≠ 0) && decide (k.head ≠ k.tail) && k.cur.isNone
    && !s.host.d3 && !s.host.linkLost && !s.boot.perst
/-- HOST_DMA_DESCRIPTOR: the descriptor at the head is taken, and an ordinary one moves its bytes; a weight transfer waits
for its chunks (R385, R454) (log 8, DESIGN CHOICE). -/
def hostDmaDescriptorEffect (ch : Nat) (hw : List Host.Cell) (s0 : State) : State :=
  let s : State := { s0 with hostMem := s0.hostMem.writeCells hw }
  if !dmaReady s ch then s
  else
    let d := s.hostMem.read (rw64 s (chanBase ch) + 32 * (chanOf s ch).head) 32
    let hold := fun (s : State) (st : Nat) => updChan s ch fun k => { k with cur := some (d, st) }
    if dmaBad ch d then hold s 6
    else if bit (lat d 0x15 1) 0 then
      let s1 := hold s 0
      { s1 with sec := { s1.sec with xfer := mset s1.sec.xfer none ch (some {}) } }
    else
      let m := dmaMove s d
      hold m.1 m.2
/-- HOST_DMA_DESCRIPTOR. -/
def execHostDmaDescriptor (ch : ChanId) (hw : List Host.Cell) (s : State) : Host.Outcome State Fault Refusal :=
  .next (hostDmaDescriptorEffect ch.val hw s)
/-- HOST_DMA_COMPLETE: a descriptor with its outcome ends (R454). -/
def hostDmaCompleteEffect (ch : Nat) (s : State) : State :=
  match (chanOf s ch).cur with
  | some (_, st) => if st = 0 ∨ s.host.d3 ∨ s.host.linkLost then s else chanFinish s ch st
  | none => s
/-- HOST_DMA_COMPLETE. -/
def execHostDmaComplete (ch : ChanId) (s : State) : Host.Outcome State Fault Refusal := .next (hostDmaCompleteEffect ch.val s)

/-! ### The firmware window (R437, R438, R463, R467) -/

/-- Change the window. -/
def updFw (s : State) (f : FwWin → FwWin) : State := { s with host := { s.host with fw := f s.host.fw } }
/-- A write of the window by its owner, in state `st` (R463 causes 8 and 9). -/
def fwGuard (s : State) (r off st : Nat) (f : State → State) : State :=
  if !pageAnswers s 0 then notReady s r off
  else if s.host.fw.state ≠ 0 ∧ s.host.fw.owner ≠ r then accessErr s 0 9 r off
  else if s.host.fw.state ≠ st then accessErr s 0 8 r off
  else f s
/-- FW_OPEN: the staging buffer belongs to the requester (R467, R472). -/
def fwOpenEffect (r : Nat) (target : Bool) (s : State) : State :=
  fwGuard s r 0x130 0 fun s => updFw s fun _ => { state := 1, owner := r, target := target }
/-- FW_OPEN. -/
def execFwOpen (r : Req) (target : Bool) (s : State) : Host.Outcome State Fault Refusal := .next (fwOpenEffect r.val target s)
/-- FW_DATA: 4 bytes at HOST_FW_OFFSET, which advances by 4; the buffer holds 4 MiB (R467) (log 50, DEDUCED). -/
def fwDataEffect (r : Nat) (v : Word) (s : State) : State :=
  fwGuard s r 0x138 1 fun s =>
    let o := (rw s 0x134).toNat
    let s1 := setRw s 0x134 (BitVec.ofNat 32 (o + 4))
    if o + 4 ≤ 0x400000 then updFw s1 fun w => { w with buf := w.buf.wr o 4 v.toNat } else s1
/-- FW_DATA. -/
def execFwData (r : Req) (v : Word) (s : State) : Host.Outcome State Fault Refusal := .next (fwDataEffect r.val v s)
/-- The copy that a commit writes: in RECOVERY the one named at the open, else the one not running (R437, R438). -/
def fwTarget (s : State) : Nat := if s.boot.stage = 0xE then b2n s.host.fw.target else 1 - s.boot.copy
/-- What verification reads in a staged copy (R368, R433): header, body, signer, signature, digests (log 50, DEDUCED). -/
def fwParse (m : Mem) : FwCopy :=
  let h := m.read 0 0x1000
  let body := m.read 0x1000 (lat h 0x10 4)
  let key := (h.drop 0x20).take 97
  let d := Config.sha384 (h.take 0x100 ++ body)
  let ok := decide (lat h 0 4 = 0x57464B41 ∧ lat h 4 2 = 1 ∧ lat h 6 2 = 0 ∧ 1 ≤ lat h 0x10 4 ∧ lat h 0x10 4 ≤ 4190208)
    && ((h.drop 0x81).take 127).all (· = 0) && (h.drop 0x160).all (· = 0)
    && decide (Config.sha384 key = Config.fwKeyDigest) && Config.ecdsaVerify key d ((h.drop 0x100).take 96)
  { valid := ok, seq := lat h 8 4, svn := lat h 0xC 4, fwDigest := d,
    codecDigest := Config.sha384 ((body.drop (lat h 0x14 4)).take (lat h 0x18 4)) }
/-- FW_COMMIT: the staged copy is verified; a valid one is written over the target, whose old contents are gone from here
on (R438) (log 50, DEDUCED). -/
def fwCommitEffect (r : Nat) (s : State) : State :=
  fwGuard s r 0x130 1 fun s =>
    let found := fwParse s.host.fw.buf
    if !found.valid then updFw s fun w => { w with state := 2, found := none }
    else
      let run := mget s.boot.fw ⟨true, 0, 0, 0, 0⟩ s.boot.copy
      let c := if s.boot.stage = 0xE then found else fwParse (s.host.fw.buf.wr 8 4 (run.seq + 1))
      let s1 := updFw s fun w => { w with state := 3, found := some c }
      { s1 with boot := { s1.boot with fw := mset s1.boot.fw ⟨true, 0, 0, 0, 0⟩ (fwTarget s) { c with valid := false } } }
/-- FW_COMMIT. -/
def execFwCommit (r : Req) (s : State) : Host.Outcome State Fault Refusal := .next (fwCommitEffect r.val s)
/-- FW_ABORT: the staged copy is discarded (R467). -/
def fwAbortEffect (r : Nat) (s : State) : State := fwGuard s r 0x130 1 fun s => updFw s fun _ => {}
/-- FW_ABORT. -/
def execFwAbort (r : Req) (s : State) : Host.Outcome State Fault Refusal := .next (fwAbortEffect r.val s)
/-- FW_UPDATE_DONE: the update ends with OK, or with FW_FAIL when the copy did not verify or did not read back (R438);
the result is the HOST page's block event (R461). -/
def fwUpdateDoneEffect (readBackOk : Bool) (s : State) : State :=
  match s.host.fw.state, s.host.fw.found with
  | 2, _ => blockEvent (updFw s fun _ => { result := 2 }) 0
  | 3, some c =>
    let s1 := updFw s fun _ => { result := if readBackOk then 1 else 2 }
    blockEvent { s1 with boot := { s1.boot with
      fw := mset s1.boot.fw ⟨true, 0, 0, 0, 0⟩ (fwTarget s) { c with valid := readBackOk } } } 0
  | _, _ => s
/-- FW_UPDATE_DONE. -/
def execFwUpdateDone (readBackOk : Bool) (s : State) : Host.Outcome State Fault Refusal := .next (fwUpdateDoneEffect readBackOk s)

/-! ### Command registers -/

/-- JOB_CMD (R344, R469); a reserved op does nothing (log 88, DEDUCED). The memory that a start or resume reads is what the host has written so far. -/
def jobCmdWrite (s : State) (r : Nat) (v : Word) : State :=
  let c := fld v 2 0
  match fld v 31 28 with
  | 1 => jobLoadEffect r s
  | 2 => jobStartEffect c [] [] s
  | 3 => jobResumeEffect c [] [] s
  | 4 => jobPreemptEffect c s
  | 5 => jobUnloadEffect c s
  | 6 => jobTeardownEffect c s
  | 7 => jobClearEffect c s
  | 8 => ploughCommand c .finish s
  | 9 => ploughCommand c .abort s
  | _ => s
/-- A write to a context's window of the JOB page that no other rule takes (R469). -/
def jobWinWrite (s : State) (r c o off : Nat) (v : Word) : State :=
  let busy := (ctxOf s c).state == .running || (ctxOf s c).state == .draining
  if o = 0x08 then setRw s off v
  else if o = 0x10 then creditWrite c v s
  else if 0x60 ≤ o ∧ o < 0x70 then
    (if busy then accessErr s 0x7000 8 r off
     else if o = 0x60 then holdLow s r off v
     else if o = 0x64 then
       (let l := takeLow s r (off - 4) (rw s (off - 4))
        setRw64 l.2 (off - 4) l.1 v)
     else if o = 0x6C then setRw s off (v &&& 0x17FFF)
     else setRw s off v)
  else if o = 0x70 then (if v.getLsbD 0 then snapshotRequestEffect c s else s)
  else if o = 0x108 then queuePopEffect off v s
  else s
/-- JOB_POOLp_CFG (R363, R469): accepted while the context it names, and the owner of an enabled pool, are LOADED or PARKED (log 48, DEDUCED). -/
def poolCfgWrite (s : State) (r p : Nat) (v : Word) : State :=
  let own := fun (c : Nat) => (ctxOf s c).state == .loaded || (ctxOf s c).state == .parked
  let q := poolOf s p
  if own (fld v 26 24) && (!q.enable || own q.owner) then updPool s p fun q => { q with enable := v.msb, owner := fld v 26 24 }
  else accessErr s 0x7000 8 r (0xE80 + 4 * p)
/-- JOB page (R469) (log 107, DEDUCED). -/
def jobWrite (s : State) (r off : Nat) (v : Word) : State :=
  let o := off % 0x1000
  if o = 0x100 then jobCmdWrite s r v
  else if o = 0x10C then setRw s off (v &&& 0xF) else if o = 0x110 then setRw s off (v &&& 0xFFFF)
  else if o = 0x118 then holdLow s r off v
  else if o = 0x11C then
    (let l := takeLow s r (off - 4) (rw s (off - 4))
     setRw64 l.2 (off - 4) l.1 v)
  else if o = 0x120 then setRw s off v
  else if 0x200 ≤ o ∧ o < 0xE00 then jobWinWrite s r ((o - 0x200) / 0x180) ((o - 0x200) % 0x180) off v
  else if 0xE00 ≤ o ∧ o < 0xE80 then (if o % 8 = 4 then poolGiveEffect ((o - 0xE00) / 8) v s else s)
  else if 0xE80 ≤ o ∧ o < 0xEC0 then poolCfgWrite s r ((o - 0xE80) / 4) v
  else s
/-- HOST page (R467). -/
def hostWrite (s : State) (r off : Nat) (v : Word) : State :=
  if off = 0x108 then holdLow s r off v
  else if off = 0x10C then bar4BaseWriteEffect r v s
  else if off = 0x130 then
    (match fld v 3 0 with
     | 1 => fwOpenEffect r (v.getLsbD 4) s
     | 2 => fwCommitEffect r s
     | 3 => fwAbortEffect r s
     | _ => s)
  else if off = 0x134 then
    (if s.host.fw.state ≠ 0 ∧ s.host.fw.owner ≠ r then accessErr s 0 9 r off else setRw s off v)
  else if off = 0x138 then fwDataEffect r v s
  else if 0x400 ≤ off ∧ off < 0x800 then setRw s off (v &&& 0x7FF)
  else if 0x800 ≤ off ∧ off < 0xC00 ∧ off % 0x20 = 0x10 then
    (if v.getLsbD 0 ∧ chanSlots s ((off - 0x800) / 0x20) = 0 then accessErr s 0 8 r off else setRw s off (v &&& 1))
  else s
/-- CLK to HRDM pages, and the command registers of the unit pages (R467, R468, R470, R471) (log 49, DEDUCED). -/
def unitWrite (s : State) (r off : Nat) (v : Word) : State :=
  let page := off / 0x1000 * 0x1000
  let o := off % 0x1000
  let course := (page - 0x20000) / 0x1000
  let port := (page - 0x71000) / 0x1000
  if off = 0x1114 then setRw s off (v &&& 0xF)
  else if off = 0x2100 then rstWarmEffect v s else if off = 0x2104 then rstComputeEffect v s
  else if off = 0x410C then
    (let s1 := if v.getLsbD 0 then sleepEffect s else s
     if v.getLsbD 1 then wakeEffect s1 else s1)
  else if off = 0x5100 then (if v.getLsbD 0 then cfgCheckEffect r s else s)
  else if off = 0x5104 then (if v.getLsbD 0 then cfgApplyEffect r s else s)
  else if off = 0x5108 then (if v.getLsbD 0 then cfgDiscardEffect r s else s)
  else if off = 0x510C then (if v.getLsbD 0 then cfgSaveEffect r s else s)
  else if off = 0x6100 then telFreezeEffect v s
  else if off = 0x6120 then setRw s off (v &&& 0xF) else if off = 0x6124 then setRw s off (v &&& 0x1FF)
  else if off = 0x8100 then
    (if fld v 3 0 = 1 then tenantSwitchHrdm r s else if fld v 3 0 = 2 then weightSetCloseEffect r (fld v 15 8) s else s)
  else if off = 0x8104 then setRw s off v
  else if 0x20000 ≤ page ∧ page < 0x40000 then
    (if o = 0x110 then
       (match fld v 1 0 with
        | 1 => courseFenceEffect r course s
        | 2 => courseBistEffect r course s
        | 3 => courseReleaseEffect r course s
        | _ => s)
     else if 0x800 ≤ o ∧ (o - 0x800) % 0x80 = 0xC then setRw s off (v &&& 0xFF) else s)
  else if 0x50000 ≤ page ∧ page < 0x5C000 ∧ o = 0x108 then setRw s off (v &&& 1)
  else if off = 0x70120 then holdLow s r off v
  else if off = 0x70124 then
    (let l := takeLow s r 0x70120 0
     timeSetEffect r (BitVec.ofNat 64 (l.1.toNat + 2 ^ 32 * v.toNat)) l.2)
  else if 0x71000 ≤ page ∧ page < 0x7D000 ∧ o = 0x10C then
    (if fld v 1 0 = 1 then prbsStartEffect port s else if fld v 1 0 = 2 then prbsStopEffect port s else s)
  else if off = 0x80120 then setRw s off (v &&& 7) else if off = 0x80124 then setRw s off (v &&& 0x3FFFF)
  else if o = 0x188 ∨ (page = 0x80000 ∧ 0x400 ≤ o) then queuePopEffect off v s
  else match pageUnit page with
    | some u =>
      (if o = 0x108 then
         (match fld v 1 0 with
          | 1 => unitOutOfServiceEffect r u s
          | 2 => unitSelfTestEffect r u s
          | 3 => unitReturnToServiceEffect r u s
          | _ => s)
       else s)
    | none => s
/-- The page header (R461). -/
def headerWrite (s : State) (r page o : Nat) (v : Word) : State :=
  if o = 0x10 then (if v.getLsbD 0 && bit (pageCaps page) 0 then softResetEffect r page s else s)
  else if o = 0x14 then irqStatusClearEffect page v s
  else if o = 0x18 then irqEnableWrite s page v
  else if o = 0x1C then irqForceEffect page v s
  else s
/-- A write of an aligned BAR0 word (R452, R462, R463). Writes to RO and RC registers are ignored (R6). -/
def writeWord (r off : Nat) (v : Word) (s : State) : State :=
  let page := off / 0x1000 * 0x1000
  if (pageIndex page).isNone then accessErr s 0 7 r off
  else if !pageAnswers s page then notReady s r off
  else if (regVal s off).isNone && (counterVal s off).isNone && (counterVal s (off - 4)).isNone then accessErr s 0 7 r off
  else if off % 0x1000 < 0x100 then headerWrite s r page (off % 0x1000) v
  else if (stMask off).isSome then stWriteEffect r off v s
  else if (qcfgAt off).isSome then queueConfigWriteEffect r off v s
  else if page = 0 then hostWrite s r off v
  else if page = 0x7000 then jobWrite s r off v
  else unitWrite s r off v
/-- A write of an aligned BAR2 word (R452, R455). -/
def doorbellWrite (r off : Nat) (v : Word) (s : State) : State :=
  if off < 0x8000 ∧ off % 0x1000 = 0 then eventQueueDoorbellEffect (some (off / 0x1000)) v.toNat s
  else if off < 0x8000 ∧ off % 0x1000 = 8 then trowelQueueDoorbellEffect (off / 0x1000) v.toNat [] s
  else if 0x8000 ≤ off ∧ off < 0x8100 ∧ off % 8 = 0 then dmaDoorbellEffect ((off - 0x8000) / 8) v.toNat s
  else if off = 0x9000 then eventQueueDoorbellEffect none v.toNat s
  else if 0x10000 ≤ off ∧ off < 0x18000 then msixWrite s off v
  else if 0x18000 ≤ off ∧ off < 0x18100 then s
  else accessErr s 0 7 r off
/-- REGISTER_WRITE: `width` bits at a BAR0 or BAR2 offset (R462) (log 49, DEDUCED). -/
def registerWriteEffect (r : Nat) (bar2 : Bool) (off width : Nat) (v : Dword) (s0 : State) : State :=
  let s := attached s0 r
  let page := off / 0x1000 * 0x1000
  let word := fun (o : Nat) (w : Word) (s : State) => if bar2 then doorbellWrite r o w s else writeWord r o w s
  if !reachable s r then s
  else if off % 4 ≠ 0 ∨ (width ≠ 32 ∧ width ≠ 64) then
    accessErr s (if bar2 || (pageIndex page).isNone || !pageAnswers s page then 0 else page) 1 r off
  else if width = 64 then word (off + 4) (v.extractLsb' 32 32) (word off (v.extractLsb' 0 32) s)
  else word off (v.extractLsb' 0 32) s
/-- REGISTER_WRITE. -/
def execRegisterWrite (r : Req) (bar2 : Bool) (off width : Nat) (v : Dword) (s : State) : Host.Outcome State Fault Refusal :=
  .next (registerWriteEffect r.val bar2 off width v s)

/-! ### MCTP and I3C (R459, R460) -/

/-- Requester of a management path (R459). -/
def pathReq : MsgPath → Nat | .pcie => 5 | .i3c => 6
/-- MCTP is served by device firmware, over a path that is up (R428, R434, R437). -/
def mctpUp (s : State) (p : MsgPath) : Bool := decide (3 ≤ s.boot.stage) && (decide (p = .i3c) || !s.boot.perst)
/-- SET_ENDPOINT_ID (R459): the response is that of MCTP control (PRESUMED DSP0236, log 43). -/
def setEndpointIdEffect (p : MsgPath) (eid : Byte) (s0 : State) : State :=
  let s := attached s0 (pathReq p)
  if mctpUp s p then
    emit { s with host := { s.host with eid := mset s.host.eid 0 (pathKey p) eid.toNat } } (.mctp p [0, 0, eid, 0])
  else s
/-- SET_ENDPOINT_ID. -/
def execSetEndpointId (p : MsgPath) (eid : Byte) (s : State) : Host.Outcome State Fault Refusal := .next (setEndpointIdEffect p eid s)
/-- Completion byte of a register access: 1 when a page it touches is not ready (R459, R472). -/
def completion (s : State) (off n : Nat) : Byte :=
  if (List.range n).all fun i => pageAnswers s ((off + 4 * i) / 0x1000 * 0x1000) then 0 else 1
/-- MCTP_REGISTER_READ: 1 to 16 words (R459). -/
def mctpRegisterReadEffect (p : MsgPath) (off count : Nat) (s0 : State) : State :=
  let s := attached s0 (pathReq p)
  if !mctpUp s p || decide (count = 0) || decide (16 < count) then s
  else
    let a := readWords s (pathReq p) (off / 4 * 4) count
    emit a.2 (.mctp p (completion s off count :: a.1.flatMap fun w => leBytes 4 w.toNat))
/-- MCTP_REGISTER_READ. -/
def execMctpRegisterRead (p : MsgPath) (off count : Nat) (s : State) : Host.Outcome State Fault Refusal :=
  .next (mctpRegisterReadEffect p off count s)
/-- Consecutive 32-bit writes, in increasing offset. -/
def writeWords (r off : Nat) (ws : List Word) (s : State) : State :=
  match ws with
  | [] => s
  | w :: t => writeWords r (off + 4) t (registerWriteEffect r false off 32 (w.setWidth 64) s)
/-- MCTP_REGISTER_WRITE: 1 to 16 words (R459). -/
def mctpRegisterWriteEffect (p : MsgPath) (off : Nat) (ws : List Word) (s0 : State) : State :=
  let s := attached s0 (pathReq p)
  if !mctpUp s p || decide (ws = []) || decide (16 < ws.length) then s
  else emit (writeWords (pathReq p) off ws s) (.mctp p [completion s off ws.length])
/-- MCTP_REGISTER_WRITE. -/
def execMctpRegisterWrite (p : MsgPath) (off : Nat) (ws : List Word) (s : State) : Host.Outcome State Fault Refusal :=
  .next (mctpRegisterWriteEffect p off ws s)
/-- Whole words of a byte list. -/
def wholeWords (bs : List Byte) : List Word := (List.range (bs.length / 4)).map (wordOf bs)
/-- I3C_PRIVATE_WRITE: a BAR0 offset, then data words (R460). -/
def i3cPrivateWriteEffect (bytes : List Byte) (s : State) : State :=
  if ¬ s.boot.aon ∨ bytes.length < 4 then s
  else
    let off := lat bytes 0 4
    writeWords 6 off (wholeWords (bytes.drop 4)) { s with host := { s.host with i3cOff := off } }
/-- I3C_PRIVATE_WRITE. -/
def execI3cPrivateWrite (bytes : List Byte) (s : State) : Host.Outcome State Fault Refusal := .next (i3cPrivateWriteEffect bytes s)
/-- I3C_PRIVATE_READ: words from the last offset written, which advances (R460). -/
def i3cPrivateReadEffect (words : Nat) (s : State) : State :=
  if ¬ s.boot.aon then s
  else
    let a := readWords s 6 (s.host.i3cOff / 4 * 4) words
    let s1 : State := { a.2 with host := { a.2.host with i3cOff := s.host.i3cOff + 4 * words } }
    emit s1 (.reply 6 (a.1.flatMap fun w => leBytes 4 w.toNat))
/-- I3C_PRIVATE_READ. -/
def execI3cPrivateRead (words : Nat) (s : State) : Host.Outcome State Fault Refusal := .next (i3cPrivateReadEffect words s)
/-- The address at which the part answers on I3C: the dynamic one, or before it the static one of the straps (R460, R500). -/
def i3cAddress (s : State) : Nat := match s.host.i3cAddr with | some a => a.toNat | none => 0x30 + s.boot.straps.toNat
/-- DYNAMIC_ADDRESS_ASSIGNMENT (R460). -/
def dynamicAddressAssignmentEffect (a : BitVec 7) (s : State) : State :=
  if s.boot.aon then { s with host := { s.host with i3cAddr := some a } } else s
/-- DYNAMIC_ADDRESS_ASSIGNMENT. -/
def execDynamicAddressAssignment (a : BitVec 7) (s : State) : Host.Outcome State Fault Refusal :=
  .next (dynamicAddressAssignmentEffect a s)

end Sys2Proof.Machine
end

