-- ==== Sys2Proof/Machine/Matrix.lean ====
section
/-! DEFINITION. The matrix and window engines: dot products, MATMUL and CONV (spec/02_number_formats.md, R37 to R45;
spec/03_tile.md, R80, R81; spec/04_convolution_and_post.md, R106 to R114). -/

namespace Sys2Proof.Machine

/-! ### Operand elements -/

/-- An operand element: its code, its block scale (B6), and whether it is a zero-padding position (R109). -/
structure Opd where
  code : Nat
  e8 : Nat := 127
  pad : Bool := false
deriving DecidableEq, Repr
/-- Read n elements of a row at a store address (R30, R81). -/
def readElems (s : State) (t : Nat) (f : Fmt) (a n : Nat) : List Opd :=
  match f with
  | .b6 => (List.range n).map fun i =>
      let blk := a + 25 * (i / 32)
      ⟨storeNat s t (blk + 1) 24 / 2 ^ (6 * (i % 32)) % 64, storeNat s t blk 1, false⟩
  | f => (List.range n).map fun i => ⟨storeNat s t (a + fmtBytes f * i) (fmtBytes f), 127, false⟩
/-- Value of an element of a floating-point format, without its block scale (R32, R43). -/
def Opd.val (f : Fmt) (o : Opd) : Fv := if f = .b6 ∧ o.e8 = 255 then .nan else fdec f o.code
/-- Value of an INT8 element (R31). -/
def Opd.int (o : Opd) : Int := if o.code < 128 then o.code else (o.code : Int) - 256
/-- The element counts as nan_in (R54). -/
def Opd.isNan (f : Fmt) (o : Opd) : Bool := decide (f ≠ .int8) && !o.pad && decide (o.val f = .nan)
/-- The element counts as flush_in (R54). -/
def Opd.isSub (f : Fmt) (o : Opd) : Bool := decide (f ≠ .int8) && !o.pad && isSubnormal f o.code

/-! ### Dot products (R38 to R45) -/

/-- Window width (R40). -/
def winW (fa fb : Fmt) : Nat := if fa = .f8e5 ∨ fb = .f8e5 then 64 else 40
/-- Exponent of a normalised value. -/
def topExp : Fv → Int
  | .fin _ m e => e + (blen m : Int) - 1
  | _ => 0
/-- A finite product at or above (2 − 2^−24) × 2^127 (R39). -/
def prodOvf : Fv → Bool
  | .fin _ m e =>
    if e ≥ 103 then decide (m ≠ 0 ∧ 2 ^ 25 - 1 ≤ m * 2 ^ (e - 103).toNat) else decide ((2 ^ 25 - 1) * 2 ^ (103 - e).toNat ≤ m)
  | _ => false
/-- A value is an infinity. -/
def Fv.isInf : Fv → Bool | .inf _ => true | _ => false
/-- A value is a zero. -/
def Fv.isZero : Fv → Bool | .fin _ 0 _ => true | _ => false
/-- Sign of a value. -/
def Fv.sign : Fv → Bool | .nan => false | .inf s => s | .fin s _ _ => s
/-- A product truncated toward zero to a multiple of 2^q, as that multiple (R40). -/
def truncTo (q : Int) : Fv → Int
  | .fin s m e => let n := if e ≥ q then m <<< (e - q).toNat else m >>> (q - e).toNat
                  if s then -(n : Int) else n
  | _ => 0
/-- The sum of one group, scaled by 2^k, and its overflowing products (R40 to R43). -/
def dotGroup (w : Nat) (k : Int) (ps : List (Fv × Fv)) : Word × Nat :=
  let prods := ps.map fun p => (mulFv p.1 p.2, topExp p.1 + topExp p.2)
  let ov := prods.countP fun p => prodOvf p.1
  let big := prods.filter fun p => p.1.isInf || prodOvf p.1
  let nz := prods.filter fun p => p.1 ≠ .nan ∧ !p.1.isInf ∧ !p.1.isZero
  let g :=
    if prods.any (fun p => p.1 = .nan) then nan32
    else if big.any (fun p => p.1.sign) ∧ big.any (fun p => !p.1.sign) then nan32
    else match big with
      | p :: _ => inf32 p.1.sign
      | [] =>
        match nz with
        | [] => 0
        | p :: rest =>
          let q := (rest.map (·.2)).foldl max p.2 - w + 2
          let t := (nz.map fun p => truncTo q p.1).sum
          if t = 0 then 0 else round32 (t < 0) t.natAbs (q + k) false
  (g, ov)
/-- Add a group result; 1 when the accumulator overflows (R42, R54). -/
def accAdd (acc g : Word) : Word × Nat :=
  let x := add32 acc g
  (x, b2n (isFin32 acc && isFin32 g && (f32 x).isInf))
/-- The split of an FP32 operand (R45). -/
def split32 (o : Opd) : Fv × Fv :=
  match fdec .fp32 o.code with
  | .nan => (.nan, .fin false 0 0)
  | .inf s => (.inf s, .fin false 0 0)
  | .fin _ _ _ =>
    let x : Word := BitVec.ofNat 32 o.code
    let hi := canon32 x &&& 0xFFFF0000
    (fdec .fp32 hi.toNat, fdec .bf16 (cvt (sub32 (canon32 x) hi) .bf16))
/-- A product of a pass that uses a low part: with an infinite or NaN factor it is +0 (R45). -/
def lowPair (a b : Fv) : Fv × Fv := if a = .nan ∨ b = .nan ∨ a.isInf ∨ b.isInf then (.fin false 0 0, .fin false 0 0) else (a, b)
/-- What a dot product gives: the accumulator, prod_ovf and acc_ovf events. -/
structure DotOut where
  acc : Word
  povf : Nat := 0
  aovf : Nat := 0
deriving DecidableEq, Repr
/-- One group of FP32 operands: the three passes (R45). -/
def stepSplit (x : DotOut) (g : List (Opd × Opd)) : DotOut :=
  let s := g.map fun p => (split32 p.1, split32 p.2)
  let p1 := s.map fun p => lowPair p.1.2 p.2.1
  let p2 := s.map fun p => lowPair p.1.1 p.2.2
  let p3 := s.map fun p => (p.1.1, p.2.1)
  let ov := ((p1.zip (p2.zip p3)).filter fun p => prodOvf (mulFv p.1.1 p.1.2) || prodOvf (mulFv p.2.1.1 p.2.1.2) || prodOvf (mulFv p.2.2.1 p.2.2.2)).length
  [p1, p2, p3].foldl (fun x ps => let a := accAdd x.acc (dotGroup 40 0 ps).1; { x with acc := a.1, aovf := x.aovf + a.2 })
    { x with povf := x.povf + ov }
/-- One group of the other floating-point formats (R38 to R43). -/
def stepGroup (fa fb : Fmt) (x : DotOut) (g : List (Opd × Opd)) : DotOut :=
  let k : Int := match fa, g with
    | .b6, p :: _ => (p.1.e8 : Int) - 127 + ((p.2.e8 : Int) - 127)
    | _, _ => 0
  let r := dotGroup (winW fa fb) k (g.map fun p => (p.1.val fa, p.2.val fb))
  let a := accAdd x.acc r.1
  { acc := a.1, povf := x.povf + r.2, aovf := x.aovf + a.2 }
/-- One group of INT8 operands: a saturating INT32 addition (R44). -/
def stepInt (x : DotOut) (g : List (Opd × Opd)) : DotOut :=
  let t := x.acc.toInt + (g.map fun p => p.1.int * p.2.int).sum
  if t > 2 ^ 31 - 1 then { x with acc := 0x7FFFFFFF, aovf := x.aovf + 1 }
  else if t < -(2 ^ 31) then { x with acc := 0x80000000, aovf := x.aovf + 1 }
  else { x with acc := BitVec.ofInt 32 t }
/-- The dot product of one output element, from its accumulator (R38, R42). An INT8 result is given as FP32 (R44). -/
def dotElem (fa fb : Fmt) (acc : Word) (ps : List (Opd × Opd)) : DotOut :=
  let gs := cutList (if fa = .b6 then 32 else 64) (ps.length + 1) ps
  match fa with
  | .int8 => let r := gs.foldl stepInt ⟨acc, 0, 0⟩
             { r with acc := ofInt32 r.acc.toInt }
  | .fp32 => gs.foldl stepSplit ⟨acc, 0, 0⟩
  | _ => gs.foldl (stepGroup fa fb) ⟨acc, 0, 0⟩
/-- Counter events of the operands of one output element (R54): A's and B's tag. -/
def opdCounts (fa fb : Fmt) (ta tb : Nat) (ps : List (Opd × Opd)) : List (Nat × Nat) :=
  [(engIndex ta 0, ps.countP fun p => p.1.isNan fa), (engIndex ta 1, ps.countP fun p => p.1.isSub fa),
   (engIndex tb 0, ps.countP fun p => p.2.isNan fb), (engIndex tb 1, ps.countP fun p => p.2.isSub fb)]
/-- Counter events of a dot product's result (R54): the output's tag. -/
def dotCounts (tc : Nat) (o : DotOut) : List (Nat × Nat) := [(engIndex tc 2, o.povf), (engIndex tc 3, o.aovf)]

/-! ### MATMUL (R80, R81) -/

/-- Formats and tags of a MATMUL or CONV descriptor, whose W2 to W4 agree in them (R80, R83). -/
structure EngF where
  fa : Fmt
  fb : Fmt
  fc : Fmt
  ta : Nat
  tb : Nat
  tc : Nat
deriving DecidableEq, Repr
/-- Those fields of a descriptor; its formats passed the issue checks. -/
def engOf (d : Desc) : EngF :=
  let f := fun i => (fmtOf (d.fld i 31 28)).getD .fp32
  ⟨f 2, f 3, f 4, d.fld 2 27 26, d.fld 3 27 26, d.fld 4 27 26⟩
/-- Scale and bias of an output column (R80, R107). -/
def scaleBias (s : State) (t : Nat) (sb : Bool) (w0 w1 : Word) (n j : Nat) : Word × Word :=
  if sb then
    let a := Machine.fld w0 20 0
    (BitVec.ofNat 32 (storeNat s t (a + 4 * j) 4), BitVec.ofNat 32 (storeNat s t (a + 4 * n + 4 * j) 4))
  else (w0, w1)
/-- Conversion parameters of an engine descriptor: `i` is the word of act, rnd and clip, `l` that of lo (R80, R83). -/
def convOf (d : Desc) (i l : Nat) : ConvP :=
  { fmt := (engOf d).fc, rnd := d.bit i 28, clip := d.bit i 27, act := d.fld i 31 29, lo := d.word l, hi := d.word (l + 1), tbl := d.tbl }
/-- One row of C: its values after step 4, and the counter events. `s` is the state before the descriptor (log 85, DEDUCED). -/
def matmulRow (s : State) (t : Nat) (d : Desc) (bs : List (List Opd)) (i : Nat) : List Word × List (Nat × Nat) :=
  let e := engOf d
  let n := d.fld 6 15 0
  let a := readElems s t e.fa (d.sa 2 + i * d.sa 8) (d.fld 7 31 16)
  let p := convOf d 8 13
  let outs := bs.zipIdx.map fun b =>
    let ps := a.zip b.1
    let acc : Word := if d.bit 4 25 then canon32 (BitVec.ofNat 32 (storeNat s t (d.sa 5 + 4 * (n * i + b.2)) 4)) else 0
    let o := dotElem e.fa e.fb acc ps
    let q := scaleBias s t (d.bit 8 26) (d.word 11) (d.word 12) n b.2
    (preConv p q.1 q.2 o.acc, opdCounts e.fa e.fb e.ta e.tb ps ++ dotCounts e.tc o)
  (outs.map (·.1), outs.flatMap (·.2))
/-- MATMUL: C = A × Bᵀ, row by row and in a row by column, which is also the order in which outputs of one lane consume its
generator in counted mode (R80, R81, R103) (log 90, DESIGN CHOICE). -/
def matmulWork (t : Nat) (s : State) : State :=
  match pickDesc s t 2 0 with
  | none => s
  | some d =>
    let e := engOf d
    let bs := (List.range (d.fld 6 15 0)).map fun j => readElems s t e.fb (d.sa 3 + j * d.sa 9) (d.fld 7 31 16)
    let s1 := forEach (List.range (d.fld 6 31 16)) s fun x i =>
      let r := matmulRow s t d bs i
      let c := convRow x t (convOf d 8 13) r.1
      plumbCount (storeWrite c.2 t (d.sa 4 + i * d.sa 10) c.1.bytes) t (r.2 ++ convCounts e.fc e.tc c.1.outs)
    markDone s1 t d.seq
/-! ### CONV (R106 to R114) -/

/-- An input element, or the zero padding outside the band (R107, R109). -/
def convX (s : State) (t : Nat) (f : Fmt) (base : Nat) (g : Geo) (r x : Int) (c : Nat) : Opd :=
  if r < 0 ∨ x < 0 ∨ r ≥ g.inRows ∨ x ≥ g.inW then ⟨0, 127, true⟩
  else (readElems s t f (base + r.toNat * pitch (fmtCode f) (g.inW * g.cIn) +
      (match f with
       | .b6 => 25 * ((x.toNat * g.cIn + c) / 32)
       | f => fmtBytes f * (x.toNat * g.cIn + c))) (match f with | .b6 => c % 32 + 1 | _ => 1)).getLastD ⟨0, 127, true⟩
/-- A weight element at index k of a row of K elements (R107). -/
def convWt (s : State) (t : Nat) (f : Fmt) (base k : Nat) : Opd :=
  (readElems s t f (base + (match f with | .b6 => 25 * (k / 32) | f => fmtBytes f * k)) (match f with | .b6 => k % 32 + 1 | _ => 1)).getLastD
    ⟨0, 127, true⟩
/-- The taps of an output position, in the order of the reduction index, with the input row and column of each
(R109, R112 to R114). -/
def convTaps (g : Geo) (r x : Nat) : List (Nat × Nat × Int × Int) :=
  if g.transposed then
    let is := (List.range g.kh).filter fun i => i % g.sh = (r + g.top) % g.sh
    let js := (List.range g.kw).filter fun j => j % g.sw = (x + g.left) % g.sw
    is.flatMap fun i => js.map fun j => (i, j, ((r + g.top : Nat) - (i : Int)) / (g.sh : Int), ((x + g.left : Nat) - (j : Int)) / (g.sw : Int))
  else
    (List.range g.kh).flatMap fun i => (List.range g.kw).map fun j =>
      (i, j, ((r * g.sh + i * g.dh : Nat) : Int) - g.top, ((x * g.sw + j * g.dw : Nat) : Int) - g.left)
/-- The operand pairs of output (r, x, o) (R109, R110, R112, R114). -/
def convPairs (s : State) (t : Nat) (d : Desc) (r x o : Nat) : List (Opd × Opd) :=
  let e := engOf d
  let g := geoOf d
  let wrow := d.sa 3 + o * pitch (fmtCode e.fb) g.redK
  (convTaps g r x).flatMap fun p =>
    if g.depthwise then
      [(convX s t e.fa (d.sa 2) g p.2.2.1 p.2.2.2 o, convWt s t e.fb (d.sa 3) ((p.1 * g.kw + p.2.1) * g.cIn + o))]
    else (List.range g.cIn).map fun c =>
      let x := convX s t e.fa (d.sa 2) g p.2.2.1 p.2.2.2 c
      -- in a transposed convolution a position outside the input contributes nothing (R113)
      if g.transposed && x.pad then (x, x) else (x, convWt s t e.fb wrow ((p.1 * g.kw + p.2.1) * g.cIn + c))
/-- Store address of the loaded accumulator of output (r, x, o) (R107). -/
def convAcc (d : Desc) (g : Geo) (r x o : Nat) : Nat :=
  d.sa 14 + r * (64 * cdiv (4 * g.outW.toNat * g.outC) 64) + 4 * (x * g.outC + o)
/-- One output pixel: its values after step 4, and the counter events. -/
def convPixel (s : State) (t : Nat) (d : Desc) (r x : Nat) : List Word × List (Nat × Nat) :=
  let e := engOf d
  let g := geoOf d
  let outs := (List.range g.cOut).map fun o =>
    let ps := convPairs s t d r x o
    let acc : Word := if d.bit 4 25 then canon32 (BitVec.ofNat 32 (storeNat s t (convAcc d g r x o) 4)) else 0
    let v := dotElem e.fa e.fb acc ps
    let q := scaleBias s t (d.bit 8 26) (d.word 10) (d.word 11) g.cOut o
    (preConv (convOf d 8 12) q.1 q.2 v.acc, opdCounts e.fa e.fb e.ta e.tb ps ++ dotCounts e.tc v)
  (outs.map (·.1), outs.flatMap (·.2))
/-- Write one output pixel; its padding channels are the +0 code (R107). The output column that names a lane's generator is
the output channel (R49, R83) (log 90, DESIGN CHOICE). -/
def convWrite (s0 : State) (t : Nat) (d : Desc) (s : State) (r x : Nat) : State :=
  let e := engOf d
  let g := geoOf d
  let v := convPixel s0 t d r x
  let c := convRow s t (convOf d 8 12) v.1
  let n := rowBytes (fmtCode e.fc) g.outC
  let a := d.sa 4 + r * pitch (fmtCode e.fc) (g.outW.toNat * g.outC) + x * n
  plumbCount (storeWrite c.2 t a (padTo n c.1.bytes)) t (v.2 ++ convCounts e.fc e.tc c.1.outs)
/-- CONV: dense, depthwise or transposed (R109, R112, R113). -/
def convWork (t : Nat) (s : State) : State :=
  match pickDesc s t 3 0 with
  | none => s
  | some d =>
    let g := geoOf d
    let s1 := forEach (List.range g.outRows) s fun y r => forEach (List.range g.outW.toNat) y fun z x => convWrite s t d z r x
    markDone s1 t d.seq

end Sys2Proof.Machine
end

