-- ==== Sys2Proof/Machine/Vec.lean ====
section
/-! DEFINITION. The vector unit: VEC descriptors and their microprograms (spec/03_tile.md, R85 to R90). -/

namespace Sys2Proof.Machine

/-- A microinstruction (R87). -/
structure MicroOp where
  op : Nat
  vd : Nat
  va : Nat
  vb : Nat
  vc : Nat
  sub : Nat
  imm : Word
deriving DecidableEq, Repr
/-- Fields of its 64 bits (R87). -/
def microOf (x : Nat) : MicroOp :=
  ⟨bits x 63 58, bits x 57 53, bits x 52 48, bits x 47 43, bits x 42 38, bits x 37 32, BitVec.ofNat 32 (bits x 31 0)⟩
/-- The 128 lanes of a register of a tile (R86). -/
def vget (s : State) (t v : Nat) : List Word := (List.range 128).map fun i => mget s.tile.vreg 0 ((t * 32 + v) * 128 + i)
/-- Write a register, lane by lane. -/
def vput (s : State) (t v : Nat) (xs : List Word) : State :=
  { s with tile := { s.tile with
      vreg := xs.zipIdx.foldl (fun m x => mset m 0 ((t * 32 + v) * 128 + x.2) x.1) s.tile.vreg } }
/-- All bits or none. -/
def maskWord (b : Bool) : Word := if b then 0xFFFFFFFF else 0
/-- Condition of vcmp (R88); none for a sub code not listed. -/
def vcmpOp (sub : Nat) (a b : Word) : Option Bool :=
  match sub with
  | 0 => some (eq32 a b)
  | 1 => some (lt32 a b)
  | 2 => some (le32 a b)
  | 3 => some (!eq32 a b)
  | 4 => some (decide (a.toNat < b.toNat))
  | 5 => some (decide (b.toNat ≤ a.toNat))
  | 6 => some (decide (a.toInt < b.toInt))
  | _ => none
/-- vlogic (R88). -/
def vlogicOp (sub : Nat) (imm a b : Word) : Option Word :=
  match sub with
  | 0 => some (a &&& b)
  | 1 => some (a ||| b)
  | 2 => some (a ^^^ b)
  | 3 => some (a &&& ~~~b)
  | 4 => some (a <<< (imm.toNat % 32))
  | 5 => some (a >>> (imm.toNat % 32))
  | _ => none
/-- One level of the reduction tree (R90). -/
def vredLevel (f : Word → Word → Word) : List Word → List Word
  | a :: b :: t => f a b :: vredLevel f t
  | xs => xs
/-- vred over 128 lanes: seven levels (R90). -/
def vredOp (f : Word → Word → Word) (xs : List Word) : Word :=
  ((List.range 7).foldl (fun l _ => vredLevel f l) xs).headD 0
/-- The operation of vred (R88). -/
def vredFn (sub : Nat) : Option (Word → Word → Word) :=
  if sub = 0 then some add32 else if sub = 1 then some max32 else if sub = 2 then some min32 else none
/-- Register-to-register operations of one lane: those whose lane i depends on lane i alone (R88). -/
def laneOp (m : MicroOp) (a b c : Word) : Option Word :=
  let plain := fun (w : Word) => if m.sub = 0 then some w else none
  match m.op with
  | 0x03 => plain (add32 a b)
  | 0x04 => plain (sub32 a b)
  | 0x05 => plain (mul32 a b)
  | 0x06 => plain (fma32 a b c)
  | 0x07 => plain (min32 a b)
  | 0x08 => plain (max32 a b)
  | 0x09 => plain (div32 a b)
  | 0x0A => plain (sqrt32 a)
  | 0x0B => if m.sub ≤ 7 then some (trans32 m.sub a) else none
  | 0x0C => (vcmpOp m.sub a b).map maskWord
  | 0x0D => plain (if c ≠ 0 then a else b)
  | 0x0E => vlogicOp m.sub m.imm a b
  | 0x0F => if m.sub = 0 then some (toInt32 a) else if m.sub = 1 then some (ofInt32 a.toInt) else none
  | 0x13 => plain m.imm
  | _ => none
/-- A tile's VEC descriptor, its tile and the iteration: where a microinstruction runs. -/
structure VecAt where
  t : Nat
  d : Desc
  iter : Nat
deriving DecidableEq, Repr
/-- Address of a memory instruction (R86); a non-zero va[4:3] or imm[31:21] is none. -/
def vecAddr (x : VecAt) (m : MicroOp) : Option Nat :=
  if m.va / 8 ≠ 0 ∨ fld m.imm 31 21 ≠ 0 then none
  else some (x.d.sa (4 + m.va) + x.iter * x.d.fld (4 + m.va) 31 21 * 512 + fld m.imm 20 0)
/-- Bytes of 128 elements of a format (R88). -/
def vecBytes (f : Fmt) : Nat := match f with | .b6 => 100 | f => 128 * fmtBytes f
/-- An element as vld widens it (R88). -/
def vldElem (f : Fmt) (o : Opd) : Word :=
  match f with
  | .int32 => BitVec.ofNat 32 o.code
  | .int8 => ofInt32 o.int
  | .b6 => if o.e8 = 255 then nan32 else match fdec .b6 o.code with
    | .fin s m e => round32 s m (e + (o.e8 : Int) - 127) false
    | v => wr32 v
  | f => widen f o.code
/-- What one microinstruction gives: a next state, or the reason it raises (R88). -/
abbrev VecOut := Except Nat State
/-- vld (R88). -/
def vecLoad (s : State) (x : VecAt) (m : MicroOp) : VecOut :=
  match fmtOf (m.sub / 4), vecAddr x m with
  | some f, some a =>
    if m.sub % 4 ≠ 0 then .error 0x10
    else if storeEnd < a + vecBytes f then .error 0x08
    else .ok (vput s x.t m.vd ((readElems s x.t f a 128).map (vldElem f)))
  | _, _ => .error 0x10
/-- Every lane's generator is read in one clock (R102): that clock is open in free-running mode; in counted mode each lane
is consumed (R103) (log 63, DESIGN CHOICE). -/
def drawLanes (s : State) (t : Nat) : List Word × State :=
  if counted s (t / 16) then ((List.range 128).map (spinRead s t), forEach (List.range 128) s fun s j => spinConsume s t j 1)
  else
    let s1 := clockTick s (t / 32)
    ((List.range 128).map (spinRead s1 t), s1)
/-- vst (R46, R88, R102): the lanes of one store draw their spin bits in one clock. -/
def vecStore (s : State) (x : VecAt) (m : MicroOp) : VecOut :=
  match fmtOf (m.sub / 4), vecAddr x m with
  | some f, some a =>
    if storeEnd < a + vecBytes f then .error 0x08
    else
      let v := vget s x.t m.vd
      match f with
      | .fp32 | .int32 => .ok (storeWrite s x.t a (v.flatMap fun w => leBytes 4 w.toNat))
      | f =>
        let p : ConvP := { fmt := f, rnd := x.d.bit 3 28, clip := x.d.bit 3 27, act := x.d.fld 3 31 29, lo := x.d.word 14, hi := x.d.word 15, tbl := x.d.tbl }
        let q := if p.rnd then drawLanes s x.t else ([], s)
        let r := (List.range 128).map fun j => q.1[j]?.map fun w => w.toNat % 65536
        let s1 := q.2
        let c := convRun p ((v.map (preConv p (x.d.word 12) (x.d.word 13))).zip r)
        .ok (plumbCount (storeWrite s1 x.t a c.bytes) x.t (convCounts f (m.sub % 4) c.outs))
  | _, _ => .error 0x10
/-- vspin (R88, R102, R103): every lane reads its generator in one clock. -/
def vecSpin (s : State) (x : VecAt) (m : MicroOp) : State :=
  let r := drawLanes s x.t
  vput r.2 x.t m.vd r.1
/-- vstm and vldm (R88). An address that is not 16-byte aligned raises reason 0x0C. -/
def vecMask (s : State) (x : VecAt) (m : MicroOp) : VecOut :=
  match vecAddr x m with
  | none => .error 0x10
  | some a =>
    if m.sub ≠ 0 then .error 0x10
    else if storeEnd < a + 16 then .error 0x08
    else if a % 16 ≠ 0 then .error 0x0C
    else if m.op = 0x16 then .ok (storeWrite s x.t a (packBits ((vget s x.t m.va).map (· ≠ 0))))
    else
      let bs := storeRead s x.t a 16
      .ok (vput s x.t m.vd ((List.range 128).map fun i => maskWord ((bs.getD (i / 8) 0).getLsbD (i % 8))))
/-- One microinstruction (R88). -/
def vecOp (s : State) (x : VecAt) (m : MicroOp) : VecOut :=
  let put := fun (ws : List Word) => if m.sub = 0 then (.ok (vput s x.t m.vd ws) : VecOut) else .error 0x10
  match m.op with
  | 0x00 => if m.sub = 0 then .ok s else .error 0x10
  | 0x01 => vecLoad s x m
  | 0x02 => vecStore s x m
  | 0x10 => match vredFn m.sub with
    | some f => .ok (vput s x.t m.vd (List.replicate 128 (vredOp f (vget s x.t m.va))))
    | none => .error 0x10
  | 0x11 => put ((vget s x.t m.vb).map fun i => (vget s x.t m.va).getD (i.toNat % 128) 0)
  | 0x12 => if m.sub = 0 then .ok (vecSpin s x m) else .error 0x10
  | 0x14 => put ((List.range 128).map fun i => BitVec.ofNat 32 i)
  | 0x15 => put (List.replicate 128 (BitVec.ofNat 32 x.iter))
  | 0x16 => vecMask s x m
  | 0x17 => vecMask s x m
  | _ =>
    let lanes := ((vget s x.t m.va).zip ((vget s x.t m.vb).zip (vget s x.t m.vc))).map fun p => laneOp m p.1 p.2.1 p.2.2
    if lanes.all (·.isSome) then .ok (vput s x.t m.vd (lanes.filterMap id)) else .error 0x10
/-- Run microinstructions in order until one raises a reason (log 85, DEDUCED). -/
def vecRun (t : Nat) (d : Desc) (s : State) : List (Nat × Nat) → State × Option Nat
  | [] => (s, none)
  | (iter, u) :: rest =>
    match vecOp s ⟨t, d, iter⟩ (microOf u) with
    | .ok s1 => vecRun t d s1 rest
    | .error r => (s, some r)
/-- VEC: the microprogram runs once per iteration (R86). -/
def vecWork (t : Nat) (s : State) : State :=
  match pickDesc s t 4 0, tileCtx s t with
  | some d, some c =>
    let prog := vecProgram s t d
    let r := vecRun t d s ((List.range (d.fld 3 15 0)).flatMap fun i => prog.map fun u => (i, u))
    match r.2 with
    | some e => failDesc r.1 c t e d
    | none => markDone r.1 t d.seq
  | _, _ => s

end Sys2Proof.Machine
end

