-- ==== Sys2Proof/Machine/Units.lean ====
section
/-! DEFINITION. DMA, MATMUL, CONV, VEC and JOINT as units that run beside each other in the tile stores
(spec/03_tile.md, R62, R70, R102). -/

namespace Sys2Proof.Machine

/-- The work of the i-th started descriptor of a class (R65, R67). -/
def unitWork (k t i : Nat) (s : State) : State :=
  match k with
  | 1 => dmaWork t i s
  | 2 => matmulWork t s
  | 3 => convWork t s
  | 4 => vecWork t s
  | 5 => jointWork t s
  | _ => s
/-- Tiles whose stores a descriptor touches: its own, and the neighbour of a JOINT (R91, R92). -/
def unitTiles (t : Nat) (d : Desc) : List Nat := t :: (if d.cls = 5 then (jointNeighbour t (d.fld 2 31 30)).toList else [])
/-- Units at work on a descriptor that touches one of the same stores, as (class, tile, i). -/
def besides (s : State) (t : Nat) (d : Desc) : List (Nat × Nat × Nat) :=
  let ts := unitTiles t d
  s.tile.seqs.flatMap fun p => [1, 2, 3, 4, 5].flatMap fun k =>
    ((p.2.descs.filter fun e => decide (e.cls = k ∧ e.phase = .started)).zipIdx.filter fun e =>
      ((unitTiles p.1 e.1).any ts.contains) && !(decide (p.1 = t ∧ e.1.seq = d.seq))).map fun e => (k, p.1, e.2)
/-- The 64 bytes of a bank line; tile t holds the lines from 2^15 t on (R60). -/
def lineAt (m : Mem) (l : Nat) : List Byte := m.read (64 * l) 64
/-- Lines of some tiles in which one of several stores differs from the first. -/
def lineDiffs (ts : List Nat) (m : Mem) (ms : List Mem) : List Nat :=
  (((m :: ms).flatMap fun x => x.cells.map fun c => c.1 / 64).eraseDups).filter fun l =>
    ts.contains (l / 2 ^ 15) && ms.any fun x => decide (lineAt x l ≠ lineAt m l)
/-- The line as one of the stores has it: which one is open (R62) (log 11, DESIGN CHOICE). -/
def mixLine (i : Nat) (ms : List Mem) (m : Mem) (l : Nat) : Mem :=
  m.write (64 * l) (lineAt (ms.getD ((Config.freeByte i l).toNat % (ms.length + 1)) m) l)
/-- What a unit wrote (`after` against the lines it found, `view`) goes over the store `m`. In a line that another unit has
written since the descriptor started (`m` against `snap`), which write came second is open (R62) (log 11, DESIGN CHOICE). -/
def layWrites (i : Nat) (snap view after : Mem) (m : Mem) (l : Nat) : Mem :=
  if lineAt m l ≠ lineAt snap l ∧ (Config.freeByte i l).getLsbD 0 then m
  else
    let bs := ((lineAt m l).zip ((lineAt view l).zip (lineAt after l))).map fun b => if b.2.1 = b.2.2 then b.1 else b.2.2
    m.write (64 * l) bs
/-- A unit works while others write the lines it reads, `ls`: it finds each line as one of the stores `ms` or the present
one has it (R62). A teardown that its work brings about leaves the stores as it leaves them. -/
def mixedWork (work : State → State) (ts ls : List Nat) (snap : Mem) (ms : List Mem) (s : State) : State :=
  let view := ls.foldl (mixLine s.free ms) s.tile.store
  let r := work { s with free := s.free + 2, tile := { s.tile with store := view } }
  if r.tile.store.fills ≠ s.tile.store.fills then r
  else
    let store := (lineDiffs ts r.tile.store [view]).foldl (layWrites (s.free + 1) snap view r.tile.store) s.tile.store
    { r with tile := { r.tile with store := store } }
/-- A unit that draws spin bits reads the generators from the clock of its start on; two units of a pair read them side by
side (R102). -/
def clocked (s : State) (t : Nat) (d : Desc) (work : State → State) : State :=
  if drawsSpin s t d then
    let r := work (setClock s (t / 32) d.clk)
    setClock r (t / 32) (max (pairClock s (t / 32)) (pairClock r (t / 32)))
  else work s
/-- Errors in the stores that a descriptor works on are met (R247). -/
def storesMet (s : State) (t : Nat) (d : Desc) : State := if s.mem.upsets = [] then s else meetStores s (unitTiles t d)
/-- The i-th started descriptor of a class does its work. A line that it reads is found as it was at the descriptor's start,
as it is now, or as a unit that works beside it leaves it (R62, R70) (log 11, DESIGN CHOICE). -/
def unitEffect (k t i : Nat) (s0 : State) : State :=
  let s := match pickDesc s0 t k i with | some d => storesMet s0 t d | none => s0
  match pickDesc s t k i with
  | none => s
  | some d =>
    let ts := unitTiles t d
    let beside := ((besides s t d).map fun u => (unitWork u.1 u.2.1 u.2.2 s).tile.store).filter fun m =>
      decide (m.fills = s.tile.store.fills)
    let ms := d.snap :: beside
    let ls := lineDiffs ts s.tile.store ms
    clocked s t d fun s => if ls = [] then unitWork k t i s else mixedWork (unitWork k t i) ts ls d.snap ms s

/-- DMA (R79, R122). -/
def dmaEffect (t i : Nat) (s : State) : State := unitEffect 1 t i s
/-- DMA. -/
def execDma (t : TileId) (i : Nat) (s : State) : Host.Outcome State Fault Refusal := .next (dmaEffect t.val i s)
/-- MATMUL (R80, R81). -/
def matmulEffect (t : Nat) (s : State) : State := unitEffect 2 t 0 s
/-- MATMUL. -/
def execMatmul (t : TileId) (s : State) : Host.Outcome State Fault Refusal := .next (matmulEffect t.val s)
/-- CONV (R109, R112, R113). -/
def convEffect (t : Nat) (s : State) : State := unitEffect 3 t 0 s
/-- CONV. -/
def execConv (t : TileId) (s : State) : Host.Outcome State Fault Refusal := .next (convEffect t.val s)
/-- VEC (R86). -/
def vecEffect (t : Nat) (s : State) : State := unitEffect 4 t 0 s
/-- VEC. -/
def execVec (t : TileId) (s : State) : Host.Outcome State Fault Refusal := .next (vecEffect t.val s)
/-- JOINT (R92). -/
def jointEffect (t : Nat) (s : State) : State := unitEffect 5 t 0 s
/-- JOINT. -/
def execJoint (t : TileId) (s : State) : Host.Outcome State Fault Refusal := .next (jointEffect t.val s)

end Sys2Proof.Machine
end

