-- ==== Sys2Proof/Machine/Dispatch.lean ====
section
/-! DEFINITION. One arm per command: one direct call of its meaning. -/

namespace Sys2Proof.Machine

/-- The effect of a command on everything but the queue. -/
def exec (i : Instr) (s : State) : Host.Outcome State Fault Refusal :=
  match i with
  | .descriptorIssue t pc addr => Sys2Proof.Machine.execDescriptorIssue t pc addr s
  | .descriptorStart t q => Sys2Proof.Machine.execDescriptorStart t q s
  | .descriptorComplete t q => Sys2Proof.Machine.execDescriptorComplete t q s
  | .dma t n => Sys2Proof.Machine.execDma t n s
  | .matmul t => Sys2Proof.Machine.execMatmul t s
  | .conv t => Sys2Proof.Machine.execConv t s
  | .vec t => Sys2Proof.Machine.execVec t s
  | .joint t => Sys2Proof.Machine.execJoint t s
  | .semWait t => Sys2Proof.Machine.execSemWait t s
  | .semSignal t => Sys2Proof.Machine.execSemSignal t s
  | .semSet t => Sys2Proof.Machine.execSemSet t s
  | .fabPut t n => Sys2Proof.Machine.execFabPut t n s
  | .fabGet t n => Sys2Proof.Machine.execFabGet t n s
  | .fabCollectiveStep t n => Sys2Proof.Machine.execFabCollectiveStep t n s
  | .tagGrant p => Sys2Proof.Machine.execTagGrant p s
  | .barrier t => Sys2Proof.Machine.execBarrier t s
  | .barrierRelease c sc inst id => Sys2Proof.Machine.execBarrierRelease c sc inst id s
  | .event t => Sys2Proof.Machine.execEvent t s
  | .eventAccept c => Sys2Proof.Machine.execEventAccept c s
  | .drainEnd c => Sys2Proof.Machine.execDrainEnd c s
  | .boundaryViolation c t => Sys2Proof.Machine.execBoundaryViolation c t s
  | .postedTimeout c => Sys2Proof.Machine.execPostedTimeout c s
  | .rollupComplete => Sys2Proof.Machine.execRollupComplete s
  | .telFreeze v => Sys2Proof.Machine.execTelFreeze v s
  | .periodicFreezeTick => Sys2Proof.Machine.execPeriodicFreezeTick s
  | .verdictReductionComplete c => Sys2Proof.Machine.execVerdictReductionComplete c s
  | .sweep k => Sys2Proof.Machine.execSweep k s
  | .stagingRoom c => Sys2Proof.Machine.execStagingRoom c s
  | .sweepEnd c => Sys2Proof.Machine.execSweepEnd c s
  | .digestExchangeComplete c ts => Sys2Proof.Machine.execDigestExchangeComplete c ts s
  | .digestTriplesTimeout c => Sys2Proof.Machine.execDigestTriplesTimeout c s
  | .keeperGateOpen c => Sys2Proof.Machine.execKeeperGateOpen c s
  | .releaseReductionComplete c => Sys2Proof.Machine.execReleaseReductionComplete c s
  | .startReductionComplete c => Sys2Proof.Machine.execStartReductionComplete c s
  | .controlReductionTimeout c rc id => Sys2Proof.Machine.execControlReductionTimeout c rc id s
  | .stepTimeout c => Sys2Proof.Machine.execStepTimeout c s
  | .jobLoad r => Sys2Proof.Machine.execJobLoad r s
  | .loadCheck hw => Sys2Proof.Machine.execLoadCheck hw s
  | .jobStart c hw peer => Sys2Proof.Machine.execJobStart c hw peer s
  | .jobResume c hw peer => Sys2Proof.Machine.execJobResume c hw peer s
  | .jobPreempt c => Sys2Proof.Machine.execJobPreempt c s
  | .jobUnload c => Sys2Proof.Machine.execJobUnload c s
  | .jobTeardown c => Sys2Proof.Machine.execJobTeardown c s
  | .jobClear c => Sys2Proof.Machine.execJobClear c s
  | .ploughFinish c => Sys2Proof.Machine.execPloughFinish c s
  | .ploughAbort c => Sys2Proof.Machine.execPloughAbort c s
  | .creditAdd c v => Sys2Proof.Machine.execCreditAdd c v s
  | .creditOverflowClear c => Sys2Proof.Machine.execCreditOverflowClear c s
  | .snapshotRequest c => Sys2Proof.Machine.execSnapshotRequest c s
  | .snap k => Sys2Proof.Machine.execSnap k s
  | .poolTake p r => Sys2Proof.Machine.execPoolTake p r s
  | .poolGive p v => Sys2Proof.Machine.execPoolGive p v s
  | .trowelQueueDoorbell c tail hw => Sys2Proof.Machine.execTrowelQueueDoorbell c tail hw s
  | .digest k => Sys2Proof.Machine.execDigest k s
  | .replay k src => Sys2Proof.Machine.execReplay k src s
  | .base k => Sys2Proof.Machine.execBase k s
  | .importBase k src => Sys2Proof.Machine.execImportBase k src s
  | .init k => Sys2Proof.Machine.execInit k s
  | .trowelDone c => Sys2Proof.Machine.execTrowelDone c s
  | .trailMover c budget => Sys2Proof.Machine.execTrailMover c budget s
  | .sinkPoll c sink hw peer => Sys2Proof.Machine.execSinkPoll c sink hw peer s
  | .sinkReadTimeout c sink => Sys2Proof.Machine.execSinkReadTimeout c sink s
  | .packetForward inPort p => Sys2Proof.Machine.execPacketForward inPort p s
  | .write p => Sys2Proof.Machine.execWrite p s
  | .writeLast p => Sys2Proof.Machine.execWriteLast p s
  | .ack p => Sys2Proof.Machine.execAck p s
  | .lateWrite p => Sys2Proof.Machine.execLateWrite p s
  | .readReq p => Sys2Proof.Machine.execReadReq p s
  | .readData p => Sys2Proof.Machine.execReadData p s
  | .readNak p => Sys2Proof.Machine.execReadNak p s
  | .getTimeout c tag => Sys2Proof.Machine.execGetTimeout c tag s
  | .coll p axis off => Sys2Proof.Machine.execColl p axis off s
  | .collectiveTimeout c collId step => Sys2Proof.Machine.execCollectiveTimeout c collId step s
  | .ctrlReduceUp port p => Sys2Proof.Machine.execCtrlReduceUp port p s
  | .ctrlReduceDown port p => Sys2Proof.Machine.execCtrlReduceDown port p s
  | .absentNotice port p => Sys2Proof.Machine.execAbsentNotice port p s
  | .presentNotice port p => Sys2Proof.Machine.execPresentNotice port p s
  | .jobLostNotice port p => Sys2Proof.Machine.execJobLostNotice port p s
  | .ploughNotice port p => Sys2Proof.Machine.execPloughNotice port p s
  | .fw p => Sys2Proof.Machine.execFw p s
  | .timeSend => Sys2Proof.Machine.execTimeSend s
  | .time port p => Sys2Proof.Machine.execTime port p s
  | .timeSet r v => Sys2Proof.Machine.execTimeSet r v s
  | .heartbeatSend => Sys2Proof.Machine.execHeartbeatSend s
  | .heartbeat port flit => Sys2Proof.Machine.execHeartbeat port flit s
  | .heartbeatTimeout port => Sys2Proof.Machine.execHeartbeatTimeout port s
  | .linkDown port => Sys2Proof.Machine.execLinkDown port s
  | .linkDegraded port bad => Sys2Proof.Machine.execLinkDegraded port bad s
  | .linkTrainState port coords peerPort tag => Sys2Proof.Machine.execLinkTrainState port coords peerPort tag s
  | .linkTrainTimeout port => Sys2Proof.Machine.execLinkTrainTimeout port s
  | .fecReplay port lost => Sys2Proof.Machine.execFecReplay port lost s
  | .creditReturn port vc n => Sys2Proof.Machine.execCreditReturn port vc n s
  | .prbsStart port => Sys2Proof.Machine.execPrbsStart port s
  | .prbsStop port => Sys2Proof.Machine.execPrbsStop port s
  | .announcementEnd => Sys2Proof.Machine.execAnnouncementEnd s
  | .unitHang unit inst => Sys2Proof.Machine.execUnitHang unit inst s
  | .thermalTrip unit inst reading => Sys2Proof.Machine.execThermalTrip unit inst reading s
  | .supplyFault reading => Sys2Proof.Machine.execSupplyFault reading s
  | .routerFault reading => Sys2Proof.Machine.execRouterFault reading s
  | .coolantOkDeassert => Sys2Proof.Machine.execCoolantOkDeassert s
  | .aonLoss => Sys2Proof.Machine.execAonLoss s
  | .refclkLoss => Sys2Proof.Machine.execRefclkLoss s
  | .aonPowerOnReset straps => Sys2Proof.Machine.execAonPowerOnReset straps s
  | .regulatorStart => Sys2Proof.Machine.execRegulatorStart s
  | .coldBoot bistFail => Sys2Proof.Machine.execColdBoot bistFail s
  | .memoryTrainingComplete => Sys2Proof.Machine.execMemoryTrainingComplete s
  | .ready => Sys2Proof.Machine.execReady s
  | .rstWarm v => Sys2Proof.Machine.execRstWarm v s
  | .perstNAssert => Sys2Proof.Machine.execPerstNAssert s
  | .perstNDeassert => Sys2Proof.Machine.execPerstNDeassert s
  | .warmRestart => Sys2Proof.Machine.execWarmRestart s
  | .rstCompute v => Sys2Proof.Machine.execRstCompute v s
  | .functionLevelReset => Sys2Proof.Machine.execFunctionLevelReset s
  | .pcieLinkLoss => Sys2Proof.Machine.execPcieLinkLoss s
  | .rstact b => Sys2Proof.Machine.execRstact b s
  | .softReset r page => Sys2Proof.Machine.execSoftReset r page s
  | .stWrite r off v => Sys2Proof.Machine.execStWrite r off v s
  | .cfgCheck => Sys2Proof.Machine.execCfgCheck s
  | .cfgCheckDone => Sys2Proof.Machine.execCfgCheckDone s
  | .cfgApply => Sys2Proof.Machine.execCfgApply s
  | .cfgDiscard r => Sys2Proof.Machine.execCfgDiscard r s
  | .cfgSave => Sys2Proof.Machine.execCfgSave s
  | .cfgSaveDone ok => Sys2Proof.Machine.execCfgSaveDone ok s
  | .sleep => Sys2Proof.Machine.execSleep s
  | .wake => Sys2Proof.Machine.execWake s
  | .lowPowerExit => Sys2Proof.Machine.execLowPowerExit s
  | .pairGate p => Sys2Proof.Machine.execPairGate p s
  | .governorRelease => Sys2Proof.Machine.execGovernorRelease s
  | .powerControlTick watts deciamps => Sys2Proof.Machine.execPowerControlTick watts deciamps s
  | .thermalLimitTick t quarterDeg => Sys2Proof.Machine.execThermalLimitTick t quarterDeg s
  | .droopStretch p => Sys2Proof.Machine.execDroopStretch p s
  | .voltageLoopTick p clocks load => Sys2Proof.Machine.execVoltageLoopTick p clocks load s
  | .memoryRecentre k code => Sys2Proof.Machine.execMemoryRecentre k code s
  | .fabricEqualisation port lane code => Sys2Proof.Machine.execFabricEqualisation port lane code s
  | .brakeAssert => Sys2Proof.Machine.execBrakeAssert s
  | .brakeDeassert => Sys2Proof.Machine.execBrakeDeassert s
  | .tenantSwitch src => Sys2Proof.Machine.execTenantSwitch src s
  | .scrubComplete failed => Sys2Proof.Machine.execScrubComplete failed s
  | .weightSetClose set => Sys2Proof.Machine.execWeightSetClose set s
  | .weightChunk ch bytes => Sys2Proof.Machine.execWeightChunk ch bytes s
  | .secRefused => Sys2Proof.Machine.execSecRefused s
  | .getVersion p => Sys2Proof.Machine.execGetVersion p s
  | .getCapabilities p v12 => Sys2Proof.Machine.execGetCapabilities p v12 s
  | .negotiateAlgorithms p => Sys2Proof.Machine.execNegotiateAlgorithms p s
  | .getDigests p => Sys2Proof.Machine.execGetDigests p s
  | .getCertificate p off len => Sys2Proof.Machine.execGetCertificate p off len s
  | .challenge p nonce => Sys2Proof.Machine.execChallenge p nonce s
  | .getMeasurements p index => Sys2Proof.Machine.execGetMeasurements p index s
  | .keyExchange p mutualAuth => Sys2Proof.Machine.execKeyExchange p mutualAuth s
  | .finish p session leafKey ok => Sys2Proof.Machine.execFinish p session leafKey ok s
  | .spdmHeartbeat p session => Sys2Proof.Machine.execSpdmHeartbeat p session s
  | .keyUpdate p session => Sys2Proof.Machine.execKeyUpdate p session s
  | .endSession p session => Sys2Proof.Machine.execEndSession p session s
  | .chunkSend p handle bytes last => Sys2Proof.Machine.execChunkSend p handle bytes last s
  | .chunkGet p handle seqNo => Sys2Proof.Machine.execChunkGet p handle seqNo s
  | .report p session nonce => Sys2Proof.Machine.execReport p session nonce s
  | .setKey p session setId key => Sys2Proof.Machine.execSetKey p session setId key s
  | .releaseKey p session job chan loadId reportDigest key => Sys2Proof.Machine.execReleaseKey p session job chan loadId reportDigest key s
  | .ownerKeyUpdate p seq key sig writeOk => Sys2Proof.Machine.execOwnerKeyUpdate p seq key sig writeOk s
  | .setEndpointId p eid => Sys2Proof.Machine.execSetEndpointId p eid s
  | .mctpRegisterRead p off count => Sys2Proof.Machine.execMctpRegisterRead p off count s
  | .mctpRegisterWrite p off ws => Sys2Proof.Machine.execMctpRegisterWrite p off ws s
  | .i3cPrivateWrite bytes => Sys2Proof.Machine.execI3cPrivateWrite bytes s
  | .i3cPrivateRead words => Sys2Proof.Machine.execI3cPrivateRead words s
  | .dynamicAddressAssignment a => Sys2Proof.Machine.execDynamicAddressAssignment a s
  | .registerWrite r bar2 off width v => Sys2Proof.Machine.execRegisterWrite r bar2 off width v s
  | .accessErrRead r page => Sys2Proof.Machine.execAccessErrRead r page s
  | .irqStatusClear page v => Sys2Proof.Machine.execIrqStatusClear page v s
  | .irqForce page v => Sys2Proof.Machine.execIrqForce page v s
  | .queuePop off v => Sys2Proof.Machine.execQueuePop off v s
  | .queueConfigWrite r off v => Sys2Proof.Machine.execQueueConfigWrite r off v s
  | .bar4BaseWrite r hi => Sys2Proof.Machine.execBar4BaseWrite r hi s
  | .bar4Read off len => Sys2Proof.Machine.execBar4Read off len s
  | .bar4Write off bytes => Sys2Proof.Machine.execBar4Write off bytes s
  | .eventQueueDoorbell c idx => Sys2Proof.Machine.execEventQueueDoorbell c idx s
  | .dmaDoorbell ch tail => Sys2Proof.Machine.execDmaDoorbell ch tail s
  | .hostDmaDescriptor ch hw => Sys2Proof.Machine.execHostDmaDescriptor ch hw s
  | .hostDmaComplete ch => Sys2Proof.Machine.execHostDmaComplete ch s
  | .fwOpen r target => Sys2Proof.Machine.execFwOpen r target s
  | .fwData r v => Sys2Proof.Machine.execFwData r v s
  | .fwCommit r => Sys2Proof.Machine.execFwCommit r s
  | .fwAbort r => Sys2Proof.Machine.execFwAbort r s
  | .fwUpdateDone readBackOk => Sys2Proof.Machine.execFwUpdateDone readBackOk s
  | .courseFence n => Sys2Proof.Machine.execCourseFence n s
  | .courseBist n => Sys2Proof.Machine.execCourseBist n s
  | .bistDone n pass => Sys2Proof.Machine.execBistDone n pass s
  | .courseRelease n => Sys2Proof.Machine.execCourseRelease n s
  | .unitOutOfService u => Sys2Proof.Machine.execUnitOutOfService u s
  | .unitSelfTest u => Sys2Proof.Machine.execUnitSelfTest u s
  | .selfTestDone u pass => Sys2Proof.Machine.execSelfTestDone u pass s
  | .unitReturnToService u => Sys2Proof.Machine.execUnitReturnToService u s
  | .idleScrub k lines errors => Sys2Proof.Machine.execIdleScrub k lines errors s
  | .ingestRingPoll c => Sys2Proof.Machine.execIngestRingPoll c s
  | .ingestOpen c slot => Sys2Proof.Machine.execIngestOpen c slot s
  | .decode c slot u => Sys2Proof.Machine.execDecode c slot u s
  | .decodeComplete c slot f => Sys2Proof.Machine.execDecodeComplete c slot f s
  | .shape c slot n => Sys2Proof.Machine.execShape c slot n s
  | .shapeComplete c slot => Sys2Proof.Machine.execShapeComplete c slot s
  | .ingestClose c slot => Sys2Proof.Machine.execIngestClose c slot s
  | .encodeRingPoll c => Sys2Proof.Machine.execEncodeRingPoll c s
  | .encodeOpen c slot => Sys2Proof.Machine.execEncodeOpen c slot s
  | .encode c slot n => Sys2Proof.Machine.execEncode c slot n s
  | .encodeAttemptComplete c slot bits => Sys2Proof.Machine.execEncodeAttemptComplete c slot bits s
  | .pictureComplete c slot => Sys2Proof.Machine.execPictureComplete c slot s
  | .encodeClose c slot => Sys2Proof.Machine.execEncodeClose c slot s
  | .postRingPoll d => Sys2Proof.Machine.execPostRingPoll d s
  | .decodeAndNms d => Sys2Proof.Machine.execDecodeAndNms d s
  | .nms d => Sys2Proof.Machine.execNms d s
  | .postCommandComplete d => Sys2Proof.Machine.execPostCommandComplete d s
  | .peerReadTimeout c => Sys2Proof.Machine.execPeerReadTimeout c s
  | .abortDigestWaitEnd c => Sys2Proof.Machine.execAbortDigestWaitEnd c s
  | .d3hotTransition d3 => Sys2Proof.Machine.execD3hotTransition d3 s
  | .bar4Resize log2 => Sys2Proof.Machine.execBar4Resize log2 s
  | .boundaryScanInstruction ir => Sys2Proof.Machine.execBoundaryScanInstruction ir s
  | .testLogicReset => Sys2Proof.Machine.execTestLogicReset s
  | .sealedRangeZeroed c => Sys2Proof.Machine.execSealedRangeZeroed c s

end Sys2Proof.Machine
end

