-- ==== Sys2Proof/Safety.lean ====
section
/-! DEFINITION. What the claims speak of: a step that answers a next state, the canonical form of every byte memory of a
state, and the parts of a state that a command leaves alone. -/

namespace Sys2Proof.Machine

/-- A step of the block goes on: the part reports every fault as an event, and no command stops it (R245). -/
def goesOn (o : Host.Outcome State Fault Refusal) : Prop := ∃ t, o = .next t

/-- The command answers a next state, and that state is as said. -/
def answers (i : Instr) (s : State) (holds : State → Prop) : Prop := ∃ t, exec i s = .next t ∧ holds t

/-- Every byte memory of the state is in canonical form: host memory, device memory, bed scratch, tile stores and the
firmware staging buffer. -/
def State.memoriesCanonical (s : State) : Prop :=
  s.hostMem.wf ∧ s.mem.dev.wf ∧ s.mem.scratch.wf ∧ s.tile.store.wf ∧ s.host.fw.buf.wf

/-- Hops between two coordinates of an axis, the shorter way round where the axis wraps (R211). -/
def axisHops (s : State) (a x y : Nat) : Nat :=
  let e := extent s a
  if wrapOn s a then min ((y + e - x) % e) ((x + e - y) % e) else max x y - min x y

/-- Hops of the route between two parts of the system (R211). -/
def hopsBetween (s : State) (p q : Nat) : Nat :=
  axisHops s 0 (coordAx p 0) (coordAx q 0) + axisHops s 1 (coordAx p 1) (coordAx q 1) + axisHops s 2 (coordAx p 2) (coordAx q 2)

/-- What a sweep makes of parameter i of a record with header h under a step scalar block: master value and both moments,
from the record's gradient, master value and moments (R163, R175). -/
def sweptParam (s : State) (r : Rec) (h blk : List Byte) (i : Nat) : Word × Word × Word :=
  updElem (grpAt blk (hGroup h)) (wordAt blk 0x14) (widen (if hGfmt h = 2 then .fp16 else .bf16) (devNat s (r.addr + 0xC100 + 2 * i) 2))
    (BitVec.ofNat 32 (devNat s (r.addr + 0x100 + 4 * i) 4)) (BitVec.ofNat 32 (devNat s (r.addr + 0x4100 + 4 * i) 4))
    (BitVec.ofNat 32 (devNat s (r.addr + 0x8100 + 4 * i) 4))

/-- The parts of the state that a frame speaks of. The queue is in none of them: no command changes it. The counter of
free values is in none of them either: it is the model's own (log 6). -/
inductive Part where
  /-- what has left the part -/
  | out
  /-- every byte of host memory -/
  | hostMem
  /-- every byte of device memory -/
  | dev
  /-- every byte of bed scratch -/
  | scratch
  /-- poison, stacks and bed lines -/
  | mem
  /-- every byte of the tile stores -/
  | store
  /-- the semaphores -/
  | sem
  /-- the vector registers -/
  | vreg
  /-- sequencers, barriers, courses and spin generators -/
  | tile
  /-- job contexts, loads and pools -/
  | job
  /-- links, tags, packets and the timebase -/
  | fab
  /-- the trowels -/
  | trw
  /-- the Rink -/
  | rink
  /-- the POST units -/
  | post
  /-- the registers that hold what was written -/
  | regs
  /-- the firmware window -/
  | fw
  /-- interrupts, access errors, latches, DMA channels, event queue, MSI-X, BAR4, endpoints -/
  | host
  /-- staged and live configuration -/
  | cfg
  /-- counters, shadows, logs and retention -/
  | tel
  /-- the Hardom root -/
  | sec
  /-- power -/
  | pwr
  /-- reset and boot -/
  | boot
deriving DecidableEq, Repr

/-- A part is the same in both states. -/
abbrev Part.same (p : Part) (s t : State) : Prop :=
  match p with
  | .out => t.out = s.out
  | .hostMem => t.hostMem = s.hostMem
  | .dev => t.mem.dev = s.mem.dev
  | .scratch => t.mem.scratch = s.mem.scratch
  | .mem => t.mem = { s.mem with dev := t.mem.dev, scratch := t.mem.scratch }
  | .store => t.tile.store = s.tile.store
  | .sem => t.tile.sem = s.tile.sem ∧ t.tile.semUndef = s.tile.semUndef
  | .vreg => t.tile.vreg = s.tile.vreg
  | .tile => t.tile = { s.tile with store := t.tile.store, sem := t.tile.sem, semUndef := t.tile.semUndef, vreg := t.tile.vreg }
  | .job => t.job = s.job
  | .fab => t.fab = s.fab
  | .trw => t.trw = s.trw
  | .rink => t.rink = s.rink
  | .post => t.post = s.post
  | .regs => t.host.regs = s.host.regs
  | .fw => t.host.fw = s.host.fw
  | .host => t.host = { s.host with regs := t.host.regs, fw := t.host.fw }
  | .cfg => t.cfg = s.cfg
  | .tel => t.tel = s.tel
  | .sec => t.sec = s.sec
  | .pwr => t.pwr = s.pwr
  | .boot => t.boot = s.boot

/-- From `s` to `t` only the listed parts may differ. -/
def State.changesOnly (ps : List Part) (s t : State) : Prop := ∀ p, p ∉ ps → p.same s t

/-- No error waits in a memory, no other unit works in the stores of the tiles that a descriptor touches, and they stand as
they were at its start (R62). -/
abbrev State.quietWork (s : State) (t : Nat) (d : Desc) : Prop :=
  s.mem.upsets = [] ∧ besides s t d = [] ∧ lineDiffs (unitTiles t d) s.tile.store [d.snap] = []
/-- A descriptor that Rink holds, of a RUNNING job, in a ring below the Rink's own entries (R280, R283). -/
abbrev State.rinkSlot (s : State) (c : Nat) (enc : Bool) (slot : Nat) (x : RTask) : Prop :=
  taskOf s c enc slot = some x ∧ (ctxOf s c).state = .running ∧ slot < (ringOf s c enc).2 ∧
    (ringOf s c enc).1 + 64 + 128 * (ringOf s c enc).2 ≤ 0x8FF0000000
/-- The descriptor asks for no signal and no interrupt (R285, R319). -/
abbrev RTask.quiet (x : RTask) : Prop := bit (lat x.d 1 1) 3 = false ∧ bit (lat x.d 1 1) 4 = false
/-- The slot has completed with a status and the bytes after it, and the ring's head word says where Rink stands (R287, R288). -/
abbrev State.slotDone (s : State) (c : Nat) (enc : Bool) (slot status : Nat) (comp : List Byte) (t : State) : Prop :=
  devRead t (slotAddr s c enc slot + 0x60) 32 = BitVec.ofNat 8 status :: comp ∧ taskOf t c enc slot = none ∧
    devNat t ((ringOf s c enc).1 + 4) 4 = ringHead t c enc % 2 ^ 32
/-- The address is outside what completion writes of a slot and its ring's head. -/
abbrev State.offSlot (s : State) (c : Nat) (enc : Bool) (slot a : Nat) : Prop :=
  (∀ i < 32, devAddr a ≠ some (slotAddr s c enc slot + 0x60 + i)) ∧ ∀ i < 4, devAddr a ≠ some ((ringOf s c enc).1 + 4 + i)
/-- Rink polls this ring, and no other of its kind holds work: the tail is read, and `u` is the state with it (R283, R289). -/
abbrev State.polls (s : State) (c : Nat) (enc : Bool) (u : State) : Prop :=
  (ctxOf s c).state = .running ∧ (ringOf s c enc).2 ≠ 0 ∧ s.pwr.state = .active ∧
    regionCheck (ctxOf s c).man 0 (ringOf s c enc).1 (64 + 128 * (ringOf s c enc).2) = none ∧ poisonedAt s (ringOf s c enc).1 4 = none ∧
    u = { s with rink := { s.rink with tails := mset s.rink.tails 0 (ringKey c enc) (devNat s (ringOf s c enc).1 4) } } ∧
    ∀ k < 8, k ≠ c → (ctxOf s k).state ≠ .running ∨ ringWindow s k enc = []
/-- The address lies in no byte of a range of device memory. -/
abbrev offRange (r : Nat × Nat) (a : Nat) : Prop := ∀ i < r.2, devAddr (r.1 + i) ≠ devAddr a
/-- The address is outside the first 64 bytes of an entry. -/
abbrev offEntry (e a : Nat) : Prop := ∀ i < 64, devAddr a ≠ some (entryAddr e + i)

end Sys2Proof.Machine
end

