-- ==== Sys2Proof/Certificates/Slice0/Obligations.lean ====
section
/-! DEFINITION. The statements for the provers. Each says what the rules it names say; where a clause rests on the model's choice,
the docstring names the log entry. -/

section
open Sys2Proof Sys2Proof.Machine

/-- The queue is first in, first out: a step takes the command at its front and runs it with the queue's rest; on an empty queue
one AON cycle passes. Where the rules leave a point open it follows the model's choice: log 5. -/
def Obligations.StepRunsTheFrontCommand : Prop :=
  (∀ (c : Instr) (rest : List Instr) (s : State), step { s with pending := c :: rest } = exec c { s with pending := rest }) ∧
  (∀ s : State, s.pending = [] → step s = .next (idleTick s) ∧ (idleTick s).pending = [])

/-- Every step, from every state, answers a next state; it takes the front command from the queue and adds none, takes back
nothing that has left the part, uses free values only upward, and keeps every byte memory in its canonical form. -/
def Obligations.StepKeepsTheInvariants : Prop :=
  ∀ s : State, ∃ t, step s = .next t ∧ t.pending = s.pending.tail ∧ s.out <+: t.out ∧ s.free ≤ t.free ∧
    (s.memoriesCanonical → t.memoriesCanonical)

/-- The monotonic counter holds a value from 0 to 256 and only ever increases, whatever a step does. -/
def Obligations.MonotonicCounterOnlyIncreases : Prop :=
  ∀ s t : State, step s = .next t → s.sec.counter ≤ t.sec.counter ∧ (s.sec.counter ≤ 256 → t.sec.counter ≤ 256)

/-- What reset leaves: no command waits; the memories list nothing and read 0; vectors mapped one to one, no interrupt and no
error pending; BAR4 at 64 GiB; the configuration LOCKED, applied never; no job, no descriptor, no session, no key; the counter
at 0. Where the rules leave a point open it follows the model's choice: log 1, 2, 7. -/
def Obligations.StateAfterReset : Prop :=
  State.reset.pending = [] ∧ State.reset.out = [] ∧ State.reset.memoriesCanonical ∧ (∀ a, devGet State.reset a = 0) ∧
    (∀ i < 256, rw State.reset (0x400 + 4 * i) = BitVec.ofNat 32 i) ∧ (∀ p, mget State.reset.host.irqStatus 0 p = 0) ∧
    (∀ p, mget State.reset.host.acc {} p = {}) ∧ State.reset.host.bar4Log = 36 ∧ rw64 State.reset 0x108 = 0 ∧ State.reset.cfg.state = 5 ∧
    State.reset.cfg.seq = 0 ∧ (∀ c < 8, (ctxOf State.reset c).state = .idle) ∧ (∀ k < 512, (seqrOf State.reset k).descs = []) ∧
    (∀ k < 512, ∀ i < 256, semGet State.reset k i = 0) ∧ (∀ p < 12, (linkOf State.reset p).state = .detect) ∧ State.reset.fab.time = 0 ∧
    State.reset.sec.sessions = [] ∧ State.reset.sec.devKey = none ∧ State.reset.sec.counter = 0 ∧ State.reset.boot.stage = 0 ∧
    State.reset.boot.perst = true


/-- R444, R448: a write to an ST field sets its shadow, sets dirty on its page and makes the state STAGED; in PENDING, APPLYING
and LOCKED it is dropped and recorded. CFG_DISCARD copies every live value into its shadow, clears the dirty bits, cancels a
pending apply and makes the state CLEAN with the result DISCARDED; in APPLYING and LOCKED it is dropped and recorded. Both hold
of the write through a register access as of the command of its own. -/
def Obligations.StagedWritesAndDiscard : Prop :=
  (∀ (s : State) (r : Req) (off : Nat) (v : Word), (stMask off).isSome = true → isReady s = true → s.cfg.state < 3 →
    answers (.stWrite r off v) s fun t => shadow t off = v ∧ (∀ o, o ≠ off → shadow t o = shadow s o) ∧ t.cfg.live = s.cfg.live ∧
      t.cfg.state = 1 ∧ off / 0x1000 * 0x1000 ∈ t.cfg.dirty ∧ s.changesOnly [.cfg] t) ∧
  (∀ (s : State) (r : Req) (off p : Nat) (v : Word), (stMask off).isSome = true → isReady s = true → 3 ≤ s.cfg.state → p = off / 0x1000 * 0x1000 →
    (pageIndex p).isSome = true → (mget s.host.acc {} p).count = 0 →
    answers (.stWrite r off v) s fun t => t.cfg = s.cfg ∧ mget t.host.acc {} p = ⟨2, r.val, 1, off % 0x1000⟩ ∧ s.changesOnly [.out, .host] t) ∧
  (∀ (s : State) (r : Req) (off : Nat) (v : Dword), (stMask off).isSome = true → isReady s = true → reachable s r.val = true →
    s.host.linkLost = false → off % 4 = 0 →
    exec (.registerWrite r false off 32 v) s = exec (.stWrite r off (v.extractLsb' 0 32)) s) ∧
  (∀ (s : State) (r : Req), pageAnswers s 0x5000 = true → s.cfg.state < 4 →
    answers (.cfgDiscard r) s fun t => t.cfg.shadow = s.cfg.live ∧ t.cfg.live = s.cfg.live ∧ t.cfg.dirty = [] ∧ t.cfg.state = 0 ∧
      t.cfg.checking = false ∧ t.cfg.result = 0x70000000 ∧ s.changesOnly [.out, .host, .cfg] t) ∧
  (∀ (s : State) (r : Req), pageAnswers s 0x5000 = true → 4 ≤ s.cfg.state → (mget s.host.acc {} 0x5000).count = 0 →
    answers (.cfgDiscard r) s fun t => t.cfg = s.cfg ∧ mget t.host.acc {} 0x5000 = ⟨6, r.val, 1, 0x108⟩ ∧ s.changesOnly [.out, .host] t) ∧
  (∀ (s : State) (r : Req) (v : Dword), pageAnswers s 0x5000 = true → reachable s r.val = true → s.host.linkLost = false → v.getLsbD 0 = true →
    exec (.registerWrite r false 0x5108 32 v) s = exec (.cfgDiscard r) s)


/-- R404, R422: the sleep command and the ways out of LOW_POWER. Where the rules leave a point open it follows the model's
choice: log 82. -/
def Obligations.SleepAndWake : Prop :=
  (∀ s : State, isReady s = true → s.pwr.state = .active → noneLoaded s = true →
    answers .sleep s fun t => t.pwr.state = .lowPower ∧ (∀ p < 16, (pairOf t p).gated = true) ∧ t.pwr.wakes = [] ∧
      (∀ k < 12, (stackOf t k).selfRefresh = true) ∧ s.changesOnly [.mem, .pwr] t) ∧
  (∀ s : State, isReady s = true → noneLoaded s = false → exec .sleep s = .next (accessErr s 0x4000 8 4 0x10C)) ∧
  (∀ s : State, isReady s = true → s.pwr.state = .lowPower → s.pwr.dead = false → s.pwr.coolant = true → coolEnough s = true →
    answers .wake s fun t => t.pwr.state = .active ∧ (∀ k < 12, (stackOf t k).selfRefresh = false) ∧ s.changesOnly [.mem, .pwr] t) ∧
  (∀ s : State, isReady s = true → s.pwr.state = .lowPower → s.pwr.dead = false → s.pwr.coolant = false ∨ coolEnough s = false →
    answers .wake s fun t => t.pwr.state = .lowPower ∧ t.pwr.waking = true ∧ s.changesOnly [.pwr] t) ∧
  (∀ s : State, s.pwr.waking = true → s.pwr.dead = false → s.pwr.state = .lowPower → coolEnough s = true → s.boot.stage ≠ 3 →
    answers .lowPowerExit s fun t => t.pwr.state = .active ∧ t.pwr.coolant = true ∧ t.pwr.waking = false ∧
      s.changesOnly [.mem, .pwr] t) ∧
  (∀ s : State, s.pwr.waking = true → s.pwr.dead = false → s.pwr.state = .lowPower → coolEnough s = true → s.boot.stage = 3 →
    answers .lowPowerExit s fun t => t.pwr.state = .active ∧ t.pwr.coolant = true ∧ t.boot.stage = 5) ∧
  (∀ s : State, s.pwr.waking = false ∨ s.pwr.dead = true ∨ s.pwr.state ≠ .lowPower ∨ coolEnough s = false →
    answers .lowPowerExit s fun t => t.pwr.state = s.pwr.state ∧ t.pwr.coolant = true ∧ s.changesOnly [.pwr] t)

/-- R405, R411 to R413: gating of a pair, and what the wake governor releases. -/
def Obligations.GatingAndGovernor : Prop :=
  (∀ (s : State) (p : PairId), mayGate s p.val = true →
    answers (.pairGate p) s fun t => (pairOf t p.val).gated = true ∧ (pairOf t p.val).setpoint = 200 ∧
      (∀ q, q ≠ p.val → pairOf t q = pairOf s q) ∧ p.val ∉ t.pwr.wakes ∧ s.changesOnly [.pwr] t) ∧
  (∀ (s : State) (p : PairId), mayGate s p.val = false → exec (.pairGate p) s = .next s) ∧
  (∀ (s : State) (p : Nat) (rest : List Nat), s.pwr.state = .active → s.pwr.wakes = p :: rest →
    answers .governorRelease s fun t => t.pwr.wakes = rest ∧ (pairOf t p).gated = false ∧ (pairOf t p).clk = clockTarget s p ∧
      (∀ q, q ≠ p → pairOf t q = pairOf s q) ∧ s.changesOnly [.pwr] t) ∧
  (∀ s : State, s.pwr.state = .active → s.pwr.wakes = [] →
    answers .governorRelease s fun t => t.pwr.wakes = [] ∧
      (∀ p < 16, (pairOf t p).gated = (pairOf s p).gated ∧
        (pairOf t p).clk = (if (pairOf s p).gated ∨ clockTarget s p ≤ effClock s p then effClock s p else effClock s p + 1)) ∧
      s.changesOnly [.pwr] t) ∧
  (∀ s : State, s.pwr.state ≠ .active → exec .governorRelease s = .next s)

/-- R24, R400, R420: the two limits of the power controller, and the brake. Where the rules leave a point open it follows the
model's choice: log 82. -/
def Obligations.PowerLimits : Prop :=
  (∀ (s : State) (w a : Nat), s.pwr.state = .active →
    answers (.powerControlTick w a) s fun t => t.pwr.watts = w % 65536 ∧ t.pwr.amps = a % 65536 ∧
      (2600 < w ∨ 4500 < a → t.pwr.ceil = max 48 (min s.pwr.ceil (fastest s) - 1)) ∧
      (w < 2600 ∧ a < 4500 → t.pwr.ceil = min 0x090 (s.pwr.ceil + 1)) ∧
      (¬ (2600 < w ∨ 4500 < a) → ¬ (w < 2600 ∧ a < 4500) → t.pwr.ceil = s.pwr.ceil) ∧
      (2600 < w → t.pwr.ceilCause = 2) ∧ (w ≤ 2600 ∧ 4500 < a → t.pwr.ceilCause = 3) ∧
      (∀ p < 16, (pairOf t p).clk ≤ clockTarget t p) ∧ s.changesOnly [.pwr] t) ∧
  (∀ (s : State) (w a : Nat), s.pwr.state ≠ .active → exec (.powerControlTick w a) s = .next s) ∧
  (∀ s : State, answers .brakeAssert s fun t => t.pwr.brake = true ∧ (∀ p < 16, effClock t p ≤ 48 ∧ (pairOf t p).clk ≤ 48) ∧
    2 ≤ rinkFraction t ∧ (∀ k < 12, 3 ≤ trowelFraction t k) ∧ s.changesOnly [.pwr] t) ∧
  (∀ s : State, answers .brakeDeassert s fun t => t.pwr.brake = false ∧ t.pwr.pairs = s.pwr.pairs ∧ s.changesOnly [.pwr] t)

/-- R415 to R419: thermal limits and the adaptive loops. Where the rules leave a point open it follows the model's choice: log
82. -/
def Obligations.ThermalAndAdaptiveLoops : Prop :=
  (∀ (s : State) (p : PairId) (q : Nat), 400 ≤ q →
    answers (.thermalLimitTick (.pair p) q) s fun t => (pairOf t p.val).temp = q ∧ (pairOf t p.val).hot = true ∧
      (pairOf t p.val).therm = max 48 (min (pairOf s p.val).therm (effClock s p.val) - 1) ∧ s.changesOnly [.out, .hostMem, .host, .pwr] t) ∧
  (∀ (s : State) (k : StackId) (q : Nat),
    answers (.thermalLimitTick (.dram k) q) s fun t => (stackOf t k.val).temp = q ∧ (stackOf t k.val).dblRefresh = decide (340 < q) ∧
      s.changesOnly [.out, .hostMem, .mem, .host, .pwr] t) ∧
  (∀ (s : State) (q : Nat), 400 ≤ q →
    answers (.thermalLimitTick .iod q) s fun t => t.pwr.iodTemp = q ∧ t.pwr.iodFrac = min 3 (max s.pwr.iodFrac (rinkFraction s) + 1) ∧
      s.changesOnly [.out, .hostMem, .host, .pwr] t) ∧
  (∀ (s : State) (p : PairId), (pairOf s p.val).gated = false →
    answers (.droopStretch p) s fun t => pairOf t p.val = { pairOf s p.val with stretch := (pairOf s p.val).stretch + 1, quiet := 0 } ∧
      (∀ q, q ≠ p.val → pairOf t q = pairOf s q) ∧ s.changesOnly [.pwr] t) ∧
  (∀ (s : State) (p : PairId) (n : Nat) (l : Fin 3), (pairOf s p.val).gated = false → n < 10000 * (pairOf s p.val).stretch →
    max (pairOf s p.val).setpoint ((tableEntry s p.val (effClock s p.val)).1 + (pairOf s p.val).guard) < 380 →
    answers (.voltageLoopTick p n l) s fun t => (pairOf t p.val).stretch = 0 ∧
      (pairOf t p.val).setpoint = max (pairOf s p.val).setpoint ((tableEntry s p.val (effClock s p.val)).1 + (pairOf s p.val).guard) + 1 ∧
      s.changesOnly [.pwr] t) ∧
  (∀ (s : State) (k : StackId) (code : Nat), (stackOf s k.val).trained = true → (stackOf s k.val).selfRefresh = false →
    answers (.memoryRecentre k code) s fun t => stackOf t k.val = { stackOf s k.val with centre := moveCode s.free (stackOf s k.val).centre code } ∧
      s.changesOnly [.mem] t) ∧
  (∀ (s : State) (p : Port) (lane : Fin 8) (code : Nat), (linkOf s p.val).state = .up → (linkOf s p.val).out = false →
    answers (.fabricEqualisation p lane code) s fun t =>
      mget (linkOf t p.val).taps (0, 0) lane.val = moveCode s.free (mget (linkOf s p.val).taps (0, 0) lane.val) code ∧
      (∀ l, l ≠ lane.val → mget (linkOf t p.val).taps (0, 0) l = mget (linkOf s p.val).taps (0, 0) l) ∧ s.changesOnly [.fab] t) ∧
  (∀ (i : Nat) (old : Nat × Nat) (to_ : Nat), (moveCode i old to_).2 < 3 ∧
    ((moveCode i old to_).1 = old.1 ∨ (moveCode i old to_).1 = old.1 + 1 ∨ (moveCode i old to_).1 + 1 = old.1))

/-- R483, R484: fencing, BIST and release of a course. Where the rules leave a point open it follows the model's choice: log 34.
-/
def Obligations.CourseFenceBistRelease : Prop :=
  (∀ (s : State) (n : CourseId), isReady s = true → courseNamed s n.val = false →
    answers (.courseFence n) s fun t => courseOf t n.val = { courseOf s n.val with fenced := true, bistResult := 0 } ∧
      (∀ m, m ≠ n.val → courseOf t m = courseOf s m) ∧ s.changesOnly [.tile] t) ∧
  (∀ (s : State) (n : CourseId), isReady s = true → courseNamed s n.val = true →
    exec (.courseFence n) s = .next (accessErr s (coursePage n.val) 8 4 0x110)) ∧
  (∀ (s : State) (n : CourseId), isReady s = true → (courseOf s n.val).fenced = true → (courseOf s n.val).bist = false →
    answers (.courseBist n) s fun t => courseOf t n.val = { courseOf s n.val with bist := true } ∧
      ((pairOf s (n.val / 2)).gated = true → n.val / 2 ∈ t.pwr.wakes) ∧ (∀ m, m ≠ n.val → courseOf t m = courseOf s m) ∧
      s.changesOnly [.tile, .pwr] t) ∧
  (∀ (s : State) (n : CourseId) (pass : Bool), (courseOf s n.val).bist = true →
    answers (.bistDone n pass) s fun t =>
      courseOf t n.val = { courseOf s n.val with bist := false, bistResult := if pass then 1 else 2 } ∧
      mget t.host.irqStatus 0 (coursePage n.val) = mget s.host.irqStatus 0 (coursePage n.val) ||| 1 ∧
      s.changesOnly [.out, .hostMem, .tile, .host] t) ∧
  (∀ (s : State) (n : CourseId), isReady s = true → (courseOf s n.val).fenced = true → (courseOf s n.val).bist = false →
    (courseOf s n.val).bistResult = 1 →
    answers (.courseRelease n) s fun t => (courseOf t n.val).fenced = false ∧ (courseOf t n.val).seed = live64 s (coursePage n.val + 0x100) ∧
      (courseOf t n.val).spinClk = 0 ∧ (∀ k, k / 65536 = n.val → mget t.tile.vreg 0 k = 0) ∧
      (∀ u i, u / 16 = n.val → i < 256 → semGet t u i = 0) ∧
      s.changesOnly [.store, .sem, .vreg, .tile] t) ∧
  (∀ (s : State) (n : CourseId), isReady s = true → (courseOf s n.val).fenced = false ∨ (courseOf s n.val).bistResult ≠ 1 →
    exec (.courseRelease n) s = .next (accessErr s (coursePage n.val) 8 4 0x110))

/-- R487: service and self-test of a media unit. Where the rules leave a point open it follows the model's choice: log 34. -/
def Obligations.MediaUnitService : Prop :=
  (∀ (s : State) (u : MediaUnit), isReady s = true → unitBusy s u = false →
    answers (.unitOutOfService u) s fun t => unitOf t u = { unitOf s u with out := true } ∧
      (∀ v : MediaUnit, v ≠ u → unitOf t v = unitOf s v) ∧ s.changesOnly [.rink] t) ∧
  (∀ (s : State) (u : MediaUnit), isReady s = true → unitBusy s u = true →
    answers (.unitOutOfService u) s fun t => unitOf t u = { unitOf s u with leaving := true } ∧ s.changesOnly [.rink] t) ∧
  (∀ (s : State) (u : MediaUnit), isReady s = true → (unitOf s u).out = true → (unitOf s u).testing = false →
    answers (.unitSelfTest u) s fun t => unitOf t u = { unitOf s u with testing := true } ∧ s.changesOnly [.rink] t) ∧
  (∀ (s : State) (u : MediaUnit), isReady s = true → (unitOf s u).out = false →
    exec (.unitSelfTest u) s = .next (accessErr s (unitPage u) 8 4 0x108)) ∧
  (∀ (s : State) (u : MediaUnit) (pass : Bool), (unitOf s u).testing = true →
    answers (.selfTestDone u pass) s fun t => unitOf t u = { unitOf s u with testing := false, result := if pass then 1 else 2 } ∧
      mget t.host.irqStatus 0 (unitPage u) = mget s.host.irqStatus 0 (unitPage u) ||| 1 ∧ s.changesOnly [.out, .rink, .host] t) ∧
  (∀ (s : State) (u : MediaUnit), isReady s = true → (unitOf s u).testing = false →
    answers (.unitReturnToService u) s fun t => unitOf t u = { unitOf s u with out := false, leaving := false } ∧ s.changesOnly [.rink] t)

/-- R480, R486, R488: the idle scrub reads on from where it stopped, and an uncorrectable line is poisoned; boundary scan
acts on the contacts only while PERST_N is asserted. Where the rules leave a point open it follows the model's choice: log
24, 30, 35, 97. -/
def Obligations.IdleScrubAndBoundaryScan : Prop :=
  (∀ (s : State) (k : StackId) (n : Nat) (errors : List Upset), 0 < n → (rw s (hbmPage k.val + 0x108)).getLsbD 0 = true →
    (stackOf s k.val).trained = true → (stackOf s k.val).selfRefresh = false → s.sec.scrubbing = false →
    answers (.idleScrub k n errors) s fun t => (stackOf t k.val).scrubbing = true ∧
      (stackOf t k.val).scrubLine = ((stackOf s k.val).scrubLine + n) % stackLines ∧
      (∀ l ∈ s.mem.poison, l ∈ t.mem.poison) ∧
      (∀ e ∈ errors, ∀ l, e.place = .device l → e.kind = 3 → l / stackLines = k.val →
        (l % stackLines + stackLines - (stackOf s k.val).scrubLine) % stackLines < n → l ∈ t.mem.poison) ∧
      t.mem.dev = s.mem.dev ∧ s.changesOnly [.out, .hostMem, .mem, .host, .tel] t) ∧
  (∀ (s : State) (k : StackId) (errors : List Upset),
    answers (.idleScrub k 0 errors) s fun t => stackOf t k.val = { stackOf s k.val with scrubbing := false } ∧
      (∀ j, j ≠ k.val → stackOf t j = stackOf s j) ∧ t.mem.poison = s.mem.poison ∧ s.changesOnly [.out, .hostMem, .mem, .host, .tel] t) ∧
  (∀ (s : State) (ir : Nat), ir ≤ 2 ∨ (ir ≤ 6 ∧ s.boot.perst = true) →
    exec (.boundaryScanInstruction ir) s =
      .next { s with boot := { s.boot with tap := ir }, out := if ir = 1 then s.out ++ [.idcode idcode] else s.out }) ∧
  (∀ (s : State) (ir : Nat), 6 < ir ∨ (2 < ir ∧ s.boot.perst = false) →
    exec (.boundaryScanInstruction ir) s = .next { s with boot := { s.boot with tap := 0 } }) ∧
  (∀ s : State, s.boot.tap < 3 ∨ s.boot.stopped = false ∨ s.boot.perst = true →
    exec .testLogicReset s = .next { s with boot := { s.boot with tap := 1 } }) ∧
  (∀ s : State, 3 ≤ s.boot.tap → s.boot.stopped = true → s.boot.perst = false →
    answers .testLogicReset s fun t => t.boot.tap = 1 ∧ t.boot.stopped = false)

/-- R236 to R238, R252 to R254: TIME packets sent and received, the master's setting of the timebase, heartbeats sent on every
link in service, and what a received one says of the neighbour. Where the rules leave a point open it follows the model's
choice: log 80. -/
def Obligations.TimebaseAndHeartbeats : Prop :=
  (∀ (s : State) (p n : Nat), p < 12 → neighbour s p = some n → inService s p = true → isAbsent s n = false →
    (∀ x ∈ (linkOf s p).queue, x.p.vc ≠ 7) → creditNeed (timePacket s p n) false ≤ creditsOn s p 7 →
    answers .timeSend s fun t => (linkOf t p).tSent = now s ∧ (linkOf t p).timeSeq = ((linkOf s p).timeSeq + 1) % 65536 ∧
      OutMsg.packet (some p) (stamped s (timePacket s p n)) ∈ t.out ∧ t.fab.time = s.fab.time ∧ s.changesOnly [.out, .fab, .tel] t) ∧
  (∀ (s : State) (p n : Nat), p < 12 → neighbour s p = some n → inService s p = true → isAbsent s n = false →
    (∃ x ∈ (linkOf s p).queue, x.p.vc = 7) ∨ creditsOn s p 7 < creditNeed (timePacket s p n) false →
    answers .timeSend s fun t => (linkOf t p).tSent = (linkOf s p).tSent ∧ (linkOf t p).timeSeq = ((linkOf s p).timeSeq + 1) % 65536 ∧
      { p := timePacket s p n } ∈ (linkOf t p).queue ∧ t.fab.time = s.fab.time ∧ s.changesOnly [.out, .fab, .tel] t) ∧
  (∀ (s : State) (p : Port) (k : Packet), k.ty = 0x0A → k.dst = ownCoord s → inService s p.val = true →
    answers (.time p k) s fun t => (linkOf t p.val).tEcho = lat k.payload 0 8 ∧ (linkOf t p.val).tRecv = now s ∧
      (linkOf t p.val).hops = lat k.payload 0x18 1 ∧ s.fab.time ≤ t.fab.time ∧ (s.fab.locked = true → t.fab.time = s.fab.time) ∧
      s.changesOnly [.out, .hostMem, .fab, .host] t) ∧
  (∀ (s : State) (r : Req) (v : Dword), isReady s = true → isMaster s = true → s.fab.timeWasSet = false →
    answers (.timeSet r v) s fun t => t.fab.time = v.toNat ∧ t.fab.timeWasSet = true ∧ t.fab.locked = true ∧ t.fab.hops = 0 ∧
      s.changesOnly [.fab] t) ∧
  (∀ (s : State) (r : Req) (v : Dword), isReady s = true → isMaster s = false ∨ s.fab.timeWasSet = true →
    exec (.timeSet r v) s = .next (accessErr s 0x70000 8 r.val 0x124)) ∧
  (∀ (s : State) (p : Nat), p < 12 → inService s p = true →
    answers .heartbeatSend s fun t => OutMsg.flit p (hbFlit s p) ∈ t.out ∧ (linkOf t p).hbSeq = ((linkOf s p).hbSeq + 1) % 65536 ∧
      s.changesOnly [.out, .fab] t) ∧
  (∀ (s : State) (p : Port) (f : List Byte), inService s p.val = true → hbValid s p.val f = true → lat f 1 1 ≠ 2 → lat f 1 1 ≠ 3 →
    exec (.heartbeat p f) s = .next s) ∧
  (∀ (s : State) (p : Port) (f : List Byte), inService s p.val = true → hbValid s p.val f = true → lat f 1 1 = 2 ∨ lat f 1 1 = 3 →
    s.fab.absent.length < 64 → s.cfg.state ≠ 3 → (∀ c < 8, (ctxOf s c).loaded = true → autoPlough s c = false ∨ fabricJob s c = 0) →
    answers (.heartbeat p f) s fun t => isAbsent t (linkOf s p.val).peer = true) ∧
  (∀ (s : State) (p : Port) (f : List Byte), inService s p.val = false ∨ hbValid s p.val f = false → exec (.heartbeat p f) s = .next s)

/-- R241, R243, R254: a link leaves service or retrains narrower; its twin keeps the neighbour present, and without one the
neighbour goes absent. -/
def Obligations.LinksLeaveService : Prop :=
  (∀ (s : State) (p : Port) (n : Nat), inService s p.val = true → neighbour s p.val = some n → portPresent s (twinOf p.val) = true →
    (linkOf s (twinOf p.val)).prbs = false → s.cfg.state ≠ 3 →
    (answers (.linkDown p) s fun t => (linkOf t p.val).out = true ∧ inService t p.val = false ∧ t.fab.absent = s.fab.absent ∧
      s.changesOnly [.out, .hostMem, .fab, .host, .tel] t) ∧
    answers (.heartbeatTimeout p) s fun t => (linkOf t p.val).out = true ∧ inService t p.val = false ∧ t.fab.absent = s.fab.absent ∧
      s.changesOnly [.out, .hostMem, .fab, .host, .tel] t) ∧
  (∀ (s : State) (p : Port) (n : Nat), inService s p.val = true → neighbour s p.val = some n →
    (∀ q < 12, q ≠ p.val → neighbour s q = some n → portPresent s q = false) → (linkOf s (twinOf p.val)).prbs = false →
    s.cfg.state ≠ 3 → s.fab.absent.length < 64 → (∀ c < 8, (ctxOf s c).loaded = true → autoPlough s c = false ∨ fabricJob s c = 0) →
    (answers (.linkDown p) s fun t => (linkOf t p.val).out = true ∧ isAbsent t n = true) ∧
    answers (.heartbeatTimeout p) s fun t => (linkOf t p.val).out = true ∧ isAbsent t n = true) ∧
  (∀ (s : State) (p : Port) (n : Nat), (linkOf s p.val).state ≠ .up → (linkOf s p.val).out = false → neighbour s p.val = some n →
    portPresent s (twinOf p.val) = true → (linkOf s (twinOf p.val)).prbs = false → s.cfg.state ≠ 3 →
    answers (.linkTrainTimeout p) s fun t => (linkOf t p.val).out = true ∧ t.fab.absent = s.fab.absent ∧
      s.changesOnly [.out, .hostMem, .fab, .host, .tel] t) ∧
  (∀ (s : State) (p : Port) (bad : BitVec 8), inService s p.val = true → (linkOf s (twinOf p.val)).prbs = false →
    (linkOf s p.val).lanes = 0 → (linkOf s p.val).bad = 0 → bad.toNat % 16 = 0 → 0 < bad.toNat / 16 →
    answers (.linkDegraded p bad) s fun t => (linkOf t p.val).state = .equalise ∧ (linkOf t p.val).lanes = 1 ∧ inService t p.val = false ∧
      t.fab.absent = s.fab.absent ∧ s.changesOnly [.out, .hostMem, .fab, .host, .tel] t) ∧
  (∀ (s : State) (p : Port) (bad : BitVec 8), inService s p.val = true → (linkOf s (twinOf p.val)).prbs = false →
    (linkOf s p.val).lanes = 0 → (linkOf s p.val).bad = 0 → 0 < bad.toNat % 16 → bad.toNat / 16 = 0 →
    answers (.linkDegraded p bad) s fun t => (linkOf t p.val).state = .equalise ∧ (linkOf t p.val).lanes = 2 ∧ inService t p.val = false ∧
      t.fab.absent = s.fab.absent ∧ s.changesOnly [.out, .hostMem, .fab, .host, .tel] t) ∧
  (∀ (s : State) (p : Port) (bad : BitVec 8), inService s p.val = true → 0 < bad.toNat % 16 → 0 < bad.toNat / 16 →
    exec (.linkDegraded p bad) s = exec (.linkDown p) (updLink s p.val fun l => { l with bad := l.bad ||| bad.toNat }))

/-- R239: the states of link training in their order, the identity check, and the credits granted at the end. -/
def Obligations.LinkTrainingOrder : Prop :=
  (∀ (s : State) (p : Port) (x n : Nat) (tag : Word), (linkOf s p.val).out = false → (linkOf s p.val).prbs = false → 5 ≤ s.boot.stage → switchbackRuns s = true →
    (linkOf s p.val).state = .detect →
    answers (.linkTrainState p x n tag) s fun t => linkOf t p.val = { linkOf s p.val with state := .equalise } ∧ s.changesOnly [.out, .fab, .host] t) ∧
  (∀ (s : State) (p : Port) (x n : Nat) (tag : Word), (linkOf s p.val).out = false → (linkOf s p.val).prbs = false → 5 ≤ s.boot.stage → switchbackRuns s = true →
    (linkOf s p.val).state = .equalise →
    answers (.linkTrainState p x n tag) s fun t => linkOf t p.val = { linkOf s p.val with state := .align } ∧ t.fab.absent = s.fab.absent ∧ s.changesOnly [.out, .fab, .host] t) ∧
  (∀ (s : State) (p : Port) (x n : Nat) (tag : Word), (linkOf s p.val).out = false → (linkOf s p.val).prbs = false → 5 ≤ s.boot.stage → switchbackRuns s = true →
    (linkOf s p.val).state = .align →
    answers (.linkTrainState p x n tag) s fun t => linkOf t p.val = { linkOf s p.val with state := .ident } ∧
      OutMsg.identity p.val (ownCoord s) p.val (live s 0x7010C) ∈ t.out ∧ s.changesOnly [.out, .fab, .host] t) ∧
  (∀ (s : State) (p : Port) (x n : Nat) (tag : Word), (linkOf s p.val).out = false → (linkOf s p.val).prbs = false → 5 ≤ s.boot.stage → switchbackRuns s = true →
    (linkOf s p.val).state = .ident → identOk s p.val x n tag = true →
    answers (.linkTrainState p x n tag) s fun t => (linkOf t p.val).state = .credit ∧ (linkOf t p.val).peer = x ∧
      (linkOf t p.val).peerPort = n ∧ (linkOf t p.val).tag = tag ∧ isAbsent t x = false ∧ s.changesOnly [.out, .fab, .host, .tel] t) ∧
  (∀ (s : State) (p : Port) (x n : Nat) (tag : Word), (linkOf s p.val).out = false → (linkOf s p.val).prbs = false → 5 ≤ s.boot.stage → switchbackRuns s = true →
    (linkOf s p.val).state = .ident → identOk s p.val x n tag = false → (linkOf s p.val).agreed = false →
    (∃ m, neighbour s p.val = some m) → portPresent s (twinOf p.val) = true → s.cfg.state ≠ 3 →
    answers (.linkTrainState p x n tag) s fun t => (linkOf t p.val).out = true ∧ (linkOf t p.val).state = .ident ∧
      s.changesOnly [.out, .hostMem, .fab, .host] t) ∧
  (∀ (s : State) (p : Port) (x n : Nat) (tag : Word), (linkOf s p.val).out = false → (linkOf s p.val).prbs = false → 5 ≤ s.boot.stage → switchbackRuns s = true →
    (linkOf s p.val).state = .credit → (linkOf s p.val).queue = [] →
    answers (.linkTrainState p x n tag) s fun t => (linkOf t p.val).state = .up ∧ inService t p.val = true ∧
      (∀ v < 8, creditsOn t p.val v = 96) ∧ s.changesOnly [.out, .fab, .host] t)

/-- R210, R240, R485: replays counted, credits returned, and the PRBS test of one link while its twin carries the traffic. Where
the rules leave a point open it follows the model's choice: log 81. -/
def Obligations.ReplayCreditsAndPrbs : Prop :=
  (∀ (s : State) (p : Port) (n : Nat), inService s p.val = true →
    answers (.fecReplay p n) s fun t =>
      mget t.tel.cnt 0 (slnkPage p.val + 0x118) = satAdd64 (mget s.tel.cnt 0 (slnkPage p.val + 0x118)) 1 ∧
      mget t.tel.cnt 0 (slnkPage p.val + 0x120) = satAdd64 (mget s.tel.cnt 0 (slnkPage p.val + 0x120)) 1 ∧
      t.out = s.out ++ [.replayRequest p.val n] ∧ s.changesOnly [.out, .tel] t) ∧
  (∀ (s : State) (p : Port) (v : Fin 8) (n : Nat), inService s p.val = true → (linkOf s p.val).queue = [] →
    answers (.creditReturn p v n) s fun t => creditsOn t p.val v.val = min 96 (creditsOn s p.val v.val + n) ∧
      (∀ w, w ≠ v.val → creditsOn t p.val w = creditsOn s p.val w) ∧ s.changesOnly [.fab] t) ∧
  (∀ (s : State) (p : Port), isReady s = true → inService s p.val = true → inService s (twinOf p.val) = true →
    (∀ q < 12, (linkOf s q).prbs = false) →
    answers (.prbsStart p) s fun t => (linkOf t p.val).prbs = true ∧ (linkOf t p.val).out = true ∧ inService t p.val = false ∧ inService t (twinOf p.val) = true ∧
      s.changesOnly [.out, .hostMem, .fab, .host, .tel] t) ∧
  (∀ (s : State) (p : Port), isReady s = true → inService s (twinOf p.val) = false →
    exec (.prbsStart p) s = .next (accessErr s (slnkPage p.val) 8 4 0x10C)) ∧
  (∀ (s : State) (p : Port), isReady s = true → (linkOf s p.val).prbs = true →
    answers (.prbsStop p) s fun t => (linkOf t p.val).prbs = false ∧ (linkOf t p.val).state = .detect ∧
      s.changesOnly [.out, .fab, .host, .tel] t)

/-- R65 to R68, R71, R74, R231: issue of a descriptor into its queue or against a hold, its start with the header's wait,
and its completion with the header's signal. Where the rules leave a point open it follows the model's choice: log 10. -/
def Obligations.DescriptorLifeCycle : Prop :=
  (∀ (s : State) (t : TileId) (pc addr c : Nat) (k : Desc) (q : DescQueue), tileCtx s t.val = some c → (ctxOf s c).state = .running →
    (seqrOf s t.val).hold = none → (seqrOf s t.val).stepEnd = false → pairRuns s t.val = true → addr % 2 ^ 21 + 64 ≤ storeEnd →
    k = { seq := (seqrOf s t.val).nextSeq, addr := addr % 2 ^ 21, w := wordsOf (storeRead s t.val (addr % 2 ^ 21) 64) } →
    issueReason s c t.val k = none → queueOf k.cls = some q → queueFull (seqrOf s t.val) q = false →
    answers (.descriptorIssue t pc addr) s fun u => (seqrOf u t.val).pc = pc % 2 ^ 21 ∧ (seqrOf u t.val).last = addr % 2 ^ 21 ∧
      (seqrOf u t.val).nextSeq = (seqrOf s t.val).nextSeq + 1 ∧ (seqrOf u t.val).hold = none ∧
      (seqrOf u t.val).descs = (seqrOf s t.val).descs ++ [(stampColl s c k).1] ∧ u.job = (stampColl s c k).2.job ∧ s.changesOnly [.tile, .job] u) ∧
  (∀ (s : State) (t : TileId) (pc addr c : Nat) (k : Desc), tileCtx s t.val = some c → (ctxOf s c).state = .running →
    (seqrOf s t.val).hold = none → (seqrOf s t.val).stepEnd = false → pairRuns s t.val = true → addr % 2 ^ 21 + 64 ≤ storeEnd →
    k = { seq := (seqrOf s t.val).nextSeq, addr := addr % 2 ^ 21, w := wordsOf (storeRead s t.val (addr % 2 ^ 21) 64) } →
    issueReason s c t.val k = none → (match queueOf k.cls with | some q => queueFull (seqrOf s t.val) q | none => true) = true →
    answers (.descriptorIssue t pc addr) s fun u => (seqrOf u t.val).pc = pc % 2 ^ 21 ∧ (seqrOf u t.val).last = addr % 2 ^ 21 ∧
      (seqrOf u t.val).nextSeq = (seqrOf s t.val).nextSeq + 1 ∧ (seqrOf u t.val).hold = some (stampColl s c k).1 ∧
      (seqrOf u t.val).descs = (seqrOf s t.val).descs ∧ u.job = (stampColl s c k).2.job ∧ s.changesOnly [.tile, .job] u) ∧
  (∀ (s : State) (c : Nat) (k : Desc), k.cls ≠ 7 ∨ k.fld 2 31 28 ≠ 2 → stampColl s c k = (k, s)) ∧
  (∀ (s : State) (c : Nat) (k : Desc), k.cls = 7 → k.fld 2 31 28 = 2 → (stampColl s c k).1 = { k with coll := (ctxOf s c).fab.collNext } ∧
    (ctxOf (stampColl s c k).2 c).fab.collNext = (ctxOf s c).fab.collNext + 1) ∧
  (∀ (s : State) (t : TileId) (q : DescQueue) (d : Desc) (c : Nat),
    (inQueue q (seqrOf s t.val).descs).find? (fun e => decide (e.phase = .queued)) = some d → tileCtx s t.val = some c →
    (inQueue q (seqrOf s t.val).descs).countP (fun e => decide (e.phase ≠ .queued)) < queueRuns q → fenceOk (seqrOf s t.val) d = true →
    waitOk s t.val d = true → spinHeld s t.val d = false → pairRuns s t.val = true → tableAddr d = none →
    waitBehind s t.val q d = false →
    answers (.descriptorStart t q) s fun u =>
      (∃ e ∈ (seqrOf u t.val).descs, e.seq = d.seq ∧ e.w = d.w ∧ e.phase = .started) ∧
      (d.bit 0 26 = true → semGet u t.val (d.fld 0 23 16) = semGet s t.val (d.fld 0 23 16) - d.fld 1 31 16) ∧
      s.changesOnly [.sem, .tile] u) ∧
  (∀ (s : State) (t : TileId) (q : DescQueue) (d : Desc), (inQueue q (seqrOf s t.val).descs).head? = some d → d.phase = .done →
    hasLeft s t.val d = true → d.bit 0 25 = false →
    answers (.descriptorComplete t q) s fun u => (∀ e ∈ (seqrOf u t.val).descs, e.seq ≠ d.seq) ∧ u.tile.sem = s.tile.sem ∧
      s.changesOnly [.tile] u) ∧
  (∀ (s : State) (t : TileId) (q : DescQueue) (d : Desc), (inQueue q (seqrOf s t.val).descs).head? = some d → d.phase = .done →
    hasLeft s t.val d = true → d.bit 0 25 = true → semGet s t.val (d.fld 0 15 8) + d.fld 1 15 0 ≤ 0xFFFF →
    answers (.descriptorComplete t q) s fun u => (∀ e ∈ (seqrOf u t.val).descs, e.seq ≠ d.seq) ∧
      semGet u t.val (d.fld 0 15 8) = semGet s t.val (d.fld 0 15 8) + d.fld 1 15 0 ∧ s.changesOnly [.sem, .tile] u)

/-- R72, R93: SEM_WAIT, SEM_SIGNAL and SEM_SET; `s1` is the state once the header's own wait has been taken. -/
def Obligations.SemaphoreDescriptors : Prop :=
  (∀ (s : State) (t : TileId) (c : Nat) (d : Desc) (s1 : State), heldReady s t.val 6 = some (c, d, s1) → d.fld 2 31 30 = 0 →
    d.fld 3 15 0 ≤ semGet s1 t.val (d.fld 2 7 0) → d.bit 0 25 = false →
    answers (.semWait t) s fun u => semGet u t.val (d.fld 2 7 0) = semGet s1 t.val (d.fld 2 7 0) - d.fld 3 15 0 ∧
      (seqrOf u t.val).hold = none ∧ s.changesOnly [.sem, .tile] u) ∧
  (∀ (s : State) (t : TileId) (c : Nat) (d : Desc) (s1 : State), heldReady s t.val 6 = some (c, d, s1) → d.fld 2 31 30 = 0 →
    semGet s1 t.val (d.fld 2 7 0) < d.fld 3 15 0 →
    answers (.semWait t) s fun u => u = s1 ∧ (seqrOf u t.val).hold = some d) ∧
  (∀ (s : State) (t : TileId) (c : Nat) (d : Desc) (s1 : State), heldReady s t.val 6 = some (c, d, s1) → d.fld 2 31 30 = 1 →
    holdsTile s1 c (semTarget t.val d) = true → semGet s1 (semTarget t.val d) (d.fld 2 7 0) + d.fld 3 15 0 ≤ 0xFFFF → d.bit 0 25 = false →
    answers (.semSignal t) s fun u =>
      semGet u (semTarget t.val d) (d.fld 2 7 0) = semGet s1 (semTarget t.val d) (d.fld 2 7 0) + d.fld 3 15 0 ∧
      (seqrOf u t.val).hold = none ∧ s.changesOnly [.sem, .tile] u) ∧
  (∀ (s : State) (t : TileId) (c : Nat) (d : Desc) (s1 : State), heldReady s t.val 6 = some (c, d, s1) → d.fld 2 31 30 = 2 →
    holdsTile s1 c (semTarget t.val d) = true → d.bit 0 25 = false →
    answers (.semSet t) s fun u => semGet u (semTarget t.val d) (d.fld 2 7 0) = d.fld 3 15 0 ∧
      (seqrOf u t.val).hold = none ∧ s.changesOnly [.sem, .tile] u)

/-- R97: arrivals at a barrier, and the release of every waiting tile once the count is reached. -/
def Obligations.Barriers : Prop :=
  (∀ (s : State) (t : TileId) (c : Nat) (d : Desc) (s1 : State), (seqrOf s t.val).descs = [] → heldReady s t.val 8 = some (c, d, s1) →
    scopeOf (d.fld 2 31 30) ≠ .job → barOf s1 c (scopeOf (d.fld 2 31 30)) (scopeInst (scopeOf (d.fld 2 31 30)) t.val) (d.fld 2 29 26) = none →
    answers (.barrier t) s fun u =>
      ⟨c, scopeOf (d.fld 2 31 30), scopeInst (scopeOf (d.fld 2 31 30)) t.val, d.fld 2 29 26, d.fld 2 15 0, [t.val]⟩ ∈ u.tile.bars ∧
      (1 < d.fld 2 15 0 → barOf u c (scopeOf (d.fld 2 31 30)) (scopeInst (scopeOf (d.fld 2 31 30)) t.val) (d.fld 2 29 26) =
        some ⟨c, scopeOf (d.fld 2 31 30), scopeInst (scopeOf (d.fld 2 31 30)) t.val, d.fld 2 29 26, d.fld 2 15 0, [t.val]⟩) ∧
      s.changesOnly [.sem, .tile] u) ∧
  (∀ (s : State) (t : TileId) (c : Nat) (d : Desc) (s1 : State) (b : BarSt), (seqrOf s t.val).descs = [] →
    heldReady s t.val 8 = some (c, d, s1) → scopeOf (d.fld 2 31 30) ≠ .job →
    barOf s1 c (scopeOf (d.fld 2 31 30)) (scopeInst (scopeOf (d.fld 2 31 30)) t.val) (d.fld 2 29 26) = some b → b.tiles.contains t.val = false →
    b.count = d.fld 2 15 0 →
    answers (.barrier t) s fun u => { b with tiles := b.tiles ++ [t.val] } ∈ u.tile.bars ∧
      (b.tiles.length + 1 < b.count → barOf u c (scopeOf (d.fld 2 31 30)) (scopeInst (scopeOf (d.fld 2 31 30)) t.val) (d.fld 2 29 26) =
        some { b with tiles := b.tiles ++ [t.val] }) ∧
      (b.tiles.length + 1 = b.count → barOf u c (scopeOf (d.fld 2 31 30)) (scopeInst (scopeOf (d.fld 2 31 30)) t.val) (d.fld 2 29 26) = none) ∧
      s.changesOnly [.sem, .tile] u) ∧
  (∀ (s : State) (c : Ctx) (sc : BarScope) (inst : Nat) (i : Fin 16) (b : BarSt), barFull s c.val sc inst i.val = some b → sc ≠ .job →
    (∀ x ∈ b.tiles, ∀ d, (seqrOf s x).hold = some d → d.bit 0 25 = false) →
    answers (.barrierRelease c sc inst i) s fun u => u.tile.bars = s.tile.bars.erase b ∧ (∀ x ∈ b.tiles, (seqrOf u x).hold = none) ∧
      s.changesOnly [.tile] u) ∧
  (∀ (s : State) (c : Ctx) (sc : BarScope) (inst : Nat) (i : Fin 16), barFull s c.val sc inst i.val = none →
    exec (.barrierRelease c sc inst i) s = .next s)

/-- R99, R457: an EVENT is accepted into its job's queue, or waits for room there; EVENT_ACCEPT takes the oldest that waits.
Where the rules leave a point open it follows the model's choice: log 78. -/
def Obligations.TileEvents : Prop :=
  (∀ (s : State) (t : TileId) (c : Nat) (d : Desc) (s1 : State), heldReady s t.val 9 = some (c, d, s1) →
    (ctxOf s1 c).evq.waiting = [] → evqSlots s1 c ≠ 0 → evqFull (ctxOf s1 c).evq (evqSlots s1 c) = false →
    d.bit 2 31 = false → d.bit 2 30 = false → d.bit 0 25 = false →
    answers (.event t) s fun u =>
      u.hostMem = s.hostMem.write (rw64 s (jobBase c + 0x80) + 64 * (ctxOf s c).evq.prod)
        (entryBytes (eventOf s c t.val d) (ctxOf s c).evq.phase (ctxOf s c).evq.seq) ∧
      (ctxOf u c).evq.prod = ((ctxOf s c).evq.prod + 1) % evqSlots s c ∧ (seqrOf u t.val).hold = none ∧
      s.changesOnly [.hostMem, .sem, .tile, .job] u) ∧
  (∀ (s : State) (t : TileId) (c : Nat) (d : Desc) (s1 : State), heldReady s t.val 9 = some (c, d, s1) →
    (ctxOf s1 c).evq.waiting = [] → evqSlots s1 c ≠ 0 → evqFull (ctxOf s1 c).evq (evqSlots s1 c) = true →
    answers (.event t) s fun u => (ctxOf u c).evq.waiting = [eventOf s c t.val d] ∧ (seqrOf u t.val).hold = some d ∧
      s.changesOnly [.sem, .tile, .job] u) ∧
  (∀ (s : State) (c : Ctx) (e : Ev) (rest : List Ev), (ctxOf s c.val).evq.waiting = e :: rest → evqSlots s c.val ≠ 0 →
    evqFull (ctxOf s c.val).evq (evqSlots s c.val) = false → e.tile = none → e.irq = false →
    answers (.eventAccept c) s fun u => (ctxOf u c.val).evq.waiting = rest ∧
      u.hostMem = s.hostMem.write (rw64 s (jobBase c.val + 0x80) + 64 * (ctxOf s c.val).evq.prod)
        (entryBytes e (ctxOf s c.val).evq.phase (ctxOf s c.val).evq.seq) ∧ s.changesOnly [.hostMem, .job] u) ∧
  (∀ (s : State) (c : Ctx) (e : Ev) (rest : List Ev), (ctxOf s c.val).evq.waiting = e :: rest → evqSlots s c.val ≠ 0 →
    evqFull (ctxOf s c.val).evq (evqSlots s c.val) = true → exec (.eventAccept c) s = .next s)

/-- R78, R79, R92: a DMA moves its rows between device memory or scratch and the tile store; a JOINT moves its rows to the
neighbour's store. Every byte that is not moved stays. It is said of a descriptor on whose lines no other unit works (R62).
Where the rules leave a point open it follows the model's choice: log 11, 89, 97. -/
def Obligations.RowsMoved : Prop :=
  (∀ (s : State) (t : TileId) (i : Nat) (d : Desc) (c : Nat), pickDesc s t.val 1 i = some d → tileCtx s t.val = some c →
    s.quietWork t.val d → d.wait = none → (dmaOf d).grout = false → (dmaOf d).out = false →
    (∀ r ∈ dmaRows (dmaOf d), extFault s c t.val (dmaOf d) r.1 (dmaOf d).rb = none ∧ extPoison s (dmaOf d) r.1 (dmaOf d).rb = none) →
    answers (.dma t i) s fun u =>
      (∀ e a, dmaRows (dmaOf d) = [(e, a)] → storeRead u t.val a (dmaOf d).rb = extBytes s c t.val (dmaOf d) e (dmaOf d).rb) ∧
      (∀ x, (∀ r ∈ dmaRows (dmaOf d), ¬ (2 ^ 21 * t.val + r.2 ≤ x ∧ x < 2 ^ 21 * t.val + r.2 + (dmaOf d).rb)) → u.tile.store.get x = s.tile.store.get x) ∧
      (∃ e ∈ (seqrOf u t.val).descs, e.seq = d.seq ∧ e.phase = .done) ∧ s.changesOnly [.mem, .store, .tile, .tel] u) ∧
  (∀ (s : State) (t : TileId) (i : Nat) (d : Desc) (c : Nat), pickDesc s t.val 1 i = some d → tileCtx s t.val = some c →
    s.quietWork t.val d → d.wait = none → (dmaOf d).grout = false → (dmaOf d).out = true → (dmaOf d).scratch = false →
    (∀ r ∈ dmaRows (dmaOf d), extFault s c t.val (dmaOf d) r.1 (dmaOf d).rb = none) →
    answers (.dma t i) s fun u => (∃ e ∈ (seqrOf u t.val).descs, e.seq = d.seq ∧ e.phase = .done) ∧
      (∀ e a, dmaRows (dmaOf d) = [(e, a)] → e + (dmaOf d).rb ≤ 0x9000000000 → devRead u e (dmaOf d).rb = storeRead s t.val a (dmaOf d).rb) ∧
      (∀ x, (∀ r ∈ dmaRows (dmaOf d), ∀ j < (dmaOf d).rb, devAddr x ≠ devAddr (r.1 + j)) → devGet u x = devGet s x) ∧
      s.changesOnly [.dev, .mem, .tile] u) ∧
  (∀ (s : State) (t : TileId) (i : Nat) (d : Desc) (c : Nat), pickDesc s t.val 1 i = some d → tileCtx s t.val = some c →
    s.quietWork t.val d → d.wait = none → (dmaOf d).grout = false → (dmaOf d).out = true → (dmaOf d).scratch = true →
    (∀ r ∈ dmaRows (dmaOf d), extFault s c t.val (dmaOf d) r.1 (dmaOf d).rb = none) →
    answers (.dma t i) s fun u => (∃ e ∈ (seqrOf u t.val).descs, e.seq = d.seq ∧ e.phase = .done) ∧
      (∀ e a, dmaRows (dmaOf d) = [(e, a)] → extBytes u c t.val (dmaOf d) e (dmaOf d).rb = storeRead s t.val a (dmaOf d).rb) ∧
      (∀ x, (∀ r ∈ dmaRows (dmaOf d), ∀ j < (dmaOf d).rb, x ≠ scratchKey c (tileDie t.val) (r.1 + j)) → u.mem.scratch.get x = s.mem.scratch.get x) ∧
      s.changesOnly [.scratch, .tile] u) ∧
  (∀ (s : State) (t : TileId) (i : Nat) (d : Desc), pickDesc s t.val 1 i = some d → (∃ c, tileCtx s t.val = some c) → s.quietWork t.val d → d.wait.isSome = true →
    exec (.dma t i) s = .next s) ∧
  (∀ (s : State) (t : TileId) (d : Desc) (c n : Nat), pickDesc s t.val 5 0 = some d → tileCtx s t.val = some c →
    jointNeighbour t.val (d.fld 2 31 30) = some n → holdsTile s c n = true → s.quietWork t.val d →
    d.bit 2 29 = false ∨ semGet s n (d.fld 2 28 21) + d.fld 4 15 0 ≤ 0xFFFF →
    answers (.joint t) s fun u =>
      (d.fld 4 31 16 = 1 → storeRead u n (d.sa 3) (d.sa 5) = storeRead s t.val (d.sa 2) (d.sa 5)) ∧
      (∀ x, (∀ r < d.fld 4 31 16, ¬ (2 ^ 21 * n + (d.sa 3 + r * d.sa 7) ≤ x ∧ x < 2 ^ 21 * n + (d.sa 3 + r * d.sa 7) + d.sa 5)) →
        u.tile.store.get x = s.tile.store.get x) ∧
      (d.bit 2 29 = true → semGet u n (d.fld 2 28 21) = semGet s n (d.fld 2 28 21) + d.fld 4 15 0) ∧
      (∃ e ∈ (seqrOf u t.val).descs, e.seq = d.seq ∧ e.phase = .done) ∧
      s.changesOnly [.store, .sem, .tile] u)

/-- R38 to R48, R80, R81, R103: what a MATMUL without stochastic rounding writes, row by row, from operands read before it
writes; and the drawing of spin bits in counted mode. Where the rules leave a point open it follows the model's choice: log
11, 90, 97. -/
def Obligations.MatmulAndConvResults : Prop :=
  (∀ (s : State) (t : TileId) (d : Desc), pickDesc s t.val 2 0 = some d → s.quietWork t.val d → d.bit 8 28 = false →
    (∀ j < d.fld 6 31 16, ∀ i < j,
      d.sa 4 + i * d.sa 10 + (convRun (convOf d 8 13) ((matmulRow s t.val d
        ((List.range (d.fld 6 15 0)).map fun k => readElems s t.val (engOf d).fb (d.sa 3 + k * d.sa 9) (d.fld 7 31 16)) i).1.map fun w => (w, none))).bytes.length
        ≤ d.sa 4 + j * d.sa 10) →
    answers (.matmul t) s fun u =>
      (∀ i < d.fld 6 31 16,
        (let row := (convRun (convOf d 8 13) ((matmulRow s t.val d
          ((List.range (d.fld 6 15 0)).map fun k => readElems s t.val (engOf d).fb (d.sa 3 + k * d.sa 9) (d.fld 7 31 16)) i).1.map fun w => (w, none))).bytes
         storeRead u t.val (d.sa 4 + i * d.sa 10) row.length = row)) ∧
      (∃ e ∈ (seqrOf u t.val).descs, e.seq = d.seq ∧ e.phase = .done) ∧
      s.changesOnly [.store, .tile, .job, .tel] u) ∧
  (∀ (s : State) (t : TileId) (d : Desc), pickDesc s t.val 3 0 = some d → s.quietWork t.val d → d.bit 8 28 = false → (geoOf d).outRows = 1 → (geoOf d).outW = 1 →
    answers (.conv t) s fun u =>
      (let px := padTo (rowBytes (fmtCode (engOf d).fc) (geoOf d).outC)
        (convRun (convOf d 8 12) ((convPixel s t.val d 0 0).1.map fun w => (w, none))).bytes
       storeRead u t.val (d.sa 4) px.length = px) ∧
      (∃ e ∈ (seqrOf u t.val).descs, e.seq = d.seq ∧ e.phase = .done) ∧
      s.changesOnly [.store, .tile, .job, .tel] u) ∧
  (∀ (s : State) (t : TileId) (d : Desc), pickDesc s t.val 3 0 = some d → s.quietWork t.val d →
    answers (.conv t) s fun u => (∃ e ∈ (seqrOf u t.val).descs, e.seq = d.seq ∧ e.phase = .done) ∧
      s.changesOnly [.store, .tile, .job, .tel] u)

/-- R86 to R88: a VEC of one lane-wise microinstruction writes that one register of the tile. Where the rules leave a point open
it follows the model's choice: log 76. -/
def Obligations.VectorLaneOperations : Prop :=
  (∀ (s : State) (t : TileId) (d : Desc) (c x : Nat) (lanes : List Word), pickDesc s t.val 4 0 = some d → tileCtx s t.val = some c →
    s.quietWork t.val d → vecProgram s t.val d = [x] → d.fld 3 15 0 = 1 → (microOf x).op ∈ [0x03, 0x04, 0x05, 0x06, 0x07, 0x08, 0x09, 0x0A, 0x0B, 0x0C, 0x0D, 0x0E, 0x0F, 0x13] →
    (List.zip (vget s t.val (microOf x).va) (List.zip (vget s t.val (microOf x).vb) (vget s t.val (microOf x).vc))).map
      (fun p => laneOp (microOf x) p.1 p.2.1 p.2.2) = lanes.map some →
    answers (.vec t) s fun u => vget u t.val (microOf x).vd = lanes ∧
      (∀ v < 32, v ≠ (microOf x).vd → vget u t.val v = vget s t.val v) ∧
      (∃ e ∈ (seqrOf u t.val).descs, e.seq = d.seq ∧ e.phase = .done) ∧ s.changesOnly [.vreg, .tile] u) ∧
  (∀ (s : State) (t : TileId) (d : Desc) (c x : Nat), pickDesc s t.val 4 0 = some d → tileCtx s t.val = some c →
    s.quietWork t.val d → vecProgram s t.val d = [x] → d.fld 3 15 0 = 1 → (microOf x).op = 0x01 → (microOf x).sub = 0 → (microOf x).va = 0 → (microOf x).imm = 0 →
    d.sa 4 + 512 ≤ storeEnd →
    answers (.vec t) s fun u => vget u t.val (microOf x).vd = (readElems s t.val .fp32 (d.sa 4) 128).map (vldElem .fp32) ∧
      s.changesOnly [.vreg, .tile] u)

/-- R100 to R103: in counted mode a generator stands still until a lane is consumed, and each consumption advances it once.
Where the rules leave a point open it follows the model's choice: log 90. -/
def Obligations.CountedSpinGenerators : Prop :=
  (∀ (s : State) (t j k : Nat), counted s (t / 16) = true → j < 128 →
    spinRead (spinConsume s t j k) t j =
      spinOut (spinN k (spinN ((courseOf s (t / 16)).spinClk + mget s.tile.spinUse 0 (128 * t + j)) (spinLoad (128 * t + j) (courseOf s (t / 16)).seed)))) ∧
  (∀ (s : State) (t j u i k : Nat), counted s (t / 16) = true → j < 128 → i < 128 → u ≠ t ∨ i ≠ j →
    spinRead (spinConsume s t j k) u i = spinRead s u i) ∧
  (∀ (s : State) (p t j : Nat), counted s (t / 16) = true → spinRead (clockTick s p) t j = spinRead s t j) ∧
  (∀ (s : State) (n seed t j : Nat), t / 16 = n → j < 128 → spinRead (spinReload s n seed) t j = spinOut (spinLoad (128 * t + j) seed))

/-- R211: the axis a packet takes is the first, of X, Y and Z, on which it is not at its destination, and the direction is the
one of the table; at its destination it takes none. Where the rules leave a point open it follows the model's choice: log 12. -/
def Obligations.DimensionOrder : Prop :=
  (∀ s : State, routeDir s (ownCoord s) = none) ∧
  (∀ (s : State) (dst a d : Nat), routeDir s dst = some (a, d) →
    a < 3 ∧ coordAx dst a ≠ coordAx (ownCoord s) a ∧ (∀ b < a, coordAx dst b = coordAx (ownCoord s) b) ∧
    (wrapOn s a = true → ∀ k e, e = extent s a → k = (coordAx dst a + e - coordAx (ownCoord s) a % e) % e →
      (k < e - k → d = 0) ∧ (e - k < k → d = 1) ∧ (k = e - k → d = coordAx (ownCoord s) a % 2)) ∧
    (wrapOn s a = false → (coordAx (ownCoord s) a < coordAx dst a → d = 0) ∧ (coordAx dst a < coordAx (ownCoord s) a → d = 1)))

/-- R212: of the two links of a direction, the one with more free credits on the packet's VC, and a on a tie; the other one
where one is out. -/
def Obligations.LinkOfADirection : Prop :=
  ∀ (s : State) (a d vc : Nat),
    (usable s (4 * a + 2 * d) = true → usable s (4 * a + 2 * d + 1) = true →
      creditsOn s (4 * a + 2 * d) vc < creditsOn s (4 * a + 2 * d + 1) vc → pickPort s a d vc = some (4 * a + 2 * d + 1)) ∧
    (usable s (4 * a + 2 * d) = true → usable s (4 * a + 2 * d + 1) = true →
      creditsOn s (4 * a + 2 * d + 1) vc ≤ creditsOn s (4 * a + 2 * d) vc → pickPort s a d vc = some (4 * a + 2 * d)) ∧
    (usable s (4 * a + 2 * d) = true → usable s (4 * a + 2 * d + 1) = false → pickPort s a d vc = some (4 * a + 2 * d)) ∧
    (usable s (4 * a + 2 * d) = false → usable s (4 * a + 2 * d + 1) = true → pickPort s a d vc = some (4 * a + 2 * d + 1)) ∧
    (usable s (4 * a + 2 * d) = false → usable s (4 * a + 2 * d + 1) = false → pickPort s a d vc = none)

/-- R203, R211: each hop in the direction of dimension order brings a packet one hop nearer to its destination. Where the rules
leave a point open it follows the model's choice: log 12. -/
def Obligations.RoutesMakeProgress : Prop :=
  ∀ (s : State) (dst a d port n : Nat), inSystem s (ownCoord s) = true → inSystem s dst = true → dst < 0x8000 → routeDir s dst = some (a, d) →
    port = 4 * a + 2 * d ∨ port = 4 * a + 2 * d + 1 → neighbour s port = some n →
    hopsBetween s n dst + 1 = hopsBetween s (ownCoord s) dst

/-- R206, R209 to R214: what PACKET_FORWARD does with a packet, from a port of the part or its own: it is delivered, it leaves on
a port, waits for credits there, sidesteps a direction that is blocked, or is discarded. The credits of a packet that came in by
a port go back to that port once the packet has gone on. -/
def Obligations.PacketForwarding : Prop :=
  (∀ (s : State) (i : Option Port) (p : Packet), 0 < p.ty → p.ty < 0x0C → isAbsent s p.dst = false → p.dst = ownCoord s →
    answers (.packetForward i p) s fun t =>
      t.out = s.out ++ .packet none p :: (i.toList.map fun q => .credit q.val p.vc (flits p)) ∧
      (∀ q v, mget (linkOf t q).inUse 0 v = mget (linkOf s q).inUse 0 v) ∧ (i = none → t = { s with out := t.out }) ∧ s.changesOnly [.out, .fab] t) ∧
  (∀ (s : State) (i : Option Port) (p : Packet) (a d n : Nat), 0 < p.ty → p.ty < 0x0C → p.ty ≠ 0x0A → isAbsent s p.dst = false →
    routeDir s p.dst = some (a, d) → pickPort s a d p.vc = some n → (∀ x ∈ (linkOf s n).queue, x.p.vc ≠ p.vc) →
    creditNeed p (decide (i.map (fun x => x.val / 4) = some a)) ≤ creditsOn s n p.vc →
    answers (.packetForward i p) s fun t =>
      t.out = s.out ++ .packet (some n) p :: (i.toList.map fun q => .credit q.val p.vc (flits p)) ∧
      creditsOn t n p.vc = creditsOn s n p.vc - flits p ∧ (linkOf t n).queue = (linkOf s n).queue ∧
      (∀ q v, mget (linkOf t q).inUse 0 v = mget (linkOf s q).inUse 0 v) ∧ s.changesOnly [.out, .fab] t) ∧
  (∀ (s : State) (i : Option Port) (p : Packet) (a d n : Nat), 0 < p.ty → p.ty < 0x0C → p.ty ≠ 0x0A → isAbsent s p.dst = false →
    routeDir s p.dst = some (a, d) → pickPort s a d p.vc = some n →
    (∃ x ∈ (linkOf s n).queue, x.p.vc = p.vc) ∨ creditsOn s n p.vc < creditNeed p (decide (i.map (fun x => x.val / 4) = some a)) →
    answers (.packetForward i p) s fun t => t.out = s.out ∧
      (linkOf t n).queue = (linkOf s n).queue ++
        [{ p := p, cont := decide (i.map (fun x => x.val / 4) = some a), inp := i.map fun q => (q.val, p.vc) }] ∧
      (∀ q : Port, i = some q → mget (linkOf t q.val).inUse 0 p.vc = mget (linkOf s q.val).inUse 0 p.vc + flits p) ∧ s.changesOnly [.fab] t) ∧
  (∀ (s : State) (i : Option Port) (p : Packet) (a d n : Nat), 0 < p.ty → p.ty < 0x0C → p.ty ≠ 0x0A → isAbsent s p.dst = false →
    routeDir s p.dst = some (a, d) → pickPort s a d p.vc = none → p.side < 2 →
    (sideOrder a).findSome? (fun x => pickPort s x.1 x.2 6) = some n → (∀ x ∈ (linkOf s n).queue, x.p.vc ≠ 6) → flits p ≤ creditsOn s n 6 →
    answers (.packetForward i p) s fun t =>
      t.out = s.out ++ .packet (some n) { p with vc := 6, side := p.side + 1 } :: (i.toList.map fun q => .credit q.val p.vc (flits p)) ∧
      creditsOn t n 6 = creditsOn s n 6 - flits p ∧ s.changesOnly [.out, .fab] t) ∧
  (sideOrder 0 = [(1, 0), (1, 1), (2, 0), (2, 1)] ∧ sideOrder 1 = [(2, 0), (2, 1), (0, 0), (0, 1)] ∧
    sideOrder 2 = [(0, 0), (0, 1), (1, 0), (1, 1)]) ∧
  (∀ (s : State) (i : Option Port) (p : Packet), (p.ty = 0 ∨ 0x0C ≤ p.ty) ∨ (isAbsent s p.dst = true ∧ reportOf s p 5 = none) →
    answers (.packetForward i p) s fun t => t.out = s.out ++ (i.toList.map fun q => .credit q.val p.vc (flits p)) ∧
      mget t.tel.cnt 0 0x70130 = satAdd64 (mget s.tel.cnt 0 0x70130) 1 ∧ (∀ q v, mget (linkOf t q).inUse 0 v = mget (linkOf s q).inUse 0 v) ∧
      (i = none → s.changesOnly [.tel] t) ∧ s.changesOnly [.out, .fab, .tel] t)

/-- R15, R94, R95, R206, R218, R219, R222: a put sends its burst and is done when the burst is injected; a get asks for its
bytes; each holds a fabric tag until it is answered. TAG_GRANT lets the first that waits go on. Where the rules leave a
point open it follows the model's choice: log 15, 16, 70, 89, 97. -/
def Obligations.PutsAndGets : Prop :=
  (∀ (s : State) (t : TileId) (i c : Nat) (d : Desc), pickDesc s t.val 7 i = some d → tileCtx s t.val = some c → d.fld 2 31 28 = 0 →
    d.prog = 0 → 0 < fabLen d → fabLen d ≤ 16384 → d.bit 8 31 = false → inStore d = true → jobTagFree s c = true →
    answers (.fabPut t i) s fun u =>
      (ctxOf u c).fab.bursts = (ctxOf s c).fab.bursts ++
        [⟨freeTag s, (ctxOf s c).step, 0, t.val, d.seq, toPhys s (fabTarget d), remoteAddr d, fabLen d⟩] ∧
      (mget (ctxOf u c).fab.epochs {} (ctxOf s c).step).issued = (mget (ctxOf s c).fab.epochs {} (ctxOf s c).step).issued + 1 ∧
      u.fab.tags = s.fab.tags ++ [(freeTag s, c)] ∧ (∃ e ∈ (seqrOf u t.val).descs, e.seq = d.seq ∧ e.phase = .done) ∧
      s.changesOnly [.out, .tile, .job, .fab, .tel] u) ∧
  (∀ (s : State) (t : TileId) (i c : Nat) (d : Desc), pickDesc s t.val 7 i = some d → tileCtx s t.val = some c → d.fld 2 31 28 = 0 →
    s.mem.upsets = [] ∨ inStore d = true → d.prog < fabLen d → jobTagFree s c = false →
    answers (.fabPut t i) s fun u => u.fab.tags = s.fab.tags ∧ u.out = s.out ∧ s.changesOnly [.tile] u) ∧
  (∀ (s : State) (t : TileId) (i c : Nat) (d : Desc), pickDesc s t.val 7 i = some d → tileCtx s t.val = some c → d.fld 2 31 28 = 1 →
    d.prog = 0 → 0 < fabLen d → fabLen d ≤ 4096 → jobTagFree s c = true →
    answers (.fabGet t i) s fun u =>
      (ctxOf u c).fab.gets = (ctxOf s c).fab.gets ++ [⟨freeTag s, t.val, d.seq, toPhys s (fabTarget d), inStore d, localAddr d, fabLen d, 0⟩] ∧
      u.fab.tags = s.fab.tags ++ [(freeTag s, c)] ∧ s.changesOnly [.out, .tile, .job, .fab, .tel] u) ∧
  (∀ (s : State) (c : Ctx) (t : Nat) (d : Desc),
    (tilesOf (ctxOf s c.val).man).findSome? (fun x => ((seqrOf s x).descs.find? fabWaits).map fun y => (x, y)) = some (t, d) →
    tileCtx s t = some c.val → d.fld 2 31 28 = 1 → fabLen d ≤ d.prog + 4096 → jobTagFree s c.val = true →
    answers (.tagGrant (.fabric c)) s fun u =>
      (ctxOf u c.val).fab.gets = (ctxOf s c.val).fab.gets ++ [⟨freeTag s, t, d.seq, toPhys s (fabTarget d), inStore d, localAddr d + d.prog, fabLen d - d.prog, 0⟩] ∧
      s.changesOnly [.out, .tile, .job, .fab, .tel] u) ∧
  (∀ (s : State) (k : StackId) (t : Nat) (d : Desc), tagWaiter s k.val = some (t, d) → d ∈ (seqrOf s t).descs → memTagsUsed s k.val < 4096 →
    answers (.tagGrant (.memory k)) s fun u => (∃ e ∈ (seqrOf u t).descs, e.seq = d.seq ∧
      e.tags = (memAsk s d.tags (dmaStacks d)).1 ∧ e.wait = (memAsk s d.tags (dmaStacks d)).2) ∧ s.changesOnly [.tile] u) ∧
  (∀ (s : State) (k : StackId), tagWaiter s k.val = none ∨ 4096 ≤ memTagsUsed s k.val → exec (.tagGrant (.memory k)) s = .next s)

/-- R219, R220: bytes of a posted write land at their address and nowhere else, a refused packet writes nothing, and a read
answers with the bytes asked for. Where the rules leave a point open it follows the model's choice: log 70, 97. -/
def Obligations.RemoteWritesAndReads : Prop :=
  (∀ (s : State) (p : Packet) (c : Nat), s.mem.upsets = [] → p.ty = 1 → p.dst = ownCoord s → (rxOf s p).refused = false → (rxOf s p).units = none →
    packetCause s p 3 p.payload.length none = none → targetCtx s p = some c → p.payload.length + p.addr ≤ 0x9000000000 →
    answers (.write p) s fun t => devRead t p.addr p.payload.length = p.payload ∧
      (∀ x, (∀ i < p.payload.length, devAddr x ≠ devAddr (p.addr + i)) → devGet t x = devGet s x) ∧ s.changesOnly [.dev, .mem, .fab] t) ∧
  (∀ (s : State) (p : Packet) (c : Nat), s.mem.upsets = [] → p.ty = 2 → p.dst = ownCoord s → p.aux.msb = false → (rxOf s p).refused = false →
    fld p.aux 14 0 = cdiv ((rxOf s p).got + p.payload.length) 64 →
    packetCause s p 3 p.payload.length none = none → targetCtx s p = some c → p.payload.length + p.addr ≤ 0x9000000000 →
    answers (.writeLast p) s fun t => devRead t p.addr p.payload.length = p.payload ∧
      (∀ x, (∀ i < p.payload.length, devAddr x ≠ devAddr (p.addr + i)) → devGet t x = devGet s x) ∧
      (∀ r ∈ t.fab.rx, ¬ (r.src = p.src ∧ r.tag = p.tag)) ∧ s.changesOnly [.out, .dev, .mem, .fab, .tel] t) ∧
  (∀ (s : State) (p : Packet) (k x : Nat), s.mem.upsets = [] → p.ty = 1 → p.dst = ownCoord s → (rxOf s p).refused = false →
    packetCause s p 3 p.payload.length none = some (k, x) →
    answers (.write p) s fun t => t.mem = s.mem ∧ s.changesOnly [.out, .fab, .tel] t) ∧
  (∀ (s : State) (p : Packet), s.mem.upsets = [] → p.ty = 5 → p.dst = ownCoord s → 0 < p.aux.toNat → p.aux.toNat ≤ 512 → packetCause s p 2 p.aux.toNat none = none →
    exec (.readReq p) s = .next (inject s (responseTo s p 6 0 (devRead s p.addr p.aux.toNat)))) ∧
  (∀ (s : State) (p : Packet) (k x : Nat), s.mem.upsets = [] → p.ty = 5 → p.dst = ownCoord s → packetCause s p 2 p.aux.toNat none = some (k, x) →
    exec (.readReq p) s = .next (inject s (responseTo s p 7 (BitVec.ofNat 32 k) [])))

/-- R218, R219, R221, R222: a response ends its burst or brings a get its bytes; READ_NAK and the get timeout end the job. Where
the rules leave a point open it follows the model's choice: log 70. -/
def Obligations.ResponsesToTheInitiator : Prop :=
  (∀ (s : State) (p : Packet) (c : Nat) (b : Burst), ctxOfTag s p.fabricJob p.tag = some c → burstOf s c p = some b →
    b.source = 2 ∨ (b.source = 0 ∧ (seqrOf s b.tile).descs.find? (fun d => decide (d.seq = b.seq) && fabWaits d) = none) →
    (ctxOf s c).bnd.phase ≠ .awaitPosted →
    answers (.ack p) s fun t => (∀ x ∈ (ctxOf t c).fab.bursts, x.tag ≠ p.tag) ∧ (∀ x ∈ t.fab.tags, x.1 ≠ p.tag) ∧
      mget (ctxOf t c).fab.epochs {} b.step =
        { mget (ctxOf s c).fab.epochs {} b.step with done := (mget (ctxOf s c).fab.epochs {} b.step).done + 1 } ∧
      s.changesOnly [.job, .fab] t) ∧
  (∀ (s : State) (p : Packet) (c : Nat) (b : Burst), ctxOfTag s p.fabricJob p.tag = some c → burstOf s c p = some b →
    b.source = 2 ∨ (b.source = 0 ∧ (seqrOf s b.tile).descs.find? (fun d => decide (d.seq = b.seq) && fabWaits d) = none) →
    (ctxOf s c).bnd.phase ≠ .awaitPosted → (ctxOf s c).fab.late.length < 256 →
    answers (.lateWrite p) s fun t => (∀ x ∈ (ctxOf t c).fab.bursts, x.tag ≠ p.tag) ∧
      (ctxOf t c).fab.late = (ctxOf s c).fab.late ++ [lateRecord b p.payload] ∧
      (mget (ctxOf t c).fab.epochs {} b.step).late = (mget (ctxOf s c).fab.epochs {} b.step).late + 1 ∧
      s.changesOnly [.job, .fab] t) ∧
  (∀ (s : State) (p : Packet) (c : Nat) (g : GetReq), getOf s p = some (c, g) → g.toStore = true →
    answers (.readData p) s fun t => storeRead t g.tile (g.laddr + p.aux.toNat) p.payload.length = p.payload ∧
      (g.bytes ≤ g.got + p.payload.length → ∀ x ∈ (ctxOf t c).fab.gets, x.tag ≠ g.tag) ∧ s.changesOnly [.store, .tile, .job, .fab] t) ∧
  (∀ (s : State) (p : Packet) (c : Nat) (g : GetReq), getOf s p = some (c, g) → (ctxOf s c).loaded = true →
    answers (.readNak p) s fun t => (ctxOf t c).state = .tornDown ∧ (ctxOf t c).fab.gets = []) ∧
  (∀ (s : State) (c : Ctx) (tag : Nat) (g : GetReq), (ctxOf s c.val).fab.gets.find? (fun y => decide (y.tag = tag)) = some g →
    (ctxOf s c.val).loaded = true →
    answers (.getTimeout c tag) s fun t => (ctxOf t c.val).state = .tornDown ∧ (ctxOf t c.val).fab.gets = [])

/-- R230, R231: the start of a collective instance, a piece that a running one awaits, and the timeout. Where the rules leave a
point open it follows the model's choice: log 66. -/
def Obligations.CollectiveInstances : Prop :=
  (∀ (s : State) (t : TileId) (i c : Nat) (d : Desc) (e : List Byte), pickDesc s t.val 7 i = some d → tileCtx s t.val = some c →
    d.fld 2 31 28 = 2 → (ctxOf s c).fab.insts = [] → (ctxOf s c).fab.collHeld = [] → (firstColl s c).map (fun y => y.1) = some d.coll → s.mem.upsets = [] →
    (ctxOf s c).man.colls.getD (d.fld 10 31 16) [] = e →
    regionCheck (ctxOf s c).man 0 (cSource e (d.fld 10 15 0)).1 (cSource e (d.fld 10 15 0)).2 = none →
    regionCheck (ctxOf s c).man 1 (cResult e (d.fld 10 15 0)).1 (cResult e (d.fld 10 15 0)).2 = none →
    poisonedAt s (cSource e (d.fld 10 15 0)).1 (cSource e (d.fld 10 15 0)).2 = none →
    answers (.fabCollectiveStep t i) s fun u =>
      (ctxOf u c).fab.insts = [⟨d.fld 10 31 16, d.fld 10 15 0, t.val, d.seq, cPend e (cRanks s c e) (cOwn s c e),
        cBuf e (cOwn s c e) (devRead s (cSource e (d.fld 10 15 0)).1 (cSource e (d.fld 10 15 0)).2)⟩] ∧
      s.changesOnly [.out, .job, .fab, .tel] u) ∧
  (∀ (s : State) (p : Packet) (axis : Fin 3) (off c : Nat) (i : CollInst), p.ty = 8 → p.dst = ownCoord s → ctxOfFabricJob s p.fabricJob = some c →
    exchanges s c = false → (ctxOf s c).fab.collHeld = [] → (ctxOf s c).fab.insts.find? (fun y => decide (y.id = fld p.aux 31 16 ∧ y.step = fld p.aux 15 0)) = some i →
    4 ≤ cKind ((ctxOf s c).man.colls.getD i.id []) → i.pend.contains (axis.val, off, p.payload.length) = true → cReady i axis.val off = true →
    i.pend.erase (axis.val, off, p.payload.length) ≠ [] →
    answers (.coll p axis off) s fun t =>
      (∃ j ∈ (ctxOf t c).fab.insts, j.id = i.id ∧ j.step = i.step ∧ j.pend = i.pend.erase (axis.val, off, p.payload.length) ∧
        j.buf = i.buf.take off ++ p.payload ++ i.buf.drop (off + p.payload.length)) ∧ s.changesOnly [.job] t) ∧
  (∀ (s : State) (c : Ctx) (k n : Nat), (ctxOf s c.val).fab.insts.any (fun i => decide (i.id = k ∧ i.step = n)) = true → (ctxOf s c.val).loaded = true →
    answers (.collectiveTimeout c k n) s fun t => (ctxOf t c.val).state = .tornDown ∧ (ctxOf t c.val).fab.insts = [])

/-- R248, R255 to R258: what the notices of the fabric do here. Where the rules leave a point open it follows the model's
choice: log 26, 78. -/
def Obligations.FabricNotices : Prop :=
  (∀ (s : State) (port : Port) (p : Packet), s.boot.resetting = false → isNotice s p 0x10 = true → s.fab.absent.length < 64 → s.cfg.state ≠ 3 →
    (∀ c < 8, (ctxOf s c).loaded = true → autoPlough s c = false ∨ fabricJob s c = 0) →
    answers (.absentNotice port p) s fun t => isAbsent t (lat p.payload 0 2) = true) ∧
  (∀ (s : State) (port : Port) (p : Packet), s.boot.resetting = false → isNotice s p 0x11 = true →
    answers (.presentNotice port p) s fun t => isAbsent t (lat p.payload 0 2) = false ∧ s.changesOnly [.out, .fab, .tel] t) ∧
  (∀ (s : State) (port : Port) (p : Packet) (c : Nat), s.boot.resetting = false → isNotice s p 0x12 = true → hasKey s 0x12 (lat p.payload 0 2) 0 = false →
    ctxOfFabricJob s (lat p.payload 0 2) = some c → autoPlough s c = true → (ctxOf s c).state = .running → (ctxOf s c).plough = none →
    (ctxOf s c).bnd.phase = .none →
    answers (.jobLostNotice port p) s fun t => (ctxOf t c).state = .parked) ∧
  (∀ (s : State) (port : Port) (p : Packet), s.boot.resetting = false → isNotice s p 0x12 = true → hasKey s 0x12 (lat p.payload 0 2) 0 = true →
    exec (.jobLostNotice port p) s = .next s) ∧
  (∀ (s : State) (port : Port) (p : Packet) (c : Nat), s.boot.resetting = false → isNotice s p 0x13 = true → hasKey s 0x13 (lat p.payload 0 2) 0 = false →
    lat p.payload 4 1 = 0 → ctxOfFabricJob s (lat p.payload 0 2) = some c → (ctxOf s c).state = .running → (ctxOf s c).plough = none →
    (ctxOf s c).stepIn = true →
    answers (.ploughNotice port p) s fun t => (ctxOf t c).state = .running ∧ (ctxOf t c).plough = some .finish ∧
      s.changesOnly [.out, .job, .fab, .tel] t) ∧
  (∀ (s : State) (port : Port) (p : Packet) (m : Nat), s.boot.resetting = false → isNotice s p 0x13 = true → lat p.payload 4 1 = m → hasKey s 0x13 (lat p.payload 0 2) m = true →
    exec (.ploughNotice port p) s = .next s) ∧
  (∀ (s : State) (port : Port) (p : Packet), s.boot.resetting = true →
    exec (.absentNotice port p) s = .next (countDiscard s) ∧ exec (.presentNotice port p) s = .next (countDiscard s) ∧
      exec (.jobLostNotice port p) s = .next (countDiscard s) ∧ exec (.ploughNotice port p) s = .next (countDiscard s)) ∧
  (∀ (s : State) (p : Packet), exec (.fw p) s = .next s)

/-- R349 to R351, R354, R222: the end of the drain, the local check, and its timeouts. Where the rules leave a point open it
follows the model's choice: log 19, 59. -/
def Obligations.DrainAndLocalCheck : Prop :=
  (∀ (s : State) (c : Ctx), (ctxOf s c.val).state = .draining → (ctxOf s c.val).bnd.phase = .drain → drained s c.val = true →
    semMismatch s c.val = none → s.tile.bars.find? (fun b => decide (b.ctx = c.val)) = none →
    0 < outstanding (ctxOf s c.val) (ctxOf s c.val).step →
    answers (.drainEnd c) s fun t => (ctxOf t c.val).bnd.phase = .awaitPosted ∧ (ctxOf t c.val).state = .draining ∧ s.changesOnly [.job] t) ∧
  (∀ (s : State) (c : Ctx), (ctxOf s c.val).state = .draining → (ctxOf s c.val).bnd.phase = .drain → drained s c.val = true →
    semMismatch s c.val = none → s.tile.bars.find? (fun b => decide (b.ctx = c.val)) = none →
    outstanding (ctxOf s c.val) (ctxOf s c.val).step = 0 → s.tel.rolling = false → fabricJob s c.val = 0 →
    answers (.drainEnd c) s fun t =>
      (ctxOf t c.val).bnd.phase = .awaitVerdict ∧ (ctxOf t c.val).state = .draining ∧
      (ctxOf t c.val).bnd.localOk = decide ((mget (ctxOf s c.val).fab.epochs {} (ctxOf s c.val).step).late = 0) ∧
      (∃ r ∈ (ctxOf t c.val).fab.reds, r.cls = .verdict ∧ r.seq = (ctxOf s c.val).step ∧ r.own = r.result ∧
        r.result = some ((if (mget (ctxOf s c.val).fab.epochs {} (ctxOf s c.val).step).late = 0 then 1 else 0) |||
          (if (ctxOf s c.val).fab.ovf = true then 0x100000000 else 0))) ∧
      t.tel.shadow = s.tel.cnt ∧ t.tel.plumbShadow = s.tel.plumb ∧ t.tel.tickTime = now s ∧ s.changesOnly [.job, .tel] t) ∧
  (∀ (s : State) (c : Ctx), drained s c.val = false → exec (.drainEnd c) s = .next s) ∧
  (∀ (s : State) (c : Ctx), (ctxOf s c.val).state = .draining → (ctxOf s c.val).bnd.phase = .drain → drained s c.val = true →
    semMismatch s c.val ≠ none →
    answers (.drainEnd c) s fun t => (ctxOf t c.val).state = .tornDown) ∧
  (∀ (s : State) (c : Ctx) (t : TileId), (ctxOf s c.val).state = .draining → (ctxOf s c.val).bnd.phase = .drain →
    t.val ∈ tilesOf (ctxOf s c.val).man → semWaiter s t.val ≠ none →
    answers (.boundaryViolation c t) s fun u => (ctxOf u c.val).state = .tornDown) ∧
  (∀ (s : State) (c : Ctx), (ctxOf s c.val).bnd.phase = .awaitPosted → 0 < outstanding (ctxOf s c.val) (ctxOf s c.val).step →
    (mget (ctxOf s c.val).fab.epochs {} (ctxOf s c.val).step).late = 0 → s.tel.rolling = false → fabricJob s c.val = 0 →
    answers (.postedTimeout c) s fun t => (ctxOf t c.val).bnd.phase = .awaitVerdict ∧ (ctxOf t c.val).bnd.localOk = false ∧
      (ctxOf t c.val).bnd.failCause = 2 ∧ s.changesOnly [.out, .hostMem, .host, .job, .fab, .tel] t)

/-- R352, R354, R355: the verdict, the release, and a start reduction. Where the rules leave a point open it follows the model's
choice: log 20, 58, 59. -/
def Obligations.VerdictAndRelease : Prop :=
  (∀ (s : State) (c : Ctx) (r : RedSt) (w : Dword), redOf s c.val .verdict 0 = some r → r.result = some w →
    (ctxOf s c.val).bnd.phase = .awaitVerdict → w.getLsbD 0 = false →
    answers (.verdictReductionComplete c) s fun t => (ctxOf t c.val).state = .parked ∧ (ctxOf t c.val).stepIn = false ∧
      (ctxOf t c.val).trn.committed = (ctxOf s c.val).trn.committed) ∧
  (∀ (s : State) (c : Ctx) (r : RedSt) (w : Dword), redOf s c.val .verdict 0 = some r → r.result = some w →
    (ctxOf s c.val).bnd.phase = .awaitVerdict → w.getLsbD 0 = true → (ctxOf s c.val).man.training = false → s.cfg.state ≠ 3 →
    fabricJob s c.val = 0 → (ctxOf s c.val).fab.held = [] →
    answers (.verdictReductionComplete c) s fun t => (ctxOf t c.val).bnd.phase = .awaitRelease ∧
      (ctxOf t c.val).state = (ctxOf s c.val).state ∧ (ctxOf t c.val).bnd.overflow = w.getLsbD 32 ∧
      (∃ x ∈ (ctxOf t c.val).fab.reds, x.cls = .release ∧ x.result.isSome) ∧ s.changesOnly [.job] t) ∧
  (∀ (s : State) (c : Ctx) (r : RedSt) (w : Dword), redOf s c.val .release 0 = some r → r.result = some w →
    (ctxOf s c.val).bnd.phase = .awaitRelease → w.getLsbD 32 = false → (ctxOf s c.val).bnd.park = 0 → (ctxOf s c.val).plough = none →
    s.cfg.state ≠ 3 →
    answers (.releaseReductionComplete c) s fun t => (ctxOf t c.val).state = .running ∧ (ctxOf t c.val).bnd.phase = .none) ∧
  (∀ (s : State) (c : Ctx) (r : RedSt) (w : Dword), redOf s c.val .release 0 = some r → r.result = some w →
    (ctxOf s c.val).bnd.phase = .awaitRelease → w.getLsbD 32 = true ∨ (ctxOf s c.val).bnd.park ≠ 0 ∨ (ctxOf s c.val).plough ≠ none →
    answers (.releaseReductionComplete c) s fun t => (ctxOf t c.val).state = .parked ∧ (ctxOf t c.val).stepIn = false) ∧
  (∀ (s : State) (c : Ctx) (r : RedSt), redOf s c.val .start 0 = some r → r.result.isSome = true → (ctxOf s c.val).startWait = true →
    (ctxOf s c.val).fab.held = [] → (ctxOf s c.val).bnd.retake = false →
    answers (.startReductionComplete c) s fun t => (ctxOf t c.val).startWait = false ∧ (ctxOf t c.val).state = (ctxOf s c.val).state)

/-- R170, R181, R182, R190, R259, R263: from the sweep to the release. Where the rules leave a point open it follows the model's
choice: log 22, 59. -/
def Obligations.CommitOfAStep : Prop :=
  (∀ (s : State) (c : Ctx), sweepEnded s c.val = true → exchanges s c.val = true →
    answers (.sweepEnd c) s fun t => (ctxOf t c.val).bnd.phase = .digests ∧ (ctxOf t c.val).trn.committed = (ctxOf s c.val).step ∧
      s.changesOnly [.out, .job, .fab, .tel] t) ∧
  (∀ (s : State) (c : Ctx), sweepEnded s c.val = true → exchanges s c.val = false → (ctxOf s c.val).man.trailExport = false →
    (ctxOf s c.val).bnd.aborting = false →
    answers (.sweepEnd c) s fun t => (ctxOf t c.val).bnd.phase = .awaitRelease ∧ (ctxOf t c.val).trn.committed = (ctxOf s c.val).step) ∧
  (∀ (s : State) (c : Ctx) (ts : List DigestTriple), (ctxOf s c.val).bnd.phase = .digests → (ctxOf s c.val).bnd.aborting = false →
    (ctxOf s c.val).man.trailExport = false → (ctxOf s c.val).trn.stageOut = [] →
    answers (.digestExchangeComplete c ts) s fun t => (ctxOf t c.val).bnd.phase = .awaitRelease ∧
      (ctxOf t c.val).bnd.diverged = (((compareTriples s c.val
        ((((ctxOf s c.val).trn.arrived.filter fun x => decide (x.1 = (ctxOf s c.val).step)).map fun x => x.2) ++ ts) true).map
          fun d => (d.tensor, d.shard)).eraseDups).length ∧
      ((ctxOf t c.val).bnd.diverged ≠ 0 → (ctxOf t c.val).bnd.park = 3)) ∧
  (∀ (s : State) (c : Ctx), (ctxOf s c.val).bnd.phase = .digests → (ctxOf s c.val).bnd.aborting = false → (ctxOf s c.val).loaded = true →
    answers (.digestTriplesTimeout c) s fun t => (ctxOf t c.val).state = .tornDown) ∧
  (∀ (s : State) (c : Ctx), (ctxOf s c.val).bnd.phase = .digests → (ctxOf s c.val).bnd.aborting = true →
    (ctxOf s c.val).man.trailExport = false → (ctxOf s c.val).trn.stageOut = [] →
    answers (.abortDigestWaitEnd c) s fun t => (ctxOf t c.val).state = .parked ∧
      (ctxOf t c.val).bnd.diverged = (((compareTriples s c.val
        (((ctxOf s c.val).trn.arrived.filter fun x => decide (x.1 = (ctxOf s c.val).step)).map fun x => x.2) false).map
          fun d => (d.tensor, d.shard)).eraseDups).length) ∧
  (∀ (s : State) (c : Ctx) (r : Region) (x : List Byte), (ctxOf s c.val).trn.stageOut = [x] → staging (ctxOf s c.val).man = some r →
    ringRoom r.len (devNat s (r.base + 8) 8) (devNat s (r.base + 0x40) 8) x.length = true → (ctxOf s c.val).bnd.phase ≠ .gate →
    (ctxOf s c.val).trn.grads = [] →
    answers (.stagingRoom c) s fun t => (ctxOf t c.val).trn.stageOut = [] ∧ (ctxOf t c.val).trn.seqBytes = (ctxOf s c.val).trn.seqBytes ∧
      s.changesOnly [.dev, .mem, .job] t) ∧
  (∀ (s : State) (c : Ctx), (ctxOf s c.val).bnd.phase = .gate → (ctxOf s c.val).trn.stageOut = [] → (ctxOf s c.val).bnd.aborting = false →
    gateOpen s c.val = true →
    answers (.keeperGateOpen c) s fun t => (ctxOf t c.val).bnd.phase = .awaitRelease ∧ (ctxOf t c.val).state = (ctxOf s c.val).state) ∧
  (∀ (s : State) (c : Ctx), (ctxOf s c.val).bnd.phase = .gate → (ctxOf s c.val).trn.stageOut = [] → (ctxOf s c.val).bnd.aborting = false →
    gateOpen s c.val = false → keeperGate s c.val = true → (ctxOf s c.val).man.trailExport = true → (ctxOf s c.val).bnd.retake = false →
    answers (.keeperGateOpen c) s fun t => (ctxOf t c.val).bnd.phase = .gate ∧ s.changesOnly [.job] t)

/-- R474 to R477: freeze ticks and the roll-up. -/
def Obligations.FreezeTicks : Prop :=
  (∀ (s : State) (v : Word), isReady s = true → v.getLsbD 0 = true → s.tel.rolling = false →
    answers (.telFreeze v) s fun t => t.tel.shadow = s.tel.cnt ∧ t.tel.plumbShadow = s.tel.plumb ∧ t.tel.cnt = s.tel.cnt ∧
      t.tel.plumb = s.tel.plumb ∧ t.tel.tickTime = now s ∧ t.tel.ticks = s.tel.ticks + 1 ∧ t.tel.valid = false ∧ t.tel.rolling = true ∧
      s.changesOnly [.tel] t) ∧
  (∀ (s : State) (v : Word), isReady s = true → v.getLsbD 0 = true → s.tel.rolling = true →
    answers (.telFreeze v) s fun t => t.tel = { s.tel with again := true } ∧ s.changesOnly [.tel] t) ∧
  (∀ (s : State) (v : Word), isReady s = true → v.getLsbD 0 = false → exec (.telFreeze v) s = .next s) ∧
  (∀ s : State, live s 0x6104 ≠ 0 → s.tel.rolling = false →
    answers .periodicFreezeTick s fun t => t.tel.shadow = s.tel.cnt ∧ t.tel.plumbShadow = s.tel.plumb ∧ t.tel.tickTime = now s ∧
      t.tel.ticks = s.tel.ticks + 1 ∧ t.tel.rolling = true ∧ s.changesOnly [.tel] t) ∧
  (∀ s : State, live s 0x6104 = 0 → exec .periodicFreezeTick s = .next s) ∧
  (∀ s : State, s.tel.rolling = true → s.tel.again = false →
    answers .rollupComplete s fun t => t.tel.valid = true ∧ t.tel.rolling = false ∧ t.tel.rollup = s.tel.totals ∧
      t.tel.ticks = s.tel.ticks ∧ s.changesOnly [.tel] t) ∧
  (∀ s : State, s.tel.rolling = true → s.tel.again = true →
    answers .rollupComplete s fun t => t.tel.again = false ∧ t.tel.rolling = true ∧ t.tel.shadow = s.tel.cnt ∧ t.tel.rollup = s.tel.totals ∧
      t.tel.ticks = s.tel.ticks + 1 ∧ (∀ c < 8, (ctxOf t c).bnd.phase ≠ .awaitTick))

/-- R207, R225, R226, R249, R258: control reductions, their timeout, and the step timeout. -/
def Obligations.ControlReductions : Prop :=
  (∀ (s : State) (port : Port) (p : Packet) (c : Nat) (r : RedSt) (own : Dword), fld p.aux 31 24 = 1 → fld p.aux 23 20 = 1 → fld p.aux 19 16 = 0 →
    s.boot.resetting = false → p.dst = ownCoord s → ctxOfFabricJob s p.fabricJob = some c → redOrder s c .verdict 0 p = 0 →
    redOf s c .verdict 0 = some r → r.own = some own → r.result = none → r.kids = [] → treeKids s c = [toLogical s p.src] → treeParent s c = none →
    answers (.ctrlReduceUp port p) s fun t =>
      (∃ x ∈ (ctxOf t c).fab.reds, x.cls = .verdict ∧ x.result = some (combine own (BitVec.ofNat 64 (leNat p.payload)))) ∧
      s.changesOnly [.out, .job, .fab, .tel] t) ∧
  (∀ (s : State) (port : Port) (p : Packet) (c : Nat), fld p.aux 31 24 = 1 → fld p.aux 23 20 = 1 → fld p.aux 19 16 = 0 →
    s.boot.resetting = false → p.dst = ownCoord s → ctxOfFabricJob s p.fabricJob = some c → redOrder s c .verdict 0 p = 0 →
    redOf s c .verdict 0 = none → toLogical s p.src ∈ treeKids s c →
    (∀ h ∈ (ctxOf s c).fab.held, ¬ (h.1 = port.val ∧ fld h.2.aux 23 20 = 1)) →
    answers (.ctrlReduceUp port p) s fun t => (ctxOf t c).fab.held = (ctxOf s c).fab.held ++ [(port.val, p)] ∧
      (ctxOf t c).fab.reds = (ctxOf s c).fab.reds ∧ s.changesOnly [.job] t) ∧
  (∀ (s : State) (port : Port) (p : Packet) (c : Nat), fld p.aux 31 24 = 1 → fld p.aux 23 20 = 1 → fld p.aux 19 16 = 0 →
    s.boot.resetting = false → p.dst = ownCoord s → ctxOfFabricJob s p.fabricJob = some c → redOrder s c .verdict 0 p = 0 →
    toLogical s p.src ∉ treeKids s c → exec (.ctrlReduceUp port p) s = .next (countDiscard s)) ∧
  (∀ (s : State) (port : Port) (p : Packet) (c : Nat) (r : RedSt), fld p.aux 31 24 = 2 → fld p.aux 23 20 = 2 → fld p.aux 19 16 = 0 →
    s.boot.resetting = false → p.dst = ownCoord s → ctxOfFabricJob s p.fabricJob = some c → redOrder s c .release 0 p = 0 →
    redOf s c .release 0 = some r → r.own.isSome = true → r.result = none →
    answers (.ctrlReduceDown port p) s fun t =>
      (∃ x ∈ (ctxOf t c).fab.reds, x.cls = .release ∧ x.result = some (BitVec.ofNat 64 (leNat p.payload))) ∧
      (treeKids s c = [] → t.out = s.out) ∧ s.changesOnly [.out, .job, .fab, .tel] t) ∧
  (∀ (s : State) (port : Port) (p : Packet), fld p.aux 31 24 = 1 → p.dst = ownCoord s →
    s.boot.resetting = true ∨ (ctxOfFabricJob s p.fabricJob = none ∧ orphanFor s p = none) →
    answers (.ctrlReduceUp port p) s fun t => mget t.tel.cnt 0 0x70130 = satAdd64 (mget s.tel.cnt 0 0x70130) 1 ∧ s.changesOnly [.tel] t) ∧
  (∀ (s : State) (c : Ctx) (rc : RedClass) (i : Fin 16) (r : RedSt), redOf s c.val rc (if rc = .jobBarrier then i.val else 0) = some r →
    r.own.isSome = true → r.result = none → (ctxOf s c.val).loaded = true →
    answers (.controlReductionTimeout c rc i) s fun t => (ctxOf t c.val).state = .tornDown) ∧
  (∀ (s : State) (c : Ctx), stepTimeoutMs s c.val ≠ 0 → (ctxOf s c.val).inStep = true → beforeVerdict (ctxOf s c.val).bnd = true →
    (ctxOf s c.val).bnd.retake = false → autoPlough s c.val = false →
    answers (.stepTimeout c) s fun t => (ctxOf t c.val).state = (ctxOf s c.val).state ∧ (ctxOf t c.val).plough = (ctxOf s c.val).plough ∧
      s.changesOnly [.out, .hostMem, .host, .job] t) ∧
  (∀ (s : State) (c : Ctx), stepTimeoutMs s c.val ≠ 0 → (ctxOf s c.val).inStep = true → beforeVerdict (ctxOf s c.val).bnd = true →
    (ctxOf s c.val).bnd.retake = false → autoPlough s c.val = true → (ctxOf s c.val).plough = none →  (ctxOf s c.val).state = .running ∨ (ctxOf s c.val).state = .draining →
    answers (.stepTimeout c) s fun t => (ctxOf t c.val).state = .parked ∧ (ctxOf t c.val).stepIn = false) ∧
  (∀ (s : State) (c : Ctx), stepTimeoutMs s c.val = 0 → exec (.stepTimeout c) s = .next s)

/-- R149 to R152, R344, R469: load commands and the loader's check. Where the rules leave a point open it follows the model's
choice: log 14, 23, 62. -/
def Obligations.LoadingAJob : Prop :=
  (∀ (s : State) (r : Req), isReady s = true → s.job.loads.length < 8 →
    answers (.jobLoad r) s fun t => t.job.loads = s.job.loads ++ [(rw64 s 0x7118, (rw s 0x7120).toNat)] ∧ s.changesOnly [.job] t) ∧
  (∀ (s : State) (r : Req), isReady s = true → 8 ≤ s.job.loads.length → exec (.jobLoad r) s = .next (jobResult s 0 0x22 0)) ∧
  (∀ (s : State) (hw : List Host.Cell) (a n c : Nat) (rest : List (Nat × Nat)) (img : List Byte) (u : State), s.job.loads = (a, n) :: rest →
    s.boot.resetting = false → s.sec.busy = false → s.sec.scrubbing = false → img = (s.hostMem.writeCells hw).read a n →
    s.sec.images.length < 64 → u = { s with hostMem := s.hostMem.writeCells hw, job := { s.job with loads := rest } } →
    loadFault u img = none → loadCtx u = some c →
    answers (.loadCheck hw) s fun t => (ctxOf t c).state = .loaded ∧ (ctxOf t c).man.modelId = lat img 0x10 8 ∧
      (ctxOf t c).man.courseMask = lat img 0x1C 4 ∧ (ctxOf t c).trn.committed = 0 ∧ (∀ d < 8, d ≠ c → ctxOf t d = ctxOf s d) ∧
      t.job.loads = rest ∧ t.job.result = BitVec.ofNat 32 (c * 2 ^ 24)) ∧
  (∀ (s : State) (hw : List Host.Cell) (a n c : Nat) (rest : List (Nat × Nat)) (img : List Byte) (u : State), s.job.loads = (a, n) :: rest →
    s.boot.resetting = false → s.sec.busy = false → s.sec.scrubbing = false → img = (s.hostMem.writeCells hw).read a n →
    s.sec.images.length < 64 → u = { s with hostMem := s.hostMem.writeCells hw, job := { s.job with loads := rest } } →
    loadFault u img = none → loadCtx u = some c → (∀ x ∈ coursesOf (parseManifest img), courseHolder s x = none) →
    answers (.loadCheck hw) s fun t => ∀ k ∈ tilesOf (ctxOf t c).man, ∀ i < 256, semGet t k i = semInitOf (ctxOf t c).man k i) ∧
  (∀ (s : State) (hw : List Host.Cell) (a n code i : Nat) (rest : List (Nat × Nat)) (img : List Byte) (u : State), s.job.loads = (a, n) :: rest →
    s.boot.resetting = false → s.sec.busy = false → s.sec.scrubbing = false → img = (s.hostMem.writeCells hw).read a n →
    s.sec.images.length < 64 → u = { s with hostMem := s.hostMem.writeCells hw, job := { s.job with loads := rest } } →
    loadFault u img = some (code, i) →
    answers (.loadCheck hw) s fun t => (∀ d < 8, ctxOf t d = ctxOf s d) ∧ t.job.loads = rest ∧ fld t.job.result 23 16 = code % 256 ∧
      t.job.resultIndex = i ∧ s.changesOnly [.out, .hostMem, .host, .job] t)

/-- R344 to R348, R356, R359, R361, R227, R265: the life of a job, command by command. Where the rules leave a point open it
follows the model's choice: log 25, 58. -/
def Obligations.LifeOfAJob : Prop :=
  (∀ (s u : State) (c : Ctx) (hw : List Host.Cell) (peer : List (Option (List Byte))), u = { s with hostMem := s.hostMem.writeCells hw } →
    isReady s = true → s.job.loads = [] → s.boot.resetting = false → (ctxOf s c.val).state = .loaded → nextInvalid u c.val = false →
    boxMismatch u c.val = false → anyInvalid (readSinks u c.val peer) c.val = false → (ctxOf s c.val).bnd.retake = false →
    answers (.jobStart c hw peer) s fun t => (ctxOf t c.val).state = .running ∧ (ctxOf t c.val).ran = true ∧
      (ctxOf t c.val).startWait = spans s c.val ∧ t.job.result = BitVec.ofNat 32 (c.val * 2 ^ 24)) ∧
  (∀ (s u : State) (c : Ctx) (hw : List Host.Cell) (peer : List (Option (List Byte))), u = { s with hostMem := s.hostMem.writeCells hw } →
    isReady s = true → s.job.loads = [] → s.boot.resetting = false → (ctxOf s c.val).state = .parked → nextInvalid u c.val = false →
    boxMismatch u c.val = false → anyInvalid (readSinks u c.val peer) c.val = false → (ctxOf s c.val).bnd.retake = false →
    answers (.jobResume c hw peer) s fun t => (ctxOf t c.val).state = .running ∧ (ctxOf t c.val).startWait = spans s c.val ∧
      t.job.result = BitVec.ofNat 32 (c.val * 2 ^ 24)) ∧
  (∀ (s : State) (c : Ctx), isReady s = true → s.job.loads = [] → s.boot.resetting = false →
    (ctxOf s c.val).state = .running ∨ (ctxOf s c.val).state = .draining →
    answers (.jobPreempt c) s fun t => ctxOf t c.val = { ctxOf s c.val with preempt := true } ∧
      t.job.result = BitVec.ofNat 32 (c.val * 2 ^ 24) ∧ s.changesOnly [.out, .host, .job] t) ∧
  (∀ (s : State) (c : Ctx), isReady s = true → s.job.loads = [] → s.boot.resetting = false →
    (ctxOf s c.val).state = .loaded ∨ (ctxOf s c.val).state = .parked →
    answers (.jobUnload c) s fun t => (ctxOf t c.val).state = .idle ∧ (ctxOf t c.val).man = {} ∧
      t.job.result = BitVec.ofNat 32 (c.val * 2 ^ 24) ∧ (∀ d < 8, d ≠ c.val → ctxOf t d = ctxOf s d)) ∧
  (∀ (s : State) (c : Ctx), isReady s = true → s.job.loads = [] → s.boot.resetting = false → (ctxOf s c.val).loaded = true →
    answers (.jobTeardown c) s fun t => (ctxOf t c.val).state = .tornDown ∧ (ctxOf t c.val).man = {} ∧ (ctxOf t c.val).stepIn = false ∧
      (∀ x ∈ t.fab.tags, x.2 ≠ c.val) ∧ (∀ b ∈ t.tile.bars, b.ctx ≠ c.val) ∧ t.job.result = BitVec.ofNat 32 (c.val * 2 ^ 24)) ∧
  (∀ (s : State) (c : Ctx), isReady s = true → s.job.loads = [] → s.boot.resetting = false → (ctxOf s c.val).state = .tornDown →
    answers (.jobClear c) s fun t => ctxOf t c.val = { ctxOf s c.val with state := .idle } ∧ s.changesOnly [.out, .host, .job] t) ∧
  (∀ (s : State) (c : Ctx), isReady s = true → s.job.loads = [] → s.boot.resetting = false → (ctxOf s c.val).loaded = false →
    exec (.jobPreempt c) s = .next (jobResult s c.val 0x20 0) ∧ exec (.jobUnload c) s = .next (jobResult s c.val 0x20 0) ∧
    exec (.jobTeardown c) s = .next (jobResult s c.val 0x20 0) ∧ exec (.ploughFinish c) s = .next (jobResult s c.val 0x20 0) ∧
    exec (.ploughAbort c) s = .next (jobResult s c.val 0x20 0)) ∧
  (∀ (s : State) (c : Ctx), isReady s = true → s.job.loads ≠ [] →
    exec (.jobPreempt c) s = .next (jobResult s c.val 0x22 0) ∧ exec (.jobUnload c) s = .next (jobResult s c.val 0x22 0) ∧
    exec (.jobTeardown c) s = .next (jobResult s c.val 0x22 0) ∧ exec (.jobClear c) s = .next (jobResult s c.val 0x22 0) ∧
    exec (.ploughFinish c) s = .next (jobResult s c.val 0x22 0) ∧ exec (.ploughAbort c) s = .next (jobResult s c.val 0x22 0))

/-- R258 to R260: the two plough commands. Where the rules leave a point open it follows the model's choice: log 26. -/
def Obligations.PloughCommands : Prop :=
  (∀ (s : State) (c : Ctx), isReady s = true → s.job.loads = [] → s.boot.resetting = false → (ctxOf s c.val).state = .running →
    (ctxOf s c.val).plough = none → (ctxOf s c.val).stepIn = true →
    answers (.ploughFinish c) s fun t => (ctxOf t c.val).state = .running ∧ (ctxOf t c.val).plough = some .finish ∧
      (ctxOf t c.val).stepIn = true ∧ s.changesOnly [.out, .host, .job, .fab, .tel] t) ∧
  (∀ (s : State) (c : Ctx), isReady s = true → s.job.loads = [] → s.boot.resetting = false → (ctxOf s c.val).state = .running →
    (ctxOf s c.val).plough = none → (ctxOf s c.val).stepIn = false →
    answers (.ploughFinish c) s fun t => (ctxOf t c.val).state = .parked ∧ (ctxOf t c.val).plough = none) ∧
  (∀ (s : State) (c : Ctx), isReady s = true → s.job.loads = [] → s.boot.resetting = false →
    (ctxOf s c.val).state = .running ∨ (ctxOf s c.val).state = .draining → (ctxOf s c.val).plough = none →
    beforeVerdict (ctxOf s c.val).bnd = true →
    answers (.ploughAbort c) s fun t => (ctxOf t c.val).state = .parked ∧ (ctxOf t c.val).stepIn = false ∧
      (ctxOf t c.val).trn.committed = (ctxOf s c.val).trn.committed ∧ (∀ x ∈ t.fab.tags, x.2 ≠ c.val) ∧ (∀ b ∈ t.tile.bars, b.ctx ≠ c.val)) ∧
  (∀ (s : State) (c : Ctx), isReady s = true → s.job.loads = [] → s.boot.resetting = false →
    (ctxOf s c.val).state = .running ∨ (ctxOf s c.val).state = .draining → (ctxOf s c.val).plough = none →
    (ctxOf s c.val).bnd.phase = .digests →
    answers (.ploughAbort c) s fun t => (ctxOf t c.val).state = (ctxOf s c.val).state ∧ (ctxOf t c.val).bnd.aborting = true ∧
      (ctxOf t c.val).plough = some .abort)

/-- R345 to R347, R363, R198, R389, R469: credits and admission, snapshot requests, and the buffer pools. Where the rules leave
a point open it follows the model's choice: log 27, 48, 58, 60. -/
def Obligations.CreditsAndPools : Prop :=
  (∀ (s : State) (c : Ctx) (v : Word), isReady s = true → v.msb = false → (ctxOf s c.val).state ≠ .running ∨ (ctxOf s c.val).stepIn = true →
    answers (.creditAdd c v) s fun t => (ctxOf t c.val).credit = min 65535 ((ctxOf s c.val).credit + v.toNat % 65536) ∧
      ((ctxOf t c.val).creditOvf = true ↔ (ctxOf s c.val).creditOvf = true ∨ 65535 < (ctxOf s c.val).credit + v.toNat % 65536)) ∧
  (∀ (s : State) (c : Ctx) (v : Word), isReady s = true → s.pwr.state = .active → s.boot.resetting = false → s.sec.scrubbing = false →
    v.msb = false → 0 < v.toNat % 65536 → creditMode s c.val = true → (ctxOf s c.val).state = .running → (ctxOf s c.val).stepIn = false →
    (ctxOf s c.val).startWait = false → (ctxOf s c.val).fresh = false → (ctxOf s c.val).bnd.retake = false → (∀ d < 8, d ≠ c.val → (ctxOf s d).state ≠ .running) →
    (∀ x < 32, bit (ctxOf s c.val).man.courseMask x = true → courseHolder s x = none) →
    answers (.creditAdd c v) s fun t => (ctxOf t c.val).stepIn = true ∧ (ctxOf t c.val).step = ((ctxOf s c.val).step + 1) % 2 ^ 32 ∧
      (ctxOf t c.val).credit = min 65535 ((ctxOf s c.val).credit + v.toNat % 65536) - 1 ∧ t.job.lastAdmit = c.val) ∧
  (∀ (s : State) (c : Ctx), isReady s = true → (ctxOf s c.val).state ≠ .running ∨ (ctxOf s c.val).stepIn = true →
    answers (.creditOverflowClear c) s fun t => (ctxOf t c.val).creditOvf = false ∧ (ctxOf t c.val).credit = (ctxOf s c.val).credit) ∧
  (∀ (s : State) (c : Ctx), isReady s = true → (sinkCfg s c.val 2).len ≠ 0 → (sinkCfg s c.val 2).peer = true ∨ ownsSealed s c.val = false →
    (ctxOf s c.val).loaded = true →
    answers (.snapshotRequest c) s fun t => (ctxOf t c.val).trn.snapReq = true ∧ s.changesOnly [.job] t) ∧
  (∀ (s : State) (c : Ctx), isReady s = true → (sinkCfg s c.val 2).len ≠ 0 → (sinkCfg s c.val 2).peer = false → ownsSealed s c.val = true →
    s.sec.busy = false → exec (.snapshotRequest c) s = .next (secRefuse s .snapshot)) ∧
  (∀ (s : State) (p : PoolId) (r : Req) (e : Word) (es : List Word), isReady s = true → (poolOf s p.val).enable = true →
    (poolOf s p.val).entries = e :: es →
    answers (.poolTake p r) s fun t => t.out = s.out ++ [.reply r.val (leBytes 4 e.toNat)] ∧ poolOf t p.val = { poolOf s p.val with entries := es } ∧
      (∀ q, q ≠ p.val → poolOf t q = poolOf s q) ∧ s.changesOnly [.out, .job] t) ∧
  (∀ (s : State) (p : PoolId) (r : Req), isReady s = true → (poolOf s p.val).entries = [] →
    answers (.poolTake p r) s fun t => t.out = s.out ++ [.reply r.val (leBytes 4 0xFFFFFFFF)] ∧ poolOf t p.val = poolOf s p.val ∧
      s.changesOnly [.out, .job] t) ∧
  (∀ (s : State) (p : PoolId) (v : Word), isReady s = true → (poolOf s p.val).enable = true → (poolOf s p.val).entries.length < 1024 →
    answers (.poolGive p v) s fun t => poolOf t p.val = { poolOf s p.val with entries := (poolOf s p.val).entries ++ [v] } ∧
      (∀ q, q ≠ p.val → poolOf t q = poolOf s q) ∧ s.changesOnly [.job] t) ∧
  (∀ (s : State) (p : PoolId) (v : Word), isReady s = true → (poolOf s p.val).enable = true → 1024 ≤ (poolOf s p.val).entries.length →
    answers (.poolGive p v) s fun t => poolOf t p.val = { poolOf s p.val with dropped := min 8191 ((poolOf s p.val).dropped + 1) } ∧
      s.changesOnly [.job] t)

/-- R169, R170, R175, R178, R179: a trowel sweeps a record: every parameter in use by the optimiser of its group, the step and
the digest in its header, and no byte outside the record; a header that fails the checks ends the job. Where the rules leave a
point open it follows the model's choice: log 61. -/
def Obligations.SweepOfARecord : Prop :=
  (∀ (s : State) (k : StackId) (c : Nat) (x : TrwCmd) (r : Rec) (h blk : List Byte), s.mem.upsets = [] → headCmd s k.val 1 = some (c, x) →
    (ctxOf s c).bnd.phase = .sweeping → (ctxOf s c).trn.stageOut = [] → (ctxOf s c).trn.grads = [] → (ctxOf s c).trn.checked = true →
    (recsIn (ctxOf s c).man k.val).filter (fun y => decide (mget x.pos 0 k.val ≤ y.idx)) = [r] → poisonedAt s r.addr recBytes = none →
    (ctxOf s c).man.trailExport = false → r.addr + 65792 ≤ 0x9000000000 → h = hdrOf s r → hCount h ≤ 4096 → blk = (ctxOf s c).trn.block →
    answers (.sweep k) s fun t =>
      (∀ i < hCount h, devNat t (r.addr + 0x100 + 4 * i) 4 = (sweptParam s r h blk i).1.toNat ∧
        devNat t (r.addr + 0x4100 + 4 * i) 4 = (sweptParam s r h blk i).2.1.toNat ∧
        devNat t (r.addr + 0x8100 + 4 * i) 4 = (if (grpAt blk (hGroup h)).opt ≤ 1 then (sweptParam s r h blk i).2.2.toNat
          else devNat s (r.addr + 0x8100 + 4 * i) 4)) ∧
      devNat t (r.addr + 0x48) 4 = (ctxOf s c).step % 2 ^ 32 ∧
      devNat t (r.addr + 0x50) 8 = recDigest (devRead t (r.addr + 0x100) 16384) ∧
      (∀ a, (∀ i < 65792, devAddr a ≠ devAddr (r.addr + i)) → devGet t a = devGet s a) ∧
      (∃ y ∈ (ctxOf t c).trn.cmds, y.id = x.id ∧ y.done = x.done + 1 ∧ k.val ∉ y.todo) ∧
      s.changesOnly [.dev, .mem, .job, .trw, .tel] t) ∧
  (∀ (s : State) (k : StackId) (c : Nat) (x : TrwCmd), s.mem.upsets = [] → headCmd s k.val 1 = some (c, x) → (ctxOf s c).bnd.phase = .sweeping →
    (ctxOf s c).trn.stageOut = [] → (ctxOf s c).trn.checked = false → recordFault s c ≠ none → (ctxOf s c).loaded = true →
    answers (.sweep k) s fun t => (ctxOf t c).state = .tornDown) ∧
  (∀ (s : State) (k : StackId), headCmd s k.val 1 = none → exec (.sweep k) s = .next s)

/-- R190, R192, R193, R195, R198: BASE and SNAP of a job whose records lie in one stack. Where the rules leave a point open it
follows the model's choice: log 18, 28. -/
def Obligations.ExportsOfRecords : Prop :=
  (∀ (s : State) (k : StackId) (c label : Nat) (x : TrwCmd) (body : List Byte), s.mem.upsets = [] → headCmd s k.val 4 = some (c, x) → x.todo = [k.val] →
    recStacks (ctxOf s c).man = [k.val] →
    ((ctxOf s c).trn.cmds.find? fun y => decide (y.op = 4 ∧ y.todo ≠ [])).map (fun y => y.id) = some x.id → (sinkCfg s c 1).len ≠ 0 →
    (recsIn (ctxOf s c).man k.val).findSome? (fun r => poisonedAt s r.addr recBytes) = none → x.begun = [] →
    label = (if x.host = true then (ctxOf s c).trn.committed else (x.w.getD 3 0).toNat) →
    body = trailRec s 0x11 0 label 0 0 0 (leBytes 4 (baseK s c) ++ leBytes 4 (recsOf (ctxOf s c).man).length ++ List.replicate 24 0) ++
      (recsIn (ctxOf s c).man k.val).flatMap (shardRec s 0x12 label) →
    answers (.base k) s fun t => (ctxOf t c).trn.baseOut = (ctxOf s c).trn.baseOut ++ body ++
        closeRec s 0x13 0 label (recsOf (ctxOf s c).man).length 0 body ∧
      (∀ y ∈ (ctxOf t c).trn.cmds, y.id = x.id → k.val ∉ y.todo) ∧ s.changesOnly [.job, .trw] t) ∧
  (∀ (s : State) (k : StackId) (c label : Nat) (x : TrwCmd) (body : List Byte), s.mem.upsets = [] → headCmd s k.val 6 = some (c, x) → x.todo = [k.val] →
    recStacks (ctxOf s c).man = [k.val] →
    ((ctxOf s c).trn.cmds.find? fun y => decide (y.op = 6 ∧ y.todo ≠ [])).map (fun y => y.id) = some x.id →
    (recsIn (ctxOf s c).man k.val).findSome? (fun r => poisonedAt s r.addr recBytes) = none → x.begun = [] →
    label = (if x.host = true then (ctxOf s c).trn.committed else (x.w.getD 3 0).toNat) →
    body = trailRec s 0x21 0 label 0 0 0 (leBytes 4 (recsOf (ctxOf s c).man).length ++ List.replicate 28 0) ++
      (recsIn (ctxOf s c).man k.val).flatMap (shardRec s 0x22 label) →
    answers (.snap k) s fun t => (ctxOf t c).trn.snapOut = (ctxOf s c).trn.snapOut ++ body ++
        closeRec s 0x23 0 label (recsOf (ctxOf s c).man).length 0 body ∧
      (∀ y ∈ (ctxOf t c).trn.cmds, y.id = x.id → k.val ∉ y.todo) ∧ s.changesOnly [.job, .trw] t)

/-- R186, R187, R190: the mover writes a record to a sink in host memory, and what a read of a control area does. Where the
rules leave a point open it follows the model's choice: log 8. -/
def Obligations.SinkRings : Prop :=
  (∀ (s : State) (c : Ctx) (budget pos : Nat) (bs : List Byte) (g : SinkCfg), (ctxOf s c.val).loaded = true → (ctxOf s c.val).man.trailMbps ≠ 0 →
    readFresh s c.val = s → g = sinkCfg s c.val 1 → g.peer = false → sinkReady s c.val 1 = true →
    nextFor s c.val 0 = [] → nextFor s c.val 2 = [] → (∀ k < 3, (sinkOf s c.val k).ahead = 0) → (ctxOf s c.val).trn.baseOut = bs → recLen bs = bs.length → 64 ≤ bs.length →
    bs.length ≤ budget → sinkRoom s c.val 1 bs.length = true → pos = (sinkOf s c.val 1).prod % (g.len - 256) → pos + bs.length ≤ g.len - 256 →
    answers (.trailMover c budget) s fun t => t.hostMem.read (g.base + 256 + pos) bs.length = bs ∧
      t.hostMem.rd (g.base + 8) 8 = ((sinkOf s c.val 1).prod + bs.length) % 2 ^ 64 ∧
      (sinkOf t c.val 1).prod = (sinkOf s c.val 1).prod + bs.length ∧ (ctxOf t c.val).trn.baseOut = [] ∧ s.changesOnly [.hostMem, .job] t) ∧
  (∀ (s : State) (c : Ctx) (k : Fin 3) (hw : List Host.Cell) (a : List Byte), (ctxOf s c.val).loaded = true →
    (sinkAt s c.val k.val).len ≠ 0 → (sinkAt s c.val k.val).peer = false →
    a = (s.hostMem.writeCells hw).read (sinkAt s c.val k.val).base 256 → areaCause (sinkAt s c.val k.val).len a = none →
    answers (.sinkPoll c k hw ()) s fun t => (sinkOf t c.val k.val).cons = lat a 0x40 8 ∧ (sinkOf t c.val k.val).invalid = false ∧
      (sinkOf t c.val k.val).prod = (if (sinkOf s c.val k.val).known = true then (sinkOf s c.val k.val).prod else lat a 8 8) ∧
      t.hostMem = s.hostMem.writeCells hw ∧ s.changesOnly [.hostMem, .job] t) ∧
  (∀ (s : State) (c : Ctx) (k : Fin 3) (hw : List Host.Cell) (a : List Byte), (ctxOf s c.val).loaded = true →
    (sinkAt s c.val k.val).len ≠ 0 → (sinkAt s c.val k.val).peer = false →
    a = (s.hostMem.writeCells hw).read (sinkAt s c.val k.val).base 256 → areaCause (sinkAt s c.val k.val).len a ≠ none →
    answers (.sinkPoll c k hw ()) s fun t => (sinkOf t c.val k.val).invalid = true ∧ (ctxOf t c.val).state = (ctxOf s c.val).state) ∧
  (∀ (s : State) (c : Ctx) (k : Fin 3) (hw : List Host.Cell), (ctxOf s c.val).loaded = true → (sinkAt s c.val k.val).len ≠ 0 →
    (sinkAt s c.val k.val).peer = true → fwReadOf s c.val k.val 0 = none → firmwareTagFree s = true →
    answers (.sinkPoll c k hw ()) s fun t => t.fab.tags = s.fab.tags ++ [(freeTag s, 8)] ∧
      (ctxOf t c.val).fab.reads = (ctxOf s c.val).fab.reads ++
        [⟨freeTag s, toPhys s (sinkAt s c.val k.val).coords, k.val, 0, 0, List.replicate 256 0, false⟩] ∧
      s.changesOnly [.out, .hostMem, .job, .fab, .tel] t) ∧
  (∀ (s : State) (c : Ctx) (k : Fin 3) (r : FwRead), (ctxOf s c.val).loaded = true → fwReadOf s c.val k.val 0 = some r → r.nak = false →
    answers (.sinkReadTimeout c k) s fun t => (sinkOf t c.val k.val).invalid = true ∧ (ctxOf t c.val).state = (ctxOf s c.val).state ∧
      (∀ x ∈ t.fab.tags, x.1 ≠ r.tag)) ∧
  (∀ (s : State) (c : Ctx) (k : Fin 3), (ctxOf s c.val).loaded = false ∨ fwReadOf s c.val k.val 0 = none →
    exec (.sinkReadTimeout c k) s = .next s)

/-- R183 to R185, R455: the trowel command queue: a doorbell, its refusal, and the completion of a command. -/
def Obligations.TrowelCommandQueue : Prop :=
  (∀ (s : State) (c : Ctx) (tail : Nat) (hw : List Host.Cell), (rw s (jobBase c.val + 0x98)).toNat ≤ tail →
    exec (.trowelQueueDoorbell c tail hw) s =
      .next (accessErr { s with hostMem := s.hostMem.writeCells hw } 0 7 4 (0x0008 + c.val * 0x1000))) ∧
  (∀ (s : State) (c : Ctx) (tail slots h : Nat) (hw : List Host.Cell) (w : List Word), slots = (rw s (jobBase c.val + 0x98)).toNat →
    tail < slots → h = (ctxOf s c.val).trwHead → h ≠ tail → (h + 1) % slots = tail →
    w = (List.range 8).map (fun i => BitVec.ofNat 32 ((s.hostMem.writeCells hw).rd (rw64 s (jobBase c.val + 0x90) + 32 * h + 4 * i) 4)) →
    cmdReserved c.val w = false → (ctxOf s c.val).state = .loaded → recStacks (ctxOf s c.val).man ≠ [] →
    answers (.trowelQueueDoorbell c tail hw) s fun t => (ctxOf t c.val).trwHead = tail ∧
      (ctxOf t c.val).trn.cmds = (ctxOf s c.val).trn.cmds ++
        [{ id := trwNext s, op := fld (w.getD 0 0) 31 28, w := w, host := true,
           todo := if fld (w.getD 0 0) 31 28 = 4 then List.range 12 else recStacks (ctxOf s c.val).man }] ∧
      t.hostMem = s.hostMem.writeCells hw ∧ s.changesOnly [.hostMem, .job] t) ∧
  (∀ (s : State) (c : Ctx) (tail slots h : Nat) (hw : List Host.Cell) (w : List Word), slots = (rw s (jobBase c.val + 0x98)).toNat →
    tail < slots → h = (ctxOf s c.val).trwHead → h ≠ tail → (h + 1) % slots = tail →
    w = (List.range 8).map (fun i => BitVec.ofNat 32 ((s.hostMem.writeCells hw).rd (rw64 s (jobBase c.val + 0x90) + 32 * h + 4 * i) 4)) →
    cmdReserved c.val w = true →
    answers (.trowelQueueDoorbell c tail hw) s fun t => (ctxOf t c.val).trwHead = tail ∧
      (ctxOf t c.val).trn.cmds = (ctxOf s c.val).trn.cmds ∧ s.changesOnly [.out, .hostMem, .host, .job] t) ∧
  (∀ (s : State) (c : Ctx) (x : TrwCmd), (ctxOf s c.val).trn.cmds.find? (fun y => y.host && decide (y.todo = [])) = some x →
    answers (.trowelDone c) s fun t => (ctxOf t c.val).trn.cmds = (ctxOf s c.val).trn.cmds.filter (fun y => decide (y.id ≠ x.id)) ∧
      s.changesOnly [.out, .hostMem, .host, .job] t) ∧
  (∀ (s : State) (c : Ctx) (x : TrwCmd) (r : FwRead), (ctxOf s c.val).fab.reads.find? (fun y => decide (y.what = 3)) = some r →
    (ctxOf s c.val).trn.cmds.find? (fun y => decide (y.id = r.cmd)) = some x → (ctxOf s c.val).loaded = true →
    answers (.peerReadTimeout c) s fun t => (ctxOf t c.val).state = .tornDown)

/-- R179, R183 to R185, R188, R196: DIGEST, INIT, REPLAY and IMPORT on a trowel; a source in a peer part is read by the firmware
first. Where the rules leave a point open it follows the model's choice: log 29. -/
def Obligations.HostTrowelCommands : Prop :=
  (∀ (s : State) (k : StackId) (c : Nat) (x : TrwCmd) (r : Rec), s.mem.upsets = [] → headCmd s k.val 2 = some (c, x) → x.host = true →
    recsIn (ctxOf s c).man k.val = [r] → poisonedAt s r.addr 0x4100 = none →
    answers (.digest k) s fun t =>
      (∃ y ∈ (ctxOf t c).trn.cmds, y.id = x.id ∧ k.val ∉ y.todo ∧
        (recDigest (devRead s (0x100 + r.addr) 16384) = devNat s (r.addr + 0x50) 8 → y.done = x.done + 1 ∧ y.fails = x.fails) ∧
        (recDigest (devRead s (0x100 + r.addr) 16384) ≠ devNat s (r.addr + 0x50) 8 → y.fails = x.fails ++ [(k.val, r.idx, 5)])) ∧
      s.changesOnly [.job, .trw] t) ∧
  (∀ (s : State) (k : StackId) (c : Nat) (x : TrwCmd) (r : Rec), s.mem.upsets = [] → headCmd s k.val 8 = some (c, x) → x.host = true →
    recsIn (ctxOf s c).man k.val = [r] → poisonedAt s r.addr 256 = none → poisonedAt s (0xE100 + r.addr) (2 * hCount (hdrOf s r)) = none →
    headerCheck (hdrOf s r) r.tensor r.shard (sameGfmt s (ctxOf s c).man (hGfmt (hdrOf s r))) = none → r.addr + 65792 ≤ 0x9000000000 →
    hWfmt (hdrOf s r) = 1 →
    answers (.init k) s fun t =>
      (∀ i < hCount (hdrOf s r), devNat t (r.addr + 0x100 + 4 * i) 4 = (widen .bf16 (devNat s (r.addr + 0xE100 + 2 * i) 2)).toNat ∧
        devNat t (r.addr + 0x4100 + 4 * i) 4 = 0 ∧ devNat t (r.addr + 0x8100 + 4 * i) 4 = 0 ∧ devNat t (r.addr + 0xC100 + 2 * i) 2 = 0) ∧
      devNat t (r.addr + 0x48) 4 = 0 ∧ devNat t (r.addr + 0x50) 8 = recDigest (devRead t (r.addr + 0x100) 16384) ∧
      (∀ a, (∀ i < 65792, devAddr a ≠ devAddr (r.addr + i)) → devGet t a = devGet s a) ∧
      (∃ y ∈ (ctxOf t c).trn.cmds, y.id = x.id ∧ k.val ∉ y.todo ∧ y.done = x.done + 1) ∧ s.changesOnly [.dev, .mem, .job, .trw, .tel] t) ∧
  (∀ (s : State) (k : StackId) (c : Nat) (x : TrwCmd), headCmd s k.val 3 = some (c, x) → s.mem.upsets = [] → srcReady x = true →
    (seqParse s x 1 2 3).1 = none → srcPoison s x (seqParse s x 1 2 3).2 = none →
    answers (.replay k ()) s fun t => (∃ y ∈ (ctxOf t c).trn.cmds, y.id = x.id ∧ y.todo = [] ∧ y.fails = [(0xFF, 0, 3)]) ∧
      s.changesOnly [.job] t) ∧
  (∀ (s : State) (k : StackId) (c : Nat) (x : TrwCmd) (rs : List (Nat × Nat)) (opn b : List Byte) (r : Rec),
    headCmd s k.val 3 = some (c, x) → x.host = true → s.mem.upsets = [] → srcReady x = true →
    (seqParse s x 1 2 3).1 = some rs → srcPoison s x (seqParse s x 1 2 3).2 = none → opn = seqRec (seqSource s x).1 (rs.headD (0, 0)) →
    rs.tail.map (seqRec (seqSource s x).1) = [b] →
    (scalarCause25 (opn.drop 32) (recGroups s (ctxOf s c).man) (bf16Grads s (ctxOf s c).man) false).isSome = false →
    bit (lat opn 1 1) 0 = false → named (ctxOf s c).man k.val b = some r →
    (groutDecode (fun i => b.getD (32 + i) 0) 8192 (b.length - 32)).2 = none →
    b.length = roundUp (32 + (groutDecode (fun i => b.getD (32 + i) 0) 8192 (b.length - 32)).1.2) 64 →
    recPoison s r (sweepReads (hdrOf s r) (opn.drop 32) false) = none →
    hLast (hdrOf s r) < lat opn 8 4 → hCount (hdrOf s r) ≤ 4096 → r.addr + 65792 ≤ 0x9000000000 →
    answers (.replay k ()) s fun t =>
      devNat t (r.addr + 0x48) 4 = lat opn 8 4 ∧ devNat t (r.addr + 0x50) 8 = recDigest (devRead t (r.addr + 0x100) 16384) ∧
      (∃ y ∈ (ctxOf t c).trn.cmds, y.id = x.id ∧ k.val ∉ y.todo ∧
        (devNat t (r.addr + 0x50) 8 = lat b 0x18 8 → y.done = x.done + 1 ∧ y.fails = x.fails) ∧
        (devNat t (r.addr + 0x50) 8 ≠ lat b 0x18 8 → y.fails = x.fails ++ [(k.val, r.idx, 5)])) ∧
      (∀ a, (∀ i < 65792, devAddr a ≠ devAddr (r.addr + i)) → devGet t a = devGet s a)) ∧
  (∀ (s : State) (k : StackId) (c : Nat) (x : TrwCmd), headCmd s k.val 5 = some (c, x) → s.mem.upsets = [] → srcReady x = true →
    (seqParse s x 0x11 0x12 0x13).1 = none → srcPoison s x (seqParse s x 0x11 0x12 0x13).2 = none →
    answers (.importBase k ()) s fun t => (∃ y ∈ (ctxOf t c).trn.cmds, y.id = x.id ∧ y.todo = [] ∧ y.fails = [(0xFF, 0, 3)]) ∧
      s.changesOnly [.job] t) ∧
  (∀ (s : State) (k : StackId) (c : Nat) (x : TrwCmd) (rs : List (Nat × Nat)), headCmd s k.val 5 = some (c, x) → x.host = true →
    s.mem.upsets = [] → srcReady x = true → (seqParse s x 0x11 0x12 0x13).1 = some rs → srcPoison s x (seqParse s x 0x11 0x12 0x13).2 = none →
    (∀ b ∈ rs.tail.map (seqRec (seqSource s x).1), named (ctxOf s c).man k.val b = none) →
    answers (.importBase k ()) s fun t => (∃ y ∈ (ctxOf t c).trn.cmds, y.id = x.id ∧ k.val ∉ y.todo ∧ y.done = x.done) ∧
      s.changesOnly [.job] t) ∧
  (∀ (s : State) (k : StackId) (c : Nat) (x : TrwCmd) (rs : List (Nat × Nat)) (b h : List Byte) (r : Rec), headCmd s k.val 5 = some (c, x) →
    x.host = true → s.mem.upsets = [] → srcReady x = true → (seqParse s x 0x11 0x12 0x13).1 = some rs →
    srcPoison s x (seqParse s x 0x11 0x12 0x13).2 = none → rs.tail.map (seqRec (seqSource s x).1) = [b] →
    named (ctxOf s c).man k.val b = some r → h = (b.drop 32).take 256 → b.length = roundUp (32 + 0xC100 + workBytes h) 64 →
    headerCheck h r.tensor r.shard (importGfmt s (ctxOf s c).man [b] (hGfmt h)) = none → r.addr + 65792 ≤ 0x9000000000 →
    answers (.importBase k ()) s fun t => devRead t r.addr 0xC100 = (b.drop 32).take 0xC100 ∧
      devRead t (r.addr + 0xE100) (workBytes h) = (b.drop (32 + 0xC100)).take (workBytes h) ∧
      (∃ y ∈ (ctxOf t c).trn.cmds, y.id = x.id ∧ k.val ∉ y.todo ∧
        (recDigest ((b.drop (32 + 0x100)).take 16384) = lat h 0x50 8 → y.done = x.done + 1 ∧ y.fails = x.fails)) ∧
      s.changesOnly [.dev, .mem, .job, .trw, .tel] t) ∧
  (∀ (s : State) (k : StackId) (op c : Nat) (x : TrwCmd), (op = 3 ∨ op = 5) → headCmd s k.val op = some (c, x) → srcReady x = false →
    fwReadOf s c 3 x.id = none → firmwareTagFree s = true →
    answers (if op = 3 then .replay k () else .importBase k ()) s fun t => t.fab.tags = s.fab.tags ++ [(freeTag s, 8)] ∧
      (ctxOf t c).fab.reads = (ctxOf s c).fab.reads ++ [⟨freeTag s, toPhys s (fld (x.w.getD 0 0) 23 9), 3, x.id, 0,
        List.replicate (min 4096 (cmdLen x - x.src.length)) 0, false⟩] ∧ s.changesOnly [.out, .job, .fab, .tel] t)

/-- R250, R254, R256, R428 to R430: the compute reset and what raises it, the function-level reset, link loss and block resets.
Where the rules leave a point open it follows the model's choice: log 41, 54, 79. -/
def Obligations.ComputeAndBlockResets : Prop :=
  (∀ (s : State) (v : Word), pageAnswers s 0x2000 = true → fld v 31 16 = 0x434D → v.getLsbD 0 = true → s.boot.resetting = false →
    answers (.rstCompute v) s fun t => t.boot.resetting = true ∧
      (∀ c < 8, (ctxOf t c).state = (if (ctxOf s c).loaded = true then .tornDown else (ctxOf s c).state)) ∧
      (∀ k < 512, (seqrOf t k).descs = [] ∧ (seqrOf t k).hold = none) ∧ (∀ i, mget t.tile.vreg 0 i = 0) ∧ t.tile.bars = [] ∧
      (∀ i, mget t.tel.plumb 0 i = 0) ∧ t.trw = [] ∧ t.rink.tasks = [] ∧ t.post.run = [] ∧ t.post.rr = [] ∧
      s.changesOnly [.out, .dev, .scratch, .mem, .store, .sem, .vreg, .tile, .job, .fab, .trw, .rink, .post, .host, .tel, .sec, .boot] t) ∧
  (∀ (s : State) (v : Word), pageAnswers s 0x2000 = true → fld v 31 16 = 0x434D → v.getLsbD 0 = false ∨ s.boot.resetting = true →
    exec (.rstCompute v) s = .next s) ∧
  (∀ (s : State) (v : Word), pageAnswers s 0x2000 = true → fld v 31 16 ≠ 0x434D → exec (.rstCompute v) s = .next (accessErr s 0x2000 8 4 0x104)) ∧
  (∀ (s : State) (unit inst : Nat), mayHang s unit inst = true → s.boot.resetting = false →
    answers (.unitHang unit inst) s fun t => t.boot.resetting = true ∧ t.tel.ret.tail = s.tel.ret.take 15 ∧
      (∀ c < 8, (ctxOf t c).state = (if (ctxOf s c).loaded = true then .tornDown else (ctxOf s c).state)) ∧ t.trw = [] ∧ t.rink.tasks = []) ∧
  (∀ (s : State) (unit inst : Nat), mayHang s unit inst = false → exec (.unitHang unit inst) s = .next s) ∧
  (∀ s : State, isReady s = true → s.boot.resetting = false →
    answers .functionLevelReset s fun t => t.boot.resetting = true ∧
      (∀ c < 8, (ctxOf t c).state = (if (ctxOf s c).loaded = true then .tornDown else (ctxOf s c).state))) ∧
  (∀ s : State, isReady s = false → answers .functionLevelReset s fun t => t.boot = s.boot ∧ (∀ c < 8, (ctxOf t c).state = (ctxOf s c).state)) ∧
  (∀ s : State, answers .functionLevelReset s fun t =>
      (∀ ch < 32, (chanOf t ch).cur = none ∧ (chanOf t ch).head = (chanOf t ch).tail) ∧ t.host.msixTbl = [] ∧ t.host.linkLost = false ∧
      t.host.d3 = false ∧ t.cfg = s.cfg ∧ t.pwr = s.pwr ∧ (∀ x ∈ t.sec.sessions, x.path ≠ .pcie)) ∧
  (∀ s : State, s.boot.perst = false →
    answers .pcieLinkLoss s fun t => t.host = { s.host with linkLost := true } ∧ s.changesOnly [.host] t) ∧
  (∀ s : State, s.boot.perst = true → exec .pcieLinkLoss s = .next s) ∧
  (∀ (s : State) (r : Req), isReady s = true → switchbackRuns s = true → (linkOf s 0).queue = [] → (linkOf s 1).prbs = false → s.cfg.state ≠ 3 →
    portPresent s 1 = true ∨ neighbour s 0 = none ∨ inService s 0 = false →
    answers (.softReset r 0x71000) s fun t => (linkOf t 0).state = .detect ∧ (linkOf t 0).out = portOff s 0 ∧ (linkOf t 0).prbs = false ∧
      (linkOf t 0).credits = [] ∧ (linkOf t 0).replay = [] ∧ (linkOf t 0).lanes = 0 ∧ (linkOf t 0).softRst = !portOff s 0 ∧
      (∀ p, p ≠ 0 → linkOf t p = linkOf s p) ∧ s.changesOnly [.out, .hostMem, .fab, .host] t) ∧
  (∀ (s : State) (r : Req) (n : Nat), isReady s = true → switchbackRuns s = true → inService s 0 = true → neighbour s 0 = some n →
    (∀ q < 12, q ≠ 0 → neighbour s q = some n → portPresent s q = false) → (linkOf s 1).prbs = false → s.cfg.state ≠ 3 →
    s.fab.absent.length < 64 → (∀ c < 8, (ctxOf s c).loaded = true → autoPlough s c = false ∨ fabricJob s c = 0) →
    answers (.softReset r 0x71000) s fun t => isAbsent t n = true) ∧
  (∀ (s : State) (r : Req), isReady s = true → switchbackRuns s = false → exec (.softReset r 0x71000) s = .next s) ∧
  (∀ (s : State) (r : Req), isReady s = true → noneLoaded s = true →
    answers (.softReset r 0x4B000) s fun t => mget t.post.run none 3 = none ∧ (∀ c < 8, mget t.post.slots 0 (24 + c) = 0) ∧
      mget t.post.rr 7 3 = 7 ∧ s.changesOnly [.post] t) ∧
  (∀ (s : State) (r : Req), isReady s = true → noneLoaded s = false → exec (.softReset r 0x4B000) s = .next (accessErr s 0x4B000 6 r.val 0x10)) ∧
  (∀ (s : State) (r : Req) (u : MediaUnit), isReady s = true → (unitOf s u).out = true →
    answers (.softReset r (unitPage u)) s fun t => unitOf t u = { unitOf s u with testing := false, result := 0 } ∧ s.changesOnly [.rink] t)

/-- R251, R252, R403, R422, R427, R502: Part-class faults, the loss of a supply or clock, and the end of an announcement.
Where the rules leave a point open it follows the model's choice: log 79, 98. -/
def Obligations.PartFaultsAndLoss : Prop :=
  (∀ (s : State) (unit inst reading : Nat), 460 ≤ reading → s.boot.aon = true → s.boot.stopped = false →
    answers (.thermalTrip unit inst reading) s fun t => t.pwr.thermtrip = true ∧ t.boot.announce = some (3, 6) ∧
      t.tel.ret.length = min 16 (s.tel.ret.length + 1) ∧ s.changesOnly [.out, .hostMem, .host, .tel, .pwr, .boot] t) ∧
  (∀ (s : State) (unit inst reading : Nat), reading < 460 → exec (.thermalTrip unit inst reading) s = .next s) ∧
  (∀ (s : State) (reading : Nat), reading < 5700 ∨ 6300 < reading → s.boot.regs = true → s.boot.aon = true → s.boot.stopped = false →
    answers (.supplyFault reading) s fun t => t.boot = { s.boot with announce := some (3, 6) } ∧ t.tel.ret.length = min 16 (s.tel.ret.length + 1) ∧
      s.changesOnly [.out, .hostMem, .host, .tel, .boot] t) ∧
  (∀ (s : State) (reading : Nat), s.boot.regs = false ∨ (5700 ≤ reading ∧ reading ≤ 6300) → exec (.supplyFault reading) s = .next s) ∧
  (∀ (s : State) (reading : Nat), s.boot.regs = true → s.boot.aon = true → s.boot.stopped = false →
    answers (.routerFault reading) s fun t => t.boot = { s.boot with announce := some (3, 6) } ∧ t.tel.ret.length = min 16 (s.tel.ret.length + 1) ∧
      s.changesOnly [.out, .hostMem, .host, .tel, .boot] t) ∧
  (∀ s : State, s.pwr.state = .active → s.boot.aon = true → s.boot.stopped = false →
    answers .coolantOkDeassert s fun t => t.pwr = { s.pwr with coolant := false } ∧ t.boot.announce = some (3, 6) ∧
      s.changesOnly [.out, .hostMem, .host, .tel, .pwr, .boot] t) ∧
  (∀ s : State, s.pwr.state ≠ .active →
    answers .coolantOkDeassert s fun t => t.pwr = { s.pwr with coolant := false } ∧ s.changesOnly [.pwr] t) ∧
  (∀ s : State, s.boot.aon = true →
    answers .aonLoss s fun t => t.boot.aon = false ∧ t.boot.stage = 0 ∧ t.boot.cause = 1 ∧ t.tel.ret = [] ∧ t.cfg.copies = s.cfg.copies ∧
      t.sec.counter = s.sec.counter ∧ t.boot.fw = s.boot.fw ∧ t.cfg.live = []) ∧
  (∀ s : State, s.boot.aon = true →
    answers .refclkLoss s fun t => t.boot.aon = true ∧ t.boot.regs = false ∧ t.boot.refclk = false ∧ t.pwr.state = .aonOnly ∧
      t.pwr.dead = true ∧ t.tel.ret.length = min 16 (s.tel.ret.length + 1) ∧ t.sec.counter = s.sec.counter) ∧
  (∀ (s : State) (cause : Nat), s.boot.announce = some (2, cause) →
    answers .announcementEnd s fun t => t.boot.stopped = true ∧ t.boot.cause = cause ∧ t.boot.stage = 0 ∧ t.boot.announce = none ∧
      t.tel.ret = s.tel.ret ∧ t.tel.cnt = [] ∧ t.cfg.live = [] ∧ t.cfg.copies = s.cfg.copies ∧ t.sec.counter = s.sec.counter ∧
      t.pwr.throttle = s.pwr.throttle ∧ t.pwr.thermtrip = false ∧ (∀ c < 8, (ctxOf t c).state = .idle)) ∧
  (∀ (s : State) (cause : Nat), s.boot.announce = some (3, cause) →
    answers .announcementEnd s fun t => t.boot.cause = cause ∧ t.boot.announce = none ∧ t.pwr.state = .lowPower ∧ t.pwr.dead = true ∧
      (∀ p < 16, (pairOf t p).gated = true) ∧ (∀ k < 12, (stackOf t k).selfRefresh = true) ∧ (∀ p < 12, (linkOf t p).out = true)) ∧
  (∀ s : State, s.boot.announce = none → exec .announcementEnd s = .next s)

/-- R402, R426, R427, R433 to R437: warm and cold triggers, and the way from power-on to READY. Where the rules leave a point
open it follows the model's choice: log 2, 50, 72. -/
def Obligations.PowerUpAndBoot : Prop :=
  (∀ (s : State) (straps : BitVec 3), s.boot.aon = false →
    answers (.aonPowerOnReset straps) s fun t => t.boot = { s.boot with aon := true, straps := straps, refclk := true } ∧ s.changesOnly [.boot] t) ∧
  (∀ s : State, s.boot.aon = true → s.boot.regs = false → s.boot.refclk = true →
    answers .regulatorStart s fun t => t.boot = { s.boot with regs := true, stage := 1 } ∧ t.pwr.state = .lowPower ∧ s.changesOnly [.pwr, .boot] t) ∧
  (∀ (s : State) (b : List CourseId) (k : Nat) (f : FwCopy), s.boot.stage = 1 → s.boot.regs = true → s.pwr.dead = false → pickFw s = some (k, f) →
    answers (.coldBoot b) s fun t => t.boot.stage = 3 ∧ t.boot.copy = k ∧ t.pwr.waking = true ∧ s.changesOnly [.sec, .pwr, .boot] t) ∧
  (∀ (s : State) (b : List CourseId), s.boot.stage = 1 → s.boot.regs = true → s.pwr.dead = false → pickFw s = none →
    answers (.coldBoot b) s fun t => t.boot.stage = 0xE ∧ t.out ≠ s.out ∧ (∀ p < 12, (linkOf t p).out = true)) ∧
  (∀ (s : State) (b : List CourseId), s.boot.stage ≠ 1 ∨ s.boot.regs = false ∨ s.pwr.dead = true → exec (.coldBoot b) s = .next s) ∧
  (∀ (s : State) (k : Nat) (f : FwCopy), s.boot.stopped = true → s.boot.perst = false → tapHolds s = false → pickFw s = some (k, f) →
    answers .warmRestart s fun t => t.boot.stopped = false ∧ t.boot.stage = 3 ∧ t.boot.copy = k ∧ t.pwr.waking = true ∧
      s.changesOnly [.sec, .pwr, .boot] t) ∧
  (∀ s : State, s.boot.stopped = false ∨ s.boot.perst = true ∨ tapHolds s = true → exec .warmRestart s = .next s) ∧
  (∀ (s : State) (a b : FwCopy), mget s.boot.fw ⟨true, 0, 0, 0, 0⟩ 0 = a → mget s.boot.fw ⟨true, 0, 0, 0, 0⟩ 1 = b → a.valid = true → b.valid = true →
    pickFw s = (if a.seq < b.seq then some (1, b) else some (0, a))) ∧
  (∀ s : State, s.boot.stage = 5 →
    answers .memoryTrainingComplete s fun t => t.boot.stage = 7 ∧ t.sec.scrubbing = true ∧ t.sec.devKey = none ∧ t.sec.sessions = [] ∧
      (∀ k < 12, (stackOf t k).trained = true ∧ (mget t.trw {} k).zero = true) ∧ s.changesOnly [.mem, .trw, .sec, .boot] t) ∧
  (∀ s : State, s.boot.stage = 8 →
    answers .ready s fun t => isReady t = true ∧ t.cfg.state = 0 ∧ s.changesOnly [.out, .hostMem, .host, .cfg, .boot] t) ∧
  (∀ (s : State) (v : Word), pageAnswers s 0x2000 = true → fld v 31 16 = 0x574D → v.getLsbD 0 = true → s.boot.aon = true →
    answers (.rstWarm v) s fun t => t.boot = { s.boot with announce := some (2, 3) } ∧ s.changesOnly [.boot] t) ∧
  (∀ s : State, s.boot.perst = false → s.boot.aon = true →
    answers .perstNAssert s fun t => t.boot = { s.boot with perst := true, announce := some (2, 2) } ∧ s.changesOnly [.boot] t) ∧
  (∀ s : State, answers .perstNDeassert s fun t => t.boot = { s.boot with perst := false } ∧ t.host = { s.host with linkLost := false } ∧
    s.changesOnly [.host, .boot] t) ∧
  (∀ s : State, s.boot.aon = true →
    answers (.rstact 1) s fun t => t.boot = { s.boot with announce := some (2, 4) } ∧ s.changesOnly [.boot] t) ∧
  (∀ s : State, s.boot.aon = true →
    answers (.rstact 2) s fun t => t.boot.aon = false ∧ t.boot.cause = 5 ∧ t.boot.stage = 0 ∧ t.sec.counter = s.sec.counter ∧
      t.cfg.copies = s.cfg.copies)

/-- R440, R442, R445 to R447, R442, R353: staging, checking, applying, discarding and saving the configuration. Where the rules
leave a point open it follows the model's choice: log 49, 71, 72. -/
def Obligations.ConfigurationStaging : Prop :=
  (∀ s : State, pageAnswers s 0x5000 = true → s.cfg.state < 3 →
    answers .cfgCheck s fun t => t.cfg = { s.cfg with checking := true } ∧ s.changesOnly [.cfg] t) ∧
  (∀ s : State, s.cfg.checking = true → checkAll s = none →
    answers .cfgCheckDone s fun t => t.cfg.state = (if s.cfg.state = 1 then 2 else s.cfg.state) ∧ t.cfg.result = 0x10000000 ∧
      t.cfg.checking = false ∧ t.cfg.live = s.cfg.live ∧ t.cfg.shadow = s.cfg.shadow ∧ s.changesOnly [.out, .host, .cfg] t) ∧
  (∀ (s : State) (rule off : Nat), s.cfg.checking = true → checkAll s = some (rule, off) → rule < 256 → off < 0x100000 →
    answers .cfgCheckDone s fun t => t.cfg.state = (if s.cfg.state = 2 then 1 else s.cfg.state) ∧ fld t.cfg.result 31 28 = 2 ∧
      fld t.cfg.result 27 20 = rule ∧ fld t.cfg.result 19 0 = off ∧ t.cfg.live = s.cfg.live ∧ s.changesOnly [.out, .host, .cfg] t) ∧
  (∀ s : State, pageAnswers s 0x5000 = true → s.cfg.state = 2 → partIdle s = false →
    answers .cfgApply s fun t => t.cfg = { s.cfg with state := 3 } ∧ s.changesOnly [.cfg] t) ∧
  (∀ s u : State, u = { s with cfg := { s.cfg with state := 3 } } → pageAnswers s 0x5000 = true → s.cfg.state = 2 → partIdle s = true →
    checkAgain u = none →
    answers .cfgApply s fun t => t.cfg.live = s.cfg.shadow ∧ t.cfg.shadow = s.cfg.shadow ∧ t.cfg.state = 0 ∧ t.cfg.dirty = [] ∧
      t.cfg.seq = (s.cfg.seq + 1) % 2 ^ 32 ∧ t.cfg.result = 0x30000000) ∧
  (∀ (s u : State) (x : Nat × Nat), u = { s with cfg := { s.cfg with state := 3 } } → pageAnswers s 0x5000 = true → s.cfg.state = 2 →
    partIdle s = true → checkAgain u = some x →
    answers .cfgApply s fun t => t.cfg.live = s.cfg.live ∧ t.cfg.shadow = s.cfg.shadow ∧ t.cfg.state = 1 ∧ t.cfg.seq = s.cfg.seq ∧
      s.changesOnly [.out, .host, .cfg] t) ∧
  (∀ s : State, pageAnswers s 0x5000 = true → s.cfg.state < 2 → exec .cfgApply s = .next (cfgResult s 6 0 0)) ∧
  (∀ (s : State) (k : Nat), pageAnswers s 0x5000 = true → s.cfg.state ≠ 5 → s.cfg.saving = none → saveTarget s = some k →
    answers .cfgSave s fun t => t.cfg.saving = some k ∧ copyValid t k = false ∧ mget t.cfg.copies none (1 - k) = mget s.cfg.copies none (1 - k) ∧
      s.changesOnly [.cfg] t) ∧
  (∀ (s : State) (k : Nat) (c : StoreCopy), s.cfg.saving = some k → mget s.cfg.copies none k = some c →
    answers (.cfgSaveDone true) s fun t => mget t.cfg.copies none k = some { c with valid := true } ∧ t.cfg.saving = none ∧
      t.cfg.result = 0x80000000 ∧ s.changesOnly [.out, .host, .cfg] t) ∧
  (∀ (s : State) (k : Nat), s.cfg.saving = some k →
    answers (.cfgSaveDone false) s fun t => copyValid t k = false ∧ t.cfg.saving = none ∧ t.cfg.result = 0x90000000 ∧
      s.changesOnly [.out, .host, .cfg] t)


/-- R370 to R374, R389, R397: tenant switches, the end of a scrub, sealed ranges, and the answer of a refusal. Where the rules
leave a point open it follows the model's choice: log 53, 73. -/
def Obligations.TenancyAndScrub : Prop :=
  (∀ s : State, isReady s = true → s.sec.busy = false → s.sec.scrubFailed = false → noneLoaded s = true → s.sec.xfer = [] →
    answers (.tenantSwitch .hrdm) s fun t => t.sec.scrubbing = true ∧ t.sec.busy = true ∧ t.sec.devKey = none ∧ t.sec.loadKeys = [] ∧
      t.sec.sessions = [] ∧ t.cfg.state = 5 ∧ (∀ k < 12, (mget t.trw {} k).zero = true) ∧ t.sec.counter = s.sec.counter ∧
      t.sec.slots = s.sec.slots ∧ s.changesOnly [.trw, .cfg, .sec] t) ∧
  (∀ (s : State) (p : MsgPath) (n : Nat), spdmUp s = true → s.sec.busy = false → s.sec.scrubbing = false → s.sec.scrubFailed = false →
    noneLoaded s = true → s.sec.xfer = [] →
    answers (.tenantSwitch (.spdm p n)) s fun t => t.sec.scrubbing = true ∧ t.sec.devKey = none ∧ t.sec.sessions = [] ∧ t.cfg.state = 5 ∧
      (∀ k < 12, (mget t.trw {} k).zero = true) ∧ s.changesOnly [.trw, .cfg, .sec] t) ∧
  (∀ s : State, isReady s = true → s.sec.busy = false → noneLoaded s = false → exec (.tenantSwitch .hrdm) s = .next (secRefuse s .hrdm)) ∧
  (∀ s : State, isReady s = true → s.sec.busy = true → exec (.tenantSwitch .hrdm) s = .next (accessErr s 0x8000 4 4 0x8100)) ∧
  (∀ s : State, s.sec.scrubbing = true → s.sec.scrubFailed = false → s.sec.waiting = [] → s.boot.stage ≠ 7 →
    answers (.scrubComplete none) s fun t => t.sec.scrubbing = false ∧ t.sec.epoch = (s.sec.epoch + 1) % 2 ^ 32 ∧ t.cfg.state = 0 ∧
      (∀ a, devGet t a = 0) ∧ (∀ i, mget t.tile.vreg 0 i = 0) ∧ (∀ k < 512, ∀ i < 256, semGet t k i = 0) ∧ t.sec.images = [] ∧ t.sec.wsets = [] ∧
      t.sec.sealed = [] ∧ t.job.zeroing = [] ∧ (∀ c < 8, (ctxOf t c).state = (ctxOf s c).state ∧ (ctxOf t c).man = {}) ∧
      t.sec.counter = s.sec.counter ∧ t.sec.slots = s.sec.slots ∧ t.tel.ret = s.tel.ret ∧ t.tel.ticks = s.tel.ticks) ∧
  (∀ s : State, s.sec.scrubbing = true → s.sec.scrubFailed = false → s.boot.stage = 7 → s.sec.waiting = [] →
    answers (.scrubComplete none) s fun t => t.boot.stage = 8 ∧ t.sec.scrubbing = false ∧ t.cfg.state = 5 ∧ (∀ a, devGet t a = 0) ∧ t.tel.ret = s.tel.ret) ∧
  (∀ (s : State) (k : StackId) (a : Nat), s.sec.scrubbing = true → s.sec.scrubFailed = false → s.sec.waiting = [] →
    answers (.scrubComplete (some (k, a))) s fun t => t.sec.scrubbing = true ∧ t.sec.scrubFailed = true ∧ t.sec.epoch = s.sec.epoch ∧
      s.changesOnly [.out, .hostMem, .host, .sec] t) ∧
  (∀ (s : State) (c : Ctx) (a n : Nat), s.job.zeroing = [(c.val, [(a, n)])] → a + n ≤ 0x9000000000 →
    answers (.sealedRangeZeroed c) s fun t => (∀ i < n, devGet t (a + i) = 0) ∧
      (∀ x, (∀ i < n, devAddr x ≠ devAddr (a + i)) → devGet t x = devGet s x) ∧ t.job.zeroing = [] ∧ s.changesOnly [.dev, .mem, .job] t) ∧
  (∀ (s : State) (rest : List Refused), s.sec.refusing = .hrdm :: rest → s.sec.scrubbing = false → s.sec.waiting = [] →
    answers .secRefused s fun t => t.sec.result = 2 ∧ t.sec.refusing = rest ∧ (t.sec.busy = true ↔ rest ≠ []) ∧
      mget t.tel.cnt 0 0x8120 = satAdd64 (mget s.tel.cnt 0 0x8120) 1 ∧ s.changesOnly [.out, .host, .tel, .sec] t)

/-- R383 to R388, R390 to R394: weight chunks and sets, and the three operations on keys. Where the rules leave a point open it
follows the model's choice: log 33, 52. -/
def Obligations.WeightsAndKeys : Prop :=
  (∀ (s : State) (ch : ChanId) (b d : List Byte) (st a n k : Nat) (x : Xfer), s.host.d3 = false → s.host.linkLost = false → s.boot.perst = false →
    (chanOf s ch.val).cur = some (d, st) →
    mget s.sec.xfer none ch.val = some x → x.refused = false → s.sec.scrubbing = false → s.sec.scrubFailed = false →
    chunkHeaderOk ch.val b = true → chunkNext s b = true → n = lat b 0xC 4 → chunkPlace s d x n = true → lat b 4 1 = 0 →
    a = lat d 8 8 + x.plain → k = lat b 5 1 → x.host + b.length < lat d 0x10 4 → a + n ≤ 0x9000000000 →
    answers (.weightChunk ch b) s fun t => devRead t a n = (b.drop 64).take n ∧ (wset t k).state = 1 ∧ (wset t k).bytes = (wset s k).bytes + n ∧
      (wset t k).leaves = (wset s k).leaves ++ [merkleLeaf ((b.drop 64).take n)] ∧
      mget t.sec.xfer none ch.val = some { x with host := x.host + b.length, plain := x.plain + n, set := some k } ∧
      (∀ y, (∀ i < n, devAddr y ≠ devAddr (a + i)) → devGet t y = devGet s y) ∧ s.changesOnly [.dev, .mem, .sec] t) ∧
  (∀ (s : State) (ch : ChanId) (b d : List Byte) (st k : Nat) (x : Xfer), s.host.d3 = false → s.host.linkLost = false → s.boot.perst = false →
    (chanOf s ch.val).cur = some (d, st) →
    mget s.sec.xfer none ch.val = some x → x.refused = false → s.sec.scrubbing = false → 64 ≤ b.length → lat b 0 4 = 0x42574B52 →
    chunkHeaderOk ch.val b = false → k = lat b 5 1 → x.host + b.length < lat d 0x10 4 →
    answers (.weightChunk ch b) s fun t => (wset t k).state = 3 ∧ (∃ y, mget t.sec.xfer none ch.val = some y ∧ y.refused = true)) ∧
  (∀ (s : State) (k : Fin 256), isReady s = true → s.sec.busy = false → s.sec.scrubFailed = false → (wset s k.val).state = 1 →
    (rw s 0x8104).toNat = (wset s k.val).leaves.length →
    answers (.weightSetClose k) s fun t => (wset t k.val).state = 2 ∧
      (wset t k.val).root = merkleRoot (wset s k.val).leaves.length (wset s k.val).leaves ∧ t.sec.result = 1 ∧
      (∀ j, j ≠ k.val → wset t j = wset s j) ∧ s.changesOnly [.out, .host, .sec] t) ∧
  (∀ (s : State) (k : Fin 256), isReady s = true → s.sec.busy = false → s.sec.scrubFailed = false → (wset s k.val).state = 1 →
    (rw s 0x8104).toNat ≠ (wset s k.val).leaves.length →
    answers (.weightSetClose k) s fun t => (wset t k.val).state = 3 ∧ t.sec.refusing = s.sec.refusing ++ [.hrdm] ∧ t.sec.busy = true ∧
      s.changesOnly [.sec] t) ∧
  (∀ (s : State) (p : MsgPath) (n : Nat) (setId : Dword) (key : List Byte) (x : Session), spdmUp s = true → s.sec.busy = false →
    s.sec.scrubbing = false → s.sec.scrubFailed = false → sessionOf s p n = some x → x.owner = true → s.sec.devKey = none →
    answers (.setKey p n setId key) s fun t => t.sec.devKey = some (setId.toNat, key) ∧ s.changesOnly [.out, .sec] t) ∧
  (∀ (s : State) (p : MsgPath) (n : Nat) (setId : Dword) (key : List Byte) (x : Session), spdmUp s = true → s.sec.busy = false →
    s.sec.scrubbing = false → sessionOf s p n = some x → x.owner = false →
    exec (.setKey p n setId key) s = .next (secRefuse s (.spdm p))) ∧
  (∀ (s : State) (p : MsgPath) (n job chan : Nat) (loadId : Word) (d : Sha) (key : List Byte) (x : Session), spdmUp s = true →
    s.sec.busy = false → s.sec.scrubbing = false → s.sec.scrubFailed = false → sessionOf s p n = some x →
    (d, configDigest s, s.sec.images) ∈ x.reports → job < 8 → (ctxOf s job).state = .loaded ∨ (ctxOf s job).state = .parked → chan < 4 →
    chanKey s chan = none →
    answers (.releaseKey p n job chan loadId d key) s fun t =>
      chanKey t chan = some { job := job, loadId := loadId, key := key, cfg := configDigest s, images := s.sec.images } ∧
      (∀ j, j ≠ chan → chanKey t j = chanKey s j) ∧ s.changesOnly [.out, .sec] t) ∧
  (∀ (s : State) (p : MsgPath) (seq : Nat) (key sig : List Byte), spdmUp s = true → s.sec.busy = false → s.sec.scrubbing = false →
    s.sec.scrubFailed = false → s.sec.counter < 256 → seq = s.sec.counter + 1 → key.length = 97 → updateSigned s seq key sig = true →
    answers (.ownerKeyUpdate p seq key sig true) s fun t => t.sec.counter = s.sec.counter + 1 ∧
      (∃ k < 2, slotOf t k = some ⟨seq, key⟩ ∧ ownerSlot s ≠ some k ∧ (∀ j, j ≠ k → slotOf t j = slotOf s j)) ∧ s.changesOnly [.out, .sec] t) ∧
  (∀ (s : State) (p : MsgPath) (seq : Nat) (key sig : List Byte) (ok : Bool), spdmUp s = true → s.sec.busy = false → s.sec.scrubbing = false →
    seq ≠ s.sec.counter + 1 ∨ s.sec.counter = 256 →
    exec (.ownerKeyUpdate p seq key sig ok) s = .next (secRefuse s (.spdm p)))

/-- R376 to R379: attestation. Where the rules leave a point open it follows the model's choice: log 31, 32. -/
def Obligations.Attestation : Prop :=
  (∀ (s : State) (p : MsgPath), spdmUp s = true →
    answers (.getVersion p) s fun t => t.out = s.out ++ [.spdm p 0x04 [0x12, 0x13]] ∧ mget t.sec.spdmVer 0 (pathKey p) = 0 ∧ s.changesOnly [.out, .sec] t) ∧
  (∀ (s : State) (p : MsgPath) (v12 : Bool), spdmUp s = true →
    answers (.getCapabilities p v12) s fun t => t.out = s.out ++ [.spdm p 0x61 [if v12 = true then 0x12 else 0x13]] ∧
      mget t.sec.spdmVer 0 (pathKey p) = (if v12 = true then 12 else 13) ∧ s.changesOnly [.out, .sec] t) ∧
  (∀ (s : State) (p : MsgPath), spdmUp s = true → exec (.negotiateAlgorithms p) s = .next { s with out := s.out ++ [.spdm p 0x63 []] }) ∧
  (∀ (s : State) (p : MsgPath), spdmUp s = true →
    exec (.getDigests p) s = .next { s with out := s.out ++ [.spdm p 0x01 (shaBytes (Config.sha384 Config.certChain))] }) ∧
  (∀ (s : State) (p : MsgPath) (off n : Nat), spdmUp s = true →
    exec (.getCertificate p off n) s = .next { s with out := s.out ++ [.spdm p 0x02 ((Config.certChain.drop off).take n)] }) ∧
  (∀ (s : State) (p : MsgPath) (nonce : List Byte), spdmUp s = true →
    answers (.challenge p nonce) s fun t => t.out = s.out ++ [.spdm p 0x03 (shaBytes (Config.sha384 Config.certChain) ++
      Config.ecdsaSign s.free (Config.sha384 (shaBytes (Config.sha384 Config.certChain) ++ nonce)))] ∧ s.changesOnly [.out] t) ∧
  (∀ (s : State) (p : MsgPath) (i : Nat), spdmUp s = true → 0 < i → i ≤ 7 →
    exec (.getMeasurements p i) s = .next { s with out := s.out ++ [.spdm p 0x60 (BitVec.ofNat 8 i :: measurement s i)] }) ∧
  (∀ (s : State) (p : MsgPath) (m : Bool), spdmUp s = true → s.sec.busy = false → s.sec.scrubbing = false → s.sec.scrubFailed = false →
    s.sec.sessions.length < 2 →
    answers (.keyExchange p m) s fun t => (∃ x, t.sec.sessions = s.sec.sessions ++ [x] ∧ x.path = p ∧ x.est = false ∧ x.owner = false ∧ x.mutAuth = m) ∧
      s.changesOnly [.out, .sec] t) ∧
  (∀ (s : State) (p : MsgPath) (m : Bool), spdmUp s = true → s.sec.busy = false → s.sec.scrubbing = false → 2 ≤ s.sec.sessions.length →
    exec (.keyExchange p m) s = .next (secRefuse s (.spdm p))) ∧
  (∀ (s : State) (p : MsgPath) (x : Session) (leaf : Option (List Byte)), spdmUp s = true → s.sec.busy = false → s.sec.scrubbing = false →
    s.sec.scrubFailed = false → s.sec.sessions = [x] → x.path = p → x.est = false → x.mutAuth = false →
    answers (.finish p x.id leaf true) s fun t => t.sec.sessions = [{ x with est := true, owner := false }] ∧ s.changesOnly [.out, .sec] t) ∧
  (∀ (s : State) (p : MsgPath) (x : Session) (leaf : Option (List Byte)) (ok : Bool), spdmUp s = true → s.sec.busy = false →
    s.sec.scrubbing = false → s.sec.sessions = [x] → x.path = p → x.est = false → ok = false ∨ (x.mutAuth = true ∧ leaf = none) →
    exec (.finish p x.id leaf ok) s = .next (secRefuse s (.spdm p))) ∧
  (∀ (s : State) (p : MsgPath) (n : Nat), spdmUp s = true → (sessionOf s p n).isSome = true →
    exec (.spdmHeartbeat p n) s = .next { s with out := s.out ++ [.spdm p 0x68 []] } ∧
    exec (.keyUpdate p n) s = .next { s with out := s.out ++ [.spdm p 0x69 []] }) ∧
  (∀ (s : State) (p : MsgPath) (n : Nat), spdmUp s = true → (sessionOf s p n).isSome = true →
    answers (.endSession p n) s fun t => (∀ x ∈ t.sec.sessions, x.id ≠ n) ∧ (∀ x ∈ s.sec.sessions, x.id ≠ n → x ∈ t.sec.sessions) ∧
      s.changesOnly [.out, .sec] t) ∧
  (∀ (s : State) (p : MsgPath) (h : Nat) (bs : List Byte), spdmUp s = true →
    answers (.chunkSend p h bs false) s fun t =>
      mget t.sec.chunks [] (2 * pathKey p) = mget s.sec.chunks [] (2 * pathKey p) ++ bs ∧ s.changesOnly [.out, .sec] t) ∧
  (∀ (s : State) (p : MsgPath) (h i : Nat) (b : List Byte), spdmUp s = true → b = mget s.sec.chunks [] (2 * pathKey p + 1) → 1024 * i < b.length →
    exec (.chunkGet p h i) s = .next { s with out := s.out ++ [.spdm p 0x06 (BitVec.ofNat 8 h :: (b.drop (1024 * i)).take 1024)] }) ∧
  (∀ (s : State) (p : MsgPath) (nonce : List Byte), spdmUp s = true → s.sec.scrubbing = false →
    answers (.report p none nonce) s fun t => t.out = s.out ++ [.spdm p 0x7E (1 :: reportBytes s s.free nonce)] ∧
      mget t.sec.chunks [] (2 * pathKey p + 1) = reportBytes s s.free nonce ∧ s.changesOnly [.out, .sec] t) ∧
  (∀ (s : State) (p : MsgPath) (n : Option Nat) (nonce : List Byte), spdmUp s = true → s.sec.scrubbing = true → s.sec.scrubFailed = false →
    answers (.report p n nonce) s fun t => t.out = s.out ∧ t.sec.waiting = s.sec.waiting ++ [.report p n nonce] ∧ s.changesOnly [.sec] t)

/-- R428, R434, R451, R455, R456, R458 to R464: register access of every requester, the interrupt and error registers, queue
read ports, queue configuration, MCTP and I3C. Where the rules leave a point open it follows the model's choice: log 24, 49. -/
def Obligations.RegisterAccess : Prop :=
  (∀ (s : State) (r : Req) (off : Nat) (v : Dword), reachable s r.val = true → s.host.linkLost = false → isReady s = true → off % 4 = 0 →
    0x400 ≤ off → off < 0x800 →
    answers (.registerWrite r false off 32 v) s fun t => rw t off = v.extractLsb' 0 32 &&& 0x7FF ∧ (∀ o, o ≠ off → rw t o = rw s o) ∧
      s.changesOnly [.regs] t) ∧
  (∀ (s : State) (r : Req) (off : Nat) (v : Dword), reachable s r.val = true → s.host.linkLost = false → off % 4 = 0 →
    exec (.registerWrite r false off 64 v) s = .next (writeWord r.val (off + 4) (v.extractLsb' 32 32) (writeWord r.val off (v.extractLsb' 0 32) s))) ∧
  (∀ (s : State) (r : Req) (off w : Nat) (v : Dword), reachable s r.val = true → s.host.linkLost = false → isReady s = true →
    (pageIndex (off / 0x1000 * 0x1000)).isSome = true → (off % 4 ≠ 0 ∨ (w ≠ 32 ∧ w ≠ 64)) →
    exec (.registerWrite r false off w v) s = .next (accessErr s (off / 0x1000 * 0x1000) 1 r.val off)) ∧
  (∀ (s : State) (r : Req) (off : Nat) (v : Dword), reachable s r.val = true → s.host.linkLost = false → off % 4 = 0 →
    pageIndex (off / 0x1000 * 0x1000) = none →
    exec (.registerWrite r false off 32 v) s = .next (accessErr s 0 7 r.val off)) ∧
  (∀ (s : State) (r : Req) (off : Nat) (v : Dword), reachable s r.val = true → s.host.linkLost = false → off % 4 = 0 → 3 ≤ s.boot.stage →
    (pageIndex (off / 0x1000 * 0x1000)).isSome = true → pageAnswers s (off / 0x1000 * 0x1000) = false →
    exec (.registerWrite r false off 32 v) s = .next (accessErr s 0 3 r.val off)) ∧
  (∀ (s : State) (r : Req) (bar2 : Bool) (off w : Nat) (v : Dword), reachable s r.val = false → s.host.linkLost = false →
    exec (.registerWrite r bar2 off w v) s = .next s) ∧
  (∀ (s : State) (r : Req) (p : Nat), (pageIndex (p / 0x1000 * 0x1000)).isSome = true → pageAnswers s (p / 0x1000 * 0x1000) = true →
    answers (.accessErrRead r p) s fun t => t.out = s.out ++ [.reply r.val (leBytes 4 (accWord (mget s.host.acc {} (p / 0x1000 * 0x1000))).toNat)] ∧
      mget t.host.acc {} (p / 0x1000 * 0x1000) = {} ∧ (∀ q, q ≠ p / 0x1000 * 0x1000 → mget t.host.acc {} q = mget s.host.acc {} q) ∧
      s.changesOnly [.out, .host] t) ∧
  (∀ (s : State) (p : Nat) (v : Word), (pageIndex (p / 0x1000 * 0x1000)).isSome = true → pageAnswers s (p / 0x1000 * 0x1000) = true →
    answers (.irqStatusClear p v) s fun t =>
      mget t.host.irqStatus 0 (p / 0x1000 * 0x1000) = mget s.host.irqStatus 0 (p / 0x1000 * 0x1000) &&& ~~~ v ∧
      (∀ q, q ≠ p / 0x1000 * 0x1000 → mget t.host.irqStatus 0 q = mget s.host.irqStatus 0 q) ∧ s.changesOnly [.host] t) ∧
  (∀ (s : State) (p k : Nat) (v st en : Word), pageIndex (p / 0x1000 * 0x1000) = some k → pageAnswers s (p / 0x1000 * 0x1000) = true →
    st = mget s.host.irqStatus 0 (p / 0x1000 * 0x1000) → en = mget s.host.irqEnable 0 (p / 0x1000 * 0x1000) →
    mget s.host.msixOpen false ((rw s (0x400 + 4 * (64 + k))).toNat % 2048) = true → s.host.d3 = false → s.host.linkLost = false →
    answers (.irqForce p v) s fun t => mget t.host.irqStatus 0 (p / 0x1000 * 0x1000) = st ||| (v &&& irqMask (p / 0x1000 * 0x1000)) ∧
      t.out = s.out ++ (if st &&& en = 0 ∧ (st ||| (v &&& irqMask (p / 0x1000 * 0x1000))) &&& en ≠ 0
        then [.msix ((rw s (0x400 + 4 * (64 + k))).toNat % 2048)] else []) ∧ s.changesOnly [.out, .host] t) ∧
  (∀ (s : State) (c : Ctx) (v : Word), isReady s = true → v.getLsbD 0 = true →
    answers (.queuePop (jobBase c.val + 0x108) v) s fun t => (ctxOf t c.val).fab.late = (ctxOf s c.val).fab.late.drop 1 ∧ s.changesOnly [.job] t) ∧
  (∀ (s : State) (k : StackId) (v : Word), isReady s = true → v.getLsbD 0 = true →
    answers (.queuePop (hbmPage k.val + 0x188) v) s fun t => mget t.tel.logs [] (hbmPage k.val + 0x180) = (mget s.tel.logs [] (hbmPage k.val + 0x180)).drop 1 ∧
      s.changesOnly [.tel] t) ∧
  (∀ (s : State) (d : DieId) (v : Word), isReady s = true → v.getLsbD 0 = true →
    answers (.queuePop (0x10188 + 0x1000 * d.val) v) s fun t => mget t.tel.logs [] (0x10180 + 0x1000 * d.val) = (mget s.tel.logs [] (0x10180 + 0x1000 * d.val)).drop 1 ∧
      s.changesOnly [.tel] t) ∧
  (∀ (s : State) (c : Ctx) (v : Word), isReady s = true → v.getLsbD 0 = true →
    answers (.queuePop (0x80408 + 0x80 * c.val) v) s fun t => mget t.rink.merr [] c.val = (mget s.rink.merr [] c.val).drop 1 ∧ s.changesOnly [.rink] t) ∧
  (∀ (s : State) (r : Req) (v : Word), pageAnswers s 0 = true → slotsOk .hostEvq v.toNat = true →
    answers (.queueConfigWrite r 0x128 v) s fun t => rw t 0x128 = v ∧ t.host.evq = { s.host.evq with prod := 0, cons := 0 } ∧
      s.changesOnly [.regs, .host] t) ∧
  (∀ (s : State) (r : Req) (c : Ctx) (v : Word), isReady s = true → (ctxOf s c.val).state ≠ .running → (ctxOf s c.val).state ≠ .draining →
    (mget s.host.lows none (reqKey r.val (jobBase c.val + 0x80))).getD (rw s (jobBase c.val + 0x80)) &&& 63 = 0 →
    answers (.queueConfigWrite r (jobBase c.val + 0x84) v) s fun t => rw t (jobBase c.val + 0x84) = v ∧
      rw t (jobBase c.val + 0x80) = (mget s.host.lows none (reqKey r.val (jobBase c.val + 0x80))).getD (rw s (jobBase c.val + 0x80)) ∧
      (ctxOf t c.val).evq = { (ctxOf s c.val).evq with prod := 0, cons := 0, seq := 0, phase := true } ∧
      mget t.host.lows none (reqKey r.val (jobBase c.val + 0x80)) = none ∧ s.changesOnly [.job, .regs, .host] t) ∧
  (∀ (s : State) (r : Req) (c : Ctx) (v : Word), isReady s = true → ((ctxOf s c.val).state = .running ∨ (ctxOf s c.val).state = .draining) →
    exec (.queueConfigWrite r (jobBase c.val + 0x88) v) s = .next (accessErr s 0x7000 8 r.val (jobBase c.val + 0x88))) ∧
  (∀ (s : State) (r : Req) (ch : ChanId) (v : Word), pageAnswers s 0 = true → slotsOk (.dma ch.val) v.toNat = false →
    exec (.queueConfigWrite r (chanBase ch.val + 8) v) s = .next (accessErr s 0 10 r.val (chanBase ch.val + 8))) ∧
  (∀ (s : State) (p : MsgPath) (eid : Byte), mctpUp s p = true → s.host.linkLost = false →
    answers (.setEndpointId p eid) s fun t => mget t.host.eid 0 (pathKey p) = eid.toNat ∧ s.changesOnly [.out, .host] t) ∧
  (∀ (s : State) (p : MsgPath) (off : Nat), mctpUp s p = true → s.host.linkLost = false →
    answers (.mctpRegisterRead p off 1) s fun t =>
      t.out = s.out ++ [.mctp p (completion s off 1 :: leBytes 4 (readWord s (pathReq p) (off / 4 * 4)).1.toNat)] ∧
      s.changesOnly [.out, .job, .host] t) ∧
  (∀ (s : State) (p : MsgPath) (off : Nat) (v : Word), mctpUp s p = true → reachable s (pathReq p) = true → s.host.linkLost = false → isReady s = true → 0x400 ≤ off → off < 0x800 → off % 4 = 0 →
    answers (.mctpRegisterWrite p off [v]) s fun t => rw t off = v &&& 0x7FF ∧ t.out = s.out ++ [.mctp p [0]] ∧ s.changesOnly [.out, .regs] t) ∧
  (∀ (s : State) (off v : Word), s.boot.aon = true → s.host.linkLost = false → isReady s = true → 0x400 ≤ off.toNat → off.toNat < 0x800 → off.toNat % 4 = 0 →
    answers (.i3cPrivateWrite (leBytes 4 off.toNat ++ leBytes 4 v.toNat)) s fun t => rw t off.toNat = v &&& 0x7FF ∧ t.host.i3cOff = off.toNat ∧
      s.changesOnly [.regs, .host] t) ∧
  (∀ (s : State) (n : Nat), s.boot.aon = true →
    answers (.i3cPrivateRead n) s fun t => t.host.i3cOff = s.host.i3cOff + 4 * n ∧
      t.out = s.out ++ [.reply 6 ((readWords s 6 (s.host.i3cOff / 4 * 4) n).1.flatMap fun w => leBytes 4 w.toNat)] ∧ s.changesOnly [.out, .job, .host] t) ∧
  (∀ (s : State) (a : BitVec 7), s.boot.aon = true →
    answers (.dynamicAddressAssignment a) s fun t => t.host.i3cAddr = some a ∧ s.changesOnly [.host] t) ∧
  (∀ s : State, answers (.d3hotTransition true) s fun t => t.host.d3 = true ∧ t.out = s.out ∧ s.changesOnly [.host] t) ∧
  (∀ (s : State) (v : Nat), s.host.msixPend = [(v, true)] → mget s.host.msixOpen false v = true → s.host.linkLost = false →
    answers (.d3hotTransition false) s fun t => t.host.d3 = false ∧ t.out = s.out ++ [.msix v] ∧ t.host.msixPend = [] ∧ s.changesOnly [.out, .host] t)

/-- R437, R438, R452 to R455, R463, R467: the BAR4 window, doorbells, host DMA, and the firmware window. Where the rules leave a
point open it follows the model's choice: log 42, 44, 46, 50. -/
def Obligations.HostMemoryAndFirmware : Prop :=
  (∀ (s : State) (r : Req) (hi lo : Word), pageAnswers s 0 = true → lo = (mget s.host.lows none (reqKey r.val 0x108)).getD (rw s 0x108) →
    (lo.toNat + 2 ^ 32 * hi.toNat) % 2 ^ s.host.bar4Log = 0 →
    answers (.bar4BaseWrite r hi) s fun t => rw64 t 0x108 = lo.toNat + 2 ^ 32 * hi.toNat ∧ s.changesOnly [.regs, .host] t) ∧
  (∀ (s : State) (r : Req) (hi lo : Word), pageAnswers s 0 = true → lo = (mget s.host.lows none (reqKey r.val 0x108)).getD (rw s 0x108) →
    (lo.toNat + 2 ^ 32 * hi.toNat) % 2 ^ s.host.bar4Log ≠ 0 →
    answers (.bar4BaseWrite r hi) s fun t => rw64 t 0x108 = rw64 s 0x108 ∧ (mget t.host.acc {} 0).count ≠ 0 ∧ s.changesOnly [.out, .host] t) ∧
  (∀ (s : State) (n : Nat), 30 ≤ n → n ≤ 41 →
    answers (.bar4Resize n) s fun t => t.host.bar4Log = n ∧ rw64 t 0x108 = (if rw64 s 0x108 % 2 ^ n = 0 then rw64 s 0x108 else 0) ∧
      s.changesOnly [.regs, .host] t) ∧
  (∀ (s : State) (off n a : Nat), reachable s 4 = true → s.host.linkLost = false → off + n ≤ 2 ^ s.host.bar4Log → a = rw64 s 0x108 + off →
    s.mem.upsets = [] → accessBarred s a n = false → poisonedAt s a n = none →
    answers (.bar4Read off n) s fun t => t.out = s.out ++ [.reply 4 (devRead s a n)] ∧ s.changesOnly [.out] t) ∧
  (∀ (s : State) (off n a : Nat), reachable s 4 = true → s.host.linkLost = false → off + n ≤ 2 ^ s.host.bar4Log → a = rw64 s 0x108 + off →
    accessBarred s a n = true →
    answers (.bar4Read off n) s fun t => .reply 4 (List.replicate n 0) ∈ t.out ∧ t.host.bar4Err = (if s.host.bar4ErrHeld = true then s.host.bar4Err else a) ∧
      t.host.bar4ErrHeld = true ∧ s.changesOnly [.out, .host] t) ∧
  (∀ (s : State) (off a : Nat) (bs : List Byte), reachable s 4 = true → s.host.linkLost = false → off + bs.length ≤ 2 ^ s.host.bar4Log →
    a = rw64 s 0x108 + off → accessBarred s a bs.length = false →
    answers (.bar4Write off bs) s fun t => devRead t a bs.length = bs ∧
      (∀ x, (∀ i < bs.length, devAddr x ≠ devAddr (a + i)) → devGet t x = devGet s x) ∧
      (∀ p ∈ t.mem.bedLines, p.2 ∉ touchLines 128 a bs.length) ∧ s.changesOnly [.dev, .mem] t) ∧
  (∀ (s : State) (off a : Nat) (bs : List Byte), reachable s 4 = true → s.host.linkLost = false → off + bs.length ≤ 2 ^ s.host.bar4Log →
    a = rw64 s 0x108 + off → accessBarred s a bs.length = true →
    answers (.bar4Write off bs) s fun t => t.host.bar4ErrHeld = true ∧ (mget t.host.acc {} 0).count ≠ 0 ∧ s.changesOnly [.out, .host] t) ∧
  (∀ (s : State) (c : Ctx) (i : Nat), i < evqSlots s c.val →
    answers (.eventQueueDoorbell (some c) i) s fun t => (ctxOf t c.val).evq = { (ctxOf s c.val).evq with cons := i } ∧ s.changesOnly [.job] t) ∧
  (∀ (s : State) (i : Nat), i < (rw s 0x128).toNat →
    answers (.eventQueueDoorbell none i) s fun t => t.host.evq = { s.host.evq with cons := i } ∧ s.changesOnly [.host] t) ∧
  (∀ (s : State) (i : Nat), (rw s 0x128).toNat ≤ i → exec (.eventQueueDoorbell none i) s = .next (accessErr s 0 7 4 0x9000)) ∧
  (∀ (s : State) (ch : ChanId) (i : Nat), i < chanSlots s ch.val →
    answers (.dmaDoorbell ch i) s fun t => chanOf t ch.val = { chanOf s ch.val with tail := i } ∧ s.changesOnly [.host] t) ∧
  (∀ (s : State) (ch : ChanId) (i : Nat), chanSlots s ch.val ≤ i → exec (.dmaDoorbell ch i) s = .next (accessErr s 0 7 4 (0x8000 + ch.val * 8))) ∧
  (∀ (s : State) (ch : ChanId) (d : List Byte) (h v n : Nat), dmaReady s ch.val = true →
    d = s.hostMem.read (rw64 s (chanBase ch.val) + 32 * (chanOf s ch.val).head) 32 → dmaBad ch.val d = false → bit (lat d 0x15 1) 0 = false →
    h = lat d 0 8 → v = lat d 8 8 → n = lat d 0x10 4 → lat d 0x14 1 = 0 →
    (if lat d 0x16 1 = 0xFF then accessBarred s v n = false else regionCheck (ctxOf s (lat d 0x16 1)).man 1 v n = none) →
    (∀ i < n, devAddr (v + i) ≠ none) →
    answers (.hostDmaDescriptor ch []) s fun t => devRead t v n = s.hostMem.read h n ∧ (chanOf t ch.val).cur = some (d, 1) ∧
      (∀ x, (∀ i < n, devAddr x ≠ devAddr (v + i)) → devGet t x = devGet s x) ∧ t.hostMem = s.hostMem ∧ s.changesOnly [.dev, .mem, .host] t) ∧
  (∀ (s : State) (ch : ChanId) (d : List Byte) (h v n : Nat), dmaReady s ch.val = true →
    d = s.hostMem.read (rw64 s (chanBase ch.val) + 32 * (chanOf s ch.val).head) 32 → dmaBad ch.val d = false → bit (lat d 0x15 1) 0 = false →
    h = lat d 0 8 → v = lat d 8 8 → n = lat d 0x10 4 → lat d 0x14 1 = 1 →
    (if lat d 0x16 1 = 0xFF then accessBarred s v n = false else regionCheck (ctxOf s (lat d 0x16 1)).man 0 v n = none) →
    s.mem.upsets = [] → poisonedAt s v n = none → (∀ i < n, isSealed s (v + i) = false) →
    answers (.hostDmaDescriptor ch []) s fun t => t.hostMem.read h n = devRead s v n ∧ (chanOf t ch.val).cur = some (d, 1) ∧
      s.changesOnly [.hostMem, .host] t) ∧
  (∀ (s : State) (ch : ChanId) (d : List Byte), dmaReady s ch.val = true →
    d = s.hostMem.read (rw64 s (chanBase ch.val) + 32 * (chanOf s ch.val).head) 32 → dmaBad ch.val d = true →
    answers (.hostDmaDescriptor ch []) s fun t => (chanOf t ch.val).cur = some (d, 6) ∧ s.changesOnly [.host] t) ∧
  (∀ (s : State) (ch : ChanId) (d : List Byte), dmaReady s ch.val = true →
    d = s.hostMem.read (rw64 s (chanBase ch.val) + 32 * (chanOf s ch.val).head) 32 → dmaBad ch.val d = false → bit (lat d 0x15 1) 0 = false →
    lat d 0x16 1 < 8 → (regionCheck (ctxOf s (lat d 0x16 1)).man (if lat d 0x14 1 = 1 then 0 else 1) (lat d 8 8) (lat d 0x10 4)).isSome = true →
    answers (.hostDmaDescriptor ch []) s fun t => (chanOf t ch.val).cur = some (d, 3) ∧ s.changesOnly [.host] t) ∧
  (∀ (s : State) (ch : ChanId) (d : List Byte), dmaReady s ch.val = true →
    d = s.hostMem.read (rw64 s (chanBase ch.val) + 32 * (chanOf s ch.val).head) 32 → dmaBad ch.val d = false → bit (lat d 0x15 1) 0 = true →
    answers (.hostDmaDescriptor ch []) s fun t => (chanOf t ch.val).cur = some (d, 0) ∧ mget t.sec.xfer none ch.val = some {} ∧
      s.changesOnly [.host, .sec] t) ∧
  (∀ (s : State) (ch : ChanId) (hw : List Host.Cell),
    exec (.hostDmaDescriptor ch hw) s = exec (.hostDmaDescriptor ch []) { s with hostMem := s.hostMem.writeCells hw }) ∧
  (∀ (s : State) (ch : ChanId) (d : List Byte) (st : Nat), (chanOf s ch.val).cur = some (d, st) → st ≠ 0 → s.host.d3 = false → s.host.linkLost = false →
    bit (lat d 0x15 1) 1 = false →
    answers (.hostDmaComplete ch) s fun t => t.hostMem.get (rw64 s (chanBase ch.val) + 32 * (chanOf s ch.val).head + 0x17) = BitVec.ofNat 8 st ∧
      (∀ a, a ≠ rw64 s (chanBase ch.val) + 32 * (chanOf s ch.val).head + 0x17 → t.hostMem.get a = s.hostMem.get a) ∧
      chanOf t ch.val = { chanOf s ch.val with head := ((chanOf s ch.val).head + 1) % max 1 (chanSlots s ch.val), cur := none } ∧
      s.changesOnly [.hostMem, .host] t) ∧
  (∀ (s : State) (r : Req) (b : Bool), pageAnswers s 0 = true → s.host.fw.state = 0 →
    answers (.fwOpen r b) s fun t => t.host.fw = { state := 1, owner := r.val, target := b } ∧ s.changesOnly [.fw] t) ∧
  (∀ (s : State) (r : Req) (b : Bool), pageAnswers s 0 = true → s.host.fw.state ≠ 0 → s.host.fw.owner ≠ r.val →
    exec (.fwOpen r b) s = .next (accessErr s 0 9 r.val 0x130)) ∧
  (∀ (s : State) (r : Req) (v : Word), pageAnswers s 0 = true → s.host.fw.state = 1 → s.host.fw.owner = r.val → (rw s 0x134).toNat + 4 ≤ 0x400000 →
    answers (.fwData r v) s fun t => t.host.fw.buf.rd (rw s 0x134).toNat 4 = v.toNat ∧ (rw t 0x134).toNat = (rw s 0x134).toNat + 4 ∧
      (∀ a, (a < (rw s 0x134).toNat ∨ (rw s 0x134).toNat + 4 ≤ a) → t.host.fw.buf.get a = s.host.fw.buf.get a) ∧ s.changesOnly [.regs, .fw] t) ∧
  (∀ (s : State) (r : Req), pageAnswers s 0 = true → s.host.fw.state = 1 → s.host.fw.owner = r.val →
    answers (.fwCommit r) s fun t => t.host.fw.state = (if (fwParse s.host.fw.buf).valid = true then 3 else 2) ∧ s.changesOnly [.fw, .boot] t) ∧
  (∀ (s : State) (r : Req), pageAnswers s 0 = true → s.host.fw.state = 1 → s.host.fw.owner = r.val → (fwParse s.host.fw.buf).valid = false →
    answers (.fwCommit r) s fun t => t.host.fw.state = 2 ∧ t.host.fw.found = none ∧ s.changesOnly [.fw] t) ∧
  (∀ (s : State) (r : Req), pageAnswers s 0 = true → s.host.fw.state = 1 → s.host.fw.owner = r.val →
    answers (.fwAbort r) s fun t => t.host.fw = {} ∧ s.changesOnly [.fw] t) ∧
  (∀ (s : State) (b : Bool) (f : FwCopy), s.host.fw.state = 3 → s.host.fw.found = some f →
    answers (.fwUpdateDone b) s fun t => t.host.fw = { result := if b = true then 1 else 2 } ∧
      mget t.boot.fw ⟨true, 0, 0, 0, 0⟩ (fwTarget s) = { f with valid := b } ∧ mget t.host.irqStatus 0 0 = mget s.host.irqStatus 0 0 ||| 1 ∧
      s.changesOnly [.out, .fw, .host, .boot] t) ∧
  (∀ (s : State) (b : Bool), s.host.fw.state = 2 →
    answers (.fwUpdateDone b) s fun t => t.host.fw = { result := 2 } ∧ mget t.host.irqStatus 0 0 = mget s.host.irqStatus 0 0 ||| 1 ∧
      s.changesOnly [.out, .fw, .host] t)


/-- R280, R283 to R288, R308, R312: a poll reads the ring's tail and takes the descriptors that may be taken, a descriptor behind
an uncompleted one of its stream waits, and the split sends work to the host; INGEST_OPEN makes a FREE context OPEN,
INGEST_CLOSE makes it FREE, and a wrong descriptor completes with its status. Where the rules leave a point open it follows the
model's choice: log 55. -/
def Obligations.IngestRingAndContexts : Prop :=
  (∀ (s u : State) (c : Ctx) (slot : Nat) (d : List Byte), s.polls c.val false u → ringWindow u c.val false = [slot] → s.mem.upsets = [] →
    d = devRead s (slotAddr s c.val false slot) 128 → poisonedAt s (slotAddr s c.val false slot) 128 = none →
    ringOffers u c.val false = some slot → 1 ≤ lat d 0 1 → lat d 0 1 ≤ 4 →
    (∀ e, lat d 0 1 = 2 → entryOf s c.val (lat d 4 4) = some e → toHost s e d = false ∧ entFlag s e 0 = false) →
    answers (.ingestRingPoll c) s fun t =>
      t.rink.tasks = s.rink.tasks ++ [{ ctx := c.val, enc := false, slot := slot, d := d, hostShape := toHostShape s d }] ∧
      mget t.rink.tails 0 (ringKey c.val false) = devNat s (ringOf s c.val false).1 4 ∧ mget t.rink.turn 7 0 = c.val ∧ s.changesOnly [.rink] t) ∧
  (∀ (s u : State) (c : Ctx) (a b : Nat) (x : RTask), s.polls c.val false u → ringWindow u c.val false = [a, b] → s.mem.upsets = [] →
    taskOf s c.val false a = some x → taskOf s c.val false b = none → s.rink.ahead = [] →
    devNat s (slotAddr s c.val false a + 4) 4 = devNat s (slotAddr s c.val false b + 4) 4 →
    exec (.ingestRingPoll c) s = .next u) ∧
  (∀ (s u : State) (c : Ctx) (slot e : Nat) (d : List Byte), s.polls c.val false u → ringWindow u c.val false = [slot] → s.mem.upsets = [] →
    d = devRead s (slotAddr s c.val false slot) 128 → poisonedAt s (slotAddr s c.val false slot) 128 = none →
    ringOffers u c.val false = some slot → (ringOf s c.val false).1 + 64 + 128 * (ringOf s c.val false).2 ≤ 0x8FF0000000 →
    slot < (ringOf s c.val false).2 → s.rink.ahead = [] → entryOf s c.val (lat d 4 4) = some e → e < 2 ^ 18 → entryState s e = 1 →
    (strmOf s e).enc = false → ingestBad d = false → lat d 0 1 = 2 → ringHead s c.val false = slot → bit (lat d 1 1) 3 = false → bit (lat d 1 1) 4 = false →
    toHost s e d = true →
    answers (.ingestRingPoll c) s fun t => s.slotDone c.val false slot 4 (ingestComp s 16 (entGet s e 8 4) 0 0) t ∧ entFlag t e 0 = true ∧
      ringHead t c.val false = (slot + 1) % (ringOf s c.val false).2 ∧ s.changesOnly [.dev, .mem, .rink] t) ∧
  (∀ (s : State) (c : Ctx), (ctxOf s c.val).state ≠ .running → exec (.ingestRingPoll c) s = .next s) ∧
  (∀ (s : State) (e : Nat) (d : List Byte), entFlag s e 0 = true →
    (toHost s e d = false ↔ bit (lat d 1 1) 2 = true ∧ spills s ((codingClass (entGet s e 1 1)).getD 0) = false)) ∧
  (∀ (s : State) (c : Ctx) (slot e need : Nat) (cfg : List (Nat × Nat)) (x : RTask), s.rinkSlot c.val false slot x → x.quiet → x.phase = .taken →
    lat x.d 0 1 = 1 → ingestStatus s x = none → taskEntry s x = some e → e < 2 ^ 18 → s.mem.upsets = [] →
    cfg = (if lat x.d 0x5C 4 = 0 then [] else [(lat x.d 8 8 + lat x.d 0x58 4, lat x.d 0x5C 4)]) →
    rangesFault s c.val 0 (cfg ++ [(lat x.d 0x48 8, lat x.d 0x50 8)]) = none → rangesFault s c.val 1 [(lat x.d 0x48 8, lat x.d 0x50 8)] = none →
    rangesPoison s cfg = none →
    need = Config.storeNeed (lat x.d 0x40 1) (lat x.d 0x41 1) (lat x.d 0x42 1) (lat x.d 0x44 2) (lat x.d 0x46 2) →
    answers (.ingestOpen c slot) s fun t => s.slotDone c.val false slot (if lat x.d 0x50 8 < need then 0x12 else 1) (ingestComp s 0 0 0 need) t ∧
      entryState t e = (if lat x.d 0x50 8 < need then 0 else 1) ∧
      (need ≤ lat x.d 0x50 8 → entGet t e 1 1 = lat x.d 0x40 1 ∧ entGet t e 2 1 = c.val ∧ entGet t e 4 4 = lat x.d 4 4 ∧ entGet t e 8 4 = 0 ∧
        entGet t e 0x10 8 = lat x.d 0x48 8 ∧ entGet t e 0x18 8 = lat x.d 0x50 8 ∧
        strmOf t e = { open_ := x.d, config := cfg.flatMap fun r => devRead s r.1 r.2 }) ∧
      (∀ a, offEntry e a → s.offSlot c.val false slot a → devGet t a = devGet s a) ∧ s.changesOnly [.dev, .mem, .rink] t) ∧
  (∀ (s : State) (c : Ctx) (slot st : Nat) (x : RTask), s.rinkSlot c.val false slot x → x.quiet → x.phase = .taken → lat x.d 0 1 = 1 →
    ingestStatus s x = some st →
    answers (.ingestOpen c slot) s fun t => s.slotDone c.val false slot st (ingestComp s 0 0 0 0) t ∧
      (∀ a, s.offSlot c.val false slot a → devGet t a = devGet s a) ∧ s.changesOnly [.dev, .mem, .rink] t) ∧
  (∀ (s : State) (c : Ctx) (slot e : Nat) (x : RTask), s.rinkSlot c.val false slot x → x.quiet → x.phase = .taken → lat x.d 0 1 = 4 →
    ingestStatus s x = none → taskEntry s x = some e → e < 2 ^ 18 → s.rink.ahead = [] →
    answers (.ingestClose c slot) s fun t => s.slotDone c.val false slot 1 (ingestComp s 0 (entGet s e 8 4) 0 0) t ∧ entryState t e = 0 ∧
      strmOf t e = {} ∧
      ringHead t c.val false = (if ringHead s c.val false = slot then (slot + 1) % (ringOf s c.val false).2 else ringHead s c.val false) ∧
      s.changesOnly [.dev, .mem, .rink] t) ∧
  (∀ (s : State) (c : Ctx) (slot e g i : Nat) (x : RTask), s.rinkSlot c.val false slot x → x.phase = .taken → lat x.d 0 1 = 4 →
    bit (lat x.d 1 1) 3 = true → bit (lat x.d 1 1) 4 = false → ingestStatus s x = none → taskEntry s x = some e → e < 2 ^ 18 →
    g = lat x.d 0x38 2 % 512 → i = lat x.d 0x3A 1 → holdsTile s c.val g = true → semGet s g i < 0xFFFF →
    answers (.ingestClose c slot) s fun t => s.slotDone c.val false slot 1 (ingestComp s 0 (entGet s e 8 4) 0 0) t ∧ entryState t e = 0 ∧
      semGet t g i = semGet s g i + 1 ∧ s.changesOnly [.dev, .mem, .sem, .rink] t)

/-- R278, R282, R287 to R296, R305 to R308, R311: DECODE gives the descriptor to a free unit; DECODE_COMPLETE judges the access
unit by what was found in it, and completes it or passes its picture on; SHAPE hands a picture to a free shaper; SHAPE_COMPLETE
writes the tensor, and the context advances with the end of the access unit. Where the rules leave a point open it follows the
model's choice: log 55, 56, 103. -/
def Obligations.DecodeAndShape : Prop :=
  (∀ (s : State) (c : Ctx) (slot e : Nat) (u : MediaUnit) (x : RTask), s.rinkSlot c.val false slot x → x.phase = .taken → lat x.d 0 1 = 2 →
    ingestStatus s x = none → taskEntry s x = some e → e < 2 ^ 18 → unitFree s u = true → unitClass u = codingClass (entGet s e 1 1) →
    (u = .adec → adecSlots s + audioSlots s x ≤ 1024) → (bit (lat x.d 1 1) 0 && decide (unitClass u ≠ some 2) && outBad x.d) = false →
    s.mem.upsets = [] → rangesFault s c.val 0 [(lat x.d 8 8, lat x.d 0x10 4), (entGet s e 0x10 8, entGet s e 0x18 8)] = none →
    rangesFault s c.val 1 [(entGet s e 0x10 8, entGet s e 0x18 8)] = none →
    rangesPoison s [(lat x.d 8 8, lat x.d 0x10 4), (entGet s e 0x10 8, entGet s e 0x18 8)] = none →
    answers (.decode c slot u) s fun t => taskOf t c.val false slot = some { x with
        phase := .decoding, unit := some u, frame := entGet s e 8 4, coded := devRead s (lat x.d 8 8) (lat x.d 0x10 4) } ∧ entryState t e = 2 ∧
      (unitOf t u).frac = rinkFraction s ∧ (∀ a, devAddr a ≠ some (entryAddr e) → devGet t a = devGet s a) ∧ s.changesOnly [.dev, .rink] t) ∧
  (∀ (s : State) (c : Ctx) (slot : Nat) (u : MediaUnit) (x : RTask), s.rinkSlot c.val false slot x → x.phase = .taken → lat x.d 0 1 = 2 →
    ingestStatus s x = none → unitFree s u = false → exec (.decode c slot u) s = .next s) ∧
  (∀ (s : State) (c : Ctx) (slot e : Nat) (u : MediaUnit) (f : Finding) (j : Judged) (x : RTask), s.rinkSlot c.val false slot x → x.quiet →
    x.phase = .decoding → x.unit = some u → taskEntry s x = some e → e < 2 ^ 18 → entryState s e = 2 → bit (lat x.d 1 1) 0 = false →
    lat x.d 0 1 = 2 → overLimit s e (decide (unitClass u = some 2)) f = false → j = judge s e (entGet s e 1 1) x.frame x.coded f →
    j.damage = [] → j.missing = false → x.frame < 2 ^ 32 →
    (∀ i < 64, offRange (entGet s e 0x10 8, entGet s e 0x18 8) (entryAddr e + i)) →
    answers (.decodeComplete c slot f) s fun t => s.slotDone c.val false slot (if lat x.d 2 1 = 2 ∧ j.tainted = true then 3 else 1)
        (ingestComp s (4 * b2n j.tainted + 8 * b2n (decide (f.grain ≠ []))) x.frame 0 0) t ∧
      entryState t e = 1 ∧ entGet t e 8 4 = (x.frame + 1) % 2 ^ 32 ∧ entGet t e 0xC 4 = x.frame ∧ entFlag t e 2 = true ∧
      entFlag t e 1 = j.stays ∧ entFlag t e 0 = false ∧ entGet t e 0x30 8 = lat x.d 0x18 8 ∧ (strmOf t e).good = (strmOf t e).prev ∧
      (strmOf t e).units = unitsNow (strmOf s e) ++ [(x.coded, f)] ∧
      mget t.tel.cnt 0 (unitPage u + 0x110) = satAdd64 (mget s.tel.cnt 0 (unitPage u + 0x110)) 1 ∧
      (∀ a, offEntry e a → s.offSlot c.val false slot a → offRange (entGet s e 0x10 8, entGet s e 0x18 8) a → devGet t a = devGet s a) ∧
      s.changesOnly [.dev, .mem, .rink, .tel] t) ∧
  (∀ (s : State) (c : Ctx) (slot e : Nat) (u : MediaUnit) (f : Finding) (y : Damage) (j : Judged) (x : RTask), s.rinkSlot c.val false slot x → x.quiet →
    x.phase = .decoding → x.unit = some u → taskEntry s x = some e → e < 2 ^ 18 → entryState s e = 2 → bit (lat x.d 1 1) 0 = false →
    lat x.d 0 1 = 2 → overLimit s e (decide (unitClass u = some 2)) f = false → j = judge s e (entGet s e 1 1) x.frame x.coded f →
    j.damage = [y] → j.missing = false → (∀ i < 64, offRange (entGet s e 0x10 8, entGet s e 0x18 8) (entryAddr e + i)) →
    mget s.rink.merr [] c.val ≠ [] → (mget s.rink.merr [] c.val).length < 256 →
    answers (.decodeComplete c slot f) s fun t =>
      s.slotDone c.val false slot 2 (ingestComp s (5 + 8 * b2n (decide (f.grain ≠ []))) x.frame 1 0) t ∧ entryState t e = 1 ∧
      entFlag t e 1 = j.stays ∧ (strmOf t e).good = (strmOf s e).good ∧ entGet t e 0x28 4 = (entGet s e 0x28 4 + 1) % 2 ^ 32 ∧
      mget t.rink.merr [] c.val = mget s.rink.merr [] c.val ++ [errRecord x u y.byteOffset y.unitNo y.cls
        (if unitClass u = some 2 then 3 else if entFlag s e 2 = true then 1 else 2) y.block] ∧
      s.changesOnly [.dev, .mem, .rink, .tel] t) ∧
  (∀ (s : State) (c : Ctx) (slot e : Nat) (u : MediaUnit) (f : Finding) (j : Judged) (x : RTask), s.rinkSlot c.val false slot x →
    x.phase = .decoding → x.unit = some u → taskEntry s x = some e → bit (lat x.d 1 1) 0 = true → unitClass u ≠ some 2 →
    overLimit s e false f = false → x.hostShape = false → s.mem.upsets = [] → rangesFault s c.val 0 [(lat x.d 0x30 8, 192)] = none →
    rangesPoison s [(lat x.d 0x30 8, 192)] = none →
    blockBad s x false f.width f.height (Config.audioFormat (strmOf s e).config x.coded).2.1 = false → lat x.d 2 1 = 0 →
    j = judge s e (entGet s e 1 1) x.frame x.coded f →
    answers (.decodeComplete c slot f) s fun t => (∃ y, taskOf t c.val false slot = some y ∧ y.phase = .decoded ∧ y.unit = none ∧ y.dec = some u ∧
        y.d = x.d ∧ y.found = some (f, j) ∧ y.geom = (f.width, f.height, f.chroma, f.depth) ∧ y.frame = x.frame ∧
        y.errors = j.damage.length + b2n j.missing ∧ y.pic = unitPicture (strmOf s e) (entGet s e 1 1) x.coded f j) ∧ s.changesOnly [.rink] t) ∧
  (∀ (s : State) (c : Ctx) (slot e : Nat) (u : MediaUnit) (f : Finding) (x : RTask), s.rinkSlot c.val false slot x → x.quiet →
    x.phase = .decoding → x.unit = some u → taskEntry s x = some e → e < 2 ^ 18 → overLimit s e (decide (unitClass u = some 2)) f = true →
    answers (.decodeComplete c slot f) s fun t => s.slotDone c.val false slot 0x13 (ingestComp s x.cflags 0 x.errors 0) t ∧
      entryState t e = (if entryState s e = 2 then 1 else entryState s e) ∧ entGet t e 8 4 = entGet s e 8 4 ∧ s.changesOnly [.dev, .mem, .rink] t) ∧
  (∀ (s : State) (c : Ctx) (slot : Nat) (n : Fin 8) (x : RTask), taskOf s c.val false slot = some x → x.phase = .decoded → s.mem.upsets = [] →
    unitFree s (.shap n) = true → rangesFault s c.val 0 (shapeReads s x) = none → rangesPoison s (shapeReads s x) = none →
    answers (.shape c slot n) s fun t => taskOf t c.val false slot = some { x with phase := .shaping, unit := some (.shap n) } ∧
      (unitOf t (.shap n)).frac = rinkFraction s ∧ s.changesOnly [.rink] t) ∧
  (∀ (s : State) (c : Ctx) (slot e : Nat) (n : Fin 8) (x y : RTask), s.rinkSlot c.val false slot x → x.phase = .taken → lat x.d 0 1 = 3 →
    unitFree s (.shap n) = true → ingestStatus s x = none → taskEntry s x = some e → e < 2 ^ 18 → x.hostShape = false → outBad x.d = false →
    blockBad s x false (lat x.d 0x44 2) (lat x.d 0x46 2) 0 = false → s.mem.upsets = [] →
    rangesFault s c.val 0 (shapeReads s x) = none → rangesPoison s (shapeReads s x) = none → y = { x with frame := entGet s e 8 4 } →
    answers (.shape c slot n) s fun t => taskOf t c.val false slot =
        some { (if lat x.d 0x40 1 = 1 then readDpx s e (.shap n) y else y) with phase := .shaping, unit := some (.shap n) } ∧ entryState t e = 2 ∧
      s.changesOnly [.dev, .rink] t) ∧
  (∀ (s : State) (c : Ctx) (slot a y : Nat) (n : Fin 8) (blk : List Byte) (x : RTask), s.rinkSlot c.val false slot x → x.quiet →
    x.phase = .shaping → x.unit = some (.shap n) → x.found = none → dropped x = false → lat x.d 3 1 = 0 → blk = devRead s (lat x.d 0x30 8) 192 →
    rangesFault s c.val 1 (outRows x.d blk) = none → lat x.d 0x2C 2 * 32 * blkSize blk ≤ lat x.d 0x28 4 →
    lat x.d 0x20 8 + lat x.d 0x2E 2 * lat x.d 0x28 4 ≤ (ringOf s c.val false).1 → y < lat x.d 0x2E 2 → a = lat x.d 0x20 8 + y * lat x.d 0x28 4 →
    answers (.shapeComplete c slot) s fun t => s.slotDone c.val false slot (if x.errors = 0 then 1 else 2) (ingestComp s x.cflags x.frame x.errors 0) t ∧
      devRead t a (lat x.d 0x2C 2 * 32 * blkSize blk) = shapeRow blk (rawPicture s x.d) (true, true) (lat x.d 0x2C 2) (lat x.d 0x2E 2) (lat x.d 0x14 4) y ∧
      s.changesOnly [.dev, .mem, .rink, .tel] t) ∧
  (∀ (s : State) (c : Ctx) (slot e a y : Nat) (n : Fin 8) (u : MediaUnit) (f : Finding) (j : Judged) (blk : List Byte) (x : RTask),
    s.rinkSlot c.val false slot x → x.quiet → x.phase = .shaping → x.unit = some (.shap n) → x.found = some (f, j) → x.dec = some u → x.recs = [] →
    taskEntry s x = some e → e < 2 ^ 18 → entryState s e = 2 → x.frame < 2 ^ 32 → dropped x = false → lat x.d 3 1 = 0 →
    blk = devRead s (lat x.d 0x30 8) 192 → rangesFault s c.val 1 (outRows x.d blk) = none →
    lat x.d 0x2C 2 * 32 * blkSize blk ≤ lat x.d 0x28 4 → lat x.d 0x20 8 + lat x.d 0x2E 2 * lat x.d 0x28 4 ≤ (ringOf s c.val false).1 →
    y < lat x.d 0x2E 2 → a = lat x.d 0x20 8 + y * lat x.d 0x28 4 →
    (∀ i < 64, offRange (entGet s e 0x10 8, entGet s e 0x18 8) (entryAddr e + i)) →
    (∀ i < lat x.d 0x2C 2 * 32 * blkSize blk, offRange (entGet s e 0x10 8, entGet s e 0x18 8) (a + i)) →
    answers (.shapeComplete c slot) s fun t => s.slotDone c.val false slot (if x.errors = 0 then 1 else 2) (ingestComp s x.cflags x.frame x.errors 0) t ∧
      devRead t a (lat x.d 0x2C 2 * 32 * blkSize blk) =
        shapeRow blk (taskPict s x) (f.site.getD (true, true)) (lat x.d 0x2C 2) (lat x.d 0x2E 2) (lat x.d 0x14 4) y ∧
      entryState t e = 1 ∧ entGet t e 8 4 = (x.frame + 1) % 2 ^ 32 ∧ (strmOf t e).prev = x.pic ∧ s.changesOnly [.dev, .mem, .rink, .tel] t)

/-- R315 to R323, R325, R327 to R334: the encode ring, OPEN and CLOSE with the end of sequence, the first coding attempt of a
picture, its re-encoding and fallbacks under the buffer model, the filler, and the picture's completion. Where the rules leave a
point open it follows the model's choice: log 57, 100, 103, 104. -/
def Obligations.EncodePictures : Prop :=
  (∀ (s u : State) (c : Ctx) (slot : Nat) (d : List Byte), s.polls c.val true u → ringWindow u c.val true = [slot] → s.mem.upsets = [] →
    d = devRead s (slotAddr s c.val true slot) 128 → poisonedAt s (slotAddr s c.val true slot) 128 = none →
    ringOffers u c.val true = some slot → 1 ≤ lat d 0 1 → lat d 0 1 ≤ 3 →
    answers (.encodeRingPoll c) s fun t => t.rink.tasks = s.rink.tasks ++ [{ ctx := c.val, enc := true, slot := slot, d := d }] ∧
      mget t.rink.tails 0 (ringKey c.val true) = devNat s (ringOf s c.val true).1 4 ∧ mget t.rink.turn 7 1 = c.val ∧ s.changesOnly [.rink] t) ∧
  (∀ (s u : State) (c : Ctx) (slot : Nat) (d : List Byte), s.polls c.val true u → ringWindow u c.val true = [slot] → s.mem.upsets = [] →
    d = devRead s (slotAddr s c.val true slot) 128 → poisonedAt s (slotAddr s c.val true slot) 128 = none →
    ringOffers u c.val true = some slot → (ringOf s c.val true).1 + 64 + 128 * (ringOf s c.val true).2 ≤ 0x8FF0000000 →
    slot < (ringOf s c.val true).2 → s.rink.ahead = [] → lat d 0 1 < 1 ∨ 3 < lat d 0 1 → bit (lat d 1 1) 3 = false → bit (lat d 1 1) 4 = false →
    answers (.encodeRingPoll c) s fun t => s.slotDone c.val true slot 0x10 (encodeComp s 0 0 0 0 0 0 0 0) t ∧ s.changesOnly [.dev, .mem, .rink] t) ∧
  (∀ (s : State) (c : Ctx) (slot e st : Nat) (x : RTask), s.rinkSlot c.val true slot x → x.quiet → x.phase = .taken → lat x.d 0 1 = 1 →
    encodeStatus s x = none → taskEntry s x = some e → e < 2 ^ 18 → rangesFault s c.val 0 [(encF x.d 0x38 8, encF x.d 0x40 8)] = none →
    rangesFault s c.val 1 [(encF x.d 0x38 8, encF x.d 0x40 8)] = none →
    st = (if (modelCheck x.d).isSome then 0x14 else if encF x.d 0x40 8 < encNeed x.d then 0x12 else 1) →
    answers (.encodeOpen c slot) s fun t =>
      s.slotDone c.val true slot st (encodeComp s 0 0 0 0 0 (if st = 1 then initFull x.d else 0) 0 ((modelCheck x.d).getD 0)) t ∧
      entryState t e = (if st = 1 then 1 else 0) ∧
      (st = 1 → strmOf t e = { enc := true, open_ := x.d, full := initFull x.d } ∧ entGet t e 1 1 = encF x.d 0x30 1 ∧ entGet t e 4 4 = lat x.d 4 4) ∧
      (∀ a, offEntry e a → s.offSlot c.val true slot a → devGet t a = devGet s a) ∧ s.changesOnly [.dev, .mem, .rink] t) ∧
  (∀ (s : State) (c : Ctx) (slot k : Nat) (x : RTask), s.rinkSlot c.val true slot x → x.quiet → x.phase = .taken → lat x.d 0 1 = 1 →
    encodeStatus s x = none → modelCheck x.d = some k →
    answers (.encodeOpen c slot) s fun t => s.slotDone c.val true slot 0x14 (encodeComp s 0 0 0 0 0 0 0 k) t ∧
      (∀ a, s.offSlot c.val true slot a → devGet t a = devGet s a) ∧ s.changesOnly [.dev, .mem, .rink] t) ∧
  (∀ (s : State) (c : Ctx) (slot e : Nat) (n : Fin 4) (x : RTask) (m : Strm), s.rinkSlot c.val true slot x → x.phase = .taken → lat x.d 0 1 = 2 →
    encodeStatus s x = none → taskEntry s x = some e → e < 2 ^ 18 → unitFree s (.venc n) = true → m = strmOf s e →
    (∀ i < 4, bit (lat x.d 3 1) i = true → mget m.ltr 0 i ≠ 0) → (encF m.open_ 0x33 1 = 1 → lat x.d 0x30 4 = 0) → cdiv (encF m.open_ 0x4C 4) 8 ≤ lat x.d 0x18 4 →
    s.mem.upsets = [] → rangesFault s c.val 0 (encodeReads m.open_ x.d) = none → rangesPoison s (encodeReads m.open_ x.d) = none →
    rangesFault s c.val 1 ((if bit (lat x.d 1 1) 2 = true then [(lat x.d 0x20 8, statBytes m.open_)] else []) ++
      [(encF m.open_ 0x38 8, encF m.open_ 0x40 8)]) = none → encF m.open_ 0x59 1 ≤ encF m.open_ 0x5A 1 →
    answers (.encode c slot n) s fun t => entryState t e = 2 ∧ (unitOf t (.venc n)).frac = rinkFraction s ∧
      (∃ y, taskOf t c.val true slot = some y ∧ y.unit = some (.venc n) ∧ y.attempts = 1 ∧ y.frame = m.count ∧ y.d = x.d ∧
        y.codes = sourceCodes s m.open_ x.d ∧ y.nan = anyNanIn s m.open_ x.d ∧
        (if needsIntra m x.d = true ∧ m.full < sFlat (encF m.open_ 0x34 2) (encF m.open_ 0x36 2) then
          y.phase = .coded ∧ y.cflags = 66 ∧ y.qp = x.qp ∧ y.out = accessUnit m x.d y.codes ⟨false, 0, 1⟩ ∧
            y.bits ≤ sSkip (encF m.open_ 0x34 2) (encF m.open_ 0x36 2)
        else y.phase = .encoding ∧ y.cflags = (if needsIntra m x.d = true then 32 else 0) ∧ encF m.open_ 0x59 1 ≤ y.qp ∧ y.qp ≤ encF m.open_ 0x5A 1)) ∧
      (∀ a, devAddr a ≠ some (entryAddr e) → devGet t a = devGet s a) ∧ s.changesOnly [.dev, .rink] t) ∧
  (∀ (s : State) (c : Ctx) (slot e : Nat) (n : Fin 4) (x : RTask) (m : Strm), s.rinkSlot c.val true slot x → x.quiet → x.phase = .taken → lat x.d 0 1 = 2 →
    encodeStatus s x = none → taskEntry s x = some e → unitFree s (.venc n) = true → m = strmOf s e →
    (∀ i < 4, bit (lat x.d 3 1) i = true → mget m.ltr 0 i ≠ 0) → (encF m.open_ 0x33 1 = 1 → lat x.d 0x30 4 = 0) → lat x.d 0x18 4 < cdiv (encF m.open_ 0x4C 4) 8 →
    answers (.encode c slot n) s fun t => s.slotDone c.val true slot 0x15 (encodeComp s 0 0 0 0 0 0 0 0) t ∧
      entryState t e = entryState s e ∧ s.changesOnly [.dev, .mem, .rink] t) ∧
  (∀ (s : State) (c : Ctx) (slot e bits : Nat) (x : RTask) (m : Strm), taskOf s c.val true slot = some x → taskEntry s x = some e → x.phase = .encoding →
    m = strmOf s e → bits = attemptBits m x (asAsked x) → bits ≤ m.full →
    answers (.encodeAttemptComplete c slot ()) s fun t => taskOf t c.val true slot =
        some { x with phase := .coded, bits := bits, out := accessUnit m x.d x.codes (asAsked x) } ∧ s.changesOnly [.rink] t) ∧
  (∀ (s : State) (c : Ctx) (slot e bits : Nat) (x : RTask) (m : Strm), taskOf s c.val true slot = some x → taskEntry s x = some e → x.phase = .encoding →
    m = strmOf s e → bits = attemptBits m x (asAsked x) → m.full < bits → x.qp < encF m.open_ 0x5A 1 → x.attempts < 3 →
    answers (.encodeAttemptComplete c slot ()) s fun t => taskOf t c.val true slot = some { x with
        qp := if x.attempts = 1 then nextQp m.open_ x.qp bits m.full else encF m.open_ 0x5A 1, attempts := x.attempts + 1, cflags := x.cflags ||| 1 } ∧
      s.changesOnly [.rink] t) ∧
  (∀ (s : State) (c : Ctx) (slot e : Nat) (x : RTask) (m : Strm), taskOf s c.val true slot = some x → taskEntry s x = some e → x.phase = .encoding →
    m = strmOf s e → m.full < attemptBits m x (asAsked x) → (encF m.open_ 0x5A 1 ≤ x.qp ∨ 3 ≤ x.attempts) →
    answers (.encodeAttemptComplete c slot ()) s fun t => (∃ y, taskOf t c.val true slot = some y ∧ y.phase = .coded ∧ y.qp = 0 ∧
        y.attempts = x.attempts ∧ y.bits = 8 * y.out.length ∧
        (if bit x.cflags 5 = true then y.cflags = x.cflags ||| 4 ∧ y.bits ≤ sFlat (encF m.open_ 0x34 2) (encF m.open_ 0x36 2)
         else y.cflags = x.cflags ||| 2 ∧ y.bits ≤ sSkip (encF m.open_ 0x34 2) (encF m.open_ 0x36 2))) ∧ s.changesOnly [.rink] t) ∧
  (∀ (s : State) (c : Ctx) (slot e fill lev : Nat) (au : List Byte) (n : Fin 4) (x : RTask) (m : Strm), s.rinkSlot c.val true slot x → x.quiet →
    x.phase = .coded → x.unit = some (.venc n) → taskEntry s x = some e → e < 2 ^ 18 → entryState s e = 2 → m = strmOf s e →
    bit (lat x.d 1 1) 2 = false → fill = fillBytes m.open_ x.bits (bMin m.open_ m.full m.count) → au = x.out ++ fillerUnit m.open_ fill →
    rangesFault s c.val 1 [(lat x.d 0x10 8, au.length)] = none → lat x.d 0x10 8 + au.length ≤ (ringOf s c.val true).1 →
    (∀ i < 64, offRange (encF m.open_ 0x38 8, encF m.open_ 0x40 8) (entryAddr e + i)) →
    (∀ i < au.length, offRange (encF m.open_ 0x38 8, encF m.open_ 0x40 8) (lat x.d 0x10 8 + i)) →
    lev = min (encF m.open_ 0x4C 4) (m.full - (x.bits + 8 * fill) + arrival m.open_ m.count) →
    answers (.pictureComplete c slot) s fun t =>
      s.slotDone c.val true slot 1 (encodeComp s (x.cflags + 8 * b2n (decide (0 < fill)) + 16 * b2n (cycleAfter m x).2.1 +
        128 * b2n (cycleAfter m x).2.2.1) x.attempts x.qp au.length fill lev x.frame (b2n x.nan)) t ∧
      devRead t (lat x.d 0x10 8) au.length = au ∧ entryState t e = 1 ∧ strmOf t e = strmAfter m x lev au.length (cycleAfter m x) ∧
      s.changesOnly [.dev, .mem, .rink, .tel] t) ∧
  (∀ (m : Strm) (x : RTask) (lev au : Nat), (strmAfter m x lev au (cycleAfter m x)).full = lev ∧
    (strmAfter m x lev au (cycleAfter m x)).count = m.count + 1 ∧ (strmAfter m x lev au (cycleAfter m x)).deferred = bit x.cflags 6 ∧
    (strmAfter m x lev au (cycleAfter m x)).short.length ≤ 2 ∧
    (bit x.cflags 5 = true → (strmAfter m x lev au (cycleAfter m x)).short.length = 1 ∧ ∀ i < 4, bit (lat x.d 2 1) 7 = false →
      mget (strmAfter m x lev au (cycleAfter m x)).ltr 0 i = 0)) ∧
  (∀ (o : List Byte) (n : Nat), (encF o 0x30 1 = 2 → 6 ≤ n) → 2 ≤ n → (fillerUnit o n).length = n) ∧
  (∀ (s : State) (c : Ctx) (slot e : Nat) (au : List Byte) (n : Fin 4) (x : RTask) (m : Strm), s.rinkSlot c.val true slot x → x.quiet →
    x.phase = .coded → x.unit = some (.venc n) → taskEntry s x = some e → e < 2 ^ 18 → entryState s e = 2 → m = strmOf s e →
    bit (lat x.d 1 1) 2 = true → au = x.out ++ fillerUnit m.open_ (fillBytes m.open_ x.bits (bMin m.open_ m.full m.count)) →
    rangesFault s c.val 1 [(lat x.d 0x10 8, au.length)] = none → lat x.d 0x10 8 + au.length ≤ lat x.d 0x20 8 →
    lat x.d 0x20 8 + statBytes m.open_ ≤ (ringOf s c.val true).1 →
    (∀ i < au.length, offRange (encF m.open_ 0x38 8, encF m.open_ 0x40 8) (lat x.d 0x10 8 + i)) →
    (∀ i < statBytes m.open_, offRange (encF m.open_ 0x38 8, encF m.open_ 0x40 8) (lat x.d 0x20 8 + i)) →
    answers (.pictureComplete c slot) s fun t =>
      devRead t (lat x.d 0x20 8) (statBytes m.open_) = statOutput m x.d x.codes x.frame (bit x.cflags 5) ∧
      devRead t (lat x.d 0x10 8) au.length = au ∧ taskOf t c.val true slot = none ∧ s.changesOnly [.dev, .mem, .rink, .tel] t) ∧
  (∀ (s : State) (c : Ctx) (slot e : Nat) (x : RTask) (m : Strm), s.rinkSlot c.val true slot x → x.quiet → x.phase = .taken → lat x.d 0 1 = 3 →
    encodeStatus s x = none → taskEntry s x = some e → e < 2 ^ 18 → m = strmOf s e → rangesFault s c.val 1 (endAt m) = none →
    (∀ p ∈ endAt m, p.1 + 6 ≤ (ringOf s c.val true).1) →
    answers (.encodeClose c slot) s fun t => s.slotDone c.val true slot 1 (encodeComp s 0 0 0 0 0 m.full m.count 0) t ∧
      (∀ p ∈ endAt m, devRead t p.1 6 = [0, 0, 0, 1, 72, 1]) ∧ entryState t e = 0 ∧ strmOf t e = {} ∧ s.changesOnly [.dev, .mem, .rink] t)


/-- R126 to R134: a POST unit takes the next command of its rings, checks it, runs it and completes it; what it keeps is
sorted, above the score threshold, and within a class overlaps no earlier entry by more than the overlap threshold. Where
the rules leave a point open it follows the model's choice: log 51, 93. -/
def Obligations.PostCommands : Prop :=
  (∀ (s : State) (d : DieId) (c slot : Nat) (w : List Word), mget s.post.run none d.val = none → s.pwr.state = .active → s.mem.upsets = [] →
    ((List.range 8).map (fun i => (mget s.post.rr 7 d.val + 1 + i) % 8)).find? (postWork s d.val) = some c → slot = postHead s d.val c →
    regionCheck (ctxOf s c).man 1 (postRing s d.val c).1 64 = none →
    regionCheck (ctxOf s c).man 0 ((postRing s d.val c).1 + 64 + 64 * slot) 64 = none →
    poisonedAt s ((postRing s d.val c).1 + 64 + 64 * slot) 64 = none → w = postWords s d.val c slot →
    (bit (postF w 13 31 31) 0 && !holdsTile s c (postF w 13 30 22)) = false → postBad w = false →
    (postInputs w).findSome? (fun r => regionCheck (ctxOf s c).man 0 r.1 r.2) = none → (postInputs w).findSome? (fun r => poisonedAt s r.1 r.2) = none →
    answers (.postRingPoll d) s fun t => mget t.post.run none d.val = some ⟨c, slot, w,
        if postPrmErr w (devRead s (postAddr w 2) 64) = 0 then none
        else some ([], 2 ^ 31 + postPrmErr w (devRead s (postAddr w 2) 64) * 2 ^ 24, 0)⟩ ∧
      mget t.post.rr 7 d.val = c ∧ s.changesOnly [.post] t) ∧
  (∀ (s : State) (d : DieId) (c slot : Nat) (w : List Word), mget s.post.run none d.val = none → s.pwr.state = .active → s.mem.upsets = [] →
    ((List.range 8).map (fun i => (mget s.post.rr 7 d.val + 1 + i) % 8)).find? (postWork s d.val) = some c → slot = postHead s d.val c →
    regionCheck (ctxOf s c).man 1 (postRing s d.val c).1 64 = none →
    regionCheck (ctxOf s c).man 0 ((postRing s d.val c).1 + 64 + 64 * slot) 64 = none →
    poisonedAt s ((postRing s d.val c).1 + 64 + 64 * slot) 64 = none → w = postWords s d.val c slot →
    (bit (postF w 13 31 31) 0 && !holdsTile s c (postF w 13 30 22)) = false → postBad w = true →
    answers (.postRingPoll d) s fun t => mget t.post.run none d.val = some ⟨c, slot, w, some ([], 0x81000000, 0)⟩ ∧ s.changesOnly [.post] t) ∧
  (∀ (s : State) (d : DieId) (c slot : Nat) (w : List Word), mget s.post.run none d.val = none → s.pwr.state = .active → s.mem.upsets = [] →
    ((List.range 8).map (fun i => (mget s.post.rr 7 d.val + 1 + i) % 8)).find? (postWork s d.val) = some c → slot = postHead s d.val c →
    regionCheck (ctxOf s c).man 1 (postRing s d.val c).1 64 = none →
    regionCheck (ctxOf s c).man 0 ((postRing s d.val c).1 + 64 + 64 * slot) 64 = none →
    poisonedAt s ((postRing s d.val c).1 + 64 + 64 * slot) 64 = none → w = postWords s d.val c slot →
    postF w 13 31 31 = 1 → holdsTile s c (postF w 13 30 22) = false → (ctxOf s c).loaded = true →
    answers (.postRingPoll d) s fun t => (ctxOf t c).state = .tornDown) ∧
  (∀ (s : State) (d : DieId), mget s.post.run none d.val ≠ none → exec (.postRingPoll d) s = .next s) ∧
  (∀ (s : State) (d : DieId) (n : Nat) (p : List Byte) (r : PostRun), mget s.post.run none d.val = some r → r.result = none →
    postF r.w 0 31 28 = 2 → n = postF r.w 12 16 0 → p = devRead s (postAddr r.w 2) 64 →
    answers (.nms d) s fun t => (∃ hs : List Hit,
        mget t.post.run none d.val = some { r with result := some (hs.map hitBytes, 2 ^ 31 + hs.length, ((List.range n).filter fun i => (givenBox s r.w i).isNone).length) } ∧
        hs.length ≤ postF r.w 1 31 16 ∧ (hs.Pairwise fun x y => lt32 x.score y.score = false) ∧
        (hs.Pairwise fun x y => x.cls = y.cls → le32 (iou y.box x.box) (postPrm p 1) = true) ∧
        (∀ x ∈ hs, lt32 (postPrm p 0) x.score = true ∧ x.cls < postF r.w 0 8 0 ∧ x.cls ≠ postF r.w 1 15 0 ∧ x.cand < n ∧
          givenBox s r.w x.cand = some x.box ∧ x.score = postRead s (postF r.w 0 26 26) (postAddr r.w 8) (x.cand * postF r.w 0 8 0 + x.cls))) ∧
      s.changesOnly [.post] t) ∧
  (∀ (s : State) (d : DieId) (n : Nat) (p : List Byte) (r : PostRun), mget s.post.run none d.val = some r → r.result = none →
    postF r.w 0 31 28 = 1 → n = postF r.w 12 16 0 → p = devRead s (postAddr r.w 2) 64 →
    answers (.decodeAndNms d) s fun t => (∃ hs : List Hit,
        mget t.post.run none d.val = some { r with result := some (hs.map hitBytes, 2 ^ 31 + hs.length, ((List.range n).filter fun i => (decodedBox s r.w p i).isNone).length) } ∧
        hs.length ≤ postF r.w 1 31 16 ∧ (hs.Pairwise fun x y => lt32 x.score y.score = false) ∧
        (hs.Pairwise fun x y => x.cls = y.cls → le32 (iou y.box x.box) (postPrm p 1) = true) ∧
        (∀ x ∈ hs, lt32 (postPrm p 0) x.score = true ∧ x.cls < postF r.w 0 8 0 ∧ x.cls ≠ postF r.w 1 15 0 ∧ x.cand < n ∧
          decodedBox s r.w p x.cand = some x.box ∧ x.score = postRead s (postF r.w 0 26 26) (postAddr r.w 8) (x.cand * postF r.w 0 8 0 + x.cls))) ∧
      s.changesOnly [.post] t) ∧
  (∀ (s : State) (d : DieId) (w14 w15 : Nat) (recs : List (List Byte)) (r : PostRun), mget s.post.run none d.val = some r →
    r.result = some (recs, w14, w15) → regionCheck (ctxOf s r.ctx).man 1 (postAddr r.w 10) recs.flatten.length = none →
    regionCheck (ctxOf s r.ctx).man 1 ((postRing s d.val r.ctx).1 + 64 + 64 * r.slot + 56) 8 = none → postF r.w 13 31 31 = 0 →
    postAddr r.w 10 + recs.flatten.length ≤ (postRing s d.val r.ctx).1 → r.slot < (postRing s d.val r.ctx).2 → w14 < 2 ^ 32 → w15 < 2 ^ 32 →
    (postRing s d.val r.ctx).1 + 64 + 64 * (postRing s d.val r.ctx).2 ≤ 0x9000000000 →
    answers (.postCommandComplete d) s fun t => devRead t (postAddr r.w 10) recs.flatten.length = recs.flatten ∧
      devNat t ((postRing s d.val r.ctx).1 + 64 + 64 * r.slot + 56) 4 = w14 ∧ devNat t ((postRing s d.val r.ctx).1 + 64 + 64 * r.slot + 60) 4 = w15 ∧
      devNat t ((postRing s d.val r.ctx).1 + 4) 4 = (r.slot + 1) % (postRing s d.val r.ctx).2 ∧ mget t.post.run none d.val = none ∧
      mget t.tel.cnt 0 (postPage d.val + 0x108) = satAdd64 (mget s.tel.cnt 0 (postPage d.val + 0x108)) 1 ∧
      (∀ a, (∀ i < recs.flatten.length, devAddr a ≠ some (postAddr r.w 10 + i)) →
        (∀ i < 8, devAddr a ≠ some ((postRing s d.val r.ctx).1 + 64 + 64 * r.slot + 56 + i)) →
        (∀ i < 4, devAddr a ≠ some ((postRing s d.val r.ctx).1 + 4 + i)) → devGet t a = devGet s a) ∧
      s.changesOnly [.dev, .mem, .post, .tel] t) ∧
  (∀ (s : State) (d : DieId) (w14 w15 g i : Nat) (recs : List (List Byte)) (r : PostRun), mget s.post.run none d.val = some r →
    r.result = some (recs, w14, w15) → regionCheck (ctxOf s r.ctx).man 1 (postAddr r.w 10) recs.flatten.length = none →
    regionCheck (ctxOf s r.ctx).man 1 ((postRing s d.val r.ctx).1 + 64 + 64 * r.slot + 56) 8 = none → postF r.w 13 31 31 = 1 →
    g = postF r.w 13 30 22 → i = postF r.w 13 21 14 → holdsTile s r.ctx g = true → semGet s g i < 0xFFFF →
    answers (.postCommandComplete d) s fun t => semGet t g i = semGet s g i + 1 ∧ mget t.post.run none d.val = none ∧
      s.changesOnly [.dev, .mem, .sem, .post, .tel] t)


end
end

