-- ==== Sys2Proof/Laws/Maps.lean ====
section
/-! SUPPORT. Laws of sparse maps and byte memories: read after write, and that every operation keeps the canonical form. -/

namespace Sys2Proof.Machine

/-! ### Reading a map after a write -/

theorem mget_mins {α : Type} (m : NMap α) (d : α) (k : Nat) (v : α) (j : Nat) :
    mget (mins m k v) d j = if j = k then v else mget m d j := by
  induction m with
  | nil => simp [mins, mget]
  | cons p t ih =>
    obtain ⟨i, w⟩ := p
    simp only [mins]
    split
    · by_cases h : j = k <;> simp [mget, h]
    · split
      · next h => subst h; by_cases h : j = k <;> simp [mget, h]
      · next h1 h2 =>
        simp only [mget, ih]
        by_cases h : j = i
        · subst h; simp [Ne.symm h2]
        · simp [h]

theorem mget_mdel {α : Type} (m : NMap α) (d : α) (k j : Nat) :
    mget (mdel m k) d j = if j = k then d else mget m d j := by
  induction m with
  | nil => simp [mdel, mget]
  | cons p t ih =>
    obtain ⟨i, w⟩ := p
    simp only [mdel] at ih
    by_cases hi : i = k
    · subst hi
      simp only [mdel, List.filter, ne_eq, not_true_eq_false, decide_false, ih, mget]
      by_cases h : j = i <;> simp [h]
    · simp only [mdel, List.filter, ne_eq, hi, not_false_eq_true, decide_true, mget, ih]
      by_cases h : j = i
      · subst h; simp [hi]
      · simp [h]

/-- Reading a map after a write: the key holds the value, every other key what it held. -/
@[simp] theorem mget_mset {α : Type} [DecidableEq α] (m : NMap α) (d : α) (k : Nat) (v : α) (j : Nat) :
    mget (mset m d k v) d j = if j = k then v else mget m d j := by
  unfold mset
  split
  · next h => rw [mget_mdel, h]
  · exact mget_mins ..

/-- Reading a map after a change of one key. -/
@[simp] theorem mget_mupd {α : Type} [DecidableEq α] (m : NMap α) (d : α) (k : Nat) (f : α → α) (j : Nat) :
    mget (mupd m d k f) d j = if j = k then f (mget m d k) else mget m d j := mget_mset ..

/-! ### Canonical form of a map -/

theorem mem_mins {α : Type} {m : NMap α} {k : Nat} {v : α} {p : Nat × α} (h : p ∈ mins m k v) : p = (k, v) ∨ p ∈ m := by
  induction m with
  | nil => simpa [mins] using h
  | cons q t ih =>
    obtain ⟨i, w⟩ := q
    simp only [mins] at h
    split at h
    · simpa using h
    · split at h
      · rcases List.mem_cons.1 h with h | h
        · exact .inl h
        · exact .inr (List.mem_cons_of_mem _ h)
      · rcases List.mem_cons.1 h with h | h
        · exact .inr (h ▸ List.mem_cons_self)
        · exact (ih h).imp id (List.mem_cons_of_mem _)

theorem mins_sorted {α : Type} {m : NMap α} (k : Nat) (v : α) (h : List.Pairwise (· < ·) (m.map (·.1))) :
    List.Pairwise (· < ·) ((mins m k v).map (·.1)) := by
  induction m with
  | nil => simp [mins]
  | cons q t ih =>
    obtain ⟨i, w⟩ := q
    simp only [List.map_cons, List.pairwise_cons] at h
    simp only [mins]
    split
    · next hk =>
      refine List.pairwise_cons.2 ⟨fun b hb => ?_, List.pairwise_cons.2 h⟩
      simp only [List.map_cons, List.mem_cons] at hb
      rcases hb with rfl | hb
      · exact hk
      · exact lt_trans hk (h.1 _ hb)
    · split
      · next _ hk => subst hk; exact List.pairwise_cons.2 h
      · next h1 h2 =>
        refine List.pairwise_cons.2 ⟨fun b hb => ?_, ih h.2⟩
        obtain ⟨p, hp, rfl⟩ := List.mem_map.1 hb
        rcases mem_mins hp with rfl | hp
        · exact lt_of_le_of_ne (not_lt.1 h1) (Ne.symm h2)
        · exact h.1 _ (List.mem_map_of_mem hp)

/-- A write keeps a map's canonical form. -/
theorem mset_wf {α : Type} [DecidableEq α] {d : Nat → α} {m : NMap α} (k : Nat) (v : α) (h : mwf d m) : mwf d (mset m (d k) k v) := by
  unfold mset
  split
  · exact ⟨h.1.sublist (List.filter_sublist.map _), fun p hp => h.2 p (List.mem_filter.1 hp).1⟩
  · next hv =>
    refine ⟨mins_sorted k v h.1, fun p hp => ?_⟩
    rcases mem_mins hp with rfl | hp
    · exact hv
    · exact h.2 p hp

/-! ### Byte memories -/

@[simp] theorem Mem.set_fills (m : Mem) (a : Nat) (b : Byte) : (m.set a b).fills = m.fills := rfl

/-- Reading a byte after writing one. -/
@[simp] theorem Mem.get_set (m : Mem) (a : Nat) (b : Byte) (x : Nat) : (m.set a b).get x = if x = a then b else m.get x := by
  unfold Mem.get Mem.set mset
  simp only
  split
  · next h =>
    rw [mget_mdel]
    by_cases hx : x = a
    · simp [hx, h]
    · simp [hx]
  · rw [mget_mins]

/-- A byte write keeps the canonical form. -/
theorem Mem.set_wf {m : Mem} (a : Nat) (b : Byte) (h : m.wf) : (m.set a b).wf :=
  mset_wf (d := unlisted m.fills) a b h

@[simp] theorem Mem.write_fills (m : Mem) (a : Nat) (bs : List Byte) : (m.write a bs).fills = m.fills := by
  induction bs generalizing m a with
  | nil => rfl
  | cons b t ih => simp [Mem.write, ih]

/-- Reading a byte after writing bytes from `a` upward. -/
theorem Mem.get_write (m : Mem) (a : Nat) (bs : List Byte) (x : Nat) :
    (m.write a bs).get x = if a ≤ x ∧ x < a + bs.length then bs.getD (x - a) 0 else m.get x := by
  induction bs generalizing m a with
  | nil => simp [Mem.write]
  | cons b t ih =>
    simp only [Mem.write, ih, List.length_cons, Mem.get_set]
    by_cases hx : x = a
    · subst hx; simp
    · by_cases hin : a + 1 ≤ x ∧ x < a + 1 + t.length
      · have h2 : a ≤ x ∧ x < a + (t.length + 1) := by omega
        have h3 : x - a = (x - (a + 1)) + 1 := by omega
        rw [if_pos hin, if_pos h2, h3]; simp
      · have h2 : ¬ (a ≤ x ∧ x < a + (t.length + 1)) := by omega
        rw [if_neg hin, if_neg h2, if_neg hx]

/-- Writing bytes keeps the canonical form. -/
theorem Mem.write_wf {m : Mem} (a : Nat) (bs : List Byte) (h : m.wf) : (m.write a bs).wf := by
  induction bs generalizing m a with
  | nil => exact h
  | cons b t ih => exact ih _ (Mem.set_wf a b h)

theorem Mem.writeCells_wf {m : Mem} (cs : List Host.Cell) (h : m.wf) : (m.writeCells cs).wf := by
  unfold Mem.writeCells
  induction cs generalizing m with
  | nil => exact h
  | cons c t ih => exact ih (Mem.set_wf c.1 c.2 h)

theorem Mem.wr_wf {m : Mem} (a n x : Nat) (h : m.wf) : (m.wr a n x).wf := Mem.write_wf _ _ h

/-- Making an area read otherwise keeps the canonical form: the area lists nothing, and no other address changes. -/
theorem Mem.fill_wf {m : Mem} (lo hi : Nat) (f : Fill) (h : m.wf) : (m.fill lo hi f).wf := by
  refine ⟨h.1.sublist (List.filter_sublist.map _), fun c hc => ?_⟩
  obtain ⟨hm, hn⟩ := List.mem_filter.1 hc
  have : ¬ (lo ≤ c.1 ∧ c.1 < hi) := of_decide_eq_true hn
  simpa [Mem.fill, unlisted, this] using h.2 c hm

/-- A memory that lists nothing is canonical. -/
theorem Mem.empty_wf {f : List (Nat × Nat × Fill)} : Mem.wf { fills := f } := ⟨List.Pairwise.nil, by simp⟩

/-! ### Little-endian numbers -/

@[simp] theorem leBytes_length (n x : Nat) : (leBytes n x).length = n := by
  induction n generalizing x with
  | zero => rfl
  | succ n ih => simp [leBytes, ih]

/-- `n` little-endian bytes read back as the number modulo 256 ^ n. -/
theorem leNat_leBytes (n x : Nat) : leNat (leBytes n x) = x % 256 ^ n := by
  induction n generalizing x with
  | zero => simp [leBytes, leNat, Nat.mod_one]
  | succ n ih =>
    simp only [leBytes, leNat, ih, BitVec.toNat_ofNat]
    rw [show (2 : Nat) ^ 8 = 256 by norm_num, pow_succ, Nat.mul_comm (256 ^ n), Nat.mod_mul]

/-- Reading back what was written. -/
theorem Mem.read_write (m : Mem) (a : Nat) (bs : List Byte) : (m.write a bs).read a bs.length = bs := by
  apply List.ext_getElem
  · simp [Mem.read]
  · intro i h1 h2
    simp only [Mem.read, List.getElem_map, List.getElem_range, Mem.get_write]
    rw [if_pos (by omega)]
    simp [List.getD_eq_getElem?_getD, h2]

/-- A little-endian number read back. -/
theorem Mem.rd_wr (m : Mem) (a n x : Nat) : (m.wr a n x).rd a n = x % 256 ^ n := by
  unfold Mem.rd Mem.wr
  have := Mem.read_write m a (leBytes n x)
  rw [leBytes_length] at this
  rw [this, leNat_leBytes]

end Sys2Proof.Machine
end

