-- ==== Sys2Proof/Laws/Kept.lean ====
section
/-! SUPPORT. What every operation of the model keeps, whatever it does: the queue of commands, the freshness of free
values, the trace of what left the part, the monotonic counter (R367), the canonical form of every byte memory, and every
part of the state outside a list. -/

namespace Sys2Proof.Machine

theorem Part.same_refl (p : Part) (s : State) : p.same s s := by cases p <;> simp [Part.same]

theorem Part.same_trans {p : Part} {a b c : State} (h : p.same a b) (k : p.same b c) : p.same a c := by
  cases p <;> simp only [Part.same] at * <;> first | exact k.trans h | exact ⟨k.1.trans h.1, k.2.trans h.2⟩ | (rw [k, h])

/-- From `s` to `t` the queue stood still, free values were only used up, the output trace only grew, the monotonic
counter did not fall and did not pass 256, the byte memories stayed canonical, and only the parts `C` may differ. -/
structure Kept (C : List Part) (s t : State) : Prop where
  pending : t.pending = s.pending
  free : s.free ≤ t.free
  out : s.out <+: t.out
  counter : s.sec.counter ≤ t.sec.counter
  bound : s.sec.counter ≤ 256 → t.sec.counter ≤ 256
  mems : s.memoriesCanonical → t.memoriesCanonical
  frame : s.changesOnly C t

theorem Kept.refl (C : List Part) (s : State) : Kept C s s :=
  ⟨rfl, le_refl _, List.prefix_refl _, le_refl _, id, id, fun p _ => p.same_refl s⟩

theorem Kept.trans {C : List Part} {a b c : State} (h : Kept C a b) (k : Kept C b c) : Kept C a c :=
  ⟨k.pending.trans h.pending, h.free.trans k.free, h.out.trans k.out, h.counter.trans k.counter, k.bound ∘ h.bound, k.mems ∘ h.mems,
    fun p hp => Part.same_trans (h.frame p hp) (k.frame p hp)⟩

theorem Part.sub {F C : List Part} (h : F ⊆ C) {p : Part} (hp : p ∈ F) : p ∈ C := h hp

theorem Part.subs {F G C : List Part} (h : G ⊆ C) (hf : F ⊆ G) : F ⊆ C := List.Subset.trans hf h

theorem memSet_wf {m : Mem} (a : Nat) (b : Byte) (h : m.wf) : (memSet m a b).wf := by
  unfold memSet; split
  · exact Mem.set_wf _ _ h
  · exact h

theorem memWrite_wf {m : Mem} (a : Nat) (bs : List Byte) (h : m.wf) : (memWrite m a bs).wf := by
  induction bs generalizing m a with
  | nil => exact h
  | cons b t ih => exact ih _ (memSet_wf a b h)

theorem foldWrite_wf {α : Type} {l : List α} {f : Mem → α → Mem} (hf : ∀ m a, m.wf → (f m a).wf) {m : Mem} (h : m.wf) : (l.foldl f m).wf := by
  induction l generalizing m with
  | nil => exact h
  | cons a t ih => exact ih (hf _ _ h)

theorem evqPut_wf {m : Mem} {base slots : Nat} {q : EvQ} {e : Ev} (h : m.wf) : (evqPut m base slots q e).1.wf := Mem.write_wf _ _ h

/-- A change of named fields. What it asks of a change holds as the change stands, or by the lemma of the memory's operation. -/
theorem Kept.put {C : List Part} {z x : State} (h : Kept C z x) {free : Nat} {hm : Mem} {mem : MemSt} {tile : TileSt} {job : JobSt} {fab : FabSt}
    {trw : NMap Trowel} {rink : RinkSt} {post : PostSt} {host : HostSt} {cfg : CfgSt} {tel : TelSt} {sec : SecSt} {pwr : PwrSt}
    {boot : BootSt} (used : x.free ≤ free := by first | exact le_refl _ | exact Nat.le_add_right _ _)
    (counter : sec.counter = x.sec.counter := by exact rfl)
    (mems : x.hostMem.wf ∧ x.mem.dev.wf ∧ x.mem.scratch.wf ∧ x.tile.store.wf ∧ x.host.fw.buf.wf → hm.wf ∧ mem.dev.wf ∧ mem.scratch.wf ∧ tile.store.wf ∧ host.fw.buf.wf := by
      rintro ⟨a, b, c, d, e⟩
      refine ⟨?_, ?_, ?_, ?_, ?_⟩
      all_goals repeat' first
        | assumption | exact Mem.empty_wf | apply memWrite_wf | apply memSet_wf | apply Mem.wr_wf | apply Mem.write_wf
        | apply Mem.writeCells_wf | apply Mem.set_wf | apply Mem.fill_wf | apply evqPut_wf
        | refine foldWrite_wf (fun _ _ h => Mem.write_wf _ _ h) ?_)
    (frame : ∀ p, p ∉ C → p.same x ⟨x.pending, free, x.out, hm, mem, tile, job, fab, trw, rink, post, host, cfg, tel, sec, pwr, boot⟩ := by
      intro p hp; cases p <;> first | exact rfl | exact ⟨rfl, rfl⟩ | exact absurd (Part.sub hC (by decide)) hp) :
    Kept C z ⟨x.pending, free, x.out, hm, mem, tile, job, fab, trw, rink, post, host, cfg, tel, sec, pwr, boot⟩ :=
  ⟨h.pending, h.free.trans used, h.out, counter ▸ h.counter, counter ▸ h.bound, mems ∘ h.mems,
    fun p hp => Part.same_trans (h.frame p hp) (frame p hp)⟩

theorem Kept.ite {C : List Part} {z a b : State} {c : Prop} [Decidable c] (h1 : Kept C z a) (h2 : Kept C z b) : Kept C z (if c then a else b) := by
  split <;> assumption

/-- A fold of changes that each keep. -/
theorem Kept.foldl {C : List Part} {α : Type} {z : State} {f : State → α → State} (hf : ∀ x a, Kept C z x → Kept C z (f x a)) {l : List α}
    {x : State} (h : Kept C z x) : Kept C z (l.foldl f x) := by
  induction l generalizing x with
  | nil => exact h
  | cons a t ih => exact ih (hf _ _ h)

theorem forEach_kept {C : List Part} {α : Type} {z : State} {f : State → α → State} {l : List α} {x : State}
    (h : Kept C z x) (hf : ∀ x a, Kept C z x → Kept C z (f x a)) : Kept C z (forEach l x f) := Kept.foldl hf h

end Sys2Proof.Machine
end

