-- ==== Sys2Proof/Laws/KeptOps.lean ====
section
/-! SUPPORT. What the operations of these files keep: RegMap, Ops, Net, RinkOps, Stop, CfgStage, JobOps. -/

namespace Sys2Proof.Machine

set_option Elab.async false

variable {C : List Part} {z s : State}

theorem setRw_kept {off : Nat} {v : Word} (hC : ([.regs] : List Part) ⊆ C) (h : Kept C z s) : Kept C z (setRw s off v) := by
  unfold setRw
  repeat' with_reducible first
    | assumption | fail_if_no_progress refine Kept.put ?_

theorem updCtx_kept {c : Nat} {f : JobCtx → JobCtx} (hC : ([.job] : List Part) ⊆ C) (h : Kept C z s) : Kept C z (updCtx s c f) := by
  unfold updCtx
  repeat' with_reducible first
    | assumption | fail_if_no_progress refine Kept.put ?_

theorem updSeqr_kept {t : Nat} {f : Seqr → Seqr} (hC : ([.tile] : List Part) ⊆ C) (h : Kept C z s) : Kept C z (updSeqr s t f) := by
  unfold updSeqr
  repeat' with_reducible first
    | assumption | fail_if_no_progress refine Kept.put ?_

theorem updCourse_kept {n : Nat} {f : CourseSt → CourseSt} (hC : ([.tile] : List Part) ⊆ C) (h : Kept C z s) : Kept C z (updCourse s n f) := by
  unfold updCourse
  repeat' with_reducible first
    | assumption | fail_if_no_progress refine Kept.put ?_

theorem updStack_kept {k : Nat} {f : StackSt → StackSt} (hC : ([.mem] : List Part) ⊆ C) (h : Kept C z s) : Kept C z (updStack s k f) := by
  unfold updStack
  repeat' with_reducible first
    | assumption | fail_if_no_progress refine Kept.put ?_

theorem updLink_kept {p : Nat} {f : Link → Link} (hC : ([.fab] : List Part) ⊆ C) (h : Kept C z s) : Kept C z (updLink s p f) := by
  unfold updLink
  repeat' with_reducible first
    | assumption | fail_if_no_progress refine Kept.put ?_

theorem updTrowel_kept {k : Nat} {f : Trowel → Trowel} (hC : ([.trw] : List Part) ⊆ C) (h : Kept C z s) : Kept C z (updTrowel s k f) := by
  unfold updTrowel
  repeat' with_reducible first
    | assumption | fail_if_no_progress refine Kept.put ?_

theorem updPair_kept {p : Nat} {f : Pair → Pair} (hC : ([.pwr] : List Part) ⊆ C) (h : Kept C z s) : Kept C z (updPair s p f) := by
  unfold updPair
  repeat' with_reducible first
    | assumption | fail_if_no_progress refine Kept.put ?_

theorem updUnit_kept {u : MediaUnit} {f : RUnit → RUnit} (hC : ([.rink] : List Part) ⊆ C) (h : Kept C z s) : Kept C z (updUnit s u f) := by
  unfold updUnit
  repeat' with_reducible first
    | assumption | fail_if_no_progress refine Kept.put ?_

theorem updTrn_kept {c : Nat} {f : JobTrn → JobTrn} (hC : ([.job] : List Part) ⊆ C) (h : Kept C z s) : Kept C z (updTrn s c f) := by
  unfold updTrn
  repeat' with_reducible first
    | assumption | apply updCtx_kept

theorem updFab_kept {c : Nat} {f : JobFab → JobFab} (hC : ([.job] : List Part) ⊆ C) (h : Kept C z s) : Kept C z (updFab s c f) := by
  unfold updFab
  repeat' with_reducible first
    | assumption | apply updCtx_kept

theorem updBnd_kept {c : Nat} {f : Boundary → Boundary} (hC : ([.job] : List Part) ⊆ C) (h : Kept C z s) : Kept C z (updBnd s c f) := by
  unfold updBnd
  repeat' with_reducible first
    | assumption | apply updCtx_kept

theorem emit_kept {m : OutMsg} (hC : ([.out] : List Part) ⊆ C) (h : Kept C z s) : Kept C z (emit s m) :=
  ⟨h.pending, h.free, h.out.trans (List.prefix_append _ _), h.counter, h.bound, fun hz => h.mems hz, fun p hp => by
    refine Part.same_trans (h.frame p hp) ?_
    cases p <;> first | exact rfl | exact ⟨rfl, rfl⟩ | exact absurd (Part.sub hC (by decide)) hp⟩

theorem takeFree_kept (h : Kept C z s) : Kept C z (takeFree s).2 := by
  unfold takeFree; exact Kept.put h (frame := fun p _ => by cases p <;> first | exact rfl | exact ⟨rfl, rfl⟩)

theorem bump_kept {off : Nat} {n : Nat} (hC : ([.tel] : List Part) ⊆ C) (h : Kept C z s) : Kept C z (bump s off n) := by
  unfold bump
  repeat' with_reducible first
    | assumption | fail_if_no_progress refine Kept.put ?_

theorem devWrite_kept {keep : Option Nat} {a : Nat} {bs : List Byte} (hC : ([.dev, .mem] : List Part) ⊆ C) (h : Kept C z s)
    : Kept C z (devWrite s keep a bs) := by
  unfold devWrite
  repeat' with_reducible first
    | assumption | fail_if_no_progress refine Kept.put ?_

theorem bedFill_kept {d : Nat} {a : Nat} {n : Nat} (hC : ([.mem] : List Part) ⊆ C) (h : Kept C z s) : Kept C z (bedFill s d a n) := by
  unfold bedFill
  repeat' with_reducible first
    | assumption | refine Kept.foldl ?_ ?_ | fail_if_no_progress refine Kept.put ?_

theorem bedTrim_kept (hC : ([.mem] : List Part) ⊆ C) (h : Kept C z s) : Kept C z (bedTrim s) := by
  unfold bedTrim
  repeat' with_reducible first
    | assumption | refine Kept.foldl ?_ ?_ | fail_if_no_progress refine Kept.put ?_

theorem storeWrite_kept {t : Nat} {a : Nat} {bs : List Byte} (hC : ([.store] : List Part) ⊆ C) (h : Kept C z s)
    : Kept C z (storeWrite s t a bs) := by
  unfold storeWrite
  repeat' with_reducible first
    | assumption | fail_if_no_progress refine Kept.put ?_

theorem undefCourse_kept {n : Nat} (hC : ([.store] : List Part) ⊆ C) (h : Kept C z s) : Kept C z (undefCourse s n) := by
  unfold undefCourse
  repeat' with_reducible first
    | assumption | fail_if_no_progress refine Kept.put ?_

theorem undefScratch_kept {c : Nat} (hC : ([.scratch] : List Part) ⊆ C) (h : Kept C z s) : Kept C z (undefScratch s c) := by
  unfold undefScratch
  repeat' with_reducible first
    | assumption | fail_if_no_progress refine Kept.put ?_

theorem zeroVregs_kept {n : Nat} (hC : ([.vreg] : List Part) ⊆ C) (h : Kept C z s) : Kept C z (zeroVregs s n) := by
  unfold zeroVregs
  repeat' with_reducible first
    | assumption | fail_if_no_progress refine Kept.put ?_

theorem devUndef_kept {a : Nat} {n : Nat} (hC : ([.dev, .mem] : List Part) ⊆ C) (h : Kept C z s) : Kept C z (devUndef s a n) := by
  unfold devUndef
  repeat' with_reducible first
    | assumption | apply devWrite_kept | exact Part.subs hC (by decide) | fail_if_no_progress refine Kept.put ?_

theorem msix_kept {v : Nat} (hC : ([.out, .host] : List Part) ⊆ C) (h : Kept C z s) : Kept C z (msix s v) := by
  unfold msix
  repeat' with_reducible first
    | assumption | apply emit_kept | refine Kept.ite ?_ ?_ | exact Part.subs hC (by decide) | fail_if_no_progress refine Kept.put ?_

theorem signalSource_kept {i : Nat} (hC : ([.out, .host] : List Part) ⊆ C) (h : Kept C z s) : Kept C z (signalSource s i) := by
  unfold signalSource
  repeat' with_reducible first
    | assumption | apply msix_kept

theorem setIrq_kept {page : Nat} {v : Word} (hC : ([.out, .host] : List Part) ⊆ C) (h : Kept C z s) : Kept C z (setIrq s page v) := by
  unfold setIrq
  repeat' with_reducible first
    | assumption | apply signalSource_kept | refine Kept.ite ?_ ?_ | exact Part.subs hC (by decide) | fail_if_no_progress refine Kept.put ?_
    | intro _ | split

theorem blockEvent_kept {page : Nat} (hC : ([.out, .host] : List Part) ⊆ C) (h : Kept C z s) : Kept C z (blockEvent s page) := by
  unfold blockEvent
  repeat' with_reducible first
    | assumption | apply setIrq_kept

theorem accessErr_kept {page : Nat} {cause : Nat} {requester : Nat} {offset : Nat} (hC : ([.out, .host] : List Part) ⊆ C) (h : Kept C z s)
    : Kept C z (accessErr s page cause requester offset) := by
  unfold accessErr
  repeat' with_reducible first
    | assumption | apply setIrq_kept | refine Kept.ite ?_ ?_ | exact Part.subs hC (by decide) | fail_if_no_progress refine Kept.put ?_

theorem notReady_kept {requester : Nat} {offset : Nat} (hC : ([.out, .host] : List Part) ⊆ C) (h : Kept C z s)
    : Kept C z (notReady s requester offset) := by
  unfold notReady
  repeat' with_reducible first
    | assumption | apply accessErr_kept | refine Kept.ite ?_ ?_

theorem partEntry_kept {e : Ev} (hC : ([.out, .hostMem, .host] : List Part) ⊆ C) (h : Kept C z s) : Kept C z (partEntry s e) := by
  unfold partEntry
  repeat' with_reducible first
    | assumption | apply signalSource_kept | refine Kept.ite ?_ ?_ | exact Part.subs hC (by decide) | fail_if_no_progress refine Kept.put ?_

theorem jobEntry_kept {c : Nat} {e : Ev} (hC : ([.out, .hostMem, .job, .host] : List Part) ⊆ C) (h : Kept C z s) : Kept C z (jobEntry s c e) := by
  unfold jobEntry
  repeat' with_reducible first
    | assumption | apply updCtx_kept | apply signalSource_kept | refine Kept.ite ?_ ?_ | exact Part.subs hC (by decide)
    | fail_if_no_progress refine Kept.put ?_

theorem jobEvent_kept {c : Nat} {e : Ev} (hC : ([.out, .hostMem, .job, .host] : List Part) ⊆ C) (h : Kept C z s) : Kept C z (jobEvent s c e) := by
  unfold jobEvent
  repeat' with_reducible first
    | assumption | apply updCtx_kept | apply partEntry_kept | apply jobEntry_kept | refine Kept.ite ?_ ?_ | exact Part.subs hC (by decide)

theorem retain_kept {e : Ev} (hC : ([.out, .tel] : List Part) ⊆ C) (h : Kept C z s) : Kept C z (retain s e) := by
  unfold retain
  repeat' with_reducible first
    | assumption | apply emit_kept | exact Part.subs hC (by decide) | fail_if_no_progress refine Kept.put ?_

theorem raiseJob_kept {c : Nat} {code : Nat} {f : EvF} (hC : ([.out, .hostMem, .job, .host] : List Part) ⊆ C) (h : Kept C z s)
    : Kept C z (raiseJob s c code f) := by
  unfold raiseJob
  repeat' with_reducible first
    | assumption | apply jobEvent_kept

theorem raisePart_kept {code : Nat} {f : EvF} (hC : ([.out, .hostMem, .host] : List Part) ⊆ C) (h : Kept C z s) : Kept C z (raisePart s code f) := by
  unfold raisePart
  repeat' with_reducible first
    | assumption | apply partEntry_kept

theorem raiseRetained_kept {code : Nat} {f : EvF} (hC : ([.out, .hostMem, .host, .tel] : List Part) ⊆ C) (h : Kept C z s)
    : Kept C z (raiseRetained s code f) := by
  unfold raiseRetained
  repeat' with_reducible first
    | assumption | apply partEntry_kept | apply retain_kept | exact Part.subs hC (by decide)

theorem secRefuse_kept {r : Refused} (hC : ([.sec] : List Part) ⊆ C) (h : Kept C z s) : Kept C z (secRefuse s r) := by
  unfold secRefuse
  repeat' with_reducible first
    | assumption | fail_if_no_progress refine Kept.put ?_

theorem updChan_kept {ch : Nat} {f : DmaChan → DmaChan} (hC : ([.host] : List Part) ⊆ C) (h : Kept C z s) : Kept C z (updChan s ch f) := by
  unfold updChan
  repeat' with_reducible first
    | assumption | fail_if_no_progress refine Kept.put ?_

theorem chanFinish_kept {ch : Nat} {status : Nat} (hC : ([.out, .hostMem, .host] : List Part) ⊆ C) (h : Kept C z s)
    : Kept C z (chanFinish s ch status) := by
  unfold chanFinish
  repeat' with_reducible first
    | assumption | apply signalSource_kept | apply updChan_kept | refine Kept.ite ?_ ?_ | exact Part.subs hC (by decide)
    | fail_if_no_progress refine Kept.put ?_ | intro _ | split | dsimp only

theorem semPut_kept {t : Nat} {i : Nat} {v : Nat} (hC : ([.sem] : List Part) ⊆ C) (h : Kept C z s) : Kept C z (semPut s t i v) := by
  unfold semPut
  repeat' with_reducible first
    | assumption | fail_if_no_progress refine Kept.put ?_

theorem undefSems_kept {n : Nat} (hC : ([.sem] : List Part) ⊆ C) (h : Kept C z s) : Kept C z (undefSems s n) := by
  unfold undefSems
  repeat' with_reducible first
    | assumption | fail_if_no_progress refine Kept.put ?_

theorem zeroSems_kept {n : Nat} (hC : ([.sem] : List Part) ⊆ C) (h : Kept C z s) : Kept C z (zeroSems s n) := by
  unfold zeroSems
  repeat' with_reducible first
    | assumption | fail_if_no_progress refine Kept.put ?_

theorem semInitCourse_kept {m : Manifest} {n : Nat} (hC : ([.sem] : List Part) ⊆ C) (h : Kept C z s) : Kept C z (semInitCourse s m n) := by
  unfold semInitCourse
  repeat' with_reducible first
    | assumption | refine Kept.foldl ?_ ?_ | fail_if_no_progress refine Kept.put ?_

theorem setClock_kept {p : Nat} {k : Nat} (hC : ([.tile] : List Part) ⊆ C) (h : Kept C z s) : Kept C z (setClock s p k) := by
  unfold setClock
  repeat' with_reducible first
    | assumption | fail_if_no_progress refine Kept.put ?_

theorem clockTick_kept {p : Nat} (hC : ([.tile] : List Part) ⊆ C) (h : Kept C z s) : Kept C z (clockTick s p) := by
  unfold clockTick
  repeat' with_reducible first
    | assumption | apply setClock_kept | refine Kept.ite ?_ ?_ | exact Part.subs hC (by decide) | fail_if_no_progress refine Kept.put ?_

theorem spinSettle_kept {n : Nat} (hC : ([.tile] : List Part) ⊆ C) (h : Kept C z s) : Kept C z (spinSettle s n) := by
  unfold spinSettle
  repeat' with_reducible first
    | assumption | apply updCourse_kept

theorem spinConsume_kept {t : Nat} {j : Nat} {k : Nat} (hC : ([.tile] : List Part) ⊆ C) (h : Kept C z s) : Kept C z (spinConsume s t j k) := by
  unfold spinConsume
  repeat' with_reducible first
    | assumption | refine Kept.ite ?_ ?_ | fail_if_no_progress refine Kept.put ?_

theorem spinReload_kept {n : Nat} {seed : Nat} (hC : ([.tile] : List Part) ⊆ C) (h : Kept C z s) : Kept C z (spinReload s n seed) := by
  unfold spinReload
  repeat' with_reducible first
    | assumption | apply updCourse_kept | exact Part.subs hC (by decide) | fail_if_no_progress refine Kept.put ?_

theorem freezeNow_kept (hC : ([.tel] : List Part) ⊆ C) (h : Kept C z s) : Kept C z (freezeNow s) := by
  unfold freezeNow
  repeat' with_reducible first
    | assumption | fail_if_no_progress refine Kept.put ?_

theorem freezeTick_kept (hC : ([.tel] : List Part) ⊆ C) (h : Kept C z s) : Kept C z (freezeTick s) := by
  unfold freezeTick
  repeat' with_reducible first
    | assumption | apply freezeNow_kept | refine Kept.ite ?_ ?_ | exact Part.subs hC (by decide) | fail_if_no_progress refine Kept.put ?_

theorem rollUp_kept (hC : ([.tel] : List Part) ⊆ C) (h : Kept C z s) : Kept C z (rollUp s) := by
  unfold rollUp
  repeat' with_reducible first
    | assumption | refine Kept.foldl ?_ ?_ | fail_if_no_progress refine Kept.put ?_

theorem tick_kept (hC : ([.tel] : List Part) ⊆ C) (h : Kept C z s) : Kept C z (tick s) := by
  unfold tick
  repeat' with_reducible first
    | assumption | apply freezeNow_kept | apply freezeTick_kept | apply rollUp_kept | refine Kept.ite ?_ ?_

theorem lowerClocks_kept (hC : ([.pwr] : List Part) ⊆ C) (h : Kept C z s) : Kept C z (lowerClocks s) := by
  unfold lowerClocks
  repeat' with_reducible first
    | assumption | apply updPair_kept | refine forEach_kept ?_ ?_ | exact Part.subs hC (by decide) | intro _

theorem freeInput_kept {q : QPkt} (hC : ([.out, .fab] : List Part) ⊆ C) (h : Kept C z s) : Kept C z (freeInput s q) := by
  unfold freeInput
  repeat' with_reducible first
    | assumption | apply updLink_kept | apply emit_kept | exact Part.subs hC (by decide) | intro _ | split

theorem startPacket_kept {port : Nat} {q : QPkt} (hC : ([.out, .fab] : List Part) ⊆ C) (h : Kept C z s) : Kept C z (startPacket s port q) := by
  unfold startPacket
  repeat' with_reducible first
    | assumption | apply updLink_kept | apply emit_kept | apply freeInput_kept | refine Kept.ite ?_ ?_ | exact Part.subs hC (by decide)

theorem sendOn_kept {port : Nat} {q : QPkt} (hC : ([.out, .fab] : List Part) ⊆ C) (h : Kept C z s) : Kept C z (sendOn s port q) := by
  unfold sendOn
  repeat' with_reducible first
    | assumption | apply updLink_kept | apply startPacket_kept | refine Kept.ite ?_ ?_ | exact Part.subs hC (by decide)

theorem serveOne_kept {port : Nat} (hC : ([.out, .fab] : List Part) ⊆ C) (h : Kept C z s) : Kept C z (serveOne s port) := by
  unfold serveOne
  repeat' with_reducible first
    | assumption | apply updLink_kept | apply startPacket_kept | refine Kept.ite ?_ ?_ | exact Part.subs hC (by decide) | intro _ | split

theorem servePort_kept {port : Nat} {x0 : Nat} (hC : ([.out, .fab] : List Part) ⊆ C) (h : Kept C z s) : Kept C z (servePort s port x0) := by
  induction x0 generalizing s port with
  | zero =>
    unfold servePort
    repeat' with_reducible first
      | assumption
  | succ n ih =>
    unfold servePort
    repeat' with_reducible first
      | assumption | apply ih | apply serveOne_kept | exact Part.subs hC (by decide) | intro _ | split

theorem countDiscard_kept (hC : ([.tel] : List Part) ⊆ C) (h : Kept C z s) : Kept C z (countDiscard s) := by
  unfold countDiscard
  repeat' with_reducible first
    | assumption | apply bump_kept

theorem doHop_kept {inp : Option (Nat × Nat)} {p : Packet} {x0 : Hop} (hC : ([.out, .fab, .tel] : List Part) ⊆ C) (h : Kept C z s)
    : Kept C z (doHop s inp p x0) := by
  unfold doHop
  repeat' with_reducible first
    | assumption | apply emit_kept | apply freeInput_kept | apply sendOn_kept | apply countDiscard_kept | exact Part.subs hC (by decide) | split

theorem forward_kept {inp : Option (Nat × Nat)} {p : Packet} (hC : ([.out, .fab, .tel] : List Part) ⊆ C) (h : Kept C z s)
    : Kept C z (forward s inp p) := by
  unfold forward
  repeat' with_reducible first
    | assumption | apply doHop_kept | refine Kept.ite ?_ ?_ | exact Part.subs hC (by decide) | intro _ | split | dsimp only

theorem inject_kept {p : Packet} (hC : ([.out, .fab, .tel] : List Part) ⊆ C) (h : Kept C z s) : Kept C z (inject s p) := by
  unfold inject
  repeat' with_reducible first
    | assumption | apply forward_kept

theorem arrive_kept {port : Nat} {p : Packet} (hC : ([.out, .fab, .tel] : List Part) ⊆ C) (h : Kept C z s) : Kept C z (arrive s port p) := by
  unfold arrive
  repeat' with_reducible first
    | assumption | apply updLink_kept | apply forward_kept | exact Part.subs hC (by decide)

theorem flood_kept {kind : Nat} {job : Nat} {payload : List Byte} {except : Option Nat} (hC : ([.out, .fab, .tel] : List Part) ⊆ C) (h : Kept C z s)
    : Kept C z (flood s kind job payload except) := by
  unfold flood
  repeat' with_reducible first
    | assumption | apply sendOn_kept | apply countDiscard_kept | refine forEach_kept ?_ ?_ | refine Kept.ite ?_ ?_ | exact Part.subs hC (by decide)
    | intro _ | split

theorem addKey_kept {kind : Nat} {b01 : Nat} {b4 : Nat} (hC : ([.fab] : List Part) ⊆ C) (h : Kept C z s) : Kept C z (addKey s kind b01 b4) := by
  unfold addKey
  repeat' with_reducible first
    | assumption | fail_if_no_progress refine Kept.put ?_

theorem floodJobLost_kept {c : Nat} {b4 : Nat} (hC : ([.out, .fab, .tel] : List Part) ⊆ C) (h : Kept C z s) : Kept C z (floodJobLost s c b4) := by
  unfold floodJobLost
  repeat' with_reducible first
    | assumption | apply flood_kept | apply addKey_kept | refine Kept.ite ?_ ?_ | exact Part.subs hC (by decide)

theorem floodPlough_kept {c : Nat} {mode : Nat} {cause : Nat} (hC : ([.out, .fab, .tel] : List Part) ⊆ C) (h : Kept C z s)
    : Kept C z (floodPlough s c mode cause) := by
  unfold floodPlough
  repeat' with_reducible first
    | assumption | apply flood_kept | apply addKey_kept | refine Kept.ite ?_ ?_ | exact Part.subs hC (by decide)

theorem takeTag_kept {c : Nat} (hC : ([.fab] : List Part) ⊆ C) (h : Kept C z s) : Kept C z (takeTag s c).2 := by
  unfold takeTag
  repeat' with_reducible first
    | assumption | fail_if_no_progress refine Kept.put ?_

theorem dropTag_kept {t : Nat} (hC : ([.fab] : List Part) ⊆ C) (h : Kept C z s) : Kept C z (dropTag s t) := by
  unfold dropTag
  repeat' with_reducible first
    | assumption | fail_if_no_progress refine Kept.put ?_

theorem chgLink_kept {port : Nat} {f : Link → Link} (hC : ([.out, .fab, .host] : List Part) ⊆ C) (h : Kept C z s) : Kept C z (chgLink s port f) := by
  unfold chgLink
  repeat' with_reducible first
    | assumption | apply updLink_kept | apply blockEvent_kept | refine Kept.ite ?_ ?_ | exact Part.subs hC (by decide)

theorem reroute_kept {port : Nat} (hC : ([.out, .fab, .tel] : List Part) ⊆ C) (h : Kept C z s) : Kept C z (reroute s port) := by
  unfold reroute
  repeat' with_reducible first
    | assumption | apply updLink_kept | apply forward_kept | refine forEach_kept ?_ ?_ | exact Part.subs hC (by decide) | intro _

theorem retrainLink_kept {port : Nat} (hC : ([.out, .fab, .host] : List Part) ⊆ C) (h : Kept C z s) : Kept C z (retrainLink s port) := by
  unfold retrainLink
  repeat' with_reducible first
    | assumption | apply chgLink_kept

theorem restartLink_kept {port : Nat} (hC : ([.out, .fab, .host] : List Part) ⊆ C) (h : Kept C z s) : Kept C z (restartLink s port) := by
  unfold restartLink
  repeat' with_reducible first
    | assumption | apply chgLink_kept | apply retrainLink_kept

theorem outLink_kept {port : Nat} (hC : ([.out, .fab, .host] : List Part) ⊆ C) (h : Kept C z s) : Kept C z (outLink s port) := by
  unfold outLink
  repeat' with_reducible first
    | assumption | apply chgLink_kept

theorem twinCheck_kept {port : Nat} (hC : ([.out, .fab, .host] : List Part) ⊆ C) (h : Kept C z s) : Kept C z (twinCheck s port) := by
  unfold twinCheck
  repeat' with_reducible first
    | assumption | apply retrainLink_kept | refine Kept.ite ?_ ?_

theorem refollow_kept (hC : ([.out, .hostMem, .fab, .host] : List Part) ⊆ C) (h : Kept C z s) : Kept C z (refollow s) := by
  unfold refollow
  repeat' with_reducible first
    | assumption | apply raisePart_kept | refine Kept.ite ?_ ?_ | exact Part.subs hC (by decide) | fail_if_no_progress refine Kept.put ?_ | intro _
    | split

theorem setEntryState_kept {e : Nat} {v : Nat} (hC : ([.dev] : List Part) ⊆ C) (h : Kept C z s) : Kept C z (setEntryState s e v) := by
  unfold setEntryState
  repeat' with_reducible first
    | assumption | fail_if_no_progress refine Kept.put ?_

theorem giveEntries_kept {c : Nat} {n : Nat} (hC : ([.rink] : List Part) ⊆ C) (h : Kept C z s) : Kept C z (giveEntries s c n) := by
  unfold giveEntries
  repeat' with_reducible first
    | assumption | refine Kept.foldl ?_ ?_ | fail_if_no_progress refine Kept.put ?_

theorem entPut_kept {e : Nat} {o : Nat} {b : List Byte} (hC : ([.dev] : List Part) ⊆ C) (h : Kept C z s) : Kept C z (entPut s e o b) := by
  unfold entPut
  repeat' with_reducible first
    | assumption | fail_if_no_progress refine Kept.put ?_

theorem entSet_kept {e : Nat} {o : Nat} {n : Nat} {v : Nat} (hC : ([.dev] : List Part) ⊆ C) (h : Kept C z s) : Kept C z (entSet s e o n v) := by
  unfold entSet
  repeat' with_reducible first
    | assumption | apply entPut_kept

theorem updStrm_kept {e : Nat} {f : Strm → Strm} (hC : ([.rink] : List Part) ⊆ C) (h : Kept C z s) : Kept C z (updStrm s e f) := by
  unfold updStrm
  repeat' with_reducible first
    | assumption | fail_if_no_progress refine Kept.put ?_

theorem putTask_kept {t : RTask} (hC : ([.rink] : List Part) ⊆ C) (h : Kept C z s) : Kept C z (putTask s t) := by
  unfold putTask
  repeat' with_reducible first
    | assumption | refine Kept.ite ?_ ?_ | fail_if_no_progress refine Kept.put ?_

theorem updSpill_kept (hC : ([.rink] : List Part) ⊆ C) (h : Kept C z s) : Kept C z (updSpill s) := by
  unfold updSpill
  repeat' with_reducible first
    | assumption | refine forEach_kept ?_ ?_ | fail_if_no_progress refine Kept.put ?_ | intro _

theorem postHalt_kept {c : Nat} (hC : ([.post] : List Part) ⊆ C) (h : Kept C z s) : Kept C z (postHalt s c) := by
  unfold postHalt
  repeat' with_reducible first
    | assumption | refine forEach_kept ?_ ?_ | refine Kept.ite ?_ ?_ | fail_if_no_progress refine Kept.put ?_ | intro _

theorem postDiscard_kept {c : Nat} (hC : ([.dev, .mem] : List Part) ⊆ C) (h : Kept C z s) : Kept C z (postDiscard s c) := by
  unfold postDiscard
  repeat' with_reducible first
    | assumption | apply devWrite_kept | refine forEach_kept ?_ ?_ | refine Kept.ite ?_ ?_ | exact Part.subs hC (by decide) | intro _

theorem undefOut_kept {m : Manifest} {r : Nat × Nat} (hC : ([.dev, .mem] : List Part) ⊆ C) (h : Kept C z s) : Kept C z (undefOut m s r) := by
  unfold undefOut
  repeat' with_reducible first
    | assumption | apply devUndef_kept | refine Kept.ite ?_ ?_

theorem rinkStop_kept {c : Nat} (hC : ([.dev, .mem, .rink] : List Part) ⊆ C) (h : Kept C z s) : Kept C z (rinkStop s c) := by
  unfold rinkStop
  repeat' with_reducible first
    | assumption | apply setEntryState_kept | apply updSpill_kept | apply undefOut_kept | refine forEach_kept ?_ ?_ | refine Kept.ite ?_ ?_
    | exact Part.subs hC (by decide) | fail_if_no_progress refine Kept.put ?_ | intro _

theorem rinkFree_kept {c : Nat} (hC : ([.dev, .rink] : List Part) ⊆ C) (h : Kept C z s) : Kept C z (rinkFree s c) := by
  unfold rinkFree
  repeat' with_reducible first
    | assumption | apply setEntryState_kept | apply updSpill_kept | refine forEach_kept ?_ ?_ | exact Part.subs hC (by decide)
    | fail_if_no_progress refine Kept.put ?_ | intro _

theorem stopTiles_kept {c : Nat} (hC : ([.dev, .scratch, .mem, .store, .tile] : List Part) ⊆ C) (h : Kept C z s) : Kept C z (stopTiles s c) := by
  unfold stopTiles
  repeat' with_reducible first
    | assumption | apply undefCourse_kept | apply undefScratch_kept | apply undefOut_kept | refine forEach_kept ?_ ?_ | refine Kept.ite ?_ ?_
    | exact Part.subs hC (by decide) | fail_if_no_progress refine Kept.put ?_ | intro _

theorem stopFab_kept {c : Nat} (hC : ([.job, .fab] : List Part) ⊆ C) (h : Kept C z s) : Kept C z (stopFab s c) := by
  unfold stopFab
  repeat' with_reducible first
    | assumption | apply updFab_kept | refine Kept.ite ?_ ?_ | exact Part.subs hC (by decide) | fail_if_no_progress refine Kept.put ?_

theorem stopEvents_kept {c : Nat} (hC : ([.job] : List Part) ⊆ C) (h : Kept C z s) : Kept C z (stopEvents s c) := by
  unfold stopEvents
  repeat' with_reducible first
    | assumption | apply updCtx_kept

theorem stopJob_kept {c : Nat} (hC : ([.dev, .scratch, .mem, .store, .tile, .job, .fab, .rink, .post] : List Part) ⊆ C) (h : Kept C z s)
    : Kept C z (stopJob s c) := by
  unfold stopJob
  repeat' with_reducible first
    | assumption | apply postHalt_kept | apply rinkStop_kept | apply stopTiles_kept | apply stopFab_kept | apply stopEvents_kept
    | exact Part.subs hC (by decide)

theorem resetSems_kept {c : Nat} {cs : List Nat} (hC : ([.sem] : List Part) ⊆ C) (h : Kept C z s) : Kept C z (resetSems s c cs) := by
  unfold resetSems
  repeat' with_reducible first
    | assumption | apply semInitCourse_kept | refine forEach_kept ?_ ?_ | exact Part.subs hC (by decide) | intro _

theorem parked_kept {c : Nat} (hC : ([.job] : List Part) ⊆ C) (h : Kept C z s) : Kept C z (parked s c) := by
  unfold parked
  repeat' with_reducible first
    | assumption | apply updCtx_kept

theorem parkPloughed_kept {c : Nat} {mode : Nat} {aborted : Nat} (hC : ([.out, .hostMem, .job, .host] : List Part) ⊆ C) (h : Kept C z s)
    : Kept C z (parkPloughed s c mode aborted) := by
  unfold parkPloughed
  repeat' with_reducible first
    | assumption | apply jobEvent_kept | apply parked_kept | exact Part.subs hC (by decide)

theorem abortNow_kept {c : Nat} (hC : ([.out, .hostMem, .dev, .scratch, .mem, .store, .sem, .tile, .job, .fab, .rink, .post, .host] : List Part) ⊆ C) (h : Kept C z s)
    : Kept C z (abortNow s c) := by
  unfold abortNow
  repeat' with_reducible first
    | assumption | apply updCtx_kept | apply updTrn_kept | apply postDiscard_kept | apply stopJob_kept | apply resetSems_kept
    | apply parkPloughed_kept | refine Kept.ite ?_ ?_ | exact Part.subs hC (by decide)

theorem ploughNow_kept {c : Nat} {mode : Plough} {cause : Nat} (hC : ([.out, .hostMem, .dev, .scratch, .mem, .store, .sem, .tile, .job, .fab, .rink, .post, .host] : List Part) ⊆ C) (h : Kept C z s)
    : Kept C z (ploughNow s c mode cause) := by
  unfold ploughNow
  repeat' with_reducible first
    | assumption | apply updCtx_kept | apply parkPloughed_kept | apply abortNow_kept | refine Kept.ite ?_ ?_ | exact Part.subs hC (by decide)
    | intro _ | split

theorem ploughSpread_kept {c : Nat} {mode : Plough} {cause : Nat} (hC : ([.out, .hostMem, .dev, .scratch, .mem, .store, .sem, .tile, .job, .fab, .rink, .post, .host, .tel] : List Part) ⊆ C) (h : Kept C z s)
    : Kept C z (ploughSpread s c mode cause) := by
  unfold ploughSpread
  repeat' with_reducible first
    | assumption | apply floodPlough_kept | apply ploughNow_kept | refine Kept.ite ?_ ?_ | exact Part.subs hC (by decide)

theorem cutLinks_kept {x : Nat} (hC : ([.out, .fab, .host, .tel] : List Part) ⊆ C) (h : Kept C z s) : Kept C z (cutLinks s x) := by
  unfold cutLinks
  repeat' with_reducible first
    | assumption | apply reroute_kept | apply outLink_kept | refine forEach_kept ?_ ?_ | exact Part.subs hC (by decide) | intro _

theorem absentNow_kept {x : Nat} {cause : Nat} {b23 : Nat} {port : Option Nat} (hC : ([.out, .hostMem, .dev, .scratch, .mem, .store, .sem, .tile, .job, .fab, .rink, .post, .host, .tel] : List Part) ⊆ C) (h : Kept C z s)
    : Kept C z (absentNow s x cause b23 port) := by
  unfold absentNow
  repeat' with_reducible first
    | assumption | apply raisePart_kept | apply flood_kept | apply addKey_kept | apply refollow_kept | apply ploughSpread_kept | apply cutLinks_kept
    | refine forEach_kept ?_ ?_ | refine Kept.ite ?_ ?_ | exact Part.subs hC (by decide) | fail_if_no_progress refine Kept.put ?_ | intro _

theorem portsOut_kept {port : Nat} {cause : Nat} (hC : ([.out, .hostMem, .dev, .scratch, .mem, .store, .sem, .tile, .job, .fab, .rink, .post, .host, .tel] : List Part) ⊆ C) (h : Kept C z s)
    : Kept C z (portsOut s port cause) := by
  unfold portsOut
  repeat' with_reducible first
    | assumption | apply absentNow_kept | refine Kept.ite ?_ ?_ | exact Part.subs hC (by decide) | intro _ | split

theorem afterOut_kept {port : Nat} (hC : ([.out, .hostMem, .fab, .host, .tel] : List Part) ⊆ C) (h : Kept C z s) : Kept C z (afterOut s port) := by
  unfold afterOut
  repeat' with_reducible first
    | assumption | apply reroute_kept | apply twinCheck_kept | apply refollow_kept | exact Part.subs hC (by decide)

theorem linkGone_kept {port : Nat} {cause : Nat} (hC : ([.out, .hostMem, .dev, .scratch, .mem, .store, .sem, .tile, .job, .fab, .rink, .post, .host, .tel] : List Part) ⊆ C) (h : Kept C z s)
    : Kept C z (linkGone s port cause) := by
  unfold linkGone
  repeat' with_reducible first
    | assumption | apply outLink_kept | apply portsOut_kept | apply afterOut_kept | exact Part.subs hC (by decide)

theorem restartLinks_kept {ps : List Nat} (hC : ([.out, .hostMem, .dev, .scratch, .mem, .store, .sem, .tile, .job, .fab, .rink, .post, .host, .tel] : List Part) ⊆ C) (h : Kept C z s)
    : Kept C z (restartLinks s ps) := by
  unfold restartLinks
  repeat' with_reducible first
    | assumption | apply restartLink_kept | apply portsOut_kept | apply afterOut_kept | refine forEach_kept ?_ ?_ | exact Part.subs hC (by decide)
    | intro _

theorem goPresent_kept {x : Nat} {b23 : Nat} {port : Option Nat} (hC : ([.out, .fab, .tel] : List Part) ⊆ C) (h : Kept C z s)
    : Kept C z (goPresent s x b23 port) := by
  unfold goPresent
  repeat' with_reducible first
    | assumption | apply flood_kept | refine Kept.ite ?_ ?_ | exact Part.subs hC (by decide) | fail_if_no_progress refine Kept.put ?_

theorem staged_kept (hC : ([.cfg] : List Part) ⊆ C) (h : Kept C z s) : Kept C z (staged s) := by
  unfold staged
  repeat' with_reducible first
    | assumption | fail_if_no_progress refine Kept.put ?_

theorem cfgResult_kept {code : Nat} {rule : Nat} {wh : Nat} (hC : ([.out, .host, .cfg] : List Part) ⊆ C) (h : Kept C z s)
    : Kept C z (cfgResult s code rule wh) := by
  unfold cfgResult
  repeat' with_reducible first
    | assumption | apply blockEvent_kept | exact Part.subs hC (by decide) | fail_if_no_progress refine Kept.put ?_

theorem dropStaleKeys_kept (hC : ([.sec] : List Part) ⊆ C) (h : Kept C z s) : Kept C z (dropStaleKeys s) := by
  unfold dropStaleKeys
  repeat' with_reducible first
    | assumption | fail_if_no_progress refine Kept.put ?_

theorem afterApply_kept {old : State} (hC : ([.out, .hostMem, .dev, .scratch, .mem, .store, .sem, .tile, .job, .fab, .rink, .post, .host, .tel, .sec, .pwr] : List Part) ⊆ C) (h : Kept C z s)
    : Kept C z (afterApply old s) := by
  unfold afterApply
  repeat' with_reducible first
    | assumption | apply updTrn_kept | apply spinReload_kept | apply lowerClocks_kept | apply refollow_kept | apply restartLinks_kept
    | apply dropStaleKeys_kept | refine forEach_kept ?_ ?_ | refine Kept.ite ?_ ?_ | exact Part.subs hC (by decide)
    | fail_if_no_progress refine Kept.put ?_ | intro _

theorem goLive_kept (hC : ([.out, .hostMem, .dev, .scratch, .mem, .store, .sem, .tile, .job, .fab, .rink, .post, .host, .cfg, .tel, .sec, .pwr] : List Part) ⊆ C) (h : Kept C z s)
    : Kept C z (goLive s) := by
  unfold goLive
  repeat' with_reducible first
    | assumption | apply clockTick_kept | apply spinSettle_kept | apply afterApply_kept | refine forEach_kept ?_ ?_ | exact Part.subs hC (by decide)
    | fail_if_no_progress refine Kept.put ?_ | intro _

theorem applyNow_kept (hC : ([.out, .hostMem, .dev, .scratch, .mem, .store, .sem, .tile, .job, .fab, .rink, .post, .host, .cfg, .tel, .sec, .pwr] : List Part) ⊆ C) (h : Kept C z s)
    : Kept C z (applyNow s) := by
  unfold applyNow
  repeat' with_reducible first
    | assumption | apply cfgResult_kept | apply goLive_kept | refine Kept.ite ?_ ?_ | exact Part.subs hC (by decide)
    | fail_if_no_progress refine Kept.put ?_ | intro _ | split

theorem applyIfIdle_kept (hC : ([.out, .hostMem, .dev, .scratch, .mem, .store, .sem, .tile, .job, .fab, .rink, .post, .host, .cfg, .tel, .sec, .pwr] : List Part) ⊆ C) (h : Kept C z s)
    : Kept C z (applyIfIdle s) := by
  unfold applyIfIdle
  repeat' with_reducible first
    | assumption | apply applyNow_kept | refine Kept.ite ?_ ?_

theorem stageValue_kept {off : Nat} {v : Word} (hC : ([.cfg] : List Part) ⊆ C) (h : Kept C z s) : Kept C z (stageValue s off v) := by
  unfold stageValue
  repeat' with_reducible first
    | assumption | refine Kept.ite ?_ ?_ | fail_if_no_progress refine Kept.put ?_

theorem discardStaged_kept (hC : ([.cfg] : List Part) ⊆ C) (h : Kept C z s) : Kept C z (discardStaged s) := by
  unfold discardStaged
  repeat' with_reducible first
    | assumption | fail_if_no_progress refine Kept.put ?_

theorem applyStore_kept (hC : ([.out, .hostMem, .dev, .scratch, .mem, .store, .sem, .tile, .job, .fab, .rink, .post, .host, .cfg, .tel, .sec, .pwr] : List Part) ⊆ C) (h : Kept C z s)
    : Kept C z (applyStore s) := by
  unfold applyStore
  repeat' with_reducible first
    | assumption | apply goLive_kept | apply stageValue_kept | apply discardStaged_kept | refine forEach_kept ?_ ?_ | refine Kept.ite ?_ ?_
    | exact Part.subs hC (by decide) | fail_if_no_progress refine Kept.put ?_ | intro _ | split | dsimp only

theorem stWriteEffect_kept {r : Nat} {off : Nat} {v : Word} (hC : ([.out, .host, .cfg] : List Part) ⊆ C) (h : Kept C z s)
    : Kept C z (stWriteEffect r off v s) := by
  unfold stWriteEffect
  repeat' with_reducible first
    | assumption | apply accessErr_kept | apply notReady_kept | apply stageValue_kept | refine Kept.ite ?_ ?_ | exact Part.subs hC (by decide)
    | intro _ | split

theorem cfgCheckEffect_kept {r : Nat} (hC : ([.out, .host, .cfg] : List Part) ⊆ C) (h : Kept C z s) : Kept C z (cfgCheckEffect r s) := by
  unfold cfgCheckEffect
  repeat' with_reducible first
    | assumption | apply accessErr_kept | apply notReady_kept | apply cfgResult_kept | refine Kept.ite ?_ ?_ | exact Part.subs hC (by decide)
    | fail_if_no_progress refine Kept.put ?_

theorem cfgCheckDoneEffect_kept (hC : ([.out, .host, .cfg] : List Part) ⊆ C) (h : Kept C z s) : Kept C z (cfgCheckDoneEffect s) := by
  unfold cfgCheckDoneEffect
  repeat' with_reducible first
    | assumption | apply cfgResult_kept | refine Kept.ite ?_ ?_ | exact Part.subs hC (by decide) | fail_if_no_progress refine Kept.put ?_ | intro _
    | split

theorem cfgApplyEffect_kept {r : Nat} (hC : ([.out, .hostMem, .dev, .scratch, .mem, .store, .sem, .tile, .job, .fab, .rink, .post, .host, .cfg, .tel, .sec, .pwr] : List Part) ⊆ C) (h : Kept C z s)
    : Kept C z (cfgApplyEffect r s) := by
  unfold cfgApplyEffect
  repeat' with_reducible first
    | assumption | apply accessErr_kept | apply notReady_kept | apply cfgResult_kept | apply applyIfIdle_kept | refine Kept.ite ?_ ?_
    | exact Part.subs hC (by decide) | fail_if_no_progress refine Kept.put ?_

theorem cfgDiscardEffect_kept {r : Nat} (hC : ([.out, .host, .cfg] : List Part) ⊆ C) (h : Kept C z s) : Kept C z (cfgDiscardEffect r s) := by
  unfold cfgDiscardEffect
  repeat' with_reducible first
    | assumption | apply accessErr_kept | apply notReady_kept | apply cfgResult_kept | apply discardStaged_kept | refine Kept.ite ?_ ?_
    | exact Part.subs hC (by decide) | fail_if_no_progress refine Kept.put ?_

theorem cfgSaveEffect_kept {r : Nat} (hC : ([.out, .host, .cfg] : List Part) ⊆ C) (h : Kept C z s) : Kept C z (cfgSaveEffect r s) := by
  unfold cfgSaveEffect
  repeat' with_reducible first
    | assumption | apply accessErr_kept | apply notReady_kept | apply cfgResult_kept | refine Kept.ite ?_ ?_ | exact Part.subs hC (by decide)
    | fail_if_no_progress refine Kept.put ?_ | intro _ | split

theorem cfgSaveDoneEffect_kept {ok : Bool} (hC : ([.out, .host, .cfg] : List Part) ⊆ C) (h : Kept C z s) : Kept C z (cfgSaveDoneEffect ok s) := by
  unfold cfgSaveDoneEffect
  repeat' with_reducible first
    | assumption | apply cfgResult_kept | refine Kept.ite ?_ ?_ | exact Part.subs hC (by decide) | fail_if_no_progress refine Kept.put ?_ | intro _
    | split

theorem ploughPark_kept {c : Nat} {mode : Nat} {aborted : Nat} (hC : ([.out, .hostMem, .dev, .scratch, .mem, .store, .sem, .tile, .job, .fab, .rink, .post, .host, .cfg, .tel, .sec, .pwr] : List Part) ⊆ C) (h : Kept C z s)
    : Kept C z (ploughPark s c mode aborted) := by
  unfold ploughPark
  repeat' with_reducible first
    | assumption | apply parkPloughed_kept | apply applyIfIdle_kept | exact Part.subs hC (by decide)

theorem ploughStart_kept {c : Nat} {mode : Plough} {cause : Nat} (hC : ([.out, .hostMem, .dev, .scratch, .mem, .store, .sem, .tile, .job, .fab, .rink, .post, .host, .cfg, .tel, .sec, .pwr] : List Part) ⊆ C) (h : Kept C z s)
    : Kept C z (ploughStart s c mode cause) := by
  unfold ploughStart
  repeat' with_reducible first
    | assumption | apply ploughNow_kept | apply applyIfIdle_kept | exact Part.subs hC (by decide)

theorem ploughFrom_kept {c : Nat} {mode : Plough} {cause : Nat} (hC : ([.out, .hostMem, .dev, .scratch, .mem, .store, .sem, .tile, .job, .fab, .rink, .post, .host, .cfg, .tel, .sec, .pwr] : List Part) ⊆ C) (h : Kept C z s)
    : Kept C z (ploughFrom s c mode cause) := by
  unfold ploughFrom
  repeat' with_reducible first
    | assumption | apply ploughSpread_kept | apply applyIfIdle_kept | exact Part.subs hC (by decide)

theorem goAbsent_kept {x : Nat} {cause : Nat} {b23 : Nat} {port : Option Nat} (hC : ([.out, .hostMem, .dev, .scratch, .mem, .store, .sem, .tile, .job, .fab, .rink, .post, .host, .cfg, .tel, .sec, .pwr] : List Part) ⊆ C) (h : Kept C z s)
    : Kept C z (goAbsent s x cause b23 port) := by
  unfold goAbsent
  repeat' with_reducible first
    | assumption | apply absentNow_kept | apply applyIfIdle_kept | exact Part.subs hC (by decide)

theorem linkLost_kept {port : Nat} {cause : Nat} (hC : ([.out, .hostMem, .dev, .scratch, .mem, .store, .sem, .tile, .job, .fab, .rink, .post, .host, .cfg, .tel, .sec, .pwr] : List Part) ⊆ C) (h : Kept C z s)
    : Kept C z (linkLost s port cause) := by
  unfold linkLost
  repeat' with_reducible first
    | assumption | apply linkGone_kept | apply applyIfIdle_kept | exact Part.subs hC (by decide)

theorem releasePools_kept {c : Nat} (hC : ([.job] : List Part) ⊆ C) (h : Kept C z s) : Kept C z (releasePools s c) := by
  unfold releasePools
  repeat' with_reducible first
    | assumption | refine Kept.ite ?_ ?_ | fail_if_no_progress refine Kept.put ?_

theorem failXfer_kept {ch : Nat} (hC : ([.dev, .mem, .sec] : List Part) ⊆ C) (h : Kept C z s) : Kept C z (failXfer s ch) := by
  unfold failXfer
  repeat' with_reducible first
    | assumption | apply devUndef_kept | exact Part.subs hC (by decide) | fail_if_no_progress refine Kept.put ?_ | intro _ | split

theorem cutXfer_kept {ch : Nat} (hC : ([.dev, .mem, .sec] : List Part) ⊆ C) (h : Kept C z s) : Kept C z (cutXfer s ch) := by
  unfold cutXfer
  repeat' with_reducible first
    | assumption | apply secRefuse_kept | apply failXfer_kept | refine Kept.ite ?_ ?_ | exact Part.subs hC (by decide)
    | fail_if_no_progress refine Kept.put ?_ | intro _ | split

theorem stopDma_kept {c : Nat} (hC : ([.dev, .mem, .host, .sec] : List Part) ⊆ C) (h : Kept C z s) : Kept C z (stopDma s c) := by
  unfold stopDma
  repeat' with_reducible first
    | assumption | apply updChan_kept | apply cutXfer_kept | refine forEach_kept ?_ ?_ | refine Kept.ite ?_ ?_ | exact Part.subs hC (by decide)
    | intro _ | split

theorem releaseTags_kept {c : Nat} (hC : ([.fab] : List Part) ⊆ C) (h : Kept C z s) : Kept C z (releaseTags s c) := by
  unfold releaseTags
  repeat' with_reducible first
    | assumption | fail_if_no_progress refine Kept.put ?_

theorem releaseJob_kept {c : Nat} (hC : ([.dev, .job, .fab, .trw, .rink, .post, .sec] : List Part) ⊆ C) (h : Kept C z s)
    : Kept C z (releaseJob s c) := by
  unfold releaseJob
  repeat' with_reducible first
    | assumption | apply updCtx_kept | apply updTrowel_kept | apply rinkFree_kept | apply releasePools_kept | apply releaseTags_kept
    | refine forEach_kept ?_ ?_ | refine Kept.foldl ?_ ?_ | refine Kept.ite ?_ ?_ | exact Part.subs hC (by decide)
    | fail_if_no_progress refine Kept.put ?_ | intro _

theorem saveVregs_kept {m : Manifest} {t : Nat} (hC : ([.dev, .mem] : List Part) ⊆ C) (h : Kept C z s) : Kept C z (saveVregs s m t) := by
  unfold saveVregs
  repeat' with_reducible first
    | assumption | apply devWrite_kept | exact Part.subs hC (by decide) | intro _ | split

theorem loadVregs_kept {m : Manifest} {t : Nat} (hC : ([.vreg] : List Part) ⊆ C) (h : Kept C z s) : Kept C z (loadVregs s m t) := by
  unfold loadVregs
  repeat' with_reducible first
    | assumption | refine Kept.foldl ?_ ?_ | fail_if_no_progress refine Kept.put ?_ | intro _ | split

theorem writeKeep_kept {m : Manifest} {n : Nat} (hC : ([.store] : List Part) ⊆ C) (h : Kept C z s) : Kept C z (writeKeep s m n) := by
  unfold writeKeep
  repeat' with_reducible first
    | assumption | apply storeWrite_kept | refine forEach_kept ?_ ?_ | exact Part.subs hC (by decide) | intro _ | split

theorem passCourse_kept {c : Nat} {n : Nat} (hC : ([.dev, .mem, .store, .sem, .vreg, .job] : List Part) ⊆ C) (h : Kept C z s)
    : Kept C z (passCourse s c n) := by
  unfold passCourse
  repeat' with_reducible first
    | assumption | apply semInitCourse_kept | apply saveVregs_kept | apply loadVregs_kept | apply writeKeep_kept | refine forEach_kept ?_ ?_
    | refine Kept.ite ?_ ?_ | exact Part.subs hC (by decide) | fail_if_no_progress refine Kept.put ?_ | intro _

end Sys2Proof.Machine
end

