-- ==== Sys2Proof/Laws/KeptJob.lean ====
section
/-! SUPPORT. What the operations of these files keep: JobOps, Errors, Posted, Trail, Boundary. -/

namespace Sys2Proof.Machine

set_option Elab.async false

variable {C : List Part} {z s : State}

theorem admitJob_kept {c : Nat} (hC : ([.dev, .mem, .store, .sem, .vreg, .tile, .job, .pwr] : List Part) ⊆ C) (h : Kept C z s)
    : Kept C z (admitJob s c) := by
  unfold admitJob
  repeat' with_reducible first
    | assumption | apply updCtx_kept | apply undefCourse_kept | apply passCourse_kept | refine forEach_kept ?_ ?_ | refine Kept.ite ?_ ?_
    | exact Part.subs hC (by decide) | fail_if_no_progress refine Kept.put ?_ | intro _

theorem retakeStep_kept {c : Nat} (hC : ([.job] : List Part) ⊆ C) (h : Kept C z s) : Kept C z (retakeStep s c) := by
  unfold retakeStep
  repeat' with_reducible first
    | assumption | apply updCtx_kept

theorem scanOne_kept {p : State × Nat} {c : Nat} (hC : ([.dev, .mem, .store, .sem, .vreg, .tile, .job, .pwr] : List Part) ⊆ C) (h : Kept C z p.1)
    : Kept C z (scanOne p c).1 := by
  unfold scanOne
  repeat' with_reducible first
    | assumption | apply admitJob_kept | apply retakeStep_kept | refine Kept.ite ?_ ?_ | exact Part.subs hC (by decide) | split | dsimp only

theorem scan_kept {l : List Nat} {p : State × Nat} (hC : ([.dev, .mem, .store, .sem, .vreg, .tile, .job, .pwr] : List Part) ⊆ C) (h : Kept C z p.1) : Kept C z (l.foldl scanOne p).1 := by
  induction l generalizing p with
  | nil => exact h
  | cons a t ih => exact ih (scanOne_kept (List.Subset.trans (by decide) hC) h)

theorem schedule_kept (hC : ([.dev, .mem, .store, .sem, .vreg, .tile, .job, .pwr] : List Part) ⊆ C) (h : Kept C z s) : Kept C z (schedule s) := by
  unfold schedule; split
  · exact scan_kept (List.Subset.trans (by decide) hC) h
  · exact h

theorem tearCore_kept {c : Nat} {b4 : Nat} (hC : ([.out, .dev, .scratch, .mem, .store, .sem, .tile, .job, .fab, .trw, .rink, .post, .host, .tel, .sec] : List Part) ⊆ C) (h : Kept C z s)
    : Kept C z (tearCore s c b4) := by
  unfold tearCore
  repeat' with_reducible first
    | assumption | apply undefSems_kept | apply floodJobLost_kept | apply stopJob_kept | apply stopDma_kept | apply releaseJob_kept
    | refine forEach_kept ?_ ?_ | exact Part.subs hC (by decide) | intro _

theorem tornDown_kept {c : Nat} (hC : ([.job, .tel] : List Part) ⊆ C) (h : Kept C z s) : Kept C z (tornDown s c) := by
  unfold tornDown
  repeat' with_reducible first
    | assumption | apply updCtx_kept | apply bump_kept | exact Part.subs hC (by decide)

theorem teardown_kept {c : Nat} {b4 : Nat} {code : Nat} {f : EvF} (hC : ([.out, .hostMem, .dev, .scratch, .mem, .store, .sem, .vreg, .tile, .job, .fab, .trw, .rink, .post, .host, .cfg, .tel, .sec, .pwr] : List Part) ⊆ C) (h : Kept C z s)
    : Kept C z (teardown s c b4 code f) := by
  unfold teardown
  repeat' with_reducible first
    | assumption | apply raiseJob_kept | apply applyIfIdle_kept | apply schedule_kept | apply tearCore_kept | apply tornDown_kept
    | refine Kept.ite ?_ ?_ | exact Part.subs hC (by decide)

theorem faultJob_kept {c : Nat} {code : Nat} {f : EvF} (hC : ([.out, .hostMem, .dev, .scratch, .mem, .store, .sem, .vreg, .tile, .job, .fab, .trw, .rink, .post, .host, .cfg, .tel, .sec, .pwr] : List Part) ⊆ C) (h : Kept C z s)
    : Kept C z (faultJob s c code f) := by
  unfold faultJob
  repeat' with_reducible first
    | assumption | apply teardown_kept

theorem guardFault_kept {c : Nat} {f : EvF} (hC : ([.out, .hostMem, .dev, .scratch, .mem, .store, .sem, .vreg, .tile, .job, .fab, .trw, .rink, .post, .host, .cfg, .tel, .sec, .pwr] : List Part) ⊆ C) (h : Kept C z s)
    : Kept C z (guardFault s c f) := by
  unfold guardFault
  repeat' with_reducible first
    | assumption | apply takeFree_kept | apply faultJob_kept

theorem descFault_kept {c : Nat} {f : EvF} (hC : ([.out, .hostMem, .dev, .scratch, .mem, .store, .sem, .vreg, .tile, .job, .fab, .trw, .rink, .post, .host, .cfg, .tel, .sec, .pwr] : List Part) ⊆ C) (h : Kept C z s)
    : Kept C z (descFault s c f) := by
  unfold descFault
  repeat' with_reducible first
    | assumption | apply faultJob_kept

theorem memFault_kept {c : Nat} {unit : Nat} {inst : Nat} {addr : Nat} (hC : ([.out, .hostMem, .dev, .scratch, .mem, .store, .sem, .vreg, .tile, .job, .fab, .trw, .rink, .post, .host, .cfg, .tel, .sec, .pwr] : List Part) ⊆ C) (h : Kept C z s)
    : Kept C z (memFault s c unit inst addr) := by
  unfold memFault
  repeat' with_reducible first
    | assumption | apply faultJob_kept

theorem remoteTimeout_kept {c : Nat} {cause : Nat} {coords : Nat} (hC : ([.out, .hostMem, .dev, .scratch, .mem, .store, .sem, .vreg, .tile, .job, .fab, .trw, .rink, .post, .host, .cfg, .tel, .sec, .pwr] : List Part) ⊆ C) (h : Kept C z s)
    : Kept C z (remoteTimeout s c cause coords) := by
  unfold remoteTimeout
  repeat' with_reducible first
    | assumption | apply faultJob_kept

theorem semSignal_kept {t : Nat} {i : Nat} {v : Nat} {src : EvF} (hC : ([.out, .hostMem, .dev, .scratch, .mem, .store, .sem, .vreg, .tile, .job, .fab, .trw, .rink, .post, .host, .cfg, .tel, .sec, .pwr] : List Part) ⊆ C) (h : Kept C z s)
    : Kept C z (semSignal s t i v src) := by
  unfold semSignal
  repeat' with_reducible first
    | assumption | apply semPut_kept | apply descFault_kept | refine Kept.ite ?_ ?_ | exact Part.subs hC (by decide) | intro _ | split

theorem logPut_kept {port : Nat} {rec : List Byte} (hC : ([.tel] : List Part) ⊆ C) (h : Kept C z s) : Kept C z (logPut s port rec) := by
  unfold logPut
  repeat' with_reducible first
    | assumption | refine Kept.ite ?_ ?_ | fail_if_no_progress refine Kept.put ?_

theorem logCorrected_kept {port : Nat} {row : Nat} {rec : List Byte} (hC : ([.tel] : List Part) ⊆ C) (h : Kept C z s)
    : Kept C z (logCorrected s port row rec) := by
  unfold logCorrected
  repeat' with_reducible first
    | assumption | apply logPut_kept | refine Kept.ite ?_ ?_ | exact Part.subs hC (by decide) | fail_if_no_progress refine Kept.put ?_

theorem eccEvent_kept {unit : Nat} {inst : Nat} {a : Nat} (hC : ([.out, .hostMem, .host, .tel] : List Part) ⊆ C) (h : Kept C z s)
    : Kept C z (eccEvent s unit inst a) := by
  unfold eccEvent
  repeat' with_reducible first
    | assumption | apply raisePart_kept | refine Kept.ite ?_ ?_ | exact Part.subs hC (by decide) | fail_if_no_progress refine Kept.put ?_

theorem correctedError_kept {k : Nat} {a : Nat} {kind : Nat} {source : Nat} {ctx : Nat} (hC : ([.out, .hostMem, .host, .tel] : List Part) ⊆ C) (h : Kept C z s)
    : Kept C z (correctedError s k a kind source ctx) := by
  unfold correctedError
  repeat' with_reducible first
    | assumption | apply bump_kept | apply logCorrected_kept | apply eccEvent_kept | exact Part.subs hC (by decide)
    | fail_if_no_progress refine Kept.put ?_

theorem uncorrectedError_kept {k : Nat} {a : Nat} {source : Nat} {ctx : Nat} (hC : ([.mem, .tel] : List Part) ⊆ C) (h : Kept C z s)
    : Kept C z (uncorrectedError s k a source ctx) := by
  unfold uncorrectedError
  repeat' with_reducible first
    | assumption | apply bump_kept | apply logPut_kept | refine Kept.ite ?_ ?_ | exact Part.subs hC (by decide)
    | fail_if_no_progress refine Kept.put ?_

theorem befall_kept {us : List Upset} (hC : ([.mem] : List Part) ⊆ C) (h : Kept C z s) : Kept C z (befall s us) := by
  unfold befall
  repeat' with_reducible first
    | assumption | fail_if_no_progress refine Kept.put ?_

theorem meetUpsets_kept {p : Upset → Bool} {f : State → Upset → State} (hC : ([.mem] : List Part) ⊆ C) (h : Kept C z s) (hf : ∀ y0 y1, Kept C z y0 → Kept C z (f y0 y1))
    : Kept C z (meetUpsets s p f) := by
  unfold meetUpsets
  repeat' with_reducible first
    | assumption | apply hf | refine forEach_kept ?_ ?_ | fail_if_no_progress refine Kept.put ?_

theorem meetLines_kept {source : Nat} {ctx : Nat} {p : Nat → Bool} (hC : ([.out, .hostMem, .mem, .host, .tel] : List Part) ⊆ C) (h : Kept C z s)
    : Kept C z (meetLines s source ctx p) := by
  unfold meetLines
  repeat' with_reducible first
    | assumption | apply correctedError_kept | apply uncorrectedError_kept | apply meetUpsets_kept | refine Kept.ite ?_ ?_
    | exact Part.subs hC (by decide) | intro _

theorem meetRanges_kept {source : Nat} {ctx : Nat} {rs : List (Nat × Nat)} (hC : ([.out, .hostMem, .mem, .host, .tel] : List Part) ⊆ C) (h : Kept C z s)
    : Kept C z (meetRanges s source ctx rs) := by
  unfold meetRanges
  repeat' with_reducible first
    | assumption | apply meetLines_kept | refine Kept.ite ?_ ?_

theorem meetParts_kept {source : Nat} {ctx : Nat} {a : Nat} {n : Nat} (hC : ([.out, .hostMem, .mem, .host, .tel] : List Part) ⊆ C) (h : Kept C z s)
    : Kept C z (meetParts s source ctx a n) := by
  unfold meetParts
  repeat' with_reducible first
    | assumption | apply meetLines_kept | refine Kept.ite ?_ ?_

theorem sramError_kept {d : Nat} {cnt : Option Nat} {unit : Nat} {kind : Nat} {inst : Nat} {bank : Nat} {ctx : Nat} {line : Nat} (hC : ([.tel] : List Part) ⊆ C) (h : Kept C z s)
    : Kept C z (sramError s d cnt unit kind inst bank ctx line) := by
  unfold sramError
  repeat' with_reducible first
    | assumption | apply bump_kept | apply logPut_kept | apply logCorrected_kept | refine Kept.ite ?_ ?_ | exact Part.subs hC (by decide)
    | fail_if_no_progress refine Kept.put ?_ | intro _ | split

theorem sramCorrected_kept {d : Nat} {cnt : Option Nat} {unit : Nat} {inst : Nat} {bank : Nat} {line : Nat} {a : Nat} (hC : ([.out, .hostMem, .host, .tel] : List Part) ⊆ C) (h : Kept C z s)
    : Kept C z (sramCorrected s d cnt unit inst bank line a) := by
  unfold sramCorrected
  repeat' with_reducible first
    | assumption | apply eccEvent_kept | apply sramError_kept | exact Part.subs hC (by decide)

theorem meetStore_kept {t : Nat} {l : Nat} {kind : Nat} (hC : ([.out, .hostMem, .dev, .scratch, .mem, .store, .sem, .vreg, .tile, .job, .fab, .trw, .rink, .post, .host, .cfg, .tel, .sec, .pwr] : List Part) ⊆ C) (h : Kept C z s)
    : Kept C z (meetStore s t l kind) := by
  unfold meetStore
  repeat' with_reducible first
    | assumption | apply memFault_kept | apply sramError_kept | apply sramCorrected_kept | refine Kept.ite ?_ ?_ | exact Part.subs hC (by decide)
    | intro _ | split

theorem meetBed_kept {d : Nat} {l : Nat} {kind : Nat} (hC : ([.out, .hostMem, .mem, .host, .tel] : List Part) ⊆ C) (h : Kept C z s)
    : Kept C z (meetBed s d l kind) := by
  unfold meetBed
  repeat' with_reducible first
    | assumption | apply sramCorrected_kept | refine Kept.ite ?_ ?_ | exact Part.subs hC (by decide) | fail_if_no_progress refine Kept.put ?_

theorem meetScratch_kept {c : Nat} {d : Nat} {l : Nat} {kind : Nat} (hC : ([.out, .hostMem, .dev, .scratch, .mem, .store, .sem, .vreg, .tile, .job, .fab, .trw, .rink, .post, .host, .cfg, .tel, .sec, .pwr] : List Part) ⊆ C) (h : Kept C z s)
    : Kept C z (meetScratch s c d l kind) := by
  unfold meetScratch
  repeat' with_reducible first
    | assumption | apply memFault_kept | apply sramError_kept | apply sramCorrected_kept | refine Kept.ite ?_ ?_ | exact Part.subs hC (by decide)

theorem meetStores_kept {ts : List Nat} (hC : ([.out, .hostMem, .dev, .scratch, .mem, .store, .sem, .vreg, .tile, .job, .fab, .trw, .rink, .post, .host, .cfg, .tel, .sec, .pwr] : List Part) ⊆ C) (h : Kept C z s)
    : Kept C z (meetStores s ts) := by
  unfold meetStores
  repeat' with_reducible first
    | assumption | apply meetUpsets_kept | apply meetStore_kept | exact Part.subs hC (by decide) | intro _ | split

theorem meetBeds_kept {d : Nat} {a : Nat} {n : Nat} (hC : ([.out, .hostMem, .mem, .host, .tel] : List Part) ⊆ C) (h : Kept C z s)
    : Kept C z (meetBeds s d a n) := by
  unfold meetBeds
  repeat' with_reducible first
    | assumption | apply meetUpsets_kept | apply meetBed_kept | exact Part.subs hC (by decide) | intro _ | split

theorem meetScratches_kept {c : Nat} {d : Nat} {a : Nat} {n : Nat} (hC : ([.out, .hostMem, .dev, .scratch, .mem, .store, .sem, .vreg, .tile, .job, .fab, .trw, .rink, .post, .host, .cfg, .tel, .sec, .pwr] : List Part) ⊆ C) (h : Kept C z s)
    : Kept C z (meetScratches s c d a n) := by
  unfold meetScratches
  repeat' with_reducible first
    | assumption | apply meetUpsets_kept | apply meetScratch_kept | exact Part.subs hC (by decide) | intro _ | split

theorem meetSrams_kept (hC : ([.out, .hostMem, .mem, .host, .tel] : List Part) ⊆ C) (h : Kept C z s) : Kept C z (meetSrams s) := by
  unfold meetSrams
  repeat' with_reducible first
    | assumption | apply meetUpsets_kept | apply sramError_kept | apply sramCorrected_kept | refine Kept.ite ?_ ?_ | exact Part.subs hC (by decide)
    | intro _ | split

theorem postBurst_kept {c : Nat} {owner : Nat} {vc : Nat} {dst : Nat} {b : Burst} {addr : Nat} {bs : List Byte} {sig : List Byte} (hC : ([.out, .job, .fab, .tel] : List Part) ⊆ C) (h : Kept C z s)
    : Kept C z (postBurst s c owner vc dst b addr bs sig) := by
  unfold postBurst
  repeat' with_reducible first
    | assumption | apply updFab_kept | apply inject_kept | apply takeTag_kept | refine forEach_kept ?_ ?_ | exact Part.subs hC (by decide) | intro _

theorem burstDone_kept {c : Nat} {b : Burst} {late : Bool} (hC : ([.job, .fab] : List Part) ⊆ C) (h : Kept C z s)
    : Kept C z (burstDone s c b late) := by
  unfold burstDone
  repeat' with_reducible first
    | assumption | apply updFab_kept | apply dropTag_kept | exact Part.subs hC (by decide)

theorem pushLate_kept {c : Nat} {r : List Byte} (hC : ([.job] : List Part) ⊆ C) (h : Kept C z s) : Kept C z (pushLate s c r) := by
  unfold pushLate
  repeat' with_reducible first
    | assumption | apply updFab_kept

theorem scalarMeet_kept {c : Nat} (hC : ([.out, .hostMem, .mem, .host, .tel] : List Part) ⊆ C) (h : Kept C z s) : Kept C z (scalarMeet s c) := by
  unfold scalarMeet
  repeat' with_reducible first
    | assumption | apply meetRanges_kept

theorem updSink_kept {c : Nat} {k : Nat} {f : SinkSt → SinkSt} (hC : ([.job] : List Part) ⊆ C) (h : Kept C z s) : Kept C z (updSink s c k f) := by
  unfold updSink
  repeat' with_reducible first
    | assumption | apply updTrn_kept

theorem dropSnap_kept {c : Nat} (hC : ([.job] : List Part) ⊆ C) (h : Kept C z s) : Kept C z (dropSnap s c) := by
  unfold dropSnap
  repeat' with_reducible first
    | assumption | apply updTrn_kept

theorem sinkBad_kept {c : Nat} {k : Nat} {cause : Nat} (hC : ([.out, .hostMem, .job, .host] : List Part) ⊆ C) (h : Kept C z s)
    : Kept C z (sinkBad s c k cause) := by
  unfold sinkBad
  repeat' with_reducible first
    | assumption | apply raiseJob_kept | apply updSink_kept | apply dropSnap_kept | refine Kept.ite ?_ ?_ | exact Part.subs hC (by decide)

theorem takeArea_kept {c : Nat} {k : Nat} {area : List Byte} (hC : ([.out, .hostMem, .job, .host] : List Part) ⊆ C) (h : Kept C z s)
    : Kept C z (takeArea s c k area) := by
  unfold takeArea
  repeat' with_reducible first
    | assumption | apply updSink_kept | apply sinkBad_kept | refine Kept.ite ?_ ?_ | exact Part.subs hC (by decide) | intro _ | split

theorem fwAsk_kept {c : Nat} {dst : Nat} {addr : Nat} {n : Nat} {what : Nat} {cmd : Nat} (hC : ([.out, .job, .fab, .tel] : List Part) ⊆ C) (h : Kept C z s)
    : Kept C z (fwAsk s c dst addr n what cmd) := by
  unfold fwAsk
  repeat' with_reducible first
    | assumption | apply updFab_kept | apply inject_kept | apply takeTag_kept | exact Part.subs hC (by decide)

theorem fwDone_kept {c : Nat} {r : FwRead} (hC : ([.job, .fab] : List Part) ⊆ C) (h : Kept C z s) : Kept C z (fwDone s c r) := by
  unfold fwDone
  repeat' with_reducible first
    | assumption | apply updFab_kept | apply dropTag_kept | refine Kept.ite ?_ ?_ | exact Part.subs hC (by decide)

theorem fwAskArea_kept {c : Nat} {k : Nat} (hC : ([.out, .job, .fab, .tel] : List Part) ⊆ C) (h : Kept C z s) : Kept C z (fwAskArea s c k) := by
  unfold fwAskArea
  repeat' with_reducible first
    | assumption | apply fwAsk_kept | refine Kept.ite ?_ ?_

theorem fwAnswered_kept {c : Nat} {k : Nat} {area : Option (List Byte)} (hC : ([.out, .hostMem, .job, .fab, .host] : List Part) ⊆ C) (h : Kept C z s)
    : Kept C z (fwAnswered s c k area) := by
  unfold fwAnswered
  repeat' with_reducible first
    | assumption | apply sinkBad_kept | apply takeArea_kept | apply fwDone_kept | exact Part.subs hC (by decide) | intro _ | split

theorem fwAskSource_kept {c : Nat} {x : TrwCmd} (hC : ([.out, .job, .fab, .tel] : List Part) ⊆ C) (h : Kept C z s)
    : Kept C z (fwAskSource s c x) := by
  unfold fwAskSource
  repeat' with_reducible first
    | assumption | apply fwAsk_kept | refine Kept.ite ?_ ?_

theorem fwData_kept {c : Nat} {r : FwRead} {off : Nat} {bs : List Byte} (hC : ([.out, .hostMem, .job, .fab, .host, .tel] : List Part) ⊆ C) (h : Kept C z s)
    : Kept C z (fwData s c r off bs) := by
  unfold fwData
  repeat' with_reducible first
    | assumption | apply updTrn_kept | apply updFab_kept | apply fwDone_kept | apply fwAnswered_kept | apply fwAskSource_kept | refine Kept.ite ?_ ?_
    | exact Part.subs hC (by decide) | intro _ | split | dsimp only

theorem fwNak_kept {c : Nat} {r : FwRead} (hC : ([.out, .hostMem, .job, .fab, .host] : List Part) ⊆ C) (h : Kept C z s)
    : Kept C z (fwNak s c r) := by
  unfold fwNak
  repeat' with_reducible first
    | assumption | apply updFab_kept | apply dropTag_kept | apply fwAnswered_kept | refine Kept.ite ?_ ?_ | exact Part.subs hC (by decide)

theorem forgetSinks_kept {c : Nat} (hC : ([.job] : List Part) ⊆ C) (h : Kept C z s) : Kept C z (forgetSinks s c) := by
  unfold forgetSinks
  repeat' with_reducible first
    | assumption | apply updTrn_kept

theorem stagePut_kept {t : State} {r : Region} {bs : List Byte} (hC : ([.dev, .mem] : List Part) ⊆ C) (e : stagePut s r bs = some t) (h : Kept C z s) : Kept C z t := by
  unfold stagePut at e
  dsimp only at e
  split at e
  · cases e
    exact devWrite_kept (List.Subset.trans (by decide) hC) (forEach_kept h fun _ _ hx => devWrite_kept (List.Subset.trans (by decide) hC) hx)
  · cases e

theorem flushStage_kept {c : Nat} {x0 : Nat} (hC : ([.dev, .mem, .job] : List Part) ⊆ C) (h : Kept C z s) : Kept C z (flushStage s c x0) := by
  induction x0 generalizing s c with
  | zero =>
    unfold flushStage
    repeat' with_reducible first
      | assumption
  | succ n ih =>
    unfold flushStage
    repeat' with_reducible first
      | assumption | apply ih | apply updTrn_kept | refine stagePut_kept (Part.subs hC (by decide)) (by assumption) ?_
      | exact Part.subs hC (by decide) | intro _ | split

theorem flushAll_kept {c : Nat} (hC : ([.dev, .mem, .job] : List Part) ⊆ C) (h : Kept C z s) : Kept C z (flushAll s c) := by
  unfold flushAll
  repeat' with_reducible first
    | assumption | apply flushStage_kept

theorem stageRecord_kept {c : Nat} {bs : List Byte} (hC : ([.dev, .mem, .job] : List Part) ⊆ C) (h : Kept C z s)
    : Kept C z (stageRecord s c bs) := by
  unfold stageRecord
  repeat' with_reducible first
    | assumption | apply updTrn_kept | apply flushAll_kept | exact Part.subs hC (by decide)

theorem turnGrads_kept {c : Nat} {todo : List Nat} {x0 : Nat} (hC : ([.dev, .mem, .job] : List Part) ⊆ C) (h : Kept C z s)
    : Kept C z (turnGrads s c todo x0) := by
  induction x0 generalizing s c todo with
  | zero =>
    unfold turnGrads
    repeat' with_reducible first
      | assumption
  | succ n ih =>
    unfold turnGrads
    repeat' with_reducible first
      | assumption | apply ih | apply updTrn_kept | apply stageRecord_kept | refine Kept.ite ?_ ?_ | exact Part.subs hC (by decide) | intro _ | split
      | dsimp only

theorem sinkClosed_kept {c : Nat} {k : Nat} {step : Nat} (hC : ([.job] : List Part) ⊆ C) (h : Kept C z s) : Kept C z (sinkClosed s c k step) := by
  unfold sinkClosed
  repeat' with_reducible first
    | assumption | apply updTrn_kept

theorem sinkWrite_kept {c : Nat} {k : Nat} {bs : List Byte} (hC : ([.out, .hostMem, .job, .fab, .tel] : List Part) ⊆ C) (h : Kept C z s)
    : Kept C z (sinkWrite s c k bs) := by
  unfold sinkWrite
  repeat' with_reducible first
    | assumption | apply postBurst_kept | apply updSink_kept | apply sinkClosed_kept | refine forEach_kept ?_ ?_ | refine Kept.foldl ?_ ?_
    | refine Kept.ite ?_ ?_ | exact Part.subs hC (by decide) | fail_if_no_progress refine Kept.put ?_ | intro _

theorem consumeFor_kept {c : Nat} {k : Nat} {n : Nat} (hC : ([.dev, .mem, .job] : List Part) ⊆ C) (h : Kept C z s)
    : Kept C z (consumeFor s c k n) := by
  unfold consumeFor
  repeat' with_reducible first
    | assumption | apply updTrn_kept | apply devWrite_kept | refine Kept.ite ?_ ?_ | exact Part.subs hC (by decide) | intro _ | split

theorem publish_kept {c : Nat} {k : Nat} (hC : ([.out, .dev, .mem, .job, .fab, .tel] : List Part) ⊆ C) (h : Kept C z s)
    : Kept C z (publish s c k) := by
  unfold publish
  repeat' with_reducible first
    | assumption | apply postBurst_kept | apply updSink_kept | apply consumeFor_kept | refine Kept.ite ?_ ?_ | exact Part.subs hC (by decide)

theorem stagedMeet_kept {c : Nat} (hC : ([.out, .hostMem, .mem, .host, .tel] : List Part) ⊆ C) (h : Kept C z s) : Kept C z (stagedMeet s c) := by
  unfold stagedMeet
  repeat' with_reducible first
    | assumption | apply meetRanges_kept | exact Part.subs hC (by decide) | intro _ | split

theorem moverOne_kept {c budget : Nat} {r : State × Nat} (hC : ([.out, .hostMem, .dev, .scratch, .mem, .store, .sem, .vreg, .tile, .job, .fab, .trw, .rink, .post, .host, .cfg, .tel, .sec, .pwr] : List Part) ⊆ C) (e : moverOne s c budget = some r) (h : Kept C z s) : Kept C z r.1 := by
  unfold moverOne at e
  split at e
  · cases e
  · next k _ =>
    dsimp only at e
    have hs : Kept C z (if k = 0 then stagedMeet s c else s) := Kept.ite (stagedMeet_kept (List.Subset.trans (by decide) hC) h) h
    revert e hs
    generalize (if k = 0 then stagedMeet s c else s) = y
    intro e hs
    split at e
    · cases e
    · split at e
      · cases e; exact memFault_kept (List.Subset.trans (by decide) hC) hs
      · cases e
        exact Kept.ite (publish_kept (List.Subset.trans (by decide) hC) (sinkWrite_kept (List.Subset.trans (by decide) hC) hs)) (consumeFor_kept (List.Subset.trans (by decide) hC) (sinkWrite_kept (List.Subset.trans (by decide) hC) hs))

theorem moverRun_kept {c : Nat} {budget : Nat} {x0 : Nat} (hC : ([.out, .hostMem, .dev, .scratch, .mem, .store, .sem, .vreg, .tile, .job, .fab, .trw, .rink, .post, .host, .cfg, .tel, .sec, .pwr] : List Part) ⊆ C) (h : Kept C z s)
    : Kept C z (moverRun s c budget x0) := by
  induction x0 generalizing s c budget with
  | zero =>
    unfold moverRun
    repeat' with_reducible first
      | assumption
  | succ n ih =>
    unfold moverRun
    repeat' with_reducible first
      | assumption | apply ih | refine moverOne_kept (Part.subs hC (by decide)) (by assumption) ?_ | exact Part.subs hC (by decide) | intro _ | split

theorem putRed_kept {c : Nat} {r : RedSt} (hC : ([.job] : List Part) ⊆ C) (h : Kept C z s) : Kept C z (putRed s c r) := by
  unfold putRed
  repeat' with_reducible first
    | assumption | apply updFab_kept

theorem dropRed_kept {c : Nat} {cls : RedClass} {id : Nat} (hC : ([.job] : List Part) ⊆ C) (h : Kept C z s) : Kept C z (dropRed s c cls id) := by
  unfold dropRed
  repeat' with_reducible first
    | assumption | apply updFab_kept

theorem sendDown_kept {c : Nat} {r : RedSt} {word : Dword} (hC : ([.out, .fab, .tel] : List Part) ⊆ C) (h : Kept C z s)
    : Kept C z (sendDown s c r word) := by
  unfold sendDown
  repeat' with_reducible first
    | assumption | apply inject_kept | refine forEach_kept ?_ ?_ | exact Part.subs hC (by decide) | intro _

theorem tryCombine_kept {c : Nat} {r : RedSt} (hC : ([.out, .job, .fab, .tel] : List Part) ⊆ C) (h : Kept C z s) : Kept C z (tryCombine s c r) := by
  unfold tryCombine
  repeat' with_reducible first
    | assumption | apply inject_kept | apply putRed_kept | apply sendDown_kept | refine Kept.foldl ?_ ?_ | refine Kept.ite ?_ ?_
    | exact Part.subs hC (by decide) | intro _ | split

theorem contribute_kept {c : Nat} {cls : RedClass} {id : Nat} {seq : Nat} {word : Dword} (hC : ([.out, .job, .fab, .tel] : List Part) ⊆ C) (h : Kept C z s)
    : Kept C z (contribute s c cls id seq word) := by
  unfold contribute
  repeat' with_reducible first
    | assumption | apply tryCombine_kept

theorem redDiscard_kept (hC : ([.tel] : List Part) ⊆ C) (h : Kept C z s) : Kept C z (redDiscard s) := by
  unfold redDiscard
  repeat' with_reducible first
    | assumption | apply countDiscard_kept

theorem redHold_kept {c : Nat} {port : Nat} {p : Packet} (hC : ([.job, .tel] : List Part) ⊆ C) (h : Kept C z s) : Kept C z (redHold s c port p) := by
  unfold redHold
  repeat' with_reducible first
    | assumption | apply updFab_kept | apply redDiscard_kept | refine Kept.ite ?_ ?_ | exact Part.subs hC (by decide)

theorem redTake_kept {c : Nat} {port : Nat} {p : Packet} (hC : ([.out, .job, .fab, .tel] : List Part) ⊆ C) (h : Kept C z s)
    : Kept C z (redTake s c port p) := by
  unfold redTake
  repeat' with_reducible first
    | assumption | apply putRed_kept | apply sendDown_kept | apply tryCombine_kept | apply redDiscard_kept | apply redHold_kept
    | refine Kept.ite ?_ ?_ | exact Part.subs hC (by decide) | intro _ | split

theorem redRetry_kept {c : Nat} (hC : ([.out, .job, .fab, .tel] : List Part) ⊆ C) (h : Kept C z s) : Kept C z (redRetry s c) := by
  unfold redRetry
  repeat' with_reducible first
    | assumption | apply updFab_kept | apply redTake_kept | refine forEach_kept ?_ ?_ | exact Part.subs hC (by decide) | intro _

theorem reduce_kept {c : Nat} {cls : RedClass} {id : Nat} {seq : Nat} {word : Dword} (hC : ([.out, .job, .fab, .tel] : List Part) ⊆ C) (h : Kept C z s)
    : Kept C z (reduce s c cls id seq word) := by
  unfold reduce
  repeat' with_reducible first
    | assumption | apply putRed_kept | apply contribute_kept | apply redRetry_kept | refine Kept.ite ?_ ?_ | exact Part.subs hC (by decide)

theorem startDrain_kept {c : Nat} (hC : ([.job] : List Part) ⊆ C) (h : Kept C z s) : Kept C z (startDrain s c) := by
  unfold startDrain
  repeat' with_reducible first
    | assumption | apply updCtx_kept | refine Kept.foldl ?_ ?_ | refine Kept.ite ?_ ?_

theorem putOrphan_kept {o : Orphan} {keep : Bool} (hC : ([.fab] : List Part) ⊆ C) (h : Kept C z s) : Kept C z (putOrphan s o keep) := by
  unfold putOrphan
  repeat' with_reducible first
    | assumption | refine Kept.ite ?_ ?_ | fail_if_no_progress refine Kept.put ?_

theorem orphanDown_kept {o : Orphan} {word : Dword} (hC : ([.out, .fab, .tel] : List Part) ⊆ C) (h : Kept C z s)
    : Kept C z (orphanDown s o word) := by
  unfold orphanDown
  repeat' with_reducible first
    | assumption | apply inject_kept | apply putOrphan_kept | refine forEach_kept ?_ ?_ | exact Part.subs hC (by decide) | intro _

theorem orphanTake_kept {p : Packet} (hC : ([.out, .fab, .tel] : List Part) ⊆ C) (h : Kept C z s) : Kept C z (orphanTake s p) := by
  unfold orphanTake
  repeat' with_reducible first
    | assumption | apply inject_kept | apply redDiscard_kept | apply putOrphan_kept | apply orphanDown_kept | refine Kept.ite ?_ ?_
    | exact Part.subs hC (by decide) | intro _ | split

theorem violate_kept {c : Nat} {f : EvF} (hC : ([.out, .hostMem, .dev, .scratch, .mem, .store, .sem, .vreg, .tile, .job, .fab, .trw, .rink, .post, .host, .cfg, .tel, .sec, .pwr] : List Part) ⊆ C) (h : Kept C z s)
    : Kept C z (violate s c f) := by
  unfold violate
  repeat' with_reducible first
    | assumption | apply updBnd_kept | apply tick_kept | apply faultJob_kept | apply reduce_kept | refine Kept.ite ?_ ?_
    | exact Part.subs hC (by decide) | fail_if_no_progress refine Kept.put ?_

theorem toVerdict_kept {c : Nat} (hC : ([.out, .job, .fab, .tel] : List Part) ⊆ C) (h : Kept C z s) : Kept C z (toVerdict s c) := by
  unfold toVerdict
  repeat' with_reducible first
    | assumption | apply updBnd_kept | apply reduce_kept | refine Kept.ite ?_ ?_ | exact Part.subs hC (by decide)

theorem toTick_kept {c : Nat} (hC : ([.out, .job, .fab, .tel] : List Part) ⊆ C) (h : Kept C z s) : Kept C z (toTick s c) := by
  unfold toTick
  repeat' with_reducible first
    | assumption | apply updBnd_kept | apply tick_kept | apply toVerdict_kept | refine Kept.ite ?_ ?_ | exact Part.subs hC (by decide)

theorem endCheck_kept {c : Nat} {cause : Nat} (hC : ([.out, .job, .fab, .tel] : List Part) ⊆ C) (h : Kept C z s)
    : Kept C z (endCheck s c cause) := by
  unfold endCheck
  repeat' with_reducible first
    | assumption | apply updBnd_kept | apply toTick_kept | exact Part.subs hC (by decide)

theorem postedCheck_kept {c : Nat} (hC : ([.out, .job, .fab, .tel] : List Part) ⊆ C) (h : Kept C z s) : Kept C z (postedCheck s c) := by
  unfold postedCheck
  repeat' with_reducible first
    | assumption | apply updBnd_kept | apply endCheck_kept | refine Kept.ite ?_ ?_ | exact Part.subs hC (by decide)

theorem localCheck_kept {c : Nat} (hC : ([.out, .hostMem, .dev, .scratch, .mem, .store, .sem, .vreg, .tile, .job, .fab, .trw, .rink, .post, .host, .cfg, .tel, .sec, .pwr] : List Part) ⊆ C) (h : Kept C z s)
    : Kept C z (localCheck s c) := by
  unfold localCheck
  repeat' with_reducible first
    | assumption | apply violate_kept | apply postedCheck_kept | exact Part.subs hC (by decide) | intro _ | split

theorem drainEndEffect_kept {c : Nat} (hC : ([.out, .hostMem, .dev, .scratch, .mem, .store, .sem, .vreg, .tile, .job, .fab, .trw, .rink, .post, .host, .cfg, .tel, .sec, .pwr] : List Part) ⊆ C) (h : Kept C z s)
    : Kept C z (drainEndEffect c s) := by
  unfold drainEndEffect
  repeat' with_reducible first
    | assumption | apply localCheck_kept | refine Kept.ite ?_ ?_

theorem boundaryViolationEffect_kept {c : Nat} {t : Nat} (hC : ([.out, .hostMem, .dev, .scratch, .mem, .store, .sem, .vreg, .tile, .job, .fab, .trw, .rink, .post, .host, .cfg, .tel, .sec, .pwr] : List Part) ⊆ C) (h : Kept C z s)
    : Kept C z (boundaryViolationEffect c t s) := by
  unfold boundaryViolationEffect
  repeat' with_reducible first
    | assumption | apply violate_kept | refine Kept.ite ?_ ?_ | exact Part.subs hC (by decide) | intro _ | split

theorem dropUnanswered_kept {c : Nat} (hC : ([.job, .fab] : List Part) ⊆ C) (h : Kept C z s) : Kept C z (dropUnanswered s c) := by
  unfold dropUnanswered
  repeat' with_reducible first
    | assumption | apply updFab_kept | exact Part.subs hC (by decide) | fail_if_no_progress refine Kept.put ?_

theorem postedTimeoutEffect_kept {c : Nat} (hC : ([.out, .hostMem, .job, .fab, .host, .tel] : List Part) ⊆ C) (h : Kept C z s)
    : Kept C z (postedTimeoutEffect c s) := by
  unfold postedTimeoutEffect
  repeat' with_reducible first
    | assumption | apply raiseJob_kept | apply endCheck_kept | apply dropUnanswered_kept | refine Kept.ite ?_ ?_ | exact Part.subs hC (by decide)

theorem postedResume_kept {c : Nat} (hC : ([.out, .job, .fab, .tel] : List Part) ⊆ C) (h : Kept C z s) : Kept C z (postedResume s c) := by
  unfold postedResume
  repeat' with_reducible first
    | assumption | apply postedCheck_kept | refine Kept.ite ?_ ?_

theorem ticksTaken_kept (hC : ([.out, .job, .fab, .tel] : List Part) ⊆ C) (h : Kept C z s) : Kept C z (ticksTaken s) := by
  unfold ticksTaken
  repeat' with_reducible first
    | assumption | apply toVerdict_kept | refine forEach_kept ?_ ?_ | refine Kept.ite ?_ ?_ | exact Part.subs hC (by decide) | intro _

theorem rollupCompleteEffect_kept (hC : ([.out, .job, .fab, .tel] : List Part) ⊆ C) (h : Kept C z s) : Kept C z (rollupCompleteEffect s) := by
  unfold rollupCompleteEffect
  repeat' with_reducible first
    | assumption | apply tick_kept | apply ticksTaken_kept | refine Kept.ite ?_ ?_ | exact Part.subs hC (by decide)
    | fail_if_no_progress refine Kept.put ?_

theorem telFreezeEffect_kept {v : Word} (hC : ([.out, .host, .tel] : List Part) ⊆ C) (h : Kept C z s) : Kept C z (telFreezeEffect v s) := by
  unfold telFreezeEffect
  repeat' with_reducible first
    | assumption | apply notReady_kept | apply tick_kept | refine Kept.ite ?_ ?_ | exact Part.subs hC (by decide)

theorem periodicFreezeTickEffect_kept (hC : ([.tel] : List Part) ⊆ C) (h : Kept C z s) : Kept C z (periodicFreezeTickEffect s) := by
  unfold periodicFreezeTickEffect
  repeat' with_reducible first
    | assumption | apply tick_kept | refine Kept.ite ?_ ?_

theorem boundaryEvent_kept {c : Nat} {outcome : Nat} {next : Nat} {park : Nat} {fail : Nat} (hC : ([.out, .hostMem, .job, .host] : List Part) ⊆ C) (h : Kept C z s)
    : Kept C z (boundaryEvent s c outcome next park fail) := by
  unfold boundaryEvent
  repeat' with_reducible first
    | assumption | apply jobEvent_kept

theorem finishPlough_kept {c : Nat} {aborted : Nat} (hC : ([.out, .hostMem, .job, .host] : List Part) ⊆ C) (h : Kept C z s)
    : Kept C z (finishPlough s c aborted) := by
  unfold finishPlough
  repeat' with_reducible first
    | assumption | apply jobEvent_kept | refine Kept.ite ?_ ?_

theorem failStep_kept {c : Nat} (hC : ([.out, .hostMem, .dev, .scratch, .mem, .store, .sem, .tile, .job, .fab, .rink, .post, .host, .cfg, .tel, .sec, .pwr] : List Part) ⊆ C) (h : Kept C z s)
    : Kept C z (failStep s c) := by
  unfold failStep
  repeat' with_reducible first
    | assumption | apply parked_kept | apply applyIfIdle_kept | apply boundaryEvent_kept | apply finishPlough_kept | refine Kept.ite ?_ ?_
    | exact Part.subs hC (by decide)

theorem action10_kept {c : Nat} {park : Nat} (hC : ([.out, .hostMem, .dev, .scratch, .mem, .store, .sem, .vreg, .tile, .job, .fab, .rink, .post, .host, .cfg, .tel, .sec, .pwr] : List Part) ⊆ C) (h : Kept C z s)
    : Kept C z (action10 s c park) := by
  unfold action10
  repeat' with_reducible first
    | assumption | apply updCtx_kept | apply updBnd_kept | apply takeFree_kept | apply parked_kept | apply applyIfIdle_kept | apply schedule_kept
    | apply boundaryEvent_kept | apply finishPlough_kept | refine Kept.ite ?_ ?_ | exact Part.subs hC (by decide)

theorem toRelease_kept {c : Nat} (hC : ([.out, .job, .fab, .tel] : List Part) ⊆ C) (h : Kept C z s) : Kept C z (toRelease s c) := by
  unfold toRelease
  repeat' with_reducible first
    | assumption | apply updCtx_kept | apply reduce_kept | refine Kept.ite ?_ ?_ | exact Part.subs hC (by decide)

theorem afterClose_kept {c : Nat} (hC : ([.out, .hostMem, .dev, .scratch, .mem, .store, .sem, .tile, .job, .fab, .rink, .post, .host, .cfg, .tel, .sec, .pwr] : List Part) ⊆ C) (h : Kept C z s)
    : Kept C z (afterClose s c) := by
  unfold afterClose
  repeat' with_reducible first
    | assumption | apply updBnd_kept | apply ploughPark_kept | apply toRelease_kept | refine Kept.ite ?_ ?_ | exact Part.subs hC (by decide)

theorem queuePartCmd_kept {c : Nat} {op : Nat} {step : Nat} (hC : ([.job] : List Part) ⊆ C) (h : Kept C z s)
    : Kept C z (queuePartCmd s c op step) := by
  unfold queuePartCmd
  repeat' with_reducible first
    | assumption | apply updTrn_kept

theorem queueExports_kept {c : Nat} (hC : ([.job] : List Part) ⊆ C) (h : Kept C z s) : Kept C z (queueExports s c) := by
  unfold queueExports
  repeat' with_reducible first
    | assumption | apply updTrn_kept | apply queuePartCmd_kept | refine Kept.ite ?_ ?_

theorem closeStep_kept {c : Nat} {skipped : Bool} {n : Nat} (hC : ([.out, .hostMem, .dev, .scratch, .mem, .store, .sem, .tile, .job, .fab, .rink, .post, .host, .cfg, .tel, .sec, .pwr] : List Part) ⊆ C) (h : Kept C z s)
    : Kept C z (closeStep s c skipped n) := by
  unfold closeStep
  repeat' with_reducible first
    | assumption | apply updTrn_kept | apply stageRecord_kept | apply afterClose_kept | apply queueExports_kept | refine Kept.ite ?_ ?_
    | exact Part.subs hC (by decide)

theorem commitStep_kept {s0 : State} {c : Nat} (hC : ([.out, .hostMem, .dev, .scratch, .mem, .store, .sem, .vreg, .tile, .job, .fab, .trw, .rink, .post, .host, .cfg, .tel, .sec, .pwr] : List Part) ⊆ C) (h : Kept C z s0)
    : Kept C z (commitStep s0 c) := by
  unfold commitStep
  repeat' with_reducible first
    | assumption | apply updTrn_kept | apply updBnd_kept | apply raiseJob_kept | apply memFault_kept | apply scalarMeet_kept | apply stageRecord_kept
    | apply toRelease_kept | apply queuePartCmd_kept | apply closeStep_kept | refine Kept.ite ?_ ?_ | exact Part.subs hC (by decide) | intro _
    | split

theorem verdictDone_kept {c : Nat} {word : Dword} (hC : ([.out, .hostMem, .dev, .scratch, .mem, .store, .sem, .vreg, .tile, .job, .fab, .trw, .rink, .post, .host, .cfg, .tel, .sec, .pwr] : List Part) ⊆ C) (h : Kept C z s)
    : Kept C z (verdictDone s c word) := by
  unfold verdictDone
  repeat' with_reducible first
    | assumption | apply updBnd_kept | apply applyNow_kept | apply dropRed_kept | apply redRetry_kept | apply failStep_kept | apply commitStep_kept
    | refine Kept.ite ?_ ?_ | exact Part.subs hC (by decide)

theorem verdictReductionCompleteEffect_kept {c : Nat} (hC : ([.out, .hostMem, .dev, .scratch, .mem, .store, .sem, .vreg, .tile, .job, .fab, .trw, .rink, .post, .host, .cfg, .tel, .sec, .pwr] : List Part) ⊆ C) (h : Kept C z s)
    : Kept C z (verdictReductionCompleteEffect c s) := by
  unfold verdictReductionCompleteEffect
  repeat' with_reducible first
    | assumption | apply verdictDone_kept | refine Kept.ite ?_ ?_ | exact Part.subs hC (by decide) | intro _ | split

theorem sendTriples_kept {c : Nat} (hC : ([.out, .fab, .tel] : List Part) ⊆ C) (h : Kept C z s) : Kept C z (sendTriples s c) := by
  unfold sendTriples
  repeat' with_reducible first
    | assumption | apply inject_kept | refine forEach_kept ?_ ?_ | exact Part.subs hC (by decide) | intro _

theorem takeTriples_kept {c : Nat} {k : Packet} (hC : ([.job] : List Part) ⊆ C) (h : Kept C z s) : Kept C z (takeTriples s c k) := by
  unfold takeTriples
  repeat' with_reducible first
    | assumption | apply updTrn_kept

theorem sweepEndEffect_kept {c : Nat} (hC : ([.out, .hostMem, .dev, .scratch, .mem, .store, .sem, .tile, .job, .fab, .rink, .post, .host, .cfg, .tel, .sec, .pwr] : List Part) ⊆ C) (h : Kept C z s)
    : Kept C z (sweepEndEffect c s) := by
  unfold sweepEndEffect
  repeat' with_reducible first
    | assumption | apply updTrn_kept | apply updBnd_kept | apply closeStep_kept | apply sendTriples_kept | refine Kept.ite ?_ ?_
    | exact Part.subs hC (by decide)

theorem endExchange_kept {s0 : State} {c : Nat} {more : List DigestTriple} {missing : Bool} (hC : ([.out, .hostMem, .dev, .scratch, .mem, .store, .sem, .tile, .job, .fab, .rink, .post, .host, .cfg, .tel, .sec, .pwr] : List Part) ⊆ C) (h : Kept C z s0)
    : Kept C z (endExchange s0 c more missing) := by
  unfold endExchange
  repeat' with_reducible first
    | assumption | apply updTrn_kept | apply updBnd_kept | apply raiseJob_kept | apply closeStep_kept | refine forEach_kept ?_ ?_
    | refine Kept.ite ?_ ?_ | exact Part.subs hC (by decide) | intro _

theorem digestExchangeCompleteEffect_kept {c : Nat} {ts : List DigestTriple} (hC : ([.out, .hostMem, .dev, .scratch, .mem, .store, .sem, .tile, .job, .fab, .rink, .post, .host, .cfg, .tel, .sec, .pwr] : List Part) ⊆ C) (h : Kept C z s)
    : Kept C z (digestExchangeCompleteEffect c ts s) := by
  unfold digestExchangeCompleteEffect
  repeat' with_reducible first
    | assumption | apply endExchange_kept | refine Kept.ite ?_ ?_

theorem digestTriplesTimeoutEffect_kept {c : Nat} (hC : ([.out, .hostMem, .dev, .scratch, .mem, .store, .sem, .vreg, .tile, .job, .fab, .trw, .rink, .post, .host, .cfg, .tel, .sec, .pwr] : List Part) ⊆ C) (h : Kept C z s)
    : Kept C z (digestTriplesTimeoutEffect c s) := by
  unfold digestTriplesTimeoutEffect
  repeat' with_reducible first
    | assumption | apply remoteTimeout_kept | refine Kept.ite ?_ ?_

theorem abortDigestWaitEndEffect_kept {c : Nat} (hC : ([.out, .hostMem, .dev, .scratch, .mem, .store, .sem, .tile, .job, .fab, .rink, .post, .host, .cfg, .tel, .sec, .pwr] : List Part) ⊆ C) (h : Kept C z s)
    : Kept C z (abortDigestWaitEndEffect c s) := by
  unfold abortDigestWaitEndEffect
  repeat' with_reducible first
    | assumption | apply endExchange_kept | refine Kept.ite ?_ ?_

theorem keeperGateOpenEffect_kept {c : Nat} (hC : ([.out, .hostMem, .dev, .scratch, .mem, .store, .sem, .tile, .job, .fab, .rink, .post, .host, .cfg, .tel, .sec, .pwr] : List Part) ⊆ C) (h : Kept C z s)
    : Kept C z (keeperGateOpenEffect c s) := by
  unfold keeperGateOpenEffect
  repeat' with_reducible first
    | assumption | apply afterClose_kept | refine Kept.ite ?_ ?_

theorem stagingRoomEffect_kept {c : Nat} (hC : ([.out, .hostMem, .dev, .scratch, .mem, .store, .sem, .tile, .job, .fab, .rink, .post, .host, .cfg, .tel, .sec, .pwr] : List Part) ⊆ C) (h : Kept C z s)
    : Kept C z (stagingRoomEffect c s) := by
  unfold stagingRoomEffect
  repeat' with_reducible first
    | assumption | apply updTrn_kept | apply flushAll_kept | apply turnGrads_kept | apply afterClose_kept | refine Kept.ite ?_ ?_
    | exact Part.subs hC (by decide)

theorem releaseReductionCompleteEffect_kept {c : Nat} (hC : ([.out, .hostMem, .dev, .scratch, .mem, .store, .sem, .vreg, .tile, .job, .fab, .rink, .post, .host, .cfg, .tel, .sec, .pwr] : List Part) ⊆ C) (h : Kept C z s)
    : Kept C z (releaseReductionCompleteEffect c s) := by
  unfold releaseReductionCompleteEffect
  repeat' with_reducible first
    | assumption | apply dropRed_kept | apply action10_kept | refine Kept.ite ?_ ?_ | exact Part.subs hC (by decide) | intro _ | split

theorem startReductionCompleteEffect_kept {c : Nat} (hC : ([.out, .dev, .mem, .store, .sem, .vreg, .tile, .job, .fab, .tel, .pwr] : List Part) ⊆ C) (h : Kept C z s)
    : Kept C z (startReductionCompleteEffect c s) := by
  unfold startReductionCompleteEffect
  repeat' with_reducible first
    | assumption | apply updCtx_kept | apply schedule_kept | apply dropRed_kept | apply redRetry_kept | refine Kept.ite ?_ ?_
    | exact Part.subs hC (by decide) | intro _ | split

theorem controlReductionTimeoutEffect_kept {c : Nat} {rc : RedClass} {id : Nat} (hC : ([.out, .hostMem, .dev, .scratch, .mem, .store, .sem, .vreg, .tile, .job, .fab, .trw, .rink, .post, .host, .cfg, .tel, .sec, .pwr] : List Part) ⊆ C) (h : Kept C z s)
    : Kept C z (controlReductionTimeoutEffect c rc id s) := by
  unfold controlReductionTimeoutEffect
  repeat' with_reducible first
    | assumption | apply remoteTimeout_kept | refine Kept.ite ?_ ?_ | exact Part.subs hC (by decide) | intro _ | split

end Sys2Proof.Machine
end

