-- ==== Sys2Proof/Laws/KeptTile.lean ====
section
/-! SUPPORT. What the operations of these files keep: Boundary, Flags, Tile, Fabric, Post, Loader, Jobs. -/

namespace Sys2Proof.Machine

set_option Elab.async false

variable {C : List Part} {z s : State}

theorem stepTimeoutEffect_kept {c : Nat} (hC : ([.out, .hostMem, .dev, .scratch, .mem, .store, .sem, .tile, .job, .fab, .rink, .post, .host, .cfg, .tel, .sec, .pwr] : List Part) ⊆ C) (h : Kept C z s)
    : Kept C z (stepTimeoutEffect c s) := by
  unfold stepTimeoutEffect
  repeat' with_reducible first
    | assumption | apply raiseJob_kept | apply ploughFrom_kept | refine Kept.ite ?_ ?_ | exact Part.subs hC (by decide)

theorem ctrlReduceEffect_kept {kind : Nat} {port : Nat} {p : Packet} (hC : ([.out, .job, .fab, .tel] : List Part) ⊆ C) (h : Kept C z s)
    : Kept C z (ctrlReduceEffect kind port p s) := by
  unfold ctrlReduceEffect
  repeat' with_reducible first
    | assumption | apply redDiscard_kept | apply redTake_kept | apply orphanTake_kept | refine Kept.ite ?_ ?_ | exact Part.subs hC (by decide)
    | intro _ | split

theorem countOne_kept {t : Nat} {p : Nat × Nat} (hC : ([.job, .tel] : List Part) ⊆ C) (h : Kept C z s) : Kept C z (countOne t s p) := by
  unfold countOne
  repeat' with_reducible first
    | assumption | apply updFab_kept | refine Kept.ite ?_ ?_ | exact Part.subs hC (by decide) | fail_if_no_progress refine Kept.put ?_ | intro _
    | split

theorem plumbCount_kept {t : Nat} {ps : List (Nat × Nat)} (hC : ([.job, .tel] : List Part) ⊆ C) (h : Kept C z s) : Kept C z (plumbCount s t ps) := by
  unfold plumbCount
  repeat' with_reducible first
    | assumption | apply countOne_kept | refine forEach_kept ?_ ?_ | exact Part.subs hC (by decide) | intro _

theorem spin16_kept {t : Nat} {j : Nat} (hC : ([.tile] : List Part) ⊆ C) (h : Kept C z s) : Kept C z (spin16 s t j).2 := by
  unfold spin16
  repeat' with_reducible first
    | assumption | apply clockTick_kept | apply spinConsume_kept | refine Kept.ite ?_ ?_ | exact Part.subs hC (by decide) | split

theorem spinRow_kept {t : Nat} {rnd : Bool} {first : Nat} {x0 : Nat} (hC : ([.tile] : List Part) ⊆ C) (h : Kept C z s)
    : Kept C z (spinRow s t rnd first x0).2 := by
  induction x0 generalizing s t rnd first with
  | zero =>
    unfold spinRow
    repeat' with_reducible first
      | assumption
  | succ n ih =>
    unfold spinRow
    repeat' with_reducible first
      | assumption | apply ih | apply spin16_kept | refine Kept.ite ?_ ?_ | exact Part.subs hC (by decide) | intro _ | split

theorem convRow_kept {t : Nat} {p : ConvP} {vs : List Word} (hC : ([.tile] : List Part) ⊆ C) (h : Kept C z s) : Kept C z (convRow s t p vs).2 := by
  unfold convRow
  repeat' with_reducible first
    | assumption | apply spinRow_kept

theorem updDesc_kept {t : Nat} {seq : Nat} {f : Desc → Desc} (hC : ([.tile] : List Part) ⊆ C) (h : Kept C z s) : Kept C z (updDesc s t seq f) := by
  unfold updDesc
  repeat' with_reducible first
    | assumption | apply updSeqr_kept

theorem markDone_kept {t : Nat} {seq : Nat} (hC : ([.tile] : List Part) ⊆ C) (h : Kept C z s) : Kept C z (markDone s t seq) := by
  unfold markDone
  repeat' with_reducible first
    | assumption | apply updDesc_kept

theorem failDesc_kept {c : Nat} {t : Nat} {reason : Nat} {d : Desc} (hC : ([.out, .hostMem, .dev, .scratch, .mem, .store, .sem, .vreg, .tile, .job, .fab, .trw, .rink, .post, .host, .cfg, .tel, .sec, .pwr] : List Part) ⊆ C) (h : Kept C z s)
    : Kept C z (failDesc s c t reason d) := by
  unfold failDesc
  repeat' with_reducible first
    | assumption | apply descFault_kept

theorem failGuard_kept {c : Nat} {t : Nat} {cause : Nat} {addr : Nat} {d : Desc} (hC : ([.out, .hostMem, .dev, .scratch, .mem, .store, .sem, .vreg, .tile, .job, .fab, .trw, .rink, .post, .host, .cfg, .tel, .sec, .pwr] : List Part) ⊆ C) (h : Kept C z s)
    : Kept C z (failGuard s c t cause addr d) := by
  unfold failGuard
  repeat' with_reducible first
    | assumption | apply guardFault_kept

theorem failMem_kept {c : Nat} {t : Nat} {addr : Nat} (hC : ([.out, .hostMem, .dev, .scratch, .mem, .store, .sem, .vreg, .tile, .job, .fab, .trw, .rink, .post, .host, .cfg, .tel, .sec, .pwr] : List Part) ⊆ C) (h : Kept C z s)
    : Kept C z (failMem s c t addr) := by
  unfold failMem
  repeat' with_reducible first
    | assumption | apply faultJob_kept

theorem completionSignal_kept {t : Nat} {d : Desc} (hC : ([.out, .hostMem, .dev, .scratch, .mem, .store, .sem, .vreg, .tile, .job, .fab, .trw, .rink, .post, .host, .cfg, .tel, .sec, .pwr] : List Part) ⊆ C) (h : Kept C z s)
    : Kept C z (completionSignal s t d) := by
  unfold completionSignal
  repeat' with_reducible first
    | assumption | apply semSignal_kept | refine Kept.ite ?_ ?_

theorem dmaAsk_kept {t : Nat} {d : Desc} (hC : ([.tile] : List Part) ⊆ C) (h : Kept C z s) : Kept C z (dmaAsk s t d) := by
  unfold dmaAsk
  repeat' with_reducible first
    | assumption | apply updDesc_kept | exact Part.subs hC (by decide) | fail_if_no_progress refine Kept.put ?_

theorem enqueue_kept {t : Nat} {d : Desc} (hC : ([.tile] : List Part) ⊆ C) (h : Kept C z s) : Kept C z (enqueue s t d) := by
  unfold enqueue
  repeat' with_reducible first
    | assumption | apply updSeqr_kept

theorem stampColl_kept {c : Nat} {d : Desc} (hC : ([.job] : List Part) ⊆ C) (h : Kept C z s) : Kept C z (stampColl s c d).2 := by
  unfold stampColl
  repeat' with_reducible first
    | assumption | apply updFab_kept | refine Kept.ite ?_ ?_ | exact Part.subs hC (by decide) | intro _ | split

theorem descriptorIssueEffect_kept {t : Nat} {pc : Nat} {addr : Nat} (hC : ([.out, .hostMem, .dev, .scratch, .mem, .store, .sem, .vreg, .tile, .job, .fab, .trw, .rink, .post, .host, .cfg, .tel, .sec, .pwr] : List Part) ⊆ C) (h : Kept C z s)
    : Kept C z (descriptorIssueEffect t pc addr s) := by
  unfold descriptorIssueEffect
  repeat' with_reducible first
    | assumption | apply updSeqr_kept | apply failDesc_kept | apply enqueue_kept | apply stampColl_kept | refine Kept.ite ?_ ?_
    | exact Part.subs hC (by decide) | fail_if_no_progress refine Kept.put ?_ | intro _ | split | dsimp only

theorem takeWait_kept {t : Nat} {d : Desc} (hC : ([.sem] : List Part) ⊆ C) (h : Kept C z s) : Kept C z (takeWait s t d) := by
  unfold takeWait
  repeat' with_reducible first
    | assumption | apply semPut_kept | refine Kept.ite ?_ ?_

theorem admitHeld_kept {t : Nat} {q : DescQueue} (hC : ([.tile] : List Part) ⊆ C) (h : Kept C z s) : Kept C z (admitHeld s t q) := by
  unfold admitHeld
  repeat' with_reducible first
    | assumption | apply updSeqr_kept | refine Kept.ite ?_ ?_ | exact Part.subs hC (by decide) | intro _ | split | dsimp only

theorem descriptorStartEffect_kept {t : Nat} {q : DescQueue} (hC : ([.out, .hostMem, .dev, .scratch, .mem, .store, .sem, .vreg, .tile, .job, .fab, .trw, .rink, .post, .host, .cfg, .tel, .sec, .pwr] : List Part) ⊆ C) (h : Kept C z s)
    : Kept C z (descriptorStartEffect t q s) := by
  unfold descriptorStartEffect
  repeat' with_reducible first
    | assumption | apply clockTick_kept | apply updDesc_kept | apply failDesc_kept | apply dmaAsk_kept | apply takeWait_kept | apply admitHeld_kept
    | refine Kept.ite ?_ ?_ | exact Part.subs hC (by decide) | intro _ | split | dsimp only

theorem descriptorCompleteEffect_kept {t : Nat} {q : DescQueue} (hC : ([.out, .hostMem, .dev, .scratch, .mem, .store, .sem, .vreg, .tile, .job, .fab, .trw, .rink, .post, .host, .cfg, .tel, .sec, .pwr] : List Part) ⊆ C) (h : Kept C z s)
    : Kept C z (descriptorCompleteEffect t q s) := by
  unfold descriptorCompleteEffect
  repeat' with_reducible first
    | assumption | apply updSeqr_kept | apply completionSignal_kept | refine Kept.ite ?_ ?_ | exact Part.subs hC (by decide) | intro _ | split

theorem heldReady_kept {t : State} {i k c : Nat} {d : Desc} (hC : ([.sem, .tile] : List Part) ⊆ C) (e : heldReady s i k = some (c, d, t)) (h : Kept C z s) : Kept C z t := by
  unfold heldReady at e
  dsimp only at e
  repeat' split at e
  all_goals cases e
  · exact h
  · exact updSeqr_kept (List.Subset.trans (by decide) hC) (takeWait_kept (List.Subset.trans (by decide) hC) h)

theorem holdDone_kept {t : Nat} {d : Desc} (hC : ([.out, .hostMem, .dev, .scratch, .mem, .store, .sem, .vreg, .tile, .job, .fab, .trw, .rink, .post, .host, .cfg, .tel, .sec, .pwr] : List Part) ⊆ C) (h : Kept C z s)
    : Kept C z (holdDone s t d) := by
  unfold holdDone
  repeat' with_reducible first
    | assumption | apply updSeqr_kept | apply completionSignal_kept | exact Part.subs hC (by decide)

theorem semWaitEffect_kept {t : Nat} (hC : ([.out, .hostMem, .dev, .scratch, .mem, .store, .sem, .vreg, .tile, .job, .fab, .trw, .rink, .post, .host, .cfg, .tel, .sec, .pwr] : List Part) ⊆ C) (h : Kept C z s)
    : Kept C z (semWaitEffect t s) := by
  unfold semWaitEffect
  repeat' with_reducible first
    | assumption | apply semPut_kept | refine heldReady_kept (Part.subs hC (by decide)) (by assumption) ?_ | apply holdDone_kept
    | refine Kept.ite ?_ ?_ | exact Part.subs hC (by decide) | intro _ | split

theorem semSignalEffect_kept {t : Nat} (hC : ([.out, .hostMem, .dev, .scratch, .mem, .store, .sem, .vreg, .tile, .job, .fab, .trw, .rink, .post, .host, .cfg, .tel, .sec, .pwr] : List Part) ⊆ C) (h : Kept C z s)
    : Kept C z (semSignalEffect t s) := by
  unfold semSignalEffect
  repeat' with_reducible first
    | assumption | apply semSignal_kept | apply failGuard_kept | refine heldReady_kept (Part.subs hC (by decide)) (by assumption) ?_
    | apply holdDone_kept | refine Kept.ite ?_ ?_ | exact Part.subs hC (by decide) | intro _ | split

theorem semSetEffect_kept {t : Nat} (hC : ([.out, .hostMem, .dev, .scratch, .mem, .store, .sem, .vreg, .tile, .job, .fab, .trw, .rink, .post, .host, .cfg, .tel, .sec, .pwr] : List Part) ⊆ C) (h : Kept C z s)
    : Kept C z (semSetEffect t s) := by
  unfold semSetEffect
  repeat' with_reducible first
    | assumption | apply semPut_kept | apply failGuard_kept | refine heldReady_kept (Part.subs hC (by decide)) (by assumption) ?_
    | apply holdDone_kept | refine Kept.ite ?_ ?_ | exact Part.subs hC (by decide) | intro _ | split

theorem setBar_kept {b : BarSt} (hC : ([.tile] : List Part) ⊆ C) (h : Kept C z s) : Kept C z (setBar s b) := by
  unfold setBar
  repeat' with_reducible first
    | assumption | fail_if_no_progress refine Kept.put ?_

theorem jobBarrierIn_kept {c : Nat} {id : Nat} (hC : ([.out, .job, .fab, .tel] : List Part) ⊆ C) (h : Kept C z s)
    : Kept C z (jobBarrierIn s c id) := by
  unfold jobBarrierIn
  repeat' with_reducible first
    | assumption | apply reduce_kept | exact Part.subs hC (by decide) | intro _ | split

theorem barrierEffect_kept {t : Nat} (hC : ([.out, .hostMem, .dev, .scratch, .mem, .store, .sem, .vreg, .tile, .job, .fab, .trw, .rink, .post, .host, .cfg, .tel, .sec, .pwr] : List Part) ⊆ C) (h : Kept C z s)
    : Kept C z (barrierEffect t s) := by
  unfold barrierEffect
  repeat' with_reducible first
    | assumption | apply failDesc_kept | refine heldReady_kept (Part.subs hC (by decide)) (by assumption) ?_ | apply setBar_kept
    | apply jobBarrierIn_kept | refine Kept.ite ?_ ?_ | exact Part.subs hC (by decide) | intro _ | split | dsimp only

theorem releaseTiles_kept {ts : List Nat} (hC : ([.out, .hostMem, .dev, .scratch, .mem, .store, .sem, .vreg, .tile, .job, .fab, .trw, .rink, .post, .host, .cfg, .tel, .sec, .pwr] : List Part) ⊆ C) (h : Kept C z s)
    : Kept C z (releaseTiles s ts) := by
  unfold releaseTiles
  repeat' with_reducible first
    | assumption | apply holdDone_kept | refine forEach_kept ?_ ?_ | exact Part.subs hC (by decide) | intro _ | split

theorem barrierReleaseEffect_kept {c : Nat} {sc : BarScope} {inst : Nat} {id : Nat} (hC : ([.out, .hostMem, .dev, .scratch, .mem, .store, .sem, .vreg, .tile, .job, .fab, .trw, .rink, .post, .host, .cfg, .tel, .sec, .pwr] : List Part) ⊆ C) (h : Kept C z s)
    : Kept C z (barrierReleaseEffect c sc inst id s) := by
  unfold barrierReleaseEffect
  repeat' with_reducible first
    | assumption | apply dropRed_kept | apply redRetry_kept | apply releaseTiles_kept | refine Kept.ite ?_ ?_ | exact Part.subs hC (by decide)
    | fail_if_no_progress refine Kept.put ?_ | intro _ | split

theorem eventDone_kept {c : Nat} {t : Nat} (hC : ([.out, .hostMem, .dev, .scratch, .mem, .store, .sem, .vreg, .tile, .job, .fab, .trw, .rink, .post, .host, .cfg, .tel, .sec, .pwr] : List Part) ⊆ C) (h : Kept C z s)
    : Kept C z (eventDone s c t) := by
  unfold eventDone
  repeat' with_reducible first
    | assumption | apply updSeqr_kept | apply startDrain_kept | apply holdDone_kept | refine Kept.ite ?_ ?_ | exact Part.subs hC (by decide)
    | intro _ | split

theorem eventEffect_kept {t : Nat} (hC : ([.out, .hostMem, .dev, .scratch, .mem, .store, .sem, .vreg, .tile, .job, .fab, .trw, .rink, .post, .host, .cfg, .tel, .sec, .pwr] : List Part) ⊆ C) (h : Kept C z s)
    : Kept C z (eventEffect t s) := by
  unfold eventEffect
  repeat' with_reducible first
    | assumption | apply updCtx_kept | apply partEntry_kept | apply jobEntry_kept
    | refine heldReady_kept (Part.subs hC (by decide)) (by assumption) ?_ | apply eventDone_kept | refine Kept.ite ?_ ?_
    | exact Part.subs hC (by decide) | intro _ | split

theorem eventAcceptEffect_kept {c : Nat} (hC : ([.out, .hostMem, .dev, .scratch, .mem, .store, .sem, .vreg, .tile, .job, .fab, .trw, .rink, .post, .host, .cfg, .tel, .sec, .pwr] : List Part) ⊆ C) (h : Kept C z s)
    : Kept C z (eventAcceptEffect c s) := by
  unfold eventAcceptEffect
  repeat' with_reducible first
    | assumption | apply updCtx_kept | apply partEntry_kept | apply jobEntry_kept | apply eventDone_kept | refine Kept.ite ?_ ?_
    | exact Part.subs hC (by decide) | intro _ | split

theorem bedCount_kept {d : Nat} {a : Nat} {n : Nat} (hC : ([.tel] : List Part) ⊆ C) (h : Kept C z s) : Kept C z (bedCount s d a n) := by
  unfold bedCount
  repeat' with_reducible first
    | assumption | apply bump_kept

theorem bedRead_kept {d : Nat} {a : Nat} {n : Nat} {stream : Bool} (hC : ([.mem, .tel] : List Part) ⊆ C) (h : Kept C z s)
    : Kept C z (bedRead s d a n stream) := by
  unfold bedRead
  repeat' with_reducible first
    | assumption | apply bedFill_kept | apply bedCount_kept | refine Kept.ite ?_ ?_ | exact Part.subs hC (by decide)

theorem bedWrite_kept {d : Nat} {a : Nat} {bs : List Byte} {stream : Bool} (hC : ([.dev, .mem] : List Part) ⊆ C) (h : Kept C z s)
    : Kept C z (bedWrite s d a bs stream) := by
  unfold bedWrite
  repeat' with_reducible first
    | assumption | apply devWrite_kept | apply bedFill_kept | refine Kept.ite ?_ ?_ | exact Part.subs hC (by decide)

theorem extRead_kept {t : Nat} {f : DmaF} {a : Nat} {n : Nat} (hC : ([.mem, .tel] : List Part) ⊆ C) (h : Kept C z s)
    : Kept C z (extRead s t f a n) := by
  unfold extRead
  repeat' with_reducible first
    | assumption | apply bedRead_kept | refine Kept.ite ?_ ?_

theorem extWrite_kept {c : Nat} {t : Nat} {f : DmaF} {a : Nat} {bs : List Byte} (hC : ([.out, .hostMem, .dev, .scratch, .mem, .host, .tel] : List Part) ⊆ C) (h : Kept C z s)
    : Kept C z (extWrite s c t f a bs) := by
  unfold extWrite
  repeat' with_reducible first
    | assumption | apply meetParts_kept | apply bedWrite_kept | refine Kept.ite ?_ ?_ | exact Part.subs hC (by decide)
    | fail_if_no_progress refine Kept.put ?_

theorem extMeet_kept {c : Nat} {t : Nat} {f : DmaF} {a : Nat} {n : Nat} (hC : ([.out, .hostMem, .dev, .scratch, .mem, .store, .sem, .vreg, .tile, .job, .fab, .trw, .rink, .post, .host, .cfg, .tel, .sec, .pwr] : List Part) ⊆ C) (h : Kept C z s)
    : Kept C z (extMeet s c t f a n) := by
  unfold extMeet
  repeat' with_reducible first
    | assumption | apply meetLines_kept | apply meetBeds_kept | apply meetScratches_kept | refine Kept.ite ?_ ?_ | exact Part.subs hC (by decide)

theorem dmaCopy_kept {c : Nat} {t : Nat} {d : Desc} {f : DmaF} {x0 : List (Nat × Nat)} (hC : ([.out, .hostMem, .dev, .scratch, .mem, .store, .sem, .vreg, .tile, .job, .fab, .trw, .rink, .post, .host, .cfg, .tel, .sec, .pwr] : List Part) ⊆ C) (h : Kept C z s)
    : Kept C z (dmaCopy c t d f s x0) := by
  induction x0 generalizing c t d f s with
  | nil =>
    unfold dmaCopy
    repeat' with_reducible first
      | assumption | apply storeWrite_kept | apply markDone_kept | apply failGuard_kept | apply failMem_kept | apply extRead_kept
      | apply extWrite_kept | apply extMeet_kept | refine Kept.ite ?_ ?_ | exact Part.subs hC (by decide)
  | cons r rest ih =>
    unfold dmaCopy
    repeat' with_reducible first
      | assumption | apply ih | apply storeWrite_kept | apply markDone_kept | apply failGuard_kept | apply failMem_kept | apply extRead_kept
      | apply extWrite_kept | apply extMeet_kept | refine Kept.ite ?_ ?_ | exact Part.subs hC (by decide) | intro _ | split

theorem scatterRows_kept {t : Nat} {rb : Nat} {x0 : List (Nat × Nat)} {x1 : List Byte} (hC : ([.store] : List Part) ⊆ C) (h : Kept C z s)
    : Kept C z (scatterRows t rb s x0 x1) := by
  induction x0 generalizing t rb s x1 with
  | nil =>
    unfold scatterRows
    repeat' with_reducible first
      | assumption
  | cons r rest ih =>
    unfold scatterRows
    repeat' with_reducible first
      | assumption | apply ih | apply storeWrite_kept

theorem dmaDecode_kept {c : Nat} {t : Nat} {d : Desc} {f : DmaF} {total : Nat} {x0 : Nat} {x1 : Nat} {x2 : Nat} {x3 : List Byte} (hC : ([.out, .hostMem, .dev, .scratch, .mem, .store, .sem, .vreg, .tile, .job, .fab, .trw, .rink, .post, .host, .cfg, .tel, .sec, .pwr] : List Part) ⊆ C) (h : Kept C z s)
    : Kept C z (dmaDecode c t d f total s x0 x1 x2 x3) := by
  induction x0 generalizing c t d f total s x1 x2 x3 with
  | zero =>
    unfold dmaDecode
    repeat' with_reducible first
      | assumption | apply faultJob_kept | apply markDone_kept | apply failGuard_kept | apply failMem_kept | apply extRead_kept | apply extMeet_kept
      | apply scatterRows_kept | refine Kept.ite ?_ ?_ | exact Part.subs hC (by decide)
  | succ n ih =>
    unfold dmaDecode
    repeat' with_reducible first
      | assumption | apply ih | apply faultJob_kept | apply markDone_kept | apply failGuard_kept | apply failMem_kept | apply extRead_kept
      | apply extMeet_kept | apply scatterRows_kept | refine Kept.ite ?_ ?_ | exact Part.subs hC (by decide) | intro _ | split | dsimp only

theorem dmaEncode_kept {c : Nat} {t : Nat} {d : Desc} {f : DmaF} {x0 : Nat} {x1 : List (List Byte)} (hC : ([.out, .hostMem, .dev, .scratch, .mem, .store, .sem, .vreg, .tile, .job, .fab, .trw, .rink, .post, .host, .cfg, .tel, .sec, .pwr] : List Part) ⊆ C) (h : Kept C z s)
    : Kept C z (dmaEncode c t d f s x0 x1) := by
  induction x1 generalizing c t d f s x0 with
  | nil =>
    unfold dmaEncode
    repeat' with_reducible first
      | assumption | apply markDone_kept | apply failGuard_kept | apply extWrite_kept | exact Part.subs hC (by decide)
  | cons r rest ih =>
    unfold dmaEncode
    repeat' with_reducible first
      | assumption | apply ih | apply markDone_kept | apply failGuard_kept | apply extWrite_kept | exact Part.subs hC (by decide) | intro _ | split

theorem dmaWork_kept {t : Nat} {i : Nat} (hC : ([.out, .hostMem, .dev, .scratch, .mem, .store, .sem, .vreg, .tile, .job, .fab, .trw, .rink, .post, .host, .cfg, .tel, .sec, .pwr] : List Part) ⊆ C) (h : Kept C z s)
    : Kept C z (dmaWork t i s) := by
  unfold dmaWork
  repeat' with_reducible first
    | assumption | apply dmaCopy_kept | apply dmaDecode_kept | apply dmaEncode_kept | refine Kept.ite ?_ ?_ | exact Part.subs hC (by decide)
    | intro _ | split

theorem jointWork_kept {t : Nat} (hC : ([.out, .hostMem, .dev, .scratch, .mem, .store, .sem, .vreg, .tile, .job, .fab, .trw, .rink, .post, .host, .cfg, .tel, .sec, .pwr] : List Part) ⊆ C) (h : Kept C z s)
    : Kept C z (jointWork t s) := by
  unfold jointWork
  repeat' with_reducible first
    | assumption | apply storeWrite_kept | apply semSignal_kept | apply markDone_kept | apply failGuard_kept | refine forEach_kept ?_ ?_
    | refine Kept.ite ?_ ?_ | exact Part.subs hC (by decide) | intro _ | split

theorem putEnd_kept {t : Nat} {d : Desc} {prog : Nat} (hC : ([.tile] : List Part) ⊆ C) (h : Kept C z s) : Kept C z (putEnd s t d prog) := by
  unfold putEnd
  repeat' with_reducible first
    | assumption | apply updDesc_kept

theorem putRun_kept {c : Nat} {t : Nat} {d : Desc} {x0 : Nat} {x1 : Nat} {x2 : State} (hC : ([.out, .hostMem, .dev, .scratch, .mem, .store, .sem, .vreg, .tile, .job, .fab, .trw, .rink, .post, .host, .cfg, .tel, .sec, .pwr] : List Part) ⊆ C) (h : Kept C z x2)
    : Kept C z (putRun c t d x0 x1 x2) := by
  induction x0 generalizing c t d x1 x2 with
  | zero =>
    unfold putRun
    repeat' with_reducible first
      | assumption | apply meetRanges_kept | apply postBurst_kept | apply failGuard_kept | apply failMem_kept | apply putEnd_kept
      | refine Kept.ite ?_ ?_ | exact Part.subs hC (by decide)
  | succ n ih =>
    unfold putRun
    repeat' with_reducible first
      | assumption | apply ih | apply meetRanges_kept | apply postBurst_kept | apply failGuard_kept | apply failMem_kept | apply putEnd_kept
      | refine Kept.ite ?_ ?_ | exact Part.subs hC (by decide) | intro _ | split | dsimp only

theorem getRun_kept {c : Nat} {t : Nat} {d : Desc} {x0 : Nat} {x1 : Nat} {x2 : State} (hC : ([.out, .tile, .job, .fab, .tel] : List Part) ⊆ C) (h : Kept C z x2)
    : Kept C z (getRun c t d x0 x1 x2) := by
  induction x0 generalizing c t d x1 x2 with
  | zero =>
    unfold getRun
    repeat' with_reducible first
      | assumption | apply updFab_kept | apply inject_kept | apply takeTag_kept | apply updDesc_kept | refine Kept.ite ?_ ?_
      | exact Part.subs hC (by decide)
  | succ n ih =>
    unfold getRun
    repeat' with_reducible first
      | assumption | apply ih | apply updFab_kept | apply inject_kept | apply takeTag_kept | apply updDesc_kept | refine Kept.ite ?_ ?_
      | exact Part.subs hC (by decide)

theorem fabRun_kept {c : Nat} {t : Nat} {d : Desc} (hC : ([.out, .hostMem, .dev, .scratch, .mem, .store, .sem, .vreg, .tile, .job, .fab, .trw, .rink, .post, .host, .cfg, .tel, .sec, .pwr] : List Part) ⊆ C) (h : Kept C z s)
    : Kept C z (fabRun s c t d) := by
  unfold fabRun
  repeat' with_reducible first
    | assumption | apply putRun_kept | apply getRun_kept | refine Kept.ite ?_ ?_ | exact Part.subs hC (by decide)

theorem fabMove_kept {op : Nat} {t : Nat} {i : Nat} (hC : ([.out, .hostMem, .dev, .scratch, .mem, .store, .sem, .vreg, .tile, .job, .fab, .trw, .rink, .post, .host, .cfg, .tel, .sec, .pwr] : List Part) ⊆ C) (h : Kept C z s)
    : Kept C z (fabMove op t i s) := by
  unfold fabMove
  repeat' with_reducible first
    | assumption | apply fabRun_kept | refine Kept.ite ?_ ?_ | exact Part.subs hC (by decide) | intro _ | split

theorem tagGrantEffect_kept {p : TagPool} (hC : ([.out, .hostMem, .dev, .scratch, .mem, .store, .sem, .vreg, .tile, .job, .fab, .trw, .rink, .post, .host, .cfg, .tel, .sec, .pwr] : List Part) ⊆ C) (h : Kept C z s)
    : Kept C z (tagGrantEffect p s) := by
  unfold tagGrantEffect
  repeat' with_reducible first
    | assumption | apply dmaAsk_kept | apply fabRun_kept | refine Kept.ite ?_ ?_ | exact Part.subs hC (by decide) | intro _ | split

theorem putRx_kept {r : RxSt} (hC : ([.fab] : List Part) ⊆ C) (h : Kept C z s) : Kept C z (putRx s r) := by
  unfold putRx
  repeat' with_reducible first
    | assumption | refine Kept.ite ?_ ?_ | fail_if_no_progress refine Kept.put ?_

theorem burstWhole_kept {p : Packet} {c : Nat} {r : RxSt} (hC : ([.out, .hostMem, .dev, .scratch, .mem, .store, .sem, .vreg, .tile, .job, .fab, .trw, .rink, .post, .host, .cfg, .tel, .sec, .pwr] : List Part) ⊆ C) (h : Kept C z s)
    : Kept C z (burstWhole s p c r) := by
  unfold burstWhole
  repeat' with_reducible first
    | assumption | apply semPut_kept | apply inject_kept | apply descFault_kept | refine Kept.ite ?_ ?_ | exact Part.subs hC (by decide) | intro _
    | split

theorem writeEffect_kept {ty : Nat} {p : Packet} {s0 : State} (hC : ([.out, .hostMem, .dev, .scratch, .mem, .store, .sem, .vreg, .tile, .job, .fab, .trw, .rink, .post, .host, .cfg, .tel, .sec, .pwr] : List Part) ⊆ C) (h : Kept C z s0)
    : Kept C z (writeEffect ty p s0) := by
  unfold writeEffect
  repeat' with_reducible first
    | assumption | apply devWrite_kept | apply inject_kept | apply meetParts_kept | apply putRx_kept | apply burstWhole_kept | refine Kept.ite ?_ ?_
    | exact Part.subs hC (by decide) | intro _ | split

theorem readReqEffect_kept {p : Packet} {s0 : State} (hC : ([.out, .hostMem, .mem, .fab, .host, .tel] : List Part) ⊆ C) (h : Kept C z s0)
    : Kept C z (readReqEffect p s0) := by
  unfold readReqEffect
  repeat' with_reducible first
    | assumption | apply inject_kept | apply meetRanges_kept | refine forEach_kept ?_ ?_ | refine Kept.ite ?_ ?_ | exact Part.subs hC (by decide)
    | intro _ | split | dsimp only

theorem sinkAnswered_kept {c : Nat} {b : Burst} {late : Bool} (hC : ([.out, .dev, .mem, .job, .fab, .tel] : List Part) ⊆ C) (h : Kept C z s)
    : Kept C z (sinkAnswered s c b late) := by
  unfold sinkAnswered
  repeat' with_reducible first
    | assumption | apply updSink_kept | apply sinkClosed_kept | apply publish_kept | refine Kept.ite ?_ ?_ | exact Part.subs hC (by decide)

theorem putResume_kept {c : Nat} {b : Burst} (hC : ([.out, .hostMem, .dev, .scratch, .mem, .store, .sem, .vreg, .tile, .job, .fab, .trw, .rink, .post, .host, .cfg, .tel, .sec, .pwr] : List Part) ⊆ C) (h : Kept C z s)
    : Kept C z (putResume s c b) := by
  unfold putResume
  repeat' with_reducible first
    | assumption | apply fabRun_kept | refine Kept.ite ?_ ?_ | exact Part.subs hC (by decide) | intro _ | split

theorem answered_kept {c : Nat} {b : Burst} {late : Bool} (hC : ([.out, .hostMem, .dev, .scratch, .mem, .store, .sem, .vreg, .tile, .job, .fab, .trw, .rink, .post, .host, .cfg, .tel, .sec, .pwr] : List Part) ⊆ C) (h : Kept C z s)
    : Kept C z (answered s c b late) := by
  unfold answered
  repeat' with_reducible first
    | assumption | apply burstDone_kept | apply postedResume_kept | apply sinkAnswered_kept | apply putResume_kept | refine Kept.ite ?_ ?_
    | exact Part.subs hC (by decide)

theorem ackEffect_kept {p : Packet} (hC : ([.out, .hostMem, .dev, .scratch, .mem, .store, .sem, .vreg, .tile, .job, .fab, .trw, .rink, .post, .host, .cfg, .tel, .sec, .pwr] : List Part) ⊆ C) (h : Kept C z s)
    : Kept C z (ackEffect p s) := by
  unfold ackEffect
  repeat' with_reducible first
    | assumption | apply answered_kept | exact Part.subs hC (by decide) | intro _ | split

theorem lateWriteEffect_kept {p : Packet} (hC : ([.out, .hostMem, .dev, .scratch, .mem, .store, .sem, .vreg, .tile, .job, .fab, .trw, .rink, .post, .host, .cfg, .tel, .sec, .pwr] : List Part) ⊆ C) (h : Kept C z s)
    : Kept C z (lateWriteEffect p s) := by
  unfold lateWriteEffect
  repeat' with_reducible first
    | assumption | apply pushLate_kept | apply answered_kept | exact Part.subs hC (by decide) | intro _ | split

theorem getEnd_kept {c : Nat} {g : GetReq} (hC : ([.tile] : List Part) ⊆ C) (h : Kept C z s) : Kept C z (getEnd s c g) := by
  unfold getEnd
  repeat' with_reducible first
    | assumption | apply updDesc_kept | refine Kept.ite ?_ ?_

theorem readDataEffect_kept {p : Packet} (hC : ([.out, .hostMem, .dev, .scratch, .mem, .store, .sem, .vreg, .tile, .job, .fab, .trw, .rink, .post, .host, .cfg, .tel, .sec, .pwr] : List Part) ⊆ C) (h : Kept C z s)
    : Kept C z (readDataEffect p s) := by
  unfold readDataEffect
  repeat' with_reducible first
    | assumption | apply updFab_kept | apply devWrite_kept | apply storeWrite_kept | apply dropTag_kept | apply guardFault_kept | apply fwData_kept
    | apply getEnd_kept | refine Kept.ite ?_ ?_ | exact Part.subs hC (by decide) | intro _ | split | dsimp only

theorem readNakEffect_kept {p : Packet} (hC : ([.out, .hostMem, .dev, .scratch, .mem, .store, .sem, .vreg, .tile, .job, .fab, .trw, .rink, .post, .host, .cfg, .tel, .sec, .pwr] : List Part) ⊆ C) (h : Kept C z s)
    : Kept C z (readNakEffect p s) := by
  unfold readNakEffect
  repeat' with_reducible first
    | assumption | apply faultJob_kept | apply fwNak_kept | exact Part.subs hC (by decide) | intro _ | split

theorem getTimeoutEffect_kept {c : Nat} {tag : Nat} (hC : ([.out, .hostMem, .dev, .scratch, .mem, .store, .sem, .vreg, .tile, .job, .fab, .trw, .rink, .post, .host, .cfg, .tel, .sec, .pwr] : List Part) ⊆ C) (h : Kept C z s)
    : Kept C z (getTimeoutEffect c tag s) := by
  unfold getTimeoutEffect
  repeat' with_reducible first
    | assumption | apply remoteTimeout_kept | exact Part.subs hC (by decide) | intro _ | split

theorem cSend_kept {c : Nat} {e : List Byte} {i : CollInst} {p : Nat} {ks : List Nat} {off : Nat} {n : Nat} {bs : List Byte} (hC : ([.out, .fab, .tel] : List Part) ⊆ C) (h : Kept C z s)
    : Kept C z (cSend s c e i p ks off n bs) := by
  unfold cSend
  repeat' with_reducible first
    | assumption | apply inject_kept

theorem cCopyOn_kept {c : Nat} {e : List Byte} {i : CollInst} {own : List Nat} {ks : List Nat} {off : Nat} {n : Nat} {inc : Bool} {p : Nat} (hC : ([.out, .fab, .tel] : List Part) ⊆ C) (h : Kept C z s)
    : Kept C z (cCopyOn s c e i own ks off n inc p) := by
  unfold cCopyOn
  repeat' with_reducible first
    | assumption | apply cSend_kept | refine Kept.ite ?_ ?_

theorem cEnter_kept {c : Nat} {e : List Byte} {i : CollInst} {own : List Nat} {ks : List Nat} {off : Nat} {n : Nat} {inc : Bool} {ps : List Nat} (hC : ([.out, .fab, .tel] : List Part) ⊆ C) (h : Kept C z s)
    : Kept C z (cEnter s c e i own ks off n inc ps) := by
  unfold cEnter
  repeat' with_reducible first
    | assumption | apply cSend_kept | apply cCopyOn_kept | refine forEach_kept ?_ ?_ | refine Kept.ite ?_ ?_ | exact Part.subs hC (by decide)
    | intro _ | split

theorem cCount_kept {c : Nat} {e : List Byte} {n : Nat} (hC : ([.job, .tel] : List Part) ⊆ C) (h : Kept C z s) : Kept C z (cCount s c e n) := by
  unfold cCount
  repeat' with_reducible first
    | assumption | apply updFab_kept | apply bump_kept | refine Kept.ite ?_ ?_ | exact Part.subs hC (by decide)

theorem putInst_kept {c : Nat} {i : CollInst} (hC : ([.job] : List Part) ⊆ C) (h : Kept C z s) : Kept C z (putInst s c i) := by
  unfold putInst
  repeat' with_reducible first
    | assumption | apply updFab_kept

theorem cEnd_kept {c : Nat} {e : List Byte} {i : CollInst} (hC : ([.dev, .mem, .tile, .job] : List Part) ⊆ C) (h : Kept C z s)
    : Kept C z (cEnd s c e i) := by
  unfold cEnd
  repeat' with_reducible first
    | assumption | apply updFab_kept | apply devWrite_kept | apply markDone_kept | apply putInst_kept | refine Kept.ite ?_ ?_
    | exact Part.subs hC (by decide)

theorem cReceive_kept {c : Nat} {e : List Byte} {i : CollInst} {p : Nat} {off : Nat} {bs : List Byte} (hC : ([.out, .dev, .mem, .tile, .job, .fab, .tel] : List Part) ⊆ C) (h : Kept C z s)
    : Kept C z (cReceive s c e i p off bs) := by
  unfold cReceive
  repeat' with_reducible first
    | assumption | apply cSend_kept | apply cCopyOn_kept | apply cEnter_kept | apply cCount_kept | apply cEnd_kept | refine forEach_kept ?_ ?_
    | refine Kept.ite ?_ ?_ | exact Part.subs hC (by decide) | intro _

theorem cHold_kept {c : Nat} {x : Nat × Nat × Packet} (hC : ([.job] : List Part) ⊆ C) (h : Kept C z s) : Kept C z (cHold s c x) := by
  unfold cHold
  repeat' with_reducible first
    | assumption | apply updFab_kept

theorem collTake_kept {c : Nat} {p : Nat} {off : Nat} {k : Packet} (hC : ([.out, .hostMem, .dev, .scratch, .mem, .store, .sem, .vreg, .tile, .job, .fab, .trw, .rink, .post, .host, .cfg, .tel, .sec, .pwr] : List Part) ⊆ C) (h : Kept C z s)
    : Kept C z (collTake s c p off k) := by
  unfold collTake
  repeat' with_reducible first
    | assumption | apply faultJob_kept | apply takeTriples_kept | apply cReceive_kept | apply cHold_kept | refine Kept.ite ?_ ?_
    | exact Part.subs hC (by decide) | intro _ | split

theorem collRetry_kept {c : Nat} {x0 : Nat} (hC : ([.out, .hostMem, .dev, .scratch, .mem, .store, .sem, .vreg, .tile, .job, .fab, .trw, .rink, .post, .host, .cfg, .tel, .sec, .pwr] : List Part) ⊆ C) (h : Kept C z s)
    : Kept C z (collRetry s c x0) := by
  induction x0 generalizing s c with
  | zero =>
    unfold collRetry
    repeat' with_reducible first
      | assumption
  | succ n ih =>
    unfold collRetry
    repeat' with_reducible first
      | assumption | apply ih | apply updFab_kept | apply collTake_kept | refine forEach_kept ?_ ?_ | refine Kept.ite ?_ ?_
      | exact Part.subs hC (by decide) | intro _

theorem collSettle_kept {c : Nat} (hC : ([.out, .hostMem, .dev, .scratch, .mem, .store, .sem, .vreg, .tile, .job, .fab, .trw, .rink, .post, .host, .cfg, .tel, .sec, .pwr] : List Part) ⊆ C) (h : Kept C z s)
    : Kept C z (collSettle s c) := by
  unfold collSettle
  repeat' with_reducible first
    | assumption | apply collRetry_kept

theorem collEffect_kept {k : Packet} {axis : Nat} {off : Nat} (hC : ([.out, .hostMem, .dev, .scratch, .mem, .store, .sem, .vreg, .tile, .job, .fab, .trw, .rink, .post, .host, .cfg, .tel, .sec, .pwr] : List Part) ⊆ C) (h : Kept C z s)
    : Kept C z (collEffect k axis off s) := by
  unfold collEffect
  repeat' with_reducible first
    | assumption | apply collTake_kept | apply collSettle_kept | refine Kept.ite ?_ ?_ | exact Part.subs hC (by decide) | intro _ | split

theorem cLaunch_kept {c : Nat} {e : List Byte} {i : CollInst} {src : List Byte} (hC : ([.out, .fab, .tel] : List Part) ⊆ C) (h : Kept C z s)
    : Kept C z (cLaunch s c e i src) := by
  unfold cLaunch
  repeat' with_reducible first
    | assumption | apply cSend_kept | apply cCopyOn_kept | apply cEnter_kept | refine forEach_kept ?_ ?_ | refine Kept.ite ?_ ?_
    | exact Part.subs hC (by decide) | intro _

theorem fabCollectiveEffect_kept {t : Nat} {i : Nat} (hC : ([.out, .hostMem, .dev, .scratch, .mem, .store, .sem, .vreg, .tile, .job, .fab, .trw, .rink, .post, .host, .cfg, .tel, .sec, .pwr] : List Part) ⊆ C) (h : Kept C z s)
    : Kept C z (fabCollectiveEffect t i s) := by
  unfold fabCollectiveEffect
  repeat' with_reducible first
    | assumption | apply updFab_kept | apply meetRanges_kept | apply failGuard_kept | apply failMem_kept | apply collSettle_kept | apply cLaunch_kept
    | refine Kept.ite ?_ ?_ | exact Part.subs hC (by decide) | intro _ | split | dsimp only

theorem collectiveTimeoutEffect_kept {c : Nat} {id : Nat} {step : Nat} (hC : ([.out, .hostMem, .dev, .scratch, .mem, .store, .sem, .vreg, .tile, .job, .fab, .trw, .rink, .post, .host, .cfg, .tel, .sec, .pwr] : List Part) ⊆ C) (h : Kept C z s)
    : Kept C z (collectiveTimeoutEffect c id step s) := by
  unfold collectiveTimeoutEffect
  repeat' with_reducible first
    | assumption | apply remoteTimeout_kept | refine Kept.ite ?_ ?_

theorem unlessReset_kept {t : State} (hC : ([.tel] : List Part) ⊆ C) (h : Kept C z s) (ht : Kept C z t) : Kept C z (unlessReset s t) := by
  unfold unlessReset; exact Kept.ite (countDiscard_kept (List.Subset.trans (by decide) hC) h) ht

theorem absentNoticeEffect_kept {port : Nat} {p : Packet} (hC : ([.out, .hostMem, .dev, .scratch, .mem, .store, .sem, .tile, .job, .fab, .rink, .post, .host, .cfg, .tel, .sec, .pwr] : List Part) ⊆ C) (h : Kept C z s)
    : Kept C z (absentNoticeEffect port p s) := by
  unfold absentNoticeEffect
  repeat' with_reducible first
    | assumption | apply goAbsent_kept | refine Kept.ite ?_ ?_

theorem presentNoticeEffect_kept {port : Nat} {p : Packet} (hC : ([.out, .fab, .tel] : List Part) ⊆ C) (h : Kept C z s)
    : Kept C z (presentNoticeEffect port p s) := by
  unfold presentNoticeEffect
  repeat' with_reducible first
    | assumption | apply goPresent_kept | refine Kept.ite ?_ ?_

theorem jobLostNoticeEffect_kept {port : Nat} {p : Packet} (hC : ([.out, .hostMem, .dev, .scratch, .mem, .store, .sem, .tile, .job, .fab, .rink, .post, .host, .cfg, .tel, .sec, .pwr] : List Part) ⊆ C) (h : Kept C z s)
    : Kept C z (jobLostNoticeEffect port p s) := by
  unfold jobLostNoticeEffect
  repeat' with_reducible first
    | assumption | apply flood_kept | apply addKey_kept | apply ploughFrom_kept | refine Kept.ite ?_ ?_ | exact Part.subs hC (by decide) | intro _
    | split | dsimp only

theorem ploughNoticeEffect_kept {port : Nat} {p : Packet} (hC : ([.out, .hostMem, .dev, .scratch, .mem, .store, .sem, .tile, .job, .fab, .rink, .post, .host, .cfg, .tel, .sec, .pwr] : List Part) ⊆ C) (h : Kept C z s)
    : Kept C z (ploughNoticeEffect port p s) := by
  unfold ploughNoticeEffect
  repeat' with_reducible first
    | assumption | apply flood_kept | apply addKey_kept | apply ploughStart_kept | refine Kept.ite ?_ ?_ | exact Part.subs hC (by decide) | intro _
    | split | dsimp only

theorem postGuard_kept {d : Nat} {c : Nat} {slot : Nat} {cause : Nat} {a : Nat} (hC : ([.out, .hostMem, .dev, .scratch, .mem, .store, .sem, .vreg, .tile, .job, .fab, .trw, .rink, .post, .host, .cfg, .tel, .sec, .pwr] : List Part) ⊆ C) (h : Kept C z s)
    : Kept C z (postGuard s d c slot cause a) := by
  unfold postGuard
  repeat' with_reducible first
    | assumption | apply guardFault_kept

theorem postStart_kept {d : Nat} {x : PostRun} (hC : ([.post] : List Part) ⊆ C) (h : Kept C z s) : Kept C z (postStart s d x) := by
  unfold postStart
  repeat' with_reducible first
    | assumption | fail_if_no_progress refine Kept.put ?_

theorem postAdmit_kept {s0 : State} {d : Nat} {c : Nat} {slot : Nat} {w : List Word} (hC : ([.out, .hostMem, .dev, .scratch, .mem, .store, .sem, .vreg, .tile, .job, .fab, .trw, .rink, .post, .host, .cfg, .tel, .sec, .pwr] : List Part) ⊆ C) (h : Kept C z s0)
    : Kept C z (postAdmit s0 d c slot w) := by
  unfold postAdmit
  repeat' with_reducible first
    | assumption | apply memFault_kept | apply meetRanges_kept | apply postGuard_kept | apply postStart_kept | refine Kept.ite ?_ ?_
    | exact Part.subs hC (by decide) | intro _ | split

theorem postTake_kept {s0 : State} {d : Nat} {c : Nat} (hC : ([.out, .hostMem, .dev, .scratch, .mem, .store, .sem, .vreg, .tile, .job, .fab, .trw, .rink, .post, .host, .cfg, .tel, .sec, .pwr] : List Part) ⊆ C) (h : Kept C z s0)
    : Kept C z (postTake s0 d c) := by
  unfold postTake
  repeat' with_reducible first
    | assumption | apply memFault_kept | apply meetRanges_kept | apply postAdmit_kept | exact Part.subs hC (by decide) | intro _ | split | dsimp only

theorem postRingPollEffect_kept {d : Nat} (hC : ([.out, .hostMem, .dev, .scratch, .mem, .store, .sem, .vreg, .tile, .job, .fab, .trw, .rink, .post, .host, .cfg, .tel, .sec, .pwr] : List Part) ⊆ C) (h : Kept C z s)
    : Kept C z (postRingPollEffect d s) := by
  unfold postRingPollEffect
  repeat' with_reducible first
    | assumption | apply postGuard_kept | apply postTake_kept | refine Kept.ite ?_ ?_ | exact Part.subs hC (by decide) | intro _ | split | dsimp only

theorem postRunOp_kept {d : Nat} {op : Nat} {box : List Word → List Byte → Nat → Option Box} (hC : ([.post] : List Part) ⊆ C) (h : Kept C z s)
    : Kept C z (postRunOp s d op box) := by
  unfold postRunOp
  repeat' with_reducible first
    | assumption | refine Kept.ite ?_ ?_ | fail_if_no_progress refine Kept.put ?_ | intro _ | split

theorem decodeAndNmsEffect_kept {d : Nat} (hC : ([.post] : List Part) ⊆ C) (h : Kept C z s) : Kept C z (decodeAndNmsEffect d s) := by
  unfold decodeAndNmsEffect
  repeat' with_reducible first
    | assumption | apply postRunOp_kept

theorem nmsEffect_kept {d : Nat} (hC : ([.post] : List Part) ⊆ C) (h : Kept C z s) : Kept C z (nmsEffect d s) := by
  unfold nmsEffect
  repeat' with_reducible first
    | assumption | apply postRunOp_kept

theorem postSignal_kept {d : Nat} {r : PostRun} (hC : ([.out, .hostMem, .dev, .scratch, .mem, .store, .sem, .vreg, .tile, .job, .fab, .trw, .rink, .post, .host, .cfg, .tel, .sec, .pwr] : List Part) ⊆ C) (h : Kept C z s)
    : Kept C z (postSignal s d r) := by
  unfold postSignal
  repeat' with_reducible first
    | assumption | apply semSignal_kept | apply postGuard_kept | refine Kept.ite ?_ ?_

theorem postCommandCompleteEffect_kept {d : Nat} (hC : ([.out, .hostMem, .dev, .scratch, .mem, .store, .sem, .vreg, .tile, .job, .fab, .trw, .rink, .post, .host, .cfg, .tel, .sec, .pwr] : List Part) ⊆ C) (h : Kept C z s)
    : Kept C z (postCommandCompleteEffect d s) := by
  unfold postCommandCompleteEffect
  repeat' with_reducible first
    | assumption | apply bump_kept | apply devWrite_kept | apply postGuard_kept | apply postSignal_kept | exact Part.subs hC (by decide)
    | fail_if_no_progress refine Kept.put ?_ | intro _ | split | dsimp only

theorem loadCourse_kept {c : Nat} {n : Nat} (hC : ([.dev, .mem, .store, .sem, .vreg, .job] : List Part) ⊆ C) (h : Kept C z s)
    : Kept C z (loadCourse s c n) := by
  unfold loadCourse
  repeat' with_reducible first
    | assumption | apply devWrite_kept | apply zeroVregs_kept | apply semInitCourse_kept | apply saveVregs_kept | apply writeKeep_kept
    | refine forEach_kept ?_ ?_ | refine Kept.ite ?_ ?_ | exact Part.subs hC (by decide) | fail_if_no_progress refine Kept.put ?_ | intro _ | split

theorem initStaging_kept {m : Manifest} (hC : ([.dev, .mem] : List Part) ⊆ C) (h : Kept C z s) : Kept C z (initStaging s m) := by
  unfold initStaging
  repeat' with_reducible first
    | assumption | apply devWrite_kept | exact Part.subs hC (by decide) | intro _ | split

theorem makeLive_kept {c : Nat} {img : List Byte} (hC : ([.dev, .scratch, .mem, .store, .sem, .vreg, .job, .rink, .post, .tel] : List Part) ⊆ C) (h : Kept C z s)
    : Kept C z (makeLive s c img) := by
  unfold makeLive
  repeat' with_reducible first
    | assumption | apply updCtx_kept | apply bedTrim_kept | apply undefScratch_kept | apply giveEntries_kept | apply loadCourse_kept
    | apply initStaging_kept | refine forEach_kept ?_ ?_ | refine Kept.foldl ?_ ?_ | refine Kept.ite ?_ ?_ | exact Part.subs hC (by decide)
    | fail_if_no_progress refine Kept.put ?_ | intro _

theorem jobResult_kept {c : Nat} {code : Nat} {index : Nat} (hC : ([.out, .job, .host] : List Part) ⊆ C) (h : Kept C z s)
    : Kept C z (jobResult s c code index) := by
  unfold jobResult
  repeat' with_reducible first
    | assumption | apply blockEvent_kept | exact Part.subs hC (by decide) | fail_if_no_progress refine Kept.put ?_

theorem jobCommand_kept {c : Nat} {f : State → State} (hC : ([.out, .job, .host] : List Part) ⊆ C) (h : Kept C z s) (hf : ∀ y0, Kept C z y0 → Kept C z (f y0))
    : Kept C z (jobCommand s c f) := by
  unfold jobCommand
  repeat' with_reducible first
    | assumption | apply hf | apply notReady_kept | apply jobResult_kept | refine Kept.ite ?_ ?_ | exact Part.subs hC (by decide)

end Sys2Proof.Machine
end

