-- ==== Sys2Proof/Laws/KeptPart.lean ====
section
/-! SUPPORT. What the operations of these files keep: Jobs, Links, Reset, Power, Security. -/

namespace Sys2Proof.Machine

set_option Elab.async false

variable {C : List Part} {z s : State}

theorem jobLoadEffect_kept {r : Nat} (hC : ([.out, .job, .host] : List Part) ⊆ C) (h : Kept C z s) : Kept C z (jobLoadEffect r s) := by
  unfold jobLoadEffect
  repeat' with_reducible first
    | assumption | apply notReady_kept | apply jobResult_kept | refine Kept.ite ?_ ?_ | exact Part.subs hC (by decide)
    | fail_if_no_progress refine Kept.put ?_

theorem loadDone_kept {code : Nat} {index : Nat} {c : Option Nat} (hC : ([.out, .hostMem, .job, .host] : List Part) ⊆ C) (h : Kept C z s)
    : Kept C z (loadDone s code index c) := by
  unfold loadDone
  repeat' with_reducible first
    | assumption | apply raisePart_kept | apply jobResult_kept | exact Part.subs hC (by decide)

theorem logImage_kept {d : Sha} (hC : ([.sec] : List Part) ⊆ C) (h : Kept C z s) : Kept C z (logImage s d) := by
  unfold logImage
  repeat' with_reducible first
    | assumption | refine Kept.ite ?_ ?_ | fail_if_no_progress refine Kept.put ?_

theorem loadCheckEffect_kept {hw : List Host.Cell} (hC : ([.out, .hostMem, .dev, .scratch, .mem, .store, .sem, .vreg, .job, .rink, .post, .host, .tel, .sec] : List Part) ⊆ C) (h : Kept C z s)
    : Kept C z (loadCheckEffect hw s) := by
  unfold loadCheckEffect
  repeat' with_reducible first
    | assumption | apply secRefuse_kept | apply makeLive_kept | apply loadDone_kept | apply logImage_kept | refine Kept.ite ?_ ?_
    | exact Part.subs hC (by decide) | fail_if_no_progress refine Kept.put ?_ | intro _ | split | dsimp only

theorem readSinks_kept {c : Nat} {peer : List (Option (List Byte))} (hC : ([.out, .hostMem, .job, .fab, .host, .tel] : List Part) ⊆ C) (h : Kept C z s)
    : Kept C z (readSinks s c peer) := by
  unfold readSinks
  repeat' with_reducible first
    | assumption | apply takeArea_kept | apply fwAskArea_kept | apply fwAnswered_kept | apply forgetSinks_kept | refine forEach_kept ?_ ?_
    | refine Kept.ite ?_ ?_ | exact Part.subs hC (by decide) | intro _

theorem dropOrphans_kept {c : Nat} (hC : ([.fab] : List Part) ⊆ C) (h : Kept C z s) : Kept C z (dropOrphans s c) := by
  unfold dropOrphans
  repeat' with_reducible first
    | assumption | fail_if_no_progress refine Kept.put ?_

theorem goRunning_kept {c : Nat} (hC : ([.out, .hostMem, .dev, .scratch, .mem, .store, .sem, .vreg, .tile, .job, .fab, .trw, .rink, .post, .host, .cfg, .tel, .sec, .pwr] : List Part) ⊆ C) (h : Kept C z s)
    : Kept C z (goRunning s c) := by
  unfold goRunning
  repeat' with_reducible first
    | assumption | apply updCtx_kept | apply updBnd_kept | apply bump_kept | apply schedule_kept | apply dropRed_kept | apply redRetry_kept
    | apply reduce_kept | apply commitStep_kept | apply dropOrphans_kept | refine Kept.ite ?_ ?_ | exact Part.subs hC (by decide)

theorem startFrom_kept {c : Nat} {st : JState} {peer : List (Option (List Byte))} (hC : ([.out, .hostMem, .dev, .scratch, .mem, .store, .sem, .vreg, .tile, .job, .fab, .trw, .rink, .post, .host, .cfg, .tel, .sec, .pwr] : List Part) ⊆ C) (h : Kept C z s)
    : Kept C z (startFrom s c st peer) := by
  unfold startFrom
  repeat' with_reducible first
    | assumption | apply jobResult_kept | apply readSinks_kept | apply goRunning_kept | refine Kept.ite ?_ ?_ | exact Part.subs hC (by decide)

theorem jobStartEffect_kept {c : Nat} {hw : List Host.Cell} {peer : List (Option (List Byte))} (hC : ([.out, .hostMem, .dev, .scratch, .mem, .store, .sem, .vreg, .tile, .job, .fab, .trw, .rink, .post, .host, .cfg, .tel, .sec, .pwr] : List Part) ⊆ C) (h : Kept C z s)
    : Kept C z (jobStartEffect c hw peer s) := by
  unfold jobStartEffect
  repeat' with_reducible first
    | assumption | apply jobCommand_kept | apply startFrom_kept | exact Part.subs hC (by decide) | fail_if_no_progress refine Kept.put ?_ | intro _

theorem jobResumeEffect_kept {c : Nat} {hw : List Host.Cell} {peer : List (Option (List Byte))} (hC : ([.out, .hostMem, .dev, .scratch, .mem, .store, .sem, .vreg, .tile, .job, .fab, .trw, .rink, .post, .host, .cfg, .tel, .sec, .pwr] : List Part) ⊆ C) (h : Kept C z s)
    : Kept C z (jobResumeEffect c hw peer s) := by
  unfold jobResumeEffect
  repeat' with_reducible first
    | assumption | apply jobCommand_kept | apply startFrom_kept | exact Part.subs hC (by decide) | fail_if_no_progress refine Kept.put ?_ | intro _

theorem jobPreemptEffect_kept {c : Nat} (hC : ([.out, .job, .host] : List Part) ⊆ C) (h : Kept C z s) : Kept C z (jobPreemptEffect c s) := by
  unfold jobPreemptEffect
  repeat' with_reducible first
    | assumption | apply updCtx_kept | apply jobResult_kept | apply jobCommand_kept | refine Kept.ite ?_ ?_ | exact Part.subs hC (by decide)
    | intro _

theorem jobUnloadEffect_kept {c : Nat} (hC : ([.out, .dev, .job, .fab, .trw, .rink, .post, .host, .tel, .sec] : List Part) ⊆ C) (h : Kept C z s)
    : Kept C z (jobUnloadEffect c s) := by
  unfold jobUnloadEffect
  repeat' with_reducible first
    | assumption | apply updCtx_kept | apply bump_kept | apply releaseJob_kept | apply jobResult_kept | apply jobCommand_kept | refine Kept.ite ?_ ?_
    | exact Part.subs hC (by decide) | intro _

theorem jobTeardownEffect_kept {c : Nat} (hC : ([.out, .hostMem, .dev, .scratch, .mem, .store, .sem, .vreg, .tile, .job, .fab, .trw, .rink, .post, .host, .cfg, .tel, .sec, .pwr] : List Part) ⊆ C) (h : Kept C z s)
    : Kept C z (jobTeardownEffect c s) := by
  unfold jobTeardownEffect
  repeat' with_reducible first
    | assumption | apply teardown_kept | apply jobResult_kept | apply jobCommand_kept | refine Kept.ite ?_ ?_ | exact Part.subs hC (by decide)
    | intro _

theorem jobClearEffect_kept {c : Nat} (hC : ([.out, .job, .host] : List Part) ⊆ C) (h : Kept C z s) : Kept C z (jobClearEffect c s) := by
  unfold jobClearEffect
  repeat' with_reducible first
    | assumption | apply updCtx_kept | apply jobResult_kept | apply jobCommand_kept | refine Kept.ite ?_ ?_ | exact Part.subs hC (by decide)
    | intro _

theorem ploughCommand_kept {c : Nat} {mode : Plough} (hC : ([.out, .hostMem, .dev, .scratch, .mem, .store, .sem, .tile, .job, .fab, .rink, .post, .host, .cfg, .tel, .sec, .pwr] : List Part) ⊆ C) (h : Kept C z s)
    : Kept C z (ploughCommand c mode s) := by
  unfold ploughCommand
  repeat' with_reducible first
    | assumption | apply ploughFrom_kept | apply jobResult_kept | apply jobCommand_kept | refine Kept.ite ?_ ?_ | exact Part.subs hC (by decide)
    | intro _

theorem creditWrite_kept {c : Nat} {v : Word} (hC : ([.out, .dev, .mem, .store, .sem, .vreg, .tile, .job, .host, .pwr] : List Part) ⊆ C) (h : Kept C z s)
    : Kept C z (creditWrite c v s) := by
  unfold creditWrite
  repeat' with_reducible first
    | assumption | apply updCtx_kept | apply notReady_kept | apply schedule_kept | refine Kept.ite ?_ ?_ | exact Part.subs hC (by decide)

theorem creditOverflowClearEffect_kept {c : Nat} (hC : ([.out, .dev, .mem, .store, .sem, .vreg, .tile, .job, .host, .pwr] : List Part) ⊆ C) (h : Kept C z s)
    : Kept C z (creditOverflowClearEffect c s) := by
  unfold creditOverflowClearEffect
  repeat' with_reducible first
    | assumption | apply creditWrite_kept

theorem snapshotRequestEffect_kept {c : Nat} (hC : ([.out, .job, .host, .sec] : List Part) ⊆ C) (h : Kept C z s)
    : Kept C z (snapshotRequestEffect c s) := by
  unfold snapshotRequestEffect
  repeat' with_reducible first
    | assumption | apply updTrn_kept | apply notReady_kept | apply secRefuse_kept | apply updSink_kept | refine Kept.ite ?_ ?_
    | exact Part.subs hC (by decide) | fail_if_no_progress refine Kept.put ?_

theorem updPool_kept {p : Nat} {f : Pool → Pool} (hC : ([.job] : List Part) ⊆ C) (h : Kept C z s) : Kept C z (updPool s p f) := by
  unfold updPool
  repeat' with_reducible first
    | assumption | fail_if_no_progress refine Kept.put ?_

theorem poolTaken_kept {p : Nat} (hC : ([.job] : List Part) ⊆ C) (h : Kept C z s) : Kept C z (poolTaken s p) := by
  unfold poolTaken
  repeat' with_reducible first
    | assumption | apply updPool_kept

theorem poolTakeEffect_kept {p : Nat} {r : Nat} (hC : ([.out, .job] : List Part) ⊆ C) (h : Kept C z s) : Kept C z (poolTakeEffect p r s) := by
  unfold poolTakeEffect
  repeat' with_reducible first
    | assumption | apply emit_kept | apply poolTaken_kept | refine Kept.ite ?_ ?_ | exact Part.subs hC (by decide)

theorem poolGiveEffect_kept {p : Nat} {v : Word} (hC : ([.out, .job, .host] : List Part) ⊆ C) (h : Kept C z s)
    : Kept C z (poolGiveEffect p v s) := by
  unfold poolGiveEffect
  repeat' with_reducible first
    | assumption | apply notReady_kept | apply updPool_kept | refine Kept.ite ?_ ?_ | exact Part.subs hC (by decide)

theorem resetEnds_kept (hC : ([.out, .hostMem, .dev, .scratch, .mem, .store, .sem, .tile, .job, .fab, .rink, .post, .host, .cfg, .tel, .sec, .pwr, .boot] : List Part) ⊆ C) (h : Kept C z s)
    : Kept C z (resetEnds s) := by
  unfold resetEnds
  repeat' with_reducible first
    | assumption | apply applyIfIdle_kept | refine Kept.ite ?_ ?_ | exact Part.subs hC (by decide) | fail_if_no_progress refine Kept.put ?_

theorem idleTick_kept (hC : ([.out, .hostMem, .dev, .scratch, .mem, .store, .sem, .tile, .job, .fab, .rink, .post, .host, .cfg, .tel, .sec, .pwr, .boot] : List Part) ⊆ C) (h : Kept C z s)
    : Kept C z (idleTick s) := by
  unfold idleTick
  repeat' with_reducible first
    | assumption | apply resetEnds_kept | refine Kept.ite ?_ ?_ | exact Part.subs hC (by decide) | fail_if_no_progress refine Kept.put ?_

theorem timeSendEffect_kept (hC : ([.out, .fab, .tel] : List Part) ⊆ C) (h : Kept C z s) : Kept C z (timeSendEffect s) := by
  unfold timeSendEffect
  repeat' with_reducible first
    | assumption | apply updLink_kept | apply sendOn_kept | apply countDiscard_kept | refine forEach_kept ?_ ?_ | refine Kept.ite ?_ ?_
    | exact Part.subs hC (by decide) | intro _ | split

theorem followTime_kept {v : Nat} (hC : ([.fab] : List Part) ⊆ C) (h : Kept C z s) : Kept C z (followTime s v) := by
  unfold followTime
  repeat' with_reducible first
    | assumption | refine Kept.ite ?_ ?_ | fail_if_no_progress refine Kept.put ?_

theorem timeEffect_kept {port : Nat} {p : Packet} (hC : ([.out, .hostMem, .fab, .host] : List Part) ⊆ C) (h : Kept C z s)
    : Kept C z (timeEffect port p s) := by
  unfold timeEffect
  repeat' with_reducible first
    | assumption | apply updLink_kept | apply refollow_kept | apply followTime_kept | refine Kept.ite ?_ ?_ | exact Part.subs hC (by decide)

theorem timeSetEffect_kept {r : Nat} {v : Dword} (hC : ([.out, .fab, .host] : List Part) ⊆ C) (h : Kept C z s) : Kept C z (timeSetEffect r v s) := by
  unfold timeSetEffect
  repeat' with_reducible first
    | assumption | apply accessErr_kept | apply notReady_kept | refine Kept.ite ?_ ?_ | exact Part.subs hC (by decide)
    | fail_if_no_progress refine Kept.put ?_

theorem linkDownAs_kept {port : Nat} {cause : Nat} (hC : ([.out, .hostMem, .dev, .scratch, .mem, .store, .sem, .tile, .job, .fab, .rink, .post, .host, .cfg, .tel, .sec, .pwr] : List Part) ⊆ C) (h : Kept C z s)
    : Kept C z (linkDownAs s port cause) := by
  unfold linkDownAs
  repeat' with_reducible first
    | assumption | apply raisePart_kept | apply linkLost_kept | exact Part.subs hC (by decide)

theorem linkDownEffect_kept {port : Nat} (hC : ([.out, .hostMem, .dev, .scratch, .mem, .store, .sem, .tile, .job, .fab, .rink, .post, .host, .cfg, .tel, .sec, .pwr] : List Part) ⊆ C) (h : Kept C z s)
    : Kept C z (linkDownEffect port s) := by
  unfold linkDownEffect
  repeat' with_reducible first
    | assumption | apply linkDownAs_kept | refine Kept.ite ?_ ?_

theorem heartbeatTimeoutEffect_kept {port : Nat} (hC : ([.out, .hostMem, .dev, .scratch, .mem, .store, .sem, .tile, .job, .fab, .rink, .post, .host, .cfg, .tel, .sec, .pwr] : List Part) ⊆ C) (h : Kept C z s)
    : Kept C z (heartbeatTimeoutEffect port s) := by
  unfold heartbeatTimeoutEffect
  repeat' with_reducible first
    | assumption | apply linkDownAs_kept | refine Kept.ite ?_ ?_

theorem linkDegradedEffect_kept {port : Nat} {bad : BitVec 8} (hC : ([.out, .hostMem, .dev, .scratch, .mem, .store, .sem, .tile, .job, .fab, .rink, .post, .host, .cfg, .tel, .sec, .pwr] : List Part) ⊆ C) (h : Kept C z s)
    : Kept C z (linkDegradedEffect port bad s) := by
  unfold linkDegradedEffect
  repeat' with_reducible first
    | assumption | apply updLink_kept | apply raisePart_kept | apply chgLink_kept | apply afterOut_kept | apply linkDownAs_kept
    | refine Kept.ite ?_ ?_ | exact Part.subs hC (by decide)

theorem sendIdentity_kept {port : Nat} (hC : ([.out] : List Part) ⊆ C) (h : Kept C z s) : Kept C z (sendIdentity s port) := by
  unfold sendIdentity
  repeat' with_reducible first
    | assumption | apply emit_kept

theorem linkUp_kept {port : Nat} (hC : ([.out, .fab, .host] : List Part) ⊆ C) (h : Kept C z s) : Kept C z (linkUp s port) := by
  unfold linkUp
  repeat' with_reducible first
    | assumption | apply emit_kept | apply servePort_kept | apply chgLink_kept | refine forEach_kept ?_ ?_ | exact Part.subs hC (by decide) | intro _

theorem identFails_kept {port : Nat} {coords : Nat} {peerPort : Nat} {tag : Word} (hC : ([.out, .hostMem, .dev, .scratch, .mem, .store, .sem, .tile, .job, .fab, .rink, .post, .host, .cfg, .tel, .sec, .pwr] : List Part) ⊆ C) (h : Kept C z s)
    : Kept C z (identFails s port coords peerPort tag) := by
  unfold identFails
  repeat' with_reducible first
    | assumption | apply raisePart_kept | apply chgLink_kept | apply outLink_kept | apply refollow_kept | apply portsOut_kept
    | apply applyIfIdle_kept | exact Part.subs hC (by decide)

theorem linkTrainStateEffect_kept {port : Nat} {coords : Nat} {peerPort : Nat} {tag : Word} (hC : ([.out, .hostMem, .dev, .scratch, .mem, .store, .sem, .tile, .job, .fab, .rink, .post, .host, .cfg, .tel, .sec, .pwr] : List Part) ⊆ C) (h : Kept C z s)
    : Kept C z (linkTrainStateEffect port coords peerPort tag s) := by
  unfold linkTrainStateEffect
  repeat' with_reducible first
    | assumption | apply updLink_kept | apply chgLink_kept | apply goPresent_kept | apply sendIdentity_kept | apply linkUp_kept
    | apply identFails_kept | refine Kept.ite ?_ ?_ | exact Part.subs hC (by decide) | intro _ | split

theorem linkTrainTimeoutEffect_kept {port : Nat} (hC : ([.out, .hostMem, .dev, .scratch, .mem, .store, .sem, .tile, .job, .fab, .rink, .post, .host, .cfg, .tel, .sec, .pwr] : List Part) ⊆ C) (h : Kept C z s)
    : Kept C z (linkTrainTimeoutEffect port s) := by
  unfold linkTrainTimeoutEffect
  repeat' with_reducible first
    | assumption | apply linkLost_kept | refine Kept.ite ?_ ?_

theorem creditReturnEffect_kept {port : Nat} {vc : Nat} {n : Nat} (hC : ([.out, .fab] : List Part) ⊆ C) (h : Kept C z s)
    : Kept C z (creditReturnEffect port vc n s) := by
  unfold creditReturnEffect
  repeat' with_reducible first
    | assumption | apply updLink_kept | apply servePort_kept | refine Kept.ite ?_ ?_ | exact Part.subs hC (by decide)

theorem prbsStartEffect_kept {port : Nat} (hC : ([.out, .hostMem, .fab, .host, .tel] : List Part) ⊆ C) (h : Kept C z s)
    : Kept C z (prbsStartEffect port s) := by
  unfold prbsStartEffect
  repeat' with_reducible first
    | assumption | apply accessErr_kept | apply notReady_kept | apply chgLink_kept | apply reroute_kept | apply refollow_kept | refine Kept.ite ?_ ?_
    | exact Part.subs hC (by decide)

theorem prbsStopEffect_kept {port : Nat} (hC : ([.out, .fab, .host, .tel] : List Part) ⊆ C) (h : Kept C z s) : Kept C z (prbsStopEffect port s) := by
  unfold prbsStopEffect
  repeat' with_reducible first
    | assumption | apply bump_kept | apply accessErr_kept | apply notReady_kept | apply retrainLink_kept | refine Kept.ite ?_ ?_
    | exact Part.subs hC (by decide) | fail_if_no_progress refine Kept.put ?_

theorem heartbeatSendEffect_kept (hC : ([.out, .fab] : List Part) ⊆ C) (h : Kept C z s) : Kept C z (heartbeatSendEffect s) := by
  unfold heartbeatSendEffect
  repeat' with_reducible first
    | assumption | apply updLink_kept | apply emit_kept | refine forEach_kept ?_ ?_ | refine Kept.ite ?_ ?_ | exact Part.subs hC (by decide)
    | intro _

theorem heartbeatEffect_kept {port : Nat} {f : List Byte} (hC : ([.out, .hostMem, .dev, .scratch, .mem, .store, .sem, .tile, .job, .fab, .rink, .post, .host, .cfg, .tel, .sec, .pwr] : List Part) ⊆ C) (h : Kept C z s)
    : Kept C z (heartbeatEffect port f s) := by
  unfold heartbeatEffect
  repeat' with_reducible first
    | assumption | apply goAbsent_kept | refine Kept.ite ?_ ?_

theorem wiped_kept (hC : ([.dev, .scratch, .mem, .store, .sem, .vreg, .tile, .job, .fab, .trw, .rink, .post, .regs, .fw, .host, .cfg, .tel, .sec, .pwr, .boot] : List Part) ⊆ C) (h : Kept C z s)
    : Kept C z (wiped s) := by
  unfold wiped
  repeat' with_reducible first
    | assumption | fail_if_no_progress refine Kept.put ?_

theorem aonLost_kept {cause : Nat} (hC : ([.dev, .scratch, .mem, .store, .sem, .vreg, .tile, .job, .fab, .trw, .rink, .post, .regs, .fw, .host, .cfg, .tel, .sec, .pwr, .boot] : List Part) ⊆ C) (h : Kept C z s)
    : Kept C z (aonLost s cause) := by
  unfold aonLost
  repeat' with_reducible first
    | assumption | apply wiped_kept | exact Part.subs hC (by decide) | fail_if_no_progress refine Kept.put ?_

theorem tearAll_kept (hC : ([.out, .dev, .scratch, .mem, .store, .sem, .tile, .job, .fab, .trw, .rink, .post, .host, .tel, .sec] : List Part) ⊆ C) (h : Kept C z s)
    : Kept C z (tearAll s) := by
  unfold tearAll
  repeat' with_reducible first
    | assumption | apply tearCore_kept | apply tornDown_kept | refine forEach_kept ?_ ?_ | exact Part.subs hC (by decide) | intro _

theorem clearUnits_kept (hC : ([.mem, .store, .sem, .vreg, .tile, .job, .fab, .trw, .rink, .post, .tel, .sec] : List Part) ⊆ C) (h : Kept C z s)
    : Kept C z (clearUnits s) := by
  unfold clearUnits
  repeat' with_reducible first
    | assumption | apply undefCourse_kept | apply undefSems_kept | apply spinReload_kept | refine forEach_kept ?_ ?_ | refine Kept.ite ?_ ?_
    | exact Part.subs hC (by decide) | fail_if_no_progress refine Kept.put ?_ | intro _

theorem computeReset_kept (hC : ([.out, .dev, .scratch, .mem, .store, .sem, .vreg, .tile, .job, .fab, .trw, .rink, .post, .host, .tel, .sec, .boot] : List Part) ⊆ C) (h : Kept C z s)
    : Kept C z (computeReset s) := by
  unfold computeReset
  repeat' with_reducible first
    | assumption | apply tearAll_kept | apply clearUnits_kept | refine Kept.ite ?_ ?_ | exact Part.subs hC (by decide)
    | fail_if_no_progress refine Kept.put ?_

theorem rstComputeEffect_kept {v : Word} (hC : ([.out, .dev, .scratch, .mem, .store, .sem, .vreg, .tile, .job, .fab, .trw, .rink, .post, .host, .tel, .sec, .boot] : List Part) ⊆ C) (h : Kept C z s)
    : Kept C z (rstComputeEffect v s) := by
  unfold rstComputeEffect
  repeat' with_reducible first
    | assumption | apply accessErr_kept | apply notReady_kept | apply computeReset_kept | refine Kept.ite ?_ ?_ | exact Part.subs hC (by decide)

theorem unitHangEffect_kept {unit : Nat} {inst : Nat} (hC : ([.out, .hostMem, .dev, .scratch, .mem, .store, .sem, .vreg, .tile, .job, .fab, .trw, .rink, .post, .host, .tel, .sec, .boot] : List Part) ⊆ C) (h : Kept C z s)
    : Kept C z (unitHangEffect unit inst s) := by
  unfold unitHangEffect
  repeat' with_reducible first
    | assumption | apply raiseRetained_kept | apply computeReset_kept | refine Kept.ite ?_ ?_ | exact Part.subs hC (by decide)

theorem stopChannels_kept (hC : ([.out, .hostMem, .dev, .mem, .host, .sec] : List Part) ⊆ C) (h : Kept C z s) : Kept C z (stopChannels s) := by
  unfold stopChannels
  repeat' with_reducible first
    | assumption | apply chanFinish_kept | apply cutXfer_kept | refine forEach_kept ?_ ?_ | exact Part.subs hC (by decide) | intro _

theorem hostReset_kept (hC : ([.out, .hostMem, .dev, .mem, .job, .regs, .host, .sec] : List Part) ⊆ C) (h : Kept C z s)
    : Kept C z (hostReset s) := by
  unfold hostReset
  repeat' with_reducible first
    | assumption | apply updCtx_kept | apply stopChannels_kept | refine forEach_kept ?_ ?_ | exact Part.subs hC (by decide)
    | fail_if_no_progress refine Kept.put ?_ | intro _

theorem functionLevelResetEffect_kept (hC : ([.out, .hostMem, .dev, .scratch, .mem, .store, .sem, .vreg, .tile, .job, .fab, .trw, .rink, .post, .regs, .host, .tel, .sec, .boot] : List Part) ⊆ C) (h : Kept C z s)
    : Kept C z (functionLevelResetEffect s) := by
  unfold functionLevelResetEffect
  repeat' with_reducible first
    | assumption | apply computeReset_kept | apply hostReset_kept | refine Kept.ite ?_ ?_ | exact Part.subs hC (by decide)

theorem partFault_kept {code : Nat} {f : EvF} (hC : ([.out, .hostMem, .host, .tel, .boot] : List Part) ⊆ C) (h : Kept C z s)
    : Kept C z (partFault s code f) := by
  unfold partFault
  repeat' with_reducible first
    | assumption | apply raiseRetained_kept | refine Kept.ite ?_ ?_ | exact Part.subs hC (by decide) | fail_if_no_progress refine Kept.put ?_

theorem thermalTripEffect_kept {unit : Nat} {inst : Nat} {reading : Nat} (hC : ([.out, .hostMem, .host, .tel, .pwr, .boot] : List Part) ⊆ C) (h : Kept C z s)
    : Kept C z (thermalTripEffect unit inst reading s) := by
  unfold thermalTripEffect
  repeat' with_reducible first
    | assumption | apply partFault_kept | refine Kept.ite ?_ ?_ | exact Part.subs hC (by decide) | fail_if_no_progress refine Kept.put ?_

theorem supplyFaultEffect_kept {reading : Nat} (hC : ([.out, .hostMem, .host, .tel, .boot] : List Part) ⊆ C) (h : Kept C z s)
    : Kept C z (supplyFaultEffect reading s) := by
  unfold supplyFaultEffect
  repeat' with_reducible first
    | assumption | apply partFault_kept | refine Kept.ite ?_ ?_

theorem coolantOkDeassertEffect_kept (hC : ([.out, .hostMem, .host, .tel, .pwr, .boot] : List Part) ⊆ C) (h : Kept C z s)
    : Kept C z (coolantOkDeassertEffect s) := by
  unfold coolantOkDeassertEffect
  repeat' with_reducible first
    | assumption | apply partFault_kept | refine Kept.ite ?_ ?_ | exact Part.subs hC (by decide) | fail_if_no_progress refine Kept.put ?_

theorem aonLossEffect_kept (hC : ([.out, .hostMem, .dev, .scratch, .mem, .store, .sem, .vreg, .tile, .job, .fab, .trw, .rink, .post, .regs, .fw, .host, .cfg, .tel, .sec, .pwr, .boot] : List Part) ⊆ C) (h : Kept C z s)
    : Kept C z (aonLossEffect s) := by
  unfold aonLossEffect
  repeat' with_reducible first
    | assumption | apply raiseRetained_kept | apply aonLost_kept | refine Kept.ite ?_ ?_ | exact Part.subs hC (by decide)

theorem refclkLossEffect_kept (hC : ([.out, .dev, .scratch, .mem, .store, .sem, .vreg, .tile, .job, .fab, .trw, .rink, .post, .regs, .fw, .host, .cfg, .tel, .sec, .pwr, .boot] : List Part) ⊆ C) (h : Kept C z s)
    : Kept C z (refclkLossEffect s) := by
  unfold refclkLossEffect
  repeat' with_reducible first
    | assumption | apply retain_kept | apply wiped_kept | refine Kept.ite ?_ ?_ | exact Part.subs hC (by decide)
    | fail_if_no_progress refine Kept.put ?_

theorem warmBegin_kept {cause : Nat} (hC : ([.boot] : List Part) ⊆ C) (h : Kept C z s) : Kept C z (warmBegin s cause) := by
  unfold warmBegin
  repeat' with_reducible first
    | assumption | refine Kept.ite ?_ ?_ | fail_if_no_progress refine Kept.put ?_

theorem rstWarmEffect_kept {v : Word} (hC : ([.out, .host, .boot] : List Part) ⊆ C) (h : Kept C z s) : Kept C z (rstWarmEffect v s) := by
  unfold rstWarmEffect
  repeat' with_reducible first
    | assumption | apply accessErr_kept | apply notReady_kept | apply warmBegin_kept | refine Kept.ite ?_ ?_ | exact Part.subs hC (by decide)

theorem perstNAssertEffect_kept (hC : ([.boot] : List Part) ⊆ C) (h : Kept C z s) : Kept C z (perstNAssertEffect s) := by
  unfold perstNAssertEffect
  repeat' with_reducible first
    | assumption | apply warmBegin_kept | refine Kept.ite ?_ ?_ | exact Part.subs hC (by decide) | fail_if_no_progress refine Kept.put ?_

theorem perstNDeassertEffect_kept (hC : ([.host, .boot] : List Part) ⊆ C) (h : Kept C z s) : Kept C z (perstNDeassertEffect s) := by
  unfold perstNDeassertEffect
  repeat' with_reducible first
    | assumption | fail_if_no_progress refine Kept.put ?_

theorem rstactEffect_kept {b : Byte} (hC : ([.dev, .scratch, .mem, .store, .sem, .vreg, .tile, .job, .fab, .trw, .rink, .post, .regs, .fw, .host, .cfg, .tel, .sec, .pwr, .boot] : List Part) ⊆ C) (h : Kept C z s)
    : Kept C z (rstactEffect b s) := by
  unfold rstactEffect
  repeat' with_reducible first
    | assumption | apply aonLost_kept | apply warmBegin_kept | refine Kept.ite ?_ ?_ | exact Part.subs hC (by decide)

theorem haltAll_kept (hC : ([.dev, .scratch, .mem, .store, .tile, .job, .fab, .rink, .post] : List Part) ⊆ C) (h : Kept C z s)
    : Kept C z (haltAll s) := by
  unfold haltAll
  repeat' with_reducible first
    | assumption | apply updCtx_kept | apply updTrn_kept | apply stopJob_kept | refine forEach_kept ?_ ?_ | exact Part.subs hC (by decide) | intro _

theorem selfRefreshAll_kept {b : Bool} (hC : ([.mem] : List Part) ⊆ C) (h : Kept C z s) : Kept C z (selfRefreshAll s b) := by
  unfold selfRefreshAll
  repeat' with_reducible first
    | assumption | apply updStack_kept | refine forEach_kept ?_ ?_ | exact Part.subs hC (by decide) | intro _

theorem gateAll_kept (hC : ([.pwr] : List Part) ⊆ C) (h : Kept C z s) : Kept C z (gateAll s) := by
  unfold gateAll
  repeat' with_reducible first
    | assumption | apply updPair_kept | refine forEach_kept ?_ ?_ | exact Part.subs hC (by decide) | fail_if_no_progress refine Kept.put ?_ | intro _

theorem leaveFabric_kept (hC : ([.out, .dev, .scratch, .mem, .store, .tile, .job, .fab, .trw, .rink, .post, .host, .pwr] : List Part) ⊆ C) (h : Kept C z s)
    : Kept C z (leaveFabric s) := by
  unfold leaveFabric
  repeat' with_reducible first
    | assumption | apply updLink_kept | apply outLink_kept | apply haltAll_kept | apply selfRefreshAll_kept | apply gateAll_kept
    | refine forEach_kept ?_ ?_ | exact Part.subs hC (by decide) | fail_if_no_progress refine Kept.put ?_ | intro _

theorem announcementEndEffect_kept (hC : ([.out, .dev, .scratch, .mem, .store, .sem, .vreg, .tile, .job, .fab, .trw, .rink, .post, .regs, .fw, .host, .cfg, .tel, .sec, .pwr, .boot] : List Part) ⊆ C) (h : Kept C z s)
    : Kept C z (announcementEndEffect s) := by
  unfold announcementEndEffect
  repeat' with_reducible first
    | assumption | apply wiped_kept | apply leaveFabric_kept | refine Kept.ite ?_ ?_ | exact Part.subs hC (by decide)
    | fail_if_no_progress refine Kept.put ?_ | intro _ | split

theorem aonPowerOnResetEffect_kept {straps : BitVec 3} (hC : ([.boot] : List Part) ⊆ C) (h : Kept C z s)
    : Kept C z (aonPowerOnResetEffect straps s) := by
  unfold aonPowerOnResetEffect
  repeat' with_reducible first
    | assumption | refine Kept.ite ?_ ?_ | fail_if_no_progress refine Kept.put ?_

theorem regulatorStartEffect_kept (hC : ([.pwr, .boot] : List Part) ⊆ C) (h : Kept C z s) : Kept C z (regulatorStartEffect s) := by
  unfold regulatorStartEffect
  repeat' with_reducible first
    | assumption | refine Kept.ite ?_ ?_ | fail_if_no_progress refine Kept.put ?_

theorem bootRom_kept (hC : ([.out, .fab, .host, .sec, .pwr, .boot] : List Part) ⊆ C) (h : Kept C z s) : Kept C z (bootRom s) := by
  unfold bootRom
  repeat' with_reducible first
    | assumption | apply emit_kept | apply outLink_kept | refine forEach_kept ?_ ?_ | exact Part.subs hC (by decide)
    | fail_if_no_progress refine Kept.put ?_ | intro _ | split | dsimp only

theorem coldBootEffect_kept {bistFail : List CourseId} (hC : ([.out, .fab, .host, .sec, .pwr, .boot] : List Part) ⊆ C) (h : Kept C z s)
    : Kept C z (coldBootEffect bistFail s) := by
  unfold coldBootEffect
  repeat' with_reducible first
    | assumption | apply bootRom_kept | refine Kept.ite ?_ ?_ | exact Part.subs hC (by decide) | fail_if_no_progress refine Kept.put ?_

theorem restart_kept (hC : ([.out, .fab, .host, .sec, .pwr, .boot] : List Part) ⊆ C) (h : Kept C z s) : Kept C z (restart s) := by
  unfold restart
  repeat' with_reducible first
    | assumption | apply bootRom_kept | exact Part.subs hC (by decide) | fail_if_no_progress refine Kept.put ?_

theorem warmRestartEffect_kept (hC : ([.out, .fab, .host, .sec, .pwr, .boot] : List Part) ⊆ C) (h : Kept C z s)
    : Kept C z (warmRestartEffect s) := by
  unfold warmRestartEffect
  repeat' with_reducible first
    | assumption | apply restart_kept | refine Kept.ite ?_ ?_

theorem bistFences_kept (hC : ([.out, .hostMem, .tile, .host] : List Part) ⊆ C) (h : Kept C z s) : Kept C z (bistFences s) := by
  unfold bistFences
  repeat' with_reducible first
    | assumption | apply updCourse_kept | apply raisePart_kept | refine forEach_kept ?_ ?_ | refine Kept.ite ?_ ?_ | exact Part.subs hC (by decide)
    | intro _

theorem goActive_kept (hC : ([.out, .hostMem, .mem, .tile, .fab, .host, .pwr, .boot] : List Part) ⊆ C) (h : Kept C z s) : Kept C z (goActive s) := by
  unfold goActive
  repeat' with_reducible first
    | assumption | apply restartLink_kept | apply selfRefreshAll_kept | apply bistFences_kept | refine forEach_kept ?_ ?_ | refine Kept.ite ?_ ?_
    | exact Part.subs hC (by decide) | fail_if_no_progress refine Kept.put ?_ | intro _

theorem scrubStart_kept (hC : ([.trw, .sec] : List Part) ⊆ C) (h : Kept C z s) : Kept C z (scrubStart s) := by
  unfold scrubStart
  repeat' with_reducible first
    | assumption | apply updTrowel_kept | refine forEach_kept ?_ ?_ | exact Part.subs hC (by decide) | fail_if_no_progress refine Kept.put ?_
    | intro _

theorem memoryTrainingCompleteEffect_kept (hC : ([.mem, .trw, .sec, .boot] : List Part) ⊆ C) (h : Kept C z s)
    : Kept C z (memoryTrainingCompleteEffect s) := by
  unfold memoryTrainingCompleteEffect
  repeat' with_reducible first
    | assumption | apply updStack_kept | apply scrubStart_kept | refine forEach_kept ?_ ?_ | refine Kept.ite ?_ ?_ | exact Part.subs hC (by decide)
    | fail_if_no_progress refine Kept.put ?_ | intro _

theorem storeApply_kept {keepFabric : Bool} (hC : ([.out, .hostMem, .dev, .scratch, .mem, .store, .sem, .tile, .job, .fab, .rink, .post, .host, .cfg, .tel, .sec, .pwr] : List Part) ⊆ C) (h : Kept C z s)
    : Kept C z (storeApply s keepFabric) := by
  unfold storeApply
  repeat' with_reducible first
    | assumption | apply applyStore_kept | refine Kept.ite ?_ ?_ | exact Part.subs hC (by decide) | fail_if_no_progress refine Kept.put ?_

theorem scrubClear_kept (hC : ([.dev, .scratch, .mem, .store, .sem, .vreg, .tile, .job, .trw, .rink, .post, .regs, .host, .cfg, .tel, .sec] : List Part) ⊆ C) (h : Kept C z s)
    : Kept C z (scrubClear s) := by
  unfold scrubClear
  repeat' with_reducible first
    | assumption | refine Kept.ite ?_ ?_ | fail_if_no_progress refine Kept.put ?_

theorem spinAfterScrub_kept {old : State} (hC : ([.tile] : List Part) ⊆ C) (h : Kept C z s) : Kept C z (spinAfterScrub old s) := by
  unfold spinAfterScrub
  repeat' with_reducible first
    | assumption | apply spinReload_kept | refine forEach_kept ?_ ?_ | exact Part.subs hC (by decide) | fail_if_no_progress refine Kept.put ?_
    | intro _

theorem readyEffect_kept (hC : ([.out, .hostMem, .host, .cfg, .boot] : List Part) ⊆ C) (h : Kept C z s) : Kept C z (readyEffect s) := by
  unfold readyEffect
  repeat' with_reducible first
    | assumption | apply emit_kept | apply signalSource_kept | apply raisePart_kept | refine Kept.ite ?_ ?_ | exact Part.subs hC (by decide)
    | fail_if_no_progress refine Kept.put ?_

theorem softResetEffect_kept {r : Nat} {page : Nat} (hC : ([.out, .hostMem, .dev, .scratch, .mem, .store, .sem, .tile, .job, .fab, .rink, .post, .host, .cfg, .tel, .sec, .pwr] : List Part) ⊆ C) (h : Kept C z s)
    : Kept C z (softResetEffect r page s) := by
  unfold softResetEffect
  repeat' with_reducible first
    | assumption | apply updLink_kept | apply updUnit_kept | apply accessErr_kept | apply notReady_kept | apply restartLinks_kept
    | apply applyIfIdle_kept | refine Kept.ite ?_ ?_ | exact Part.subs hC (by decide) | fail_if_no_progress refine Kept.put ?_ | intro _ | split

theorem tryExit_kept (hC : ([.out, .hostMem, .mem, .tile, .fab, .host, .pwr, .boot] : List Part) ⊆ C) (h : Kept C z s) : Kept C z (tryExit s) := by
  unfold tryExit
  repeat' with_reducible first
    | assumption | apply goActive_kept | refine Kept.ite ?_ ?_

theorem lowPowerExitEffect_kept (hC : ([.out, .hostMem, .mem, .tile, .fab, .host, .pwr, .boot] : List Part) ⊆ C) (h : Kept C z s)
    : Kept C z (lowPowerExitEffect s) := by
  unfold lowPowerExitEffect
  repeat' with_reducible first
    | assumption | apply tryExit_kept | exact Part.subs hC (by decide) | fail_if_no_progress refine Kept.put ?_

theorem sleepEffect_kept (hC : ([.out, .mem, .host, .pwr] : List Part) ⊆ C) (h : Kept C z s) : Kept C z (sleepEffect s) := by
  unfold sleepEffect
  repeat' with_reducible first
    | assumption | apply accessErr_kept | apply notReady_kept | apply selfRefreshAll_kept | apply gateAll_kept | refine Kept.ite ?_ ?_
    | exact Part.subs hC (by decide) | fail_if_no_progress refine Kept.put ?_

theorem wakeEffect_kept (hC : ([.out, .hostMem, .mem, .tile, .fab, .host, .pwr, .boot] : List Part) ⊆ C) (h : Kept C z s)
    : Kept C z (wakeEffect s) := by
  unfold wakeEffect
  repeat' with_reducible first
    | assumption | apply notReady_kept | apply tryExit_kept | refine Kept.ite ?_ ?_ | exact Part.subs hC (by decide)
    | fail_if_no_progress refine Kept.put ?_

theorem pairGateEffect_kept {p : Nat} (hC : ([.pwr] : List Part) ⊆ C) (h : Kept C z s) : Kept C z (pairGateEffect p s) := by
  unfold pairGateEffect
  repeat' with_reducible first
    | assumption | apply updPair_kept | refine Kept.ite ?_ ?_ | exact Part.subs hC (by decide) | fail_if_no_progress refine Kept.put ?_

theorem startPair_kept {p : Nat} (hC : ([.pwr] : List Part) ⊆ C) (h : Kept C z s) : Kept C z (startPair s p) := by
  unfold startPair
  repeat' with_reducible first
    | assumption | apply updPair_kept

theorem governorReleaseEffect_kept (hC : ([.pwr] : List Part) ⊆ C) (h : Kept C z s) : Kept C z (governorReleaseEffect s) := by
  unfold governorReleaseEffect
  repeat' with_reducible first
    | assumption | apply updPair_kept | apply lowerClocks_kept | apply startPair_kept | refine forEach_kept ?_ ?_ | refine Kept.ite ?_ ?_
    | exact Part.subs hC (by decide) | fail_if_no_progress refine Kept.put ?_ | intro _ | split

theorem powerControlTickEffect_kept {watts : Nat} {amps : Nat} (hC : ([.pwr] : List Part) ⊆ C) (h : Kept C z s)
    : Kept C z (powerControlTickEffect watts amps s) := by
  unfold powerControlTickEffect
  repeat' with_reducible first
    | assumption | apply lowerClocks_kept | refine Kept.ite ?_ ?_ | exact Part.subs hC (by decide) | fail_if_no_progress refine Kept.put ?_

theorem throttleOut_kept (hC : ([.out, .host, .pwr] : List Part) ⊆ C) (h : Kept C z s) : Kept C z (throttleOut s) := by
  unfold throttleOut
  repeat' with_reducible first
    | assumption | apply blockEvent_kept | refine Kept.ite ?_ ?_ | exact Part.subs hC (by decide) | fail_if_no_progress refine Kept.put ?_

theorem throttleEvent_kept {begins : Bool} {unit : Nat} {inst : Nat} {q : Nat} (hC : ([.out, .hostMem, .host] : List Part) ⊆ C) (h : Kept C z s)
    : Kept C z (throttleEvent s begins unit inst q) := by
  unfold throttleEvent
  repeat' with_reducible first
    | assumption | apply raisePart_kept | refine Kept.ite ?_ ?_

theorem thermPair_kept {p : Nat} {q : Nat} (hC : ([.out, .hostMem, .host, .pwr] : List Part) ⊆ C) (h : Kept C z s) : Kept C z (thermPair s p q) := by
  unfold thermPair
  repeat' with_reducible first
    | assumption | apply updPair_kept | apply lowerClocks_kept | apply throttleEvent_kept | refine Kept.ite ?_ ?_ | exact Part.subs hC (by decide)

theorem thermStack_kept {k : Nat} {q : Nat} (hC : ([.out, .hostMem, .mem, .host, .pwr] : List Part) ⊆ C) (h : Kept C z s)
    : Kept C z (thermStack s k q) := by
  unfold thermStack
  repeat' with_reducible first
    | assumption | apply updStack_kept | apply throttleEvent_kept | exact Part.subs hC (by decide) | fail_if_no_progress refine Kept.put ?_

theorem thermalLimitTickEffect_kept {t : ThermalTarget} {q : Nat} (hC : ([.out, .hostMem, .mem, .host, .pwr] : List Part) ⊆ C) (h : Kept C z s)
    : Kept C z (thermalLimitTickEffect t q s) := by
  unfold thermalLimitTickEffect
  repeat' with_reducible first
    | assumption | apply updStack_kept | apply throttleOut_kept | apply throttleEvent_kept | apply thermPair_kept | apply thermStack_kept
    | exact Part.subs hC (by decide) | fail_if_no_progress refine Kept.put ?_ | intro _ | split

theorem droopStretchEffect_kept {p : Nat} (hC : ([.pwr] : List Part) ⊆ C) (h : Kept C z s) : Kept C z (droopStretchEffect p s) := by
  unfold droopStretchEffect
  repeat' with_reducible first
    | assumption | apply updPair_kept | refine Kept.ite ?_ ?_

theorem voltLower_kept {p : Nat} (hC : ([.pwr] : List Part) ⊆ C) (h : Kept C z s) : Kept C z (voltLower s p) := by
  unfold voltLower
  repeat' with_reducible first
    | assumption | apply updPair_kept | apply lowerClocks_kept

theorem voltageLoopTickEffect_kept {p : Nat} {clocks : Nat} {load : Nat} (hC : ([.pwr] : List Part) ⊆ C) (h : Kept C z s)
    : Kept C z (voltageLoopTickEffect p clocks load s) := by
  unfold voltageLoopTickEffect
  repeat' with_reducible first
    | assumption | apply updPair_kept | apply voltLower_kept | refine Kept.ite ?_ ?_

theorem memoryRecentreEffect_kept {k : Nat} {code : Nat} (hC : ([.mem] : List Part) ⊆ C) (h : Kept C z s)
    : Kept C z (memoryRecentreEffect k code s) := by
  unfold memoryRecentreEffect
  repeat' with_reducible first
    | assumption | apply updStack_kept | refine Kept.ite ?_ ?_ | exact Part.subs hC (by decide) | fail_if_no_progress refine Kept.put ?_

theorem fabricEqualisationEffect_kept {port : Nat} {lane : Nat} {code : Nat} (hC : ([.fab] : List Part) ⊆ C) (h : Kept C z s)
    : Kept C z (fabricEqualisationEffect port lane code s) := by
  unfold fabricEqualisationEffect
  repeat' with_reducible first
    | assumption | apply updLink_kept | refine Kept.ite ?_ ?_ | exact Part.subs hC (by decide) | fail_if_no_progress refine Kept.put ?_

theorem brakeAssertEffect_kept (hC : ([.pwr] : List Part) ⊆ C) (h : Kept C z s) : Kept C z (brakeAssertEffect s) := by
  unfold brakeAssertEffect
  repeat' with_reducible first
    | assumption | apply lowerClocks_kept | exact Part.subs hC (by decide) | fail_if_no_progress refine Kept.put ?_

theorem brakeDeassertEffect_kept (hC : ([.pwr] : List Part) ⊆ C) (h : Kept C z s) : Kept C z (brakeDeassertEffect s) := by
  unfold brakeDeassertEffect
  repeat' with_reducible first
    | assumption | fail_if_no_progress refine Kept.put ?_

theorem hrdmResult_kept {r : Nat} (hC : ([.out, .host, .sec] : List Part) ⊆ C) (h : Kept C z s) : Kept C z (hrdmResult s r) := by
  unfold hrdmResult
  repeat' with_reducible first
    | assumption | apply blockEvent_kept | exact Part.subs hC (by decide) | fail_if_no_progress refine Kept.put ?_

theorem spdm_kept {p : MsgPath} {code : Nat} {bs : List Byte} (hC : ([.out] : List Part) ⊆ C) (h : Kept C z s) : Kept C z (spdm s p code bs) := by
  unfold spdm
  repeat' with_reducible first
    | assumption | apply emit_kept

theorem spdmError_kept {p : MsgPath} {code : Nat} (hC : ([.out] : List Part) ⊆ C) (h : Kept C z s) : Kept C z (spdmError s p code) := by
  unfold spdmError
  repeat' with_reducible first
    | assumption | apply spdm_kept

theorem vendorOk_kept {p : MsgPath} {code : Nat} (hC : ([.out] : List Part) ⊆ C) (h : Kept C z s) : Kept C z (vendorOk s p code) := by
  unfold vendorOk
  repeat' with_reducible first
    | assumption | apply spdm_kept

theorem updSession_kept {id : Nat} {f : Session → Session} (hC : ([.sec] : List Part) ⊆ C) (h : Kept C z s) : Kept C z (updSession s id f) := by
  unfold updSession
  repeat' with_reducible first
    | assumption | refine Kept.ite ?_ ?_ | fail_if_no_progress refine Kept.put ?_

theorem doTenantSwitch_kept {src : SecSource} (hC : ([.trw, .cfg, .sec] : List Part) ⊆ C) (h : Kept C z s) : Kept C z (doTenantSwitch src s) := by
  unfold doTenantSwitch
  repeat' with_reducible first
    | assumption | apply secRefuse_kept | apply scrubStart_kept | refine Kept.ite ?_ ?_ | exact Part.subs hC (by decide)
    | fail_if_no_progress refine Kept.put ?_

theorem doClose_kept {k : Nat} (hC : ([.out, .host, .sec] : List Part) ⊆ C) (h : Kept C z s) : Kept C z (doClose k s) := by
  unfold doClose
  repeat' with_reducible first
    | assumption | apply secRefuse_kept | apply hrdmResult_kept | refine Kept.ite ?_ ?_ | exact Part.subs hC (by decide)
    | fail_if_no_progress refine Kept.put ?_

theorem doSetKey_kept {p : MsgPath} {id : Nat} {setId : Nat} {key : List Byte} (hC : ([.out, .sec] : List Part) ⊆ C) (h : Kept C z s)
    : Kept C z (doSetKey p id setId key s) := by
  unfold doSetKey
  repeat' with_reducible first
    | assumption | apply secRefuse_kept | apply vendorOk_kept | refine Kept.ite ?_ ?_ | exact Part.subs hC (by decide)
    | fail_if_no_progress refine Kept.put ?_ | intro _ | split

theorem doReleaseKey_kept {p : MsgPath} {id : Nat} {job : Nat} {chan : Nat} {loadId : Word} {d : Sha} {key : List Byte} (hC : ([.out, .sec] : List Part) ⊆ C) (h : Kept C z s)
    : Kept C z (doReleaseKey p id job chan loadId d key s) := by
  unfold doReleaseKey
  repeat' with_reducible first
    | assumption | apply secRefuse_kept | apply vendorOk_kept | refine Kept.ite ?_ ?_ | exact Part.subs hC (by decide)
    | fail_if_no_progress refine Kept.put ?_ | intro _ | split

theorem doOwnerKeyUpdate_kept {p : MsgPath} {seq : Nat} {key sig : List Byte} {writeOk : Bool} (hC : ([.out, .sec] : List Part) ⊆ C) (h : Kept C z s) :
    Kept C z (doOwnerKeyUpdate p seq key sig writeOk s) := by
  unfold doOwnerKeyUpdate
  split
  · exact secRefuse_kept (List.Subset.trans (by decide) hC) h
  · next hn =>
    simp only [not_or, not_le] at hn
    dsimp only
    split
    · refine vendorOk_kept (List.Subset.trans (by decide) hC) ⟨h.pending, h.free, h.out, h.counter.trans ?_, fun _ => ?_, h.mems, fun p hp => ?_⟩
      · dsimp only; omega
      · dsimp only; omega
      · refine Part.same_trans (h.frame p hp) ?_
        cases p <;> first | exact rfl | exact ⟨rfl, rfl⟩ | exact absurd (Part.sub hC (by decide)) hp
    · exact secRefuse_kept (List.Subset.trans (by decide) hC) (by with_reducible exact Kept.put h)

end Sys2Proof.Machine
end

