-- ==== Sys2Proof/Laws/KeptSec.lean ====
section
/-! SUPPORT. What the operations of these files keep: Security, Test, RinkIngest, RinkEncode, RegFile, Trowel. -/

namespace Sys2Proof.Machine

set_option Elab.async false

variable {C : List Part} {z s : State}

theorem doKeyExchange_kept {p : MsgPath} {mutualAuth : Bool} (hC : ([.out, .sec] : List Part) ⊆ C) (h : Kept C z s)
    : Kept C z (doKeyExchange p mutualAuth s) := by
  unfold doKeyExchange
  repeat' with_reducible first
    | assumption | apply secRefuse_kept | apply spdm_kept | refine Kept.ite ?_ ?_ | exact Part.subs hC (by decide)
    | fail_if_no_progress refine Kept.put ?_

theorem doFinish_kept {p : MsgPath} {id : Nat} {leafKey : Option (List Byte)} {ok : Bool} (hC : ([.out, .sec] : List Part) ⊆ C) (h : Kept C z s)
    : Kept C z (doFinish p id leafKey ok s) := by
  unfold doFinish
  repeat' with_reducible first
    | assumption | apply secRefuse_kept | apply spdm_kept | apply updSession_kept | refine Kept.ite ?_ ?_ | exact Part.subs hC (by decide) | intro _
    | split

theorem chunkAccept_kept {t : State} {ch : Nat} {d : List Byte} {x : Xfer} {b : List Byte} (hC : ([.dev, .mem, .sec] : List Part) ⊆ C)
    (e : chunkAccept s ch d x b = some t) (h : Kept C z s) : Kept C z t := by
  unfold chunkAccept at e
  dsimp only at e
  repeat' split at e
  all_goals cases e
  all_goals with_reducible exact Kept.put (devWrite_kept (List.Subset.trans (by decide) hC) h)

theorem chunkRefuse_kept {ch : Nat} {d : List Byte} {x : Xfer} {b : List Byte} (hC : ([.dev, .mem, .sec] : List Part) ⊆ C) (h : Kept C z s)
    : Kept C z (chunkRefuse s ch d x b) := by
  unfold chunkRefuse
  repeat' with_reducible first
    | assumption | apply devUndef_kept | apply failXfer_kept | refine Kept.ite ?_ ?_ | exact Part.subs hC (by decide)
    | fail_if_no_progress refine Kept.put ?_

theorem xferEnd_kept {ch : Nat} {x : Xfer} (hC : ([.host, .sec] : List Part) ⊆ C) (h : Kept C z s) : Kept C z (xferEnd s ch x) := by
  unfold xferEnd
  repeat' with_reducible first
    | assumption | apply secRefuse_kept | apply updChan_kept | refine Kept.ite ?_ ?_ | exact Part.subs hC (by decide)
    | fail_if_no_progress refine Kept.put ?_

theorem doChunk_kept {ch : Nat} {b : List Byte} (hC : ([.dev, .mem, .host, .sec] : List Part) ⊆ C) (h : Kept C z s) : Kept C z (doChunk ch b s) := by
  unfold doChunk
  repeat' with_reducible first
    | assumption | refine chunkAccept_kept (Part.subs hC (by decide)) (by assumption) ?_ | apply chunkRefuse_kept | apply xferEnd_kept
    | refine Kept.ite ?_ ?_ | exact Part.subs hC (by decide) | fail_if_no_progress refine Kept.put ?_ | intro _ | split

theorem secDo_kept {i : Instr} (hC : ([.out, .dev, .mem, .job, .trw, .host, .cfg, .sec] : List Part) ⊆ C) (h : Kept C z s)
    : Kept C z (secDo i s) := by
  unfold secDo
  repeat' with_reducible first
    | assumption | apply snapshotRequestEffect_kept | apply doTenantSwitch_kept | apply doSetKey_kept | apply doReleaseKey_kept
    | apply doOwnerKeyUpdate_kept | apply doKeyExchange_kept | apply doFinish_kept | apply doChunk_kept | exact Part.subs hC (by decide) | intro _
    | split

theorem drainSec_kept {fuel : Nat} (hC : ([.out, .dev, .mem, .job, .trw, .host, .cfg, .sec] : List Part) ⊆ C) (h : Kept C z s) : Kept C z (drainSec fuel s) := by
  induction fuel generalizing s with
  | zero => exact h
  | succ n ih =>
    unfold drainSec
    split
    · next e _ => cases e; exact Kept.ite h (ih (secDo_kept (List.Subset.trans (by decide) hC) (by with_reducible exact Kept.put h)))
    · exact h

theorem secFree_kept (hC : ([.out, .dev, .mem, .job, .trw, .host, .cfg, .sec] : List Part) ⊆ C) (h : Kept C z s) : Kept C z (secFree s) := by
  unfold secFree
  repeat' with_reducible first
    | assumption | apply drainSec_kept | exact Part.subs hC (by decide) | fail_if_no_progress refine Kept.put ?_

theorem secArrive_kept {i : Instr} (hC : ([.out, .dev, .mem, .job, .trw, .host, .cfg, .sec] : List Part) ⊆ C) (h : Kept C z s)
    : Kept C z (secArrive i s) := by
  unfold secArrive
  repeat' with_reducible first
    | assumption | apply secDo_kept | refine Kept.ite ?_ ?_ | exact Part.subs hC (by decide) | fail_if_no_progress refine Kept.put ?_

theorem secRequest_kept {i : Instr} (hC : ([.out, .dev, .mem, .job, .trw, .host, .cfg, .sec] : List Part) ⊆ C) (h : Kept C z s)
    : Kept C z (secRequest i s) := by
  unfold secRequest
  repeat' with_reducible first
    | assumption | apply secArrive_kept | refine Kept.ite ?_ ?_

theorem hrdmCommand_kept {r : Nat} {f : State → State} (hC : ([.out, .host] : List Part) ⊆ C) (h : Kept C z s) (hf : ∀ y0, Kept C z y0 → Kept C z (f y0))
    : Kept C z (hrdmCommand s r f) := by
  unfold hrdmCommand
  repeat' with_reducible first
    | assumption | apply hf | apply accessErr_kept | apply notReady_kept | refine Kept.ite ?_ ?_

theorem tenantSwitchHrdm_kept {r : Nat} (hC : ([.out, .trw, .host, .cfg, .sec] : List Part) ⊆ C) (h : Kept C z s)
    : Kept C z (tenantSwitchHrdm r s) := by
  unfold tenantSwitchHrdm
  repeat' with_reducible first
    | assumption | apply doTenantSwitch_kept | apply hrdmCommand_kept | exact Part.subs hC (by decide) | intro _

theorem tenantSwitchEffect_kept {src : SecSource} (hC : ([.out, .dev, .mem, .job, .trw, .host, .cfg, .sec] : List Part) ⊆ C) (h : Kept C z s)
    : Kept C z (tenantSwitchEffect src s) := by
  unfold tenantSwitchEffect
  repeat' with_reducible first
    | assumption | apply secRequest_kept | apply tenantSwitchHrdm_kept | exact Part.subs hC (by decide) | intro _ | split

theorem weightSetCloseEffect_kept {r : Nat} {k : Nat} (hC : ([.out, .host, .sec] : List Part) ⊆ C) (h : Kept C z s)
    : Kept C z (weightSetCloseEffect r k s) := by
  unfold weightSetCloseEffect
  repeat' with_reducible first
    | assumption | apply doClose_kept | apply hrdmCommand_kept | exact Part.subs hC (by decide) | intro _

theorem weightChunkEffect_kept {ch : Nat} {b : List Byte} (hC : ([.dev, .mem, .host, .sec] : List Part) ⊆ C) (h : Kept C z s)
    : Kept C z (weightChunkEffect ch b s) := by
  unfold weightChunkEffect
  repeat' with_reducible first
    | assumption | apply doChunk_kept | refine Kept.ite ?_ ?_ | exact Part.subs hC (by decide) | fail_if_no_progress refine Kept.put ?_

theorem secAnswer_kept {r : Refused} (hC : ([.out, .hostMem, .job, .host, .sec] : List Part) ⊆ C) (h : Kept C z s) : Kept C z (secAnswer r s) := by
  unfold secAnswer
  repeat' with_reducible first
    | assumption | apply updChan_kept | apply loadDone_kept | apply hrdmResult_kept | apply spdmError_kept | exact Part.subs hC (by decide)
    | fail_if_no_progress refine Kept.put ?_ | intro _ | split

theorem secRefusedEffect_kept (hC : ([.out, .hostMem, .dev, .mem, .job, .trw, .host, .cfg, .tel, .sec] : List Part) ⊆ C) (h : Kept C z s)
    : Kept C z (secRefusedEffect s) := by
  unfold secRefusedEffect
  repeat' with_reducible first
    | assumption | apply bump_kept | apply secFree_kept | apply secAnswer_kept | refine Kept.ite ?_ ?_ | exact Part.subs hC (by decide)
    | fail_if_no_progress refine Kept.put ?_ | intro _ | split

theorem scrubFail_kept {k : StackId} {a : Nat} (hC : ([.out, .hostMem, .dev, .mem, .job, .trw, .host, .cfg, .sec] : List Part) ⊆ C) (h : Kept C z s)
    : Kept C z (scrubFail k a s) := by
  unfold scrubFail
  repeat' with_reducible first
    | assumption | apply raisePart_kept | apply secFree_kept | exact Part.subs hC (by decide) | fail_if_no_progress refine Kept.put ?_

theorem scrubDone_kept (hC : ([.out, .hostMem, .dev, .scratch, .mem, .store, .sem, .vreg, .tile, .job, .fab, .trw, .rink, .post, .regs, .host, .cfg, .tel, .sec, .pwr, .boot] : List Part) ⊆ C) (h : Kept C z s)
    : Kept C z (scrubDone s) := by
  unfold scrubDone
  repeat' with_reducible first
    | assumption | apply storeApply_kept | apply scrubClear_kept | apply spinAfterScrub_kept | apply hrdmResult_kept | apply vendorOk_kept
    | apply secFree_kept | refine Kept.ite ?_ ?_ | exact Part.subs hC (by decide) | fail_if_no_progress refine Kept.put ?_ | intro _ | split

theorem doReport_kept {p : MsgPath} {session : Option Nat} {nonce : List Byte} (hC : ([.out, .sec] : List Part) ⊆ C) (h : Kept C z s)
    : Kept C z (doReport p session nonce s) := by
  unfold doReport
  repeat' with_reducible first
    | assumption | apply spdm_kept | apply updSession_kept | refine Kept.ite ?_ ?_ | exact Part.subs hC (by decide)
    | fail_if_no_progress refine Kept.put ?_ | intro _ | split

theorem answerReports_kept {is : List Instr} (hC : ([.out, .sec] : List Part) ⊆ C) (h : Kept C z s) : Kept C z (answerReports is s) := by
  unfold answerReports
  repeat' with_reducible first
    | assumption | apply doReport_kept | refine forEach_kept ?_ ?_ | exact Part.subs hC (by decide) | intro _ | split

theorem scrubCompleteEffect_kept {failed : Option (StackId × Nat)} (hC : ([.out, .hostMem, .dev, .scratch, .mem, .store, .sem, .vreg, .tile, .job, .fab, .trw, .rink, .post, .regs, .host, .cfg, .tel, .sec, .pwr, .boot] : List Part) ⊆ C) (h : Kept C z s)
    : Kept C z (scrubCompleteEffect failed s) := by
  unfold scrubCompleteEffect
  repeat' with_reducible first
    | assumption | apply scrubFail_kept | apply scrubDone_kept | apply answerReports_kept | refine Kept.ite ?_ ?_ | exact Part.subs hC (by decide)
    | fail_if_no_progress refine Kept.put ?_ | intro _ | split

theorem sealedRangeZeroedEffect_kept {c : Nat} (hC : ([.dev, .mem, .job] : List Part) ⊆ C) (h : Kept C z s)
    : Kept C z (sealedRangeZeroedEffect c s) := by
  unfold sealedRangeZeroedEffect
  repeat' with_reducible first
    | assumption | apply devWrite_kept | refine forEach_kept ?_ ?_ | exact Part.subs hC (by decide) | fail_if_no_progress refine Kept.put ?_
    | intro _

theorem spdmRequest_kept {f : State → State} (h : Kept C z s) (hf : ∀ y0, Kept C z y0 → Kept C z (f y0)) : Kept C z (spdmRequest s f) := by
  unfold spdmRequest
  repeat' with_reducible first
    | assumption | apply hf | refine Kept.ite ?_ ?_

theorem getVersionEffect_kept {p : MsgPath} (hC : ([.out, .sec] : List Part) ⊆ C) (h : Kept C z s) : Kept C z (getVersionEffect p s) := by
  unfold getVersionEffect
  repeat' with_reducible first
    | assumption | apply spdm_kept | apply spdmRequest_kept | exact Part.subs hC (by decide) | fail_if_no_progress refine Kept.put ?_ | intro _

theorem getCapabilitiesEffect_kept {p : MsgPath} {v12 : Bool} (hC : ([.out, .sec] : List Part) ⊆ C) (h : Kept C z s)
    : Kept C z (getCapabilitiesEffect p v12 s) := by
  unfold getCapabilitiesEffect
  repeat' with_reducible first
    | assumption | apply spdm_kept | apply spdmRequest_kept | refine Kept.ite ?_ ?_ | exact Part.subs hC (by decide)
    | fail_if_no_progress refine Kept.put ?_ | intro _

theorem challengeEffect_kept {p : MsgPath} {nonce : List Byte} (hC : ([.out] : List Part) ⊆ C) (h : Kept C z s)
    : Kept C z (challengeEffect p nonce s) := by
  unfold challengeEffect
  repeat' with_reducible first
    | assumption | apply spdm_kept | apply spdmRequest_kept | exact Part.subs hC (by decide) | fail_if_no_progress refine Kept.put ?_ | intro _

theorem getMeasurementsEffect_kept {p : MsgPath} {i : Nat} (hC : ([.out] : List Part) ⊆ C) (h : Kept C z s)
    : Kept C z (getMeasurementsEffect p i s) := by
  unfold getMeasurementsEffect
  repeat' with_reducible first
    | assumption | apply spdm_kept | apply spdmError_kept | apply spdmRequest_kept | refine Kept.ite ?_ ?_ | exact Part.subs hC (by decide) | intro _

theorem inSession_kept {p : MsgPath} {id : Nat} {code : Nat} {f : State → State} (hC : ([.out] : List Part) ⊆ C) (h : Kept C z s) (hf : ∀ y0, Kept C z y0 → Kept C z (f y0))
    : Kept C z (inSession p id code f s) := by
  unfold inSession
  repeat' with_reducible first
    | assumption | apply hf | apply spdm_kept | apply spdmError_kept | apply spdmRequest_kept | refine Kept.ite ?_ ?_
    | exact Part.subs hC (by decide) | intro _

theorem endSessionEffect_kept {p : MsgPath} {id : Nat} (hC : ([.out, .sec] : List Part) ⊆ C) (h : Kept C z s)
    : Kept C z (endSessionEffect p id s) := by
  unfold endSessionEffect
  repeat' with_reducible first
    | assumption | apply inSession_kept | exact Part.subs hC (by decide) | fail_if_no_progress refine Kept.put ?_ | intro _

theorem chunkSendEffect_kept {p : MsgPath} {handle : Nat} {bytes : List Byte} {last : Bool} (hC : ([.out, .sec] : List Part) ⊆ C) (h : Kept C z s)
    : Kept C z (chunkSendEffect p handle bytes last s) := by
  unfold chunkSendEffect
  repeat' with_reducible first
    | assumption | apply spdm_kept | apply spdmRequest_kept | refine Kept.ite ?_ ?_ | exact Part.subs hC (by decide)
    | fail_if_no_progress refine Kept.put ?_ | intro _

theorem chunkGetEffect_kept {p : MsgPath} {handle : Nat} {seqNo : Nat} (hC : ([.out] : List Part) ⊆ C) (h : Kept C z s)
    : Kept C z (chunkGetEffect p handle seqNo s) := by
  unfold chunkGetEffect
  repeat' with_reducible first
    | assumption | apply spdm_kept | apply spdmError_kept | apply spdmRequest_kept | refine Kept.ite ?_ ?_ | exact Part.subs hC (by decide) | intro _

theorem reportEffect_kept {p : MsgPath} {session : Option Nat} {nonce : List Byte} (hC : ([.out, .sec] : List Part) ⊆ C) (h : Kept C z s)
    : Kept C z (reportEffect p session nonce s) := by
  unfold reportEffect
  repeat' with_reducible first
    | assumption | apply doReport_kept | apply spdmRequest_kept | refine Kept.ite ?_ ?_ | exact Part.subs hC (by decide)
    | fail_if_no_progress refine Kept.put ?_ | intro _

theorem guarded_kept {page : Nat} {off : Nat} {r : Nat} {ok : Bool} {f : State → State} (hC : ([.out, .host] : List Part) ⊆ C) (h : Kept C z s) (hf : ∀ y0, Kept C z y0 → Kept C z (f y0))
    : Kept C z (guarded s page off r ok f) := by
  unfold guarded
  repeat' with_reducible first
    | assumption | apply hf | apply accessErr_kept | apply notReady_kept | refine Kept.ite ?_ ?_

theorem courseFenceEffect_kept {r : Nat} {n : Nat} (hC : ([.out, .tile, .host] : List Part) ⊆ C) (h : Kept C z s)
    : Kept C z (courseFenceEffect r n s) := by
  unfold courseFenceEffect
  repeat' with_reducible first
    | assumption | apply updCourse_kept | apply guarded_kept | exact Part.subs hC (by decide) | intro _

theorem courseBistEffect_kept {r : Nat} {n : Nat} (hC : ([.out, .tile, .host, .pwr] : List Part) ⊆ C) (h : Kept C z s)
    : Kept C z (courseBistEffect r n s) := by
  unfold courseBistEffect
  repeat' with_reducible first
    | assumption | apply updCourse_kept | apply guarded_kept | refine Kept.ite ?_ ?_ | exact Part.subs hC (by decide)
    | fail_if_no_progress refine Kept.put ?_ | intro _

theorem bistDoneEffect_kept {n : Nat} {pass : Bool} (hC : ([.out, .hostMem, .tile, .host] : List Part) ⊆ C) (h : Kept C z s)
    : Kept C z (bistDoneEffect n pass s) := by
  unfold bistDoneEffect
  repeat' with_reducible first
    | assumption | apply updCourse_kept | apply blockEvent_kept | apply raisePart_kept | refine Kept.ite ?_ ?_ | exact Part.subs hC (by decide)

theorem courseReleaseEffect_kept {r : Nat} {n : Nat} (hC : ([.out, .store, .sem, .vreg, .tile, .host] : List Part) ⊆ C) (h : Kept C z s)
    : Kept C z (courseReleaseEffect r n s) := by
  unfold courseReleaseEffect
  repeat' with_reducible first
    | assumption | apply updCourse_kept | apply undefCourse_kept | apply zeroVregs_kept | apply zeroSems_kept | apply spinReload_kept
    | apply guarded_kept | exact Part.subs hC (by decide) | intro _

theorem unitOutOfServiceEffect_kept {r : Nat} {u : MediaUnit} (hC : ([.out, .rink, .host] : List Part) ⊆ C) (h : Kept C z s)
    : Kept C z (unitOutOfServiceEffect r u s) := by
  unfold unitOutOfServiceEffect
  repeat' with_reducible first
    | assumption | apply updUnit_kept | apply guarded_kept | refine Kept.ite ?_ ?_ | exact Part.subs hC (by decide) | intro _

theorem unitSelfTestEffect_kept {r : Nat} {u : MediaUnit} (hC : ([.out, .rink, .host] : List Part) ⊆ C) (h : Kept C z s)
    : Kept C z (unitSelfTestEffect r u s) := by
  unfold unitSelfTestEffect
  repeat' with_reducible first
    | assumption | apply updUnit_kept | apply guarded_kept | exact Part.subs hC (by decide) | intro _

theorem selfTestDoneEffect_kept {u : MediaUnit} {pass : Bool} (hC : ([.out, .rink, .host] : List Part) ⊆ C) (h : Kept C z s)
    : Kept C z (selfTestDoneEffect u pass s) := by
  unfold selfTestDoneEffect
  repeat' with_reducible first
    | assumption | apply updUnit_kept | apply blockEvent_kept | refine Kept.ite ?_ ?_ | exact Part.subs hC (by decide)

theorem unitReturnToServiceEffect_kept {r : Nat} {u : MediaUnit} (hC : ([.out, .rink, .host] : List Part) ⊆ C) (h : Kept C z s)
    : Kept C z (unitReturnToServiceEffect r u s) := by
  unfold unitReturnToServiceEffect
  repeat' with_reducible first
    | assumption | apply updUnit_kept | apply guarded_kept | exact Part.subs hC (by decide) | intro _

theorem idleScrubEffect_kept {k : Nat} {lines : Nat} {errors : List Upset} {s0 : State} (hC : ([.out, .hostMem, .mem, .host, .tel] : List Part) ⊆ C) (h : Kept C z s0)
    : Kept C z (idleScrubEffect k lines errors s0) := by
  unfold idleScrubEffect
  repeat' with_reducible first
    | assumption | apply updStack_kept | apply befall_kept | apply meetLines_kept | apply meetSrams_kept | refine Kept.ite ?_ ?_
    | exact Part.subs hC (by decide)

theorem boundaryScanInstructionEffect_kept {ir : Nat} (hC : ([.out, .boot] : List Part) ⊆ C) (h : Kept C z s)
    : Kept C z (boundaryScanInstructionEffect ir s) := by
  unfold boundaryScanInstructionEffect
  repeat' with_reducible first
    | assumption | apply emit_kept | refine Kept.ite ?_ ?_ | exact Part.subs hC (by decide) | fail_if_no_progress refine Kept.put ?_

theorem testLogicResetEffect_kept (hC : ([.out, .fab, .host, .sec, .pwr, .boot] : List Part) ⊆ C) (h : Kept C z s)
    : Kept C z (testLogicResetEffect s) := by
  unfold testLogicResetEffect
  repeat' with_reducible first
    | assumption | apply restart_kept | refine Kept.ite ?_ ?_ | exact Part.subs hC (by decide) | fail_if_no_progress refine Kept.put ?_

theorem rinkGuard_kept {c : Nat} {slot : Nat} {cause : Nat} {a : Nat} (hC : ([.out, .hostMem, .dev, .scratch, .mem, .store, .sem, .vreg, .tile, .job, .fab, .trw, .rink, .post, .host, .cfg, .tel, .sec, .pwr] : List Part) ⊆ C) (h : Kept C z s)
    : Kept C z (rinkGuard s c slot cause a) := by
  unfold rinkGuard
  repeat' with_reducible first
    | assumption | apply guardFault_kept

theorem withRanges_kept {t : RTask} {rd : List (Nat × Nat)} {store : List (Nat × Nat)} {wr : List (Nat × Nat)} {f : State → State} (hC : ([.out, .hostMem, .dev, .scratch, .mem, .store, .sem, .vreg, .tile, .job, .fab, .trw, .rink, .post, .host, .cfg, .tel, .sec, .pwr] : List Part) ⊆ C) (h : Kept C z s) (hf : ∀ y0, Kept C z y0 → Kept C z (f y0))
    : Kept C z (withRanges s t rd store wr f) := by
  unfold withRanges
  repeat' with_reducible first
    | assumption | apply hf | apply memFault_kept | apply meetRanges_kept | apply rinkGuard_kept | exact Part.subs hC (by decide) | intro _ | split
    | dsimp only

theorem storeUndef_kept {a : Nat} {n : Nat} (hC : ([.dev, .mem] : List Part) ⊆ C) (h : Kept C z s) : Kept C z (storeUndef s a n) := by
  unfold storeUndef
  repeat' with_reducible first
    | assumption | apply devUndef_kept | refine Kept.ite ?_ ?_ | exact Part.subs hC (by decide) | fail_if_no_progress refine Kept.put ?_

theorem freeEntry_kept {t : RTask} (hC : ([.dev] : List Part) ⊆ C) (h : Kept C z s) : Kept C z (freeEntry s t) := by
  unfold freeEntry
  repeat' with_reducible first
    | assumption | apply setEntryState_kept | refine Kept.ite ?_ ?_ | exact Part.subs hC (by decide) | intro _ | split

theorem settleUnit_kept {u : Option MediaUnit} (hC : ([.rink] : List Part) ⊆ C) (h : Kept C z s) : Kept C z (settleUnit s u) := by
  unfold settleUnit
  repeat' with_reducible first
    | assumption | apply updUnit_kept | refine Kept.ite ?_ ?_ | exact Part.subs hC (by decide) | intro _ | split

theorem startUnit_kept {u : MediaUnit} (hC : ([.rink] : List Part) ⊆ C) (h : Kept C z s) : Kept C z (startUnit s u) := by
  unfold startUnit
  repeat' with_reducible first
    | assumption | apply updUnit_kept

theorem advanceHead_kept {c : Nat} {enc : Bool} {x0 : Nat} (hC : ([.rink] : List Part) ⊆ C) (h : Kept C z s)
    : Kept C z (advanceHead s c enc x0) := by
  induction x0 generalizing s c enc with
  | zero =>
    unfold advanceHead
    repeat' with_reducible first
      | assumption
  | succ n ih =>
    unfold advanceHead
    repeat' with_reducible first
      | assumption | apply ih | refine Kept.ite ?_ ?_ | fail_if_no_progress refine Kept.put ?_

theorem rinkSignal_kept {t : RTask} (hC : ([.out, .hostMem, .dev, .scratch, .mem, .store, .sem, .vreg, .tile, .job, .fab, .trw, .rink, .post, .host, .cfg, .tel, .sec, .pwr] : List Part) ⊆ C) (h : Kept C z s)
    : Kept C z (rinkSignal s t) := by
  unfold rinkSignal
  repeat' with_reducible first
    | assumption | apply semSignal_kept | apply rinkGuard_kept | refine Kept.ite ?_ ?_

theorem rinkFinish_kept {t : RTask} {status : Nat} {comp : List Byte} (hC : ([.out, .hostMem, .dev, .scratch, .mem, .store, .sem, .vreg, .tile, .job, .fab, .trw, .rink, .post, .host, .cfg, .tel, .sec, .pwr] : List Part) ⊆ C) (h : Kept C z s)
    : Kept C z (rinkFinish s t status comp) := by
  unfold rinkFinish
  repeat' with_reducible first
    | assumption | apply devWrite_kept | apply signalSource_kept | apply updSpill_kept | apply settleUnit_kept | apply advanceHead_kept
    | apply rinkSignal_kept | refine Kept.ite ?_ ?_ | exact Part.subs hC (by decide) | fail_if_no_progress refine Kept.put ?_

theorem takeSlot_kept {take : State → Nat → Nat → List Byte → State} {c : Nat} {enc : Bool} {slot : Nat} (hC : ([.out, .hostMem, .dev, .scratch, .mem, .store, .sem, .vreg, .tile, .job, .fab, .trw, .rink, .post, .host, .cfg, .tel, .sec, .pwr] : List Part) ⊆ C) (h : Kept C z s) (htake : ∀ y0 y1 y2 y3, Kept C z y0 → Kept C z (take y0 y1 y2 y3))
    : Kept C z (takeSlot take s c enc slot) := by
  unfold takeSlot
  repeat' with_reducible first
    | assumption | apply htake | apply memFault_kept | apply meetRanges_kept | exact Part.subs hC (by decide) | intro _ | split | dsimp only

theorem takeTurns_kept {take : State → Nat → Nat → List Byte → State} {enc : Bool} {x0 : Nat} {x1 : State} (hC : ([.out, .hostMem, .dev, .scratch, .mem, .store, .sem, .vreg, .tile, .job, .fab, .trw, .rink, .post, .host, .cfg, .tel, .sec, .pwr] : List Part) ⊆ C) (h : Kept C z x1) (htake : ∀ y0 y1 y2 y3, Kept C z y0 → Kept C z (take y0 y1 y2 y3))
    : Kept C z (takeTurns take enc x0 x1) := by
  induction x0 generalizing enc x1 with
  | zero =>
    unfold takeTurns
    repeat' with_reducible first
      | assumption
  | succ n ih =>
    unfold takeTurns
    repeat' with_reducible first
      | assumption | apply ih | apply htake | apply takeSlot_kept | exact Part.subs hC (by decide) | fail_if_no_progress refine Kept.put ?_ | intro _
      | split

theorem pollRing_kept {take : State → Nat → Nat → List Byte → State} {c : Nat} {enc : Bool} (hC : ([.out, .hostMem, .dev, .scratch, .mem, .store, .sem, .vreg, .tile, .job, .fab, .trw, .rink, .post, .host, .cfg, .tel, .sec, .pwr] : List Part) ⊆ C) (h : Kept C z s) (htake : ∀ y0 y1 y2 y3, Kept C z y0 → Kept C z (take y0 y1 y2 y3))
    : Kept C z (pollRing take s c enc) := by
  unfold pollRing
  repeat' with_reducible first
    | assumption | apply htake | apply memFault_kept | apply meetRanges_kept | apply rinkGuard_kept | apply takeTurns_kept | refine Kept.ite ?_ ?_
    | exact Part.subs hC (by decide) | fail_if_no_progress refine Kept.put ?_ | intro _ | split | dsimp only

theorem ingestEnd_kept {t : RTask} {status : Nat} (hC : ([.out, .hostMem, .dev, .scratch, .mem, .store, .sem, .vreg, .tile, .job, .fab, .trw, .rink, .post, .host, .cfg, .tel, .sec, .pwr] : List Part) ⊆ C) (h : Kept C z s)
    : Kept C z (ingestEnd s t status) := by
  unfold ingestEnd
  repeat' with_reducible first
    | assumption | apply freeEntry_kept | apply rinkFinish_kept | exact Part.subs hC (by decide)

theorem takeIngest_kept {c : Nat} {slot : Nat} {d : List Byte} (hC : ([.out, .hostMem, .dev, .scratch, .mem, .store, .sem, .vreg, .tile, .job, .fab, .trw, .rink, .post, .host, .cfg, .tel, .sec, .pwr] : List Part) ⊆ C) (h : Kept C z s)
    : Kept C z (takeIngest s c slot d) := by
  unfold takeIngest
  repeat' with_reducible first
    | assumption | apply entSet_kept | apply updStrm_kept | apply updSpill_kept | apply rinkFinish_kept | apply ingestEnd_kept
    | refine Kept.ite ?_ ?_ | exact Part.subs hC (by decide) | fail_if_no_progress refine Kept.put ?_ | intro _ | split

theorem atPhase_kept {c : Nat} {enc : Bool} {slot : Nat} {op : Nat} {ph : RPhase} {f : RTask → State} (h : Kept C z s) (hf : ∀ y0, Kept C z (f y0))
    : Kept C z (atPhase s c enc slot op ph f) := by
  unfold atPhase
  repeat' with_reducible first
    | assumption | apply hf | refine Kept.ite ?_ ?_ | intro _ | split

theorem ingestOpenEffect_kept {c : Nat} {slot : Nat} (hC : ([.out, .hostMem, .dev, .scratch, .mem, .store, .sem, .vreg, .tile, .job, .fab, .trw, .rink, .post, .host, .cfg, .tel, .sec, .pwr] : List Part) ⊆ C) (h : Kept C z s)
    : Kept C z (ingestOpenEffect c slot s) := by
  unfold ingestOpenEffect
  repeat' with_reducible first
    | assumption | apply entPut_kept | apply updStrm_kept | apply withRanges_kept | apply rinkFinish_kept | apply atPhase_kept
    | refine Kept.ite ?_ ?_ | exact Part.subs hC (by decide) | intro _ | split

theorem ingestCloseEffect_kept {c : Nat} {slot : Nat} (hC : ([.out, .hostMem, .dev, .scratch, .mem, .store, .sem, .vreg, .tile, .job, .fab, .trw, .rink, .post, .host, .cfg, .tel, .sec, .pwr] : List Part) ⊆ C) (h : Kept C z s)
    : Kept C z (ingestCloseEffect c slot s) := by
  unfold ingestCloseEffect
  repeat' with_reducible first
    | assumption | apply setEntryState_kept | apply updStrm_kept | apply rinkFinish_kept | apply ingestEnd_kept | apply atPhase_kept
    | exact Part.subs hC (by decide) | intro _ | split

theorem decodeEffect_kept {c : Nat} {slot : Nat} {u : MediaUnit} (hC : ([.out, .hostMem, .dev, .scratch, .mem, .store, .sem, .vreg, .tile, .job, .fab, .trw, .rink, .post, .host, .cfg, .tel, .sec, .pwr] : List Part) ⊆ C) (h : Kept C z s)
    : Kept C z (decodeEffect c slot u s) := by
  unfold decodeEffect
  repeat' with_reducible first
    | assumption | apply setEntryState_kept | apply putTask_kept | apply updSpill_kept | apply withRanges_kept | apply startUnit_kept
    | apply ingestEnd_kept | apply atPhase_kept | refine Kept.ite ?_ ?_ | exact Part.subs hC (by decide) | intro _ | split

theorem putErr_kept {c : Nat} {r : List Byte} (hC : ([.out, .rink, .host] : List Part) ⊆ C) (h : Kept C z s) : Kept C z (putErr s c r) := by
  unfold putErr
  repeat' with_reducible first
    | assumption | apply blockEvent_kept | refine Kept.ite ?_ ?_ | exact Part.subs hC (by decide) | fail_if_no_progress refine Kept.put ?_

theorem noteFrame_kept {e : Nat} {t : RTask} {f : Finding} {j : Judged} (hC : ([.dev, .mem, .rink] : List Part) ⊆ C) (h : Kept C z s)
    : Kept C z (noteFrame s e t f j) := by
  unfold noteFrame
  repeat' with_reducible first
    | assumption | apply entSet_kept | apply updStrm_kept | apply storeUndef_kept | refine Kept.ite ?_ ?_ | exact Part.subs hC (by decide)

theorem writePlanes_kept {t : RTask} (hC : ([.dev, .mem] : List Part) ⊆ C) (h : Kept C z s) : Kept C z (writePlanes s t) := by
  unfold writePlanes
  repeat' with_reducible first
    | assumption | apply devWrite_kept | refine forEach_kept ?_ ?_ | exact Part.subs hC (by decide) | intro _

theorem countUnit_kept {u : MediaUnit} {errors : Nat} (hC : ([.tel] : List Part) ⊆ C) (h : Kept C z s) : Kept C z (countUnit s u errors) := by
  unfold countUnit
  repeat' with_reducible first
    | assumption | apply bump_kept

theorem unitEnd_kept {t : RTask} {status : Nat} (hC : ([.out, .hostMem, .dev, .scratch, .mem, .store, .sem, .vreg, .tile, .job, .fab, .trw, .rink, .post, .host, .cfg, .tel, .sec, .pwr] : List Part) ⊆ C) (h : Kept C z s)
    : Kept C z (unitEnd s t status) := by
  unfold unitEnd
  repeat' with_reducible first
    | assumption | apply ingestEnd_kept | apply putErr_kept | apply noteFrame_kept | apply countUnit_kept | refine forEach_kept ?_ ?_
    | exact Part.subs hC (by decide) | intro _ | split

theorem afterDecode_kept {t : RTask} {audio : Bool} {x : Strm} {coding : Nat} {f : Finding} (hC : ([.out, .hostMem, .dev, .scratch, .mem, .store, .sem, .vreg, .tile, .job, .fab, .trw, .rink, .post, .host, .cfg, .tel, .sec, .pwr] : List Part) ⊆ C) (h : Kept C z s)
    : Kept C z (afterDecode s t audio x coding f) := by
  unfold afterDecode
  repeat' with_reducible first
    | assumption | apply devWrite_kept | apply putTask_kept | apply updSpill_kept | apply withRanges_kept | apply settleUnit_kept
    | apply writePlanes_kept | apply unitEnd_kept | refine Kept.ite ?_ ?_ | exact Part.subs hC (by decide) | intro _

theorem withBlock_kept {t : RTask} {audio : Bool} {f : State → State} (hC : ([.out, .hostMem, .dev, .scratch, .mem, .store, .sem, .vreg, .tile, .job, .fab, .trw, .rink, .post, .host, .cfg, .tel, .sec, .pwr] : List Part) ⊆ C) (h : Kept C z s) (hf : ∀ y0, Kept C z y0 → Kept C z (f y0))
    : Kept C z (withBlock s t audio f) := by
  unfold withBlock
  repeat' with_reducible first
    | assumption | apply hf | apply withRanges_kept | refine Kept.ite ?_ ?_

theorem decodeCompleteEffect_kept {c : Nat} {slot : Nat} {f : Finding} (hC : ([.out, .hostMem, .dev, .scratch, .mem, .store, .sem, .vreg, .tile, .job, .fab, .trw, .rink, .post, .host, .cfg, .tel, .sec, .pwr] : List Part) ⊆ C) (h : Kept C z s)
    : Kept C z (decodeCompleteEffect c slot f s) := by
  unfold decodeCompleteEffect
  repeat' with_reducible first
    | assumption | apply putTask_kept | apply ingestEnd_kept | apply afterDecode_kept | apply withBlock_kept | refine Kept.ite ?_ ?_
    | exact Part.subs hC (by decide) | intro _ | split

theorem shapeEffect_kept {c : Nat} {slot : Nat} {n : Fin 8} (hC : ([.out, .hostMem, .dev, .scratch, .mem, .store, .sem, .vreg, .tile, .job, .fab, .trw, .rink, .post, .host, .cfg, .tel, .sec, .pwr] : List Part) ⊆ C) (h : Kept C z s)
    : Kept C z (shapeEffect c slot n s) := by
  unfold shapeEffect
  repeat' with_reducible first
    | assumption | apply setEntryState_kept | apply putTask_kept | apply updSpill_kept | apply withRanges_kept | apply startUnit_kept
    | apply ingestEnd_kept | apply withBlock_kept | refine Kept.ite ?_ ?_ | exact Part.subs hC (by decide) | intro _ | split

theorem shapeCompleteEffect_kept {c : Nat} {slot : Nat} (hC : ([.out, .hostMem, .dev, .scratch, .mem, .store, .sem, .vreg, .tile, .job, .fab, .trw, .rink, .post, .host, .cfg, .tel, .sec, .pwr] : List Part) ⊆ C) (h : Kept C z s)
    : Kept C z (shapeCompleteEffect c slot s) := by
  unfold shapeCompleteEffect
  repeat' with_reducible first
    | assumption | apply devWrite_kept | apply withRanges_kept | apply countUnit_kept | apply unitEnd_kept | refine forEach_kept ?_ ?_
    | refine Kept.ite ?_ ?_ | exact Part.subs hC (by decide) | intro _ | split

theorem encodeEnd_kept {t : RTask} {status : Nat} {last : Nat} (hC : ([.out, .hostMem, .dev, .scratch, .mem, .store, .sem, .vreg, .tile, .job, .fab, .trw, .rink, .post, .host, .cfg, .tel, .sec, .pwr] : List Part) ⊆ C) (h : Kept C z s)
    : Kept C z (encodeEnd s t status last) := by
  unfold encodeEnd
  repeat' with_reducible first
    | assumption | apply rinkFinish_kept

theorem takeEncode_kept {c : Nat} {slot : Nat} {d : List Byte} (hC : ([.out, .hostMem, .dev, .scratch, .mem, .store, .sem, .vreg, .tile, .job, .fab, .trw, .rink, .post, .host, .cfg, .tel, .sec, .pwr] : List Part) ⊆ C) (h : Kept C z s)
    : Kept C z (takeEncode s c slot d) := by
  unfold takeEncode
  repeat' with_reducible first
    | assumption | apply encodeEnd_kept | refine Kept.ite ?_ ?_ | exact Part.subs hC (by decide) | fail_if_no_progress refine Kept.put ?_

theorem encodeOpenEffect_kept {c : Nat} {slot : Nat} (hC : ([.out, .hostMem, .dev, .scratch, .mem, .store, .sem, .vreg, .tile, .job, .fab, .trw, .rink, .post, .host, .cfg, .tel, .sec, .pwr] : List Part) ⊆ C) (h : Kept C z s)
    : Kept C z (encodeOpenEffect c slot s) := by
  unfold encodeOpenEffect
  repeat' with_reducible first
    | assumption | apply entPut_kept | apply updStrm_kept | apply withRanges_kept | apply rinkFinish_kept | apply atPhase_kept | apply encodeEnd_kept
    | refine Kept.ite ?_ ?_ | exact Part.subs hC (by decide) | intro _ | split | dsimp only

theorem encodeCloseEffect_kept {c : Nat} {slot : Nat} (hC : ([.out, .hostMem, .dev, .scratch, .mem, .store, .sem, .vreg, .tile, .job, .fab, .trw, .rink, .post, .host, .cfg, .tel, .sec, .pwr] : List Part) ⊆ C) (h : Kept C z s)
    : Kept C z (encodeCloseEffect c slot s) := by
  unfold encodeCloseEffect
  repeat' with_reducible first
    | assumption | apply devWrite_kept | apply setEntryState_kept | apply updStrm_kept | apply withRanges_kept | apply rinkFinish_kept
    | apply atPhase_kept | apply encodeEnd_kept | refine forEach_kept ?_ ?_ | exact Part.subs hC (by decide) | intro _ | split

theorem encodeEffect_kept {c : Nat} {slot : Nat} {n : Fin 4} (hC : ([.out, .hostMem, .dev, .scratch, .mem, .store, .sem, .vreg, .tile, .job, .fab, .trw, .rink, .post, .host, .cfg, .tel, .sec, .pwr] : List Part) ⊆ C) (h : Kept C z s)
    : Kept C z (encodeEffect c slot n s) := by
  unfold encodeEffect
  repeat' with_reducible first
    | assumption | apply setEntryState_kept | apply putTask_kept | apply withRanges_kept | apply startUnit_kept | apply atPhase_kept
    | apply encodeEnd_kept | refine Kept.ite ?_ ?_ | exact Part.subs hC (by decide) | intro _ | split

theorem encodeAttemptCompleteEffect_kept {c : Nat} {slot : Nat} (hC : ([.rink] : List Part) ⊆ C) (h : Kept C z s)
    : Kept C z (encodeAttemptCompleteEffect c slot s) := by
  unfold encodeAttemptCompleteEffect
  repeat' with_reducible first
    | assumption | apply putTask_kept | refine Kept.ite ?_ ?_ | exact Part.subs hC (by decide) | intro _ | split

theorem pictureCompleteEffect_kept {c : Nat} {slot : Nat} (hC : ([.out, .hostMem, .dev, .scratch, .mem, .store, .sem, .vreg, .tile, .job, .fab, .trw, .rink, .post, .host, .cfg, .tel, .sec, .pwr] : List Part) ⊆ C) (h : Kept C z s)
    : Kept C z (pictureCompleteEffect c slot s) := by
  unfold pictureCompleteEffect
  repeat' with_reducible first
    | assumption | apply bump_kept | apply devWrite_kept | apply updStrm_kept | apply withRanges_kept | apply storeUndef_kept | apply freeEntry_kept
    | apply rinkFinish_kept | apply countUnit_kept | refine Kept.ite ?_ ?_ | exact Part.subs hC (by decide) | intro _ | split

theorem clearAcc_kept {page : Nat} (hC : ([.host] : List Part) ⊆ C) (h : Kept C z s) : Kept C z (clearAcc s page) := by
  unfold clearAcc
  repeat' with_reducible first
    | assumption | refine Kept.ite ?_ ?_ | fail_if_no_progress refine Kept.put ?_

theorem readWord_kept {r : Nat} {off : Nat} (hC : ([.job, .host] : List Part) ⊆ C) (h : Kept C z s) : Kept C z (readWord s r off).2 := by
  unfold readWord
  repeat' with_reducible first
    | assumption | apply poolTaken_kept | apply clearAcc_kept | refine Kept.ite ?_ ?_ | exact Part.subs hC (by decide)
    | fail_if_no_progress refine Kept.put ?_ | intro _ | split | dsimp only

theorem readWords_kept {r : Nat} {off : Nat} {x0 : Nat} (hC : ([.job, .host] : List Part) ⊆ C) (h : Kept C z s)
    : Kept C z (readWords s r off x0).2 := by
  induction x0 generalizing s r off with
  | zero =>
    unfold readWords
    repeat' with_reducible first
      | assumption
  | succ n ih =>
    unfold readWords
    repeat' with_reducible first
      | assumption | apply ih | apply readWord_kept

theorem updCmd_kept {c : Nat} {id : Nat} {f : TrwCmd → TrwCmd} (hC : ([.job] : List Part) ⊆ C) (h : Kept C z s) : Kept C z (updCmd s c id f) := by
  unfold updCmd
  repeat' with_reducible first
    | assumption | apply updTrn_kept

theorem beginOn_kept {c : Nat} {k : Nat} {x : TrwCmd} (hC : ([.job] : List Part) ⊆ C) (h : Kept C z s) : Kept C z (beginOn s c k x) := by
  unfold beginOn
  repeat' with_reducible first
    | assumption | apply updCmd_kept

theorem endOn_kept {c : Nat} {k : Nat} {x : TrwCmd} (hC : ([.job] : List Part) ⊆ C) (h : Kept C z s) : Kept C z (endOn s c k x) := by
  unfold endOn
  repeat' with_reducible first
    | assumption | apply updTrn_kept | apply updCmd_kept

theorem failOn_kept {c : Nat} {k : Nat} {idx : Nat} {code : Nat} {x : TrwCmd} (hC : ([.job] : List Part) ⊆ C) (h : Kept C z s)
    : Kept C z (failOn s c k idx code x) := by
  unfold failOn
  repeat' with_reducible first
    | assumption | apply updCmd_kept | apply endOn_kept

theorem failAll_kept {c : Nat} {code : Nat} {x : TrwCmd} (hC : ([.job] : List Part) ⊆ C) (h : Kept C z s) : Kept C z (failAll s c code x) := by
  unfold failAll
  repeat' with_reducible first
    | assumption | apply updCmd_kept

theorem didOne_kept {c : Nat} {x : TrwCmd} (hC : ([.job] : List Part) ⊆ C) (h : Kept C z s) : Kept C z (didOne s c x) := by
  unfold didOne
  repeat' with_reducible first
    | assumption | apply updCmd_kept

theorem recWrite_kept {r : Rec} {off : Nat} {bs : List Byte} (hC : ([.dev, .mem] : List Part) ⊆ C) (h : Kept C z s)
    : Kept C z (recWrite s r off bs) := by
  unfold recWrite
  repeat' with_reducible first
    | assumption | apply devWrite_kept

theorem startRec_kept {k : Nat} {idx : Nat} (hC : ([.trw] : List Part) ⊆ C) (h : Kept C z s) : Kept C z (startRec s k idx) := by
  unfold startRec
  repeat' with_reducible first
    | assumption | apply updTrowel_kept

theorem storeDigest_kept {r : Rec} (hC : ([.dev, .mem] : List Part) ⊆ C) (h : Kept C z s) : Kept C z (storeDigest s r) := by
  unfold storeDigest
  repeat' with_reducible first
    | assumption | apply recWrite_kept

theorem countWritten_kept {k : Nat} {nans : Nat} {ovf : Nat} {flush : Nat} (hC : ([.tel] : List Part) ⊆ C) (h : Kept C z s)
    : Kept C z (countWritten s k nans ovf flush) := by
  unfold countWritten
  repeat' with_reducible first
    | assumption | apply bump_kept

theorem applySweep_kept {k : Nat} {r : Rec} {blk : List Byte} {step : Nat} (hC : ([.dev, .mem, .tel] : List Part) ⊆ C) (h : Kept C z s)
    : Kept C z (applySweep s k r blk step) := by
  unfold applySweep
  repeat' with_reducible first
    | assumption | apply recWrite_kept | apply storeDigest_kept | apply countWritten_kept | refine Kept.ite ?_ ?_ | exact Part.subs hC (by decide)

theorem recMeet_kept {c : Nat} {r : Rec} {rs : List (Nat × Nat)} (hC : ([.out, .hostMem, .mem, .host, .tel] : List Part) ⊆ C) (h : Kept C z s)
    : Kept C z (recMeet s c r rs) := by
  unfold recMeet
  repeat' with_reducible first
    | assumption | apply meetRanges_kept

theorem sweepRun_kept {c : Nat} {k : Nat} {x : TrwCmd} {step : Nat} {x0 : List Rec} (hC : ([.out, .hostMem, .dev, .scratch, .mem, .store, .sem, .vreg, .tile, .job, .fab, .trw, .rink, .post, .host, .cfg, .tel, .sec, .pwr] : List Part) ⊆ C) (h : Kept C z s)
    : Kept C z (sweepRun s c k x step x0) := by
  induction x0 generalizing s c k x step with
  | nil =>
    unfold sweepRun
    repeat' with_reducible first
      | assumption | apply updTrowel_kept | apply updTrn_kept | apply memFault_kept | apply turnGrads_kept | apply updCmd_kept | apply endOn_kept
      | apply startRec_kept | apply applySweep_kept | apply recMeet_kept | refine Kept.ite ?_ ?_ | exact Part.subs hC (by decide)
  | cons r rest ih =>
    unfold sweepRun
    repeat' with_reducible first
      | assumption | apply ih | apply updTrowel_kept | apply updTrn_kept | apply memFault_kept | apply turnGrads_kept | apply updCmd_kept
      | apply endOn_kept | apply startRec_kept | apply applySweep_kept | apply recMeet_kept | refine Kept.ite ?_ ?_ | exact Part.subs hC (by decide)
      | intro _ | split | dsimp only

theorem sweepEffect_kept {k : Nat} {s0 : State} (hC : ([.out, .hostMem, .dev, .scratch, .mem, .store, .sem, .vreg, .tile, .job, .fab, .trw, .rink, .post, .host, .cfg, .tel, .sec, .pwr] : List Part) ⊆ C) (h : Kept C z s0)
    : Kept C z (sweepEffect k s0) := by
  unfold sweepEffect
  repeat' with_reducible first
    | assumption | apply updTrn_kept | apply faultJob_kept | apply memFault_kept | apply meetRanges_kept | apply beginOn_kept | apply sweepRun_kept
    | refine Kept.ite ?_ ?_ | exact Part.subs hC (by decide) | intro _ | split | dsimp only

theorem exportRun_kept {c : Nat} {k : Nat} {x : TrwCmd} {label : Nat} (hC : ([.job, .trw] : List Part) ⊆ C) (h : Kept C z s)
    : Kept C z (exportRun s c k x label) := by
  unfold exportRun
  repeat' with_reducible first
    | assumption | apply updTrn_kept | apply updCmd_kept | apply beginOn_kept | apply endOn_kept | apply startRec_kept | refine forEach_kept ?_ ?_
    | refine Kept.ite ?_ ?_ | exact Part.subs hC (by decide) | intro _

theorem exportEffect_kept {op : Nat} {k : Nat} (hC : ([.out, .hostMem, .dev, .scratch, .mem, .store, .sem, .vreg, .tile, .job, .fab, .trw, .rink, .post, .host, .cfg, .tel, .sec, .pwr] : List Part) ⊆ C) (h : Kept C z s)
    : Kept C z (exportEffect op k s) := by
  unfold exportEffect
  repeat' with_reducible first
    | assumption | apply memFault_kept | apply endOn_kept | apply recMeet_kept | apply exportRun_kept | refine forEach_kept ?_ ?_
    | refine Kept.ite ?_ ?_ | exact Part.subs hC (by decide) | intro _ | split | dsimp only

theorem digestRun_kept {c : Nat} {k : Nat} {x : TrwCmd} {x0 : List Rec} (hC : ([.out, .hostMem, .dev, .scratch, .mem, .store, .sem, .vreg, .tile, .job, .fab, .trw, .rink, .post, .host, .cfg, .tel, .sec, .pwr] : List Part) ⊆ C) (h : Kept C z s)
    : Kept C z (digestRun s c k x x0) := by
  induction x0 generalizing s c k x with
  | nil =>
    unfold digestRun
    repeat' with_reducible first
      | assumption | apply memFault_kept | apply endOn_kept | apply failOn_kept | apply didOne_kept | apply startRec_kept | apply recMeet_kept
      | refine Kept.ite ?_ ?_ | exact Part.subs hC (by decide)
  | cons r rest ih =>
    unfold digestRun
    repeat' with_reducible first
      | assumption | apply ih | apply memFault_kept | apply endOn_kept | apply failOn_kept | apply didOne_kept | apply startRec_kept
      | apply recMeet_kept | refine Kept.ite ?_ ?_ | exact Part.subs hC (by decide) | intro _ | split | dsimp only

end Sys2Proof.Machine
end

