-- ==== Sys2Proof/Laws/KeptHost.lean ====
section
/-! SUPPORT. What the operations of these files keep: Trowel, HostIf, Matrix, Vec, Units. -/

namespace Sys2Proof.Machine

set_option Elab.async false

variable {C : List Part} {z s : State}

theorem digestEffect_kept {k : Nat} (hC : ([.out, .hostMem, .dev, .scratch, .mem, .store, .sem, .vreg, .tile, .job, .fab, .trw, .rink, .post, .host, .cfg, .tel, .sec, .pwr] : List Part) ⊆ C) (h : Kept C z s)
    : Kept C z (digestEffect k s) := by
  unfold digestEffect
  repeat' with_reducible first
    | assumption | apply digestRun_kept | exact Part.subs hC (by decide) | intro _ | split

theorem initRec_kept {k : Nat} {r : Rec} (hC : ([.dev, .mem, .tel] : List Part) ⊆ C) (h : Kept C z s) : Kept C z (initRec s k r) := by
  unfold initRec
  repeat' with_reducible first
    | assumption | apply recWrite_kept | apply storeDigest_kept | apply countWritten_kept | refine Kept.ite ?_ ?_ | exact Part.subs hC (by decide)

theorem initRun_kept {c : Nat} {k : Nat} {x : TrwCmd} {x0 : List Rec} (hC : ([.out, .hostMem, .dev, .scratch, .mem, .store, .sem, .vreg, .tile, .job, .fab, .trw, .rink, .post, .host, .cfg, .tel, .sec, .pwr] : List Part) ⊆ C) (h : Kept C z s)
    : Kept C z (initRun s c k x x0) := by
  induction x0 generalizing s c k x with
  | nil =>
    unfold initRun
    repeat' with_reducible first
      | assumption | apply memFault_kept | apply endOn_kept | apply failOn_kept | apply didOne_kept | apply startRec_kept | apply recMeet_kept
      | apply initRec_kept | refine Kept.ite ?_ ?_ | exact Part.subs hC (by decide)
  | cons r rest ih =>
    unfold initRun
    repeat' with_reducible first
      | assumption | apply ih | apply memFault_kept | apply endOn_kept | apply failOn_kept | apply didOne_kept | apply startRec_kept
      | apply recMeet_kept | apply initRec_kept | refine Kept.ite ?_ ?_ | exact Part.subs hC (by decide) | intro _ | split | dsimp only

theorem initEffect_kept {k : Nat} (hC : ([.out, .hostMem, .dev, .scratch, .mem, .store, .sem, .vreg, .tile, .job, .fab, .trw, .rink, .post, .host, .cfg, .tel, .sec, .pwr] : List Part) ⊆ C) (h : Kept C z s)
    : Kept C z (initEffect k s) := by
  unfold initEffect
  repeat' with_reducible first
    | assumption | apply initRun_kept | exact Part.subs hC (by decide) | intro _ | split

theorem srcMeet_kept {c : Nat} {x : TrwCmd} {n : Nat} (hC : ([.out, .hostMem, .mem, .host, .tel] : List Part) ⊆ C) (h : Kept C z s)
    : Kept C z (srcMeet s c x n) := by
  unfold srcMeet
  repeat' with_reducible first
    | assumption | apply meetRanges_kept | refine Kept.ite ?_ ?_

theorem noteUnheld_kept {c : Nat} {x : TrwCmd} {rs : List (List Byte)} (hC : ([.job] : List Part) ⊆ C) (h : Kept C z s)
    : Kept C z (noteUnheld s c x rs) := by
  unfold noteUnheld
  repeat' with_reducible first
    | assumption | apply updCmd_kept | refine Kept.ite ?_ ?_

theorem replayRun_kept {c : Nat} {k : Nat} {x : TrwCmd} {blk : List Byte} {step : Nat} {x0 : List (List Byte)} (hC : ([.out, .hostMem, .dev, .scratch, .mem, .store, .sem, .vreg, .tile, .job, .fab, .trw, .rink, .post, .host, .cfg, .tel, .sec, .pwr] : List Part) ⊆ C) (h : Kept C z s)
    : Kept C z (replayRun s c k x blk step x0) := by
  induction x0 generalizing s c k x blk step with
  | nil =>
    unfold replayRun
    repeat' with_reducible first
      | assumption | apply memFault_kept | apply endOn_kept | apply failOn_kept | apply didOne_kept | apply recWrite_kept | apply startRec_kept
      | apply applySweep_kept | apply recMeet_kept | refine Kept.ite ?_ ?_ | exact Part.subs hC (by decide)
  | cons r rest ih =>
    unfold replayRun
    repeat' with_reducible first
      | assumption | apply ih | apply memFault_kept | apply endOn_kept | apply failOn_kept | apply didOne_kept | apply recWrite_kept
      | apply startRec_kept | apply applySweep_kept | apply recMeet_kept | refine Kept.ite ?_ ?_ | exact Part.subs hC (by decide) | intro _ | split
      | dsimp only

theorem withSequence_kept {c : Nat} {k : Nat} {x : TrwCmd} {opn : Nat} {shard : Nat} {close : Nat} {f : State → List Byte → List (List Byte) → State} (hC : ([.out, .hostMem, .dev, .scratch, .mem, .store, .sem, .vreg, .tile, .job, .fab, .trw, .rink, .post, .host, .cfg, .tel, .sec, .pwr] : List Part) ⊆ C) (h : Kept C z s) (hf : ∀ y0 y1 y2, Kept C z y0 → Kept C z (f y0 y1 y2))
    : Kept C z (withSequence s c k x opn shard close f) := by
  unfold withSequence
  repeat' with_reducible first
    | assumption | apply hf | apply memFault_kept | apply fwAskSource_kept | apply beginOn_kept | apply failAll_kept | apply srcMeet_kept
    | apply noteUnheld_kept | refine Kept.ite ?_ ?_ | exact Part.subs hC (by decide) | intro _ | split | dsimp only

theorem replayEffect_kept {k : Nat} (hC : ([.out, .hostMem, .dev, .scratch, .mem, .store, .sem, .vreg, .tile, .job, .fab, .trw, .rink, .post, .host, .cfg, .tel, .sec, .pwr] : List Part) ⊆ C) (h : Kept C z s)
    : Kept C z (replayEffect k s) := by
  unfold replayEffect
  repeat' with_reducible first
    | assumption | apply endOn_kept | apply failAll_kept | apply replayRun_kept | apply withSequence_kept | refine Kept.ite ?_ ?_
    | exact Part.subs hC (by decide) | intro _ | split

theorem importRun_kept {c : Nat} {k : Nat} {x : TrwCmd} {all : List (List Byte)} {x0 : List (List Byte)} (hC : ([.dev, .mem, .job, .trw, .tel] : List Part) ⊆ C) (h : Kept C z s)
    : Kept C z (importRun s c k x all x0) := by
  induction x0 generalizing s c k x all with
  | nil =>
    unfold importRun
    repeat' with_reducible first
      | assumption | apply endOn_kept | apply failOn_kept | apply didOne_kept | apply recWrite_kept | apply startRec_kept | apply countWritten_kept
      | refine Kept.ite ?_ ?_ | exact Part.subs hC (by decide)
  | cons r rest ih =>
    unfold importRun
    repeat' with_reducible first
      | assumption | apply ih | apply endOn_kept | apply failOn_kept | apply didOne_kept | apply recWrite_kept | apply startRec_kept
      | apply countWritten_kept | refine Kept.ite ?_ ?_ | exact Part.subs hC (by decide) | intro _ | split | dsimp only

theorem importEffect_kept {k : Nat} (hC : ([.out, .hostMem, .dev, .scratch, .mem, .store, .sem, .vreg, .tile, .job, .fab, .trw, .rink, .post, .host, .cfg, .tel, .sec, .pwr] : List Part) ⊆ C) (h : Kept C z s)
    : Kept C z (importEffect k s) := by
  unfold importEffect
  repeat' with_reducible first
    | assumption | apply withSequence_kept | apply importRun_kept | exact Part.subs hC (by decide) | intro _ | split

theorem trowelEvent_kept {c : Nat} {tag : Nat} {code : Nat} {stack : Nat} {idx : Nat} {n : Nat} (hC : ([.out, .hostMem, .job, .host] : List Part) ⊆ C) (h : Kept C z s)
    : Kept C z (trowelEvent s c tag code stack idx n) := by
  unfold trowelEvent
  repeat' with_reducible first
    | assumption | apply jobEvent_kept

theorem takeCmd_kept {c : Nat} {w : List Word} (hC : ([.out, .hostMem, .job, .host] : List Part) ⊆ C) (h : Kept C z s)
    : Kept C z (takeCmd s c w) := by
  unfold takeCmd
  repeat' with_reducible first
    | assumption | apply updTrn_kept | apply trowelEvent_kept | refine Kept.ite ?_ ?_ | exact Part.subs hC (by decide)

theorem takeCmds_kept {c : Nat} {base : Nat} {slots : Nat} {tail : Nat} {x0 : Nat} (hC : ([.out, .hostMem, .job, .host] : List Part) ⊆ C) (h : Kept C z s)
    : Kept C z (takeCmds s c base slots tail x0) := by
  induction x0 generalizing s c base slots tail with
  | zero =>
    unfold takeCmds
    repeat' with_reducible first
      | assumption
  | succ n ih =>
    unfold takeCmds
    repeat' with_reducible first
      | assumption | apply ih | apply updCtx_kept | apply takeCmd_kept | refine Kept.ite ?_ ?_ | exact Part.subs hC (by decide)

theorem trowelQueueDoorbellEffect_kept {c : Nat} {tail : Nat} {hw : List Host.Cell} (hC : ([.out, .hostMem, .job, .host] : List Part) ⊆ C) (h : Kept C z s)
    : Kept C z (trowelQueueDoorbellEffect c tail hw s) := by
  unfold trowelQueueDoorbellEffect
  repeat' with_reducible first
    | assumption | apply accessErr_kept | apply takeCmds_kept | refine Kept.ite ?_ ?_ | exact Part.subs hC (by decide)
    | fail_if_no_progress refine Kept.put ?_

theorem trowelDoneEffect_kept {c : Nat} (hC : ([.out, .hostMem, .job, .host] : List Part) ⊆ C) (h : Kept C z s)
    : Kept C z (trowelDoneEffect c s) := by
  unfold trowelDoneEffect
  repeat' with_reducible first
    | assumption | apply updTrn_kept | apply trowelEvent_kept | exact Part.subs hC (by decide) | intro _ | split

theorem peerReadTimeoutEffect_kept {c : Nat} (hC : ([.out, .hostMem, .dev, .scratch, .mem, .store, .sem, .vreg, .tile, .job, .fab, .trw, .rink, .post, .host, .cfg, .tel, .sec, .pwr] : List Part) ⊆ C) (h : Kept C z s)
    : Kept C z (peerReadTimeoutEffect c s) := by
  unfold peerReadTimeoutEffect
  repeat' with_reducible first
    | assumption | apply updTrn_kept | apply remoteTimeout_kept | apply trowelEvent_kept | exact Part.subs hC (by decide) | intro _ | split

theorem readFresh_kept {c : Nat} (hC : ([.out, .hostMem, .job, .fab, .host, .tel] : List Part) ⊆ C) (h : Kept C z s) : Kept C z (readFresh s c) := by
  unfold readFresh
  repeat' with_reducible first
    | assumption | apply takeArea_kept | apply fwAskArea_kept | refine forEach_kept ?_ ?_ | refine Kept.ite ?_ ?_ | exact Part.subs hC (by decide)
    | intro _

theorem trailMoverEffect_kept {c : Nat} {budget : Nat} (hC : ([.out, .hostMem, .dev, .scratch, .mem, .store, .sem, .vreg, .tile, .job, .fab, .trw, .rink, .post, .host, .cfg, .tel, .sec, .pwr] : List Part) ⊆ C) (h : Kept C z s)
    : Kept C z (trailMoverEffect c budget s) := by
  unfold trailMoverEffect
  repeat' with_reducible first
    | assumption | apply publish_kept | apply moverRun_kept | apply readFresh_kept | refine forEach_kept ?_ ?_ | refine Kept.ite ?_ ?_
    | exact Part.subs hC (by decide) | intro _

theorem sinkPollEffect_kept {c : Nat} {k : Nat} {hw : List Host.Cell} (hC : ([.out, .hostMem, .job, .fab, .host, .tel] : List Part) ⊆ C) (h : Kept C z s)
    : Kept C z (sinkPollEffect c k hw s) := by
  unfold sinkPollEffect
  repeat' with_reducible first
    | assumption | apply takeArea_kept | apply fwAskArea_kept | refine Kept.ite ?_ ?_ | exact Part.subs hC (by decide)
    | fail_if_no_progress refine Kept.put ?_

theorem sinkReadTimeoutEffect_kept {c : Nat} {k : Nat} (hC : ([.out, .hostMem, .job, .fab, .host] : List Part) ⊆ C) (h : Kept C z s)
    : Kept C z (sinkReadTimeoutEffect c k s) := by
  unfold sinkReadTimeoutEffect
  repeat' with_reducible first
    | assumption | apply fwAnswered_kept | refine Kept.ite ?_ ?_

theorem irqStatusClearEffect_kept {page : Nat} {v : Word} (hC : ([.out, .host] : List Part) ⊆ C) (h : Kept C z s)
    : Kept C z (irqStatusClearEffect page v s) := by
  unfold irqStatusClearEffect
  repeat' with_reducible first
    | assumption | apply notReady_kept | refine Kept.ite ?_ ?_ | exact Part.subs hC (by decide) | fail_if_no_progress refine Kept.put ?_

theorem irqForceEffect_kept {page : Nat} {v : Word} (hC : ([.out, .host] : List Part) ⊆ C) (h : Kept C z s)
    : Kept C z (irqForceEffect page v s) := by
  unfold irqForceEffect
  repeat' with_reducible first
    | assumption | apply setIrq_kept | apply notReady_kept | refine Kept.ite ?_ ?_

theorem irqEnableWrite_kept {page : Nat} {v : Word} (hC : ([.out, .host] : List Part) ⊆ C) (h : Kept C z s)
    : Kept C z (irqEnableWrite s page v) := by
  unfold irqEnableWrite
  repeat' with_reducible first
    | assumption | apply signalSource_kept | refine Kept.ite ?_ ?_ | exact Part.subs hC (by decide) | fail_if_no_progress refine Kept.put ?_
    | intro _ | split

theorem accessErrReadEffect_kept {r : Nat} {page : Nat} (hC : ([.out, .job, .host] : List Part) ⊆ C) (h : Kept C z s)
    : Kept C z (accessErrReadEffect r page s) := by
  unfold accessErrReadEffect
  repeat' with_reducible first
    | assumption | apply emit_kept | apply readWord_kept | exact Part.subs hC (by decide)

theorem queuePopEffect_kept {off : Nat} {v : Word} (hC : ([.out, .job, .rink, .host, .tel] : List Part) ⊆ C) (h : Kept C z s)
    : Kept C z (queuePopEffect off v s) := by
  unfold queuePopEffect
  repeat' with_reducible first
    | assumption | apply updFab_kept | apply notReady_kept | refine Kept.ite ?_ ?_ | exact Part.subs hC (by decide)
    | fail_if_no_progress refine Kept.put ?_

theorem holdLow_kept {r : Nat} {off : Nat} {v : Word} (hC : ([.host] : List Part) ⊆ C) (h : Kept C z s) : Kept C z (holdLow s r off v) := by
  unfold holdLow
  repeat' with_reducible first
    | assumption | fail_if_no_progress refine Kept.put ?_

theorem takeLow_kept {r : Nat} {off : Nat} {cur : Word} (hC : ([.host] : List Part) ⊆ C) (h : Kept C z s) : Kept C z (takeLow s r off cur).2 := by
  unfold takeLow
  repeat' with_reducible first
    | assumption | fail_if_no_progress refine Kept.put ?_

theorem setRw64_kept {off : Nat} {lo : Word} {hi : Word} (hC : ([.regs] : List Part) ⊆ C) (h : Kept C z s) : Kept C z (setRw64 s off lo hi) := by
  unfold setRw64
  repeat' with_reducible first
    | assumption | apply setRw_kept

theorem resetQueue_kept {q : QCfg} {base : Bool} (hC : ([.dev, .mem, .job, .host, .sec] : List Part) ⊆ C) (h : Kept C z s)
    : Kept C z (resetQueue s q base) := by
  unfold resetQueue
  repeat' with_reducible first
    | assumption | apply updCtx_kept | apply updChan_kept | apply cutXfer_kept | refine Kept.ite ?_ ?_ | exact Part.subs hC (by decide)
    | fail_if_no_progress refine Kept.put ?_ | intro _ | split

theorem queueConfigWriteEffect_kept {r : Nat} {off : Nat} {v : Word} (hC : ([.out, .dev, .mem, .job, .regs, .host, .sec] : List Part) ⊆ C) (h : Kept C z s)
    : Kept C z (queueConfigWriteEffect r off v s) := by
  unfold queueConfigWriteEffect
  repeat' with_reducible first
    | assumption | apply setRw_kept | apply accessErr_kept | apply notReady_kept | apply holdLow_kept | apply takeLow_kept | apply setRw64_kept
    | apply resetQueue_kept | refine Kept.ite ?_ ?_ | exact Part.subs hC (by decide) | intro _ | split

theorem sendPending_kept (hC : ([.out, .host] : List Part) ⊆ C) (h : Kept C z s) : Kept C z (sendPending s) := by
  unfold sendPending
  repeat' with_reducible first
    | assumption | apply emit_kept | refine forEach_kept ?_ ?_ | refine Kept.ite ?_ ?_ | exact Part.subs hC (by decide)
    | fail_if_no_progress refine Kept.put ?_ | intro _

theorem attached_kept {r : Nat} (hC : ([.out, .host] : List Part) ⊆ C) (h : Kept C z s) : Kept C z (attached s r) := by
  unfold attached
  repeat' with_reducible first
    | assumption | apply sendPending_kept | refine Kept.ite ?_ ?_ | exact Part.subs hC (by decide) | fail_if_no_progress refine Kept.put ?_

theorem d3hotTransitionEffect_kept {d3 : Bool} (hC : ([.out, .host] : List Part) ⊆ C) (h : Kept C z s) : Kept C z (d3hotTransitionEffect d3 s) := by
  unfold d3hotTransitionEffect
  repeat' with_reducible first
    | assumption | apply sendPending_kept | exact Part.subs hC (by decide) | fail_if_no_progress refine Kept.put ?_

theorem msixWrite_kept {off : Nat} {v : Word} (hC : ([.out, .host] : List Part) ⊆ C) (h : Kept C z s) : Kept C z (msixWrite s off v) := by
  unfold msixWrite
  repeat' with_reducible first
    | assumption | apply sendPending_kept | refine Kept.ite ?_ ?_ | exact Part.subs hC (by decide) | fail_if_no_progress refine Kept.put ?_

theorem bar4BaseWriteEffect_kept {r : Nat} {hi : Word} (hC : ([.out, .regs, .host] : List Part) ⊆ C) (h : Kept C z s)
    : Kept C z (bar4BaseWriteEffect r hi s) := by
  unfold bar4BaseWriteEffect
  repeat' with_reducible first
    | assumption | apply accessErr_kept | apply notReady_kept | apply takeLow_kept | apply setRw64_kept | refine Kept.ite ?_ ?_
    | exact Part.subs hC (by decide)

theorem bar4ResizeEffect_kept {log2 : Nat} (hC : ([.regs, .host] : List Part) ⊆ C) (h : Kept C z s) : Kept C z (bar4ResizeEffect log2 s) := by
  unfold bar4ResizeEffect
  repeat' with_reducible first
    | assumption | apply setRw64_kept | refine Kept.ite ?_ ?_ | exact Part.subs hC (by decide) | fail_if_no_progress refine Kept.put ?_

theorem refuseAccess_kept {a : Nat} (hC : ([.out, .host] : List Part) ⊆ C) (h : Kept C z s) : Kept C z (refuseAccess s a) := by
  unfold refuseAccess
  repeat' with_reducible first
    | assumption | apply accessErr_kept | refine Kept.ite ?_ ?_ | exact Part.subs hC (by decide) | fail_if_no_progress refine Kept.put ?_

theorem bar4ReadEffect_kept {off : Nat} {len : Nat} {s0 : State} (hC : ([.out, .hostMem, .mem, .host, .tel] : List Part) ⊆ C) (h : Kept C z s0)
    : Kept C z (bar4ReadEffect off len s0) := by
  unfold bar4ReadEffect
  repeat' with_reducible first
    | assumption | apply emit_kept | apply meetRanges_kept | apply attached_kept | apply refuseAccess_kept | refine Kept.ite ?_ ?_
    | exact Part.subs hC (by decide)

theorem bar4WriteEffect_kept {off : Nat} {bytes : List Byte} {s0 : State} (hC : ([.out, .dev, .mem, .host] : List Part) ⊆ C) (h : Kept C z s0)
    : Kept C z (bar4WriteEffect off bytes s0) := by
  unfold bar4WriteEffect
  repeat' with_reducible first
    | assumption | apply devWrite_kept | apply attached_kept | apply refuseAccess_kept | refine Kept.ite ?_ ?_ | exact Part.subs hC (by decide)

theorem eventQueueDoorbellEffect_kept {c : Option Nat} {idx : Nat} (hC : ([.out, .job, .host] : List Part) ⊆ C) (h : Kept C z s)
    : Kept C z (eventQueueDoorbellEffect c idx s) := by
  unfold eventQueueDoorbellEffect
  repeat' with_reducible first
    | assumption | apply updCtx_kept | apply accessErr_kept | refine Kept.ite ?_ ?_ | exact Part.subs hC (by decide)
    | fail_if_no_progress refine Kept.put ?_ | intro _ | split

theorem dmaDoorbellEffect_kept {ch : Nat} {tail : Nat} (hC : ([.out, .host] : List Part) ⊆ C) (h : Kept C z s)
    : Kept C z (dmaDoorbellEffect ch tail s) := by
  unfold dmaDoorbellEffect
  repeat' with_reducible first
    | assumption | apply accessErr_kept | apply updChan_kept | refine Kept.ite ?_ ?_ | exact Part.subs hC (by decide)

theorem dmaIn_kept {free : Bool} {host : Nat} {dev : Nat} {n : Nat} (hC : ([.out, .dev, .mem, .host] : List Part) ⊆ C) (h : Kept C z s)
    : Kept C z (dmaIn s free host dev n) := by
  unfold dmaIn
  repeat' with_reducible first
    | assumption | apply devWrite_kept | apply refuseAccess_kept | refine forEach_kept ?_ ?_ | refine Kept.ite ?_ ?_ | exact Part.subs hC (by decide)
    | intro _

theorem dmaOut_kept {free : Bool} {host : Nat} {dev : Nat} {n : Nat} (hC : ([.out, .hostMem, .host] : List Part) ⊆ C) (h : Kept C z s)
    : Kept C z (dmaOut s free host dev n) := by
  unfold dmaOut
  repeat' with_reducible first
    | assumption | apply refuseAccess_kept | refine forEach_kept ?_ ?_ | refine Kept.ite ?_ ?_ | exact Part.subs hC (by decide)
    | fail_if_no_progress refine Kept.put ?_ | intro _

theorem dmaMove_kept {d : List Byte} (hC : ([.out, .hostMem, .dev, .mem, .host, .tel] : List Part) ⊆ C) (h : Kept C z s)
    : Kept C z (dmaMove s d).1 := by
  unfold dmaMove
  repeat' with_reducible first
    | assumption | apply meetRanges_kept | apply dmaIn_kept | apply dmaOut_kept | refine Kept.ite ?_ ?_ | exact Part.subs hC (by decide)
    | fail_if_no_progress refine Kept.put ?_ | intro _ | split | dsimp only

theorem hostDmaDescriptorEffect_kept {ch : Nat} {hw : List Host.Cell} {s0 : State} (hC : ([.out, .hostMem, .dev, .mem, .host, .tel, .sec] : List Part) ⊆ C) (h : Kept C z s0)
    : Kept C z (hostDmaDescriptorEffect ch hw s0) := by
  unfold hostDmaDescriptorEffect
  repeat' with_reducible first
    | assumption | apply updChan_kept | apply dmaMove_kept | refine Kept.ite ?_ ?_ | exact Part.subs hC (by decide)
    | fail_if_no_progress refine Kept.put ?_

theorem hostDmaCompleteEffect_kept {ch : Nat} (hC : ([.out, .hostMem, .host] : List Part) ⊆ C) (h : Kept C z s)
    : Kept C z (hostDmaCompleteEffect ch s) := by
  unfold hostDmaCompleteEffect
  repeat' with_reducible first
    | assumption | apply chanFinish_kept | refine Kept.ite ?_ ?_ | exact Part.subs hC (by decide) | intro _ | split

theorem updFw_kept {f : FwWin → FwWin} (hC : ([.fw] : List Part) ⊆ C) (h : Kept C z s) (hf : ∀ w : FwWin, w.buf.wf → (f w).buf.wf) :
    Kept C z (updFw s f) := by
  unfold updFw
  with_reducible exact Kept.put h (mems := fun ⟨a, b, c, d, e⟩ => ⟨a, b, c, d, hf _ e⟩)

theorem fwGuard_kept {r : Nat} {off : Nat} {st : Nat} {f : State → State} (hC : ([.out, .host] : List Part) ⊆ C) (h : Kept C z s) (hf : ∀ y0, Kept C z y0 → Kept C z (f y0))
    : Kept C z (fwGuard s r off st f) := by
  unfold fwGuard
  repeat' with_reducible first
    | assumption | apply hf | apply accessErr_kept | apply notReady_kept | refine Kept.ite ?_ ?_

theorem fwOpenEffect_kept {r : Nat} {target : Bool} (hC : ([.out, .fw, .host] : List Part) ⊆ C) (h : Kept C z s)
    : Kept C z (fwOpenEffect r target s) := by
  unfold fwOpenEffect
  repeat' with_reducible first
    | assumption | apply updFw_kept | apply fwGuard_kept | exact Part.subs hC (by decide) | exact fun _ h => h | exact fun _ _ => Mem.empty_wf
    | exact fun _ h => Mem.wr_wf _ _ _ h | exact fun _ h => Mem.write_wf _ _ h | intro _

theorem fwDataEffect_kept {r : Nat} {v : Word} (hC : ([.out, .regs, .fw, .host] : List Part) ⊆ C) (h : Kept C z s)
    : Kept C z (fwDataEffect r v s) := by
  unfold fwDataEffect
  repeat' with_reducible first
    | assumption | apply setRw_kept | apply updFw_kept | apply fwGuard_kept | refine Kept.ite ?_ ?_ | exact Part.subs hC (by decide)
    | exact fun _ h => h | exact fun _ _ => Mem.empty_wf | exact fun _ h => Mem.wr_wf _ _ _ h | exact fun _ h => Mem.write_wf _ _ h | intro _

theorem fwCommitEffect_kept {r : Nat} (hC : ([.out, .fw, .host, .boot] : List Part) ⊆ C) (h : Kept C z s) : Kept C z (fwCommitEffect r s) := by
  unfold fwCommitEffect
  repeat' with_reducible first
    | assumption | apply updFw_kept | apply fwGuard_kept | refine Kept.ite ?_ ?_ | exact Part.subs hC (by decide)
    | fail_if_no_progress refine Kept.put ?_ | exact fun _ h => h | exact fun _ _ => Mem.empty_wf | exact fun _ h => Mem.wr_wf _ _ _ h
    | exact fun _ h => Mem.write_wf _ _ h | intro _

theorem fwAbortEffect_kept {r : Nat} (hC : ([.out, .fw, .host] : List Part) ⊆ C) (h : Kept C z s) : Kept C z (fwAbortEffect r s) := by
  unfold fwAbortEffect
  repeat' with_reducible first
    | assumption | apply updFw_kept | apply fwGuard_kept | exact Part.subs hC (by decide) | exact fun _ h => h | exact fun _ _ => Mem.empty_wf
    | exact fun _ h => Mem.wr_wf _ _ _ h | exact fun _ h => Mem.write_wf _ _ h | intro _

theorem fwUpdateDoneEffect_kept {readBackOk : Bool} (hC : ([.out, .fw, .host, .boot] : List Part) ⊆ C) (h : Kept C z s)
    : Kept C z (fwUpdateDoneEffect readBackOk s) := by
  unfold fwUpdateDoneEffect
  repeat' with_reducible first
    | assumption | apply blockEvent_kept | apply updFw_kept | refine Kept.ite ?_ ?_ | exact Part.subs hC (by decide)
    | fail_if_no_progress refine Kept.put ?_ | exact fun _ h => h | exact fun _ _ => Mem.empty_wf | exact fun _ h => Mem.wr_wf _ _ _ h
    | exact fun _ h => Mem.write_wf _ _ h | intro _ | split

theorem jobCmdWrite_kept {r : Nat} {v : Word} (hC : ([.out, .hostMem, .dev, .scratch, .mem, .store, .sem, .vreg, .tile, .job, .fab, .trw, .rink, .post, .host, .cfg, .tel, .sec, .pwr] : List Part) ⊆ C) (h : Kept C z s)
    : Kept C z (jobCmdWrite s r v) := by
  unfold jobCmdWrite
  repeat' with_reducible first
    | assumption | apply jobLoadEffect_kept | apply jobStartEffect_kept | apply jobResumeEffect_kept | apply jobPreemptEffect_kept
    | apply jobUnloadEffect_kept | apply jobTeardownEffect_kept | apply jobClearEffect_kept | apply ploughCommand_kept
    | exact Part.subs hC (by decide) | intro _ | split

theorem jobWinWrite_kept {r : Nat} {c : Nat} {o : Nat} {off : Nat} {v : Word} (hC : ([.out, .dev, .mem, .store, .sem, .vreg, .tile, .job, .rink, .regs, .host, .tel, .sec, .pwr] : List Part) ⊆ C) (h : Kept C z s)
    : Kept C z (jobWinWrite s r c o off v) := by
  unfold jobWinWrite
  repeat' with_reducible first
    | assumption | apply setRw_kept | apply accessErr_kept | apply creditWrite_kept | apply snapshotRequestEffect_kept | apply queuePopEffect_kept
    | apply holdLow_kept | apply takeLow_kept | apply setRw64_kept | refine Kept.ite ?_ ?_ | exact Part.subs hC (by decide)

theorem poolCfgWrite_kept {r : Nat} {p : Nat} {v : Word} (hC : ([.out, .job, .host] : List Part) ⊆ C) (h : Kept C z s)
    : Kept C z (poolCfgWrite s r p v) := by
  unfold poolCfgWrite
  repeat' with_reducible first
    | assumption | apply accessErr_kept | apply updPool_kept | refine Kept.ite ?_ ?_ | exact Part.subs hC (by decide)

theorem jobWrite_kept {r : Nat} {off : Nat} {v : Word} (hC : ([.out, .hostMem, .dev, .scratch, .mem, .store, .sem, .vreg, .tile, .job, .fab, .trw, .rink, .post, .regs, .host, .cfg, .tel, .sec, .pwr] : List Part) ⊆ C) (h : Kept C z s)
    : Kept C z (jobWrite s r off v) := by
  unfold jobWrite
  repeat' with_reducible first
    | assumption | apply setRw_kept | apply poolGiveEffect_kept | apply holdLow_kept | apply takeLow_kept | apply setRw64_kept
    | apply jobCmdWrite_kept | apply jobWinWrite_kept | apply poolCfgWrite_kept | refine Kept.ite ?_ ?_ | exact Part.subs hC (by decide)

theorem hostWrite_kept {r : Nat} {off : Nat} {v : Word} (hC : ([.out, .regs, .fw, .host, .boot] : List Part) ⊆ C) (h : Kept C z s)
    : Kept C z (hostWrite s r off v) := by
  unfold hostWrite
  repeat' with_reducible first
    | assumption | apply setRw_kept | apply accessErr_kept | apply holdLow_kept | apply bar4BaseWriteEffect_kept | apply fwOpenEffect_kept
    | apply fwDataEffect_kept | apply fwCommitEffect_kept | apply fwAbortEffect_kept | refine Kept.ite ?_ ?_ | exact Part.subs hC (by decide)
    | intro _ | split

theorem unitWrite_kept {r : Nat} {off : Nat} {v : Word} (hC : ([.out, .hostMem, .dev, .scratch, .mem, .store, .sem, .vreg, .tile, .job, .fab, .trw, .rink, .post, .regs, .host, .cfg, .tel, .sec, .pwr, .boot] : List Part) ⊆ C) (h : Kept C z s)
    : Kept C z (unitWrite s r off v) := by
  unfold unitWrite
  repeat' with_reducible first
    | assumption | apply setRw_kept | apply cfgCheckEffect_kept | apply cfgApplyEffect_kept | apply cfgDiscardEffect_kept | apply cfgSaveEffect_kept
    | apply telFreezeEffect_kept | apply timeSetEffect_kept | apply prbsStartEffect_kept | apply prbsStopEffect_kept | apply rstComputeEffect_kept
    | apply rstWarmEffect_kept | apply sleepEffect_kept | apply wakeEffect_kept | apply tenantSwitchHrdm_kept | apply weightSetCloseEffect_kept
    | apply courseFenceEffect_kept | apply courseBistEffect_kept | apply courseReleaseEffect_kept | apply unitOutOfServiceEffect_kept
    | apply unitSelfTestEffect_kept | apply unitReturnToServiceEffect_kept | apply queuePopEffect_kept | apply holdLow_kept | apply takeLow_kept
    | refine Kept.ite ?_ ?_ | exact Part.subs hC (by decide) | intro _ | split

theorem headerWrite_kept {r : Nat} {page : Nat} {o : Nat} {v : Word} (hC : ([.out, .hostMem, .dev, .scratch, .mem, .store, .sem, .tile, .job, .fab, .rink, .post, .host, .cfg, .tel, .sec, .pwr] : List Part) ⊆ C) (h : Kept C z s)
    : Kept C z (headerWrite s r page o v) := by
  unfold headerWrite
  repeat' with_reducible first
    | assumption | apply softResetEffect_kept | apply irqStatusClearEffect_kept | apply irqForceEffect_kept | apply irqEnableWrite_kept
    | refine Kept.ite ?_ ?_ | exact Part.subs hC (by decide)

theorem writeWord_kept {r : Nat} {off : Nat} {v : Word} (hC : ([.out, .hostMem, .dev, .scratch, .mem, .store, .sem, .vreg, .tile, .job, .fab, .trw, .rink, .post, .regs, .fw, .host, .cfg, .tel, .sec, .pwr, .boot] : List Part) ⊆ C) (h : Kept C z s)
    : Kept C z (writeWord r off v s) := by
  unfold writeWord
  repeat' with_reducible first
    | assumption | apply accessErr_kept | apply notReady_kept | apply stWriteEffect_kept | apply queueConfigWriteEffect_kept | apply jobWrite_kept
    | apply hostWrite_kept | apply unitWrite_kept | apply headerWrite_kept | refine Kept.ite ?_ ?_ | exact Part.subs hC (by decide)

theorem doorbellWrite_kept {r : Nat} {off : Nat} {v : Word} (hC : ([.out, .hostMem, .job, .host] : List Part) ⊆ C) (h : Kept C z s)
    : Kept C z (doorbellWrite r off v s) := by
  unfold doorbellWrite
  repeat' with_reducible first
    | assumption | apply accessErr_kept | apply trowelQueueDoorbellEffect_kept | apply msixWrite_kept | apply eventQueueDoorbellEffect_kept
    | apply dmaDoorbellEffect_kept | refine Kept.ite ?_ ?_ | exact Part.subs hC (by decide)

theorem registerWriteEffect_kept {r : Nat} {bar2 : Bool} {off : Nat} {width : Nat} {v : Dword} {s0 : State} (hC : ([.out, .hostMem, .dev, .scratch, .mem, .store, .sem, .vreg, .tile, .job, .fab, .trw, .rink, .post, .regs, .fw, .host, .cfg, .tel, .sec, .pwr, .boot] : List Part) ⊆ C) (h : Kept C z s0)
    : Kept C z (registerWriteEffect r bar2 off width v s0) := by
  unfold registerWriteEffect
  repeat' with_reducible first
    | assumption | apply accessErr_kept | apply attached_kept | apply writeWord_kept | apply doorbellWrite_kept | refine Kept.ite ?_ ?_
    | exact Part.subs hC (by decide)

theorem setEndpointIdEffect_kept {p : MsgPath} {eid : Byte} {s0 : State} (hC : ([.out, .host] : List Part) ⊆ C) (h : Kept C z s0)
    : Kept C z (setEndpointIdEffect p eid s0) := by
  unfold setEndpointIdEffect
  repeat' with_reducible first
    | assumption | apply emit_kept | apply attached_kept | refine Kept.ite ?_ ?_ | exact Part.subs hC (by decide)
    | fail_if_no_progress refine Kept.put ?_

theorem mctpRegisterReadEffect_kept {p : MsgPath} {off : Nat} {count : Nat} {s0 : State} (hC : ([.out, .job, .host] : List Part) ⊆ C) (h : Kept C z s0)
    : Kept C z (mctpRegisterReadEffect p off count s0) := by
  unfold mctpRegisterReadEffect
  repeat' with_reducible first
    | assumption | apply emit_kept | apply readWords_kept | apply attached_kept | refine Kept.ite ?_ ?_ | exact Part.subs hC (by decide)

theorem writeWords_kept {r : Nat} {off : Nat} {ws : List Word} (hC : ([.out, .hostMem, .dev, .scratch, .mem, .store, .sem, .vreg, .tile, .job, .fab, .trw, .rink, .post, .regs, .fw, .host, .cfg, .tel, .sec, .pwr, .boot] : List Part) ⊆ C) (h : Kept C z s)
    : Kept C z (writeWords r off ws s) := by
  induction ws generalizing r off s with
  | nil =>
    unfold writeWords
    repeat' with_reducible first
      | assumption
  | cons r rest ih =>
    unfold writeWords
    repeat' with_reducible first
      | assumption | apply ih | apply registerWriteEffect_kept

theorem mctpRegisterWriteEffect_kept {p : MsgPath} {off : Nat} {ws : List Word} {s0 : State} (hC : ([.out, .hostMem, .dev, .scratch, .mem, .store, .sem, .vreg, .tile, .job, .fab, .trw, .rink, .post, .regs, .fw, .host, .cfg, .tel, .sec, .pwr, .boot] : List Part) ⊆ C) (h : Kept C z s0)
    : Kept C z (mctpRegisterWriteEffect p off ws s0) := by
  unfold mctpRegisterWriteEffect
  repeat' with_reducible first
    | assumption | apply emit_kept | apply attached_kept | apply writeWords_kept | refine Kept.ite ?_ ?_ | exact Part.subs hC (by decide)

theorem i3cPrivateWriteEffect_kept {bytes : List Byte} (hC : ([.out, .hostMem, .dev, .scratch, .mem, .store, .sem, .vreg, .tile, .job, .fab, .trw, .rink, .post, .regs, .fw, .host, .cfg, .tel, .sec, .pwr, .boot] : List Part) ⊆ C) (h : Kept C z s)
    : Kept C z (i3cPrivateWriteEffect bytes s) := by
  unfold i3cPrivateWriteEffect
  repeat' with_reducible first
    | assumption | apply writeWords_kept | refine Kept.ite ?_ ?_ | exact Part.subs hC (by decide) | fail_if_no_progress refine Kept.put ?_

theorem i3cPrivateReadEffect_kept {words : Nat} (hC : ([.out, .job, .host] : List Part) ⊆ C) (h : Kept C z s)
    : Kept C z (i3cPrivateReadEffect words s) := by
  unfold i3cPrivateReadEffect
  repeat' with_reducible first
    | assumption | apply emit_kept | apply readWords_kept | refine Kept.ite ?_ ?_ | exact Part.subs hC (by decide)
    | fail_if_no_progress refine Kept.put ?_

theorem dynamicAddressAssignmentEffect_kept {a : BitVec 7} (hC : ([.host] : List Part) ⊆ C) (h : Kept C z s)
    : Kept C z (dynamicAddressAssignmentEffect a s) := by
  unfold dynamicAddressAssignmentEffect
  repeat' with_reducible first
    | assumption | refine Kept.ite ?_ ?_ | fail_if_no_progress refine Kept.put ?_

theorem matmulWork_kept {t : Nat} (hC : ([.store, .tile, .job, .tel] : List Part) ⊆ C) (h : Kept C z s) : Kept C z (matmulWork t s) := by
  unfold matmulWork
  repeat' with_reducible first
    | assumption | apply storeWrite_kept | apply plumbCount_kept | apply convRow_kept | apply markDone_kept | refine forEach_kept ?_ ?_
    | exact Part.subs hC (by decide) | intro _ | split

theorem convWrite_kept {s0 : State} {t : Nat} {d : Desc} {r : Nat} {x : Nat} (hC : ([.store, .tile, .job, .tel] : List Part) ⊆ C) (h : Kept C z s)
    : Kept C z (convWrite s0 t d s r x) := by
  unfold convWrite
  repeat' with_reducible first
    | assumption | apply storeWrite_kept | apply plumbCount_kept | apply convRow_kept | exact Part.subs hC (by decide)

theorem convWork_kept {t : Nat} (hC : ([.store, .tile, .job, .tel] : List Part) ⊆ C) (h : Kept C z s) : Kept C z (convWork t s) := by
  unfold convWork
  repeat' with_reducible first
    | assumption | apply markDone_kept | apply convWrite_kept | refine forEach_kept ?_ ?_ | exact Part.subs hC (by decide) | intro _ | split

theorem vput_kept {t : Nat} {v : Nat} {xs : List Word} (hC : ([.vreg] : List Part) ⊆ C) (h : Kept C z s) : Kept C z (vput s t v xs) := by
  unfold vput
  repeat' with_reducible first
    | assumption | refine Kept.foldl ?_ ?_ | fail_if_no_progress refine Kept.put ?_

theorem vecLoad_kept {t : State} {x : VecAt} {m : MicroOp} (hC : ([.vreg] : List Part) ⊆ C) (e : vecLoad s x m = .ok t) (h : Kept C z s) : Kept C z t := by
  unfold vecLoad at e
  repeat' split at e
  all_goals cases e
  exact vput_kept (List.Subset.trans (by decide) hC) h

theorem drawLanes_kept {t : Nat} (hC : ([.tile] : List Part) ⊆ C) (h : Kept C z s) : Kept C z (drawLanes s t).2 := by
  unfold drawLanes
  repeat' with_reducible first
    | assumption | apply clockTick_kept | apply spinConsume_kept | refine forEach_kept ?_ ?_ | refine Kept.ite ?_ ?_ | exact Part.subs hC (by decide)
    | intro _ | split

theorem vecStore_kept {t : State} {x : VecAt} {m : MicroOp} (hC : ([.store, .tile, .job, .tel] : List Part) ⊆ C) (e : vecStore s x m = .ok t) (h : Kept C z s) : Kept C z t := by
  unfold vecStore at e
  split at e
  · split at e
    · cases e
    · extract_lets v at e
      split at e
      · obtain rfl := Except.ok.inj e; with_reducible exact storeWrite_kept (List.Subset.trans (by decide) hC) h
      · obtain rfl := Except.ok.inj e; with_reducible exact storeWrite_kept (List.Subset.trans (by decide) hC) h
      · obtain rfl := Except.ok.inj e
        with_reducible refine plumbCount_kept (List.Subset.trans (by decide) hC) (storeWrite_kept (List.Subset.trans (by decide) hC) ?_)
        split
        · exact drawLanes_kept (List.Subset.trans (by decide) hC) h
        · exact h
  · cases e

theorem vecSpin_kept {x : VecAt} {m : MicroOp} (hC : ([.vreg, .tile] : List Part) ⊆ C) (h : Kept C z s) : Kept C z (vecSpin s x m) := by
  unfold vecSpin
  repeat' with_reducible first
    | assumption | apply vput_kept | apply drawLanes_kept | exact Part.subs hC (by decide)

theorem vecMask_kept {t : State} {x : VecAt} {m : MicroOp} (hC : ([.store, .vreg] : List Part) ⊆ C) (e : vecMask s x m = .ok t) (h : Kept C z s) : Kept C z t := by
  unfold vecMask at e
  dsimp only at e
  repeat' split at e
  all_goals cases e
  · exact storeWrite_kept (List.Subset.trans (by decide) hC) h
  · exact vput_kept (List.Subset.trans (by decide) hC) h

theorem vecOp_kept {t : State} {x : VecAt} {m : MicroOp} (hC : ([.store, .vreg, .tile, .job, .tel] : List Part) ⊆ C) (e : vecOp s x m = .ok t) (h : Kept C z s) : Kept C z t := by
  unfold vecOp at e
  extract_lets put lanes at e
  have hput : ∀ {ws : List Word}, put ws = .ok t → Kept C z t := by
    intro ws e
    simp only [put] at e
    split at e
    · obtain rfl := Except.ok.inj e; with_reducible exact vput_kept (List.Subset.trans (by decide) hC) h
    · cases e
  split at e
  all_goals try (split at e)
  all_goals first
    | with_reducible exact hput e
    | with_reducible exact vecLoad_kept (List.Subset.trans (by decide) hC) e h
    | with_reducible exact vecStore_kept (List.Subset.trans (by decide) hC) e h
    | with_reducible exact vecMask_kept (List.Subset.trans (by decide) hC) e h
    | (obtain rfl := Except.ok.inj e; with_reducible first | exact h | exact vput_kept (List.Subset.trans (by decide) hC) h | exact vecSpin_kept (List.Subset.trans (by decide) hC) h)
    | exact nomatch e

theorem vecRun_kept {t : Nat} {d : Desc} {x0 : List (Nat × Nat)} (hC : ([.store, .vreg, .tile, .job, .tel] : List Part) ⊆ C) (h : Kept C z s)
    : Kept C z (vecRun t d s x0).1 := by
  induction x0 generalizing t d s with
  | nil =>
    unfold vecRun
    repeat' with_reducible first
      | assumption
  | cons r rest ih =>
    unfold vecRun
    repeat' with_reducible first
      | assumption | apply ih | refine vecOp_kept (Part.subs hC (by decide)) (by assumption) ?_ | exact Part.subs hC (by decide) | intro _ | split

theorem vecWork_kept {t : Nat} (hC : ([.out, .hostMem, .dev, .scratch, .mem, .store, .sem, .vreg, .tile, .job, .fab, .trw, .rink, .post, .host, .cfg, .tel, .sec, .pwr] : List Part) ⊆ C) (h : Kept C z s)
    : Kept C z (vecWork t s) := by
  unfold vecWork
  repeat' with_reducible first
    | assumption | apply markDone_kept | apply failDesc_kept | apply vecRun_kept | exact Part.subs hC (by decide) | intro _ | split | dsimp only

theorem unitWork_kept {k : Nat} {t : Nat} {i : Nat} (hC : ([.out, .hostMem, .dev, .scratch, .mem, .store, .sem, .vreg, .tile, .job, .fab, .trw, .rink, .post, .host, .cfg, .tel, .sec, .pwr] : List Part) ⊆ C) (h : Kept C z s)
    : Kept C z (unitWork k t i s) := by
  unfold unitWork
  repeat' with_reducible first
    | assumption | apply dmaWork_kept | apply jointWork_kept | apply matmulWork_kept | apply convWork_kept | apply vecWork_kept
    | exact Part.subs hC (by decide) | intro _ | split

theorem mixedWork_kept {work : State → State} {ts ls : List Nat} {snap : Mem} {ms : List Mem} (hC : ([.store] : List Part) ⊆ C) (h : Kept C z s)
    (hw : ∀ y, Kept C z y → Kept C z (work y)) : Kept C z (mixedWork work ts ls snap ms s) := by
  have hv : ∀ {m : Mem} {l : Nat} {i : Nat}, m.wf → (mixLine i ms m l).wf := fun h => Mem.write_wf _ _ h
  have hl : ∀ {i : Nat} {v a m : Mem} {l : Nat}, m.wf → (layWrites i snap v a m l).wf := by
    intro i v a m l h; unfold layWrites; split
    · exact h
    · exact Mem.write_wf _ _ h
  unfold mixedWork
  dsimp only
  generalize hr' : work { s with free := s.free + 2, tile := { s.tile with store := ls.foldl (mixLine s.free ms) s.tile.store } } = r
  have hr : Kept C z r := by
    rw [← hr']; apply hw
    with_reducible refine Kept.put h (mems := fun w => ⟨w.1, w.2.1, w.2.2.1, ?_, w.2.2.2.2⟩)
    exact foldWrite_wf (fun _ _ => hv) w.2.2.2.1
  refine Kept.ite hr ?_
  obtain ⟨h1, h2, h3, h4, h5, h6, h7⟩ := hr
  refine ⟨h1, h2, h3, h4, h5, fun hz => ?_, fun p hp => Part.same_trans (h7 p hp) ?_⟩
  · obtain ⟨a, b, c, -, e⟩ := h6 hz
    exact ⟨a, b, c, foldWrite_wf (fun _ _ => hl) (h.mems hz).2.2.2.1, e⟩
  · cases p <;> first | exact rfl | exact ⟨rfl, rfl⟩ | exact absurd (Part.sub hC (by decide)) hp

theorem clocked_kept {t : Nat} {d : Desc} {work : State → State} (hC : ([.tile] : List Part) ⊆ C) (h : Kept C z s) (hwork : ∀ y0, Kept C z y0 → Kept C z (work y0))
    : Kept C z (clocked s t d work) := by
  unfold clocked
  repeat' with_reducible first
    | assumption | apply hwork | apply setClock_kept | refine Kept.ite ?_ ?_

theorem storesMet_kept {t : Nat} {d : Desc} (hC : ([.out, .hostMem, .dev, .scratch, .mem, .store, .sem, .vreg, .tile, .job, .fab, .trw, .rink, .post, .host, .cfg, .tel, .sec, .pwr] : List Part) ⊆ C) (h : Kept C z s)
    : Kept C z (storesMet s t d) := by
  unfold storesMet
  repeat' with_reducible first
    | assumption | apply meetStores_kept | refine Kept.ite ?_ ?_

theorem unitEffect_kept {k : Nat} {t : Nat} {i : Nat} {s0 : State} (hC : ([.out, .hostMem, .dev, .scratch, .mem, .store, .sem, .vreg, .tile, .job, .fab, .trw, .rink, .post, .host, .cfg, .tel, .sec, .pwr] : List Part) ⊆ C) (h : Kept C z s0)
    : Kept C z (unitEffect k t i s0) := by
  unfold unitEffect
  repeat' with_reducible first
    | assumption | apply unitWork_kept | apply mixedWork_kept | apply clocked_kept | apply storesMet_kept | refine Kept.ite ?_ ?_
    | exact Part.subs hC (by decide) | intro _ | split | dsimp only

theorem dmaEffect_kept {t : Nat} {i : Nat} (hC : ([.out, .hostMem, .dev, .scratch, .mem, .store, .sem, .vreg, .tile, .job, .fab, .trw, .rink, .post, .host, .cfg, .tel, .sec, .pwr] : List Part) ⊆ C) (h : Kept C z s)
    : Kept C z (dmaEffect t i s) := by
  unfold dmaEffect
  repeat' with_reducible first
    | assumption | apply unitEffect_kept

theorem matmulEffect_kept {t : Nat} (hC : ([.out, .hostMem, .dev, .scratch, .mem, .store, .sem, .vreg, .tile, .job, .fab, .trw, .rink, .post, .host, .cfg, .tel, .sec, .pwr] : List Part) ⊆ C) (h : Kept C z s)
    : Kept C z (matmulEffect t s) := by
  unfold matmulEffect
  repeat' with_reducible first
    | assumption | apply unitEffect_kept

theorem convEffect_kept {t : Nat} (hC : ([.out, .hostMem, .dev, .scratch, .mem, .store, .sem, .vreg, .tile, .job, .fab, .trw, .rink, .post, .host, .cfg, .tel, .sec, .pwr] : List Part) ⊆ C) (h : Kept C z s)
    : Kept C z (convEffect t s) := by
  unfold convEffect
  repeat' with_reducible first
    | assumption | apply unitEffect_kept

theorem vecEffect_kept {t : Nat} (hC : ([.out, .hostMem, .dev, .scratch, .mem, .store, .sem, .vreg, .tile, .job, .fab, .trw, .rink, .post, .host, .cfg, .tel, .sec, .pwr] : List Part) ⊆ C) (h : Kept C z s)
    : Kept C z (vecEffect t s) := by
  unfold vecEffect
  repeat' with_reducible first
    | assumption | apply unitEffect_kept

theorem jointEffect_kept {t : Nat} (hC : ([.out, .hostMem, .dev, .scratch, .mem, .store, .sem, .vreg, .tile, .job, .fab, .trw, .rink, .post, .host, .cfg, .tel, .sec, .pwr] : List Part) ⊆ C) (h : Kept C z s)
    : Kept C z (jointEffect t s) := by
  unfold jointEffect
  repeat' with_reducible first
    | assumption | apply unitEffect_kept

end Sys2Proof.Machine
end

