-- ==== Sys2Proof/Laws/State.lean ====
section
/-! SUPPORT. What each small update of the state leaves alone, field by field, and what it writes. -/

namespace Sys2Proof.Laws

open Sys2Proof Sys2Proof.Machine

theorem mget_mins_ne {α : Type} (m : NMap α) (e : α) (k : Nat) (v : α) {j : Nat} (h : j ≠ k) :
    mget (mins m k v) e j = mget m e j := by rw [mget_mins, if_neg h]

theorem mget_mdel_ne {α : Type} (m : NMap α) (e : α) {k j : Nat} (h : j ≠ k) :
    mget (mdel m k) e j = mget m e j := by rw [mget_mdel, if_neg h]

/-- Writing one key leaves every other key, whatever default the reader uses. -/
theorem mget_mset_ne {α : Type} [DecidableEq α] (m : NMap α) (d e : α) (k : Nat) (v : α) {j : Nat} (h : j ≠ k) :
    mget (mset m d k v) e j = mget m e j := by
  unfold mset
  split
  · exact mget_mdel_ne m e h
  · exact mget_mins_ne m e k v h


/-! ### updCtx -/

@[simp] theorem updCtx_pending (s : State) (c : Nat) (f : JobCtx → JobCtx) : (updCtx s c f).pending = s.pending := rfl
@[simp] theorem updCtx_free (s : State) (c : Nat) (f : JobCtx → JobCtx) : (updCtx s c f).free = s.free := rfl
@[simp] theorem updCtx_out (s : State) (c : Nat) (f : JobCtx → JobCtx) : (updCtx s c f).out = s.out := rfl
@[simp] theorem updCtx_hostMem (s : State) (c : Nat) (f : JobCtx → JobCtx) : (updCtx s c f).hostMem = s.hostMem := rfl
@[simp] theorem updCtx_mem (s : State) (c : Nat) (f : JobCtx → JobCtx) : (updCtx s c f).mem = s.mem := rfl
@[simp] theorem updCtx_tile (s : State) (c : Nat) (f : JobCtx → JobCtx) : (updCtx s c f).tile = s.tile := rfl
@[simp] theorem updCtx_fab (s : State) (c : Nat) (f : JobCtx → JobCtx) : (updCtx s c f).fab = s.fab := rfl
@[simp] theorem updCtx_trw (s : State) (c : Nat) (f : JobCtx → JobCtx) : (updCtx s c f).trw = s.trw := rfl
@[simp] theorem updCtx_rink (s : State) (c : Nat) (f : JobCtx → JobCtx) : (updCtx s c f).rink = s.rink := rfl
@[simp] theorem updCtx_post (s : State) (c : Nat) (f : JobCtx → JobCtx) : (updCtx s c f).post = s.post := rfl
@[simp] theorem updCtx_host (s : State) (c : Nat) (f : JobCtx → JobCtx) : (updCtx s c f).host = s.host := rfl
@[simp] theorem updCtx_cfg (s : State) (c : Nat) (f : JobCtx → JobCtx) : (updCtx s c f).cfg = s.cfg := rfl
@[simp] theorem updCtx_tel (s : State) (c : Nat) (f : JobCtx → JobCtx) : (updCtx s c f).tel = s.tel := rfl
@[simp] theorem updCtx_sec (s : State) (c : Nat) (f : JobCtx → JobCtx) : (updCtx s c f).sec = s.sec := rfl
@[simp] theorem updCtx_pwr (s : State) (c : Nat) (f : JobCtx → JobCtx) : (updCtx s c f).pwr = s.pwr := rfl
@[simp] theorem updCtx_boot (s : State) (c : Nat) (f : JobCtx → JobCtx) : (updCtx s c f).boot = s.boot := rfl
@[simp] theorem updCtx_job_loads (s : State) (c : Nat) (f : JobCtx → JobCtx) : (updCtx s c f).job.loads = s.job.loads := rfl
@[simp] theorem updCtx_job_result (s : State) (c : Nat) (f : JobCtx → JobCtx) : (updCtx s c f).job.result = s.job.result := rfl
@[simp] theorem updCtx_job_resultIndex (s : State) (c : Nat) (f : JobCtx → JobCtx) : (updCtx s c f).job.resultIndex = s.job.resultIndex := rfl
@[simp] theorem updCtx_job_lastAdmit (s : State) (c : Nat) (f : JobCtx → JobCtx) : (updCtx s c f).job.lastAdmit = s.job.lastAdmit := rfl
@[simp] theorem updCtx_job_pools (s : State) (c : Nat) (f : JobCtx → JobCtx) : (updCtx s c f).job.pools = s.job.pools := rfl
@[simp] theorem updCtx_job_courseCtx (s : State) (c : Nat) (f : JobCtx → JobCtx) : (updCtx s c f).job.courseCtx = s.job.courseCtx := rfl
@[simp] theorem updCtx_job_zeroing (s : State) (c : Nat) (f : JobCtx → JobCtx) : (updCtx s c f).job.zeroing = s.job.zeroing := rfl

/-! ### updSeqr -/

@[simp] theorem updSeqr_pending (s : State) (t : Nat) (f : Seqr → Seqr) : (updSeqr s t f).pending = s.pending := rfl
@[simp] theorem updSeqr_free (s : State) (t : Nat) (f : Seqr → Seqr) : (updSeqr s t f).free = s.free := rfl
@[simp] theorem updSeqr_out (s : State) (t : Nat) (f : Seqr → Seqr) : (updSeqr s t f).out = s.out := rfl
@[simp] theorem updSeqr_hostMem (s : State) (t : Nat) (f : Seqr → Seqr) : (updSeqr s t f).hostMem = s.hostMem := rfl
@[simp] theorem updSeqr_mem (s : State) (t : Nat) (f : Seqr → Seqr) : (updSeqr s t f).mem = s.mem := rfl
@[simp] theorem updSeqr_job (s : State) (t : Nat) (f : Seqr → Seqr) : (updSeqr s t f).job = s.job := rfl
@[simp] theorem updSeqr_fab (s : State) (t : Nat) (f : Seqr → Seqr) : (updSeqr s t f).fab = s.fab := rfl
@[simp] theorem updSeqr_trw (s : State) (t : Nat) (f : Seqr → Seqr) : (updSeqr s t f).trw = s.trw := rfl
@[simp] theorem updSeqr_rink (s : State) (t : Nat) (f : Seqr → Seqr) : (updSeqr s t f).rink = s.rink := rfl
@[simp] theorem updSeqr_post (s : State) (t : Nat) (f : Seqr → Seqr) : (updSeqr s t f).post = s.post := rfl
@[simp] theorem updSeqr_host (s : State) (t : Nat) (f : Seqr → Seqr) : (updSeqr s t f).host = s.host := rfl
@[simp] theorem updSeqr_cfg (s : State) (t : Nat) (f : Seqr → Seqr) : (updSeqr s t f).cfg = s.cfg := rfl
@[simp] theorem updSeqr_tel (s : State) (t : Nat) (f : Seqr → Seqr) : (updSeqr s t f).tel = s.tel := rfl
@[simp] theorem updSeqr_sec (s : State) (t : Nat) (f : Seqr → Seqr) : (updSeqr s t f).sec = s.sec := rfl
@[simp] theorem updSeqr_pwr (s : State) (t : Nat) (f : Seqr → Seqr) : (updSeqr s t f).pwr = s.pwr := rfl
@[simp] theorem updSeqr_boot (s : State) (t : Nat) (f : Seqr → Seqr) : (updSeqr s t f).boot = s.boot := rfl
@[simp] theorem updSeqr_tile_store (s : State) (t : Nat) (f : Seqr → Seqr) : (updSeqr s t f).tile.store = s.tile.store := rfl
@[simp] theorem updSeqr_tile_sem (s : State) (t : Nat) (f : Seqr → Seqr) : (updSeqr s t f).tile.sem = s.tile.sem := rfl
@[simp] theorem updSeqr_tile_semUndef (s : State) (t : Nat) (f : Seqr → Seqr) : (updSeqr s t f).tile.semUndef = s.tile.semUndef := rfl
@[simp] theorem updSeqr_tile_vreg (s : State) (t : Nat) (f : Seqr → Seqr) : (updSeqr s t f).tile.vreg = s.tile.vreg := rfl
@[simp] theorem updSeqr_tile_bars (s : State) (t : Nat) (f : Seqr → Seqr) : (updSeqr s t f).tile.bars = s.tile.bars := rfl
@[simp] theorem updSeqr_tile_barGen (s : State) (t : Nat) (f : Seqr → Seqr) : (updSeqr s t f).tile.barGen = s.tile.barGen := rfl
@[simp] theorem updSeqr_tile_courses (s : State) (t : Nat) (f : Seqr → Seqr) : (updSeqr s t f).tile.courses = s.tile.courses := rfl
@[simp] theorem updSeqr_tile_spinUse (s : State) (t : Nat) (f : Seqr → Seqr) : (updSeqr s t f).tile.spinUse = s.tile.spinUse := rfl
@[simp] theorem updSeqr_tile_pairClk (s : State) (t : Nat) (f : Seqr → Seqr) : (updSeqr s t f).tile.pairClk = s.tile.pairClk := rfl

/-! ### updCourse -/

@[simp] theorem updCourse_pending (s : State) (n : Nat) (f : CourseSt → CourseSt) : (updCourse s n f).pending = s.pending := rfl
@[simp] theorem updCourse_free (s : State) (n : Nat) (f : CourseSt → CourseSt) : (updCourse s n f).free = s.free := rfl
@[simp] theorem updCourse_out (s : State) (n : Nat) (f : CourseSt → CourseSt) : (updCourse s n f).out = s.out := rfl
@[simp] theorem updCourse_hostMem (s : State) (n : Nat) (f : CourseSt → CourseSt) : (updCourse s n f).hostMem = s.hostMem := rfl
@[simp] theorem updCourse_mem (s : State) (n : Nat) (f : CourseSt → CourseSt) : (updCourse s n f).mem = s.mem := rfl
@[simp] theorem updCourse_job (s : State) (n : Nat) (f : CourseSt → CourseSt) : (updCourse s n f).job = s.job := rfl
@[simp] theorem updCourse_fab (s : State) (n : Nat) (f : CourseSt → CourseSt) : (updCourse s n f).fab = s.fab := rfl
@[simp] theorem updCourse_trw (s : State) (n : Nat) (f : CourseSt → CourseSt) : (updCourse s n f).trw = s.trw := rfl
@[simp] theorem updCourse_rink (s : State) (n : Nat) (f : CourseSt → CourseSt) : (updCourse s n f).rink = s.rink := rfl
@[simp] theorem updCourse_post (s : State) (n : Nat) (f : CourseSt → CourseSt) : (updCourse s n f).post = s.post := rfl
@[simp] theorem updCourse_host (s : State) (n : Nat) (f : CourseSt → CourseSt) : (updCourse s n f).host = s.host := rfl
@[simp] theorem updCourse_cfg (s : State) (n : Nat) (f : CourseSt → CourseSt) : (updCourse s n f).cfg = s.cfg := rfl
@[simp] theorem updCourse_tel (s : State) (n : Nat) (f : CourseSt → CourseSt) : (updCourse s n f).tel = s.tel := rfl
@[simp] theorem updCourse_sec (s : State) (n : Nat) (f : CourseSt → CourseSt) : (updCourse s n f).sec = s.sec := rfl
@[simp] theorem updCourse_pwr (s : State) (n : Nat) (f : CourseSt → CourseSt) : (updCourse s n f).pwr = s.pwr := rfl
@[simp] theorem updCourse_boot (s : State) (n : Nat) (f : CourseSt → CourseSt) : (updCourse s n f).boot = s.boot := rfl
@[simp] theorem updCourse_tile_store (s : State) (n : Nat) (f : CourseSt → CourseSt) : (updCourse s n f).tile.store = s.tile.store := rfl
@[simp] theorem updCourse_tile_sem (s : State) (n : Nat) (f : CourseSt → CourseSt) : (updCourse s n f).tile.sem = s.tile.sem := rfl
@[simp] theorem updCourse_tile_semUndef (s : State) (n : Nat) (f : CourseSt → CourseSt) : (updCourse s n f).tile.semUndef = s.tile.semUndef := rfl
@[simp] theorem updCourse_tile_vreg (s : State) (n : Nat) (f : CourseSt → CourseSt) : (updCourse s n f).tile.vreg = s.tile.vreg := rfl
@[simp] theorem updCourse_tile_seqs (s : State) (n : Nat) (f : CourseSt → CourseSt) : (updCourse s n f).tile.seqs = s.tile.seqs := rfl
@[simp] theorem updCourse_tile_bars (s : State) (n : Nat) (f : CourseSt → CourseSt) : (updCourse s n f).tile.bars = s.tile.bars := rfl
@[simp] theorem updCourse_tile_barGen (s : State) (n : Nat) (f : CourseSt → CourseSt) : (updCourse s n f).tile.barGen = s.tile.barGen := rfl
@[simp] theorem updCourse_tile_spinUse (s : State) (n : Nat) (f : CourseSt → CourseSt) : (updCourse s n f).tile.spinUse = s.tile.spinUse := rfl
@[simp] theorem updCourse_tile_pairClk (s : State) (n : Nat) (f : CourseSt → CourseSt) : (updCourse s n f).tile.pairClk = s.tile.pairClk := rfl

/-! ### updStack -/

@[simp] theorem updStack_pending (s : State) (k : Nat) (f : StackSt → StackSt) : (updStack s k f).pending = s.pending := rfl
@[simp] theorem updStack_free (s : State) (k : Nat) (f : StackSt → StackSt) : (updStack s k f).free = s.free := rfl
@[simp] theorem updStack_out (s : State) (k : Nat) (f : StackSt → StackSt) : (updStack s k f).out = s.out := rfl
@[simp] theorem updStack_hostMem (s : State) (k : Nat) (f : StackSt → StackSt) : (updStack s k f).hostMem = s.hostMem := rfl
@[simp] theorem updStack_tile (s : State) (k : Nat) (f : StackSt → StackSt) : (updStack s k f).tile = s.tile := rfl
@[simp] theorem updStack_job (s : State) (k : Nat) (f : StackSt → StackSt) : (updStack s k f).job = s.job := rfl
@[simp] theorem updStack_fab (s : State) (k : Nat) (f : StackSt → StackSt) : (updStack s k f).fab = s.fab := rfl
@[simp] theorem updStack_trw (s : State) (k : Nat) (f : StackSt → StackSt) : (updStack s k f).trw = s.trw := rfl
@[simp] theorem updStack_rink (s : State) (k : Nat) (f : StackSt → StackSt) : (updStack s k f).rink = s.rink := rfl
@[simp] theorem updStack_post (s : State) (k : Nat) (f : StackSt → StackSt) : (updStack s k f).post = s.post := rfl
@[simp] theorem updStack_host (s : State) (k : Nat) (f : StackSt → StackSt) : (updStack s k f).host = s.host := rfl
@[simp] theorem updStack_cfg (s : State) (k : Nat) (f : StackSt → StackSt) : (updStack s k f).cfg = s.cfg := rfl
@[simp] theorem updStack_tel (s : State) (k : Nat) (f : StackSt → StackSt) : (updStack s k f).tel = s.tel := rfl
@[simp] theorem updStack_sec (s : State) (k : Nat) (f : StackSt → StackSt) : (updStack s k f).sec = s.sec := rfl
@[simp] theorem updStack_pwr (s : State) (k : Nat) (f : StackSt → StackSt) : (updStack s k f).pwr = s.pwr := rfl
@[simp] theorem updStack_boot (s : State) (k : Nat) (f : StackSt → StackSt) : (updStack s k f).boot = s.boot := rfl
@[simp] theorem updStack_mem_dev (s : State) (k : Nat) (f : StackSt → StackSt) : (updStack s k f).mem.dev = s.mem.dev := rfl
@[simp] theorem updStack_mem_poison (s : State) (k : Nat) (f : StackSt → StackSt) : (updStack s k f).mem.poison = s.mem.poison := rfl
@[simp] theorem updStack_mem_bedLines (s : State) (k : Nat) (f : StackSt → StackSt) : (updStack s k f).mem.bedLines = s.mem.bedLines := rfl
@[simp] theorem updStack_mem_scratch (s : State) (k : Nat) (f : StackSt → StackSt) : (updStack s k f).mem.scratch = s.mem.scratch := rfl
@[simp] theorem updStack_mem_upsets (s : State) (k : Nat) (f : StackSt → StackSt) : (updStack s k f).mem.upsets = s.mem.upsets := rfl

/-! ### updLink -/

@[simp] theorem updLink_pending (s : State) (p : Nat) (f : Link → Link) : (updLink s p f).pending = s.pending := rfl
@[simp] theorem updLink_free (s : State) (p : Nat) (f : Link → Link) : (updLink s p f).free = s.free := rfl
@[simp] theorem updLink_out (s : State) (p : Nat) (f : Link → Link) : (updLink s p f).out = s.out := rfl
@[simp] theorem updLink_hostMem (s : State) (p : Nat) (f : Link → Link) : (updLink s p f).hostMem = s.hostMem := rfl
@[simp] theorem updLink_mem (s : State) (p : Nat) (f : Link → Link) : (updLink s p f).mem = s.mem := rfl
@[simp] theorem updLink_tile (s : State) (p : Nat) (f : Link → Link) : (updLink s p f).tile = s.tile := rfl
@[simp] theorem updLink_job (s : State) (p : Nat) (f : Link → Link) : (updLink s p f).job = s.job := rfl
@[simp] theorem updLink_trw (s : State) (p : Nat) (f : Link → Link) : (updLink s p f).trw = s.trw := rfl
@[simp] theorem updLink_rink (s : State) (p : Nat) (f : Link → Link) : (updLink s p f).rink = s.rink := rfl
@[simp] theorem updLink_post (s : State) (p : Nat) (f : Link → Link) : (updLink s p f).post = s.post := rfl
@[simp] theorem updLink_host (s : State) (p : Nat) (f : Link → Link) : (updLink s p f).host = s.host := rfl
@[simp] theorem updLink_cfg (s : State) (p : Nat) (f : Link → Link) : (updLink s p f).cfg = s.cfg := rfl
@[simp] theorem updLink_tel (s : State) (p : Nat) (f : Link → Link) : (updLink s p f).tel = s.tel := rfl
@[simp] theorem updLink_sec (s : State) (p : Nat) (f : Link → Link) : (updLink s p f).sec = s.sec := rfl
@[simp] theorem updLink_pwr (s : State) (p : Nat) (f : Link → Link) : (updLink s p f).pwr = s.pwr := rfl
@[simp] theorem updLink_boot (s : State) (p : Nat) (f : Link → Link) : (updLink s p f).boot = s.boot := rfl
@[simp] theorem updLink_fab_absent (s : State) (p : Nat) (f : Link → Link) : (updLink s p f).fab.absent = s.fab.absent := rfl
@[simp] theorem updLink_fab_keys (s : State) (p : Nat) (f : Link → Link) : (updLink s p f).fab.keys = s.fab.keys := rfl
@[simp] theorem updLink_fab_tags (s : State) (p : Nat) (f : Link → Link) : (updLink s p f).fab.tags = s.fab.tags := rfl
@[simp] theorem updLink_fab_time (s : State) (p : Nat) (f : Link → Link) : (updLink s p f).fab.time = s.fab.time := rfl
@[simp] theorem updLink_fab_locked (s : State) (p : Nat) (f : Link → Link) : (updLink s p f).fab.locked = s.fab.locked := rfl
@[simp] theorem updLink_fab_holdover (s : State) (p : Nat) (f : Link → Link) : (updLink s p f).fab.holdover = s.fab.holdover := rfl
@[simp] theorem updLink_fab_follow (s : State) (p : Nat) (f : Link → Link) : (updLink s p f).fab.follow = s.fab.follow := rfl
@[simp] theorem updLink_fab_hops (s : State) (p : Nat) (f : Link → Link) : (updLink s p f).fab.hops = s.fab.hops := rfl
@[simp] theorem updLink_fab_slew (s : State) (p : Nat) (f : Link → Link) : (updLink s p f).fab.slew = s.fab.slew := rfl
@[simp] theorem updLink_fab_timeWasSet (s : State) (p : Nat) (f : Link → Link) : (updLink s p f).fab.timeWasSet = s.fab.timeWasSet := rfl
@[simp] theorem updLink_fab_rx (s : State) (p : Nat) (f : Link → Link) : (updLink s p f).fab.rx = s.fab.rx := rfl
@[simp] theorem updLink_fab_slewWait (s : State) (p : Nat) (f : Link → Link) : (updLink s p f).fab.slewWait = s.fab.slewWait := rfl
@[simp] theorem updLink_fab_orphans (s : State) (p : Nat) (f : Link → Link) : (updLink s p f).fab.orphans = s.fab.orphans := rfl

/-! ### updTrowel -/

@[simp] theorem updTrowel_pending (s : State) (k : Nat) (f : Trowel → Trowel) : (updTrowel s k f).pending = s.pending := rfl
@[simp] theorem updTrowel_free (s : State) (k : Nat) (f : Trowel → Trowel) : (updTrowel s k f).free = s.free := rfl
@[simp] theorem updTrowel_out (s : State) (k : Nat) (f : Trowel → Trowel) : (updTrowel s k f).out = s.out := rfl
@[simp] theorem updTrowel_hostMem (s : State) (k : Nat) (f : Trowel → Trowel) : (updTrowel s k f).hostMem = s.hostMem := rfl
@[simp] theorem updTrowel_mem (s : State) (k : Nat) (f : Trowel → Trowel) : (updTrowel s k f).mem = s.mem := rfl
@[simp] theorem updTrowel_tile (s : State) (k : Nat) (f : Trowel → Trowel) : (updTrowel s k f).tile = s.tile := rfl
@[simp] theorem updTrowel_job (s : State) (k : Nat) (f : Trowel → Trowel) : (updTrowel s k f).job = s.job := rfl
@[simp] theorem updTrowel_fab (s : State) (k : Nat) (f : Trowel → Trowel) : (updTrowel s k f).fab = s.fab := rfl
@[simp] theorem updTrowel_rink (s : State) (k : Nat) (f : Trowel → Trowel) : (updTrowel s k f).rink = s.rink := rfl
@[simp] theorem updTrowel_post (s : State) (k : Nat) (f : Trowel → Trowel) : (updTrowel s k f).post = s.post := rfl
@[simp] theorem updTrowel_host (s : State) (k : Nat) (f : Trowel → Trowel) : (updTrowel s k f).host = s.host := rfl
@[simp] theorem updTrowel_cfg (s : State) (k : Nat) (f : Trowel → Trowel) : (updTrowel s k f).cfg = s.cfg := rfl
@[simp] theorem updTrowel_tel (s : State) (k : Nat) (f : Trowel → Trowel) : (updTrowel s k f).tel = s.tel := rfl
@[simp] theorem updTrowel_sec (s : State) (k : Nat) (f : Trowel → Trowel) : (updTrowel s k f).sec = s.sec := rfl
@[simp] theorem updTrowel_pwr (s : State) (k : Nat) (f : Trowel → Trowel) : (updTrowel s k f).pwr = s.pwr := rfl
@[simp] theorem updTrowel_boot (s : State) (k : Nat) (f : Trowel → Trowel) : (updTrowel s k f).boot = s.boot := rfl

/-! ### updPair -/

@[simp] theorem updPair_pending (s : State) (p : Nat) (f : Pair → Pair) : (updPair s p f).pending = s.pending := rfl
@[simp] theorem updPair_free (s : State) (p : Nat) (f : Pair → Pair) : (updPair s p f).free = s.free := rfl
@[simp] theorem updPair_out (s : State) (p : Nat) (f : Pair → Pair) : (updPair s p f).out = s.out := rfl
@[simp] theorem updPair_hostMem (s : State) (p : Nat) (f : Pair → Pair) : (updPair s p f).hostMem = s.hostMem := rfl
@[simp] theorem updPair_mem (s : State) (p : Nat) (f : Pair → Pair) : (updPair s p f).mem = s.mem := rfl
@[simp] theorem updPair_tile (s : State) (p : Nat) (f : Pair → Pair) : (updPair s p f).tile = s.tile := rfl
@[simp] theorem updPair_job (s : State) (p : Nat) (f : Pair → Pair) : (updPair s p f).job = s.job := rfl
@[simp] theorem updPair_fab (s : State) (p : Nat) (f : Pair → Pair) : (updPair s p f).fab = s.fab := rfl
@[simp] theorem updPair_trw (s : State) (p : Nat) (f : Pair → Pair) : (updPair s p f).trw = s.trw := rfl
@[simp] theorem updPair_rink (s : State) (p : Nat) (f : Pair → Pair) : (updPair s p f).rink = s.rink := rfl
@[simp] theorem updPair_post (s : State) (p : Nat) (f : Pair → Pair) : (updPair s p f).post = s.post := rfl
@[simp] theorem updPair_host (s : State) (p : Nat) (f : Pair → Pair) : (updPair s p f).host = s.host := rfl
@[simp] theorem updPair_cfg (s : State) (p : Nat) (f : Pair → Pair) : (updPair s p f).cfg = s.cfg := rfl
@[simp] theorem updPair_tel (s : State) (p : Nat) (f : Pair → Pair) : (updPair s p f).tel = s.tel := rfl
@[simp] theorem updPair_sec (s : State) (p : Nat) (f : Pair → Pair) : (updPair s p f).sec = s.sec := rfl
@[simp] theorem updPair_boot (s : State) (p : Nat) (f : Pair → Pair) : (updPair s p f).boot = s.boot := rfl
@[simp] theorem updPair_pwr_state (s : State) (p : Nat) (f : Pair → Pair) : (updPair s p f).pwr.state = s.pwr.state := rfl
@[simp] theorem updPair_pwr_dead (s : State) (p : Nat) (f : Pair → Pair) : (updPair s p f).pwr.dead = s.pwr.dead := rfl
@[simp] theorem updPair_pwr_waking (s : State) (p : Nat) (f : Pair → Pair) : (updPair s p f).pwr.waking = s.pwr.waking := rfl
@[simp] theorem updPair_pwr_coolant (s : State) (p : Nat) (f : Pair → Pair) : (updPair s p f).pwr.coolant = s.pwr.coolant := rfl
@[simp] theorem updPair_pwr_brake (s : State) (p : Nat) (f : Pair → Pair) : (updPair s p f).pwr.brake = s.pwr.brake := rfl
@[simp] theorem updPair_pwr_throttle (s : State) (p : Nat) (f : Pair → Pair) : (updPair s p f).pwr.throttle = s.pwr.throttle := rfl
@[simp] theorem updPair_pwr_thermtrip (s : State) (p : Nat) (f : Pair → Pair) : (updPair s p f).pwr.thermtrip = s.pwr.thermtrip := rfl
@[simp] theorem updPair_pwr_wakes (s : State) (p : Nat) (f : Pair → Pair) : (updPair s p f).pwr.wakes = s.pwr.wakes := rfl
@[simp] theorem updPair_pwr_ceil (s : State) (p : Nat) (f : Pair → Pair) : (updPair s p f).pwr.ceil = s.pwr.ceil := rfl
@[simp] theorem updPair_pwr_ceilCause (s : State) (p : Nat) (f : Pair → Pair) : (updPair s p f).pwr.ceilCause = s.pwr.ceilCause := rfl
@[simp] theorem updPair_pwr_watts (s : State) (p : Nat) (f : Pair → Pair) : (updPair s p f).pwr.watts = s.pwr.watts := rfl
@[simp] theorem updPair_pwr_amps (s : State) (p : Nat) (f : Pair → Pair) : (updPair s p f).pwr.amps = s.pwr.amps := rfl
@[simp] theorem updPair_pwr_iodFrac (s : State) (p : Nat) (f : Pair → Pair) : (updPair s p f).pwr.iodFrac = s.pwr.iodFrac := rfl
@[simp] theorem updPair_pwr_trwFrac (s : State) (p : Nat) (f : Pair → Pair) : (updPair s p f).pwr.trwFrac = s.pwr.trwFrac := rfl
@[simp] theorem updPair_pwr_iodTemp (s : State) (p : Nat) (f : Pair → Pair) : (updPair s p f).pwr.iodTemp = s.pwr.iodTemp := rfl

/-! ### updUnit -/

@[simp] theorem updUnit_pending (s : State) (u : MediaUnit) (f : RUnit → RUnit) : (updUnit s u f).pending = s.pending := rfl
@[simp] theorem updUnit_free (s : State) (u : MediaUnit) (f : RUnit → RUnit) : (updUnit s u f).free = s.free := rfl
@[simp] theorem updUnit_out (s : State) (u : MediaUnit) (f : RUnit → RUnit) : (updUnit s u f).out = s.out := rfl
@[simp] theorem updUnit_hostMem (s : State) (u : MediaUnit) (f : RUnit → RUnit) : (updUnit s u f).hostMem = s.hostMem := rfl
@[simp] theorem updUnit_mem (s : State) (u : MediaUnit) (f : RUnit → RUnit) : (updUnit s u f).mem = s.mem := rfl
@[simp] theorem updUnit_tile (s : State) (u : MediaUnit) (f : RUnit → RUnit) : (updUnit s u f).tile = s.tile := rfl
@[simp] theorem updUnit_job (s : State) (u : MediaUnit) (f : RUnit → RUnit) : (updUnit s u f).job = s.job := rfl
@[simp] theorem updUnit_fab (s : State) (u : MediaUnit) (f : RUnit → RUnit) : (updUnit s u f).fab = s.fab := rfl
@[simp] theorem updUnit_trw (s : State) (u : MediaUnit) (f : RUnit → RUnit) : (updUnit s u f).trw = s.trw := rfl
@[simp] theorem updUnit_post (s : State) (u : MediaUnit) (f : RUnit → RUnit) : (updUnit s u f).post = s.post := rfl
@[simp] theorem updUnit_host (s : State) (u : MediaUnit) (f : RUnit → RUnit) : (updUnit s u f).host = s.host := rfl
@[simp] theorem updUnit_cfg (s : State) (u : MediaUnit) (f : RUnit → RUnit) : (updUnit s u f).cfg = s.cfg := rfl
@[simp] theorem updUnit_tel (s : State) (u : MediaUnit) (f : RUnit → RUnit) : (updUnit s u f).tel = s.tel := rfl
@[simp] theorem updUnit_sec (s : State) (u : MediaUnit) (f : RUnit → RUnit) : (updUnit s u f).sec = s.sec := rfl
@[simp] theorem updUnit_pwr (s : State) (u : MediaUnit) (f : RUnit → RUnit) : (updUnit s u f).pwr = s.pwr := rfl
@[simp] theorem updUnit_boot (s : State) (u : MediaUnit) (f : RUnit → RUnit) : (updUnit s u f).boot = s.boot := rfl
@[simp] theorem updUnit_rink_table (s : State) (u : MediaUnit) (f : RUnit → RUnit) : (updUnit s u f).rink.table = s.rink.table := rfl
@[simp] theorem updUnit_rink_strm (s : State) (u : MediaUnit) (f : RUnit → RUnit) : (updUnit s u f).rink.strm = s.rink.strm := rfl
@[simp] theorem updUnit_rink_tasks (s : State) (u : MediaUnit) (f : RUnit → RUnit) : (updUnit s u f).rink.tasks = s.rink.tasks := rfl
@[simp] theorem updUnit_rink_ahead (s : State) (u : MediaUnit) (f : RUnit → RUnit) : (updUnit s u f).rink.ahead = s.rink.ahead := rfl
@[simp] theorem updUnit_rink_next (s : State) (u : MediaUnit) (f : RUnit → RUnit) : (updUnit s u f).rink.next = s.rink.next := rfl
@[simp] theorem updUnit_rink_merr (s : State) (u : MediaUnit) (f : RUnit → RUnit) : (updUnit s u f).rink.merr = s.rink.merr := rfl
@[simp] theorem updUnit_rink_merrOvf (s : State) (u : MediaUnit) (f : RUnit → RUnit) : (updUnit s u f).rink.merrOvf = s.rink.merrOvf := rfl
@[simp] theorem updUnit_rink_spill (s : State) (u : MediaUnit) (f : RUnit → RUnit) : (updUnit s u f).rink.spill = s.rink.spill := rfl
@[simp] theorem updUnit_rink_tails (s : State) (u : MediaUnit) (f : RUnit → RUnit) : (updUnit s u f).rink.tails = s.rink.tails := rfl
@[simp] theorem updUnit_rink_turn (s : State) (u : MediaUnit) (f : RUnit → RUnit) : (updUnit s u f).rink.turn = s.rink.turn := rfl

/-! ### updTrn -/

@[simp] theorem updTrn_pending (s : State) (c : Nat) (f : JobTrn → JobTrn) : (updTrn s c f).pending = s.pending := rfl
@[simp] theorem updTrn_free (s : State) (c : Nat) (f : JobTrn → JobTrn) : (updTrn s c f).free = s.free := rfl
@[simp] theorem updTrn_out (s : State) (c : Nat) (f : JobTrn → JobTrn) : (updTrn s c f).out = s.out := rfl
@[simp] theorem updTrn_hostMem (s : State) (c : Nat) (f : JobTrn → JobTrn) : (updTrn s c f).hostMem = s.hostMem := rfl
@[simp] theorem updTrn_mem (s : State) (c : Nat) (f : JobTrn → JobTrn) : (updTrn s c f).mem = s.mem := rfl
@[simp] theorem updTrn_tile (s : State) (c : Nat) (f : JobTrn → JobTrn) : (updTrn s c f).tile = s.tile := rfl
@[simp] theorem updTrn_fab (s : State) (c : Nat) (f : JobTrn → JobTrn) : (updTrn s c f).fab = s.fab := rfl
@[simp] theorem updTrn_trw (s : State) (c : Nat) (f : JobTrn → JobTrn) : (updTrn s c f).trw = s.trw := rfl
@[simp] theorem updTrn_rink (s : State) (c : Nat) (f : JobTrn → JobTrn) : (updTrn s c f).rink = s.rink := rfl
@[simp] theorem updTrn_post (s : State) (c : Nat) (f : JobTrn → JobTrn) : (updTrn s c f).post = s.post := rfl
@[simp] theorem updTrn_host (s : State) (c : Nat) (f : JobTrn → JobTrn) : (updTrn s c f).host = s.host := rfl
@[simp] theorem updTrn_cfg (s : State) (c : Nat) (f : JobTrn → JobTrn) : (updTrn s c f).cfg = s.cfg := rfl
@[simp] theorem updTrn_tel (s : State) (c : Nat) (f : JobTrn → JobTrn) : (updTrn s c f).tel = s.tel := rfl
@[simp] theorem updTrn_sec (s : State) (c : Nat) (f : JobTrn → JobTrn) : (updTrn s c f).sec = s.sec := rfl
@[simp] theorem updTrn_pwr (s : State) (c : Nat) (f : JobTrn → JobTrn) : (updTrn s c f).pwr = s.pwr := rfl
@[simp] theorem updTrn_boot (s : State) (c : Nat) (f : JobTrn → JobTrn) : (updTrn s c f).boot = s.boot := rfl
@[simp] theorem updTrn_job_loads (s : State) (c : Nat) (f : JobTrn → JobTrn) : (updTrn s c f).job.loads = s.job.loads := rfl
@[simp] theorem updTrn_job_result (s : State) (c : Nat) (f : JobTrn → JobTrn) : (updTrn s c f).job.result = s.job.result := rfl
@[simp] theorem updTrn_job_resultIndex (s : State) (c : Nat) (f : JobTrn → JobTrn) : (updTrn s c f).job.resultIndex = s.job.resultIndex := rfl
@[simp] theorem updTrn_job_lastAdmit (s : State) (c : Nat) (f : JobTrn → JobTrn) : (updTrn s c f).job.lastAdmit = s.job.lastAdmit := rfl
@[simp] theorem updTrn_job_pools (s : State) (c : Nat) (f : JobTrn → JobTrn) : (updTrn s c f).job.pools = s.job.pools := rfl
@[simp] theorem updTrn_job_courseCtx (s : State) (c : Nat) (f : JobTrn → JobTrn) : (updTrn s c f).job.courseCtx = s.job.courseCtx := rfl
@[simp] theorem updTrn_job_zeroing (s : State) (c : Nat) (f : JobTrn → JobTrn) : (updTrn s c f).job.zeroing = s.job.zeroing := rfl

/-! ### updFab -/

@[simp] theorem updFab_pending (s : State) (c : Nat) (f : JobFab → JobFab) : (updFab s c f).pending = s.pending := rfl
@[simp] theorem updFab_free (s : State) (c : Nat) (f : JobFab → JobFab) : (updFab s c f).free = s.free := rfl
@[simp] theorem updFab_out (s : State) (c : Nat) (f : JobFab → JobFab) : (updFab s c f).out = s.out := rfl
@[simp] theorem updFab_hostMem (s : State) (c : Nat) (f : JobFab → JobFab) : (updFab s c f).hostMem = s.hostMem := rfl
@[simp] theorem updFab_mem (s : State) (c : Nat) (f : JobFab → JobFab) : (updFab s c f).mem = s.mem := rfl
@[simp] theorem updFab_tile (s : State) (c : Nat) (f : JobFab → JobFab) : (updFab s c f).tile = s.tile := rfl
@[simp] theorem updFab_fab (s : State) (c : Nat) (f : JobFab → JobFab) : (updFab s c f).fab = s.fab := rfl
@[simp] theorem updFab_trw (s : State) (c : Nat) (f : JobFab → JobFab) : (updFab s c f).trw = s.trw := rfl
@[simp] theorem updFab_rink (s : State) (c : Nat) (f : JobFab → JobFab) : (updFab s c f).rink = s.rink := rfl
@[simp] theorem updFab_post (s : State) (c : Nat) (f : JobFab → JobFab) : (updFab s c f).post = s.post := rfl
@[simp] theorem updFab_host (s : State) (c : Nat) (f : JobFab → JobFab) : (updFab s c f).host = s.host := rfl
@[simp] theorem updFab_cfg (s : State) (c : Nat) (f : JobFab → JobFab) : (updFab s c f).cfg = s.cfg := rfl
@[simp] theorem updFab_tel (s : State) (c : Nat) (f : JobFab → JobFab) : (updFab s c f).tel = s.tel := rfl
@[simp] theorem updFab_sec (s : State) (c : Nat) (f : JobFab → JobFab) : (updFab s c f).sec = s.sec := rfl
@[simp] theorem updFab_pwr (s : State) (c : Nat) (f : JobFab → JobFab) : (updFab s c f).pwr = s.pwr := rfl
@[simp] theorem updFab_boot (s : State) (c : Nat) (f : JobFab → JobFab) : (updFab s c f).boot = s.boot := rfl
@[simp] theorem updFab_job_loads (s : State) (c : Nat) (f : JobFab → JobFab) : (updFab s c f).job.loads = s.job.loads := rfl
@[simp] theorem updFab_job_result (s : State) (c : Nat) (f : JobFab → JobFab) : (updFab s c f).job.result = s.job.result := rfl
@[simp] theorem updFab_job_resultIndex (s : State) (c : Nat) (f : JobFab → JobFab) : (updFab s c f).job.resultIndex = s.job.resultIndex := rfl
@[simp] theorem updFab_job_lastAdmit (s : State) (c : Nat) (f : JobFab → JobFab) : (updFab s c f).job.lastAdmit = s.job.lastAdmit := rfl
@[simp] theorem updFab_job_pools (s : State) (c : Nat) (f : JobFab → JobFab) : (updFab s c f).job.pools = s.job.pools := rfl
@[simp] theorem updFab_job_courseCtx (s : State) (c : Nat) (f : JobFab → JobFab) : (updFab s c f).job.courseCtx = s.job.courseCtx := rfl
@[simp] theorem updFab_job_zeroing (s : State) (c : Nat) (f : JobFab → JobFab) : (updFab s c f).job.zeroing = s.job.zeroing := rfl

/-! ### updBnd -/

@[simp] theorem updBnd_pending (s : State) (c : Nat) (f : Boundary → Boundary) : (updBnd s c f).pending = s.pending := rfl
@[simp] theorem updBnd_free (s : State) (c : Nat) (f : Boundary → Boundary) : (updBnd s c f).free = s.free := rfl
@[simp] theorem updBnd_out (s : State) (c : Nat) (f : Boundary → Boundary) : (updBnd s c f).out = s.out := rfl
@[simp] theorem updBnd_hostMem (s : State) (c : Nat) (f : Boundary → Boundary) : (updBnd s c f).hostMem = s.hostMem := rfl
@[simp] theorem updBnd_mem (s : State) (c : Nat) (f : Boundary → Boundary) : (updBnd s c f).mem = s.mem := rfl
@[simp] theorem updBnd_tile (s : State) (c : Nat) (f : Boundary → Boundary) : (updBnd s c f).tile = s.tile := rfl
@[simp] theorem updBnd_fab (s : State) (c : Nat) (f : Boundary → Boundary) : (updBnd s c f).fab = s.fab := rfl
@[simp] theorem updBnd_trw (s : State) (c : Nat) (f : Boundary → Boundary) : (updBnd s c f).trw = s.trw := rfl
@[simp] theorem updBnd_rink (s : State) (c : Nat) (f : Boundary → Boundary) : (updBnd s c f).rink = s.rink := rfl
@[simp] theorem updBnd_post (s : State) (c : Nat) (f : Boundary → Boundary) : (updBnd s c f).post = s.post := rfl
@[simp] theorem updBnd_host (s : State) (c : Nat) (f : Boundary → Boundary) : (updBnd s c f).host = s.host := rfl
@[simp] theorem updBnd_cfg (s : State) (c : Nat) (f : Boundary → Boundary) : (updBnd s c f).cfg = s.cfg := rfl
@[simp] theorem updBnd_tel (s : State) (c : Nat) (f : Boundary → Boundary) : (updBnd s c f).tel = s.tel := rfl
@[simp] theorem updBnd_sec (s : State) (c : Nat) (f : Boundary → Boundary) : (updBnd s c f).sec = s.sec := rfl
@[simp] theorem updBnd_pwr (s : State) (c : Nat) (f : Boundary → Boundary) : (updBnd s c f).pwr = s.pwr := rfl
@[simp] theorem updBnd_boot (s : State) (c : Nat) (f : Boundary → Boundary) : (updBnd s c f).boot = s.boot := rfl
@[simp] theorem updBnd_job_loads (s : State) (c : Nat) (f : Boundary → Boundary) : (updBnd s c f).job.loads = s.job.loads := rfl
@[simp] theorem updBnd_job_result (s : State) (c : Nat) (f : Boundary → Boundary) : (updBnd s c f).job.result = s.job.result := rfl
@[simp] theorem updBnd_job_resultIndex (s : State) (c : Nat) (f : Boundary → Boundary) : (updBnd s c f).job.resultIndex = s.job.resultIndex := rfl
@[simp] theorem updBnd_job_lastAdmit (s : State) (c : Nat) (f : Boundary → Boundary) : (updBnd s c f).job.lastAdmit = s.job.lastAdmit := rfl
@[simp] theorem updBnd_job_pools (s : State) (c : Nat) (f : Boundary → Boundary) : (updBnd s c f).job.pools = s.job.pools := rfl
@[simp] theorem updBnd_job_courseCtx (s : State) (c : Nat) (f : Boundary → Boundary) : (updBnd s c f).job.courseCtx = s.job.courseCtx := rfl
@[simp] theorem updBnd_job_zeroing (s : State) (c : Nat) (f : Boundary → Boundary) : (updBnd s c f).job.zeroing = s.job.zeroing := rfl

/-! ### updChan -/

@[simp] theorem updChan_pending (s : State) (ch : Nat) (f : DmaChan → DmaChan) : (updChan s ch f).pending = s.pending := rfl
@[simp] theorem updChan_free (s : State) (ch : Nat) (f : DmaChan → DmaChan) : (updChan s ch f).free = s.free := rfl
@[simp] theorem updChan_out (s : State) (ch : Nat) (f : DmaChan → DmaChan) : (updChan s ch f).out = s.out := rfl
@[simp] theorem updChan_hostMem (s : State) (ch : Nat) (f : DmaChan → DmaChan) : (updChan s ch f).hostMem = s.hostMem := rfl
@[simp] theorem updChan_mem (s : State) (ch : Nat) (f : DmaChan → DmaChan) : (updChan s ch f).mem = s.mem := rfl
@[simp] theorem updChan_tile (s : State) (ch : Nat) (f : DmaChan → DmaChan) : (updChan s ch f).tile = s.tile := rfl
@[simp] theorem updChan_job (s : State) (ch : Nat) (f : DmaChan → DmaChan) : (updChan s ch f).job = s.job := rfl
@[simp] theorem updChan_fab (s : State) (ch : Nat) (f : DmaChan → DmaChan) : (updChan s ch f).fab = s.fab := rfl
@[simp] theorem updChan_trw (s : State) (ch : Nat) (f : DmaChan → DmaChan) : (updChan s ch f).trw = s.trw := rfl
@[simp] theorem updChan_rink (s : State) (ch : Nat) (f : DmaChan → DmaChan) : (updChan s ch f).rink = s.rink := rfl
@[simp] theorem updChan_post (s : State) (ch : Nat) (f : DmaChan → DmaChan) : (updChan s ch f).post = s.post := rfl
@[simp] theorem updChan_cfg (s : State) (ch : Nat) (f : DmaChan → DmaChan) : (updChan s ch f).cfg = s.cfg := rfl
@[simp] theorem updChan_tel (s : State) (ch : Nat) (f : DmaChan → DmaChan) : (updChan s ch f).tel = s.tel := rfl
@[simp] theorem updChan_sec (s : State) (ch : Nat) (f : DmaChan → DmaChan) : (updChan s ch f).sec = s.sec := rfl
@[simp] theorem updChan_pwr (s : State) (ch : Nat) (f : DmaChan → DmaChan) : (updChan s ch f).pwr = s.pwr := rfl
@[simp] theorem updChan_boot (s : State) (ch : Nat) (f : DmaChan → DmaChan) : (updChan s ch f).boot = s.boot := rfl
@[simp] theorem updChan_host_regs (s : State) (ch : Nat) (f : DmaChan → DmaChan) : (updChan s ch f).host.regs = s.host.regs := rfl
@[simp] theorem updChan_host_lows (s : State) (ch : Nat) (f : DmaChan → DmaChan) : (updChan s ch f).host.lows = s.host.lows := rfl
@[simp] theorem updChan_host_latch (s : State) (ch : Nat) (f : DmaChan → DmaChan) : (updChan s ch f).host.latch = s.host.latch := rfl
@[simp] theorem updChan_host_acc (s : State) (ch : Nat) (f : DmaChan → DmaChan) : (updChan s ch f).host.acc = s.host.acc := rfl
@[simp] theorem updChan_host_irqStatus (s : State) (ch : Nat) (f : DmaChan → DmaChan) : (updChan s ch f).host.irqStatus = s.host.irqStatus := rfl
@[simp] theorem updChan_host_irqEnable (s : State) (ch : Nat) (f : DmaChan → DmaChan) : (updChan s ch f).host.irqEnable = s.host.irqEnable := rfl
@[simp] theorem updChan_host_bar4Err (s : State) (ch : Nat) (f : DmaChan → DmaChan) : (updChan s ch f).host.bar4Err = s.host.bar4Err := rfl
@[simp] theorem updChan_host_bar4ErrHeld (s : State) (ch : Nat) (f : DmaChan → DmaChan) : (updChan s ch f).host.bar4ErrHeld = s.host.bar4ErrHeld := rfl
@[simp] theorem updChan_host_bar4Log (s : State) (ch : Nat) (f : DmaChan → DmaChan) : (updChan s ch f).host.bar4Log = s.host.bar4Log := rfl
@[simp] theorem updChan_host_d3 (s : State) (ch : Nat) (f : DmaChan → DmaChan) : (updChan s ch f).host.d3 = s.host.d3 := rfl
@[simp] theorem updChan_host_linkLost (s : State) (ch : Nat) (f : DmaChan → DmaChan) : (updChan s ch f).host.linkLost = s.host.linkLost := rfl
@[simp] theorem updChan_host_evq (s : State) (ch : Nat) (f : DmaChan → DmaChan) : (updChan s ch f).host.evq = s.host.evq := rfl
@[simp] theorem updChan_host_evqLost (s : State) (ch : Nat) (f : DmaChan → DmaChan) : (updChan s ch f).host.evqLost = s.host.evqLost := rfl
@[simp] theorem updChan_host_fw (s : State) (ch : Nat) (f : DmaChan → DmaChan) : (updChan s ch f).host.fw = s.host.fw := rfl
@[simp] theorem updChan_host_msixOpen (s : State) (ch : Nat) (f : DmaChan → DmaChan) : (updChan s ch f).host.msixOpen = s.host.msixOpen := rfl
@[simp] theorem updChan_host_msixPend (s : State) (ch : Nat) (f : DmaChan → DmaChan) : (updChan s ch f).host.msixPend = s.host.msixPend := rfl
@[simp] theorem updChan_host_msixTbl (s : State) (ch : Nat) (f : DmaChan → DmaChan) : (updChan s ch f).host.msixTbl = s.host.msixTbl := rfl
@[simp] theorem updChan_host_eid (s : State) (ch : Nat) (f : DmaChan → DmaChan) : (updChan s ch f).host.eid = s.host.eid := rfl
@[simp] theorem updChan_host_i3cAddr (s : State) (ch : Nat) (f : DmaChan → DmaChan) : (updChan s ch f).host.i3cAddr = s.host.i3cAddr := rfl
@[simp] theorem updChan_host_i3cOff (s : State) (ch : Nat) (f : DmaChan → DmaChan) : (updChan s ch f).host.i3cOff = s.host.i3cOff := rfl

/-! ### setRw -/

@[simp] theorem setRw_pending (s : State) (off : Nat) (v : Word) : (setRw s off v).pending = s.pending := rfl
@[simp] theorem setRw_free (s : State) (off : Nat) (v : Word) : (setRw s off v).free = s.free := rfl
@[simp] theorem setRw_out (s : State) (off : Nat) (v : Word) : (setRw s off v).out = s.out := rfl
@[simp] theorem setRw_hostMem (s : State) (off : Nat) (v : Word) : (setRw s off v).hostMem = s.hostMem := rfl
@[simp] theorem setRw_mem (s : State) (off : Nat) (v : Word) : (setRw s off v).mem = s.mem := rfl
@[simp] theorem setRw_tile (s : State) (off : Nat) (v : Word) : (setRw s off v).tile = s.tile := rfl
@[simp] theorem setRw_job (s : State) (off : Nat) (v : Word) : (setRw s off v).job = s.job := rfl
@[simp] theorem setRw_fab (s : State) (off : Nat) (v : Word) : (setRw s off v).fab = s.fab := rfl
@[simp] theorem setRw_trw (s : State) (off : Nat) (v : Word) : (setRw s off v).trw = s.trw := rfl
@[simp] theorem setRw_rink (s : State) (off : Nat) (v : Word) : (setRw s off v).rink = s.rink := rfl
@[simp] theorem setRw_post (s : State) (off : Nat) (v : Word) : (setRw s off v).post = s.post := rfl
@[simp] theorem setRw_cfg (s : State) (off : Nat) (v : Word) : (setRw s off v).cfg = s.cfg := rfl
@[simp] theorem setRw_tel (s : State) (off : Nat) (v : Word) : (setRw s off v).tel = s.tel := rfl
@[simp] theorem setRw_sec (s : State) (off : Nat) (v : Word) : (setRw s off v).sec = s.sec := rfl
@[simp] theorem setRw_pwr (s : State) (off : Nat) (v : Word) : (setRw s off v).pwr = s.pwr := rfl
@[simp] theorem setRw_boot (s : State) (off : Nat) (v : Word) : (setRw s off v).boot = s.boot := rfl
@[simp] theorem setRw_host_lows (s : State) (off : Nat) (v : Word) : (setRw s off v).host.lows = s.host.lows := rfl
@[simp] theorem setRw_host_latch (s : State) (off : Nat) (v : Word) : (setRw s off v).host.latch = s.host.latch := rfl
@[simp] theorem setRw_host_acc (s : State) (off : Nat) (v : Word) : (setRw s off v).host.acc = s.host.acc := rfl
@[simp] theorem setRw_host_irqStatus (s : State) (off : Nat) (v : Word) : (setRw s off v).host.irqStatus = s.host.irqStatus := rfl
@[simp] theorem setRw_host_irqEnable (s : State) (off : Nat) (v : Word) : (setRw s off v).host.irqEnable = s.host.irqEnable := rfl
@[simp] theorem setRw_host_bar4Err (s : State) (off : Nat) (v : Word) : (setRw s off v).host.bar4Err = s.host.bar4Err := rfl
@[simp] theorem setRw_host_bar4ErrHeld (s : State) (off : Nat) (v : Word) : (setRw s off v).host.bar4ErrHeld = s.host.bar4ErrHeld := rfl
@[simp] theorem setRw_host_bar4Log (s : State) (off : Nat) (v : Word) : (setRw s off v).host.bar4Log = s.host.bar4Log := rfl
@[simp] theorem setRw_host_d3 (s : State) (off : Nat) (v : Word) : (setRw s off v).host.d3 = s.host.d3 := rfl
@[simp] theorem setRw_host_linkLost (s : State) (off : Nat) (v : Word) : (setRw s off v).host.linkLost = s.host.linkLost := rfl
@[simp] theorem setRw_host_dma (s : State) (off : Nat) (v : Word) : (setRw s off v).host.dma = s.host.dma := rfl
@[simp] theorem setRw_host_evq (s : State) (off : Nat) (v : Word) : (setRw s off v).host.evq = s.host.evq := rfl
@[simp] theorem setRw_host_evqLost (s : State) (off : Nat) (v : Word) : (setRw s off v).host.evqLost = s.host.evqLost := rfl
@[simp] theorem setRw_host_fw (s : State) (off : Nat) (v : Word) : (setRw s off v).host.fw = s.host.fw := rfl
@[simp] theorem setRw_host_msixOpen (s : State) (off : Nat) (v : Word) : (setRw s off v).host.msixOpen = s.host.msixOpen := rfl
@[simp] theorem setRw_host_msixPend (s : State) (off : Nat) (v : Word) : (setRw s off v).host.msixPend = s.host.msixPend := rfl
@[simp] theorem setRw_host_msixTbl (s : State) (off : Nat) (v : Word) : (setRw s off v).host.msixTbl = s.host.msixTbl := rfl
@[simp] theorem setRw_host_eid (s : State) (off : Nat) (v : Word) : (setRw s off v).host.eid = s.host.eid := rfl
@[simp] theorem setRw_host_i3cAddr (s : State) (off : Nat) (v : Word) : (setRw s off v).host.i3cAddr = s.host.i3cAddr := rfl
@[simp] theorem setRw_host_i3cOff (s : State) (off : Nat) (v : Word) : (setRw s off v).host.i3cOff = s.host.i3cOff := rfl

/-! ### emit -/

@[simp] theorem emit_pending (s : State) (m : OutMsg) : (emit s m).pending = s.pending := rfl
@[simp] theorem emit_free (s : State) (m : OutMsg) : (emit s m).free = s.free := rfl
@[simp] theorem emit_hostMem (s : State) (m : OutMsg) : (emit s m).hostMem = s.hostMem := rfl
@[simp] theorem emit_mem (s : State) (m : OutMsg) : (emit s m).mem = s.mem := rfl
@[simp] theorem emit_tile (s : State) (m : OutMsg) : (emit s m).tile = s.tile := rfl
@[simp] theorem emit_job (s : State) (m : OutMsg) : (emit s m).job = s.job := rfl
@[simp] theorem emit_fab (s : State) (m : OutMsg) : (emit s m).fab = s.fab := rfl
@[simp] theorem emit_trw (s : State) (m : OutMsg) : (emit s m).trw = s.trw := rfl
@[simp] theorem emit_rink (s : State) (m : OutMsg) : (emit s m).rink = s.rink := rfl
@[simp] theorem emit_post (s : State) (m : OutMsg) : (emit s m).post = s.post := rfl
@[simp] theorem emit_host (s : State) (m : OutMsg) : (emit s m).host = s.host := rfl
@[simp] theorem emit_cfg (s : State) (m : OutMsg) : (emit s m).cfg = s.cfg := rfl
@[simp] theorem emit_tel (s : State) (m : OutMsg) : (emit s m).tel = s.tel := rfl
@[simp] theorem emit_sec (s : State) (m : OutMsg) : (emit s m).sec = s.sec := rfl
@[simp] theorem emit_pwr (s : State) (m : OutMsg) : (emit s m).pwr = s.pwr := rfl
@[simp] theorem emit_boot (s : State) (m : OutMsg) : (emit s m).boot = s.boot := rfl

/-! ### bump -/

@[simp] theorem bump_pending (s : State) (off n : Nat) : (bump s off n).pending = s.pending := rfl
@[simp] theorem bump_free (s : State) (off n : Nat) : (bump s off n).free = s.free := rfl
@[simp] theorem bump_out (s : State) (off n : Nat) : (bump s off n).out = s.out := rfl
@[simp] theorem bump_hostMem (s : State) (off n : Nat) : (bump s off n).hostMem = s.hostMem := rfl
@[simp] theorem bump_mem (s : State) (off n : Nat) : (bump s off n).mem = s.mem := rfl
@[simp] theorem bump_tile (s : State) (off n : Nat) : (bump s off n).tile = s.tile := rfl
@[simp] theorem bump_job (s : State) (off n : Nat) : (bump s off n).job = s.job := rfl
@[simp] theorem bump_fab (s : State) (off n : Nat) : (bump s off n).fab = s.fab := rfl
@[simp] theorem bump_trw (s : State) (off n : Nat) : (bump s off n).trw = s.trw := rfl
@[simp] theorem bump_rink (s : State) (off n : Nat) : (bump s off n).rink = s.rink := rfl
@[simp] theorem bump_post (s : State) (off n : Nat) : (bump s off n).post = s.post := rfl
@[simp] theorem bump_host (s : State) (off n : Nat) : (bump s off n).host = s.host := rfl
@[simp] theorem bump_cfg (s : State) (off n : Nat) : (bump s off n).cfg = s.cfg := rfl
@[simp] theorem bump_sec (s : State) (off n : Nat) : (bump s off n).sec = s.sec := rfl
@[simp] theorem bump_pwr (s : State) (off n : Nat) : (bump s off n).pwr = s.pwr := rfl
@[simp] theorem bump_boot (s : State) (off n : Nat) : (bump s off n).boot = s.boot := rfl
@[simp] theorem bump_tel_shadow (s : State) (off n : Nat) : (bump s off n).tel.shadow = s.tel.shadow := rfl
@[simp] theorem bump_tel_plumb (s : State) (off n : Nat) : (bump s off n).tel.plumb = s.tel.plumb := rfl
@[simp] theorem bump_tel_plumbShadow (s : State) (off n : Nat) : (bump s off n).tel.plumbShadow = s.tel.plumbShadow := rfl
@[simp] theorem bump_tel_rolled (s : State) (off n : Nat) : (bump s off n).tel.rolled = s.tel.rolled := rfl
@[simp] theorem bump_tel_totals (s : State) (off n : Nat) : (bump s off n).tel.totals = s.tel.totals := rfl
@[simp] theorem bump_tel_rollup (s : State) (off n : Nat) : (bump s off n).tel.rollup = s.tel.rollup := rfl
@[simp] theorem bump_tel_ticks (s : State) (off n : Nat) : (bump s off n).tel.ticks = s.tel.ticks := rfl
@[simp] theorem bump_tel_tickTime (s : State) (off n : Nat) : (bump s off n).tel.tickTime = s.tel.tickTime := rfl
@[simp] theorem bump_tel_valid (s : State) (off n : Nat) : (bump s off n).tel.valid = s.tel.valid := rfl
@[simp] theorem bump_tel_rolling (s : State) (off n : Nat) : (bump s off n).tel.rolling = s.tel.rolling := rfl
@[simp] theorem bump_tel_again (s : State) (off n : Nat) : (bump s off n).tel.again = s.tel.again := rfl
@[simp] theorem bump_tel_logs (s : State) (off n : Nat) : (bump s off n).tel.logs = s.tel.logs := rfl
@[simp] theorem bump_tel_logOvf (s : State) (off n : Nat) : (bump s off n).tel.logOvf = s.tel.logOvf := rfl
@[simp] theorem bump_tel_lastCe (s : State) (off n : Nat) : (bump s off n).tel.lastCe = s.tel.lastCe := rfl
@[simp] theorem bump_tel_ceEv (s : State) (off n : Nat) : (bump s off n).tel.ceEv = s.tel.ceEv := rfl
@[simp] theorem bump_tel_ret (s : State) (off n : Nat) : (bump s off n).tel.ret = s.tel.ret := rfl

/-! ### semPut -/

@[simp] theorem semPut_pending (s : State) (t i v : Nat) : (semPut s t i v).pending = s.pending := rfl
@[simp] theorem semPut_free (s : State) (t i v : Nat) : (semPut s t i v).free = s.free := rfl
@[simp] theorem semPut_out (s : State) (t i v : Nat) : (semPut s t i v).out = s.out := rfl
@[simp] theorem semPut_hostMem (s : State) (t i v : Nat) : (semPut s t i v).hostMem = s.hostMem := rfl
@[simp] theorem semPut_mem (s : State) (t i v : Nat) : (semPut s t i v).mem = s.mem := rfl
@[simp] theorem semPut_job (s : State) (t i v : Nat) : (semPut s t i v).job = s.job := rfl
@[simp] theorem semPut_fab (s : State) (t i v : Nat) : (semPut s t i v).fab = s.fab := rfl
@[simp] theorem semPut_trw (s : State) (t i v : Nat) : (semPut s t i v).trw = s.trw := rfl
@[simp] theorem semPut_rink (s : State) (t i v : Nat) : (semPut s t i v).rink = s.rink := rfl
@[simp] theorem semPut_post (s : State) (t i v : Nat) : (semPut s t i v).post = s.post := rfl
@[simp] theorem semPut_host (s : State) (t i v : Nat) : (semPut s t i v).host = s.host := rfl
@[simp] theorem semPut_cfg (s : State) (t i v : Nat) : (semPut s t i v).cfg = s.cfg := rfl
@[simp] theorem semPut_tel (s : State) (t i v : Nat) : (semPut s t i v).tel = s.tel := rfl
@[simp] theorem semPut_sec (s : State) (t i v : Nat) : (semPut s t i v).sec = s.sec := rfl
@[simp] theorem semPut_pwr (s : State) (t i v : Nat) : (semPut s t i v).pwr = s.pwr := rfl
@[simp] theorem semPut_boot (s : State) (t i v : Nat) : (semPut s t i v).boot = s.boot := rfl
@[simp] theorem semPut_tile_store (s : State) (t i v : Nat) : (semPut s t i v).tile.store = s.tile.store := rfl
@[simp] theorem semPut_tile_semUndef (s : State) (t i v : Nat) : (semPut s t i v).tile.semUndef = s.tile.semUndef := rfl
@[simp] theorem semPut_tile_vreg (s : State) (t i v : Nat) : (semPut s t i v).tile.vreg = s.tile.vreg := rfl
@[simp] theorem semPut_tile_seqs (s : State) (t i v : Nat) : (semPut s t i v).tile.seqs = s.tile.seqs := rfl
@[simp] theorem semPut_tile_bars (s : State) (t i v : Nat) : (semPut s t i v).tile.bars = s.tile.bars := rfl
@[simp] theorem semPut_tile_barGen (s : State) (t i v : Nat) : (semPut s t i v).tile.barGen = s.tile.barGen := rfl
@[simp] theorem semPut_tile_courses (s : State) (t i v : Nat) : (semPut s t i v).tile.courses = s.tile.courses := rfl
@[simp] theorem semPut_tile_spinUse (s : State) (t i v : Nat) : (semPut s t i v).tile.spinUse = s.tile.spinUse := rfl
@[simp] theorem semPut_tile_pairClk (s : State) (t i v : Nat) : (semPut s t i v).tile.pairClk = s.tile.pairClk := rfl

/-! ### What the updates write -/

@[simp] theorem ctxOf_updCtx (s : State) (c : Nat) (f : JobCtx → JobCtx) (d : Nat) :
    ctxOf (updCtx s c f) d = if d = c then f (ctxOf s c) else ctxOf s d := mget_mupd _ _ _ _ _
@[simp] theorem seqrOf_updSeqr (s : State) (c : Nat) (f : Seqr → Seqr) (d : Nat) :
    seqrOf (updSeqr s c f) d = if d = c then f (seqrOf s c) else seqrOf s d := mget_mupd _ _ _ _ _
@[simp] theorem courseOf_updCourse (s : State) (c : Nat) (f : CourseSt → CourseSt) (d : Nat) :
    courseOf (updCourse s c f) d = if d = c then f (courseOf s c) else courseOf s d := mget_mupd _ _ _ _ _
@[simp] theorem stackOf_updStack (s : State) (c : Nat) (f : StackSt → StackSt) (d : Nat) :
    stackOf (updStack s c f) d = if d = c then f (stackOf s c) else stackOf s d := mget_mupd _ _ _ _ _
@[simp] theorem linkOf_updLink (s : State) (c : Nat) (f : Link → Link) (d : Nat) :
    linkOf (updLink s c f) d = if d = c then f (linkOf s c) else linkOf s d := mget_mupd _ _ _ _ _
@[simp] theorem pairOf_updPair (s : State) (c : Nat) (f : Pair → Pair) (d : Nat) :
    pairOf (updPair s c f) d = if d = c then f (pairOf s c) else pairOf s d := mget_mupd _ _ _ _ _
@[simp] theorem ctxOf_updTrn (s : State) (c : Nat) (f : JobTrn → JobTrn) (d : Nat) :
    ctxOf (updTrn s c f) d = if d = c then { ctxOf s c with trn := f (ctxOf s c).trn } else ctxOf s d :=
  ctxOf_updCtx s c _ d
@[simp] theorem ctxOf_updFab (s : State) (c : Nat) (f : JobFab → JobFab) (d : Nat) :
    ctxOf (updFab s c f) d = if d = c then { ctxOf s c with fab := f (ctxOf s c).fab } else ctxOf s d :=
  ctxOf_updCtx s c _ d
@[simp] theorem ctxOf_updBnd (s : State) (c : Nat) (f : Boundary → Boundary) (d : Nat) :
    ctxOf (updBnd s c f) d = if d = c then { ctxOf s c with bnd := f (ctxOf s c).bnd } else ctxOf s d :=
  ctxOf_updCtx s c _ d
@[simp] theorem emit_out (s : State) (m : OutMsg) : (emit s m).out = s.out ++ [m] := rfl
@[simp] theorem rw_setRw (s : State) (off : Nat) (v : Word) (o : Nat) :
    rw (setRw s off v) o = if o = off then v else rw s o := by
  by_cases h : o = off
  · subst h; simp [rw, setRw]
  · simp [rw, setRw, h, mget_mset_ne]
@[simp] theorem counter_bump (s : State) (off n o : Nat) :
    mget (bump s off n).tel.cnt 0 o = if o = off then satAdd64 (mget s.tel.cnt 0 o) n else mget s.tel.cnt 0 o := by
  by_cases h : o = off
  · subst h; simp [bump]
  · simp [bump, h]

end Sys2Proof.Laws
end

