-- ==== Sys2Proof/Laws/Loops.lean ====
section
/-! SUPPORT. What a change made for each of a range of units leaves in each unit. -/

namespace Sys2Proof.Laws

open Sys2Proof Sys2Proof.Machine

/-- A change made for each number below `n`, each of which sets its own unit's value from what that unit held at the
start: every unit below `n` has its value, every other one what it held. -/
theorem forEach_range {β : Type} (get : State → Nat → β) (R : State → Prop) (f : State → Nat → State) (val : Nat → β) (s0 : State)
    (hR : R s0)
    (h : ∀ s p, R s → get s p = get s0 p → get (f s p) p = val p ∧ (∀ j, j ≠ p → get (f s p) j = get s j) ∧ R (f s p)) (n : Nat) :
    R (forEach (List.range n) s0 f) ∧ ∀ q, get (forEach (List.range n) s0 f) q = if q < n then val q else get s0 q := by
  induction n with
  | zero => exact ⟨hR, fun q => by simp [forEach]⟩
  | succ n ih =>
    have e : forEach (List.range (n + 1)) s0 f = f (forEach (List.range n) s0 f) n := by
      simp [forEach, List.range_succ]
    obtain ⟨r, g⟩ := ih
    obtain ⟨a, b, c⟩ := h _ n r (by rw [g n]; simp)
    rw [e]
    refine ⟨c, fun q => ?_⟩
    by_cases hq : q = n
    · subst hq; simpa using a
    · rw [b q hq, g q]
      by_cases h1 : q < n
      · simp [h1, Nat.lt_succ_of_lt h1]
      · have : ¬ q < n + 1 := by omega
        simp [h1, this]

/-- A change made for each of the first `n` pairs. -/
theorem forEach_updPair (f : Nat → Pair → Pair) (s : State) (n p : Nat) :
    pairOf (forEach (List.range n) s fun s k => updPair s k (f k)) p = if p < n then f p (pairOf s p) else pairOf s p :=
  (forEach_range pairOf (fun _ => True) (fun s k => updPair s k (f k)) (fun k => f k (pairOf s k)) s trivial
    (fun t k _ e => ⟨by rw [pairOf_updPair, if_pos rfl, e], fun j hj => by rw [pairOf_updPair, if_neg hj], trivial⟩) n).2 p

/-- A change made for each of the first `n` stacks. -/
theorem forEach_updStack (f : Nat → StackSt → StackSt) (s : State) (n k : Nat) :
    stackOf (forEach (List.range n) s fun s k => updStack s k (f k)) k = if k < n then f k (stackOf s k) else stackOf s k :=
  (forEach_range stackOf (fun _ => True) (fun s k => updStack s k (f k)) (fun k => f k (stackOf s k)) s trivial
    (fun t k _ e => ⟨by rw [stackOf_updStack, if_pos rfl, e], fun j hj => by rw [stackOf_updStack, if_neg hj], trivial⟩) n).2 k

theorem selfRefreshAll_stack (s : State) (b : Bool) (k : Nat) :
    stackOf (selfRefreshAll s b) k = if k < 12 then { stackOf s k with selfRefresh := b } else stackOf s k :=
  by
  unfold selfRefreshAll
  exact forEach_updStack (fun _ x => { x with selfRefresh := b }) s 12 k

theorem pairOf_wakes (s : State) (w : List Nat) (p : Nat) :
    pairOf { s with pwr := { s.pwr with wakes := w } } p = pairOf s p := rfl

theorem gateAll_pair (s : State) (p : Nat) :
    pairOf (gateAll s) p = if p < 16 then { pairOf s p with gated := true } else pairOf s p :=
  by
  unfold gateAll
  dsimp only
  rw [pairOf_wakes]
  exact forEach_updPair (fun _ x => { x with gated := true }) s 16 p

theorem gateAll_wakes (s : State) : (gateAll s).pwr.wakes = [] := by
  simp only [gateAll]

/-- What a state shares with another for the clocks of its pairs to have the same limits. -/
def SameLimits (s t : State) : Prop :=
  t.cfg = s.cfg ∧ t.pwr.ceil = s.pwr.ceil ∧ t.pwr.ceilCause = s.pwr.ceilCause ∧ t.pwr.brake = s.pwr.brake

theorem SameLimits.refl (s : State) : SameLimits s s := ⟨rfl, rfl, rfl, rfl⟩

theorem SameLimits.limits {s t : State} (h : SameLimits s t) {p : Nat} (e : pairOf t p = pairOf s p) :
    clockLimits t p = clockLimits s p := by
  obtain ⟨a, b, c, d⟩ := h
  unfold clockLimits modeClock live
  rw [e, a, b, c, d]

theorem SameLimits.target {s t : State} (h : SameLimits s t) {p : Nat} (e : pairOf t p = pairOf s p) :
    clockTarget t p = clockTarget s p := by
  simp only [clockTarget, h.limits e]

theorem SameLimits.eff {s t : State} (h : SameLimits s t) {p : Nat} (e : pairOf t p = pairOf s p) :
    effClock t p = effClock s p := by
  simp only [effClock, h.target e, e]

theorem SameLimits.updPair {s t : State} (h : SameLimits s t) (p : Nat) (f : Pair → Pair) : SameLimits s (updPair t p f) := h

/-- Lowering the clocks sets each pair's clock to what its limits allow, and nothing else. -/
theorem lowerClocks_pairs (s : State) :
    SameLimits s (lowerClocks s) ∧
      ∀ p, pairOf (lowerClocks s) p = if p < 16 then { pairOf s p with clk := effClock s p } else pairOf s p := by
  unfold lowerClocks
  refine forEach_range pairOf (SameLimits s) (fun s p => updPair s p fun x => { x with clk := effClock s p })
    (fun p => { pairOf s p with clk := effClock s p }) s (SameLimits.refl s) (fun t p r e => ⟨?_, fun j hj => ?_, r.updPair _ _⟩) 16
  · rw [pairOf_updPair, if_pos rfl, r.eff e, e]
  · rw [pairOf_updPair, if_neg hj]

/-- The target does not depend on the pair's present clock. -/
theorem clockTarget_congr {s t : State} (h : SameLimits s t) {p : Nat} (h1 : (pairOf t p).therm = (pairOf s p).therm)
    (h2 : (pairOf t p).volt = (pairOf s p).volt) : clockTarget t p = clockTarget s p := by
  obtain ⟨a, b, c, d⟩ := h
  unfold clockTarget clockLimits modeClock live
  dsimp only
  rw [h1, h2, a, b, c, d]

theorem lowerClocks_target (s : State) (p : Nat) : clockTarget (lowerClocks s) p = clockTarget s p := by
  obtain ⟨h, g⟩ := lowerClocks_pairs s
  apply clockTarget_congr h <;> rw [g] <;> split <;> rfl

theorem lowerClocks_eff (s : State) (p : Nat) : effClock (lowerClocks s) p = effClock s p := by
  unfold effClock
  rw [lowerClocks_target, (lowerClocks_pairs s).2]
  split
  · simp [effClock]
  · rfl

end Sys2Proof.Laws
end

