-- ==== Sys2Proof/Laws/Ops.lean ====
section
/-! SUPPORT. What the shared operations do, said once: device memory, tile stores, semaphores, interrupts, access
errors and event queues. The parts of the state each leaves alone are in the Kept files. -/

namespace Sys2Proof.Laws

open Sys2Proof Sys2Proof.Machine

/-! ### Device memory -/

theorem devGet_memSet (m : Mem) (a x : Nat) (b : Byte) (h : devAddr x ≠ devAddr a) (d : Nat) (hd : devAddr x = some d) :
    (memSet m a b).get d = m.get d := by
  unfold memSet
  cases ha : devAddr a with
  | none => rfl
  | some e =>
    have : d ≠ e := fun q => h (by rw [hd, ha, q])
    simp [this]

/-- A write to device memory leaves every byte outside the written range, through whichever window it is read. -/
theorem memWrite_get (m : Mem) (a : Nat) (bs : List Byte) (x d : Nat) (hd : devAddr x = some d)
    (h : ∀ i < bs.length, devAddr x ≠ devAddr (a + i)) : (memWrite m a bs).get d = m.get d := by
  induction bs generalizing m a with
  | nil => rfl
  | cons b t ih =>
    simp only [memWrite]
    rw [ih]
    · exact devGet_memSet m a x b (by simpa using h 0 (by simp)) d hd
    · intro i hi
      have := h (i + 1) (by simpa using hi)
      rwa [Nat.add_assoc, Nat.add_comm 1 i]

theorem devGet_devWrite (s : State) (keep : Option Nat) (a : Nat) (bs : List Byte) (x : Nat)
    (h : ∀ i < bs.length, devAddr x ≠ devAddr (a + i)) : devGet (devWrite s keep a bs) x = devGet s x := by
  unfold devGet
  cases hd : devAddr x with
  | none => rfl
  | some d => exact memWrite_get s.mem.dev a bs x d hd h

/-- In the direct window a written range is a written range of the cells. -/
theorem memWrite_direct (m : Mem) (a : Nat) (bs : List Byte) (h : bs.length + a ≤ 0x9000000000) :
    memWrite m a bs = m.write a bs := by
  induction bs generalizing m a with
  | nil => rfl
  | cons b t ih =>
    have h1 : a < 0x9000000000 := by simp at h; omega
    have : memSet m a b = m.set a b := by simp [memSet, devAddr, h1]
    simp only [memWrite, Mem.write, this]
    exact ih _ _ (by simp at h; omega)

theorem devRead_devWrite (s : State) (keep : Option Nat) (a : Nat) (bs : List Byte) (h : bs.length + a ≤ 0x9000000000) :
    devRead (devWrite s keep a bs) a bs.length = bs := by
  have h2 : (devWrite s keep a bs).mem.dev = s.mem.dev.write a bs := memWrite_direct _ _ _ h
  have h3 := Mem.read_write s.mem.dev a bs
  unfold Mem.read at h3
  rw [← h3]
  unfold devRead
  rw [List.length_map, List.length_range]
  apply List.map_congr_left
  intro i hi
  have : a + i < 0x9000000000 := by have := List.mem_range.1 hi; omega
  simp [devGet, devAddr, this, h2, h3]

/-! ### Tile stores -/

theorem storeRead_storeWrite (s : State) (t a : Nat) (bs : List Byte) :
    storeRead (storeWrite s t a bs) t a bs.length = bs := Mem.read_write _ _ _

/-! ### Semaphores -/

/-- A semaphore reads what it was set to; every other one what it held. -/
theorem semGet_semPut (s : State) (t i v u j : Nat) (hi : i < 256) (hj : j < 256) :
    semGet (semPut s t i v) u j = if u = t ∧ j = i then v else semGet s u j := by
  have hd : semDflt (semPut s t i v) u j = semDflt s u j := rfl
  unfold semGet
  rw [hd]
  by_cases h : u = t ∧ j = i
  · obtain ⟨rfl, rfl⟩ := h
    simp [semPut]
  · rw [if_neg h]
    exact mget_mset_ne _ _ _ _ _ (by omega)

/-! ### Interrupts and access errors -/

/-- An MSI-X message is sent, or its pending bit is set; nothing else. -/
theorem msix_irqStatus (s : State) (v : Nat) : (msix s v).host.irqStatus = s.host.irqStatus := by
  unfold msix; split <;> rfl

theorem msix_acc (s : State) (v : Nat) : (msix s v).host.acc = s.host.acc := by
  unfold msix; split <;> rfl

theorem setIrq_acc (s : State) (page : Nat) (v : Word) : (setIrq s page v).host.acc = s.host.acc := by
  unfold setIrq
  dsimp only
  split
  · split
    · exact msix_acc _ _
    · rfl
  · rfl

/-- Setting interrupt bits adds them to the page's IRQ_STATUS. -/
theorem setIrq_status (s : State) (page : Nat) (v : Word) :
    mget (setIrq s page v).host.irqStatus 0 page = mget s.host.irqStatus 0 page ||| v := by
  unfold setIrq
  dsimp only
  split
  · split
    · rw [signalSource, msix_irqStatus]; simp
    · simp
  · simp

/-- The first access error of a page since its record was read is recorded with cause, requester and offset. -/
theorem accessErr_first (s : State) (page cause requester offset : Nat) (h : (mget s.host.acc {} page).count = 0) :
    mget (accessErr s page cause requester offset).host.acc {} page = ⟨cause, requester, 1, offset % 0x1000⟩ := by
  unfold accessErr
  dsimp only
  rw [setIrq_acc, if_pos h]
  exact (mget_mset _ _ _ _ _).trans (if_pos rfl)

/-- A later one only counts. -/
theorem accessErr_more (s : State) (page cause requester offset : Nat) (h : (mget s.host.acc {} page).count ≠ 0) :
    mget (accessErr s page cause requester offset).host.acc {} page =
      { mget s.host.acc {} page with count := min 511 ((mget s.host.acc {} page).count + 1) } := by
  unfold accessErr
  dsimp only
  rw [setIrq_acc, if_neg h]
  exact (mget_mset _ _ _ _ _).trans (if_pos rfl)

/-! ### Event queues -/

theorem entryBytes_length (e : Ev) (phase : Bool) (seq : Nat) : (entryBytes e phase seq).length = 16 + e.body.length := by
  simp only [entryBytes, List.length_append, leBytes_length]

theorem evfBytes_length (f : EvF) : f.bytes.length = 48 := by
  simp only [EvF.bytes, List.length_append, leBytes_length]

/-- An entry is written where the producer index points. -/
theorem evqPut_mem (m : Mem) (base slots : Nat) (q : EvQ) (e : Ev) :
    (evqPut m base slots q e).1 = m.write (base + 64 * q.prod) (entryBytes e q.phase q.seq) := by
  simp only [evqPut]

/-- The producer index advances by one slot, around the ring. -/
theorem evqPut_prod (m : Mem) (base slots : Nat) (q : EvQ) (e : Ev) :
    (evqPut m base slots q e).2.prod = (q.prod + 1) % slots := rfl

end Sys2Proof.Laws
end

