-- ==== Sys2Proof/WellFormed.lean ====
section
/-! DEFINITION. Which commands are well formed: operands within the widths, ranges and lengths that the spec gives their
fields. No meaning consults it: every meaning is total. -/

namespace Sys2Proof

/-- Base of a page (R461, R466). -/
def pageOk (page : Nat) : Bool := decide (page % 0x1000 = 0 ∧ page < 0xA8000)
/-- An aligned BAR0 offset (R452, R462). -/
def regOk (off : Nat) : Bool := decide (off % 4 = 0 ∧ off < 0xA8000)
/-- Field widths of a packet header (R205). -/
def packetOk (p : Packet) : Bool :=
  decide (p.ty < 256 ∧ p.vc < 8 ∧ p.side < 3 ∧ p.dst < 0x8000 ∧ p.src < 0x8000 ∧ p.payload.length ≤ 512) &&
    decide (p.fabricJob < 2 ^ 16 ∧ p.tag < 16384 ∧ p.step < 2 ^ 32 ∧ p.addr < 2 ^ 41)

/-- The operands of a command lie in their fields (log 74, DESIGN CHOICE). -/
def wellFormed (i : Instr) : Bool :=
  match i with
  | .descriptorIssue _ pc addr => decide (pc < 2 ^ 21) && decide (addr % 64 = 0 ∧ addr < 0x140000)
  | .descriptorStart _ _ => true
  | .descriptorComplete _ _ => true
  | .dma _ _ => true
  | .matmul _ => true
  | .conv _ => true
  | .vec _ => true
  | .joint _ => true
  | .semWait _ => true
  | .semSignal _ => true
  | .semSet _ => true
  | .fabPut _ _ => true
  | .fabGet _ _ => true
  | .fabCollectiveStep _ _ => true
  | .tagGrant _ => true
  | .barrier _ => true
  | .barrierRelease _ _ _ _ => true
  | .event _ => true
  | .eventAccept _ => true
  | .drainEnd _ => true
  | .boundaryViolation _ _ => true
  | .postedTimeout _ => true
  | .rollupComplete => true
  | .telFreeze _ => true
  | .periodicFreezeTick => true
  | .verdictReductionComplete _ => true
  | .sweep _ => true
  | .stagingRoom _ => true
  | .sweepEnd _ => true
  | .digestExchangeComplete _ ts => ts.all fun x => decide (x.sender < 0x8000)
  | .digestTriplesTimeout _ => true
  | .keeperGateOpen _ => true
  | .releaseReductionComplete _ => true
  | .startReductionComplete _ => true
  | .controlReductionTimeout _ _ _ => true
  | .stepTimeout _ => true
  | .jobLoad _ => true
  | .loadCheck _ => true
  | .jobStart _ _ _ => true
  | .jobResume _ _ _ => true
  | .jobPreempt _ => true
  | .jobUnload _ => true
  | .jobTeardown _ => true
  | .jobClear _ => true
  | .ploughFinish _ => true
  | .ploughAbort _ => true
  | .creditAdd _ _ => true
  | .creditOverflowClear _ => true
  | .snapshotRequest _ => true
  | .snap _ => true
  | .poolTake _ _ => true
  | .poolGive _ _ => true
  | .trowelQueueDoorbell _ _ _ => true
  | .digest _ => true
  | .replay _ _ => true
  | .base _ => true
  | .importBase _ _ => true
  | .init _ => true
  | .trowelDone _ => true
  | .trailMover _ _ => true
  | .sinkPoll _ _ _ _ => true
  | .sinkReadTimeout _ _ => true
  | .packetForward _ p => packetOk p
  | .write p => packetOk p
  | .writeLast p => packetOk p
  | .ack p => packetOk p
  | .lateWrite p => packetOk p
  | .readReq p => packetOk p
  | .readData p => packetOk p
  | .readNak p => packetOk p
  | .getTimeout _ _ => true
  | .coll p _ _ => packetOk p
  | .collectiveTimeout _ _ _ => true
  | .ctrlReduceUp _ p => packetOk p
  | .ctrlReduceDown _ p => packetOk p
  | .absentNotice _ p => packetOk p
  | .presentNotice _ p => packetOk p
  | .jobLostNotice _ p => packetOk p
  | .ploughNotice _ p => packetOk p
  | .fw p => packetOk p
  | .timeSend => true
  | .time _ p => packetOk p
  | .timeSet _ _ => true
  | .heartbeatSend => true
  | .heartbeat _ flit => decide (flit.length = 64)
  | .heartbeatTimeout _ => true
  | .linkDown _ => true
  | .linkDegraded _ _ => true
  | .linkTrainState _ coords peerPort _ => decide (coords < 0x8000) && decide (peerPort < 12)
  | .linkTrainTimeout _ => true
  | .fecReplay _ _ => true
  | .creditReturn _ _ _ => true
  | .prbsStart _ => true
  | .prbsStop _ => true
  | .announcementEnd => true
  | .unitHang _ _ => true
  | .thermalTrip _ _ _ => true
  | .supplyFault _ => true
  | .routerFault _ => true
  | .coolantOkDeassert => true
  | .aonLoss => true
  | .refclkLoss => true
  | .aonPowerOnReset _ => true
  | .regulatorStart => true
  | .coldBoot _ => true
  | .memoryTrainingComplete => true
  | .ready => true
  | .rstWarm _ => true
  | .perstNAssert => true
  | .perstNDeassert => true
  | .warmRestart => true
  | .rstCompute _ => true
  | .functionLevelReset => true
  | .pcieLinkLoss => true
  | .rstact _ => true
  | .softReset _ page => pageOk page
  | .stWrite _ off _ => regOk off
  | .cfgCheck => true
  | .cfgCheckDone => true
  | .cfgApply => true
  | .cfgDiscard _ => true
  | .cfgSave => true
  | .cfgSaveDone _ => true
  | .sleep => true
  | .wake => true
  | .lowPowerExit => true
  | .pairGate _ => true
  | .governorRelease => true
  | .powerControlTick _ _ => true
  | .thermalLimitTick _ _ => true
  | .droopStretch _ => true
  | .voltageLoopTick _ _ _ => true
  | .memoryRecentre _ _ => true
  | .fabricEqualisation _ _ _ => true
  | .brakeAssert => true
  | .brakeDeassert => true
  | .tenantSwitch _ => true
  | .scrubComplete _ => true
  | .weightSetClose _ => true
  | .weightChunk _ bytes => decide (1 ≤ bytes.length)
  | .secRefused => true
  | .getVersion _ => true
  | .getCapabilities _ _ => true
  | .negotiateAlgorithms _ => true
  | .getDigests _ => true
  | .getCertificate _ _ _ => true
  | .challenge _ nonce => decide (nonce.length = 32)
  | .getMeasurements _ _ => true
  | .keyExchange _ _ => true
  | .finish _ _ _ _ => true
  | .spdmHeartbeat _ _ => true
  | .keyUpdate _ _ => true
  | .endSession _ _ => true
  | .chunkSend _ _ _ _ => true
  | .chunkGet _ _ _ => true
  | .report _ _ nonce => decide (nonce.length = 32)
  | .setKey _ _ _ key => decide (key.length = 32)
  | .releaseKey _ _ job chan _ _ key => decide (job < 8 ∧ chan < 4) && decide (key.length = 32)
  | .ownerKeyUpdate _ _ key _ _ => decide (key.length = 97)
  | .setEndpointId _ _ => true
  | .mctpRegisterRead _ off count => decide (1 ≤ count ∧ count ≤ 16) && regOk off
  | .mctpRegisterWrite _ off ws => decide (1 ≤ ws.length ∧ ws.length ≤ 16) && regOk off
  | .i3cPrivateWrite bytes => decide (4 ≤ bytes.length ∧ bytes.length % 4 = 0)
  | .i3cPrivateRead _ => true
  | .dynamicAddressAssignment _ => true
  | .registerWrite _ bar2 off width _ => decide (width = 8 ∨ width = 16 ∨ width = 32 ∨ width = 64) && decide (off < if bar2 then 0x20000 else 0x100000)
  | .accessErrRead _ page => pageOk page
  | .irqStatusClear page _ => pageOk page
  | .irqForce page _ => pageOk page
  | .queuePop off _ => regOk off
  | .queueConfigWrite _ off _ => regOk off
  | .bar4BaseWrite _ _ => true
  | .bar4Read off len => decide (1 ≤ len ∧ off + len ≤ 2 ^ 41)
  | .bar4Write off bytes => decide (1 ≤ bytes.length ∧ off + bytes.length ≤ 2 ^ 41)
  | .eventQueueDoorbell _ _ => true
  | .dmaDoorbell _ _ => true
  | .hostDmaDescriptor _ _ => true
  | .hostDmaComplete _ => true
  | .fwOpen _ _ => true
  | .fwData _ _ => true
  | .fwCommit _ => true
  | .fwAbort _ => true
  | .fwUpdateDone _ => true
  | .courseFence _ => true
  | .courseBist _ => true
  | .bistDone _ _ => true
  | .courseRelease _ => true
  | .unitOutOfService _ => true
  | .unitSelfTest _ => true
  | .selfTestDone _ _ => true
  | .unitReturnToService _ => true
  | .idleScrub _ _ _ => true
  | .ingestRingPoll _ => true
  | .ingestOpen _ _ => true
  | .decode _ _ _ => true
  | .decodeComplete _ _ _ => true
  | .shape _ _ _ => true
  | .shapeComplete _ _ => true
  | .ingestClose _ _ => true
  | .encodeRingPoll _ => true
  | .encodeOpen _ _ => true
  | .encode _ _ _ => true
  | .encodeAttemptComplete _ _ _ => true
  | .pictureComplete _ _ => true
  | .encodeClose _ _ => true
  | .postRingPoll _ => true
  | .decodeAndNms _ => true
  | .nms _ => true
  | .postCommandComplete _ => true
  | .peerReadTimeout _ => true
  | .abortDigestWaitEnd _ => true
  | .d3hotTransition _ => true
  | .bar4Resize log2 => decide (30 ≤ log2 ∧ log2 ≤ 41)
  | .boundaryScanInstruction ir => decide (ir ≤ 6)
  | .testLogicReset => true
  | .sealedRangeZeroed _ => true

end Sys2Proof
end

