-- ==== Sys2Proof/Tests/Slice0.lean ====
section
/-! SUPPORT. Tests: ill-formed commands refused by the well-formedness check, the spec's worked examples, and for every obligation
with premises one theorem that shows, for each of its clauses, a concrete state and operands that meet them all together. -/

namespace Sys2Proof.Tests

open Sys2Proof Sys2Proof.Machine Sys2Proof.Laws

set_option linter.unusedVariables false
set_option Elab.async false

/-! ### States the tests start from -/

/-- A part that answers as after READY, in ACTIVE. -/
def up : State := { State.reset with boot := { State.reset.boot with aon := true, stage := 0xF, regs := true, perst := false }, pwr := { State.reset.pwr with state := .active, coolant := true } }
/-- The same part asleep. -/
def asleep : State := { up with pwr := { up.pwr with state := .lowPower } }
/-- The same part in memory-max. -/
def memMax : State := { up with cfg := { up.cfg with live := [(0x3100, 96), (0x4100, 2)] } }
/-- A part at (1, 0, 0) of a 4 × 1 × 1 system without wrap, all its links in service. -/
def meshed : State :=
  { up with
    cfg := { up.cfg with live := [(0x70100, 3072), (0x70108, 1024)] }
    fab := { up.fab with links := (List.range 4).map fun p => (p, { state := .up, credits := fullCredits, hops := 3 }) } }
/-- Context 7 runs a step of a job that holds course 31 (tiles 496 to 511) and all of device memory. -/
def working : State :=
  updPair (updCtx (setRw { meshed with cfg := { meshed.cfg with live := meshed.cfg.live ++ [(0x7CA0, 9)] } } (jobBase 7 + 0x88) 4) 7 fun j =>
    { j with
      state := .running
      stepIn := true
      step := 5
      man := { courseMask := 2 ^ 31, kind := 1, fabCredits := 16, bedWays := 0x01010101,
               regions := [{ base := 0, len := 0x9000000000, perm := 15, kind := 1, placed := true }] } }) 15 fun x =>
    { x with gated := false }
/-- A tile with one issued descriptor. -/
def issued (t : Nat) (d : Desc) : State := updSeqr working t fun z => { z with descs := [d], nextSeq := d.seq + 1 }
/-- A tile whose sequencer a descriptor holds. -/
def held (t : Nat) (d : Desc) : State := updSeqr working t fun z => { z with hold := some d, nextSeq := d.seq + 1 }
/-- The same job confined to its part. -/
def alone : State := { working with cfg := meshed.cfg }
/-- The lone job stands at a phase of its boundary. -/
def atPhase (p : BPhase) : State := updCtx alone 7 fun j => { j with state := .draining, stepIn := true, bnd := { phase := p } }
/-- The same with a job over the four parts, whose box starts at part (1, 0, 0), this part the root. -/
def rooted : State := { working with cfg := { meshed.cfg with live := meshed.cfg.live ++ [(0x7CA0, 9), (0x7CA4, 0x2000400)] } }
/-- A manifest without its CRC: an exclusive serving job on course 31 with one region and one semaphore value. -/
def manifestBody : List Byte :=
  leBytes 4 0x31464D55 ++ leBytes 2 3 ++ leBytes 2 128 ++ leBytes 4 168 ++ leBytes 4 0 ++ leBytes 8 0x1122334455667788 ++ leBytes 1 1
    ++ leBytes 1 4 ++ leBytes 2 255 ++ leBytes 4 0x80000000 ++ leBytes 4 64 ++ leBytes 4 0 ++ leBytes 2 16 ++ leBytes 2 0 ++ leBytes 4 0
    ++ leBytes 4 0 ++ leBytes 4 0 ++ leBytes 8 0 ++ leBytes 4 128 ++ leBytes 2 1 ++ leBytes 2 32 ++ leBytes 8 0 ++ leBytes 4 160
    ++ leBytes 2 1 ++ leBytes 2 8 ++ leBytes 20 0 ++ leBytes 20 0 ++ leBytes 8 0x1000 ++ leBytes 8 0x1000 ++ leBytes 1 3 ++ leBytes 1 0
    ++ leBytes 14 0 ++ leBytes 2 0xFFFF ++ leBytes 1 5 ++ leBytes 1 0 ++ leBytes 2 9 ++ leBytes 2 0
/-- The same with its CRC. -/
def manifestImage : List Byte := manifestBody.take 12 ++ leBytes 4 (crc32c manifestBody).toNat ++ manifestBody.drop 16
/-- Bytes at an address of host memory. -/
def cellsAt (a : Nat) (bs : List Byte) : List Host.Cell := bs.zipIdx.map fun p => (a + p.2, p.1)
/-- A part with one load waiting. -/
def loading : State := { setRw up 0x710C 8 with job := { up.job with loads := [(0x1000, 168)] } }
/-- The header of shard 2 of tensor 1: BF16 working copy, FP16 gradient, one parameter. -/
def recordHeader : List Byte :=
  leBytes 4 0x52444853 ++ leBytes 2 1 ++ [1, 2] ++ leBytes 4 1 ++ leBytes 4 2 ++ leBytes 2 1 ++ [1, 0, 0, 0, 0, 0] ++ leBytes 4 1
    ++ leBytes 4 1 ++ leBytes 4 1 ++ leBytes 4 1 ++ leBytes 16 0 ++ leBytes 4 1 ++ leBytes 4 1 ++ leBytes 4 1 ++ leBytes 4 1
    ++ leBytes 4 4 ++ leBytes 4 0 ++ leBytes 8 0
/-- A step scalar block of one group: SGD, loss scale and grad_mul 1, learning rate 0.5. -/
def scalars : List Byte :=
  leBytes 8 0 ++ leBytes 4 5 ++ leBytes 4 0 ++ leBytes 4 0x3F800000 ++ leBytes 4 0x3F800000 ++ leBytes 2 1 ++ leBytes 6 0 ++ [2, 0, 0, 0]
    ++ leBytes 4 0x3F000000 ++ leBytes 32 0 ++ leBytes 4 0 ++ leBytes 4 0x3F800000 ++ leBytes 16 0
/-- A training job with that record at the start of stack 0, in a phase of its boundary; one trowel command waits. -/
def stocked (st : JState) (p : BPhase) (op : Nat) (host : Bool) (w : List Word) : State :=
  updCtx (devWrite (devWrite (devWrite alone none 0 recordHeader) none 0xC100 [0, 0x3C]) none 0xE100 [0x80, 0x3F]) 7 fun j =>
    { j with
      state := st
      stepIn := false
      bnd := { phase := p }
      man := { courseMask := 2 ^ 31, trailMbps := 1, regions := [⟨0, 0x9000000000, 3, 1, true⟩], places := [⟨0, 0, 1, 1, 2⟩] }
      trn := { block := scalars, checked := true, cmds := [{ id := 4, op := op, w := w, host := host, todo := [0] }] } }
/-- Its one record. -/
def theRecord : Rec := ⟨0, 0, 0, 1, 2⟩
/-- The opening of a step sequence. -/
def seqOpen : List Byte := trailRec alone 1 0 5 0 0 0 scalars
/-- Its shard record, with a gradient of zeros. -/
def seqShard : List Byte := trailRec alone 2 0 5 1 2 0 ([3, 0x47, 0, 16, 0, 0, 16] ++ leBytes 9 0 ++ [3, 0x47, 0, 16, 0, 0, 16] ++ leBytes 9 0)
/-- A complete step sequence. -/
def stepSeq : List Byte := seqOpen ++ seqShard ++ closeRec alone 3 0 5 1 0 (seqOpen ++ seqShard)
/-- A base sequence with no shard. -/
def baseSeqEmpty : List Byte := trailRec alone 0x11 0 5 0 0 0 (List.replicate 32 0) ++ closeRec alone 0x13 0 5 0 0 (trailRec alone 0x11 0 5 0 0 0 (List.replicate 32 0))
/-- Tile `t` runs one descriptor. -/
def started (s : State) (t : Nat) (d : Desc) : State := updSeqr s t fun z => { z with descs := [d], nextSeq := d.seq + 1 }
/-- A part in the middle of a 4 × 4 × 1 system; only the first link of its Y+ direction is in service. -/
def plane : State :=
  { up with
    cfg := { up.cfg with live := [(0x70100, BitVec.ofNat 32 (packC 3 3 0)), (0x70108, BitVec.ofNat 32 (packC 1 1 0))] }
    fab := { up.fab with links := [(4, { state := .up, credits := fullCredits })] } }
/-- Only AON_1V8 is present. -/
def onAon : State := { State.reset with boot := { State.reset.boot with aon := true } }
/-- The check of a staged configuration runs. -/
def checking : State := { memMax with cfg := { memMax.cfg with state := 1, checking := true, shadow := memMax.cfg.live } }
/-- A part with SPDM sessions. -/
def attested (xs : List Session) : State := { up with sec := { up.sec with sessions := xs } }
/-- A block of bytes with the given fields set. -/
def fields (n : Nat) (fs : List (Nat × List Byte)) : List Byte :=
  fs.foldl (fun b f => b.take f.1 ++ f.2 ++ b.drop (f.1 + f.2.length)) (List.replicate n 0)
/-- Context 7 runs with an ingest ring at 1 MiB and an encode ring at 2 MiB, two slots each; stream 5 has entry 3. -/
def rinky : State :=
  { working with
    cfg := { working.cfg with live := working.cfg.live ++ [(0x802E0, 0x100000), (0x802E8, 2), (0x802EC, 0x200000), (0x802F4, 2)] }
    rink := { working.rink with table := [(7 * 2 ^ 18 + 5, 4)] } }
/-- The same with one descriptor held. -/
def rinkTask (x : RTask) : State := { rinky with rink := { rinky.rink with tasks := [x] } }
/-- A stream in a state of its entry, with what firmware keeps of it. -/
def streaming (s : State) (st : Nat) (m : Strm) : State := updStrm (entPut s 3 0 (openEntry 7 4 5 0x300000 256 64 64 1 10)) 3 (fun _ => m) |> fun z => setEntryState z 3 st
/-- An OPEN of stream 5: AV1 4:2:0 of 10 bits, 64 × 64, store at 3 MiB. -/
def ingestOpenD : List Byte := fields 128 [(0, [1, 0]), (4, [5]), (0x40, [4, 1, 10, 0, 64, 0, 64, 0]), (0x48, leBytes 8 0x300000), (0x50, leBytes 8 256)]
/-- A DECODE of stream 5. -/
def decodeD (flags : Byte) (out : List (Nat × List Byte)) : List Byte :=
  fields 128 ([(0, [2, flags]), (4, [5]), (8, leBytes 8 0x310000), (0x10, leBytes 4 32)] ++ out)
/-- The same with descriptors in a ring, from its first slot. -/
def ringed (s : State) (enc : Bool) (ds : List (List Byte)) : State :=
  ds.zipIdx.foldl (fun z p => devWrite z none (slotAddr s 7 enc p.2) p.1) (devWrite s none (ringOf s 7 enc).1 (leBytes 4 (ds.length % 2)))
/-- The same OPEN with 16 bytes of configuration at 3 MiB + 96 KiB + 64. -/
def openCfgD : List Byte := (ingestOpenD.take 8 ++ leBytes 8 0x318000 ++ ingestOpenD.drop 16).take 0x58 ++ [64, 0, 0, 0, 16, 0, 0, 0] ++ ingestOpenD.drop 0x60
/-- The same with the ring's tail read. -/
def polled (s : State) (enc : Bool) : State :=
  { s with rink := { s.rink with tails := mset s.rink.tails 0 (ringKey 7 enc) (devNat s (ringOf s 7 enc).1 4) } }
/-- A ring of three slots with two DECODEs of one stream, the first of them held. -/
def threeSlots : State :=
  devWrite (ringed { rinky with
    cfg := { rinky.cfg with live := rinky.cfg.live.map fun p => if p.1 = 0x802E8 then (p.1, 3) else p }
    rink := { rinky.rink with tasks := [{ ctx := 7, enc := false, slot := 0, d := decodeD 0 [] }] } } false [decodeD 0 [], decodeD 0 []]) none 0x100000 [2]
/-- An AV1 inter frame of 10 bits, 64 samples high, and the damage found in it. -/
def finding (w : Nat) (ds : List Damage) : Finding := ⟨w, 64, 1, 10, 1, 0, 40, false, .plain, [], [], none, ds⟩
/-- The same with a picture store of one byte. -/
def tiny (s : State) : State := entPut s 3 0x18 [1, 0]
/-- What is known of one without damage. -/
def unhurt : Judged := ⟨[], false, false, false, none, false⟩
/-- A SHAPE of stream 5: an 8-bit 4:0:0 picture of 2 × 1 at 3 MiB + 128 KiB, out to 2 × 1 pixels at 512 KiB. -/
def shapeD : List Byte := fields 128 [(0, [3, 1]), (4, [5]), (0x20, leBytes 8 0x80000), (0x28, [128, 0, 0, 0, 2, 0, 1, 0]), (0x30, leBytes 8 0x90000), (8, leBytes 8 0x320000), (0x40, [0, 0, 8, 0, 2, 0, 1, 0]), (0x48, [64]), (0x4C, [4])]
/-- Its shaping block: full range, gamma 1, one channel of BF16. -/
def shapeBlk : List Byte := fields 192 ([(4, [2, 0, 1, 0]), (0xB, [1, 1, 1]), (0x10, [0, 0, 0x80, 0x3F, 0, 0, 0x80, 0x3F]), (0x70, [0, 0, 0x80, 0x3F])])
/-- An encode OPEN: AV1 of 64 × 64 at 8 bits, raw planes. -/
def encodeOpenD : List Byte :=
  fields 128 [(0, [1, 0]), (4, [5]), (0x30, [4, 0, 8, 0, 64, 0, 64, 0]), (0x38, leBytes 8 0x300000), (0x40, leBytes 8 256), (0x48, leBytes 4 3000000),
    (0x4C, leBytes 4 300000), (0x50, leBytes 4 4500), (0x54, [30, 0, 1, 0, 1, 10, 200, 1])]
/-- An ENCODE of stream 5. -/
def encodeD (flags : Byte) : List Byte :=
  fields 128 ([(0, [2, flags]), (4, [5]), (8, leBytes 8 0x320000), (0x10, leBytes 8 0x80000), (0x18, leBytes 4 40000), (0x30, leBytes 4 8192), (0x34, [128])] ++
    if bit flags.toNat 2 then [(0x20, leBytes 8 0x90000)] else [])
/-- What firmware keeps of that stream, its store of one byte. -/
def encStrm : Strm := { enc := true, open_ := encodeOpenD.take 0x40 ++ [1, 0] ++ encodeOpenD.drop 0x42, full := 60000, count := 2, ltr := [(1, 1)] }
/-- POST unit 0 with a ring of two slots of context 7 at 1 MiB. -/
def posting : State := { working with post := { base := [(7, 0x100000)], slots := [(7, 2)] } }
/-- The words of an NMS command over one box and one class; `w13` is its signal word. -/
def postCmd (w13 : Word) : List Word := [0x20000001, 0x1FFFF, 0x200000, 0, 0x200100, 0, 0, 0, 0x200200, 0, 0x80000, 0, 1, w13, 0, 0]
/-- The same in the ring's slot 0, with a parameter block whose overlap threshold is the word. -/
def postQueued (w : List Word) (iou : Word) : State :=
  devWrite (devWrite (devWrite posting none 0x100000 (leBytes 4 1)) none 0x100040 (w.flatMap fun x => leBytes 4 x.toNat)) none 0x200004 (leBytes 4 iou.toNat)
/-- POST unit 0 runs a command. -/
def postRun (r : PostRun) : State := { posting with post := { posting.post with run := [(0, some r)] } }
/-- DMA channel 0 with a ring of 16 slots at host address 0x1000, a tail of 1, and the descriptor in its first slot. -/
def dmaRing (d : List Byte) : State :=
  (fun z => updChan { z with hostMem := z.hostMem.write 0x1000 d } 0 fun k => { k with tail := 1 })
    (setRw (setRw (setRw working (chanBase 0) 0x1000) (chanBase 0 + 8) 16) (chanBase 0 + 0x10) 1)
/-- A descriptor of 70 bytes between host address 0x5000 and device address 32, of job 7. -/
def dmaDesc (dir flags job : Byte) : List Byte := leBytes 8 0x5000 ++ leBytes 8 32 ++ leBytes 4 70 ++ [dir, flags, job, 0] ++ leBytes 8 0
/-- The firmware window is open for requester 4. -/
def fwOpened (st : Nat) : State := { up with host := { up.host with fw := { state := st, owner := 4, found := some ⟨false, 3, 1, 5, 6⟩ } } }

/-! ### Ill-formed commands are refused by the well-formedness check -/

/-- A packet header with every field in range. -/
def packet0 : Packet := { ty := 0, vc := 0, side := 0, dst := 0, src := 0, fabricJob := 0, tag := 0, step := 0, addr := 0, aux := 0, payload := [] }

theorem test_wf_descriptorIssue : wellFormed (.descriptorIssue 0 (2 ^ 21) 0) = false ∧ wellFormed (.descriptorIssue 0 0 32) = false ∧
    wellFormed (.descriptorIssue 0 0 64) = true := by decide
theorem test_wf_packet : wellFormed (.write { packet0 with vc := 8 }) = false ∧ wellFormed (.ack { packet0 with side := 3 }) = false ∧
    wellFormed (.packetForward none { packet0 with dst := 0x8000 }) = false ∧ wellFormed (.readReq { packet0 with tag := 16384 }) = false ∧
    wellFormed (.fw packet0) = true := by decide
theorem test_wf_packets : ([.writeLast, .lateWrite, .readData, .readNak, .ctrlReduceUp 0, .ctrlReduceDown 0, .absentNotice 0,
    .presentNotice 0, .jobLostNotice 0, .ploughNotice 0, .time 0, fun p => .coll p 0 0].all fun f : Packet → Instr =>
      !wellFormed (f { packet0 with addr := 2 ^ 41 }) && wellFormed (f packet0)) = true := by decide
theorem test_wf_digestExchangeComplete : wellFormed (.digestExchangeComplete 0 [⟨0x8000, 0, 0, 0⟩]) = false := by decide
theorem test_wf_heartbeat : wellFormed (.heartbeat 0 []) = false := by decide
theorem test_wf_linkTrainState : wellFormed (.linkTrainState 0 0x8000 0 0) = false ∧ wellFormed (.linkTrainState 0 0 12 0) = false := by decide
theorem test_wf_softReset : wellFormed (.softReset 0 0x10) = false := by decide
theorem test_wf_stWrite : wellFormed (.stWrite 0 2 0) = false := by decide
theorem test_wf_weightChunk : wellFormed (.weightChunk 0 []) = false := by decide
theorem test_wf_nonce : wellFormed (.challenge .pcie []) = false ∧ wellFormed (.report .pcie none []) = false := by decide
theorem test_wf_keys : wellFormed (.setKey .pcie 0 0 []) = false ∧ wellFormed (.releaseKey .pcie 0 0 4 0 0 (List.replicate 32 0)) = false ∧
    wellFormed (.releaseKey .pcie 0 0 0 0 0 []) = false ∧ wellFormed (.ownerKeyUpdate .pcie 0 [] [] true) = false := by decide
theorem test_wf_mctp : wellFormed (.mctpRegisterRead .pcie 0 17) = false ∧ wellFormed (.mctpRegisterWrite .pcie 1 [0]) = false := by decide
theorem test_wf_i3cPrivateWrite : wellFormed (.i3cPrivateWrite [0, 0, 0, 0, 0]) = false := by decide
theorem test_wf_registerWrite : wellFormed (.registerWrite 0 false 0 24 0) = false ∧ wellFormed (.registerWrite 0 true 0x20000 32 0) = false := by decide
theorem test_wf_pages : wellFormed (.accessErrRead 0 1) = false ∧ wellFormed (.irqStatusClear 0xA8000 0) = false ∧
    wellFormed (.irqForce 4 0) = false := by decide
theorem test_wf_queues : wellFormed (.queuePop 2 0) = false ∧ wellFormed (.queueConfigWrite 0 0xA8000 0) = false := by decide
theorem test_wf_bar4 : wellFormed (.bar4Read 0 0) = false ∧ wellFormed (.bar4Write 0 []) = false ∧ wellFormed (.bar4Resize 29) = false := by decide
theorem test_wf_boundaryScanInstruction : wellFormed (.boundaryScanInstruction 7) = false := by decide

/-! ### The spec's worked examples -/

/-- 02, the overflow and NaN example: with the NaN the group is 0x7FC0_0000, without it +∞, one overflow each time. -/
theorem test_dot_overflow : let w (x : Nat) := fdec .bf16 x
    let rest := List.replicate 62 (w 0x3F80, w 0x3F80)
    dotGroup 40 0 ((w 0x7F00, w 0x4080) :: (w 0x7FC1, w 0x3F80) :: rest) = (0x7FC00000, 1) ∧
      dotGroup 40 0 ((w 0x7F00, w 0x4080) :: (w 0x3F80, w 0x3F80) :: rest) = (0x7F800000, 1) ∧
      (convMag .f8e4 none true (f32 0x7F800000)).code = 0x7F ∧ (convMag .f8e4 none false (f32 0x7F800000)).code = 0x80 ∧
      (convMag .f8e4 none true (f32 0x7FC00000)).code = 0x80 := by decide +kernel
/-- 02, the window example: the small products are lost beside the cancelling pair, and kept in a group of their own. -/
theorem test_dot_window : let w (x : Nat) := fdec .bf16 x
    let rest := List.replicate 62 (w 0x3600, w 0x3F80)
    dotGroup 40 0 ((w 0x4980, w 0x3F80) :: (w 0xC980, w 0x3F80) :: rest) = (0, 0) ∧ dotGroup 40 0 rest = (0x38F80000, 0) := by decide +kernel
/-- 02, stochastic rounding to BF16. -/
theorem test_stochastic : ([0, 0x3FFF, 0x4000, 0xA5A5].map fun r => (convMag .bf16 (some r) false (f32 0x3F80C000)).code) = [0x3F80, 0x3F80, 0x3F81, 0x3F81] ∧
    cvt 0x3F80C000 .bf16 = 0x3F81 := by decide +kernel
/-- 02, one B6 block of 100.0, −0.3, 1.0 and 100.0. -/
theorem test_b6_block : let p : ConvP := { fmt := .b6, rnd := false, clip := false, act := 0, lo := 0, hi := 0, tbl := [] }
    let r := convBlock p 0 (([0x42C80000, 0xBE99999A, 0x3F800000, 0x42C80000] ++ List.replicate 28 0).map fun v => (v, none))
    r.bytes.take 4 = [0x81, 0x1E, 0x40, 0x78] ∧ r.bytes.length = 25 ∧ r.outs.countP (·.flushed) = 1 := by decide +kernel
/-- 03, the spin outputs of lane 0 of tile 0 with S = 0. -/
theorem test_spin : ([1, 2, 3].map fun n => spinOut (spinN n (spinLoad 0 0))) = [0x9E3779B9, 0x3C6EF372, 0xDAA6AD2C] := by decide +kernel
/-- 04, the last unit of a stream: its 16 bytes, and back. -/
theorem test_grout :
    groutUnit [0, 0, 0x80, 0x3F, 0, 0, 0, 0, 0x20, 0x41, 0, 0, 0, 0, 0, 0xBE] =
      [0x01, 0x47, 0x10, 0, 0x05, 0, 0x10, 0, 0x0C, 0x83, 0x80, 0x3F, 0x20, 0x41, 0xBE, 0] ∧
    (groutDecode (fun i => [0x01, 0x47, 0x10, 0, 0x05, 0, 0x10, 0, 0x0C, 0x83, 0x80, 0x3F, 0x20, 0x41, 0xBE, 0].getD i 0) 16 16).1.1 =
      [0, 0, 0x80, 0x3F, 0, 0, 0, 0, 0x20, 0x41, 0, 0, 0, 0, 0, 0xBE] := by decide +kernel
/-- 06, one Adam step. -/
theorem test_adam : updElem
    { opt := 0, flags := 0, lr := 0x3A800000, wd := 0, b1 := 0x3F400000, b2 := 0x3F700000, omb1 := 0x3E800000, omb2 := 0x3D800000,
      eps := 0x35800000, b1t := 0x3F400000, b2t := 0x3F700000, mu := 0, omd := 0 } 0x3E000000 (widen .fp16 0x4800) 0x3F800000 0 0 =
    (0x3F7FC000, 0x3E800000, 0x3D800000) := by decide +kernel
/-- 06 (R179), the check value of the digest's CRC. -/
theorem test_crc64 : crc64 [0x31, 0x32, 0x33, 0x34, 0x35, 0x36, 0x37, 0x38, 0x39] = 0x6C40DF5F0B497347 := by decide +kernel
/-- 07, the route on a torus of 32 parts an axis: X− first, then Y+, from (3, 30, 5) to (29, 2, 5). -/
theorem test_route : let at_ (c : Nat) := { up with cfg := { up.cfg with live := [(0x70100, BitVec.ofNat 32 (packC 31 31 31)), (0x70104, 7), (0x70108, BitVec.ofNat 32 c)] } }
    routeDir (at_ (packC 3 30 5)) (packC 29 2 5) = some (0, 1) ∧ routeDir (at_ (packC 29 30 5)) (packC 29 2 5) = some (1, 0) ∧
      routeDir (at_ (packC 29 2 5)) (packC 29 2 5) = none := by decide +kernel
/-- 07, the hops of an FP16 reduce-scatter (the example prints −19,984 as 0xCCE1, which is not its code: log 87). -/
theorem test_hops : hopAdd .fp16 0x78E2 0x7753 = 0x7C00 ∧ hopAdd .fp16 0x7C00 0xFA1A = 0x7C00 ∧ hopAdd .fp16 (hopAdd .fp16 0xFA1A 0x7753) 0x78E2 = 0x74E3 ∧ hopAdd .fp16 0x74E3 0x3800 = 0x74E3 := by decide +kernel
/-- 10, the rate model of a 1920 × 1080 stream at 25 pictures per second. -/
theorem test_rate_model : let d := fields 128 [(0x48, leBytes 4 2000000), (0x4C, leBytes 4 1000000), (0x50, leBytes 4 500000), (0x54, [25, 0, 1, 0])]
    sbCount 1920 1080 = 510 ∧ sSkip 1920 1080 = 5116 ∧ sFlat 1920 1080 = 57152 ∧ initFull d = 500000 ∧ arrival d 0 = 80000 ∧ arrival d 37 = 80000 := by decide +kernel
/-- 10, picture 37: 310,000 bits at QP 30 over 120,000 give QP 40. -/
theorem test_next_qp : let d := fields 128 [(0x30, [2]), (0x5A, [44])]
    nextQp d 30 310000 120000 = 40 := by decide +kernel
/-- 02, the counter indices of an FP16 gradient with tag 2. -/
theorem test_conv_index : [0, 1, 2].map (convIndex .fp16 2) = [40, 41, 42] := by decide
/-- 05, gathered buffers of 20, 16, 24 and 8 GiB within 48 GiB: the keep map is 0x0B. -/
theorem test_keep_map : let r (a n : Nat) : Region := ⟨2 ^ 30 * a, 2 ^ 30 * n, 3, 4, false⟩
    (gatherKeep up { regions := [r 0 20, r 20 16, r 36 24, r 60 8] } [0, 1, 2, 3] (2 ^ 30 * 48)).1 = [true, true, false, true] := by decide +kernel
/-- 05, three shared jobs: the third would take 14 scratch ways of die 1, and with 4 there it fits. -/
theorem test_bed_ways : let s := forEach [(0, 0x0808), (1, 0x04)] up fun s p => updCtx s p.1 fun j => { j with state := .loaded, man := { courseMask := 0xFFFF, bedWays := p.2 } }
    waysBad s { courseMask := 0xFF00, bedWays := 0x0600 } = some 1 ∧ waysBad s { courseMask := 0xFF00, bedWays := 0x0400 } = none := by decide +kernel
/-- 10, bins of the cost histogram. -/
theorem test_hist_bin : histBin 1000 = 39 ∧ histBin 895 = 39 ∧ histBin 1022 = 39 ∧ histBin 1023 = 40 := by decide +kernel
/-- 15, tile 300 and the page of its course; the first correction counter of HBM7. -/
theorem test_course_page : coursePage (300 / 16) + 0x800 + 0x80 * (300 % 16) = 0x32E00 ∧ pageIndex (coursePage 18) = some 31 ∧ tileDie 300 = 2 ∧
    hbmPage 7 + 0x110 = 0x57110 := by decide +kernel
/-- 15, a write of COURSE_TILE_SEM_SEL at tile 300, then a read of COURSE_TILE_SEM: the count of semaphore 17. -/
theorem test_tile_semaphore :
    (readWord (writeWord 4 0x32E0C 0x11 (semPut working 300 17 5)) 4 0x32E10).1 = 5 := by decide +kernel
/-- 12, five leaves: node(N, L4) above node(node(L0, L1), node(L2, L3)). -/
theorem test_merkle : let n (a b : Sha) := Config.sha384 (1 :: (shaBytes a ++ shaBytes b))
    merkleRoot 5 [10, 11, 12, 13, 14] = n (n (n 10 11) (n 12 13)) 14 := by rfl

/-! ### Small checks of single commands -/

/-- A command from an empty queue: the block idles for one cycle (log 5). -/
theorem test_idle : step State.reset = .next (idleTick State.reset) := rfl
/-! ### Premises of the whole-machine statements -/

/-- The premises of MonotonicCounterOnlyIncreases and the two clauses of StepRunsTheFrontCommand are met. -/
theorem witness_MonotonicCounterOnlyIncreases :
    step { up with pending := [.brakeAssert] } = .next (brakeAssertEffect up) ∧ up.sec.counter ≤ 256 ∧ up.pending = [] := by
  refine ⟨rfl, ?_, ?_⟩ <;> decide +kernel

/-! ### A sequence that a command has read from a peer -/

theorem getD_past (a b : List Byte) (i : Nat) : (a ++ b).getD (a.length + i) 0 = b.getD i 0 := by
  rw [List.getD_append_right _ _ _ _ (by omega), Nat.add_sub_cancel_left]
theorem map_getD_take (l : List Byte) (n : Nat) (h : n ≤ l.length) : ((List.range n).map fun i => l.getD i 0) = l.take n := by
  apply List.ext_getElem
  · simp [h]
  · intro i h1 h2; simp at h1; simp [List.getD_eq_getElem?_getD, List.getElem?_eq_getElem (show i < l.length by omega)]
theorem map_getD_all (l : List Byte) : ((List.range l.length).map fun i => l.getD i 0) = l := by
  rw [map_getD_take l _ le_rfl, List.take_length]
/-- An opening, one shard record and a close, read in turn. -/
theorem seqRecs_three (a b c : List Byte) (get : Nat → Byte) (lim opn shard close step f : Nat)
    (hg : ∀ n, get n = (a ++ (b ++ c)).getD n 0) (hl : lim = a.length + b.length + c.length)
    (rd : List Byte → Nat → Nat → Nat) (hrd : ∀ l x n, rd l x n = leNat ((List.range n).map fun i => l.getD (x + i) 0))
    (ha : rd (a ++ (b ++ c)) 0 1 = opn ∧ rd (a ++ (b ++ c)) 4 4 = a.length ∧ rd (a ++ (b ++ c)) 8 4 = step ∧
      a.length = openLen opn (rd (a ++ (b ++ c)) 0x38 2) ∧ 64 ≤ a.length ∧ a.length % 64 = 0)
    (hb : rd (b ++ c) 0 1 = shard ∧ rd (b ++ c) 4 4 = b.length ∧ rd (b ++ c) 8 4 = step ∧ 64 ≤ b.length ∧ b.length % 64 = 0)
    (hc : rd c 0 1 = close ∧ rd c 4 4 = 64 ∧ rd c 8 4 = step ∧ c.length = 64) (hs : shard ≠ close) :
    seqRecs get lim opn shard close 0 (f + 3) 0 [] = (some [(0, a.length), (a.length, b.length)], a.length + b.length) := by
  have r0 : ∀ x n, leNat ((List.range n).map fun i => get (0 + x + i)) = rd (a ++ (b ++ c)) x n := by
    intro x n; rw [hrd]; simp [hg]
  have r1 : ∀ x n, leNat ((List.range n).map fun i => get (0 + a.length + x + i)) = rd (b ++ c) x n := by
    intro x n; rw [hrd]; congr 1; apply List.map_congr_left; intro i _
    rw [hg, show 0 + a.length + x + i = a.length + (x + i) by omega, getD_past]
  have r2 : ∀ x n, leNat ((List.range n).map fun i => get (0 + a.length + b.length + x + i)) = rd c x n := by
    intro x n; rw [hrd]; congr 1; apply List.map_congr_left; intro i _
    rw [hg, show 0 + a.length + b.length + x + i = a.length + (b.length + (x + i)) by omega, getD_past, getD_past]
  obtain ⟨a1, a2, a3, a4, a5, a6⟩ := ha
  obtain ⟨b1, b2, b3, b4, b5⟩ := hb
  obtain ⟨c1, c2, c3, c4⟩ := hc
  rw [seqRecs]
  simp only [r0, a1, a2, a3]
  rw [if_neg (by simp; omega), if_pos trivial, if_pos ⟨trivial, a4⟩]
  rw [seqRecs]
  simp only [r1, b1, b2, b3]
  rw [if_neg (by simp; omega), if_neg (by simp), if_neg hs, if_pos trivial]
  rw [seqRecs]
  simp only [r2, c1, c2, c3]
  rw [if_neg (by simp; omega), if_neg (by simp), if_pos trivial, if_pos trivial]
  simp

theorem trailRec_length (s : State) (ty fl st t sh dg : Nat) (p : List Byte) : (trailRec s ty fl st t sh dg p).length = roundUp (32 + p.length) 64 := by
  have : (trailHdr s ty fl st p.length t sh dg).length = 32 := by simp [trailHdr, leBytes]
  simp only [trailRec, padTo, List.length_append, this, List.length_replicate]
  have : 32 + p.length ≤ roundUp (32 + p.length) 64 := by unfold roundUp cdiv; omega
  omega
/-- A BASE_OPEN record. -/
def baseOpen : List Byte := trailRec State.reset 0x11 0 5 0 0 0 (List.replicate 32 0)
/-- A BASE_SHARD record of shard 2 of tensor 1. -/
def baseShard (p : List Byte) : List Byte := trailRec State.reset 0x12 0 5 1 2 0 p
/-- A base sequence with that one record. -/
def baseSeq (p : List Byte) : List Byte := baseOpen ++ (baseShard p ++ closeRec State.reset 0x13 0 5 1 0 (baseOpen ++ baseShard p))
/-- An IMPORT command that has read its source from a peer. -/
def importCmd (src : List Byte) : TrwCmd := { id := 4, op := 5, w := [0x5F000000, 0, 903], host := true, todo := [0], src := src }

theorem close_length (s : State) (n d : Nat) (b : List Byte) : (closeRec s 0x13 0 5 n d b).length = 64 := by
  rw [closeRec, trailRec_length]; simp [leBytes, roundUp, cdiv]
theorem source_get (s : State) (src : List Byte) (n : Nat) : (seqSource s (importCmd src)).1 n = src.getD n 0 := by
  simp [seqSource, srcByte, srcAt, importCmd, cmdPeer]
theorem open_length : baseOpen.length = 64 := by rw [baseOpen, trailRec_length]; simp [roundUp, cdiv]
theorem shard_length (p : List Byte) (h : p.length = 57600) : (baseShard p).length = 57664 := by rw [baseShard, trailRec_length, h]; rfl
theorem shard_bytes (p q : List Byte) (h : p.length = 57600) : baseShard p ++ q =
    leBytes 1 0x12 ++ leBytes 1 0 ++ leBytes 2 0 ++ leBytes 4 57664 ++ leBytes 4 5 ++ leBytes 4 0 ++ leBytes 4 1 ++ leBytes 4 2 ++ leBytes 8 0
      ++ (p ++ List.replicate 32 0 ++ q) := by
  have h1 : (trailHdr State.reset 0x12 0 5 57600 1 2 0).length = 32 := by simp [trailHdr, leBytes]
  have h2 : ownCoord State.reset = 0 := by decide
  simp only [baseShard, trailRec, padTo, h, List.length_append, h1]
  simp [trailHdr, h2, roundUp, cdiv]
theorem shard_reads (p q : List Byte) (h : p.length = 57600) :
    let rd := fun (l : List Byte) x n => leNat ((List.range n).map fun i => l.getD (x + i) 0)
    rd (baseShard p ++ q) 0 1 = 0x12 ∧ rd (baseShard p ++ q) 4 4 = 57664 ∧ rd (baseShard p ++ q) 8 4 = 5 := by
  rw [shard_bytes p q h]
  simp [leBytes, List.range_succ, leNat]
theorem open_reads (q : List Byte) :
    let rd := fun (l : List Byte) x n => leNat ((List.range n).map fun i => l.getD (x + i) 0)
    rd (baseOpen ++ q) 0 1 = 0x11 ∧ rd (baseOpen ++ q) 4 4 = 64 ∧ rd (baseOpen ++ q) 8 4 = 5 ∧ 64 = openLen 0x11 (rd (baseOpen ++ q) 0x38 2) := by
  have h2 : ownCoord State.reset = 0 := by decide
  simp [baseOpen, trailRec, trailHdr, padTo, h2, roundUp, cdiv, leBytes, List.range_succ, leNat, openLen]
theorem close_reads (b : List Byte) :
    let rd := fun (l : List Byte) x n => leNat ((List.range n).map fun i => l.getD (x + i) 0)
    let c := closeRec State.reset 0x13 0 5 1 0 b
    rd c 0 1 = 0x13 ∧ rd c 4 4 = 64 ∧ rd c 8 4 = 5 ∧ rd c 32 4 = 1 ∧ rd c 40 4 = (crc32c b).toNat := by
  have h2 : ownCoord State.reset = 0 := by decide
  simp only [closeRec]
  generalize crc32c b = w
  have h3 := w.isLt
  simp [trailRec, trailHdr, padTo, h2, roundUp, cdiv, leBytes, List.range_succ, leNat]
  omega
theorem import_parse (s : State) (p : List Byte) (hp : p.length = 57600) :
    (seqParse s (importCmd (baseSeq p)) 0x11 0x12 0x13).1 = some [(0,64),(64,57664)] := by
  have h := seqRecs_three baseOpen (baseShard p) (closeRec State.reset 0x13 0 5 1 0 (baseOpen ++ baseShard p)) (seqSource s (importCmd (baseSeq p))).1
    57792 0x11 0x12 0x13 5 901 (fun n => source_get s _ n)
    (by rw [open_length, shard_length p hp, close_length]) (fun l x n => leNat ((List.range n).map fun i => l.getD (x + i) 0)) (fun _ _ _ => rfl)
    (by rw [open_length]; exact ⟨(open_reads _).1, (open_reads _).2.1, (open_reads _).2.2.1, (open_reads _).2.2.2, by omega, by omega⟩)
    (by rw [shard_length p hp]; exact ⟨(shard_reads p _ hp).1, (shard_reads p _ hp).2.1, (shard_reads p _ hp).2.2, by omega, by omega⟩)
    (by rw [close_length]; exact ⟨(close_reads _).1, (close_reads _).2.1, (close_reads _).2.2.1, rfl⟩) (by decide)
  rw [open_length, shard_length p hp] at h
  have e : ((List.range 57728).map (seqSource s (importCmd (baseSeq p))).1) = baseOpen ++ baseShard p := by
    have := map_getD_take (baseSeq p) 57728 (by rw [baseSeq, List.length_append, List.length_append, open_length, shard_length p hp]; omega)
    rw [show (seqSource s (importCmd (baseSeq p))).1 = fun n => (baseSeq p).getD n 0 from funext (source_get s _), this, baseSeq, ← List.append_assoc]
    apply List.take_left'
    rw [List.length_append, open_length, shard_length p hp]
  have g : ∀ i, (seqSource s (importCmd (baseSeq p))).1 (57728 + i) = (closeRec State.reset 0x13 0 5 1 0 (baseOpen ++ baseShard p)).getD i 0 := by
    intro i
    have l : (baseOpen ++ baseShard p).length = 57728 := by rw [List.length_append, open_length, shard_length p hp]
    rw [source_get, baseSeq, ← List.append_assoc, ← l, getD_past]
  have c := close_reads (baseOpen ++ baseShard p)
  unfold seqParse
  rw [if_neg (by simp [importCmd])]
  rw [show (seqSource s (importCmd (baseSeq p))).2 = 57792 by simp [seqSource, importCmd, cmdLen], show 57792 / 64 + 1 = 901 + 3 by rfl, h, show 64 + 57664 = 57728 by rfl]
  dsimp only
  rw [e]
  simp only [Nat.add_assoc, g]
  rw [if_pos]
  exact ⟨c.2.2.2.1, c.2.2.2.2⟩
theorem import_record (s : State) (p : List Byte) (hp : p.length = 57600) :
    [(64, 57664)].map (seqRec (seqSource s (importCmd (baseSeq p))).1) = [baseShard p] := by
  have g : ∀ i, (seqSource s (importCmd (baseSeq p))).1 (64 + i) = (baseShard p ++ closeRec State.reset 0x13 0 5 1 0 (baseOpen ++ baseShard p)).getD i 0 := by
    intro i
    rw [source_get, baseSeq, ← open_length, getD_past]
  simp only [List.map_cons, List.map_nil, seqRec, g]
  rw [map_getD_take _ _ (by rw [List.length_append, shard_length p hp]; omega), List.take_left' (shard_length p hp)]
theorem shard_payload (p : List Byte) (hp : p.length = 57600) : ((baseShard p).drop 32).take 256 = p.take 256 := by
  have := shard_bytes p [] hp
  rw [List.append_nil] at this
  rw [this]
  simp [leBytes, hp]

/-- The payload of that record: its header, then zeros. -/
def basePayload : List Byte := padTo 256 recordHeader ++ (List.replicate 0xC000 0 ++ List.replicate 8192 0)
theorem header_length : (padTo 256 recordHeader).length = 256 := by decide +kernel
theorem payload_length : basePayload.length = 57600 := by
  rw [basePayload, List.length_append, List.length_append, List.length_replicate, List.length_replicate, header_length]
theorem payload_header : basePayload.take 256 = padTo 256 recordHeader := by
  rw [basePayload, List.take_left' header_length]
/-- A training job whose IMPORT command has read its source. -/
def importing (src : List Byte) : State := updTrn (stocked .loaded .none 5 true []) 7 fun t => { t with cmds := [importCmd src] }

theorem importing_head (src : List Byte) : headCmd (importing src) 0 5 = some (7, importCmd src) := rfl
theorem import_meets : headCmd (importing (baseSeq basePayload)) ((0 : StackId)).val 5 = some (7, importCmd (baseSeq basePayload)) ∧
    (importCmd (baseSeq basePayload)).host = true ∧ (importing (baseSeq basePayload)).mem.upsets = [] ∧
    srcReady (importCmd (baseSeq basePayload)) = true ∧
    (seqParse (importing (baseSeq basePayload)) (importCmd (baseSeq basePayload)) 0x11 0x12 0x13).1 = some [(0, 64), (64, 57664)] ∧
    srcPoison (importing (baseSeq basePayload)) (importCmd (baseSeq basePayload))
      (seqParse (importing (baseSeq basePayload)) (importCmd (baseSeq basePayload)) 0x11 0x12 0x13).2 = none ∧
    [(0, 64), (64, 57664)].tail.map (seqRec (seqSource (importing (baseSeq basePayload)) (importCmd (baseSeq basePayload))).1) = [baseShard basePayload] ∧
    named (ctxOf (importing (baseSeq basePayload)) 7).man ((0 : StackId)).val (baseShard basePayload) = some theRecord ∧
    padTo 256 recordHeader = ((baseShard basePayload).drop 32).take 256 ∧
    (baseShard basePayload).length = roundUp (32 + 0xC100 + workBytes (padTo 256 recordHeader)) 64 ∧
    headerCheck (padTo 256 recordHeader) theRecord.tensor theRecord.shard
      (importGfmt (importing (baseSeq basePayload)) (ctxOf (importing (baseSeq basePayload)) 7).man [baseShard basePayload] (hGfmt (padTo 256 recordHeader))) = none ∧
    theRecord.addr + 65792 ≤ 0x9000000000 := by
  refine ⟨importing_head _, rfl, rfl, ?_, import_parse _ _ payload_length, rfl, import_record _ _ payload_length, ?_, ?_, ?_, ?_, by decide⟩
  · have h : (importCmd (baseSeq basePayload)).src.length = 57792 := by
      simp only [importCmd, baseSeq, List.length_append, open_length, shard_length _ payload_length, close_length]
    simp [srcReady, h]; decide
  · decide +kernel
  · rw [shard_payload _ payload_length, payload_header]
  · rw [shard_length _ payload_length]; decide +kernel
  · decide +kernel

/-- A coding attempt writes at least one byte. -/
theorem attempt_pos (m : Strm) (x : RTask) : 0 < attemptBits m x (asAsked x) := by
  simp [attemptBits, accessUnit, asAsked, hevcUnit, av1Unit, nalUnit, obu]
  split <;> simp

/-! ### Premises of the statements, family by family -/

/-- The hypotheses of StagedWritesAndDiscard are met. -/
theorem witness_StagedWritesAndDiscard :
    (∃ (s : State) (r : Req) (off : Nat) (v : Word), (stMask off).isSome = true ∧ isReady s = true ∧ s.cfg.state < 3) ∧
    (∃ (s : State) (r : Req) (off : Nat) (p : Nat) (v : Word), (stMask off).isSome = true ∧ isReady s = true ∧ 3 ≤ s.cfg.state ∧ p = off / 0x1000 * 0x1000 ∧ (pageIndex p).isSome = true ∧ (mget s.host.acc {} p).count = 0) ∧
    (∃ (s : State) (r : Req) (off : Nat) (v : Dword), (stMask off).isSome = true ∧ isReady s = true ∧ reachable s r.val = true ∧ s.host.linkLost = false ∧ off % 4 = 0) ∧
    (∃ (s : State) (r : Req), pageAnswers s 0x5000 = true ∧ s.cfg.state < 4) ∧
    (∃ (s : State) (r : Req), pageAnswers s 0x5000 = true ∧ 4 ≤ s.cfg.state ∧ (mget s.host.acc {} 0x5000).count = 0) ∧
    (∃ (s : State) (r : Req) (v : Dword), pageAnswers s 0x5000 = true ∧ reachable s r.val = true ∧ s.host.linkLost = false ∧ v.getLsbD 0 = true) :=
  ⟨⟨{ memMax with cfg := { memMax.cfg with state := 2 } }, 4, 0x70140, 0x80000001, by decide +kernel⟩,
   ⟨{ memMax with cfg := { memMax.cfg with state := 4 } }, 4, 0x70140, 0x70000, 1, by decide +kernel⟩,
   ⟨memMax, 4, 0x70140, 1, by decide +kernel⟩,
   ⟨{ memMax with cfg := { memMax.cfg with state := 3, shadow := memMax.cfg.live ++ [(0x6104, 100)], dirty := [0x6000], seq := 0xFFFFFFFF } }, 4, by decide +kernel⟩,
   ⟨{ memMax with cfg := { memMax.cfg with state := 4 } }, 6, by decide +kernel⟩,
   ⟨memMax, 6, 1, by decide +kernel⟩⟩

/-- The hypotheses of SleepAndWake are met. -/
theorem witness_SleepAndWake :
    (∃ (s : State), isReady s = true ∧ s.pwr.state = .active ∧ noneLoaded s = true) ∧
    (∃ (s : State), isReady s = true ∧ noneLoaded s = false) ∧
    (∃ (s : State), isReady s = true ∧ s.pwr.state = .lowPower ∧ s.pwr.dead = false ∧ s.pwr.coolant = true ∧ coolEnough s = true) ∧
    (∃ (s : State), isReady s = true ∧ s.pwr.state = .lowPower ∧ s.pwr.dead = false ∧ (s.pwr.coolant = false ∨ coolEnough s = false)) ∧
    (∃ (s : State), s.pwr.waking = true ∧ s.pwr.dead = false ∧ s.pwr.state = .lowPower ∧ coolEnough s = true ∧ s.boot.stage ≠ 3) ∧
    (∃ (s : State), s.pwr.waking = true ∧ s.pwr.dead = false ∧ s.pwr.state = .lowPower ∧ coolEnough s = true ∧ s.boot.stage = 3) ∧
    (∃ (s : State), (s.pwr.waking = false ∨ s.pwr.dead = true ∨ s.pwr.state ≠ .lowPower ∨ coolEnough s = false)) :=
  ⟨⟨up, by decide +kernel⟩,
   ⟨updCtx up 7 fun j => { j with state := .loaded }, by decide +kernel⟩,
   ⟨asleep, by decide +kernel⟩,
   ⟨{ asleep with pwr := { asleep.pwr with iodTemp := 361 } }, by decide +kernel⟩,
   ⟨{ asleep with pwr := { asleep.pwr with waking := true, coolant := false, iodTemp := 360 } }, by decide +kernel⟩,
   ⟨{ asleep with pwr := { asleep.pwr with waking := true, coolant := false }, boot := { asleep.boot with stage := 3 } }, by decide +kernel⟩,
   ⟨{ asleep with pwr := { asleep.pwr with coolant := false } }, by decide +kernel⟩⟩

/-- The hypotheses of GatingAndGovernor are met. -/
theorem witness_GatingAndGovernor :
    (∃ (s : State) (p : PairId), mayGate s p.val = true) ∧
    (∃ (s : State) (p : PairId), mayGate s p.val = false) ∧
    (∃ (s : State) (p : Nat) (rest : List Nat), s.pwr.state = .active ∧ s.pwr.wakes = p :: rest) ∧
    (∃ (s : State), s.pwr.state = .active ∧ s.pwr.wakes = []) ∧
    (∃ (s : State), s.pwr.state ≠ .active) :=
  ⟨⟨{ updPair up 15 (fun x => { x with gated := false }) with pwr := { (updPair up 15 (fun x => { x with gated := false })).pwr with wakes := [15, 2] } }, 15, by decide +kernel⟩,
   ⟨{ up with sec := { up.sec with scrubbing := true } }, 15, by decide +kernel⟩,
   ⟨{ up with pwr := { up.pwr with wakes := [15, 0] } }, 15, [0], by decide +kernel⟩,
   ⟨updPair up 15 (fun x => { x with gated := false }), by decide +kernel⟩,
   ⟨asleep, by decide +kernel⟩⟩

/-- The hypotheses of PowerLimits are met. -/
theorem witness_PowerLimits :
    (∃ (s : State) (w : Nat) (a : Nat), s.pwr.state = .active) ∧
    (∃ (s : State) (w : Nat) (a : Nat), s.pwr.state ≠ .active) :=
  ⟨⟨updPair up 15 (fun x => { x with gated := false, clk := 100 }), 2601, 4500, by decide +kernel⟩,
   ⟨asleep, 2600, 4501, by decide +kernel⟩⟩

/-- The hypotheses of ThermalAndAdaptiveLoops are met. -/
theorem witness_ThermalAndAdaptiveLoops :
    (∃ (s : State) (p : PairId) (q : Nat), 400 ≤ q) ∧
    (∃ (s : State) (q : Nat), 400 ≤ q) ∧
    (∃ (s : State) (p : PairId), (pairOf s p.val).gated = false) ∧
    (∃ (s : State) (p : PairId) (n : Nat) (l : Fin 3), (pairOf s p.val).gated = false ∧ n < 10000 * (pairOf s p.val).stretch ∧ max (pairOf s p.val).setpoint ((tableEntry s p.val (effClock s p.val)).1 + (pairOf s p.val).guard) < 380) ∧
    (∃ (s : State) (k : StackId) (code : Nat), (stackOf s k.val).trained = true ∧ (stackOf s k.val).selfRefresh = false) ∧
    (∃ (s : State) (p : Port) (lane : Fin 8) (code : Nat), (linkOf s p.val).state = .up ∧ (linkOf s p.val).out = false) :=
  ⟨⟨updPair up 15 (fun x => { x with gated := false, clk := 100 }), 15, 400, by decide +kernel⟩,
   ⟨up, 400, by decide +kernel⟩,
   ⟨updPair up 15 (fun x => { x with gated := false, clk := 100 }), 15, by decide +kernel⟩,
   ⟨updPair memMax 15 (fun x => { x with gated := false, clk := 100, stretch := 2, table := [(96, (300, 2))] }), 15, 10000, 2, by decide +kernel⟩,
   ⟨updStack up 11 fun x => { x with trained := true }, 11, 1000000, by decide +kernel⟩,
   ⟨updLink up 11 fun l => { l with state := .up, out := false }, 11, 7, 5, by decide +kernel⟩⟩

/-- The hypotheses of CourseFenceBistRelease are met. -/
theorem witness_CourseFenceBistRelease :
    (∃ (s : State) (n : CourseId), isReady s = true ∧ courseNamed s n.val = false) ∧
    (∃ (s : State) (n : CourseId), isReady s = true ∧ courseNamed s n.val = true) ∧
    (∃ (s : State) (n : CourseId), isReady s = true ∧ (courseOf s n.val).fenced = true ∧ (courseOf s n.val).bist = false) ∧
    (∃ (s : State) (n : CourseId) (pass : Bool), (courseOf s n.val).bist = true) ∧
    (∃ (s : State) (n : CourseId), isReady s = true ∧ (courseOf s n.val).fenced = true ∧ (courseOf s n.val).bist = false ∧ (courseOf s n.val).bistResult = 1) ∧
    (∃ (s : State) (n : CourseId), isReady s = true ∧ ((courseOf s n.val).fenced = false ∨ (courseOf s n.val).bistResult ≠ 1)) :=
  ⟨⟨up, 31, by decide +kernel⟩,
   ⟨updCtx up 7 fun j => { j with state := .running, man := { j.man with courseMask := 2 ^ 31 } }, 31, by decide +kernel⟩,
   ⟨updCourse up 31 fun k => { k with fenced := true }, 31, by decide +kernel⟩,
   ⟨updCourse up 31 fun k => { k with fenced := true, bist := true }, 31, false, by decide +kernel⟩,
   ⟨updCourse up 31 fun k => { k with fenced := true, bistResult := 1 }, 31, by decide +kernel⟩,
   ⟨updCourse up 31 fun k => { k with fenced := true, bistResult := 2 }, 31, by decide +kernel⟩⟩

/-- The hypotheses of MediaUnitService are met. -/
theorem witness_MediaUnitService :
    (∃ (s : State) (u : MediaUnit), isReady s = true ∧ unitBusy s u = false) ∧
    (∃ (s : State) (u : MediaUnit), isReady s = true ∧ unitBusy s u = true) ∧
    (∃ (s : State) (u : MediaUnit), isReady s = true ∧ (unitOf s u).out = true ∧ (unitOf s u).testing = false) ∧
    (∃ (s : State) (u : MediaUnit), isReady s = true ∧ (unitOf s u).out = false) ∧
    (∃ (s : State) (u : MediaUnit) (pass : Bool), (unitOf s u).testing = true) ∧
    (∃ (s : State) (u : MediaUnit), isReady s = true ∧ (unitOf s u).testing = false) :=
  ⟨⟨up, .shap 7, by decide +kernel⟩,
   ⟨{ up with rink := { up.rink with tasks := [{ ctx := 7, enc := false, slot := 0, d := [], unit := some (.vdec 15) }] } }, .vdec 15, by decide +kernel⟩,
   ⟨updUnit up .adec fun x => { x with out := true }, .adec, by decide +kernel⟩,
   ⟨up, .venc 3, by decide +kernel⟩,
   ⟨updUnit up (.idec 3) fun x => { x with out := true, testing := true }, .idec 3, true, by decide +kernel⟩,
   ⟨updUnit up (.idec 3) fun x => { x with out := true }, .idec 3, by decide +kernel⟩⟩

/-- The hypotheses of IdleScrubAndBoundaryScan are met. -/
theorem witness_IdleScrubAndBoundaryScan :
    (∃ (s : State) (k : StackId) (n : Nat) (errors : List Upset), 0 < n ∧ (rw s (hbmPage k.val + 0x108)).getLsbD 0 = true ∧ (stackOf s k.val).trained = true ∧ (stackOf s k.val).selfRefresh = false ∧ s.sec.scrubbing = false) ∧
    (∃ (s : State) (ir : Nat), (ir ≤ 2 ∨ (ir ≤ 6 ∧ s.boot.perst = true))) ∧
    (∃ (s : State) (ir : Nat), (6 < ir ∨ (2 < ir ∧ s.boot.perst = false))) ∧
    (∃ (s : State), (s.boot.tap < 3 ∨ s.boot.stopped = false ∨ s.boot.perst = true)) ∧
    (∃ (s : State), 3 ≤ s.boot.tap ∧ s.boot.stopped = true ∧ s.boot.perst = false) :=
  ⟨⟨updStack up 11 fun x => { x with trained := true, scrubLine := 805306367 }, 11, 2, [⟨.device 805306368, 3⟩, ⟨.store 511 7, 2⟩, ⟨.bed 3 9, 1⟩], by decide +kernel⟩,
   ⟨{ up with boot := { up.boot with perst := true } }, 6, by decide +kernel⟩,
   ⟨up, 3, by decide +kernel⟩,
   ⟨up, by decide +kernel⟩,
   ⟨{ up with boot := { up.boot with tap := 6, stopped := true } }, by decide +kernel⟩⟩

/-- The hypotheses of TimebaseAndHeartbeats are met. -/
theorem witness_TimebaseAndHeartbeats :
    (∃ (s : State) (p : Nat) (n : Nat), p < 12 ∧ neighbour s p = some n ∧ inService s p = true ∧ isAbsent s n = false ∧ (∀ x ∈ (linkOf s p).queue, x.p.vc ≠ 7) ∧ creditNeed (timePacket s p n) false ≤ creditsOn s p 7) ∧
    (∃ (s : State) (p : Nat) (n : Nat), p < 12 ∧ neighbour s p = some n ∧ inService s p = true ∧ isAbsent s n = false ∧ ((∃ x ∈ (linkOf s p).queue, x.p.vc = 7) ∨ creditsOn s p 7 < creditNeed (timePacket s p n) false)) ∧
    (∃ (s : State) (p : Port) (k : Packet), k.ty = 0x0A ∧ k.dst = ownCoord s ∧ inService s p.val = true) ∧
    (∃ (s : State) (r : Req) (v : Dword), isReady s = true ∧ isMaster s = true ∧ s.fab.timeWasSet = false) ∧
    (∃ (s : State) (r : Req) (v : Dword), isReady s = true ∧ (isMaster s = false ∨ s.fab.timeWasSet = true)) ∧
    (∃ (s : State) (p : Nat), p < 12 ∧ inService s p = true) ∧
    (∃ (s : State) (p : Port) (f : List Byte), inService s p.val = true ∧ hbValid s p.val f = true ∧ lat f 1 1 ≠ 2 ∧ lat f 1 1 ≠ 3) ∧
    (∃ (s : State) (p : Port) (f : List Byte), inService s p.val = true ∧ hbValid s p.val f = true ∧ (lat f 1 1 = 2 ∨ lat f 1 1 = 3) ∧ s.fab.absent.length < 64 ∧ s.cfg.state ≠ 3 ∧ (∀ c < 8, (ctxOf s c).loaded = true → autoPlough s c = false ∨ fabricJob s c = 0)) ∧
    (∃ (s : State) (p : Port) (f : List Byte), (inService s p.val = false ∨ hbValid s p.val f = false)) :=
  ⟨⟨meshed, 3, 0, by decide +kernel⟩,
   ⟨updLink meshed 3 fun l => { l with credits := [(7, 1)] }, 3, 0, by decide +kernel⟩,
   ⟨meshed, 0, { ty := 0x0A, vc := 7, side := 0, dst := 1024, src := 2048, fabricJob := 0, tag := 0, step := 0, addr := 0, aux := 0, payload := List.replicate 32 5 }, by decide +kernel⟩,
   ⟨{ up with cfg := { up.cfg with live := [(0x70110, 1)] } }, 4, 0xFFFFFFFFFFFFFFFF, by decide +kernel⟩,
   ⟨up, 0, 0, by decide +kernel⟩,
   ⟨meshed, 3, by decide +kernel⟩,
   ⟨updLink meshed 0 fun l => { l with peer := 2048, peerPort := 2 }, 0, hbFlit { meshed with cfg := { up.cfg with live := [(0x70108, 2048)] } } 2, by decide +kernel⟩,
   ⟨updLink meshed 0 fun l => { l with peer := 2048, peerPort := 2 }, 0, hbFlit { meshed with cfg := { up.cfg with live := [(0x70108, 2048)] }, boot := { up.boot with announce := some (2, 0) } } 2, by decide +kernel⟩,
   ⟨meshed, 3, [], by decide +kernel⟩⟩

/-- The hypotheses of LinksLeaveService are met. -/
theorem witness_LinksLeaveService :
    (∃ (s : State) (p : Port) (n : Nat), inService s p.val = true ∧ neighbour s p.val = some n ∧ portPresent s (twinOf p.val) = true ∧ (linkOf s (twinOf p.val)).prbs = false ∧ s.cfg.state ≠ 3) ∧
    (∃ (s : State) (p : Port) (n : Nat), inService s p.val = true ∧ neighbour s p.val = some n ∧ (∀ q < 12, q ≠ p.val → neighbour s q = some n → portPresent s q = false) ∧ (linkOf s (twinOf p.val)).prbs = false ∧ s.cfg.state ≠ 3 ∧ s.fab.absent.length < 64 ∧ (∀ c < 8, (ctxOf s c).loaded = true → autoPlough s c = false ∨ fabricJob s c = 0)) ∧
    (∃ (s : State) (p : Port) (n : Nat), (linkOf s p.val).state ≠ .up ∧ (linkOf s p.val).out = false ∧ neighbour s p.val = some n ∧ portPresent s (twinOf p.val) = true ∧ (linkOf s (twinOf p.val)).prbs = false ∧ s.cfg.state ≠ 3) ∧
    (∃ (s : State) (p : Port) (bad : BitVec 8), inService s p.val = true ∧ (linkOf s (twinOf p.val)).prbs = false ∧ (linkOf s p.val).lanes = 0 ∧ (linkOf s p.val).bad = 0 ∧ bad.toNat % 16 = 0 ∧ 0 < bad.toNat / 16) ∧
    (∃ (s : State) (p : Port) (bad : BitVec 8), inService s p.val = true ∧ (linkOf s (twinOf p.val)).prbs = false ∧ (linkOf s p.val).lanes = 0 ∧ (linkOf s p.val).bad = 0 ∧ 0 < bad.toNat % 16 ∧ bad.toNat / 16 = 0) ∧
    (∃ (s : State) (p : Port) (bad : BitVec 8), inService s p.val = true ∧ 0 < bad.toNat % 16 ∧ 0 < bad.toNat / 16) :=
  ⟨⟨meshed, 3, 0, by decide +kernel⟩,
   ⟨updLink meshed 2 (fun l => { l with out := true }), 3, 0, by decide +kernel⟩,
   ⟨updLink meshed 3 (fun l => { l with state := .equalise }), 3, 0, by decide +kernel⟩,
   ⟨meshed, 0, 0x10, by decide +kernel⟩,
   ⟨meshed, 3, 0x0F, by decide +kernel⟩,
   ⟨meshed, 3, 0x11, by decide +kernel⟩⟩

/-- The hypotheses of LinkTrainingOrder are met. -/
theorem witness_LinkTrainingOrder :
    (∃ (s : State) (p : Port) (x : Nat) (n : Nat) (tag : Word), (linkOf s p.val).out = false ∧ (linkOf s p.val).prbs = false ∧ 5 ≤ s.boot.stage ∧ switchbackRuns s = true ∧ (linkOf s p.val).state = .detect) ∧
    (∃ (s : State) (p : Port) (x : Nat) (n : Nat) (tag : Word), (linkOf s p.val).out = false ∧ (linkOf s p.val).prbs = false ∧ 5 ≤ s.boot.stage ∧ switchbackRuns s = true ∧ (linkOf s p.val).state = .equalise) ∧
    (∃ (s : State) (p : Port) (x : Nat) (n : Nat) (tag : Word), (linkOf s p.val).out = false ∧ (linkOf s p.val).prbs = false ∧ 5 ≤ s.boot.stage ∧ switchbackRuns s = true ∧ (linkOf s p.val).state = .align) ∧
    (∃ (s : State) (p : Port) (x : Nat) (n : Nat) (tag : Word), (linkOf s p.val).out = false ∧ (linkOf s p.val).prbs = false ∧ 5 ≤ s.boot.stage ∧ switchbackRuns s = true ∧ (linkOf s p.val).state = .ident ∧ identOk s p.val x n tag = true) ∧
    (∃ (s : State) (p : Port) (x : Nat) (n : Nat) (tag : Word), (linkOf s p.val).out = false ∧ (linkOf s p.val).prbs = false ∧ 5 ≤ s.boot.stage ∧ switchbackRuns s = true ∧ (linkOf s p.val).state = .ident ∧ identOk s p.val x n tag = false ∧ (linkOf s p.val).agreed = false ∧ (∃ m, neighbour s p.val = some m) ∧ portPresent s (twinOf p.val) = true ∧ s.cfg.state ≠ 3) ∧
    (∃ (s : State) (p : Port) (x : Nat) (n : Nat) (tag : Word), (linkOf s p.val).out = false ∧ (linkOf s p.val).prbs = false ∧ 5 ≤ s.boot.stage ∧ switchbackRuns s = true ∧ (linkOf s p.val).state = .credit ∧ (linkOf s p.val).queue = []) :=
  ⟨⟨updLink up 11 (fun l => { l with state := .detect }), 11, 0, 0, 0, by decide +kernel⟩,
   ⟨updLink up 11 (fun l => { l with state := .equalise }), 11, 0, 0, 0, by decide +kernel⟩,
   ⟨updLink up 11 (fun l => { l with state := .align }), 11, 0, 0, 0, by decide +kernel⟩,
   ⟨updLink meshed 3 (fun l => { l with state := .ident }), 3, 0, 1, 0, by decide +kernel⟩,
   ⟨updLink meshed 3 (fun l => { l with state := .ident }), 3, 0, 3, 0, by constructorm* _ ∧ _ <;> first | decide +kernel | exact ⟨_, rfl⟩⟩,
   ⟨updLink meshed 3 (fun l => { l with state := .credit }), 3, 0, 0, 0, by decide +kernel⟩⟩

/-- The hypotheses of ReplayCreditsAndPrbs are met. -/
theorem witness_ReplayCreditsAndPrbs :
    (∃ (s : State) (p : Port) (n : Nat), inService s p.val = true) ∧
    (∃ (s : State) (p : Port) (v : Fin 8) (n : Nat), inService s p.val = true ∧ (linkOf s p.val).queue = []) ∧
    (∃ (s : State) (p : Port), isReady s = true ∧ inService s p.val = true ∧ inService s (twinOf p.val) = true ∧ ((∀ q < 12, (linkOf s q).prbs = false))) ∧
    (∃ (s : State) (p : Port), isReady s = true ∧ inService s (twinOf p.val) = false) ∧
    (∃ (s : State) (p : Port), isReady s = true ∧ (linkOf s p.val).prbs = true) :=
  ⟨⟨meshed, 3, 2, by decide +kernel⟩,
   ⟨updLink meshed 3 (fun l => { l with credits := [(7, 90)] }), 3, 7, 10, by decide +kernel⟩,
   ⟨meshed, 3, by decide +kernel⟩,
   ⟨updLink meshed 2 (fun l => { l with out := true }), 3, by decide +kernel⟩,
   ⟨updLink meshed 3 (fun l => { l with prbs := true }), 3, by decide +kernel⟩⟩

/-- The hypotheses of DescriptorLifeCycle are met. -/
theorem witness_DescriptorLifeCycle :
    (∃ (s : State) (t : TileId) (pc : Nat) (addr : Nat) (c : Nat) (k : Desc) (q : DescQueue), tileCtx s t.val = some c ∧ (ctxOf s c).state = .running ∧ (seqrOf s t.val).hold = none ∧ (seqrOf s t.val).stepEnd = false ∧ pairRuns s t.val = true ∧ addr % 2 ^ 21 + 64 ≤ storeEnd ∧ k = { seq := (seqrOf s t.val).nextSeq, addr := addr % 2 ^ 21, w := wordsOf (storeRead s t.val (addr % 2 ^ 21) 64) } ∧ issueReason s c t.val k = none ∧ queueOf k.cls = some q ∧ queueFull (seqrOf s t.val) q = false) ∧
    (∃ (s : State) (t : TileId) (pc : Nat) (addr : Nat) (c : Nat) (k : Desc), tileCtx s t.val = some c ∧ (ctxOf s c).state = .running ∧ (seqrOf s t.val).hold = none ∧ (seqrOf s t.val).stepEnd = false ∧ pairRuns s t.val = true ∧ addr % 2 ^ 21 + 64 ≤ storeEnd ∧ k = { seq := (seqrOf s t.val).nextSeq, addr := addr % 2 ^ 21, w := wordsOf (storeRead s t.val (addr % 2 ^ 21) 64) } ∧ issueReason s c t.val k = none ∧ (match queueOf k.cls with | some q => queueFull (seqrOf s t.val) q | none => true) = true) ∧
    (∃ (s : State) (c : Nat) (k : Desc), (k.cls ≠ 7 ∨ k.fld 2 31 28 ≠ 2)) ∧
    (∃ (s : State) (c : Nat) (k : Desc), k.cls = 7 ∧ k.fld 2 31 28 = 2) ∧
    (∃ (s : State) (t : TileId) (q : DescQueue) (d : Desc) (c : Nat), (inQueue q (seqrOf s t.val).descs).find? (fun e => decide (e.phase = .queued)) = some d ∧ tileCtx s t.val = some c ∧ (inQueue q (seqrOf s t.val).descs).countP (fun e => decide (e.phase ≠ .queued)) < queueRuns q ∧ fenceOk (seqrOf s t.val) d = true ∧ waitOk s t.val d = true ∧ spinHeld s t.val d = false ∧ pairRuns s t.val = true ∧ tableAddr d = none ∧ waitBehind s t.val q d = false) ∧
    (∃ (s : State) (t : TileId) (q : DescQueue) (d : Desc), (inQueue q (seqrOf s t.val).descs).head? = some d ∧ d.phase = .done ∧ hasLeft s t.val d = true ∧ d.bit 0 25 = false) ∧
    (∃ (s : State) (t : TileId) (q : DescQueue) (d : Desc), (inQueue q (seqrOf s t.val).descs).head? = some d ∧ d.phase = .done ∧ hasLeft s t.val d = true ∧ d.bit 0 25 = true ∧ semGet s t.val (d.fld 0 15 8) + d.fld 1 15 0 ≤ 0xFFFF) :=
  ⟨⟨storeWrite working 511 0x13FFC0 (leBytes 8 0x10000000 ++ leBytes 4 0xFFFFFFF0 ++ leBytes 4 0x8F ++ leBytes 4 0x13FFF0 ++ leBytes 4 16 ++ leBytes 4 0x10001), 511, 0x1FFFFF, 0x13FFC0, 7, { seq := 0, addr := 0x13FFC0, w := [0x10000000, 0, 0xFFFFFFF0, 0x8F, 0x13FFF0, 16, 0x10001, 0, 0, 0, 0, 0, 0, 0, 0, 0] }, .dma, by decide +kernel⟩,
   ⟨storeWrite working 511 0x13FFC0 (leBytes 8 0x60000000 ++ leBytes 4 0x4000000A ++ leBytes 4 3), 511, 0x1FFFFF, 0x13FFC0, 7, { seq := 0, addr := 0x13FFC0, w := [0x60000000, 0, 0x4000000A, 3, 0, 0, 0, 0, 0, 0, 0, 0, 0, 0, 0, 0] }, by decide +kernel⟩,
   ⟨working, 7, { seq := 3, addr := 0, w := [0x70000000, 0, 0x10000000] }, by decide +kernel⟩,
   ⟨updFab working 7 fun f => { f with collNext := 4 }, 7, { seq := 3, addr := 0, w := [0x70000000, 0, 0x20000000] }, by decide +kernel⟩,
   ⟨semPut (issued 511 { seq := 3, addr := 0, w := [0x14FF0000, 0xFFFF0000] }) 511 255 0xFFFF, 511, .dma, { seq := 3, addr := 0, w := [0x14FF0000, 0xFFFF0000] }, 7, by decide +kernel⟩,
   ⟨issued 511 { seq := 3, addr := 0, w := [0x10000000], phase := .done }, 511, .dma, { seq := 3, addr := 0, w := [0x10000000], phase := .done }, by decide +kernel⟩,
   ⟨issued 511 { seq := 3, addr := 0, w := [0x1200FF00, 0xFFFF], phase := .done }, 511, .dma, { seq := 3, addr := 0, w := [0x1200FF00, 0xFFFF], phase := .done }, by decide +kernel⟩⟩

/-- The hypotheses of SemaphoreDescriptors are met. -/
theorem witness_SemaphoreDescriptors :
    (∃ (s : State) (t : TileId) (c : Nat) (d : Desc) (s1 : State), heldReady s t.val 6 = some (c, d, s1) ∧ d.fld 2 31 30 = 0 ∧ d.fld 3 15 0 ≤ semGet s1 t.val (d.fld 2 7 0) ∧ d.bit 0 25 = false) ∧
    (∃ (s : State) (t : TileId) (c : Nat) (d : Desc) (s1 : State), heldReady s t.val 6 = some (c, d, s1) ∧ d.fld 2 31 30 = 0 ∧ semGet s1 t.val (d.fld 2 7 0) < d.fld 3 15 0) ∧
    (∃ (s : State) (t : TileId) (c : Nat) (d : Desc) (s1 : State), heldReady s t.val 6 = some (c, d, s1) ∧ d.fld 2 31 30 = 1 ∧ holdsTile s1 c (semTarget t.val d) = true ∧ semGet s1 (semTarget t.val d) (d.fld 2 7 0) + d.fld 3 15 0 ≤ 0xFFFF ∧ d.bit 0 25 = false) ∧
    (∃ (s : State) (t : TileId) (c : Nat) (d : Desc) (s1 : State), heldReady s t.val 6 = some (c, d, s1) ∧ d.fld 2 31 30 = 2 ∧ holdsTile s1 c (semTarget t.val d) = true ∧ d.bit 0 25 = false) :=
  ⟨⟨semPut (held 511 { seq := 3, addr := 0, w := [0x60000000, 0, 255, 0xFFFF] }) 511 255 0xFFFF, 511, 7, { seq := 3, addr := 0, w := [0x60000000, 0, 255, 0xFFFF] }, updSeqr (semPut (held 511 { seq := 3, addr := 0, w := [0x60000000, 0, 255, 0xFFFF] }) 511 255 0xFFFF) 511 fun z => { z with waited := true }, by decide +kernel⟩,
   ⟨held 511 { seq := 3, addr := 0, w := [0x60000000, 0, 255, 1] }, 511, 7, { seq := 3, addr := 0, w := [0x60000000, 0, 255, 1] }, updSeqr (held 511 { seq := 3, addr := 0, w := [0x60000000, 0, 255, 1] }) 511 fun z => { z with waited := true }, by decide +kernel⟩,
   ⟨semPut (held 511 { seq := 3, addr := 0, w := [0x60000000, 0, 0x7F0000FF, 0xFFFE] }) 496 255 1, 511, 7, { seq := 3, addr := 0, w := [0x60000000, 0, 0x7F0000FF, 0xFFFE] }, updSeqr (semPut (held 511 { seq := 3, addr := 0, w := [0x60000000, 0, 0x7F0000FF, 0xFFFE] }) 496 255 1) 511 fun z => { z with waited := true }, by decide +kernel⟩,
   ⟨held 511 { seq := 3, addr := 0, w := [0x60000000, 0, 0x800000FF, 0xFFFF] }, 511, 7, { seq := 3, addr := 0, w := [0x60000000, 0, 0x800000FF, 0xFFFF] }, updSeqr (held 511 { seq := 3, addr := 0, w := [0x60000000, 0, 0x800000FF, 0xFFFF] }) 511 fun z => { z with waited := true }, by decide +kernel⟩⟩

/-- The hypotheses of Barriers are met. -/
theorem witness_Barriers :
    (∃ (s : State) (t : TileId) (c : Nat) (d : Desc) (s1 : State), (seqrOf s t.val).descs = [] ∧ heldReady s t.val 8 = some (c, d, s1) ∧ scopeOf (d.fld 2 31 30) ≠ .job ∧ barOf s1 c (scopeOf (d.fld 2 31 30)) (scopeInst (scopeOf (d.fld 2 31 30)) t.val) (d.fld 2 29 26) = none) ∧
    (∃ (s : State) (t : TileId) (c : Nat) (d : Desc) (s1 : State) (b : BarSt), (seqrOf s t.val).descs = [] ∧ heldReady s t.val 8 = some (c, d, s1) ∧ scopeOf (d.fld 2 31 30) ≠ .job ∧ barOf s1 c (scopeOf (d.fld 2 31 30)) (scopeInst (scopeOf (d.fld 2 31 30)) t.val) (d.fld 2 29 26) = some b ∧ b.tiles.contains t.val = false ∧ b.count = d.fld 2 15 0) ∧
    (∃ (s : State) (c : Ctx) (sc : BarScope) (inst : Nat) (i : Fin 16) (b : BarSt), barFull s c.val sc inst i.val = some b ∧ sc ≠ .job ∧ (∀ x ∈ b.tiles, ∀ d, (seqrOf s x).hold = some d → d.bit 0 25 = false)) ∧
    (∃ (s : State) (c : Ctx) (sc : BarScope) (inst : Nat) (i : Fin 16), barFull s c.val sc inst i.val = none) :=
  ⟨⟨held 511 { seq := 3, addr := 0, w := [0x80000000, 0, 0x3C000010] }, 511, 7, { seq := 3, addr := 0, w := [0x80000000, 0, 0x3C000010] }, updSeqr (held 511 { seq := 3, addr := 0, w := [0x80000000, 0, 0x3C000010] }) 511 fun z => { z with waited := true }, by decide +kernel⟩,
   ⟨setBar (held 511 { seq := 3, addr := 0, w := [0x80000000, 0, 0x3C000002] }) ⟨7, .course, 31, 15, 2, [496]⟩, 511, 7, { seq := 3, addr := 0, w := [0x80000000, 0, 0x3C000002] }, updSeqr (setBar (held 511 { seq := 3, addr := 0, w := [0x80000000, 0, 0x3C000002] }) ⟨7, .course, 31, 15, 2, [496]⟩) 511 fun z => { z with waited := true }, ⟨7, .course, 31, 15, 2, [496]⟩, by decide +kernel⟩,
   ⟨setBar (held 511 { seq := 3, addr := 0, w := [0x80000000, 0, 0x3C000002] }) ⟨7, .course, 31, 15, 2, [496, 511]⟩, 7, .course, 31, 15, ⟨7, .course, 31, 15, 2, [496, 511]⟩, by decide +kernel⟩,
   ⟨setBar (held 511 { seq := 3, addr := 0, w := [0x80000000, 0, 0x3C000002] }) ⟨7, .course, 31, 15, 2, [511]⟩, 7, .course, 31, 15, by decide +kernel⟩⟩

/-- The hypotheses of TileEvents are met. -/
theorem witness_TileEvents :
    (∃ (s : State) (t : TileId) (c : Nat) (d : Desc) (s1 : State), heldReady s t.val 9 = some (c, d, s1) ∧ (ctxOf s1 c).evq.waiting = [] ∧ evqSlots s1 c ≠ 0 ∧ evqFull (ctxOf s1 c).evq (evqSlots s1 c) = false ∧ d.bit 2 31 = false ∧ d.bit 2 30 = false ∧ d.bit 0 25 = false) ∧
    (∃ (s : State) (t : TileId) (c : Nat) (d : Desc) (s1 : State), heldReady s t.val 9 = some (c, d, s1) ∧ (ctxOf s1 c).evq.waiting = [] ∧ evqSlots s1 c ≠ 0 ∧ evqFull (ctxOf s1 c).evq (evqSlots s1 c) = true) ∧
    (∃ (s : State) (c : Ctx) (e : Ev) (rest : List Ev), (ctxOf s c.val).evq.waiting = e :: rest ∧ evqSlots s c.val ≠ 0 ∧ evqFull (ctxOf s c.val).evq (evqSlots s c.val) = false ∧ e.tile = none ∧ e.irq = false) ∧
    (∃ (s : State) (c : Ctx) (e : Ev) (rest : List Ev), (ctxOf s c.val).evq.waiting = e :: rest ∧ evqSlots s c.val ≠ 0 ∧ evqFull (ctxOf s c.val).evq (evqSlots s c.val) = true) :=
  ⟨⟨held 511 { seq := 3, addr := 0, w := [0x90000000, 0, 0xFFFF] }, 511, 7, { seq := 3, addr := 0, w := [0x90000000, 0, 0xFFFF] }, updSeqr (held 511 { seq := 3, addr := 0, w := [0x90000000, 0, 0xFFFF] }) 511 fun z => { z with waited := true }, by decide +kernel⟩,
   ⟨updCtx (held 511 { seq := 3, addr := 0, w := [0x90000000, 0, 0xFFFF] }) 7 (fun j => { j with evq := { j.evq with prod := 3 } }), 511, 7, { seq := 3, addr := 0, w := [0x90000000, 0, 0xFFFF] }, updSeqr (updCtx (held 511 { seq := 3, addr := 0, w := [0x90000000, 0, 0xFFFF] }) 7 (fun j => { j with evq := { j.evq with prod := 3 } })) 511 fun z => { z with waited := true }, by decide +kernel⟩,
   ⟨updCtx working 7 (fun j => { j with evq := { j.evq with prod := 3, cons := 3, waiting := [⟨4, 7, 0, [], false, false, none⟩] } }), 7, ⟨4, 7, 0, [], false, false, none⟩, [], by decide +kernel⟩,
   ⟨updCtx working 7 (fun j => { j with evq := { j.evq with prod := 3, waiting := [⟨4, 7, 0, [], false, false, none⟩] } }), 7, ⟨4, 7, 0, [], false, false, none⟩, [], by decide +kernel⟩⟩

/-- The hypotheses of RowsMoved are met. -/
theorem witness_RowsMoved :
    (∃ (s : State) (t : TileId) (i : Nat) (d : Desc) (c : Nat), pickDesc s t.val 1 i = some d ∧ tileCtx s t.val = some c ∧ s.quietWork t.val d ∧ d.wait = none ∧ (dmaOf d).grout = false ∧ (dmaOf d).out = false ∧ (∀ r ∈ dmaRows (dmaOf d), extFault s c t.val (dmaOf d) r.1 (dmaOf d).rb = none ∧ extPoison s (dmaOf d) r.1 (dmaOf d).rb = none)) ∧
    (∃ (s : State) (t : TileId) (i : Nat) (d : Desc) (c : Nat), pickDesc s t.val 1 i = some d ∧ tileCtx s t.val = some c ∧ s.quietWork t.val d ∧ d.wait = none ∧ (dmaOf d).grout = false ∧ (dmaOf d).out = true ∧ (dmaOf d).scratch = false ∧ (∀ r ∈ dmaRows (dmaOf d), extFault s c t.val (dmaOf d) r.1 (dmaOf d).rb = none)) ∧
    (∃ (s : State) (t : TileId) (i : Nat) (d : Desc) (c : Nat), pickDesc s t.val 1 i = some d ∧ tileCtx s t.val = some c ∧ s.quietWork t.val d ∧ d.wait = none ∧ (dmaOf d).grout = false ∧ (dmaOf d).out = true ∧ (dmaOf d).scratch = true ∧ (∀ r ∈ dmaRows (dmaOf d), extFault s c t.val (dmaOf d) r.1 (dmaOf d).rb = none)) ∧
    (∃ (s : State) (t : TileId) (i : Nat) (d : Desc), pickDesc s t.val 1 i = some d ∧ (∃ c, tileCtx s t.val = some c) ∧ s.quietWork t.val d ∧ d.wait.isSome = true) ∧
    (∃ (s : State) (t : TileId) (d : Desc) (c : Nat) (n : Nat), pickDesc s t.val 5 0 = some d ∧ tileCtx s t.val = some c ∧ jointNeighbour t.val (d.fld 2 31 30) = some n ∧ holdsTile s c n = true ∧ s.quietWork t.val d ∧ (d.bit 2 29 = false ∨ semGet s n (d.fld 2 28 21) + d.fld 4 15 0 ≤ 0xFFFF)) :=
  ⟨⟨issued 511 { seq := 3, addr := 0, w := [0x10000000, 0, 0xFFFFFFF0, 0x8F, 0x13FFF0, 16, 0x10001], phase := .started }, 511, 0, { seq := 3, addr := 0, w := [0x10000000, 0, 0xFFFFFFF0, 0x8F, 0x13FFF0, 16, 0x10001], phase := .started }, 7, by decide +kernel⟩,
   ⟨issued 511 { seq := 3, addr := 0, w := [0x10000000, 0, 0xFFFFFFF0, 0x800008F, 0x13FFF0, 16, 0x10001], phase := .started }, 511, 0, { seq := 3, addr := 0, w := [0x10000000, 0, 0xFFFFFFF0, 0x800008F, 0x13FFF0, 16, 0x10001], phase := .started }, 7, by decide +kernel⟩,
   ⟨issued 511 { seq := 3, addr := 0, w := [0x10000000, 0, 0x3FF0, 0x48000000, 0x13FFF0, 16, 0x10001], phase := .started }, 511, 0, { seq := 3, addr := 0, w := [0x10000000, 0, 0x3FF0, 0x48000000, 0x13FFF0, 16, 0x10001], phase := .started }, 7, by decide +kernel⟩,
   ⟨issued 511 { seq := 3, addr := 0, w := [0x10000000, 0, 0xFFFFFFF0, 0x8F, 0x13FFF0, 16, 0x10001], phase := .started, tags := [(0, 4000)], wait := some 11 }, 511, 0, { seq := 3, addr := 0, w := [0x10000000, 0, 0xFFFFFFF0, 0x8F, 0x13FFF0, 16, 0x10001], phase := .started, tags := [(0, 4000)], wait := some 11 }, ⟨by decide +kernel, ⟨7, by decide +kernel⟩, by decide +kernel, by decide +kernel⟩⟩,
   ⟨semPut (issued 511 { seq := 3, addr := 0, w := [0x50000000, 0, 0x3FE00000, 0x10, 0x1FFFE, 16], phase := .started }) 507 255 1, 511, { seq := 3, addr := 0, w := [0x50000000, 0, 0x3FE00000, 0x10, 0x1FFFE, 16], phase := .started }, 7, 507, by decide +kernel⟩⟩

/-- The hypotheses of MatmulAndConvResults are met. -/
theorem witness_MatmulAndConvResults :
    (∃ (s : State) (t : TileId) (d : Desc), pickDesc s t.val 2 0 = some d ∧ s.quietWork t.val d ∧ d.bit 8 28 = false ∧ (∀ j < d.fld 6 31 16, ∀ i < j, d.sa 4 + i * d.sa 10 + (convRun (convOf d 8 13) ((matmulRow s t.val d ((List.range (d.fld 6 15 0)).map fun k => readElems s t.val (engOf d).fb (d.sa 3 + k * d.sa 9) (d.fld 7 31 16)) i).1.map fun w => (w, none))).bytes.length ≤ d.sa 4 + j * d.sa 10)) ∧
    (∃ (s : State) (t : TileId) (d : Desc), pickDesc s t.val 3 0 = some d ∧ s.quietWork t.val d ∧ d.bit 8 28 = false ∧ (geoOf d).outRows = 1 ∧ (geoOf d).outW = 1) ∧
    (∃ (s : State) (t : TileId) (d : Desc), pickDesc s t.val 3 0 = some d ∧ s.quietWork t.val d) :=
  ⟨⟨issued 511 { seq := 3, addr := 0, w := [0x20000000, 0, 0x00000000, 0x00000040, 0x00000080, 0, 0x00020001, 0x00010000, 0, 4, 64, 0x3F800000, 0, 0xFF800000, 0x7F800000, 0], phase := .started }, 511, { seq := 3, addr := 0, w := [0x20000000, 0, 0x00000000, 0x00000040, 0x00000080, 0, 0x00020001, 0x00010000, 0, 4, 64, 0x3F800000, 0, 0xFF800000, 0x7F800000, 0], phase := .started }, by decide +kernel⟩,
   ⟨issued 511 { seq := 3, addr := 0, w := [0x30000000, 0, 0x00000000, 0x00000040, 0x00000080, 0x00010001, 0x00200001, 0x11000000, 0x00000001, 0, 0x3F800000, 0, 0xFF800000, 0x7F800000, 0, 0], phase := .started }, 511, { seq := 3, addr := 0, w := [0x30000000, 0, 0x00000000, 0x00000040, 0x00000080, 0x00010001, 0x00200001, 0x11000000, 0x00000001, 0, 0x3F800000, 0, 0xFF800000, 0x7F800000, 0, 0], phase := .started }, by decide +kernel⟩,
   ⟨issued 511 { seq := 3, addr := 0, w := [0x30000000, 0, 0x00000000, 0x00000040, 0x00000080, 0x00010001, 0x00200001, 0x11000000, 0x10000001, 0, 0x3F800000, 0, 0xFF800000, 0x7F800000, 0, 0], phase := .started }, 511, { seq := 3, addr := 0, w := [0x30000000, 0, 0x00000000, 0x00000040, 0x00000080, 0x00010001, 0x00200001, 0x11000000, 0x10000001, 0, 0x3F800000, 0, 0xFF800000, 0x7F800000, 0, 0], phase := .started }, by decide +kernel⟩⟩

/-- The hypotheses of VectorLaneOperations are met. -/
theorem witness_VectorLaneOperations :
    (∃ (s : State) (t : TileId) (d : Desc) (c : Nat) (x : Nat) (lanes : List Word), pickDesc s t.val 4 0 = some d ∧ tileCtx s t.val = some c ∧ s.quietWork t.val d ∧ vecProgram s t.val d = [x] ∧ d.fld 3 15 0 = 1 ∧ (microOf x).op ∈ [0x03, 0x04, 0x05, 0x06, 0x07, 0x08, 0x09, 0x0A, 0x0B, 0x0C, 0x0D, 0x0E, 0x0F, 0x13] ∧ (List.zip (vget s t.val (microOf x).va) (List.zip (vget s t.val (microOf x).vb) (vget s t.val (microOf x).vc))).map (fun p => laneOp (microOf x) p.1 p.2.1 p.2.2) = lanes.map some) ∧
    (∃ (s : State) (t : TileId) (d : Desc) (c : Nat) (x : Nat), pickDesc s t.val 4 0 = some d ∧ tileCtx s t.val = some c ∧ s.quietWork t.val d ∧ vecProgram s t.val d = [x] ∧ d.fld 3 15 0 = 1 ∧ (microOf x).op = 0x01 ∧ (microOf x).sub = 0 ∧ (microOf x).va = 0 ∧ (microOf x).imm = 0 ∧ d.sa 4 + 512 ≤ storeEnd) :=
  ⟨⟨started (vput (storeWrite working 511 0 (leBytes 8 (0x0C * 2 ^ 58 + 31 * 2 ^ 53 + 30 * 2 ^ 48 + 29 * 2 ^ 43 + 28 * 2 ^ 38 + 2 ^ 32 * 5))) 511 30 [0x3F800000]) 511 { seq := 3, addr := 0, w := [0x40000000, 0, 0x00200000, 1], phase := .started, snap := (storeWrite working 511 0 (leBytes 8 (0x0C * 2 ^ 58 + 31 * 2 ^ 53 + 30 * 2 ^ 48 + 29 * 2 ^ 43 + 28 * 2 ^ 38 + 2 ^ 32 * 5))).tile.store }, 511, { seq := 3, addr := 0, w := [0x40000000, 0, 0x00200000, 1], phase := .started, snap := (storeWrite working 511 0 (leBytes 8 (0x0C * 2 ^ 58 + 31 * 2 ^ 53 + 30 * 2 ^ 48 + 29 * 2 ^ 43 + 28 * 2 ^ 38 + 2 ^ 32 * 5))).tile.store }, 7, 0x0C * 2 ^ 58 + 31 * 2 ^ 53 + 30 * 2 ^ 48 + 29 * 2 ^ 43 + 28 * 2 ^ 38 + 2 ^ 32 * 5, List.replicate 128 0xFFFFFFFF, by decide +kernel⟩,
   ⟨started (storeWrite (storeWrite working 511 0 (leBytes 8 (2 ^ 58 + 31 * 2 ^ 53))) 511 0x13FFFC (leBytes 4 0x3F800000)) 511 { seq := 3, addr := 0, w := [0x40000000, 0, 0x00200000, 1, 0x13FE00], phase := .started, snap := (storeWrite (storeWrite working 511 0 (leBytes 8 (2 ^ 58 + 31 * 2 ^ 53))) 511 0x13FFFC (leBytes 4 0x3F800000)).tile.store }, 511, { seq := 3, addr := 0, w := [0x40000000, 0, 0x00200000, 1, 0x13FE00], phase := .started, snap := (storeWrite (storeWrite working 511 0 (leBytes 8 (2 ^ 58 + 31 * 2 ^ 53))) 511 0x13FFFC (leBytes 4 0x3F800000)).tile.store }, 7, 2 ^ 58 + 31 * 2 ^ 53, by decide +kernel⟩⟩

/-- The hypotheses of CountedSpinGenerators are met. -/
theorem witness_CountedSpinGenerators :
    (∃ (s : State) (t : Nat) (j : Nat) (k : Nat), counted s (t / 16) = true ∧ j < 128) ∧
    (∃ (s : State) (t : Nat) (j : Nat) (u : Nat) (i : Nat) (k : Nat), counted s (t / 16) = true ∧ j < 128 ∧ i < 128 ∧ (u ≠ t ∨ i ≠ j)) ∧
    (∃ (s : State) (p : Nat) (t : Nat) (j : Nat), counted s (t / 16) = true) ∧
    (∃ (s : State) (n : Nat) (seed : Nat) (t : Nat) (j : Nat), t / 16 = n ∧ j < 128) :=
  ⟨⟨{ working with cfg := { working.cfg with live := working.cfg.live ++ [(0x3F108, 1)] } }, 511, 127, 3, by decide +kernel⟩,
   ⟨{ working with cfg := { working.cfg with live := working.cfg.live ++ [(0x3F108, 1)] } }, 511, 127, 511, 126, 3, by decide +kernel⟩,
   ⟨{ working with cfg := { working.cfg with live := working.cfg.live ++ [(0x3F108, 1)] } }, 15, 511, 127, by decide +kernel⟩,
   ⟨working, 31, 5, 511, 127, by decide +kernel⟩⟩

/-- The hypotheses of DimensionOrder are met. -/
theorem witness_DimensionOrder :
    (∃ (s : State) (dst : Nat) (a : Nat) (d : Nat), routeDir s dst = some (a, d)) :=
  ⟨meshed, 3072, 0, 0, by decide +kernel⟩

/-- The hypotheses of RoutesMakeProgress are met. -/
theorem witness_RoutesMakeProgress :
    (∃ (s : State) (dst : Nat) (a : Nat) (d : Nat) (port : Nat) (n : Nat), inSystem s (ownCoord s) = true ∧ inSystem s dst = true ∧ dst < 0x8000 ∧ routeDir s dst = some (a, d) ∧ (port = 4 * a + 2 * d ∨ port = 4 * a + 2 * d + 1) ∧ neighbour s port = some n) :=
  ⟨meshed, 3072, 0, 0, 1, 2048, by decide +kernel⟩

/-- The hypotheses of PacketForwarding are met. -/
theorem witness_PacketForwarding :
    (∃ (s : State) (i : Option Port) (p : Packet), 0 < p.ty ∧ p.ty < 0x0C ∧ isAbsent s p.dst = false ∧ p.dst = ownCoord s) ∧
    (∃ (s : State) (i : Option Port) (p : Packet) (a : Nat) (d : Nat) (n : Nat), 0 < p.ty ∧ p.ty < 0x0C ∧ p.ty ≠ 0x0A ∧ isAbsent s p.dst = false ∧ routeDir s p.dst = some (a, d) ∧ pickPort s a d p.vc = some n ∧ (∀ x ∈ (linkOf s n).queue, x.p.vc ≠ p.vc) ∧ creditNeed p (decide (i.map (fun x => x.val / 4) = some a)) ≤ creditsOn s n p.vc) ∧
    (∃ (s : State) (i : Option Port) (p : Packet) (a : Nat) (d : Nat) (n : Nat), 0 < p.ty ∧ p.ty < 0x0C ∧ p.ty ≠ 0x0A ∧ isAbsent s p.dst = false ∧ routeDir s p.dst = some (a, d) ∧ pickPort s a d p.vc = some n ∧ ((∃ x ∈ (linkOf s n).queue, x.p.vc = p.vc) ∨ creditsOn s n p.vc < creditNeed p (decide (i.map (fun x => x.val / 4) = some a)))) ∧
    (∃ (s : State) (i : Option Port) (p : Packet) (a : Nat) (d : Nat) (n : Nat), 0 < p.ty ∧ p.ty < 0x0C ∧ p.ty ≠ 0x0A ∧ isAbsent s p.dst = false ∧ routeDir s p.dst = some (a, d) ∧ pickPort s a d p.vc = none ∧ p.side < 2 ∧ (sideOrder a).findSome? (fun x => pickPort s x.1 x.2 6) = some n ∧ (∀ x ∈ (linkOf s n).queue, x.p.vc ≠ 6) ∧ flits p ≤ creditsOn s n 6) ∧
    (∃ (s : State) (i : Option Port) (p : Packet), ((p.ty = 0 ∨ 0x0C ≤ p.ty) ∨ (isAbsent s p.dst = true ∧ reportOf s p 5 = none))) :=
  ⟨⟨meshed, none, { ty := 1, vc := 0, side := 0, dst := 1024, src := 2048, fabricJob := 9, tag := 5, step := 5, addr := 0, aux := 0, payload := [] }, by decide +kernel⟩,
   ⟨meshed, some 2, { ty := 1, vc := 0, side := 0, dst := 3072, src := 2048, fabricJob := 9, tag := 5, step := 5, addr := 0, aux := 0, payload := [] }, 0, 0, 0, by decide +kernel⟩,
   ⟨updLink (updLink meshed 0 (fun l => { l with credits := [] })) 1 (fun l => { l with credits := [] }), none, { ty := 1, vc := 0, side := 0, dst := 3072, src := 2048, fabricJob := 9, tag := 5, step := 5, addr := 0, aux := 0, payload := [] }, 0, 0, 0, by decide +kernel⟩,
   ⟨plane, some 2, { ty := 1, vc := 0, side := 0, dst := packC 3 1 0, src := 2048, fabricJob := 9, tag := 5, step := 5, addr := 0, aux := 0, payload := [] }, 0, 0, 4, by decide +kernel⟩,
   ⟨meshed, none, { ty := 12, vc := 0, side := 0, dst := 3072, src := 2048, fabricJob := 9, tag := 5, step := 5, addr := 0, aux := 0, payload := [] }, by decide +kernel⟩⟩

/-- The hypotheses of PutsAndGets are met. -/
theorem witness_PutsAndGets :
    (∃ (s : State) (t : TileId) (i : Nat) (c : Nat) (d : Desc), pickDesc s t.val 7 i = some d ∧ tileCtx s t.val = some c ∧ d.fld 2 31 28 = 0 ∧ d.prog = 0 ∧ 0 < fabLen d ∧ fabLen d ≤ 16384 ∧ d.bit 8 31 = false ∧ inStore d = true ∧ jobTagFree s c = true) ∧
    (∃ (s : State) (t : TileId) (i : Nat) (c : Nat) (d : Desc), pickDesc s t.val 7 i = some d ∧ tileCtx s t.val = some c ∧ d.fld 2 31 28 = 0 ∧ (s.mem.upsets = [] ∨ inStore d = true) ∧ d.prog < fabLen d ∧ jobTagFree s c = false) ∧
    (∃ (s : State) (t : TileId) (i : Nat) (c : Nat) (d : Desc), pickDesc s t.val 7 i = some d ∧ tileCtx s t.val = some c ∧ d.fld 2 31 28 = 1 ∧ d.prog = 0 ∧ 0 < fabLen d ∧ fabLen d ≤ 4096 ∧ jobTagFree s c = true) ∧
    (∃ (s : State) (c : Ctx) (t : Nat) (d : Desc), (tilesOf (ctxOf s c.val).man).findSome? (fun x => ((seqrOf s x).descs.find? fabWaits).map fun y => (x, y)) = some (t, d) ∧ tileCtx s t = some c.val ∧ d.fld 2 31 28 = 1 ∧ fabLen d ≤ d.prog + 4096 ∧ jobTagFree s c.val = true) ∧
    (∃ (s : State) (k : StackId) (t : Nat) (d : Desc), tagWaiter s k.val = some (t, d) ∧ d ∈ (seqrOf s t).descs ∧ memTagsUsed s k.val < 4096) ∧
    (∃ (s : State) (k : StackId), (tagWaiter s k.val = none ∨ 4096 ≤ memTagsUsed s k.val)) :=
  ⟨⟨issued 511 { seq := 3, addr := 0, w := [0x70000000, 0, 3145728, 0x10000, 0, 0x40, 0x0, 64, 0, 0, 0], phase := .started }, 511, 0, 7, { seq := 3, addr := 0, w := [0x70000000, 0, 3145728, 0x10000, 0, 0x40, 0x0, 64, 0, 0, 0], phase := .started }, by decide +kernel⟩,
   ⟨{ issued 511 { seq := 3, addr := 0, w := [0x70000000, 0, 3145728, 0x10000, 0, 0x40, 0x0, 64, 0, 0, 0], phase := .started } with fab := { working.fab with tags := (List.range 16).map fun i => (i, 7) } }, 511, 0, 7, { seq := 3, addr := 0, w := [0x70000000, 0, 3145728, 0x10000, 0, 0x40, 0x0, 64, 0, 0, 0], phase := .started }, by decide +kernel⟩,
   ⟨issued 511 { seq := 3, addr := 0, w := [0x70000000, 0, 271581184, 0x10000, 0, 0x40, 0x0, 64, 0, 0, 0], phase := .started }, 511, 0, 7, { seq := 3, addr := 0, w := [0x70000000, 0, 271581184, 0x10000, 0, 0x40, 0x0, 64, 0, 0, 0], phase := .started }, by decide +kernel⟩,
   ⟨issued 511 { seq := 3, addr := 0, w := [0x70000000, 0, 271581184, 0x10000, 0, 0x40, 0x0, 64, 0, 0, 0], phase := .started }, 7, 511, { seq := 3, addr := 0, w := [0x70000000, 0, 271581184, 0x10000, 0, 0x40, 0x0, 64, 0, 0, 0], phase := .started }, by decide +kernel⟩,
   ⟨issued 511 { seq := 3, addr := 0, w := [0x10000000, 0, 0xFFFFFFF0, 0x8F, 0x13FFF0, 16, 0x10001], phase := .started, tags := [(0, 4000)], wait := some 11 }, 11, 511, { seq := 3, addr := 0, w := [0x10000000, 0, 0xFFFFFFF0, 0x8F, 0x13FFF0, 16, 0x10001], phase := .started, tags := [(0, 4000)], wait := some 11 }, by decide +kernel⟩,
   ⟨up, 11, by decide +kernel⟩⟩

/-- The hypotheses of RemoteWritesAndReads are met. -/
theorem witness_RemoteWritesAndReads :
    (∃ (s : State) (p : Packet) (c : Nat), s.mem.upsets = [] ∧ p.ty = 1 ∧ p.dst = ownCoord s ∧ (rxOf s p).refused = false ∧ (rxOf s p).units = none ∧ packetCause s p 3 p.payload.length none = none ∧ targetCtx s p = some c ∧ p.payload.length + p.addr ≤ 0x9000000000) ∧
    (∃ (s : State) (p : Packet) (c : Nat), s.mem.upsets = [] ∧ p.ty = 2 ∧ p.dst = ownCoord s ∧ p.aux.msb = false ∧ (rxOf s p).refused = false ∧ fld p.aux 14 0 = cdiv ((rxOf s p).got + p.payload.length) 64 ∧ packetCause s p 3 p.payload.length none = none ∧ targetCtx s p = some c ∧ p.payload.length + p.addr ≤ 0x9000000000) ∧
    (∃ (s : State) (p : Packet) (k : Nat) (x : Nat), s.mem.upsets = [] ∧ p.ty = 1 ∧ p.dst = ownCoord s ∧ (rxOf s p).refused = false ∧ packetCause s p 3 p.payload.length none = some (k, x)) ∧
    (∃ (s : State) (p : Packet), s.mem.upsets = [] ∧ p.ty = 5 ∧ p.dst = ownCoord s ∧ 0 < p.aux.toNat ∧ p.aux.toNat ≤ 512 ∧ packetCause s p 2 p.aux.toNat none = none) ∧
    (∃ (s : State) (p : Packet) (k : Nat) (x : Nat), s.mem.upsets = [] ∧ p.ty = 5 ∧ p.dst = ownCoord s ∧ packetCause s p 2 p.aux.toNat none = some (k, x)) :=
  ⟨⟨working, { ty := 1, vc := 0, side := 0, dst := 1024, src := 2048, fabricJob := 9, tag := 5, step := 5, addr := 0x1000, aux := 0, payload := [1, 2] }, 7, by decide +kernel⟩,
   ⟨working, { ty := 2, vc := 0, side := 0, dst := 1024, src := 2048, fabricJob := 9, tag := 5, step := 5, addr := 0x1000, aux := 1, payload := [1, 2] }, 7, by decide +kernel⟩,
   ⟨working, { ty := 1, vc := 0, side := 0, dst := 1024, src := 2048, fabricJob := 8, tag := 5, step := 5, addr := 0x1000, aux := 0, payload := [1, 2] }, 1, 0x1000, by decide +kernel⟩,
   ⟨working, { ty := 5, vc := 0, side := 0, dst := 1024, src := 2048, fabricJob := 9, tag := 5, step := 5, addr := 0x1000, aux := 512, payload := [] }, by decide +kernel⟩,
   ⟨working, { ty := 5, vc := 0, side := 0, dst := 1024, src := 2048, fabricJob := 8, tag := 5, step := 5, addr := 0x1000, aux := 512, payload := [] }, 1, 0x1000, by decide +kernel⟩⟩

/-- The hypotheses of ResponsesToTheInitiator are met. -/
theorem witness_ResponsesToTheInitiator :
    (∃ (s : State) (p : Packet) (c : Nat) (b : Burst), ctxOfTag s p.fabricJob p.tag = some c ∧ burstOf s c p = some b ∧ (b.source = 2 ∨ (b.source = 0 ∧ (seqrOf s b.tile).descs.find? (fun d => decide (d.seq = b.seq) && fabWaits d) = none)) ∧ (ctxOf s c).bnd.phase ≠ .awaitPosted) ∧
    (∃ (s : State) (p : Packet) (c : Nat) (b : Burst), ctxOfTag s p.fabricJob p.tag = some c ∧ burstOf s c p = some b ∧ (b.source = 2 ∨ (b.source = 0 ∧ (seqrOf s b.tile).descs.find? (fun d => decide (d.seq = b.seq) && fabWaits d) = none)) ∧ (ctxOf s c).bnd.phase ≠ .awaitPosted ∧ (ctxOf s c).fab.late.length < 256) ∧
    (∃ (s : State) (p : Packet) (c : Nat) (g : GetReq), getOf s p = some (c, g) ∧ g.toStore = true) ∧
    (∃ (s : State) (p : Packet) (c : Nat) (g : GetReq), getOf s p = some (c, g) ∧ (ctxOf s c).loaded = true) ∧
    (∃ (s : State) (c : Ctx) (tag : Nat) (g : GetReq), (ctxOf s c.val).fab.gets.find? (fun y => decide (y.tag = tag)) = some g ∧ (ctxOf s c.val).loaded = true) :=
  ⟨⟨{ updFab working 7 (fun f => { f with bursts := [⟨5, 5, 2, 0, 0, 3072, 0x40, 64⟩] }) with fab := { working.fab with tags := [(5, 7)] } }, { ty := 3, vc := 0, side := 0, dst := 1024, src := 2048, fabricJob := 9, tag := 5, step := 5, addr := 0, aux := 0, payload := [] }, 7, ⟨5, 5, 2, 0, 0, 3072, 0x40, 64⟩, by decide +kernel⟩,
   ⟨{ updFab working 7 (fun f => { f with bursts := [⟨5, 5, 2, 0, 0, 3072, 0x40, 64⟩] }) with fab := { working.fab with tags := [(5, 7)] } }, { ty := 4, vc := 0, side := 0, dst := 1024, src := 2048, fabricJob := 9, tag := 5, step := 5, addr := 0, aux := 0, payload := [5, 0, 0, 0, 1, 0, 255, 255] }, 7, ⟨5, 5, 2, 0, 0, 3072, 0x40, 64⟩, by decide +kernel⟩,
   ⟨{ updFab working 7 (fun f => { f with gets := [⟨5, 511, 3, 3072, true, 0x10, 4, 0⟩] }) with fab := { working.fab with tags := [(5, 7)] } }, { ty := 6, vc := 0, side := 0, dst := 1024, src := 2048, fabricJob := 9, tag := 5, step := 5, addr := 0, aux := 0, payload := [1, 2, 3, 4] }, 7, ⟨5, 511, 3, 3072, true, 0x10, 4, 0⟩, by decide +kernel⟩,
   ⟨{ updFab working 7 (fun f => { f with gets := [⟨5, 511, 3, 3072, true, 0x10, 4, 0⟩] }) with fab := { working.fab with tags := [(5, 7)] } }, { ty := 7, vc := 0, side := 0, dst := 1024, src := 2048, fabricJob := 9, tag := 5, step := 5, addr := 0, aux := 5, payload := [] }, 7, ⟨5, 511, 3, 3072, true, 0x10, 4, 0⟩, by decide +kernel⟩,
   ⟨{ updFab working 7 (fun f => { f with gets := [⟨5, 511, 3, 3072, true, 0x10, 4, 0⟩] }) with fab := { working.fab with tags := [(5, 7)] } }, 7, 5, ⟨5, 511, 3, 3072, true, 0x10, 4, 0⟩, by decide +kernel⟩⟩

/-- The hypotheses of CollectiveInstances are met. -/
theorem witness_CollectiveInstances :
    (∃ (s : State) (t : TileId) (i : Nat) (c : Nat) (d : Desc) (e : List Byte), pickDesc s t.val 7 i = some d ∧ tileCtx s t.val = some c ∧ d.fld 2 31 28 = 2 ∧ (ctxOf s c).fab.insts = [] ∧ (ctxOf s c).fab.collHeld = [] ∧ (firstColl s c).map (fun y => y.1) = some d.coll ∧ s.mem.upsets = [] ∧ (ctxOf s c).man.colls.getD (d.fld 10 31 16) [] = e ∧ regionCheck (ctxOf s c).man 0 (cSource e (d.fld 10 15 0)).1 (cSource e (d.fld 10 15 0)).2 = none ∧ regionCheck (ctxOf s c).man 1 (cResult e (d.fld 10 15 0)).1 (cResult e (d.fld 10 15 0)).2 = none ∧ poisonedAt s (cSource e (d.fld 10 15 0)).1 (cSource e (d.fld 10 15 0)).2 = none) ∧
    (∃ (s : State) (p : Packet) (axis : Fin 3) (off : Nat) (c : Nat) (i : CollInst), p.ty = 8 ∧ p.dst = ownCoord s ∧ ctxOfFabricJob s p.fabricJob = some c ∧ exchanges s c = false ∧ (ctxOf s c).fab.collHeld = [] ∧ (ctxOf s c).fab.insts.find? (fun y => decide (y.id = fld p.aux 31 16 ∧ y.step = fld p.aux 15 0)) = some i ∧ 4 ≤ cKind ((ctxOf s c).man.colls.getD i.id []) ∧ i.pend.contains (axis.val, off, p.payload.length) = true ∧ cReady i axis.val off = true ∧ i.pend.erase (axis.val, off, p.payload.length) ≠ []) ∧
    (∃ (s : State) (c : Ctx) (k : Nat) (n : Nat), (ctxOf s c.val).fab.insts.any (fun i => decide (i.id = k ∧ i.step = n)) = true ∧ (ctxOf s c.val).loaded = true) :=
  ⟨⟨updSeqr (updCtx { working with cfg := { working.cfg with live := working.cfg.live ++ [(0x7CA4, 3072)] } } 7 fun j => { j with man := { j.man with colls := [[5, 0, 1, 0, 4, 1, 1, 0, 1, 1, 1, 0, 128, 0, 0, 0, 1, 0, 0, 0, 0, 0, 0, 0, 0, 16, 0, 0, 0, 0, 0, 0, 0, 32, 0, 0, 0, 0, 0, 0]] } }) 511 fun z => { z with descs := [{ seq := 3, addr := 0, w := [0x70000000, 0, 0x20000000, 0, 0, 0, 0, 0, 0, 0, 0], phase := .started }], nextSeq := 4 }, 511, 0, 7, { seq := 3, addr := 0, w := [0x70000000, 0, 0x20000000, 0, 0, 0, 0, 0, 0, 0, 0], phase := .started }, [5, 0, 1, 0, 4, 1, 1, 0, 1, 1, 1, 0, 128, 0, 0, 0, 1, 0, 0, 0, 0, 0, 0, 0, 0, 16, 0, 0, 0, 0, 0, 0, 0, 32, 0, 0, 0, 0, 0, 0], by decide +kernel⟩,
   ⟨updFab (updCtx { working with cfg := { working.cfg with live := working.cfg.live ++ [(0x7CA4, 3072)] } } 7 fun j => { j with man := { j.man with colls := [[5, 0, 1, 0, 4, 1, 1, 0, 1, 1, 1, 0, 128, 0, 0, 0, 1, 0, 0, 0, 0, 0, 0, 0, 0, 16, 0, 0, 0, 0, 0, 0, 0, 32, 0, 0, 0, 0, 0, 0]] } }) 7 fun f => { f with insts := [⟨0, 0, 511, 3, [(0, 0, 64), (0, 64, 64)], List.replicate 128 0⟩] }, { ty := 8, vc := 0, side := 0, dst := 1024, src := 0, fabricJob := 9, tag := 5, step := 5, addr := 0, aux := 0, payload := List.replicate 64 7 }, 0, 64, 7, ⟨0, 0, 511, 3, [(0, 0, 64), (0, 64, 64)], List.replicate 128 0⟩, by decide +kernel⟩,
   ⟨updFab working 7 fun f => { f with insts := [⟨0, 0, 511, 3, [(0, 0, 64), (0, 64, 64)], List.replicate 128 0⟩] }, 7, 0, 0, by decide +kernel⟩⟩

/-- The hypotheses of FabricNotices are met. -/
theorem witness_FabricNotices :
    (∃ (s : State) (port : Port) (p : Packet), s.boot.resetting = false ∧ isNotice s p 0x10 = true ∧ s.fab.absent.length < 64 ∧ s.cfg.state ≠ 3 ∧ (∀ c < 8, (ctxOf s c).loaded = true → autoPlough s c = false ∨ fabricJob s c = 0)) ∧
    (∃ (s : State) (port : Port) (p : Packet), s.boot.resetting = false ∧ isNotice s p 0x11 = true) ∧
    (∃ (s : State) (port : Port) (p : Packet) (c : Nat), s.boot.resetting = false ∧ isNotice s p 0x12 = true ∧ hasKey s 0x12 (lat p.payload 0 2) 0 = false ∧ ctxOfFabricJob s (lat p.payload 0 2) = some c ∧ autoPlough s c = true ∧ (ctxOf s c).state = .running ∧ (ctxOf s c).plough = none ∧ (ctxOf s c).bnd.phase = .none) ∧
    (∃ (s : State) (port : Port) (p : Packet), s.boot.resetting = false ∧ isNotice s p 0x12 = true ∧ hasKey s 0x12 (lat p.payload 0 2) 0 = true) ∧
    (∃ (s : State) (port : Port) (p : Packet) (c : Nat), s.boot.resetting = false ∧ isNotice s p 0x13 = true ∧ hasKey s 0x13 (lat p.payload 0 2) 0 = false ∧ lat p.payload 4 1 = 0 ∧ ctxOfFabricJob s (lat p.payload 0 2) = some c ∧ (ctxOf s c).state = .running ∧ (ctxOf s c).plough = none ∧ (ctxOf s c).stepIn = true) ∧
    (∃ (s : State) (port : Port) (p : Packet) (m : Nat), s.boot.resetting = false ∧ isNotice s p 0x13 = true ∧ lat p.payload 4 1 = m ∧ hasKey s 0x13 (lat p.payload 0 2) m = true) ∧
    (∃ (s : State) (port : Port) (p : Packet), s.boot.resetting = true) :=
  ⟨⟨meshed, 0, { ty := 9, vc := 7, side := 0, dst := 1024, src := 2048, fabricJob := 9, tag := 5, step := 5, addr := 0, aux := 0x10000000, payload := leBytes 2 2048 ++ leBytes 2 2048 ++ leBytes 4 1 }, by decide +kernel⟩,
   ⟨{ meshed with fab := { meshed.fab with absent := [(2048, 1)] } }, 0, { ty := 9, vc := 7, side := 0, dst := 1024, src := 2048, fabricJob := 9, tag := 5, step := 5, addr := 0, aux := 0x11000000, payload := leBytes 2 2048 ++ leBytes 2 2048 ++ leBytes 4 1 }, by decide +kernel⟩,
   ⟨updCtx { working with cfg := { working.cfg with live := working.cfg.live ++ [(0x7CA8, 1)] } } 7 fun j => { j with stepIn := true }, 0, { ty := 9, vc := 7, side := 0, dst := 1024, src := 2048, fabricJob := 9, tag := 5, step := 5, addr := 0, aux := 0x12000000, payload := leBytes 2 9 ++ leBytes 2 2048 ++ leBytes 4 1 }, 7, by decide +kernel⟩,
   ⟨addKey working 0x12 9 0, 0, { ty := 9, vc := 7, side := 0, dst := 1024, src := 2048, fabricJob := 9, tag := 5, step := 5, addr := 0, aux := 0x12000000, payload := leBytes 2 9 ++ leBytes 2 2048 ++ leBytes 4 1 }, by decide +kernel⟩,
   ⟨working, 0, { ty := 9, vc := 7, side := 0, dst := 1024, src := 2048, fabricJob := 9, tag := 5, step := 5, addr := 0, aux := 0x13000000, payload := leBytes 2 9 ++ leBytes 2 2048 ++ leBytes 4 0x300 }, 7, by decide +kernel⟩,
   ⟨addKey working 0x13 9 1, 0, { ty := 9, vc := 7, side := 0, dst := 1024, src := 2048, fabricJob := 9, tag := 5, step := 5, addr := 0, aux := 0x13000000, payload := leBytes 2 9 ++ leBytes 2 2048 ++ leBytes 4 0x301 }, 1, by decide +kernel⟩,
   ⟨{ meshed with boot := { meshed.boot with resetting := true } }, 0, packet0, by decide +kernel⟩⟩

/-- The hypotheses of DrainAndLocalCheck are met. -/
theorem witness_DrainAndLocalCheck :
    (∃ (s : State) (c : Ctx), (ctxOf s c.val).state = .draining ∧ (ctxOf s c.val).bnd.phase = .drain ∧ drained s c.val = true ∧ semMismatch s c.val = none ∧ s.tile.bars.find? (fun b => decide (b.ctx = c.val)) = none ∧ 0 < outstanding (ctxOf s c.val) (ctxOf s c.val).step) ∧
    (∃ (s : State) (c : Ctx), (ctxOf s c.val).state = .draining ∧ (ctxOf s c.val).bnd.phase = .drain ∧ drained s c.val = true ∧ semMismatch s c.val = none ∧ s.tile.bars.find? (fun b => decide (b.ctx = c.val)) = none ∧ outstanding (ctxOf s c.val) (ctxOf s c.val).step = 0 ∧ s.tel.rolling = false ∧ fabricJob s c.val = 0) ∧
    (∃ (s : State) (c : Ctx), drained s c.val = false) ∧
    (∃ (s : State) (c : Ctx), (ctxOf s c.val).state = .draining ∧ (ctxOf s c.val).bnd.phase = .drain ∧ drained s c.val = true ∧ semMismatch s c.val ≠ none) ∧
    (∃ (s : State) (c : Ctx) (t : TileId), (ctxOf s c.val).state = .draining ∧ (ctxOf s c.val).bnd.phase = .drain ∧ t.val ∈ tilesOf (ctxOf s c.val).man ∧ semWaiter s t.val ≠ none) ∧
    (∃ (s : State) (c : Ctx), (ctxOf s c.val).bnd.phase = .awaitPosted ∧ 0 < outstanding (ctxOf s c.val) (ctxOf s c.val).step ∧ (mget (ctxOf s c.val).fab.epochs {} (ctxOf s c.val).step).late = 0 ∧ s.tel.rolling = false ∧ fabricJob s c.val = 0) :=
  ⟨⟨updFab (atPhase .drain) 7 fun f => { f with epochs := [(5, ⟨1, 0, 0⟩)] }, 7, by decide +kernel⟩,
   ⟨updFab (atPhase .drain) 7 fun f => { f with ovf := true, epochs := [(5, ⟨1, 1, 1⟩)] }, 7, by decide +kernel⟩,
   ⟨updSeqr (atPhase .drain) 511 fun z => { z with descs := [{ seq := 3, addr := 0, w := [0x10000000] }] }, 7, by decide +kernel⟩,
   ⟨semPut (atPhase .drain) 511 255 0xFFFF, 7, by decide +kernel⟩,
   ⟨updSeqr (atPhase .drain) 511 fun z => { z with descs := [{ seq := 3, addr := 0, w := [0x14FF0000, 0x10000] }] }, 7, 511, by decide +kernel⟩,
   ⟨updFab (atPhase .awaitPosted) 7 fun f => { f with epochs := [(5, ⟨1, 0, 0⟩)] }, 7, by decide +kernel⟩⟩

/-- The hypotheses of VerdictAndRelease are met. -/
theorem witness_VerdictAndRelease :
    (∃ (s : State) (c : Ctx) (r : RedSt) (w : Dword), redOf s c.val .verdict 0 = some r ∧ r.result = some w ∧ (ctxOf s c.val).bnd.phase = .awaitVerdict ∧ w.getLsbD 0 = false) ∧
    (∃ (s : State) (c : Ctx) (r : RedSt) (w : Dword), redOf s c.val .verdict 0 = some r ∧ r.result = some w ∧ (ctxOf s c.val).bnd.phase = .awaitVerdict ∧ w.getLsbD 0 = true ∧ (ctxOf s c.val).man.training = false ∧ s.cfg.state ≠ 3 ∧ fabricJob s c.val = 0 ∧ (ctxOf s c.val).fab.held = []) ∧
    (∃ (s : State) (c : Ctx) (r : RedSt) (w : Dword), redOf s c.val .release 0 = some r ∧ r.result = some w ∧ (ctxOf s c.val).bnd.phase = .awaitRelease ∧ w.getLsbD 32 = false ∧ (ctxOf s c.val).bnd.park = 0 ∧ (ctxOf s c.val).plough = none ∧ s.cfg.state ≠ 3) ∧
    (∃ (s : State) (c : Ctx) (r : RedSt) (w : Dword), redOf s c.val .release 0 = some r ∧ r.result = some w ∧ (ctxOf s c.val).bnd.phase = .awaitRelease ∧ (w.getLsbD 32 = true ∨ (ctxOf s c.val).bnd.park ≠ 0 ∨ (ctxOf s c.val).plough ≠ none)) ∧
    (∃ (s : State) (c : Ctx) (r : RedSt), redOf s c.val .start 0 = some r ∧ r.result.isSome = true ∧ (ctxOf s c.val).startWait = true ∧ (ctxOf s c.val).fab.held = [] ∧ (ctxOf s c.val).bnd.retake = false) :=
  ⟨⟨putRed (atPhase .awaitVerdict) 7 ⟨.verdict, 0, 5, some 0x100000000, [], some 0x100000000⟩, 7, ⟨.verdict, 0, 5, some 0x100000000, [], some 0x100000000⟩, 0x100000000, by decide +kernel⟩,
   ⟨putRed (atPhase .awaitVerdict) 7 ⟨.verdict, 0, 5, some 0x100000001, [], some 0x100000001⟩, 7, ⟨.verdict, 0, 5, some 0x100000001, [], some 0x100000001⟩, 0x100000001, by decide +kernel⟩,
   ⟨putRed (atPhase .awaitRelease) 7 ⟨.release, 0, 5, some 1, [], some 1⟩, 7, ⟨.release, 0, 5, some 1, [], some 1⟩, 1, by decide +kernel⟩,
   ⟨putRed (atPhase .awaitRelease) 7 ⟨.release, 0, 5, some 0x100000001, [], some 0x100000001⟩, 7, ⟨.release, 0, 5, some 0x100000001, [], some 0x100000001⟩, 0x100000001, by decide +kernel⟩,
   ⟨putRed (updCtx alone 7 fun j => { j with startWait := true, stepIn := false }) 7 ⟨.start, 0, 5, some 1, [], some 1⟩, 7, ⟨.start, 0, 5, some 1, [], some 1⟩, by decide +kernel⟩⟩

/-- The hypotheses of CommitOfAStep are met. -/
theorem witness_CommitOfAStep :
    (∃ (s : State) (c : Ctx), sweepEnded s c.val = true ∧ exchanges s c.val = true) ∧
    (∃ (s : State) (c : Ctx), sweepEnded s c.val = true ∧ exchanges s c.val = false ∧ (ctxOf s c.val).man.trailExport = false ∧ (ctxOf s c.val).bnd.aborting = false) ∧
    (∃ (s : State) (c : Ctx) (ts : List DigestTriple), (ctxOf s c.val).bnd.phase = .digests ∧ (ctxOf s c.val).bnd.aborting = false ∧ (ctxOf s c.val).man.trailExport = false ∧ (ctxOf s c.val).trn.stageOut = []) ∧
    (∃ (s : State) (c : Ctx), (ctxOf s c.val).bnd.phase = .digests ∧ (ctxOf s c.val).bnd.aborting = false ∧ (ctxOf s c.val).loaded = true) ∧
    (∃ (s : State) (c : Ctx), (ctxOf s c.val).bnd.phase = .digests ∧ (ctxOf s c.val).bnd.aborting = true ∧ (ctxOf s c.val).man.trailExport = false ∧ (ctxOf s c.val).trn.stageOut = []) ∧
    (∃ (s : State) (c : Ctx) (r : Region) (x : List Byte), (ctxOf s c.val).trn.stageOut = [x] ∧ staging (ctxOf s c.val).man = some r ∧ ringRoom r.len (devNat s (r.base + 8) 8) (devNat s (r.base + 0x40) 8) x.length = true ∧ (ctxOf s c.val).bnd.phase ≠ .gate ∧ (ctxOf s c.val).trn.grads = []) ∧
    (∃ (s : State) (c : Ctx), (ctxOf s c.val).bnd.phase = .gate ∧ (ctxOf s c.val).trn.stageOut = [] ∧ (ctxOf s c.val).bnd.aborting = false ∧ gateOpen s c.val = true) ∧
    (∃ (s : State) (c : Ctx), (ctxOf s c.val).bnd.phase = .gate ∧ (ctxOf s c.val).trn.stageOut = [] ∧ (ctxOf s c.val).bnd.aborting = false ∧ gateOpen s c.val = false ∧ keeperGate s c.val = true ∧ (ctxOf s c.val).man.trailExport = true ∧ (ctxOf s c.val).bnd.retake = false) :=
  ⟨⟨{ updCtx (atPhase .sweeping) 7 (fun j => { j with man := { j.man with colls := [[6, 0, 1, 0, 4, 1, 1]] } }) with cfg := { meshed.cfg with live := meshed.cfg.live ++ [(0x7CB0, 0)] } }, 7, by decide +kernel⟩,
   ⟨{ atPhase .sweeping with cfg := { meshed.cfg with live := meshed.cfg.live ++ [(0x7CB0, 0xFFFF)] } }, 7, by decide +kernel⟩,
   ⟨atPhase .digests, 7, [⟨1, 2, 3, 2048⟩], by decide +kernel⟩,
   ⟨atPhase .digests, 7, by decide +kernel⟩,
   ⟨updBnd (atPhase .digests) 7 fun b => { b with aborting := true }, 7, by decide +kernel⟩,
   ⟨updCtx (atPhase .sweeping) 7 fun j => { j with man := { j.man with flags := 8, regions := [⟨0x10000, 0x8000, 12, 2, true⟩] }, trn := { j.trn with stageOut := [[1, 3, 0, 0, 64, 0, 0, 0]] } }, 7, ⟨0x10000, 0x8000, 12, 2, true⟩, [1, 3, 0, 0, 64, 0, 0, 0], by decide +kernel⟩,
   ⟨updTrn (atPhase .gate) 7 fun t => { t with trailStep := 5 }, 7, by decide +kernel⟩,
   ⟨updCtx { atPhase .gate with cfg := { meshed.cfg with live := meshed.cfg.live ++ [(0x7CA8, 2)] } } 7 fun j => { j with man := { j.man with flags := 8 } }, 7, by decide +kernel⟩⟩

/-- The hypotheses of FreezeTicks are met. -/
theorem witness_FreezeTicks :
    (∃ (s : State) (v : Word), isReady s = true ∧ v.getLsbD 0 = true ∧ s.tel.rolling = false) ∧
    (∃ (s : State) (v : Word), isReady s = true ∧ v.getLsbD 0 = true ∧ s.tel.rolling = true) ∧
    (∃ (s : State) (v : Word), isReady s = true ∧ v.getLsbD 0 = false) ∧
    (∃ (s : State), live s 0x6104 ≠ 0 ∧ s.tel.rolling = false) ∧
    (∃ (s : State), live s 0x6104 = 0) ∧
    (∃ (s : State), s.tel.rolling = true ∧ s.tel.again = false) ∧
    (∃ (s : State), s.tel.rolling = true ∧ s.tel.again = true) :=
  ⟨⟨bump alone 0x70130 7, 1, by decide +kernel⟩,
   ⟨{ bump alone 0x70130 7 with tel := { alone.tel with rolling := true } }, 0xFFFFFFFF, by decide +kernel⟩,
   ⟨bump alone 0x70130 7, 0xFFFFFFFE, by decide +kernel⟩,
   ⟨{ bump alone 0x70130 7 with cfg := { meshed.cfg with live := [(0x6104, 100)] } }, by decide +kernel⟩,
   ⟨bump alone 0x70130 7, by decide +kernel⟩,
   ⟨{ bump alone 0x70130 7 with tel := { alone.tel with rolling := true, totals := [(7, 1)] } }, by decide +kernel⟩,
   ⟨{ atPhase .awaitTick with tel := { alone.tel with rolling := true, again := true, totals := [(7, 1)], cnt := [(0x70130, 7)] } }, by decide +kernel⟩⟩

/-- The hypotheses of ControlReductions are met. -/
theorem witness_ControlReductions :
    (∃ (s : State) (port : Port) (p : Packet) (c : Nat) (r : RedSt) (own : Dword), fld p.aux 31 24 = 1 ∧ fld p.aux 23 20 = 1 ∧ fld p.aux 19 16 = 0 ∧ s.boot.resetting = false ∧ p.dst = ownCoord s ∧ ctxOfFabricJob s p.fabricJob = some c ∧ redOrder s c .verdict 0 p = 0 ∧ redOf s c .verdict 0 = some r ∧ r.own = some own ∧ r.result = none ∧ r.kids = [] ∧ treeKids s c = [toLogical s p.src] ∧ treeParent s c = none) ∧
    (∃ (s : State) (port : Port) (p : Packet) (c : Nat), fld p.aux 31 24 = 1 ∧ fld p.aux 23 20 = 1 ∧ fld p.aux 19 16 = 0 ∧ s.boot.resetting = false ∧ p.dst = ownCoord s ∧ ctxOfFabricJob s p.fabricJob = some c ∧ redOrder s c .verdict 0 p = 0 ∧ redOf s c .verdict 0 = none ∧ toLogical s p.src ∈ treeKids s c ∧ (∀ h ∈ (ctxOf s c).fab.held, ¬ (h.1 = port.val ∧ fld h.2.aux 23 20 = 1))) ∧
    (∃ (s : State) (port : Port) (p : Packet) (c : Nat), fld p.aux 31 24 = 1 ∧ fld p.aux 23 20 = 1 ∧ fld p.aux 19 16 = 0 ∧ s.boot.resetting = false ∧ p.dst = ownCoord s ∧ ctxOfFabricJob s p.fabricJob = some c ∧ redOrder s c .verdict 0 p = 0 ∧ toLogical s p.src ∉ treeKids s c) ∧
    (∃ (s : State) (port : Port) (p : Packet) (c : Nat) (r : RedSt), fld p.aux 31 24 = 2 ∧ fld p.aux 23 20 = 2 ∧ fld p.aux 19 16 = 0 ∧ s.boot.resetting = false ∧ p.dst = ownCoord s ∧ ctxOfFabricJob s p.fabricJob = some c ∧ redOrder s c .release 0 p = 0 ∧ redOf s c .release 0 = some r ∧ r.own.isSome = true ∧ r.result = none) ∧
    (∃ (s : State) (port : Port) (p : Packet), fld p.aux 31 24 = 1 ∧ p.dst = ownCoord s ∧ (s.boot.resetting = true ∨ (ctxOfFabricJob s p.fabricJob = none ∧ orphanFor s p = none))) ∧
    (∃ (s : State) (c : Ctx) (rc : RedClass) (i : Fin 16) (r : RedSt), redOf s c.val rc (if rc = .jobBarrier then i.val else 0) = some r ∧ r.own.isSome = true ∧ r.result = none ∧ (ctxOf s c.val).loaded = true) ∧
    (∃ (s : State) (c : Ctx), stepTimeoutMs s c.val ≠ 0 ∧ (ctxOf s c.val).inStep = true ∧ beforeVerdict (ctxOf s c.val).bnd = true ∧ (ctxOf s c.val).bnd.retake = false ∧ autoPlough s c.val = false) ∧
    (∃ (s : State) (c : Ctx), stepTimeoutMs s c.val ≠ 0 ∧ (ctxOf s c.val).inStep = true ∧ beforeVerdict (ctxOf s c.val).bnd = true ∧ (ctxOf s c.val).bnd.retake = false ∧ autoPlough s c.val = true ∧ (ctxOf s c.val).plough = none ∧ ((ctxOf s c.val).state = .running ∨ (ctxOf s c.val).state = .draining)) ∧
    (∃ (s : State) (c : Ctx), stepTimeoutMs s c.val = 0) :=
  ⟨⟨putRed (updCtx rooted 7 fun j => { j with state := .draining, bnd := { phase := .awaitVerdict } }) 7 ⟨.verdict, 0, 5, some 0x100000001, [], none⟩, 0, { ty := 9, vc := 7, side := 0, dst := 1024, src := 2048, fabricJob := 9, tag := 0, step := 5, addr := 0, aux := 0x01100005, payload := leBytes 8 0x200000001 }, 7, ⟨.verdict, 0, 5, some 0x100000001, [], none⟩, 0x100000001, by decide +kernel⟩,
   ⟨updCtx rooted 7 fun j => { j with state := .draining, bnd := { phase := .awaitVerdict } }, 0, { ty := 9, vc := 7, side := 0, dst := 1024, src := 2048, fabricJob := 9, tag := 0, step := 5, addr := 0, aux := 0x01100005, payload := leBytes 8 0x200000001 }, 7, by decide +kernel⟩,
   ⟨updCtx rooted 7 fun j => { j with state := .draining, bnd := { phase := .awaitVerdict } }, 0, { ty := 9, vc := 7, side := 0, dst := 1024, src := 3072, fabricJob := 9, tag := 0, step := 5, addr := 0, aux := 0x01100005, payload := leBytes 8 0x200000001 }, 7, by decide +kernel⟩,
   ⟨putRed (updCtx rooted 7 fun j => { j with state := .draining, bnd := { phase := .awaitVerdict } }) 7 ⟨.release, 0, 5, some 1, [], none⟩, 0, { ty := 9, vc := 7, side := 0, dst := 1024, src := 2048, fabricJob := 9, tag := 0, step := 5, addr := 0, aux := 0x02200005, payload := leBytes 8 1 }, 7, ⟨.release, 0, 5, some 1, [], none⟩, by decide +kernel⟩,
   ⟨working, 0, { ty := 9, vc := 7, side := 0, dst := 1024, src := 2048, fabricJob := 8, tag := 0, step := 5, addr := 0, aux := 0x01100005, payload := leBytes 8 1 }, by decide +kernel⟩,
   ⟨putRed (working) 7 ⟨.jobBarrier, 15, 5, some 1, [], none⟩, 7, .jobBarrier, 15, ⟨.jobBarrier, 15, 5, some 1, [], none⟩, by decide +kernel⟩,
   ⟨{ alone with cfg := { meshed.cfg with live := meshed.cfg.live ++ [(0x7CB4, 65535), (0x7CA8, 0)] } }, 7, by decide +kernel⟩,
   ⟨{ alone with cfg := { meshed.cfg with live := meshed.cfg.live ++ [(0x7CB4, 65535), (0x7CA8, 1)] } }, 7, by decide +kernel⟩,
   ⟨alone, 7, by decide +kernel⟩⟩

set_option maxRecDepth 1000000 in
/-- The hypotheses of LoadingAJob are met. -/
theorem witness_LoadingAJob :
    (∃ (s : State) (r : Req), isReady s = true ∧ s.job.loads.length < 8) ∧
    (∃ (s : State) (r : Req), isReady s = true ∧ 8 ≤ s.job.loads.length) ∧
    (∃ (s : State) (hw : List Host.Cell) (a : Nat) (n : Nat) (c : Nat) (rest : List (Nat × Nat)) (img : List Byte) (u : State), s.job.loads = (a, n) :: rest ∧ s.boot.resetting = false ∧ s.sec.busy = false ∧ s.sec.scrubbing = false ∧ img = (s.hostMem.writeCells hw).read a n ∧ s.sec.images.length < 64 ∧ u = { s with hostMem := s.hostMem.writeCells hw, job := { s.job with loads := rest } } ∧ loadFault u img = none ∧ loadCtx u = some c) ∧
    (∃ (s : State) (hw : List Host.Cell) (a : Nat) (n : Nat) (c : Nat) (rest : List (Nat × Nat)) (img : List Byte) (u : State), s.job.loads = (a, n) :: rest ∧ s.boot.resetting = false ∧ s.sec.busy = false ∧ s.sec.scrubbing = false ∧ img = (s.hostMem.writeCells hw).read a n ∧ s.sec.images.length < 64 ∧ u = { s with hostMem := s.hostMem.writeCells hw, job := { s.job with loads := rest } } ∧ loadFault u img = none ∧ loadCtx u = some c ∧ (∀ x ∈ coursesOf (parseManifest img), courseHolder s x = none)) ∧
    (∃ (s : State) (hw : List Host.Cell) (a : Nat) (n : Nat) (code : Nat) (i : Nat) (rest : List (Nat × Nat)) (img : List Byte) (u : State), s.job.loads = (a, n) :: rest ∧ s.boot.resetting = false ∧ s.sec.busy = false ∧ s.sec.scrubbing = false ∧ img = (s.hostMem.writeCells hw).read a n ∧ s.sec.images.length < 64 ∧ u = { s with hostMem := s.hostMem.writeCells hw, job := { s.job with loads := rest } } ∧ loadFault u img = some (code, i)) :=
  ⟨⟨setRw (setRw up 0x7118 0x1000) 0x7120 168, 4, by decide +kernel⟩,
   ⟨{ up with job := { up.job with loads := List.replicate 8 (0, 0) } }, 4, by decide +kernel⟩,
   ⟨loading, cellsAt 0x1000 manifestImage, 0x1000, 168, 0, [], manifestImage, { loading with hostMem := loading.hostMem.writeCells (cellsAt 0x1000 manifestImage), job := { loading.job with loads := [] } }, by decide +kernel⟩,
   ⟨loading, cellsAt 0x1000 manifestImage, 0x1000, 168, 0, [], manifestImage, { loading with hostMem := loading.hostMem.writeCells (cellsAt 0x1000 manifestImage), job := { loading.job with loads := [] } }, by decide +kernel⟩,
   ⟨loading, cellsAt 0x1000 (manifestBody.take 12 ++ leBytes 4 0 ++ manifestBody.drop 16), 0x1000, 168, 1, 12, [], manifestBody.take 12 ++ leBytes 4 0 ++ manifestBody.drop 16, { loading with hostMem := loading.hostMem.writeCells (cellsAt 0x1000 (manifestBody.take 12 ++ leBytes 4 0 ++ manifestBody.drop 16)), job := { loading.job with loads := [] } }, by decide +kernel⟩⟩

/-- The hypotheses of LifeOfAJob are met. -/
theorem witness_LifeOfAJob :
    (∃ (s : State) (u : State) (c : Ctx) (hw : List Host.Cell) (peer : List (Option (List Byte))), u = { s with hostMem := s.hostMem.writeCells hw } ∧ isReady s = true ∧ s.job.loads = [] ∧ s.boot.resetting = false ∧ (ctxOf s c.val).state = .loaded ∧ nextInvalid u c.val = false ∧ boxMismatch u c.val = false ∧ anyInvalid (readSinks u c.val peer) c.val = false ∧ (ctxOf s c.val).bnd.retake = false) ∧
    (∃ (s : State) (u : State) (c : Ctx) (hw : List Host.Cell) (peer : List (Option (List Byte))), u = { s with hostMem := s.hostMem.writeCells hw } ∧ isReady s = true ∧ s.job.loads = [] ∧ s.boot.resetting = false ∧ (ctxOf s c.val).state = .parked ∧ nextInvalid u c.val = false ∧ boxMismatch u c.val = false ∧ anyInvalid (readSinks u c.val peer) c.val = false ∧ (ctxOf s c.val).bnd.retake = false) ∧
    (∃ (s : State) (c : Ctx), isReady s = true ∧ s.job.loads = [] ∧ s.boot.resetting = false ∧ ((ctxOf s c.val).state = .running ∨ (ctxOf s c.val).state = .draining)) ∧
    (∃ (s : State) (c : Ctx), isReady s = true ∧ s.job.loads = [] ∧ s.boot.resetting = false ∧ ((ctxOf s c.val).state = .loaded ∨ (ctxOf s c.val).state = .parked)) ∧
    (∃ (s : State) (c : Ctx), isReady s = true ∧ s.job.loads = [] ∧ s.boot.resetting = false ∧ (ctxOf s c.val).loaded = true) ∧
    (∃ (s : State) (c : Ctx), isReady s = true ∧ s.job.loads = [] ∧ s.boot.resetting = false ∧ (ctxOf s c.val).state = .tornDown) ∧
    (∃ (s : State) (c : Ctx), isReady s = true ∧ s.job.loads = [] ∧ s.boot.resetting = false ∧ (ctxOf s c.val).loaded = false) ∧
    (∃ (s : State) (c : Ctx), isReady s = true ∧ s.job.loads ≠ []) :=
  ⟨⟨updCtx alone 7 fun j => { j with state := .loaded, stepIn := false, man := { courseMask := 2 ^ 31, kind := 1 } }, { updCtx alone 7 fun j => { j with state := .loaded, stepIn := false, man := { courseMask := 2 ^ 31, kind := 1 } } with hostMem := (updCtx alone 7 fun j => { j with state := .loaded, stepIn := false, man := { courseMask := 2 ^ 31, kind := 1 } }).hostMem.writeCells [] }, 7, [], [none, none, none], by decide +kernel⟩,
   ⟨updCtx working 7 fun j => { j with state := .parked, stepIn := false, man := { courseMask := 2 ^ 31, kind := 1 } }, { updCtx working 7 fun j => { j with state := .parked, stepIn := false, man := { courseMask := 2 ^ 31, kind := 1 } } with hostMem := (updCtx working 7 fun j => { j with state := .parked, stepIn := false, man := { courseMask := 2 ^ 31, kind := 1 } }).hostMem.writeCells [(5, 1)] }, 7, [(5, 1)], [], by decide +kernel⟩,
   ⟨working, 7, by decide +kernel⟩,
   ⟨updCtx working 7 fun j => { j with state := .parked, stepIn := false, man := { courseMask := 2 ^ 31, kind := 1 } }, 7, by decide +kernel⟩,
   ⟨working, 7, by decide +kernel⟩,
   ⟨updCtx alone 7 fun j => { j with state := .tornDown, stepIn := false }, 7, by decide +kernel⟩,
   ⟨updCtx alone 7 fun j => { j with state := .tornDown, stepIn := false }, 7, by decide +kernel⟩,
   ⟨{ working with job := { working.job with loads := [(0, 0)] } }, 7, by decide +kernel⟩⟩

/-- The hypotheses of PloughCommands are met. -/
theorem witness_PloughCommands :
    (∃ (s : State) (c : Ctx), isReady s = true ∧ s.job.loads = [] ∧ s.boot.resetting = false ∧ (ctxOf s c.val).state = .running ∧ (ctxOf s c.val).plough = none ∧ (ctxOf s c.val).stepIn = true) ∧
    (∃ (s : State) (c : Ctx), isReady s = true ∧ s.job.loads = [] ∧ s.boot.resetting = false ∧ (ctxOf s c.val).state = .running ∧ (ctxOf s c.val).plough = none ∧ (ctxOf s c.val).stepIn = false) ∧
    (∃ (s : State) (c : Ctx), isReady s = true ∧ s.job.loads = [] ∧ s.boot.resetting = false ∧ ((ctxOf s c.val).state = .running ∨ (ctxOf s c.val).state = .draining) ∧ (ctxOf s c.val).plough = none ∧ beforeVerdict (ctxOf s c.val).bnd = true) ∧
    (∃ (s : State) (c : Ctx), isReady s = true ∧ s.job.loads = [] ∧ s.boot.resetting = false ∧ ((ctxOf s c.val).state = .running ∨ (ctxOf s c.val).state = .draining) ∧ (ctxOf s c.val).plough = none ∧ (ctxOf s c.val).bnd.phase = .digests) :=
  ⟨⟨working, 7, by decide +kernel⟩,
   ⟨updCtx alone 7 fun j => { j with state := .running, stepIn := false }, 7, by decide +kernel⟩,
   ⟨working, 7, by decide +kernel⟩,
   ⟨atPhase .digests, 7, by decide +kernel⟩⟩

/-- The hypotheses of CreditsAndPools are met. -/
theorem witness_CreditsAndPools :
    (∃ (s : State) (c : Ctx) (v : Word), isReady s = true ∧ v.msb = false ∧ ((ctxOf s c.val).state ≠ .running ∨ (ctxOf s c.val).stepIn = true)) ∧
    (∃ (s : State) (c : Ctx) (v : Word), isReady s = true ∧ s.pwr.state = .active ∧ s.boot.resetting = false ∧ s.sec.scrubbing = false ∧ v.msb = false ∧ 0 < v.toNat % 65536 ∧ creditMode s c.val = true ∧ (ctxOf s c.val).state = .running ∧ (ctxOf s c.val).stepIn = false ∧ (ctxOf s c.val).startWait = false ∧ (ctxOf s c.val).fresh = false ∧ (ctxOf s c.val).bnd.retake = false ∧ (∀ d < 8, d ≠ c.val → (ctxOf s d).state ≠ .running) ∧ (∀ x < 32, bit (ctxOf s c.val).man.courseMask x = true → courseHolder s x = none)) ∧
    (∃ (s : State) (c : Ctx), isReady s = true ∧ ((ctxOf s c.val).state ≠ .running ∨ (ctxOf s c.val).stepIn = true)) ∧
    (∃ (s : State) (c : Ctx), isReady s = true ∧ (sinkCfg s c.val 2).len ≠ 0 ∧ ((sinkCfg s c.val 2).peer = true ∨ ownsSealed s c.val = false) ∧ (ctxOf s c.val).loaded = true) ∧
    (∃ (s : State) (c : Ctx), isReady s = true ∧ (sinkCfg s c.val 2).len ≠ 0 ∧ (sinkCfg s c.val 2).peer = false ∧ ownsSealed s c.val = true ∧ s.sec.busy = false) ∧
    (∃ (s : State) (p : PoolId) (r : Req) (e : Word) (es : List Word), isReady s = true ∧ (poolOf s p.val).enable = true ∧ (poolOf s p.val).entries = e :: es) ∧
    (∃ (s : State) (p : PoolId) (r : Req), isReady s = true ∧ (poolOf s p.val).entries = []) ∧
    (∃ (s : State) (p : PoolId) (v : Word), isReady s = true ∧ (poolOf s p.val).enable = true ∧ (poolOf s p.val).entries.length < 1024) ∧
    (∃ (s : State) (p : PoolId) (v : Word), isReady s = true ∧ (poolOf s p.val).enable = true ∧ 1024 ≤ (poolOf s p.val).entries.length) :=
  ⟨⟨updCtx alone 7 fun j => { j with credit := 65535 }, 7, 0x7FFF0001, by decide +kernel⟩,
   ⟨updCtx { alone with cfg := { meshed.cfg with live := meshed.cfg.live ++ [(0x7CA8, 4)] } } 7 fun j => { j with state := .running, stepIn := false, man := { courseMask := 2 ^ 31, kind := 1, flags := 4 } }, 7, 0xFFFF, by decide +kernel⟩,
   ⟨updCtx alone 7 fun j => { j with credit := 65535, creditOvf := true }, 7, by decide +kernel⟩,
   ⟨setRw (setRw alone (0x7C80 + 0x68) 0xFFFFFFFF) (0x7C80 + 0x6C) 0x10000, 7, by decide +kernel⟩,
   ⟨{ setRw (setRw alone (0x7C80 + 0x68) 0xFFFFFFFF) (0x7C80 + 0x6C) 0x0 with sec := { alone.sec with sealed := [(7, 0, 64)] } }, 7, by decide +kernel⟩,
   ⟨updPool alone 15 fun q => { q with enable := true, entries := [5, 6] }, 15, 9, 5, [6], by decide +kernel⟩,
   ⟨updPool alone 15 fun q => { q with enable := true, entries := [] }, 15, 9, by decide +kernel⟩,
   ⟨updPool alone 15 fun q => { q with enable := true, entries := [5] }, 15, 0xFFFFFFFF, by decide +kernel⟩,
   ⟨updPool alone 15 fun q => { q with enable := true, entries := List.replicate 1024 5 }, 15, 0xFFFFFFFF, by decide +kernel⟩⟩

/-- The hypotheses of SweepOfARecord are met. -/
theorem witness_SweepOfARecord :
    (∃ (s : State) (k : StackId) (c : Nat) (x : TrwCmd) (r : Rec) (h : List Byte) (blk : List Byte), s.mem.upsets = [] ∧ headCmd s k.val 1 = some (c, x) ∧ (ctxOf s c).bnd.phase = .sweeping ∧ (ctxOf s c).trn.stageOut = [] ∧ (ctxOf s c).trn.grads = [] ∧ (ctxOf s c).trn.checked = true ∧ (recsIn (ctxOf s c).man k.val).filter (fun y => decide (mget x.pos 0 k.val ≤ y.idx)) = [r] ∧ poisonedAt s r.addr recBytes = none ∧ (ctxOf s c).man.trailExport = false ∧ r.addr + 65792 ≤ 0x9000000000 ∧ h = hdrOf s r ∧ hCount h ≤ 4096 ∧ blk = (ctxOf s c).trn.block) ∧
    (∃ (s : State) (k : StackId) (c : Nat) (x : TrwCmd), s.mem.upsets = [] ∧ headCmd s k.val 1 = some (c, x) ∧ (ctxOf s c).bnd.phase = .sweeping ∧ (ctxOf s c).trn.stageOut = [] ∧ (ctxOf s c).trn.checked = false ∧ recordFault s c ≠ none ∧ (ctxOf s c).loaded = true) ∧
    (∃ (s : State) (k : StackId), headCmd s k.val 1 = none) :=
  ⟨⟨stocked .draining .sweeping 1 false [], 0, 7, { id := 4, op := 1, w := [], host := false, todo := [0] }, theRecord, padTo 256 recordHeader, scalars, by decide +kernel⟩,
   ⟨updTrn (devWrite (stocked .draining .sweeping 1 false []) none 0 [0]) 7 fun t => { t with checked := false }, 0, 7, { id := 4, op := 1, w := [], host := false, todo := [0] }, by decide +kernel⟩,
   ⟨stocked .draining .sweeping 2 false [], 0, by decide +kernel⟩⟩

/-- The hypotheses of ExportsOfRecords are met. -/
theorem witness_ExportsOfRecords :
    (∃ (s : State) (k : StackId) (c : Nat) (label : Nat) (x : TrwCmd) (body : List Byte), s.mem.upsets = [] ∧ headCmd s k.val 4 = some (c, x) ∧ x.todo = [k.val] ∧ recStacks (ctxOf s c).man = [k.val] ∧ ((ctxOf s c).trn.cmds.find? fun y => decide (y.op = 4 ∧ y.todo ≠ [])).map (fun y => y.id) = some x.id ∧ (sinkCfg s c 1).len ≠ 0 ∧ (recsIn (ctxOf s c).man k.val).findSome? (fun r => poisonedAt s r.addr recBytes) = none ∧ x.begun = [] ∧ label = (if x.host = true then (ctxOf s c).trn.committed else (x.w.getD 3 0).toNat) ∧ body = trailRec s 0x11 0 label 0 0 0 (leBytes 4 (baseK s c) ++ leBytes 4 (recsOf (ctxOf s c).man).length ++ List.replicate 24 0) ++ (recsIn (ctxOf s c).man k.val).flatMap (shardRec s 0x12 label)) ∧
    (∃ (s : State) (k : StackId) (c : Nat) (label : Nat) (x : TrwCmd) (body : List Byte), s.mem.upsets = [] ∧ headCmd s k.val 6 = some (c, x) ∧ x.todo = [k.val] ∧ recStacks (ctxOf s c).man = [k.val] ∧ ((ctxOf s c).trn.cmds.find? fun y => decide (y.op = 6 ∧ y.todo ≠ [])).map (fun y => y.id) = some x.id ∧ (recsIn (ctxOf s c).man k.val).findSome? (fun r => poisonedAt s r.addr recBytes) = none ∧ x.begun = [] ∧ label = (if x.host = true then (ctxOf s c).trn.committed else (x.w.getD 3 0).toNat) ∧ body = trailRec s 0x21 0 label 0 0 0 (leBytes 4 (recsOf (ctxOf s c).man).length ++ List.replicate 28 0) ++ (recsIn (ctxOf s c).man k.val).flatMap (shardRec s 0x22 label)) :=
  ⟨⟨{ stocked .loaded .none 4 true [] with cfg := { meshed.cfg with live := meshed.cfg.live ++ [(0x7CD0, 0x1000), (0x7CD8, 16384)] } }, 0, 7, 0, { id := 4, op := 4, w := [], host := true, todo := [0] }, trailRec ({ stocked .loaded .none 4 true [] with cfg := { meshed.cfg with live := meshed.cfg.live ++ [(0x7CD0, 0x1000), (0x7CD8, 16384)] } }) 0x11 0 0 0 0 0 (leBytes 4 (baseK ({ stocked .loaded .none 4 true [] with cfg := { meshed.cfg with live := meshed.cfg.live ++ [(0x7CD0, 0x1000), (0x7CD8, 16384)] } }) 7) ++ leBytes 4 (recsOf (ctxOf ({ stocked .loaded .none 4 true [] with cfg := { meshed.cfg with live := meshed.cfg.live ++ [(0x7CD0, 0x1000), (0x7CD8, 16384)] } }) 7).man).length ++ List.replicate 24 0) ++ (recsIn (ctxOf ({ stocked .loaded .none 4 true [] with cfg := { meshed.cfg with live := meshed.cfg.live ++ [(0x7CD0, 0x1000), (0x7CD8, 16384)] } }) 7).man 0).flatMap (shardRec ({ stocked .loaded .none 4 true [] with cfg := { meshed.cfg with live := meshed.cfg.live ++ [(0x7CD0, 0x1000), (0x7CD8, 16384)] } }) 0x12 0), by repeat' first | refine ⟨by decide +kernel, ?_⟩ | rfl⟩,
   ⟨stocked .running .none 6 false [0, 0, 0, 9], 0, 7, 9, { id := 4, op := 6, w := [0, 0, 0, 9], host := false, todo := [0] }, trailRec (stocked .running .none 6 false [0, 0, 0, 9]) 0x21 0 9 0 0 0 (leBytes 4 (recsOf (ctxOf (stocked .running .none 6 false [0, 0, 0, 9]) 7).man).length ++ List.replicate 28 0) ++ (recsIn (ctxOf (stocked .running .none 6 false [0, 0, 0, 9]) 7).man 0).flatMap (shardRec (stocked .running .none 6 false [0, 0, 0, 9]) 0x22 9), by repeat' first | refine ⟨by decide +kernel, ?_⟩ | rfl⟩⟩

/-- The hypotheses of SinkRings are met. -/
theorem witness_SinkRings :
    (∃ (s : State) (c : Ctx) (budget : Nat) (pos : Nat) (bs : List Byte) (g : SinkCfg), (ctxOf s c.val).loaded = true ∧ (ctxOf s c.val).man.trailMbps ≠ 0 ∧ readFresh s c.val = s ∧ g = sinkCfg s c.val 1 ∧ g.peer = false ∧ sinkReady s c.val 1 = true ∧ nextFor s c.val 0 = [] ∧ nextFor s c.val 2 = [] ∧ (∀ k < 3, (sinkOf s c.val k).ahead = 0) ∧ (ctxOf s c.val).trn.baseOut = bs ∧ recLen bs = bs.length ∧ 64 ≤ bs.length ∧ bs.length ≤ budget ∧ sinkRoom s c.val 1 bs.length = true ∧ pos = (sinkOf s c.val 1).prod % (g.len - 256) ∧ pos + bs.length ≤ g.len - 256) ∧
    (∃ (s : State) (c : Ctx) (k : Fin 3) (hw : List Host.Cell) (a : List Byte), (ctxOf s c.val).loaded = true ∧ (sinkAt s c.val k.val).len ≠ 0 ∧ (sinkAt s c.val k.val).peer = false ∧ a = (s.hostMem.writeCells hw).read (sinkAt s c.val k.val).base 256 ∧ areaCause (sinkAt s c.val k.val).len a = none) ∧
    (∃ (s : State) (c : Ctx) (k : Fin 3) (hw : List Host.Cell) (a : List Byte), (ctxOf s c.val).loaded = true ∧ (sinkAt s c.val k.val).len ≠ 0 ∧ (sinkAt s c.val k.val).peer = false ∧ a = (s.hostMem.writeCells hw).read (sinkAt s c.val k.val).base 256 ∧ areaCause (sinkAt s c.val k.val).len a ≠ none) ∧
    (∃ (s : State) (c : Ctx) (k : Fin 3) (hw : List Host.Cell), (ctxOf s c.val).loaded = true ∧ (sinkAt s c.val k.val).len ≠ 0 ∧ (sinkAt s c.val k.val).peer = true ∧ fwReadOf s c.val k.val 0 = none ∧ firmwareTagFree s = true) ∧
    (∃ (s : State) (c : Ctx) (k : Fin 3) (r : FwRead), (ctxOf s c.val).loaded = true ∧ fwReadOf s c.val k.val 0 = some r ∧ r.nak = false) ∧
    (∃ (s : State) (c : Ctx) (k : Fin 3), ((ctxOf s c.val).loaded = false ∨ fwReadOf s c.val k.val 0 = none)) :=
  ⟨⟨{ updSink (updTrn (stocked .running .none 4 true []) 7 (fun t => { t with cmds := [], baseOut := trailRec alone 0x11 0 5 0 0 0 (List.replicate 32 1) })) 7 1 fun _ => { prod := 0xFFF00, cons := 0xFFF00, known := true } with cfg := { meshed.cfg with live := meshed.cfg.live ++ [(0x7CD0, 0x1000), (0x7CD8, 16384)] } }, 7, 64, 0xFFF00 % (0x100000 - 256), trailRec alone 0x11 0 5 0 0 0 (List.replicate 32 1), ⟨0x1000, 0x100000, false, 0⟩, by decide +kernel⟩,
   ⟨{ stocked .loaded .none 4 true [] with cfg := { meshed.cfg with live := meshed.cfg.live ++ [(0x7CD0, 0x1000), (0x7CD8, 16384)] } }, 7, 1, cellsAt 0x1000 (leBytes 4 sinkMagic ++ leBytes 4 0 ++ leBytes 8 0x80 ++ List.replicate 48 0 ++ leBytes 8 0x40), padTo 256 (leBytes 4 sinkMagic ++ leBytes 4 0 ++ leBytes 8 0x80 ++ List.replicate 48 0 ++ leBytes 8 0x40), by decide +kernel⟩,
   ⟨{ stocked .loaded .none 4 true [] with cfg := { meshed.cfg with live := meshed.cfg.live ++ [(0x7CD0, 0x1000), (0x7CD8, 16384)] } }, 7, 1, [], List.replicate 256 0, by decide +kernel⟩,
   ⟨{ alone with cfg := { meshed.cfg with live := meshed.cfg.live ++ [(0x7CD8, 16384), (0x7CDC, 0x10000)] } }, 7, 1, [], by decide +kernel⟩,
   ⟨updFab alone 7 fun f => { f with reads := [⟨5, 1024, 1, 0, 0, [], false⟩] }, 7, 1, ⟨5, 1024, 1, 0, 0, [], false⟩, by decide +kernel⟩,
   ⟨alone, 7, 1, by decide +kernel⟩⟩

/-- The hypotheses of TrowelCommandQueue are met. -/
theorem witness_TrowelCommandQueue :
    (∃ (s : State) (c : Ctx) (tail : Nat) (hw : List Host.Cell), (rw s (jobBase c.val + 0x98)).toNat ≤ tail) ∧
    (∃ (s : State) (c : Ctx) (tail : Nat) (slots : Nat) (h : Nat) (hw : List Host.Cell) (w : List Word), slots = (rw s (jobBase c.val + 0x98)).toNat ∧ tail < slots ∧ h = (ctxOf s c.val).trwHead ∧ h ≠ tail ∧ (h + 1) % slots = tail ∧ w = (List.range 8).map (fun i => BitVec.ofNat 32 ((s.hostMem.writeCells hw).rd (rw64 s (jobBase c.val + 0x90) + 32 * h + 4 * i) 4)) ∧ cmdReserved c.val w = false ∧ (ctxOf s c.val).state = .loaded ∧ recStacks (ctxOf s c.val).man ≠ []) ∧
    (∃ (s : State) (c : Ctx) (tail : Nat) (slots : Nat) (h : Nat) (hw : List Host.Cell) (w : List Word), slots = (rw s (jobBase c.val + 0x98)).toNat ∧ tail < slots ∧ h = (ctxOf s c.val).trwHead ∧ h ≠ tail ∧ (h + 1) % slots = tail ∧ w = (List.range 8).map (fun i => BitVec.ofNat 32 ((s.hostMem.writeCells hw).rd (rw64 s (jobBase c.val + 0x90) + 32 * h + 4 * i) 4)) ∧ cmdReserved c.val w = true) ∧
    (∃ (s : State) (c : Ctx) (x : TrwCmd), (ctxOf s c.val).trn.cmds.find? (fun y => y.host && decide (y.todo = [])) = some x) ∧
    (∃ (s : State) (c : Ctx) (x : TrwCmd) (r : FwRead), (ctxOf s c.val).fab.reads.find? (fun y => decide (y.what = 3)) = some r ∧ (ctxOf s c.val).trn.cmds.find? (fun y => decide (y.id = r.cmd)) = some x ∧ (ctxOf s c.val).loaded = true) :=
  ⟨⟨alone, 7, 0xFFFF, [], by decide +kernel⟩,
   ⟨setRw (setRw (updTrn (stocked .loaded .none 2 true []) 7 fun t => { t with cmds := [] }) 0x7D10 0x2000) 0x7D18 4, 7, 1, 4, 0, cellsAt 0x2000 (leBytes 4 0x2E000000 ++ leBytes 12 0 ++ leBytes 4 0xFFFF0000), [0x2E000000, 0, 0, 0, 0xFFFF0000, 0, 0, 0], by decide +kernel⟩,
   ⟨setRw (setRw (updTrn (stocked .loaded .none 2 true []) 7 fun t => { t with cmds := [] }) 0x7D10 0x2000) 0x7D18 4, 7, 1, 4, 0, cellsAt 0x2000 (leBytes 4 0x2C000000 ++ leBytes 12 0 ++ leBytes 4 0xFFFF0000), [0x2C000000, 0, 0, 0, 0xFFFF0000, 0, 0, 0], by decide +kernel⟩,
   ⟨updTrn alone 7 fun t => { t with cmds := [{ id := 4, op := 2, w := [], host := true, todo := [], done := 1 }] }, 7, { id := 4, op := 2, w := [], host := true, todo := [], done := 1 }, by decide +kernel⟩,
   ⟨updFab (stocked .loaded .none 5 true [0x5F000A00, 0, 3]) 7 fun f => { f with reads := [⟨5, 1024, 3, 4, 0, [], false⟩] }, 7, { id := 4, op := 5, w := [0x5F000A00, 0, 3], host := true, todo := [0] }, ⟨5, 1024, 3, 4, 0, [], false⟩, by decide +kernel⟩⟩

set_option maxRecDepth 1000000 in
/-- The hypotheses of HostTrowelCommands are met. -/
theorem witness_HostTrowelCommands :
    (∃ (s : State) (k : StackId) (c : Nat) (x : TrwCmd) (r : Rec), s.mem.upsets = [] ∧ headCmd s k.val 2 = some (c, x) ∧ x.host = true ∧ recsIn (ctxOf s c).man k.val = [r] ∧ poisonedAt s r.addr 0x4100 = none) ∧
    (∃ (s : State) (k : StackId) (c : Nat) (x : TrwCmd) (r : Rec), s.mem.upsets = [] ∧ headCmd s k.val 8 = some (c, x) ∧ x.host = true ∧ recsIn (ctxOf s c).man k.val = [r] ∧ poisonedAt s r.addr 256 = none ∧ poisonedAt s (0xE100 + r.addr) (2 * hCount (hdrOf s r)) = none ∧ headerCheck (hdrOf s r) r.tensor r.shard (sameGfmt s (ctxOf s c).man (hGfmt (hdrOf s r))) = none ∧ r.addr + 65792 ≤ 0x9000000000 ∧ hWfmt (hdrOf s r) = 1) ∧
    (∃ (s : State) (k : StackId) (c : Nat) (x : TrwCmd), headCmd s k.val 3 = some (c, x) ∧ s.mem.upsets = [] ∧ srcReady x = true ∧ (seqParse s x 1 2 3).1 = none ∧ srcPoison s x (seqParse s x 1 2 3).2 = none) ∧
    (∃ (s : State) (k : StackId) (c : Nat) (x : TrwCmd) (rs : List (Nat × Nat)) (opn : List Byte) (b : List Byte) (r : Rec), headCmd s k.val 3 = some (c, x) ∧ x.host = true ∧ s.mem.upsets = [] ∧ srcReady x = true ∧ (seqParse s x 1 2 3).1 = some rs ∧ srcPoison s x (seqParse s x 1 2 3).2 = none ∧ opn = seqRec (seqSource s x).1 (rs.headD (0, 0)) ∧ rs.tail.map (seqRec (seqSource s x).1) = [b] ∧ (scalarCause25 (opn.drop 32) (recGroups s (ctxOf s c).man) (bf16Grads s (ctxOf s c).man) false).isSome = false ∧ bit (lat opn 1 1) 0 = false ∧ named (ctxOf s c).man k.val b = some r ∧ (groutDecode (fun i => b.getD (32 + i) 0) 8192 (b.length - 32)).2 = none ∧ b.length = roundUp (32 + (groutDecode (fun i => b.getD (32 + i) 0) 8192 (b.length - 32)).1.2) 64 ∧ recPoison s r (sweepReads (hdrOf s r) (opn.drop 32) false) = none ∧ hLast (hdrOf s r) < lat opn 8 4 ∧ hCount (hdrOf s r) ≤ 4096 ∧ r.addr + 65792 ≤ 0x9000000000) ∧
    (∃ (s : State) (k : StackId) (c : Nat) (x : TrwCmd), headCmd s k.val 5 = some (c, x) ∧ s.mem.upsets = [] ∧ srcReady x = true ∧ (seqParse s x 0x11 0x12 0x13).1 = none ∧ srcPoison s x (seqParse s x 0x11 0x12 0x13).2 = none) ∧
    (∃ (s : State) (k : StackId) (c : Nat) (x : TrwCmd) (rs : List (Nat × Nat)), headCmd s k.val 5 = some (c, x) ∧ x.host = true ∧ s.mem.upsets = [] ∧ srcReady x = true ∧ (seqParse s x 0x11 0x12 0x13).1 = some rs ∧ srcPoison s x (seqParse s x 0x11 0x12 0x13).2 = none ∧ (∀ b ∈ rs.tail.map (seqRec (seqSource s x).1), named (ctxOf s c).man k.val b = none)) ∧
    (∃ (s : State) (k : StackId) (c : Nat) (x : TrwCmd) (rs : List (Nat × Nat)) (b : List Byte) (h : List Byte) (r : Rec), headCmd s k.val 5 = some (c, x) ∧ x.host = true ∧ s.mem.upsets = [] ∧ srcReady x = true ∧ (seqParse s x 0x11 0x12 0x13).1 = some rs ∧ srcPoison s x (seqParse s x 0x11 0x12 0x13).2 = none ∧ rs.tail.map (seqRec (seqSource s x).1) = [b] ∧ named (ctxOf s c).man k.val b = some r ∧ h = (b.drop 32).take 256 ∧ b.length = roundUp (32 + 0xC100 + workBytes h) 64 ∧ headerCheck h r.tensor r.shard (importGfmt s (ctxOf s c).man [b] (hGfmt h)) = none ∧ r.addr + 65792 ≤ 0x9000000000) ∧
    (∃ (s : State) (k : StackId) (op : Nat) (c : Nat) (x : TrwCmd), (op = 3 ∨ op = 5) ∧ headCmd s k.val op = some (c, x) ∧ srcReady x = false ∧ fwReadOf s c 3 x.id = none ∧ firmwareTagFree s = true) :=
  ⟨⟨stocked .loaded .none 2 true [], 0, 7, { id := 4, op := 2, w := [], host := true, todo := [0] }, theRecord, by decide +kernel⟩,
   ⟨stocked .loaded .none 8 true [], 0, 7, { id := 4, op := 8, w := [], host := true, todo := [0] }, theRecord, by decide +kernel⟩,
   ⟨updTrn (stocked .loaded .none 3 true []) 7 fun t => { t with cmds := [{ id := 4, op := 3, w := [0x3F000000, 0, 1], host := true, todo := [0], src := List.replicate 64 0 }] }, 0, 7, { id := 4, op := 3, w := [0x3F000000, 0, 1], host := true, todo := [0], src := List.replicate 64 0 }, by decide +kernel⟩,
   ⟨updTrn (stocked .loaded .none 3 true []) 7 fun t => { t with cmds := [{ id := 4, op := 3, w := [0x3F000000, 0, BitVec.ofNat 32 (stepSeq.length / 64)], host := true, todo := [0], src := stepSeq }] }, 0, 7, { id := 4, op := 3, w := [0x3F000000, 0, BitVec.ofNat 32 (stepSeq.length / 64)], host := true, todo := [0], src := stepSeq }, [(0, 128), (128, seqShard.length)], seqOpen, seqShard, theRecord, by decide +kernel⟩,
   ⟨updTrn (stocked .loaded .none 5 true []) 7 fun t => { t with cmds := [{ id := 4, op := 5, w := [0x5F000000, 0, 1], host := true, todo := [0], src := List.replicate 64 0 }] }, 0, 7, { id := 4, op := 5, w := [0x5F000000, 0, 1], host := true, todo := [0], src := List.replicate 64 0 }, by decide +kernel⟩,
   ⟨updTrn (stocked .loaded .none 5 true []) 7 fun t => { t with cmds := [{ id := 4, op := 5, w := [0x5F000000, 0, 2], host := true, todo := [0], src := baseSeqEmpty }] }, 0, 7, { id := 4, op := 5, w := [0x5F000000, 0, 2], host := true, todo := [0], src := baseSeqEmpty }, [(0, 64)], by decide +kernel⟩,
   ⟨importing (baseSeq basePayload), 0, 7, importCmd (baseSeq basePayload), [(0, 64), (64, 57664)], baseShard basePayload, padTo 256 recordHeader, theRecord,
     import_meets⟩,
   ⟨stocked .loaded .none 3 true [0x3F000000, 0, 3], 0, 3, 7, { id := 4, op := 3, w := [0x3F000000, 0, 3], host := true, todo := [0] }, by decide +kernel⟩⟩

/-- The hypotheses of ComputeAndBlockResets are met. -/
theorem witness_ComputeAndBlockResets :
    (∃ (s : State) (v : Word), pageAnswers s 0x2000 = true ∧ fld v 31 16 = 0x434D ∧ v.getLsbD 0 = true ∧ s.boot.resetting = false) ∧
    (∃ (s : State) (v : Word), pageAnswers s 0x2000 = true ∧ fld v 31 16 = 0x434D ∧ (v.getLsbD 0 = false ∨ s.boot.resetting = true)) ∧
    (∃ (s : State) (v : Word), pageAnswers s 0x2000 = true ∧ fld v 31 16 ≠ 0x434D) ∧
    (∃ (s : State) (unit : Nat) (inst : Nat), mayHang s unit inst = true ∧ s.boot.resetting = false) ∧
    (∃ (s : State) (unit : Nat) (inst : Nat), mayHang s unit inst = false) ∧
    (∃ (s : State), isReady s = true ∧ s.boot.resetting = false) ∧
    (∃ (s : State), isReady s = false) ∧
    (∃ (s : State), s.boot.perst = false) ∧
    (∃ (s : State), s.boot.perst = true) ∧
    (∃ (s : State) (r : Req), isReady s = true ∧ switchbackRuns s = true ∧ (linkOf s 0).queue = [] ∧ (linkOf s 1).prbs = false ∧ s.cfg.state ≠ 3 ∧ (portPresent s 1 = true ∨ neighbour s 0 = none ∨ inService s 0 = false)) ∧
    (∃ (s : State) (r : Req) (n : Nat), isReady s = true ∧ switchbackRuns s = true ∧ inService s 0 = true ∧ neighbour s 0 = some n ∧ (∀ q < 12, q ≠ 0 → neighbour s q = some n → portPresent s q = false) ∧ (linkOf s 1).prbs = false ∧ s.cfg.state ≠ 3 ∧ s.fab.absent.length < 64 ∧ (∀ c < 8, (ctxOf s c).loaded = true → autoPlough s c = false ∨ fabricJob s c = 0)) ∧
    (∃ (s : State) (r : Req), isReady s = true ∧ switchbackRuns s = false) ∧
    (∃ (s : State) (r : Req), isReady s = true ∧ noneLoaded s = true) ∧
    (∃ (s : State) (r : Req), isReady s = true ∧ noneLoaded s = false) ∧
    (∃ (s : State) (r : Req) (u : MediaUnit), isReady s = true ∧ (unitOf s u).out = true) :=
  ⟨⟨{ working with trw := [(3, {})] }, 0x434D0001, by decide +kernel⟩,
   ⟨{ working with boot := { working.boot with resetting := true } }, 0x434D0001, by decide +kernel⟩,
   ⟨working, 0xFFFFFFFF, by decide +kernel⟩,
   ⟨issued 511 { seq := 3, addr := 0, w := [0x10000000], phase := .started }, 0, 511, by decide +kernel⟩,
   ⟨working, 0, 511, by decide +kernel⟩,
   ⟨working, by decide +kernel⟩,
   ⟨State.reset, by decide +kernel⟩,
   ⟨up, by decide +kernel⟩,
   ⟨State.reset, by decide +kernel⟩,
   ⟨working, 6, by decide +kernel⟩,
   ⟨updLink meshed 1 fun l => { l with out := true }, 6, 2048, by decide +kernel⟩,
   ⟨{ working with pwr := { working.pwr with dead := true } }, 6, by decide +kernel⟩,
   ⟨{ up with post := { up.post with slots := [(31, 4)] } }, 4, by decide +kernel⟩,
   ⟨working, 4, by decide +kernel⟩,
   ⟨updUnit up (.shap 7) fun x => { x with out := true, testing := true, result := 2 }, 6, .shap 7, by decide +kernel⟩⟩

/-- The hypotheses of PartFaultsAndLoss are met. -/
theorem witness_PartFaultsAndLoss :
    (∃ (s : State) (unit : Nat) (inst : Nat) (reading : Nat), 460 ≤ reading ∧ s.boot.aon = true ∧ s.boot.stopped = false) ∧
    (∃ (s : State) (unit : Nat) (inst : Nat) (reading : Nat), reading < 460) ∧
    (∃ (s : State) (reading : Nat), (reading < 5700 ∨ 6300 < reading) ∧ s.boot.regs = true ∧ s.boot.aon = true ∧ s.boot.stopped = false) ∧
    (∃ (s : State) (reading : Nat), (s.boot.regs = false ∨ (5700 ≤ reading ∧ reading ≤ 6300))) ∧
    (∃ (s : State) (reading : Nat), s.boot.regs = true ∧ s.boot.aon = true ∧ s.boot.stopped = false) ∧
    (∃ (s : State), s.pwr.state = .active ∧ s.boot.aon = true ∧ s.boot.stopped = false) ∧
    (∃ (s : State), s.pwr.state ≠ .active) ∧
    (∃ (s : State), s.boot.aon = true) ∧
    (∃ (s : State), s.boot.aon = true) ∧
    (∃ (s : State) (cause : Nat), s.boot.announce = some (2, cause)) ∧
    (∃ (s : State) (cause : Nat), s.boot.announce = some (3, cause)) ∧
    (∃ (s : State), s.boot.announce = none) :=
  ⟨⟨{ working with boot := { working.boot with aon := true, regs := true } }, 0, 11, 460, by decide +kernel⟩,
   ⟨working, 0, 11, 459, by decide +kernel⟩,
   ⟨{ working with boot := { working.boot with aon := true, regs := true } }, 6301, by decide +kernel⟩,
   ⟨{ working with boot := { working.boot with aon := true, regs := true } }, 6300, by decide +kernel⟩,
   ⟨{ working with boot := { working.boot with aon := true, regs := true } }, 0xFFFFFFFF, by decide +kernel⟩,
   ⟨{ working with boot := { working.boot with aon := true, regs := true } }, by decide +kernel⟩,
   ⟨asleep, by decide +kernel⟩,
   ⟨{ working with boot := { working.boot with aon := true, regs := true } }, by decide +kernel⟩,
   ⟨{ working with boot := { working.boot with aon := true, regs := true } }, by decide +kernel⟩,
   ⟨{ working with boot := { working.boot with aon := true, regs := true, announce := some (2, 4) } }, 4, by decide +kernel⟩,
   ⟨{ working with boot := { working.boot with aon := true, regs := true, announce := some (3, 4) } }, 4, by decide +kernel⟩,
   ⟨up, by decide +kernel⟩⟩

/-- The hypotheses of PowerUpAndBoot are met. -/
theorem witness_PowerUpAndBoot :
    (∃ (s : State) (straps : BitVec 3), s.boot.aon = false) ∧
    (∃ (s : State), s.boot.aon = true ∧ s.boot.regs = false ∧ s.boot.refclk = true) ∧
    (∃ (s : State) (b : List CourseId) (k : Nat) (f : FwCopy), s.boot.stage = 1 ∧ s.boot.regs = true ∧ s.pwr.dead = false ∧ pickFw s = some (k, f)) ∧
    (∃ (s : State) (b : List CourseId), s.boot.stage = 1 ∧ s.boot.regs = true ∧ s.pwr.dead = false ∧ pickFw s = none) ∧
    (∃ (s : State) (b : List CourseId), (s.boot.stage ≠ 1 ∨ s.boot.regs = false ∨ s.pwr.dead = true)) ∧
    (∃ (s : State) (k : Nat) (f : FwCopy), s.boot.stopped = true ∧ s.boot.perst = false ∧ tapHolds s = false ∧ pickFw s = some (k, f)) ∧
    (∃ (s : State), (s.boot.stopped = false ∨ s.boot.perst = true ∨ tapHolds s = true)) ∧
    (∃ (s : State) (a : FwCopy) (b : FwCopy), mget s.boot.fw ⟨true, 0, 0, 0, 0⟩ 0 = a ∧ mget s.boot.fw ⟨true, 0, 0, 0, 0⟩ 1 = b ∧ a.valid = true ∧ b.valid = true) ∧
    (∃ (s : State), s.boot.stage = 5) ∧
    (∃ (s : State), s.boot.stage = 8) ∧
    (∃ (s : State) (v : Word), pageAnswers s 0x2000 = true ∧ fld v 31 16 = 0x574D ∧ v.getLsbD 0 = true ∧ s.boot.aon = true) ∧
    (∃ (s : State), s.boot.perst = false ∧ s.boot.aon = true) ∧
    (∃ (s : State), s.boot.aon = true) ∧
    (∃ (s : State), s.boot.aon = true) :=
  ⟨⟨State.reset, 7, by decide +kernel⟩,
   ⟨onAon, by decide +kernel⟩,
   ⟨{ onAon with boot := { onAon.boot with regs := true, stage := 1, fw := [(0, ⟨true, 4, 1, 2, 3⟩), (1, ⟨true, 5, 1, 2, 3⟩)] } }, [31], 1, ⟨true, 5, 1, 2, 3⟩, by decide +kernel⟩,
   ⟨{ onAon with boot := { onAon.boot with regs := true, stage := 1, fw := [(0, ⟨false, 4, 1, 2, 3⟩), (1, ⟨false, 5, 1, 2, 3⟩)] } }, [], by decide +kernel⟩,
   ⟨{ onAon with boot := { onAon.boot with regs := true, stage := 1 }, pwr := { onAon.pwr with dead := true } }, [], by decide +kernel⟩,
   ⟨{ onAon with boot := { onAon.boot with regs := true, stage := 0, fw := [(0, ⟨true, 4, 1, 2, 3⟩), (1, ⟨true, 5, 1, 2, 3⟩)], stopped := true, perst := false } }, 1, ⟨true, 5, 1, 2, 3⟩, by decide +kernel⟩,
   ⟨State.reset, by decide +kernel⟩,
   ⟨{ onAon with boot := { onAon.boot with regs := true, stage := 1, fw := [(0, ⟨true, 4, 1, 2, 3⟩), (1, ⟨true, 5, 1, 2, 3⟩)] } }, ⟨true, 4, 1, 2, 3⟩, ⟨true, 5, 1, 2, 3⟩, by decide +kernel⟩,
   ⟨{ onAon with boot := { onAon.boot with regs := true, stage := 5, fw := [(0, ⟨true, 4, 1, 2, 3⟩), (1, ⟨true, 5, 1, 2, 3⟩)] } }, by decide +kernel⟩,
   ⟨{ onAon with boot := { onAon.boot with regs := true, stage := 8, fw := [(0, ⟨true, 4, 1, 2, 3⟩), (1, ⟨true, 5, 1, 2, 3⟩)] } }, by decide +kernel⟩,
   ⟨{ working with boot := { working.boot with aon := true, regs := true } }, 0x574DFFFF, by decide +kernel⟩,
   ⟨{ working with boot := { working.boot with aon := true, regs := true } }, by decide +kernel⟩,
   ⟨{ working with boot := { working.boot with aon := true, regs := true } }, by decide +kernel⟩,
   ⟨{ working with boot := { working.boot with aon := true, regs := true } }, by decide +kernel⟩⟩

/-- The hypotheses of ConfigurationStaging are met. -/
theorem witness_ConfigurationStaging :
    (∃ (s : State), pageAnswers s 0x5000 = true ∧ s.cfg.state < 3) ∧
    (∃ (s : State), s.cfg.checking = true ∧ checkAll s = none) ∧
    (∃ (s : State) (rule : Nat) (off : Nat), s.cfg.checking = true ∧ checkAll s = some (rule, off) ∧ rule < 256 ∧ off < 0x100000) ∧
    (∃ (s : State), pageAnswers s 0x5000 = true ∧ s.cfg.state = 2 ∧ partIdle s = false) ∧
    (∃ (s : State) (u : State), u = { s with cfg := { s.cfg with state := 3 } } ∧ pageAnswers s 0x5000 = true ∧ s.cfg.state = 2 ∧ partIdle s = true ∧ checkAgain u = none) ∧
    (∃ (s : State) (u : State) (x : Nat × Nat), u = { s with cfg := { s.cfg with state := 3 } } ∧ pageAnswers s 0x5000 = true ∧ s.cfg.state = 2 ∧ partIdle s = true ∧ checkAgain u = some x) ∧
    (∃ (s : State), pageAnswers s 0x5000 = true ∧ s.cfg.state < 2) ∧
    (∃ (s : State) (k : Nat), pageAnswers s 0x5000 = true ∧ s.cfg.state ≠ 5 ∧ s.cfg.saving = none ∧ saveTarget s = some k) ∧
    (∃ (s : State) (k : Nat) (c : StoreCopy), s.cfg.saving = some k ∧ mget s.cfg.copies none k = some c) ∧
    (∃ (s : State) (k : Nat), s.cfg.saving = some k) :=
  ⟨⟨{ memMax with cfg := { memMax.cfg with state := 2 } }, by decide +kernel⟩,
   ⟨checking, by refine ⟨by decide +kernel, ?_⟩; have h2 : rule2 (staged checking) = none := (by unfold rule2; cases Config.gradeB <;> decide +kernel); simp only [checkAll, h2]; decide +kernel⟩,
   ⟨{ memMax with cfg := { memMax.cfg with state := 2, checking := true, shadow := memMax.cfg.live ++ [(0x6104, 99)] } }, 1, 0x6104, by decide +kernel⟩,
   ⟨{ working with cfg := { memMax.cfg with state := 2, shadow := memMax.cfg.live } }, by decide +kernel⟩,
   ⟨{ memMax with cfg := { memMax.cfg with state := 2, shadow := memMax.cfg.live ++ [(0x6104, 100)], dirty := [0x6000], seq := 0xFFFFFFFF } }, { memMax with cfg := { memMax.cfg with state := 3, shadow := memMax.cfg.live ++ [(0x6104, 100)], dirty := [0x6000], seq := 0xFFFFFFFF } }, by decide +kernel⟩,
   ⟨{ memMax with cfg := { memMax.cfg with state := 2, shadow := memMax.cfg.live ++ [(0x7CA4, 7)] } }, { memMax with cfg := { memMax.cfg with state := 3, shadow := memMax.cfg.live ++ [(0x7CA4, 7)] } }, (7, 0x7CA4), by decide +kernel⟩,
   ⟨{ memMax with cfg := { memMax.cfg with state := 1 } }, by decide +kernel⟩,
   ⟨{ memMax with cfg := { memMax.cfg with state := 1 } }, 0, by decide +kernel⟩,
   ⟨{ memMax with cfg := { memMax.cfg with state := 1, saving := some 1, copies := [(1, some { valid := false, seq := 1, writesOwn := 1, writesOther := 0, entries := [] })] } }, 1, { valid := false, seq := 1, writesOwn := 1, writesOther := 0, entries := [] }, by decide +kernel⟩,
   ⟨{ memMax with cfg := { memMax.cfg with state := 1, saving := some 1 } }, 1, by decide +kernel⟩⟩

/-- The hypotheses of TenancyAndScrub are met. -/
theorem witness_TenancyAndScrub :
    (∃ (s : State), isReady s = true ∧ s.sec.busy = false ∧ s.sec.scrubFailed = false ∧ noneLoaded s = true ∧ s.sec.xfer = []) ∧
    (∃ (s : State) (p : MsgPath) (n : Nat), spdmUp s = true ∧ s.sec.busy = false ∧ s.sec.scrubbing = false ∧ s.sec.scrubFailed = false ∧ noneLoaded s = true ∧ s.sec.xfer = []) ∧
    (∃ (s : State), isReady s = true ∧ s.sec.busy = false ∧ noneLoaded s = false) ∧
    (∃ (s : State), isReady s = true ∧ s.sec.busy = true) ∧
    (∃ (s : State), s.sec.scrubbing = true ∧ s.sec.scrubFailed = false ∧ s.sec.waiting = [] ∧ s.boot.stage ≠ 7) ∧
    (∃ (s : State), s.sec.scrubbing = true ∧ s.sec.scrubFailed = false ∧ s.boot.stage = 7 ∧ s.sec.waiting = []) ∧
    (∃ (s : State) (k : StackId) (a : Nat), s.sec.scrubbing = true ∧ s.sec.scrubFailed = false ∧ s.sec.waiting = []) ∧
    (∃ (s : State) (c : Ctx) (a : Nat) (n : Nat), s.job.zeroing = [(c.val, [(a, n)])] ∧ a + n ≤ 0x9000000000) ∧
    (∃ (s : State) (rest : List Refused), s.sec.refusing = .hrdm :: rest ∧ s.sec.scrubbing = false ∧ s.sec.waiting = []) :=
  ⟨⟨{ up with sec := { up.sec with devKey := some (1, [2]), sessions := [⟨1, .i3c, true, true, true, []⟩] } }, by decide +kernel⟩,
   ⟨{ up with sec := { up.sec with devKey := some (1, [2]) } }, .i3c, 1, by decide +kernel⟩,
   ⟨working, by decide +kernel⟩,
   ⟨{ up with sec := { up.sec with busy := true } }, by decide +kernel⟩,
   ⟨{ up with sec := { up.sec with scrubbing := true, busy := true, epoch := 0xFFFFFFFF, images := [0], scrubFor := some .hrdm }, mem := (devWrite up none 64 [7]).mem, job := { up.job with ctxs := [(3, { state := .tornDown })] } }, by decide +kernel⟩,
   ⟨{ up with sec := { up.sec with scrubbing := true }, boot := { up.boot with stage := 7 } }, by decide +kernel⟩,
   ⟨{ up with sec := { up.sec with scrubbing := true, busy := true, epoch := 0xFFFFFFFF, images := [0], scrubFor := some .hrdm }, mem := (devWrite up none 64 [7]).mem, job := { up.job with ctxs := [(3, { state := .tornDown })] } }, 11, 0xBFFFFFFC0, by decide +kernel⟩,
   ⟨{ devWrite up none 64 [7, 8] with job := { up.job with zeroing := [(7, [(64, 1)])] } }, 7, 64, 1, by decide +kernel⟩,
   ⟨{ up with sec := { up.sec with refusing := [.hrdm, .snapshot], busy := true } }, [.snapshot], by decide +kernel⟩⟩

/-- The hypotheses of WeightsAndKeys are met. -/
theorem witness_WeightsAndKeys :
    (∃ (s : State) (ch : ChanId) (b : List Byte) (d : List Byte) (st : Nat) (a : Nat) (n : Nat) (k : Nat) (x : Xfer), s.host.d3 = false ∧ s.host.linkLost = false ∧ s.boot.perst = false ∧ (chanOf s ch.val).cur = some (d, st) ∧ mget s.sec.xfer none ch.val = some x ∧ x.refused = false ∧ s.sec.scrubbing = false ∧ s.sec.scrubFailed = false ∧ chunkHeaderOk ch.val b = true ∧ chunkNext s b = true ∧ n = lat b 0xC 4 ∧ chunkPlace s d x n = true ∧ lat b 4 1 = 0 ∧ a = lat d 8 8 + x.plain ∧ k = lat b 5 1 ∧ x.host + b.length < lat d 0x10 4 ∧ a + n ≤ 0x9000000000) ∧
    (∃ (s : State) (ch : ChanId) (b : List Byte) (d : List Byte) (st : Nat) (k : Nat) (x : Xfer), s.host.d3 = false ∧ s.host.linkLost = false ∧ s.boot.perst = false ∧ (chanOf s ch.val).cur = some (d, st) ∧ mget s.sec.xfer none ch.val = some x ∧ x.refused = false ∧ s.sec.scrubbing = false ∧ 64 ≤ b.length ∧ lat b 0 4 = 0x42574B52 ∧ chunkHeaderOk ch.val b = false ∧ k = lat b 5 1 ∧ x.host + b.length < lat d 0x10 4) ∧
    (∃ (s : State) (k : Fin 256), isReady s = true ∧ s.sec.busy = false ∧ s.sec.scrubFailed = false ∧ (wset s k.val).state = 1 ∧ (rw s 0x8104).toNat = (wset s k.val).leaves.length) ∧
    (∃ (s : State) (k : Fin 256), isReady s = true ∧ s.sec.busy = false ∧ s.sec.scrubFailed = false ∧ (wset s k.val).state = 1 ∧ (rw s 0x8104).toNat ≠ (wset s k.val).leaves.length) ∧
    (∃ (s : State) (p : MsgPath) (n : Nat) (setId : Dword) (key : List Byte) (x : Session), spdmUp s = true ∧ s.sec.busy = false ∧ s.sec.scrubbing = false ∧ s.sec.scrubFailed = false ∧ sessionOf s p n = some x ∧ x.owner = true ∧ s.sec.devKey = none) ∧
    (∃ (s : State) (p : MsgPath) (n : Nat) (setId : Dword) (key : List Byte) (x : Session), spdmUp s = true ∧ s.sec.busy = false ∧ s.sec.scrubbing = false ∧ sessionOf s p n = some x ∧ x.owner = false) ∧
    (∃ (s : State) (p : MsgPath) (n : Nat) (job : Nat) (chan : Nat) (loadId : Word) (d : Sha) (key : List Byte) (x : Session), spdmUp s = true ∧ s.sec.busy = false ∧ s.sec.scrubbing = false ∧ s.sec.scrubFailed = false ∧ sessionOf s p n = some x ∧ (d, configDigest s, s.sec.images) ∈ x.reports ∧ job < 8 ∧ ((ctxOf s job).state = .loaded ∨ (ctxOf s job).state = .parked) ∧ chan < 4 ∧ chanKey s chan = none) ∧
    (∃ (s : State) (p : MsgPath) (seq : Nat) (key : List Byte) (sig : List Byte), spdmUp s = true ∧ s.sec.busy = false ∧ s.sec.scrubbing = false ∧ s.sec.scrubFailed = false ∧ s.sec.counter < 256 ∧ seq = s.sec.counter + 1 ∧ key.length = 97 ∧ updateSigned s seq key sig = true) ∧
    (∃ (s : State) (p : MsgPath) (seq : Nat) (key : List Byte) (sig : List Byte) (ok : Bool), spdmUp s = true ∧ s.sec.busy = false ∧ s.sec.scrubbing = false ∧ (seq ≠ s.sec.counter + 1 ∨ s.sec.counter = 256)) :=
  ⟨⟨{ updChan (updCtx working 7 fun j => { j with state := .loaded, stepIn := false }) 0 fun k => { k with cur := some (leBytes 8 0x1000 ++ leBytes 8 0x2000 ++ leBytes 4 200 ++ [0, 1, 7, 0] ++ leBytes 8 0, 0) } with sec := { working.sec with xfer := [(0, some {})] } }, 0, leBytes 4 0x42574B52 ++ [0, 255, 0, 0] ++ leBytes 4 0 ++ leBytes 4 2 ++ leBytes 48 0 ++ [9, 8], leBytes 8 0x1000 ++ leBytes 8 0x2000 ++ leBytes 4 200 ++ [0, 1, 7, 0] ++ leBytes 8 0, 0, 0x2000, 2, 255, {}, by decide +kernel⟩,
   ⟨{ updChan (updCtx working 7 fun j => { j with state := .loaded, stepIn := false }) 0 fun k => { k with cur := some (leBytes 8 0x1000 ++ leBytes 8 0x2000 ++ leBytes 4 200 ++ [0, 1, 7, 0] ++ leBytes 8 0, 0) } with sec := { working.sec with xfer := [(0, some {})] } }, 0, leBytes 4 0x42574B52 ++ [3, 255, 0, 0] ++ leBytes 4 0 ++ leBytes 4 2 ++ leBytes 48 0 ++ [9, 8], leBytes 8 0x1000 ++ leBytes 8 0x2000 ++ leBytes 4 200 ++ [0, 1, 7, 0] ++ leBytes 8 0, 0, 255, {}, by decide +kernel⟩,
   ⟨{ setRw up 0x8104 2 with sec := { up.sec with wsets := [(255, { state := 1, leaves := [5, 6] })] } }, 255, by decide +kernel⟩,
   ⟨{ setRw up 0x8104 3 with sec := { up.sec with wsets := [(255, { state := 1, leaves := [5, 6] })] } }, 255, by decide +kernel⟩,
   ⟨attested [⟨2, .pcie, true, true, true, []⟩], .pcie, 2, 5, [1], ⟨2, .pcie, true, true, true, []⟩, by decide +kernel⟩,
   ⟨attested [⟨2, .pcie, true, false, false, []⟩], .pcie, 2, 5, [1], ⟨2, .pcie, true, false, false, []⟩, by decide +kernel⟩,
   ⟨{ up with sec := { up.sec with sessions := [⟨2, .pcie, true, false, false, [(9, configDigest up, [4])]⟩], images := [4] }, job := { up.job with ctxs := [(7, { state := .loaded })] } }, .pcie, 2, 7, 3, 5, 9, [1], ⟨2, .pcie, true, false, false, [(9, configDigest up, [4])]⟩, ⟨by decide +kernel, by decide +kernel, by decide +kernel, by decide +kernel, rfl, List.mem_singleton.mpr rfl, by decide +kernel, by decide +kernel, by decide +kernel, rfl⟩⟩,
   ⟨up, .pcie, 1, List.replicate 97 4, [], by decide +kernel⟩,
   ⟨{ up with sec := { up.sec with counter := 256 } }, .pcie, 257, [], [], true, by decide +kernel⟩⟩

/-- The hypotheses of Attestation are met. -/
theorem witness_Attestation :
    (∃ (s : State) (p : MsgPath), spdmUp s = true) ∧
    (∃ (s : State) (p : MsgPath) (v12 : Bool), spdmUp s = true) ∧
    (∃ (s : State) (p : MsgPath), spdmUp s = true) ∧
    (∃ (s : State) (p : MsgPath), spdmUp s = true) ∧
    (∃ (s : State) (p : MsgPath) (off : Nat) (n : Nat), spdmUp s = true) ∧
    (∃ (s : State) (p : MsgPath) (nonce : List Byte), spdmUp s = true) ∧
    (∃ (s : State) (p : MsgPath) (i : Nat), spdmUp s = true ∧ 0 < i ∧ i ≤ 7) ∧
    (∃ (s : State) (p : MsgPath) (m : Bool), spdmUp s = true ∧ s.sec.busy = false ∧ s.sec.scrubbing = false ∧ s.sec.scrubFailed = false ∧ s.sec.sessions.length < 2) ∧
    (∃ (s : State) (p : MsgPath) (m : Bool), spdmUp s = true ∧ s.sec.busy = false ∧ s.sec.scrubbing = false ∧ 2 ≤ s.sec.sessions.length) ∧
    (∃ (s : State) (p : MsgPath) (x : Session) (leaf : Option (List Byte)), spdmUp s = true ∧ s.sec.busy = false ∧ s.sec.scrubbing = false ∧ s.sec.scrubFailed = false ∧ s.sec.sessions = [x] ∧ x.path = p ∧ x.est = false ∧ x.mutAuth = false) ∧
    (∃ (s : State) (p : MsgPath) (x : Session) (leaf : Option (List Byte)) (ok : Bool), spdmUp s = true ∧ s.sec.busy = false ∧ s.sec.scrubbing = false ∧ s.sec.sessions = [x] ∧ x.path = p ∧ x.est = false ∧ (ok = false ∨ (x.mutAuth = true ∧ leaf = none))) ∧
    (∃ (s : State) (p : MsgPath) (n : Nat), spdmUp s = true ∧ (sessionOf s p n).isSome = true) ∧
    (∃ (s : State) (p : MsgPath) (n : Nat), spdmUp s = true ∧ (sessionOf s p n).isSome = true) ∧
    (∃ (s : State) (p : MsgPath) (h : Nat) (bs : List Byte), spdmUp s = true) ∧
    (∃ (s : State) (p : MsgPath) (h : Nat) (i : Nat) (b : List Byte), spdmUp s = true ∧ b = mget s.sec.chunks [] (2 * pathKey p + 1) ∧ 1024 * i < b.length) ∧
    (∃ (s : State) (p : MsgPath) (nonce : List Byte), spdmUp s = true ∧ s.sec.scrubbing = false) ∧
    (∃ (s : State) (p : MsgPath) (n : Option Nat) (nonce : List Byte), spdmUp s = true ∧ s.sec.scrubbing = true ∧ s.sec.scrubFailed = false) :=
  ⟨⟨up, .i3c, by decide +kernel⟩,
   ⟨up, .i3c, true, by decide +kernel⟩,
   ⟨up, .i3c, by decide +kernel⟩,
   ⟨up, .i3c, by decide +kernel⟩,
   ⟨up, .i3c, 5, 9, by decide +kernel⟩,
   ⟨up, .i3c, [1], by decide +kernel⟩,
   ⟨up, .i3c, 7, by decide +kernel⟩,
   ⟨attested [⟨2, .pcie, true, true, true, []⟩], .i3c, true, by decide +kernel⟩,
   ⟨attested [⟨2, .pcie, true, true, true, []⟩, ⟨2, .pcie, true, false, false, []⟩], .i3c, true, by decide +kernel⟩,
   ⟨attested [⟨1, .pcie, false, false, false, []⟩], .pcie, ⟨1, .pcie, false, false, false, []⟩, none, by decide +kernel⟩,
   ⟨attested [⟨1, .pcie, false, false, true, []⟩], .pcie, ⟨1, .pcie, false, false, true, []⟩, none, true, by decide +kernel⟩,
   ⟨attested [⟨2, .pcie, true, true, true, []⟩], .pcie, 2, by decide +kernel⟩,
   ⟨attested [⟨2, .pcie, true, true, true, []⟩], .pcie, 2, by decide +kernel⟩,
   ⟨up, .i3c, 3, [1], by decide +kernel⟩,
   ⟨{ up with sec := { up.sec with chunks := [(3, List.replicate 1025 7)] } }, .i3c, 3, 1, List.replicate 1025 7, by decide +kernel⟩,
   ⟨up, .i3c, [1], by decide +kernel⟩,
   ⟨{ up with sec := { up.sec with scrubbing := true } }, .i3c, some 2, [1], by decide +kernel⟩⟩

/-- The hypotheses of RegisterAccess are met. -/
theorem witness_RegisterAccess :
    (∃ (s : State) (r : Req) (off : Nat) (v : Dword), reachable s r.val = true ∧ s.host.linkLost = false ∧ isReady s = true ∧ off % 4 = 0 ∧ 0x400 ≤ off ∧ off < 0x800) ∧
    (∃ (s : State) (r : Req) (off : Nat) (v : Dword), reachable s r.val = true ∧ s.host.linkLost = false ∧ off % 4 = 0) ∧
    (∃ (s : State) (r : Req) (off : Nat) (w : Nat) (v : Dword), reachable s r.val = true ∧ s.host.linkLost = false ∧ isReady s = true ∧ (pageIndex (off / 0x1000 * 0x1000)).isSome = true ∧ ((off % 4 ≠ 0 ∨ (w ≠ 32 ∧ w ≠ 64)))) ∧
    (∃ (s : State) (r : Req) (off : Nat) (v : Dword), reachable s r.val = true ∧ s.host.linkLost = false ∧ off % 4 = 0 ∧ pageIndex (off / 0x1000 * 0x1000) = none) ∧
    (∃ (s : State) (r : Req) (off : Nat) (v : Dword), reachable s r.val = true ∧ s.host.linkLost = false ∧ off % 4 = 0 ∧ 3 ≤ s.boot.stage ∧ (pageIndex (off / 0x1000 * 0x1000)).isSome = true ∧ pageAnswers s (off / 0x1000 * 0x1000) = false) ∧
    (∃ (s : State) (r : Req) (bar2 : Bool) (off : Nat) (w : Nat) (v : Dword), reachable s r.val = false ∧ s.host.linkLost = false) ∧
    (∃ (s : State) (r : Req) (p : Nat), (pageIndex (p / 0x1000 * 0x1000)).isSome = true ∧ pageAnswers s (p / 0x1000 * 0x1000) = true) ∧
    (∃ (s : State) (p : Nat) (v : Word), (pageIndex (p / 0x1000 * 0x1000)).isSome = true ∧ pageAnswers s (p / 0x1000 * 0x1000) = true) ∧
    (∃ (s : State) (p : Nat) (k : Nat) (v : Word) (st : Word) (en : Word), pageIndex (p / 0x1000 * 0x1000) = some k ∧ pageAnswers s (p / 0x1000 * 0x1000) = true ∧ st = mget s.host.irqStatus 0 (p / 0x1000 * 0x1000) ∧ en = mget s.host.irqEnable 0 (p / 0x1000 * 0x1000) ∧ mget s.host.msixOpen false ((rw s (0x400 + 4 * (64 + k))).toNat % 2048) = true ∧ s.host.d3 = false ∧ s.host.linkLost = false) ∧
    (∃ (s : State) (c : Ctx) (v : Word), isReady s = true ∧ v.getLsbD 0 = true) ∧
    (∃ (s : State) (k : StackId) (v : Word), isReady s = true ∧ v.getLsbD 0 = true) ∧
    (∃ (s : State) (d : DieId) (v : Word), isReady s = true ∧ v.getLsbD 0 = true) ∧
    (∃ (s : State) (c : Ctx) (v : Word), isReady s = true ∧ v.getLsbD 0 = true) ∧
    (∃ (s : State) (r : Req) (v : Word), pageAnswers s 0 = true ∧ slotsOk .hostEvq v.toNat = true) ∧
    (∃ (s : State) (r : Req) (c : Ctx) (v : Word), isReady s = true ∧ (ctxOf s c.val).state ≠ .running ∧ (ctxOf s c.val).state ≠ .draining ∧ (mget s.host.lows none (reqKey r.val (jobBase c.val + 0x80))).getD (rw s (jobBase c.val + 0x80)) &&& 63 = 0) ∧
    (∃ (s : State) (r : Req) (c : Ctx) (v : Word), isReady s = true ∧ (((ctxOf s c.val).state = .running ∨ (ctxOf s c.val).state = .draining))) ∧
    (∃ (s : State) (r : Req) (ch : ChanId) (v : Word), pageAnswers s 0 = true ∧ slotsOk (.dma ch.val) v.toNat = false) ∧
    (∃ (s : State) (p : MsgPath) (eid : Byte), mctpUp s p = true ∧ s.host.linkLost = false) ∧
    (∃ (s : State) (p : MsgPath) (off : Nat), mctpUp s p = true ∧ s.host.linkLost = false) ∧
    (∃ (s : State) (p : MsgPath) (off : Nat) (v : Word), mctpUp s p = true ∧ reachable s (pathReq p) = true ∧ s.host.linkLost = false ∧ isReady s = true ∧ 0x400 ≤ off ∧ off < 0x800 ∧ off % 4 = 0) ∧
    (∃ (s : State) (off : Word) (v : Word), s.boot.aon = true ∧ s.host.linkLost = false ∧ isReady s = true ∧ 0x400 ≤ off.toNat ∧ off.toNat < 0x800 ∧ off.toNat % 4 = 0) ∧
    (∃ (s : State) (n : Nat), s.boot.aon = true) ∧
    (∃ (s : State) (a : BitVec 7), s.boot.aon = true) ∧
    (∃ (s : State) (v : Nat), s.host.msixPend = [(v, true)] ∧ mget s.host.msixOpen false v = true ∧ s.host.linkLost = false) :=
  ⟨⟨up, 6, 0x7FC, 0xFFFFFFFFFFFF, by decide +kernel⟩,
   ⟨up, 6, 0x7FC, 0xFFFFFFFFFFFF, by decide +kernel⟩,
   ⟨up, 4, 0x7101, 32, 5, by decide +kernel⟩,
   ⟨up, 4, 0x9000, 5, by decide +kernel⟩,
   ⟨{ up with boot := { up.boot with stage := 3 } }, 4, 0x7108, 5, by decide +kernel⟩,
   ⟨{ up with boot := { up.boot with perst := true } }, 4, false, 0, 32, 5, by decide +kernel⟩,
   ⟨{ up with host := { up.host with acc := [(0x7000, ⟨7, 4, 2, 0x100⟩)] } }, 4, 0x7020, by decide +kernel⟩,
   ⟨{ up with host := { up.host with irqStatus := [(0x8C000, 0x80000001)] } }, 0x8C014, 1, by decide +kernel⟩,
   ⟨{ up with host := { up.host with irqEnable := [(0, 1)], msixOpen := [(64, true)] } }, 0, 0, 1, 0, 1, by decide +kernel⟩,
   ⟨working, 7, 1, by decide +kernel⟩,
   ⟨{ up with tel := { up.tel with logs := [(hbmPage 11 + 0x180, [[1], [2]])] } }, 11, 1, by decide +kernel⟩,
   ⟨up, 3, 1, by decide +kernel⟩,
   ⟨{ up with rink := { up.rink with merr := [(7, [[1], [2]])] } }, 7, 1, by decide +kernel⟩,
   ⟨up, 4, 65536, by decide +kernel⟩,
   ⟨{ up with host := { up.host with lows := [(reqKey 4 (jobBase 7 + 0x80), some 0xFFFFFFC0)] } }, 4, 7, 5, by decide +kernel⟩,
   ⟨working, 4, 7, 64, by decide +kernel⟩,
   ⟨up, 4, 31, 8192, by decide +kernel⟩,
   ⟨up, .i3c, 9, by decide +kernel⟩,
   ⟨up, .pcie, 0x100, by decide +kernel⟩,
   ⟨up, .pcie, 0x400, 0xFFFFFFFF, by decide +kernel⟩,
   ⟨up, 0x7FC, 0xFFFFFFFF, by decide +kernel⟩,
   ⟨{ up with host := { up.host with i3cOff := 0x100 } }, 2, by decide +kernel⟩,
   ⟨up, 127, by decide +kernel⟩,
   ⟨{ up with host := { up.host with d3 := true, msixPend := [(9, true)], msixOpen := [(9, true)] } }, 9, by decide +kernel⟩⟩

/-- The hypotheses of HostMemoryAndFirmware are met. -/
theorem witness_HostMemoryAndFirmware :
    (∃ (s : State) (r : Req) (hi : Word) (lo : Word), pageAnswers s 0 = true ∧ lo = (mget s.host.lows none (reqKey r.val 0x108)).getD (rw s 0x108) ∧ (lo.toNat + 2 ^ 32 * hi.toNat) % 2 ^ s.host.bar4Log = 0) ∧
    (∃ (s : State) (r : Req) (hi : Word) (lo : Word), pageAnswers s 0 = true ∧ lo = (mget s.host.lows none (reqKey r.val 0x108)).getD (rw s 0x108) ∧ (lo.toNat + 2 ^ 32 * hi.toNat) % 2 ^ s.host.bar4Log ≠ 0) ∧
    (∃ (s : State) (n : Nat), 30 ≤ n ∧ n ≤ 41) ∧
    (∃ (s : State) (off : Nat) (n : Nat) (a : Nat), reachable s 4 = true ∧ s.host.linkLost = false ∧ off + n ≤ 2 ^ s.host.bar4Log ∧ a = rw64 s 0x108 + off ∧ s.mem.upsets = [] ∧ accessBarred s a n = false ∧ poisonedAt s a n = none) ∧
    (∃ (s : State) (off : Nat) (n : Nat) (a : Nat), reachable s 4 = true ∧ s.host.linkLost = false ∧ off + n ≤ 2 ^ s.host.bar4Log ∧ a = rw64 s 0x108 + off ∧ accessBarred s a n = true) ∧
    (∃ (s : State) (off : Nat) (a : Nat) (bs : List Byte), reachable s 4 = true ∧ s.host.linkLost = false ∧ off + bs.length ≤ 2 ^ s.host.bar4Log ∧ a = rw64 s 0x108 + off ∧ accessBarred s a bs.length = false) ∧
    (∃ (s : State) (off : Nat) (a : Nat) (bs : List Byte), reachable s 4 = true ∧ s.host.linkLost = false ∧ off + bs.length ≤ 2 ^ s.host.bar4Log ∧ a = rw64 s 0x108 + off ∧ accessBarred s a bs.length = true) ∧
    (∃ (s : State) (c : Ctx) (i : Nat), i < evqSlots s c.val) ∧
    (∃ (s : State) (i : Nat), i < (rw s 0x128).toNat) ∧
    (∃ (s : State) (i : Nat), (rw s 0x128).toNat ≤ i) ∧
    (∃ (s : State) (ch : ChanId) (i : Nat), i < chanSlots s ch.val) ∧
    (∃ (s : State) (ch : ChanId) (i : Nat), chanSlots s ch.val ≤ i) ∧
    (∃ (s : State) (ch : ChanId) (d : List Byte) (h : Nat) (v : Nat) (n : Nat), dmaReady s ch.val = true ∧ d = s.hostMem.read (rw64 s (chanBase ch.val) + 32 * (chanOf s ch.val).head) 32 ∧ dmaBad ch.val d = false ∧ bit (lat d 0x15 1) 0 = false ∧ h = lat d 0 8 ∧ v = lat d 8 8 ∧ n = lat d 0x10 4 ∧ lat d 0x14 1 = 0 ∧ (if lat d 0x16 1 = 0xFF then accessBarred s v n = false else regionCheck (ctxOf s (lat d 0x16 1)).man 1 v n = none) ∧ (∀ i < n, devAddr (v + i) ≠ none)) ∧
    (∃ (s : State) (ch : ChanId) (d : List Byte) (h : Nat) (v : Nat) (n : Nat), dmaReady s ch.val = true ∧ d = s.hostMem.read (rw64 s (chanBase ch.val) + 32 * (chanOf s ch.val).head) 32 ∧ dmaBad ch.val d = false ∧ bit (lat d 0x15 1) 0 = false ∧ h = lat d 0 8 ∧ v = lat d 8 8 ∧ n = lat d 0x10 4 ∧ lat d 0x14 1 = 1 ∧ (if lat d 0x16 1 = 0xFF then accessBarred s v n = false else regionCheck (ctxOf s (lat d 0x16 1)).man 0 v n = none) ∧ s.mem.upsets = [] ∧ poisonedAt s v n = none ∧ (∀ i < n, isSealed s (v + i) = false)) ∧
    (∃ (s : State) (ch : ChanId) (d : List Byte), dmaReady s ch.val = true ∧ d = s.hostMem.read (rw64 s (chanBase ch.val) + 32 * (chanOf s ch.val).head) 32 ∧ dmaBad ch.val d = true) ∧
    (∃ (s : State) (ch : ChanId) (d : List Byte), dmaReady s ch.val = true ∧ d = s.hostMem.read (rw64 s (chanBase ch.val) + 32 * (chanOf s ch.val).head) 32 ∧ dmaBad ch.val d = false ∧ bit (lat d 0x15 1) 0 = false ∧ lat d 0x16 1 < 8 ∧ (regionCheck (ctxOf s (lat d 0x16 1)).man (if lat d 0x14 1 = 1 then 0 else 1) (lat d 8 8) (lat d 0x10 4)).isSome = true) ∧
    (∃ (s : State) (ch : ChanId) (d : List Byte), dmaReady s ch.val = true ∧ d = s.hostMem.read (rw64 s (chanBase ch.val) + 32 * (chanOf s ch.val).head) 32 ∧ dmaBad ch.val d = false ∧ bit (lat d 0x15 1) 0 = true) ∧
    (∃ (s : State) (ch : ChanId) (d : List Byte) (st : Nat), (chanOf s ch.val).cur = some (d, st) ∧ st ≠ 0 ∧ s.host.d3 = false ∧ s.host.linkLost = false ∧ bit (lat d 0x15 1) 1 = false) ∧
    (∃ (s : State) (r : Req) (b : Bool), pageAnswers s 0 = true ∧ s.host.fw.state = 0) ∧
    (∃ (s : State) (r : Req) (b : Bool), pageAnswers s 0 = true ∧ s.host.fw.state ≠ 0 ∧ s.host.fw.owner ≠ r.val) ∧
    (∃ (s : State) (r : Req) (v : Word), pageAnswers s 0 = true ∧ s.host.fw.state = 1 ∧ s.host.fw.owner = r.val ∧ (rw s 0x134).toNat + 4 ≤ 0x400000) ∧
    (∃ (s : State) (r : Req), pageAnswers s 0 = true ∧ s.host.fw.state = 1 ∧ s.host.fw.owner = r.val) ∧
    (∃ (s : State) (r : Req), pageAnswers s 0 = true ∧ s.host.fw.state = 1 ∧ s.host.fw.owner = r.val ∧ (fwParse s.host.fw.buf).valid = false) ∧
    (∃ (s : State) (r : Req), pageAnswers s 0 = true ∧ s.host.fw.state = 1 ∧ s.host.fw.owner = r.val) ∧
    (∃ (s : State) (b : Bool) (f : FwCopy), s.host.fw.state = 3 ∧ s.host.fw.found = some f) ∧
    (∃ (s : State) (b : Bool), s.host.fw.state = 2) :=
  ⟨⟨{ up with host := { up.host with lows := [(reqKey 4 0x108, some 0)] } }, 4, 0x10, 0, by decide +kernel⟩,
   ⟨{ up with host := { up.host with lows := [(reqKey 4 0x108, some 64)] } }, 4, 0x10, 64, by decide +kernel⟩,
   ⟨setRw up 0x10C 0x10, 41, by decide +kernel⟩,
   ⟨devWrite up none 64 [1, 2], 62, 4, 62, by decide +kernel⟩,
   ⟨setRw up 0x10C 0x90, 0, 4, 0x9000000000, by decide +kernel⟩,
   ⟨setRw up 0x10C 0x100, 4095, 0x10000000FFF, [1, 2], by decide +kernel⟩,
   ⟨setRw up 0x10C 0x90, 0, 0x9000000000, [1], by decide +kernel⟩,
   ⟨setRw up (jobBase 7 + 0x88) 64, 7, 63, by decide +kernel⟩,
   ⟨setRw up 0x128 64, 63, by decide +kernel⟩,
   ⟨setRw up 0x128 64, 64, by decide +kernel⟩,
   ⟨setRw up (chanBase 31 + 8) 16, 31, 15, by decide +kernel⟩,
   ⟨up, 31, 16, by decide +kernel⟩,
   ⟨(fun z => { z with hostMem := z.hostMem.write 0x5000 [1, 2, 3] }) (dmaRing (dmaDesc 0 0 7)), 0, dmaDesc 0 0 7, 0x5000, 32, 70, by decide +kernel⟩,
   ⟨devWrite (dmaRing (dmaDesc 1 0 255)) none 62 [1, 2, 3, 4], 0, dmaDesc 1 0 255, 0x5000, 32, 70, by decide +kernel⟩,
   ⟨dmaRing (dmaDesc 2 0 255), 0, dmaDesc 2 0 255, by decide +kernel⟩,
   ⟨dmaRing (dmaDesc 0 0 6), 0, dmaDesc 0 0 6, by decide +kernel⟩,
   ⟨dmaRing (dmaDesc 0 1 7), 0, dmaDesc 0 1 7, by decide +kernel⟩,
   ⟨updChan (dmaRing (dmaDesc 0 0 7)) 0 (fun k => { k with cur := some (dmaDesc 0 0 7, 3) }), 0, dmaDesc 0 0 7, 3, by decide +kernel⟩,
   ⟨up, 6, true, by decide +kernel⟩,
   ⟨fwOpened 1, 6, true, by decide +kernel⟩,
   ⟨setRw (fwOpened 1) 0x134 0x3FFFFC, 4, 0x12345678, by decide +kernel⟩,
   ⟨fwOpened 1, 4, by decide +kernel⟩,
   ⟨fwOpened 1, 4, by decide +kernel⟩,
   ⟨fwOpened 1, 4, by decide +kernel⟩,
   ⟨fwOpened 3, true, ⟨false, 3, 1, 5, 6⟩, by decide +kernel⟩,
   ⟨fwOpened 2, true, by decide +kernel⟩⟩

/-- The hypotheses of IngestRingAndContexts are met. -/
theorem witness_IngestRingAndContexts :
    (∃ (s : State) (u : State) (c : Ctx) (slot : Nat) (d : List Byte), s.polls c.val false u ∧ ringWindow u c.val false = [slot] ∧ s.mem.upsets = [] ∧ d = devRead s (slotAddr s c.val false slot) 128 ∧ poisonedAt s (slotAddr s c.val false slot) 128 = none ∧ ringOffers u c.val false = some slot ∧ 1 ≤ lat d 0 1 ∧ lat d 0 1 ≤ 4 ∧ (∀ e, lat d 0 1 = 2 → entryOf s c.val (lat d 4 4) = some e → toHost s e d = false ∧ entFlag s e 0 = false)) ∧
    (∃ (s : State) (u : State) (c : Ctx) (a : Nat) (b : Nat) (x : RTask), s.polls c.val false u ∧ ringWindow u c.val false = [a, b] ∧ s.mem.upsets = [] ∧ taskOf s c.val false a = some x ∧ taskOf s c.val false b = none ∧ s.rink.ahead = [] ∧ devNat s (slotAddr s c.val false a + 4) 4 = devNat s (slotAddr s c.val false b + 4) 4) ∧
    (∃ (s : State) (u : State) (c : Ctx) (slot : Nat) (e : Nat) (d : List Byte), s.polls c.val false u ∧ ringWindow u c.val false = [slot] ∧ s.mem.upsets = [] ∧ d = devRead s (slotAddr s c.val false slot) 128 ∧ poisonedAt s (slotAddr s c.val false slot) 128 = none ∧ ringOffers u c.val false = some slot ∧ (ringOf s c.val false).1 + 64 + 128 * (ringOf s c.val false).2 ≤ 0x8FF0000000 ∧ slot < (ringOf s c.val false).2 ∧ s.rink.ahead = [] ∧ entryOf s c.val (lat d 4 4) = some e ∧ e < 2 ^ 18 ∧ entryState s e = 1 ∧ (strmOf s e).enc = false ∧ ingestBad d = false ∧ lat d 0 1 = 2 ∧ ringHead s c.val false = slot ∧ bit (lat d 1 1) 3 = false ∧ bit (lat d 1 1) 4 = false ∧ toHost s e d = true) ∧
    (∃ (s : State) (c : Ctx), (ctxOf s c.val).state ≠ .running) ∧
    (∃ (s : State) (e : Nat) (d : List Byte), entFlag s e 0 = true) ∧
    (∃ (s : State) (c : Ctx) (slot : Nat) (e : Nat) (need : Nat) (cfg : List (Nat × Nat)) (x : RTask), s.rinkSlot c.val false slot x ∧ x.quiet ∧ x.phase = .taken ∧ lat x.d 0 1 = 1 ∧ ingestStatus s x = none ∧ taskEntry s x = some e ∧ e < 2 ^ 18 ∧ s.mem.upsets = [] ∧ cfg = (if lat x.d 0x5C 4 = 0 then [] else [(lat x.d 8 8 + lat x.d 0x58 4, lat x.d 0x5C 4)]) ∧ rangesFault s c.val 0 (cfg ++ [(lat x.d 0x48 8, lat x.d 0x50 8)]) = none ∧ rangesFault s c.val 1 [(lat x.d 0x48 8, lat x.d 0x50 8)] = none ∧ rangesPoison s cfg = none ∧ need = Config.storeNeed (lat x.d 0x40 1) (lat x.d 0x41 1) (lat x.d 0x42 1) (lat x.d 0x44 2) (lat x.d 0x46 2)) ∧
    (∃ (s : State) (c : Ctx) (slot : Nat) (st : Nat) (x : RTask), s.rinkSlot c.val false slot x ∧ x.quiet ∧ x.phase = .taken ∧ lat x.d 0 1 = 1 ∧ ingestStatus s x = some st) ∧
    (∃ (s : State) (c : Ctx) (slot : Nat) (e : Nat) (x : RTask), s.rinkSlot c.val false slot x ∧ x.quiet ∧ x.phase = .taken ∧ lat x.d 0 1 = 4 ∧ ingestStatus s x = none ∧ taskEntry s x = some e ∧ e < 2 ^ 18 ∧ s.rink.ahead = []) ∧
    (∃ (s : State) (c : Ctx) (slot : Nat) (e : Nat) (g : Nat) (i : Nat) (x : RTask), s.rinkSlot c.val false slot x ∧ x.phase = .taken ∧ lat x.d 0 1 = 4 ∧ bit (lat x.d 1 1) 3 = true ∧ bit (lat x.d 1 1) 4 = false ∧ ingestStatus s x = none ∧ taskEntry s x = some e ∧ e < 2 ^ 18 ∧ g = lat x.d 0x38 2 % 512 ∧ i = lat x.d 0x3A 1 ∧ holdsTile s c.val g = true ∧ semGet s g i < 0xFFFF) :=
  ⟨⟨ringed rinky false [ingestOpenD], polled (ringed rinky false [ingestOpenD]) false, 7, 0, ingestOpenD, by constructorm* _ ∧ _ <;> first | with_reducible rfl | decide +kernel | exact fun e h => absurd h (by decide +kernel)⟩,
   ⟨threeSlots, polled (threeSlots) false, 7, 0, 1, { ctx := 7, enc := false, slot := 0, d := decodeD 0 [] }, by decide +kernel⟩,
   ⟨{ streaming (ringed rinky false [decodeD 6 []]) 1 {} with cfg := { rinky.cfg with live := rinky.cfg.live ++ [(0x80100, 2)] } }, polled ({ streaming (ringed rinky false [decodeD 6 []]) 1 {} with cfg := { rinky.cfg with live := rinky.cfg.live ++ [(0x80100, 2)] } }) false, 7, 0, 3, decodeD 6 [], by decide +kernel⟩,
   ⟨up, 7, by decide +kernel⟩,
   ⟨entPut (streaming rinky 1 {}) 3 3 [1], 3, decodeD 4 [], by decide +kernel⟩,
   ⟨rinkTask { ctx := 7, enc := false, slot := 1, d := openCfgD }, 7, 1, 3, Config.storeNeed 4 1 10 64 64, [(0x318040, 16)], { ctx := 7, enc := false, slot := 1, d := openCfgD }, by constructorm* _ ∧ _ <;> first | with_reducible rfl | decide +kernel | rfl⟩,
   ⟨rinkTask { ctx := 7, enc := false, slot := 1, d := fields 128 [(0, [1]), (4, [5])] }, 7, 1, 16, { ctx := 7, enc := false, slot := 1, d := fields 128 [(0, [1]), (4, [5])] }, by decide +kernel⟩,
   ⟨streaming (rinkTask { ctx := 7, enc := false, slot := 0, d := fields 128 [(0, [4]), (4, [5])] }) 1 { count := 3 }, 7, 0, 3, { ctx := 7, enc := false, slot := 0, d := fields 128 [(0, [4]), (4, [5])] }, by decide +kernel⟩,
   ⟨streaming (rinkTask { ctx := 7, enc := false, slot := 0, d := fields 128 [(0, [4, 8]), (4, [5]), (0x38, [240, 1, 255])] }) 1 {}, 7, 0, 3, 496, 255, { ctx := 7, enc := false, slot := 0, d := fields 128 [(0, [4, 8]), (4, [5]), (0x38, [240, 1, 255])] }, by decide +kernel⟩⟩

/-- The hypotheses of DecodeAndShape are met. -/
theorem witness_DecodeAndShape :
    (∃ (s : State) (c : Ctx) (slot : Nat) (e : Nat) (u : MediaUnit) (x : RTask), s.rinkSlot c.val false slot x ∧ x.phase = .taken ∧ lat x.d 0 1 = 2 ∧ ingestStatus s x = none ∧ taskEntry s x = some e ∧ e < 2 ^ 18 ∧ unitFree s u = true ∧ unitClass u = codingClass (entGet s e 1 1) ∧ (u = .adec → adecSlots s + audioSlots s x ≤ 1024) ∧ (bit (lat x.d 1 1) 0 && decide (unitClass u ≠ some 2) && outBad x.d) = false ∧ s.mem.upsets = [] ∧ rangesFault s c.val 0 [(lat x.d 8 8, lat x.d 0x10 4), (entGet s e 0x10 8, entGet s e 0x18 8)] = none ∧ rangesFault s c.val 1 [(entGet s e 0x10 8, entGet s e 0x18 8)] = none ∧ rangesPoison s [(lat x.d 8 8, lat x.d 0x10 4), (entGet s e 0x10 8, entGet s e 0x18 8)] = none) ∧
    (∃ (s : State) (c : Ctx) (slot : Nat) (u : MediaUnit) (x : RTask), s.rinkSlot c.val false slot x ∧ x.phase = .taken ∧ lat x.d 0 1 = 2 ∧ ingestStatus s x = none ∧ unitFree s u = false) ∧
    (∃ (s : State) (c : Ctx) (slot : Nat) (e : Nat) (u : MediaUnit) (f : Finding) (j : Judged) (x : RTask), s.rinkSlot c.val false slot x ∧ x.quiet ∧ x.phase = .decoding ∧ x.unit = some u ∧ taskEntry s x = some e ∧ e < 2 ^ 18 ∧ entryState s e = 2 ∧ bit (lat x.d 1 1) 0 = false ∧ lat x.d 0 1 = 2 ∧ overLimit s e (decide (unitClass u = some 2)) f = false ∧ j = judge s e (entGet s e 1 1) x.frame x.coded f ∧ j.damage = [] ∧ j.missing = false ∧ x.frame < 2 ^ 32 ∧ (∀ i < 64, offRange (entGet s e 0x10 8, entGet s e 0x18 8) (entryAddr e + i))) ∧
    (∃ (s : State) (c : Ctx) (slot : Nat) (e : Nat) (u : MediaUnit) (f : Finding) (y : Damage) (j : Judged) (x : RTask), s.rinkSlot c.val false slot x ∧ x.quiet ∧ x.phase = .decoding ∧ x.unit = some u ∧ taskEntry s x = some e ∧ e < 2 ^ 18 ∧ entryState s e = 2 ∧ bit (lat x.d 1 1) 0 = false ∧ lat x.d 0 1 = 2 ∧ overLimit s e (decide (unitClass u = some 2)) f = false ∧ j = judge s e (entGet s e 1 1) x.frame x.coded f ∧ j.damage = [y] ∧ j.missing = false ∧ (∀ i < 64, offRange (entGet s e 0x10 8, entGet s e 0x18 8) (entryAddr e + i)) ∧ mget s.rink.merr [] c.val ≠ [] ∧ (mget s.rink.merr [] c.val).length < 256) ∧
    (∃ (s : State) (c : Ctx) (slot : Nat) (e : Nat) (u : MediaUnit) (f : Finding) (j : Judged) (x : RTask), s.rinkSlot c.val false slot x ∧ x.phase = .decoding ∧ x.unit = some u ∧ taskEntry s x = some e ∧ bit (lat x.d 1 1) 0 = true ∧ unitClass u ≠ some 2 ∧ overLimit s e false f = false ∧ x.hostShape = false ∧ s.mem.upsets = [] ∧ rangesFault s c.val 0 [(lat x.d 0x30 8, 192)] = none ∧ rangesPoison s [(lat x.d 0x30 8, 192)] = none ∧ blockBad s x false f.width f.height (Config.audioFormat (strmOf s e).config x.coded).2.1 = false ∧ lat x.d 2 1 = 0 ∧ j = judge s e (entGet s e 1 1) x.frame x.coded f) ∧
    (∃ (s : State) (c : Ctx) (slot : Nat) (e : Nat) (u : MediaUnit) (f : Finding) (x : RTask), s.rinkSlot c.val false slot x ∧ x.quiet ∧ x.phase = .decoding ∧ x.unit = some u ∧ taskEntry s x = some e ∧ e < 2 ^ 18 ∧ overLimit s e (decide (unitClass u = some 2)) f = true) ∧
    (∃ (s : State) (c : Ctx) (slot : Nat) (n : Fin 8) (x : RTask), taskOf s c.val false slot = some x ∧ x.phase = .decoded ∧ s.mem.upsets = [] ∧ unitFree s (.shap n) = true ∧ rangesFault s c.val 0 (shapeReads s x) = none ∧ rangesPoison s (shapeReads s x) = none) ∧
    (∃ (s : State) (c : Ctx) (slot : Nat) (e : Nat) (n : Fin 8) (x : RTask) (y : RTask), s.rinkSlot c.val false slot x ∧ x.phase = .taken ∧ lat x.d 0 1 = 3 ∧ unitFree s (.shap n) = true ∧ ingestStatus s x = none ∧ taskEntry s x = some e ∧ e < 2 ^ 18 ∧ x.hostShape = false ∧ outBad x.d = false ∧ blockBad s x false (lat x.d 0x44 2) (lat x.d 0x46 2) 0 = false ∧ s.mem.upsets = [] ∧ rangesFault s c.val 0 (shapeReads s x) = none ∧ rangesPoison s (shapeReads s x) = none ∧ y = { x with frame := entGet s e 8 4 }) ∧
    (∃ (s : State) (c : Ctx) (slot : Nat) (a : Nat) (y : Nat) (n : Fin 8) (blk : List Byte) (x : RTask), s.rinkSlot c.val false slot x ∧ x.quiet ∧ x.phase = .shaping ∧ x.unit = some (.shap n) ∧ x.found = none ∧ dropped x = false ∧ lat x.d 3 1 = 0 ∧ blk = devRead s (lat x.d 0x30 8) 192 ∧ rangesFault s c.val 1 (outRows x.d blk) = none ∧ lat x.d 0x2C 2 * 32 * blkSize blk ≤ lat x.d 0x28 4 ∧ lat x.d 0x20 8 + lat x.d 0x2E 2 * lat x.d 0x28 4 ≤ (ringOf s c.val false).1 ∧ y < lat x.d 0x2E 2 ∧ a = lat x.d 0x20 8 + y * lat x.d 0x28 4) ∧
    (∃ (s : State) (c : Ctx) (slot : Nat) (e : Nat) (a : Nat) (y : Nat) (n : Fin 8) (u : MediaUnit) (f : Finding) (j : Judged) (blk : List Byte) (x : RTask), s.rinkSlot c.val false slot x ∧ x.quiet ∧ x.phase = .shaping ∧ x.unit = some (.shap n) ∧ x.found = some (f, j) ∧ x.dec = some u ∧ x.recs = [] ∧ taskEntry s x = some e ∧ e < 2 ^ 18 ∧ entryState s e = 2 ∧ x.frame < 2 ^ 32 ∧ dropped x = false ∧ lat x.d 3 1 = 0 ∧ blk = devRead s (lat x.d 0x30 8) 192 ∧ rangesFault s c.val 1 (outRows x.d blk) = none ∧ lat x.d 0x2C 2 * 32 * blkSize blk ≤ lat x.d 0x28 4 ∧ lat x.d 0x20 8 + lat x.d 0x2E 2 * lat x.d 0x28 4 ≤ (ringOf s c.val false).1 ∧ y < lat x.d 0x2E 2 ∧ a = lat x.d 0x20 8 + y * lat x.d 0x28 4 ∧ (∀ i < 64, offRange (entGet s e 0x10 8, entGet s e 0x18 8) (entryAddr e + i)) ∧ (∀ i < lat x.d 0x2C 2 * 32 * blkSize blk, offRange (entGet s e 0x10 8, entGet s e 0x18 8) (a + i))) :=
  ⟨⟨streaming (rinkTask { ctx := 7, enc := false, slot := 1, d := decodeD 0 [] }) 1 {}, 7, 1, 3, .vdec 0, { ctx := 7, enc := false, slot := 1, d := decodeD 0 [] }, by decide +kernel⟩,
   ⟨(fun z => { z with rink := { z.rink with units := [(unitKey (.vdec 0), { out := true })] } }) (streaming (rinkTask { ctx := 7, enc := false, slot := 1, d := decodeD 0 [] }) 1 {}), 7, 1, .vdec 0, { ctx := 7, enc := false, slot := 1, d := decodeD 0 [] }, by decide +kernel⟩,
   ⟨tiny (streaming (rinkTask { ctx := 7, enc := false, slot := 1, d := decodeD 0 [], phase := .decoding, unit := some (.vdec 0), frame := 9 }) 2 {}), 7, 1, 3, .vdec 0, finding 64 [], unhurt, { ctx := 7, enc := false, slot := 1, d := decodeD 0 [], phase := .decoding, unit := some (.vdec 0), frame := 9 }, by decide +kernel⟩,
   ⟨(fun z => { z with rink := { z.rink with merr := [(7, [[1]])] } }) (tiny (streaming (rinkTask { ctx := 7, enc := false, slot := 1, d := decodeD 0 [], phase := .decoding, unit := some (.vdec 0), frame := 9 }) 2 {})), 7, 1, 3, .vdec 0, finding 64 [⟨7, 2, 1, 3⟩], ⟨7, 2, 1, 3⟩, ⟨[⟨7, 2, 1, 3⟩], false, true, true, none, false⟩, { ctx := 7, enc := false, slot := 1, d := decodeD 0 [], phase := .decoding, unit := some (.vdec 0), frame := 9 }, by decide +kernel⟩,
   ⟨devWrite (streaming (rinkTask { ctx := 7, enc := false, slot := 1, d := decodeD 1 [(0x20, leBytes 8 0x80000), (0x28, [128, 0, 0, 0, 2, 0, 1, 0]), (0x30, leBytes 8 0x90000)], phase := .decoding, unit := some (.vdec 0), frame := 9 }) 2 {}) none 0x90000 shapeBlk, 7, 1, 3, .vdec 0, finding 64 [], unhurt, { ctx := 7, enc := false, slot := 1, d := decodeD 1 [(0x20, leBytes 8 0x80000), (0x28, [128, 0, 0, 0, 2, 0, 1, 0]), (0x30, leBytes 8 0x90000)], phase := .decoding, unit := some (.vdec 0), frame := 9 }, by decide +kernel⟩,
   ⟨streaming (rinkTask { ctx := 7, enc := false, slot := 1, d := decodeD 0 [], phase := .decoding, unit := some (.vdec 0), frame := 9 }) 2 {}, 7, 1, 3, .vdec 0, finding 65 [], { ctx := 7, enc := false, slot := 1, d := decodeD 0 [], phase := .decoding, unit := some (.vdec 0), frame := 9 }, by decide +kernel⟩,
   ⟨rinkTask { ctx := 7, enc := false, slot := 1, d := decodeD 1 [(0x30, leBytes 8 0x90000)], phase := .decoded }, 7, 1, 7, { ctx := 7, enc := false, slot := 1, d := decodeD 1 [(0x30, leBytes 8 0x90000)], phase := .decoded }, by decide +kernel⟩,
   ⟨devWrite (streaming (rinkTask { ctx := 7, enc := false, slot := 1, d := shapeD }) 1 {}) none 0x90000 shapeBlk, 7, 1, 3, 0, { ctx := 7, enc := false, slot := 1, d := shapeD }, { ctx := 7, enc := false, slot := 1, d := shapeD }, by decide +kernel⟩,
   ⟨devWrite (devWrite (streaming (rinkTask { ctx := 7, enc := false, slot := 1, d := shapeD, phase := .shaping, unit := some (.shap 0), frame := 2 }) 2 {}) none 0x90000 shapeBlk) none 0x320000 [255, 0, 51, 0], 7, 1, 0x80000, 0, 0, shapeBlk, { ctx := 7, enc := false, slot := 1, d := shapeD, phase := .shaping, unit := some (.shap 0), frame := 2 }, by decide +kernel⟩,
   ⟨devWrite (tiny (streaming (rinkTask { ctx := 7, enc := false, slot := 1, d := decodeD 1 [(0x20, leBytes 8 0x80000), (0x28, [128, 0, 0, 0, 2, 0, 1, 0]), (0x30, leBytes 8 0x90000)], phase := .shaping, unit := some (.shap 0), dec := some (.vdec 0), found := some (finding 64 [], unhurt), frame := 2, geom := (64, 64, 1, 10) }) 2 {})) none 0x90000 shapeBlk, 7, 1, 3, 0x80000, 0, 0, .vdec 0, finding 64 [], unhurt, shapeBlk, { ctx := 7, enc := false, slot := 1, d := decodeD 1 [(0x20, leBytes 8 0x80000), (0x28, [128, 0, 0, 0, 2, 0, 1, 0]), (0x30, leBytes 8 0x90000)], phase := .shaping, unit := some (.shap 0), dec := some (.vdec 0), found := some (finding 64 [], unhurt), frame := 2, geom := (64, 64, 1, 10) }, by decide +kernel⟩⟩

/-- The hypotheses of EncodePictures are met. -/
theorem witness_EncodePictures :
    (∃ (s : State) (u : State) (c : Ctx) (slot : Nat) (d : List Byte), s.polls c.val true u ∧ ringWindow u c.val true = [slot] ∧ s.mem.upsets = [] ∧ d = devRead s (slotAddr s c.val true slot) 128 ∧ poisonedAt s (slotAddr s c.val true slot) 128 = none ∧ ringOffers u c.val true = some slot ∧ 1 ≤ lat d 0 1 ∧ lat d 0 1 ≤ 3) ∧
    (∃ (s : State) (u : State) (c : Ctx) (slot : Nat) (d : List Byte), s.polls c.val true u ∧ ringWindow u c.val true = [slot] ∧ s.mem.upsets = [] ∧ d = devRead s (slotAddr s c.val true slot) 128 ∧ poisonedAt s (slotAddr s c.val true slot) 128 = none ∧ ringOffers u c.val true = some slot ∧ (ringOf s c.val true).1 + 64 + 128 * (ringOf s c.val true).2 ≤ 0x8FF0000000 ∧ slot < (ringOf s c.val true).2 ∧ s.rink.ahead = [] ∧ (lat d 0 1 < 1 ∨ 3 < lat d 0 1) ∧ bit (lat d 1 1) 3 = false ∧ bit (lat d 1 1) 4 = false) ∧
    (∃ (s : State) (c : Ctx) (slot : Nat) (e : Nat) (st : Nat) (x : RTask), s.rinkSlot c.val true slot x ∧ x.quiet ∧ x.phase = .taken ∧ lat x.d 0 1 = 1 ∧ encodeStatus s x = none ∧ taskEntry s x = some e ∧ e < 2 ^ 18 ∧ rangesFault s c.val 0 [(encF x.d 0x38 8, encF x.d 0x40 8)] = none ∧ rangesFault s c.val 1 [(encF x.d 0x38 8, encF x.d 0x40 8)] = none ∧ st = (if (modelCheck x.d).isSome then 0x14 else if encF x.d 0x40 8 < encNeed x.d then 0x12 else 1)) ∧
    (∃ (s : State) (c : Ctx) (slot : Nat) (k : Nat) (x : RTask), s.rinkSlot c.val true slot x ∧ x.quiet ∧ x.phase = .taken ∧ lat x.d 0 1 = 1 ∧ encodeStatus s x = none ∧ modelCheck x.d = some k) ∧
    (∃ (s : State) (c : Ctx) (slot : Nat) (e : Nat) (n : Fin 4) (x : RTask) (m : Strm), s.rinkSlot c.val true slot x ∧ x.phase = .taken ∧ lat x.d 0 1 = 2 ∧ encodeStatus s x = none ∧ taskEntry s x = some e ∧ e < 2 ^ 18 ∧ unitFree s (.venc n) = true ∧ m = strmOf s e ∧ (∀ i < 4, bit (lat x.d 3 1) i = true → mget m.ltr 0 i ≠ 0) ∧ (encF m.open_ 0x33 1 = 1 → lat x.d 0x30 4 = 0) ∧ cdiv (encF m.open_ 0x4C 4) 8 ≤ lat x.d 0x18 4 ∧ s.mem.upsets = [] ∧ rangesFault s c.val 0 (encodeReads m.open_ x.d) = none ∧ rangesPoison s (encodeReads m.open_ x.d) = none ∧ rangesFault s c.val 1 ((if bit (lat x.d 1 1) 2 = true then [(lat x.d 0x20 8, statBytes m.open_)] else []) ++ [(encF m.open_ 0x38 8, encF m.open_ 0x40 8)]) = none ∧ encF m.open_ 0x59 1 ≤ encF m.open_ 0x5A 1) ∧
    (∃ (s : State) (c : Ctx) (slot : Nat) (e : Nat) (n : Fin 4) (x : RTask) (m : Strm), s.rinkSlot c.val true slot x ∧ x.quiet ∧ x.phase = .taken ∧ lat x.d 0 1 = 2 ∧ encodeStatus s x = none ∧ taskEntry s x = some e ∧ unitFree s (.venc n) = true ∧ m = strmOf s e ∧ (∀ i < 4, bit (lat x.d 3 1) i = true → mget m.ltr 0 i ≠ 0) ∧ (encF m.open_ 0x33 1 = 1 → lat x.d 0x30 4 = 0) ∧ lat x.d 0x18 4 < cdiv (encF m.open_ 0x4C 4) 8) ∧
    (∃ (s : State) (c : Ctx) (slot : Nat) (e : Nat) (bits : Nat) (x : RTask) (m : Strm), taskOf s c.val true slot = some x ∧ taskEntry s x = some e ∧ x.phase = .encoding ∧ m = strmOf s e ∧ bits = attemptBits m x (asAsked x) ∧ bits ≤ m.full) ∧
    (∃ (s : State) (c : Ctx) (slot : Nat) (e : Nat) (bits : Nat) (x : RTask) (m : Strm), taskOf s c.val true slot = some x ∧ taskEntry s x = some e ∧ x.phase = .encoding ∧ m = strmOf s e ∧ bits = attemptBits m x (asAsked x) ∧ m.full < bits ∧ x.qp < encF m.open_ 0x5A 1 ∧ x.attempts < 3) ∧
    (∃ (s : State) (c : Ctx) (slot : Nat) (e : Nat) (x : RTask) (m : Strm), taskOf s c.val true slot = some x ∧ taskEntry s x = some e ∧ x.phase = .encoding ∧ m = strmOf s e ∧ m.full < attemptBits m x (asAsked x) ∧ (encF m.open_ 0x5A 1 ≤ x.qp ∨ 3 ≤ x.attempts)) ∧
    (∃ (s : State) (c : Ctx) (slot : Nat) (e : Nat) (fill : Nat) (lev : Nat) (au : List Byte) (n : Fin 4) (x : RTask) (m : Strm), s.rinkSlot c.val true slot x ∧ x.quiet ∧ x.phase = .coded ∧ x.unit = some (.venc n) ∧ taskEntry s x = some e ∧ e < 2 ^ 18 ∧ entryState s e = 2 ∧ m = strmOf s e ∧ bit (lat x.d 1 1) 2 = false ∧ fill = fillBytes m.open_ x.bits (bMin m.open_ m.full m.count) ∧ au = x.out ++ fillerUnit m.open_ fill ∧ rangesFault s c.val 1 [(lat x.d 0x10 8, au.length)] = none ∧ lat x.d 0x10 8 + au.length ≤ (ringOf s c.val true).1 ∧ (∀ i < 64, offRange (encF m.open_ 0x38 8, encF m.open_ 0x40 8) (entryAddr e + i)) ∧ (∀ i < au.length, offRange (encF m.open_ 0x38 8, encF m.open_ 0x40 8) (lat x.d 0x10 8 + i)) ∧ lev = min (encF m.open_ 0x4C 4) (m.full - (x.bits + 8 * fill) + arrival m.open_ m.count)) ∧
    (∃ (o : List Byte) (n : Nat), (encF o 0x30 1 = 2 → 6 ≤ n) ∧ 2 ≤ n) ∧
    (∃ (s : State) (c : Ctx) (slot : Nat) (e : Nat) (au : List Byte) (n : Fin 4) (x : RTask) (m : Strm), s.rinkSlot c.val true slot x ∧ x.quiet ∧ x.phase = .coded ∧ x.unit = some (.venc n) ∧ taskEntry s x = some e ∧ e < 2 ^ 18 ∧ entryState s e = 2 ∧ m = strmOf s e ∧ bit (lat x.d 1 1) 2 = true ∧ au = x.out ++ fillerUnit m.open_ (fillBytes m.open_ x.bits (bMin m.open_ m.full m.count)) ∧ rangesFault s c.val 1 [(lat x.d 0x10 8, au.length)] = none ∧ lat x.d 0x10 8 + au.length ≤ lat x.d 0x20 8 ∧ lat x.d 0x20 8 + statBytes m.open_ ≤ (ringOf s c.val true).1 ∧ (∀ i < au.length, offRange (encF m.open_ 0x38 8, encF m.open_ 0x40 8) (lat x.d 0x10 8 + i)) ∧ (∀ i < statBytes m.open_, offRange (encF m.open_ 0x38 8, encF m.open_ 0x40 8) (lat x.d 0x20 8 + i))) ∧
    (∃ (s : State) (c : Ctx) (slot : Nat) (e : Nat) (x : RTask) (m : Strm), s.rinkSlot c.val true slot x ∧ x.quiet ∧ x.phase = .taken ∧ lat x.d 0 1 = 3 ∧ encodeStatus s x = none ∧ taskEntry s x = some e ∧ e < 2 ^ 18 ∧ m = strmOf s e ∧ rangesFault s c.val 1 (endAt m) = none ∧ (∀ p ∈ endAt m, p.1 + 6 ≤ (ringOf s c.val true).1)) :=
  ⟨⟨ringed rinky true [encodeOpenD], polled (ringed rinky true [encodeOpenD]) true, 7, 0, encodeOpenD, by decide +kernel⟩,
   ⟨ringed rinky true [5 :: encodeOpenD.tail], polled (ringed rinky true [5 :: encodeOpenD.tail]) true, 7, 0, 5 :: encodeOpenD.tail, by decide +kernel⟩,
   ⟨rinkTask { ctx := 7, enc := true, slot := 1, d := encodeOpenD }, 7, 1, 3, (if (modelCheck encodeOpenD).isSome then 0x14 else if encF encodeOpenD 0x40 8 < encNeed encodeOpenD then 0x12 else 1), { ctx := 7, enc := true, slot := 1, d := encodeOpenD }, by repeat' first | refine ⟨by decide +kernel, ?_⟩ | rfl⟩,
   ⟨rinkTask { ctx := 7, enc := true, slot := 1, d := fields 128 [(0, [1]), (4, [5])] }, 7, 1, 1, { ctx := 7, enc := true, slot := 1, d := fields 128 [(0, [1]), (4, [5])] }, by decide +kernel⟩,
   ⟨streaming (rinkTask { ctx := 7, enc := true, slot := 1, d := encodeD 1 }) 1 encStrm, 7, 1, 3, 3, { ctx := 7, enc := true, slot := 1, d := encodeD 1 }, encStrm, by decide +kernel⟩,
   ⟨streaming (rinkTask { ctx := 7, enc := true, slot := 1, d := (encodeD 0).take 0x18 ++ [0, 0] ++ (encodeD 0).drop 0x1A }) 1 encStrm, 7, 1, 3, 3, { ctx := 7, enc := true, slot := 1, d := (encodeD 0).take 0x18 ++ [0, 0] ++ (encodeD 0).drop 0x1A }, encStrm, by decide +kernel⟩,
   ⟨streaming (rinkTask { ctx := 7, enc := true, slot := 1, d := encodeD 0, phase := .encoding, qp := 20, attempts := 1 }) 2 { encStrm with full := attemptBits encStrm { ctx := 7, enc := true, slot := 1, d := encodeD 0, phase := .encoding, qp := 20, attempts := 1 } (asAsked { ctx := 7, enc := true, slot := 1, d := encodeD 0, phase := .encoding, qp := 20, attempts := 1 }) }, 7, 1, 3, _, { ctx := 7, enc := true, slot := 1, d := encodeD 0, phase := .encoding, qp := 20, attempts := 1 }, { encStrm with full := attemptBits encStrm { ctx := 7, enc := true, slot := 1, d := encodeD 0, phase := .encoding, qp := 20, attempts := 1 } (asAsked { ctx := 7, enc := true, slot := 1, d := encodeD 0, phase := .encoding, qp := 20, attempts := 1 }) }, by decide +kernel, by decide +kernel, rfl, rfl, rfl, le_rfl⟩,
   ⟨streaming (rinkTask { ctx := 7, enc := true, slot := 1, d := encodeD 0, phase := .encoding, qp := 20, attempts := 1 }) 2 { encStrm with full := 0 }, 7, 1, 3, _, { ctx := 7, enc := true, slot := 1, d := encodeD 0, phase := .encoding, qp := 20, attempts := 1 }, { encStrm with full := 0 }, by decide +kernel, by decide +kernel, rfl, rfl, rfl, attempt_pos _ _, by decide +kernel, by decide⟩,
   ⟨streaming (rinkTask { ctx := 7, enc := true, slot := 1, d := encodeD 0, phase := .encoding, qp := 200, attempts := 2 }) 2 { encStrm with full := 0 }, 7, 1, 3, { ctx := 7, enc := true, slot := 1, d := encodeD 0, phase := .encoding, qp := 200, attempts := 2 }, { encStrm with full := 0 }, by decide +kernel, by decide +kernel, rfl, rfl, attempt_pos _ _, .inl (by decide +kernel)⟩,
   ⟨streaming (rinkTask { ctx := 7, enc := true, slot := 1, d := encodeD 0, phase := .coded, unit := some (.venc 3), bits := 24, qp := 200, attempts := 2, out := [1, 2, 3] }) 2 encStrm, 7, 1, 3, 0, min 300000 (60000 - 24 + arrival encodeOpenD 2), [1, 2, 3], 3, { ctx := 7, enc := true, slot := 1, d := encodeD 0, phase := .coded, unit := some (.venc 3), bits := 24, qp := 200, attempts := 2, out := [1, 2, 3] }, encStrm, by decide +kernel⟩,
   ⟨List.replicate 128 2, 6, by decide⟩,
   ⟨streaming (rinkTask { ctx := 7, enc := true, slot := 1, d := encodeD 4, phase := .coded, unit := some (.venc 3), bits := 24, qp := 200, attempts := 2, out := [1, 2, 3] }) 2 encStrm, 7, 1, 3, [1, 2, 3], 3, { ctx := 7, enc := true, slot := 1, d := encodeD 4, phase := .coded, unit := some (.venc 3), bits := 24, qp := 200, attempts := 2, out := [1, 2, 3] }, encStrm, by decide +kernel⟩,
   ⟨streaming (rinkTask { ctx := 7, enc := true, slot := 1, d := fields 128 [(0, [3]), (4, [5])] }) 1 { encStrm with open_ := encodeOpenD.take 0x30 ++ [2] ++ encodeOpenD.drop 0x31, tail := (0x80000, 6) }, 7, 1, 3, { ctx := 7, enc := true, slot := 1, d := fields 128 [(0, [3]), (4, [5])] }, { encStrm with open_ := encodeOpenD.take 0x30 ++ [2] ++ encodeOpenD.drop 0x31, tail := (0x80000, 6) }, by decide +kernel⟩⟩

/-- The hypotheses of PostCommands are met. -/
theorem witness_PostCommands :
    (∃ (s : State) (d : DieId) (c : Nat) (slot : Nat) (w : List Word), mget s.post.run none d.val = none ∧ s.pwr.state = .active ∧ s.mem.upsets = [] ∧ ((List.range 8).map (fun i => (mget s.post.rr 7 d.val + 1 + i) % 8)).find? (postWork s d.val) = some c ∧ slot = postHead s d.val c ∧ regionCheck (ctxOf s c).man 1 (postRing s d.val c).1 64 = none ∧ regionCheck (ctxOf s c).man 0 ((postRing s d.val c).1 + 64 + 64 * slot) 64 = none ∧ poisonedAt s ((postRing s d.val c).1 + 64 + 64 * slot) 64 = none ∧ w = postWords s d.val c slot ∧ (bit (postF w 13 31 31) 0 && !holdsTile s c (postF w 13 30 22)) = false ∧ postBad w = false ∧ (postInputs w).findSome? (fun r => regionCheck (ctxOf s c).man 0 r.1 r.2) = none ∧ (postInputs w).findSome? (fun r => poisonedAt s r.1 r.2) = none) ∧
    (∃ (s : State) (d : DieId) (c : Nat) (slot : Nat) (w : List Word), mget s.post.run none d.val = none ∧ s.pwr.state = .active ∧ s.mem.upsets = [] ∧ ((List.range 8).map (fun i => (mget s.post.rr 7 d.val + 1 + i) % 8)).find? (postWork s d.val) = some c ∧ slot = postHead s d.val c ∧ regionCheck (ctxOf s c).man 1 (postRing s d.val c).1 64 = none ∧ regionCheck (ctxOf s c).man 0 ((postRing s d.val c).1 + 64 + 64 * slot) 64 = none ∧ poisonedAt s ((postRing s d.val c).1 + 64 + 64 * slot) 64 = none ∧ w = postWords s d.val c slot ∧ (bit (postF w 13 31 31) 0 && !holdsTile s c (postF w 13 30 22)) = false ∧ postBad w = true) ∧
    (∃ (s : State) (d : DieId) (c : Nat) (slot : Nat) (w : List Word), mget s.post.run none d.val = none ∧ s.pwr.state = .active ∧ s.mem.upsets = [] ∧ ((List.range 8).map (fun i => (mget s.post.rr 7 d.val + 1 + i) % 8)).find? (postWork s d.val) = some c ∧ slot = postHead s d.val c ∧ regionCheck (ctxOf s c).man 1 (postRing s d.val c).1 64 = none ∧ regionCheck (ctxOf s c).man 0 ((postRing s d.val c).1 + 64 + 64 * slot) 64 = none ∧ poisonedAt s ((postRing s d.val c).1 + 64 + 64 * slot) 64 = none ∧ w = postWords s d.val c slot ∧ postF w 13 31 31 = 1 ∧ holdsTile s c (postF w 13 30 22) = false ∧ (ctxOf s c).loaded = true) ∧
    (∃ (s : State) (d : DieId), mget s.post.run none d.val ≠ none) ∧
    (∃ (s : State) (d : DieId) (n : Nat) (p : List Byte) (r : PostRun), mget s.post.run none d.val = some r ∧ r.result = none ∧ postF r.w 0 31 28 = 2 ∧ n = postF r.w 12 16 0 ∧ p = devRead s (postAddr r.w 2) 64) ∧
    (∃ (s : State) (d : DieId) (n : Nat) (p : List Byte) (r : PostRun), mget s.post.run none d.val = some r ∧ r.result = none ∧ postF r.w 0 31 28 = 1 ∧ n = postF r.w 12 16 0 ∧ p = devRead s (postAddr r.w 2) 64) ∧
    (∃ (s : State) (d : DieId) (w14 : Nat) (w15 : Nat) (recs : List (List Byte)) (r : PostRun), mget s.post.run none d.val = some r ∧ r.result = some (recs, w14, w15) ∧ regionCheck (ctxOf s r.ctx).man 1 (postAddr r.w 10) recs.flatten.length = none ∧ regionCheck (ctxOf s r.ctx).man 1 ((postRing s d.val r.ctx).1 + 64 + 64 * r.slot + 56) 8 = none ∧ postF r.w 13 31 31 = 0 ∧ postAddr r.w 10 + recs.flatten.length ≤ (postRing s d.val r.ctx).1 ∧ r.slot < (postRing s d.val r.ctx).2 ∧ w14 < 2 ^ 32 ∧ w15 < 2 ^ 32 ∧ (postRing s d.val r.ctx).1 + 64 + 64 * (postRing s d.val r.ctx).2 ≤ 0x9000000000) ∧
    (∃ (s : State) (d : DieId) (w14 : Nat) (w15 : Nat) (g : Nat) (i : Nat) (recs : List (List Byte)) (r : PostRun), mget s.post.run none d.val = some r ∧ r.result = some (recs, w14, w15) ∧ regionCheck (ctxOf s r.ctx).man 1 (postAddr r.w 10) recs.flatten.length = none ∧ regionCheck (ctxOf s r.ctx).man 1 ((postRing s d.val r.ctx).1 + 64 + 64 * r.slot + 56) 8 = none ∧ postF r.w 13 31 31 = 1 ∧ g = postF r.w 13 30 22 ∧ i = postF r.w 13 21 14 ∧ holdsTile s r.ctx g = true ∧ semGet s g i < 0xFFFF) :=
  ⟨⟨postQueued (postCmd 0) 0x3F000000, 0, 7, 0, postCmd 0, by decide +kernel⟩,
   ⟨postQueued (postCmd 1) 0x3F000000, 0, 7, 0, postCmd 1, by decide +kernel⟩,
   ⟨postQueued (postCmd 0x80000000) 0x3F000000, 0, 7, 0, postCmd 0x80000000, by decide +kernel⟩,
   ⟨postRun ⟨7, 0, postCmd 0, none⟩, 0, by decide +kernel⟩,
   ⟨postRun ⟨7, 0, postCmd 0, none⟩, 0, 1, List.replicate 64 0, ⟨7, 0, postCmd 0, none⟩, by decide +kernel⟩,
   ⟨postRun ⟨7, 0, 0x10000001 :: (postCmd 0).tail, none⟩, 0, 1, List.replicate 64 0, ⟨7, 0, 0x10000001 :: (postCmd 0).tail, none⟩, by decide +kernel⟩,
   ⟨postRun ⟨7, 1, postCmd 0, some ([List.replicate 32 5], 0x80000001, 3)⟩, 0, 0x80000001, 3, [List.replicate 32 5], ⟨7, 1, postCmd 0, some ([List.replicate 32 5], 0x80000001, 3)⟩, by decide +kernel⟩,
   ⟨postRun ⟨7, 1, postCmd 0xFC3FC000, some ([], 0x80000000, 0)⟩, 0, 0x80000000, 0, 496, 255, [], ⟨7, 1, postCmd 0xFC3FC000, some ([], 0x80000000, 0)⟩, by decide +kernel⟩⟩

end Sys2Proof.Tests
end

section
/-! The power controller and the brake (R24, R400, R420): what a tick of the controller makes of the ceiling and its
cause, and that the brake holds every clock at 0.60 GHz. -/

namespace Sys2Proof.Proofs

open Sys2Proof Sys2Proof.Machine Sys2Proof.Laws

/-! ### Lowering the clocks -/

@[simp] theorem lowerClocks_ceil (s : State) : (lowerClocks s).pwr.ceil = s.pwr.ceil :=
  have ⟨⟨_, ceil, _, _⟩, _⟩ := lowerClocks_pairs s
  ceil
@[simp] theorem lowerClocks_ceilCause (s : State) : (lowerClocks s).pwr.ceilCause = s.pwr.ceilCause :=
  have ⟨⟨_, _, cause, _⟩, _⟩ := lowerClocks_pairs s
  cause
@[simp] theorem lowerClocks_brake (s : State) : (lowerClocks s).pwr.brake = s.pwr.brake :=
  have ⟨⟨_, _, _, brake⟩, _⟩ := lowerClocks_pairs s
  brake

/-- What every change of a single pair keeps, lowering the clocks keeps. -/
theorem lowerClocks_keeps {P : State → Prop} {s : State} (start : P s) (keeps : ∀ t p f, P t → P (updPair t p f)) :
    P (lowerClocks s) := by
  unfold lowerClocks forEach
  exact List.foldlRecOn _ _ start fun t h p _ => keeps t p _ h

@[simp] theorem lowerClocks_watts (s : State) : (lowerClocks s).pwr.watts = s.pwr.watts :=
  lowerClocks_keeps (P := fun t => t.pwr.watts = s.pwr.watts) rfl fun t p f h => (updPair_pwr_watts t p f).trans h
@[simp] theorem lowerClocks_amps (s : State) : (lowerClocks s).pwr.amps = s.pwr.amps :=
  lowerClocks_keeps (P := fun t => t.pwr.amps = s.pwr.amps) rfl fun t p f h => (updPair_pwr_amps t p f).trans h

theorem lowerClocks_clk (s : State) {p : Nat} (hp : p < 16) : (pairOf (lowerClocks s) p).clk = effClock s p := by
  rw [(lowerClocks_pairs s).2, if_pos hp]

theorem lowerClocks_clk_le_target (s : State) {p : Nat} (hp : p < 16) :
    (pairOf (lowerClocks s) p).clk ≤ clockTarget (lowerClocks s) p := by
  rw [lowerClocks_clk s hp, lowerClocks_target]
  exact min_le_right _ _

/-! ### The power controller -/

/-- The ceiling that a tick with these readings leaves. -/
def tickCeil (s : State) (w a : Nat) : Nat :=
  if 2600 < w ∨ 4500 < a then max 48 (min s.pwr.ceil (fastest s) - 1)
  else if w < 2600 ∧ a < 4500 then min 0x090 (s.pwr.ceil + 1)
  else s.pwr.ceil

/-- The limit that a tick with these readings leaves as the cause of the ceiling. -/
def tickCause (s : State) (w a : Nat) : Nat :=
  if 2600 < w then 2 else if 4500 < a then 3 else s.pwr.ceilCause

/-- A tick in ACTIVE takes the readings, moves the ceiling, and lowers the clocks to it. -/
theorem powerControlTickEffect_active {s : State} (w a : Nat) (hs : s.pwr.state = .active) :
    powerControlTickEffect w a s = lowerClocks { s with pwr := { s.pwr with
      watts := w % 65536, amps := a % 65536, ceil := tickCeil s w a, ceilCause := tickCause s w a } } := by
  simp [powerControlTickEffect, hs, tickCeil, tickCause]

theorem powerControlTickEffect_idle {s : State} (w a : Nat) (hs : s.pwr.state ≠ .active) :
    powerControlTickEffect w a s = s := if_pos hs

theorem tickCeil_above {s : State} {w a : Nat} (h : 2600 < w ∨ 4500 < a) :
    tickCeil s w a = max 48 (min s.pwr.ceil (fastest s) - 1) := if_pos h

theorem tickCeil_room {s : State} {w a : Nat} (h : w < 2600 ∧ a < 4500) : tickCeil s w a = min 0x090 (s.pwr.ceil + 1) := by
  rw [tickCeil, if_neg (by omega), if_pos h]

theorem tickCeil_between {s : State} {w a : Nat} (above : ¬ (2600 < w ∨ 4500 < a)) (room : ¬ (w < 2600 ∧ a < 4500)) :
    tickCeil s w a = s.pwr.ceil := by
  rw [tickCeil, if_neg above, if_neg room]

theorem tickCause_power {s : State} {w a : Nat} (h : 2600 < w) : tickCause s w a = 2 := if_pos h

theorem tickCause_current {s : State} {w a : Nat} (h : w ≤ 2600 ∧ 4500 < a) : tickCause s w a = 3 := by
  rw [tickCause, if_neg h.1.not_gt, if_pos h.2]

/-! ### The brake -/

/-- The brake's limit is 48, which is also the least target there is (R409). -/
theorem clockTarget_brake {s : State} (h : s.pwr.brake = true) (p : Nat) : clockTarget s p = 48 := by
  have last : clockLimits s p = clockLimits { s with pwr := { s.pwr with brake := false } } p ++ [(6, 48)] := by
    simp only [clockLimits, h, if_true, Bool.false_eq_true, if_false, List.append_nil]
    rfl
  rw [clockTarget, last, List.foldl_append]
  exact max_eq_left (min_le_right _ _)

theorem effClock_brake {s : State} (h : s.pwr.brake = true) (p : Nat) : effClock s p ≤ 48 :=
  (min_le_right _ _).trans (clockTarget_brake h p).le

theorem rinkFraction_brake {s : State} (h : s.pwr.brake = true) : 2 ≤ rinkFraction s := by
  rw [rinkFraction, h]
  exact le_max_right _ _

theorem trowelFraction_brake {s : State} (h : s.pwr.brake = true) (k : Nat) : 3 ≤ trowelFraction s k := by
  rw [trowelFraction, h]
  exact le_max_right _ _

theorem brakeAssertEffect_brake (s : State) : (brakeAssertEffect s).pwr.brake = true := lowerClocks_brake _

/-- The clocks themselves fall with the brake, and do not only read as limited. -/
theorem brakeAssertEffect_clk (s : State) {p : Nat} (hp : p < 16) : (pairOf (brakeAssertEffect s) p).clk ≤ 48 := by
  rw [brakeAssertEffect, lowerClocks_clk _ hp]
  exact effClock_brake rfl p

/-! ### The obligation -/

/-- Settles O8: in ACTIVE a tick is the lowering of the clocks under the moved ceiling; the brake adds the limit 48 to
every pair. The frames are those of the Kept lemmas. -/
theorem powerLimits : Obligations.PowerLimits := by
  unfold Obligations.PowerLimits
  refine ⟨fun s w a hs => ⟨powerControlTickEffect w a s, rfl, ?_⟩,
    fun s w a hs => congrArg Host.Outcome.next (powerControlTickEffect_idle w a hs),
    fun s => ⟨brakeAssertEffect s, rfl, ?_⟩, fun s => ⟨brakeDeassertEffect s, rfl, rfl, rfl, ?_⟩⟩
  · have frame : s.changesOnly [.pwr] (powerControlTickEffect w a s) :=
      (powerControlTickEffect_kept (List.Subset.refl _) (Kept.refl _ s)).frame
    rw [powerControlTickEffect_active w a hs] at frame ⊢
    simp only [lowerClocks_ceil, lowerClocks_ceilCause]
    exact ⟨lowerClocks_watts _, lowerClocks_amps _, tickCeil_above, tickCeil_room, tickCeil_between, tickCause_power, tickCause_current,
      fun p hp => lowerClocks_clk_le_target _ hp, frame⟩
  · have on := brakeAssertEffect_brake s
    exact ⟨on, fun p hp => ⟨effClock_brake on p, brakeAssertEffect_clk s hp⟩, rinkFraction_brake on,
      fun k _ => trowelFraction_brake on k, (brakeAssertEffect_kept (List.Subset.refl _) (Kept.refl _ s)).frame⟩
  · exact (brakeDeassertEffect_kept (List.Subset.refl _) (Kept.refl _ s)).frame

end Sys2Proof.Proofs
end

section
/-! Spin generators in counted mode (R100 to R103): what a generator shows depends on its course's load, on the clocks kept
with it and on the consumptions of its lane, and of these only a consumption moves. -/

namespace Sys2Proof.Proofs

open Sys2Proof Sys2Proof.Machine Sys2Proof.Laws

/-- Advances add up. -/
theorem spinN_add (m k : Nat) (g : Dword × Dword × Dword) : spinN (m + k) g = spinN k (spinN m g) := by
  induction m generalizing g with
  | zero => rw [Nat.zero_add]; rfl
  | succ m ih => rw [Nat.succ_add]; exact ih (spinAdvance g)

/-- Reading a map after dropping keys. -/
theorem mget_filter_key {α : Type} (m : NMap α) (d : α) (keep : Nat → Bool) (k : Nat) :
    mget (m.filter fun p => keep p.1) d k = if keep k then mget m d k else d := by
  induction m with
  | nil => simp [mget]
  | cons p t ih =>
    obtain ⟨i, v⟩ := p
    by_cases hi : keep i <;> by_cases hk : k = i <;> simp_all [mget]

/-- In counted mode the clock of the pair counts for nothing (R103). -/
theorem spinSteps_counted {s : State} {n : Nat} (h : counted s n = true) : spinSteps s n = (courseOf s n).spinClk := by
  simp [spinSteps, h]

/-! ### Consuming a lane -/

@[simp] theorem courseOf_spinConsume (s : State) (t j k n : Nat) : courseOf (spinConsume s t j k) n = courseOf s n := by
  unfold spinConsume; split <;> rfl
@[simp] theorem spinSteps_spinConsume (s : State) (t j k n : Nat) : spinSteps (spinConsume s t j k) n = spinSteps s n := by
  unfold spinConsume; split <;> rfl

/-- A consumption is counted for its lane alone. -/
theorem spinUse_spinConsume {s : State} {t : Nat} (h : counted s (t / 16) = true) (j k l : Nat) :
    mget (spinConsume s t j k).tile.spinUse 0 l = if l = 128 * t + j then mget s.tile.spinUse 0 l + k else mget s.tile.spinUse 0 l := by
  rw [spinConsume, if_pos h]
  refine (mget_mupd s.tile.spinUse 0 (128 * t + j) (· + k) l).trans ?_
  split
  · next e => rw [e]
  · rfl

/-! ### Clocks and loads -/

@[simp] theorem courseOf_clockTick (s : State) (p n : Nat) : courseOf (clockTick s p) n = courseOf s n := by
  unfold clockTick; split <;> rfl
@[simp] theorem counted_clockTick (s : State) (p n : Nat) : counted (clockTick s p) n = counted s n := by
  unfold clockTick; split <;> rfl
@[simp] theorem spinUse_clockTick (s : State) (p : Nat) : (clockTick s p).tile.spinUse = s.tile.spinUse := by
  unfold clockTick; split <;> rfl

theorem courseOf_spinReload (s : State) (n seed : Nat) :
    courseOf (spinReload s n seed) n = { courseOf s n with seed := seed, spinClk := 0, spinSeen := pairClock s (n / 2) } :=
  (courseOf_updCourse s n (fun k => { k with seed := seed, spinClk := 0, spinSeen := pairClock s (n / 2) }) n).trans (if_pos rfl)

/-- At a load no advance has been made yet (R101). -/
theorem spinSteps_spinReload (s : State) (n seed : Nat) : spinSteps (spinReload s n seed) n = 0 := by
  have clk : pairClock (spinReload s n seed) (n / 2) = pairClock s (n / 2) := rfl
  simp [spinSteps, courseOf_spinReload, clk]

/-- A load forgets the consumptions of the course's lanes. -/
theorem spinUse_spinReload (s : State) (n seed : Nat) {l : Nat} (h : l / 2048 = n) : mget (spinReload s n seed).tile.spinUse 0 l = 0 := by
  refine (mget_filter_key s.tile.spinUse 0 (fun k => decide (k / 2048 ≠ n)) l).trans ?_
  simp [h]

/-- Settles O24: the place of a generator in its sequence is the sum of the steps of its course and the consumptions of its
lane; in counted mode the first stands still, and a consumption moves the second of its own lane. -/
theorem countedSpinGenerators : Obligations.CountedSpinGenerators := by
  unfold Obligations.CountedSpinGenerators
  refine ⟨fun s t j k h _ => ?_, fun s t j u i k h hj hi other => ?_, fun s p t j h => ?_, fun s n seed t j ht hj => ?_⟩
  · rw [spinRead, spinSteps_spinConsume, courseOf_spinConsume, spinSteps_counted h, spinUse_spinConsume h, if_pos rfl,
      ← Nat.add_assoc, spinN_add]
  · rw [spinRead, spinSteps_spinConsume, courseOf_spinConsume, spinUse_spinConsume h, if_neg (by omega), spinRead]
  · have h' : counted (clockTick s p) (t / 16) = true := by rw [counted_clockTick, h]
    simp only [spinRead, spinSteps_counted h, spinSteps_counted h', courseOf_clockTick, spinUse_clockTick]
  · subst ht
    rw [spinRead, spinSteps_spinReload, spinUse_spinReload _ _ _ (by omega), courseOf_spinReload]
    rfl

end Sys2Proof.Proofs
end

section
/-! Sequencers and semaphores (R64 to R68, R72, R93): what each of their operations changes, said once, and from it the
SEM descriptors. -/

namespace Sys2Proof.Proofs

open Sys2Proof Sys2Proof.Machine Sys2Proof.Laws

/-! ### Sequencers beside semaphores -/

@[simp] theorem semGet_updSeqr (s : State) (t : Nat) (f : Seqr → Seqr) (u i : Nat) : semGet (updSeqr s t f) u i = semGet s u i := rfl
@[simp] theorem seqrOf_semPut (s : State) (t i v u : Nat) : seqrOf (semPut s t i v) u = seqrOf s u := rfl
@[simp] theorem seqrOf_updCtx (s : State) (c : Nat) (f : JobCtx → JobCtx) (t : Nat) : seqrOf (updCtx s c f) t = seqrOf s t := rfl

theorem semGet_semPut_same (s : State) (t i v : Nat) : semGet (semPut s t i v) t i = v :=
  (mget_mset ..).trans (if_pos rfl)

/-! ### Signals -/

/-- A signal that the count has room for adds to it (R72). -/
theorem semSignal_fits {s : State} {t i v : Nat} (src : EvF) (room : semGet s t i + v ≤ 0xFFFF) :
    semSignal s t i v src = semPut s t i (semGet s t i + v) := if_pos room

theorem completionSignal_of_none {d : Desc} (quiet : d.bit 0 25 = false) (s : State) (t : Nat) : completionSignal s t d = s := by
  simp [completionSignal, quiet]

theorem completionSignal_fits {s : State} {t : Nat} {d : Desc} (asked : d.bit 0 25 = true)
    (room : semGet s t (d.fld 0 15 8) + d.fld 1 15 0 ≤ 0xFFFF) :
    completionSignal s t d = semPut s t (d.fld 0 15 8) (semGet s t (d.fld 0 15 8) + d.fld 1 15 0) := by
  rw [completionSignal, if_pos asked, semSignal_fits _ room]

/-! ### The held descriptor -/

/-- A held descriptor without a signal completes: the sequencer is free, and nothing else changes (R66, R68). -/
theorem holdDone_quiet {d : Desc} (quiet : d.bit 0 25 = false) (s : State) (t : Nat) :
    holdDone s t d = updSeqr s t fun z => { z with hold := none, waited := false } :=
  completionSignal_of_none quiet _ t

/-- What is ready is the sequencer's held descriptor, in the context of its tile, and its header's wait is taken. -/
theorem heldReady_cases {s s1 : State} {t k c : Nat} {d : Desc} (ready : heldReady s t k = some (c, d, s1)) :
    (seqrOf s t).hold = some d ∧ (s1 = s ∨ s1 = updSeqr (takeWait s t d) t fun z => { z with waited := true }) := by
  cases hold : (seqrOf s t).hold with
  | none => simp [heldReady, hold] at ready
  | some e =>
    cases own : tileCtx s t with
    | none => simp [heldReady, hold, own] at ready
    | some b =>
      simp only [heldReady, hold, own] at ready
      split_ifs at ready <;> cases ready
      · exact ⟨rfl, .inl rfl⟩
      · exact ⟨rfl, .inr rfl⟩

@[simp] theorem seqrOf_takeWait (s : State) (t : Nat) (d : Desc) (u : Nat) : seqrOf (takeWait s t d) u = seqrOf s u := by
  unfold takeWait; split <;> rfl

theorem heldReady_hold {s s1 : State} {t k c : Nat} {d : Desc} (ready : heldReady s t k = some (c, d, s1)) :
    (seqrOf s1 t).hold = some d := by
  obtain ⟨hold, rfl | rfl⟩ := heldReady_cases ready
  · exact hold
  · simpa using hold

/-- Until it completes, a ready descriptor has changed the semaphores and its sequencer alone. -/
theorem heldReady_keeps {s s1 : State} {t k c : Nat} {d : Desc} (ready : heldReady s t k = some (c, d, s1)) :
    Kept [.sem, .tile] s s1 := heldReady_kept (List.Subset.refl _) ready (Kept.refl _ s)

/-- A held descriptor without a signal that has set one semaphore completes: the sequencer is free, the semaphore has its
value, and nothing else has changed since the header's wait. -/
theorem holdDone_semPut {s s1 : State} {t k c : Nat} {d : Desc} (ready : heldReady s t k = some (c, d, s1)) (quiet : d.bit 0 25 = false)
    (u i v : Nat) :
    semGet (holdDone (semPut s1 u i v) t d) u i = v ∧ (seqrOf (holdDone (semPut s1 u i v) t d) t).hold = none ∧
      s.changesOnly [.sem, .tile] (holdDone (semPut s1 u i v) t d) := by
  rw [holdDone_quiet quiet]
  refine ⟨?_, ?_, (updSeqr_kept (by decide) (semPut_kept (by decide) (heldReady_keeps ready))).frame⟩
  · rw [semGet_updSeqr, semGet_semPut_same]
  · rw [seqrOf_updSeqr, if_pos rfl]

/-! ### The obligation -/

/-- Settles O18: once the header's wait is taken each of the three puts one value into one semaphore and frees the sequencer;
a SEM_WAIT on too low a count stays held. -/
theorem semaphoreDescriptors : Obligations.SemaphoreDescriptors := by
  unfold Obligations.SemaphoreDescriptors
  refine ⟨fun s t c d s1 ready op enough quiet => ⟨_, rfl, ?_⟩, fun s t c d s1 ready op short => ⟨_, rfl, ?_⟩,
    fun s t c d s1 ready op held room quiet => ⟨_, rfl, ?_⟩, fun s t c d s1 ready op held quiet => ⟨_, rfl, ?_⟩⟩
  · simp only [semWaitEffect, ready, op, if_true, if_pos enough]
    exact holdDone_semPut ready quiet ..
  · simp only [semWaitEffect, ready, op, if_true, if_neg short.not_ge]
    exact ⟨trivial, heldReady_hold ready⟩
  · simp only [semSignalEffect, ready, op, ne_eq, not_true, if_false, held, Bool.not_true, Bool.false_eq_true, semSignal_fits _ room]
    exact holdDone_semPut ready quiet ..
  · simp only [semSetEffect, ready, op, ne_eq, not_true, if_false, held, Bool.not_true, Bool.false_eq_true]
    exact holdDone_semPut ready quiet ..

end Sys2Proof.Proofs
end

section
/-! Barriers (R97): an arrival leaves exactly one generation open or none, and a release frees every tile that waits. -/

namespace Sys2Proof.Proofs

open Sys2Proof Sys2Proof.Machine Sys2Proof.Laws

/-! ### Arrivals -/

theorem barSt_is_iff {b : BarSt} {c inst id : Nat} {sc : BarScope} :
    b.is c sc inst id = true ↔ b.ctx = c ∧ b.scope = sc ∧ b.inst = inst ∧ b.id = id := by
  simp [BarSt.is]

theorem barOf_some {s : State} {c inst id : Nat} {sc : BarScope} {b : BarSt} (e : barOf s c sc inst id = some b) :
    b.is c sc inst id = true ∧ b.full = false := by
  simpa using List.find?_some e

theorem mem_setBar (s : State) (b : BarSt) : b ∈ (setBar s b).tile.bars := List.mem_append_right _ (List.mem_singleton_self b)

/-- The generation put in place takes further arrivals until its count is reached (R97). -/
theorem barOf_setBar {b : BarSt} {c inst id : Nat} {sc : BarScope} (mine : b.is c sc inst id = true) (s : State) :
    barOf (setBar s b) c sc inst id = if b.full then none else some b := by
  obtain ⟨rfl, rfl, rfl, rfl⟩ := barSt_is_iff.1 mine
  have others : (s.tile.bars.filter fun x => !(x.is b.ctx b.scope b.inst b.id && !x.full)).find?
      (fun x => x.is b.ctx b.scope b.inst b.id && !x.full) = none :=
    List.find?_eq_none.2 fun x hx => by simpa [imp_iff_not_or] using (List.mem_filter.1 hx).2
  rw [barOf, setBar]
  dsimp only
  rw [List.find?_append, others, Option.none_or, List.find?_singleton, mine]
  cases b.full <;> rfl

theorem barSt_full_iff {b : BarSt} : b.full = true ↔ b.count ≤ b.tiles.length := decide_eq_true_iff

/-- The first arrival outside job scope opens a generation with its count. -/
theorem barrierEffect_opens {s s1 : State} {t c : Nat} {d : Desc} (alone : (seqrOf s t).descs = [])
    (ready : heldReady s t 8 = some (c, d, s1)) (outside : scopeOf (d.fld 2 31 30) ≠ .job)
    (first : barOf s1 c (scopeOf (d.fld 2 31 30)) (scopeInst (scopeOf (d.fld 2 31 30)) t) (d.fld 2 29 26) = none) :
    barrierEffect t s = setBar s1
      ⟨c, scopeOf (d.fld 2 31 30), scopeInst (scopeOf (d.fld 2 31 30)) t, d.fld 2 29 26, d.fld 2 15 0, [t]⟩ := by
  simp only [barrierEffect, alone, ready, first, outside, if_false, ne_eq, not_true]

/-- A later one with the same count joins it. -/
theorem barrierEffect_joins {s s1 : State} {t c : Nat} {d : Desc} {b : BarSt} (alone : (seqrOf s t).descs = [])
    (ready : heldReady s t 8 = some (c, d, s1)) (outside : scopeOf (d.fld 2 31 30) ≠ .job)
    (later : barOf s1 c (scopeOf (d.fld 2 31 30)) (scopeInst (scopeOf (d.fld 2 31 30)) t) (d.fld 2 29 26) = some b)
    (new : b.tiles.contains t = false) (agree : b.count = d.fld 2 15 0) :
    barrierEffect t s = setBar s1 { b with tiles := b.tiles ++ [t] } := by
  simp only [barrierEffect, alone, ready, later, new, agree, outside, if_false, ne_eq, not_true, Bool.false_eq_true]

/-! ### Release -/

/-- Releasing tiles whose held descriptors ask for no signal frees their sequencers, and changes nothing else. -/
theorem releaseTiles_quiet {ts : List Nat} {s : State} (quiet : ∀ x ∈ ts, ∀ d, (seqrOf s x).hold = some d → d.bit 0 25 = false) :
    (releaseTiles s ts).tile.bars = s.tile.bars ∧
      (∀ x, (seqrOf (releaseTiles s ts) x).hold = if x ∈ ts then none else (seqrOf s x).hold) ∧
      Kept [.tile] s (releaseTiles s ts) := by
  induction ts generalizing s with
  | nil => exact ⟨rfl, fun x => by simp [releaseTiles, forEach], Kept.refl _ s⟩
  | cons t ts ih =>
    cases hold : (seqrOf s t).hold with
    | none =>
      have e : releaseTiles s (t :: ts) = releaseTiles s ts := by simp [releaseTiles, forEach, hold]
      rw [e]
      obtain ⟨bars, free, kept⟩ := ih fun x hx => quiet x (List.mem_cons_of_mem _ hx)
      refine ⟨bars, fun x => ?_, kept⟩
      by_cases hx : x = t
      · rw [free, hx, hold]; simp
      · rw [free]; simp [hx]
    | some d =>
      have e : releaseTiles s (t :: ts) = releaseTiles (updSeqr s t fun z => { z with hold := none, waited := false }) ts := by
        simp [releaseTiles, forEach, hold, holdDone_quiet (quiet t List.mem_cons_self d hold)]
      rw [e]
      have quiet' : ∀ x ∈ ts, ∀ k, (seqrOf (updSeqr s t fun z => { z with hold := none, waited := false }) x).hold = some k →
          k.bit 0 25 = false := by
        intro x hx k hk
        rw [seqrOf_updSeqr] at hk
        split at hk
        · cases hk
        · exact quiet x (List.mem_cons_of_mem _ hx) k hk
      obtain ⟨bars, free, kept⟩ := ih quiet'
      refine ⟨bars, fun x => ?_, (updSeqr_kept (List.Subset.refl _) (Kept.refl _ s)).trans kept⟩
      by_cases hx : x = t <;> simp [free, hx]

theorem dropBar_kept (s : State) (b : BarSt) : Kept [.tile] s { s with tile := { s.tile with bars := s.tile.bars.erase b } } :=
  have hC := List.Subset.refl [Part.tile]
  Kept.put (Kept.refl _ s)

/-- A release outside job scope drops the full generation and frees its tiles (R97). -/
theorem barrierReleaseEffect_outside {s : State} {c inst id : Nat} {sc : BarScope} {b : BarSt} (full : barFull s c sc inst id = some b)
    (outside : sc ≠ .job) :
    barrierReleaseEffect c sc inst id s = releaseTiles { s with tile := { s.tile with bars := s.tile.bars.erase b } } b.tiles := by
  simp only [barrierReleaseEffect, full, outside, if_false]

/-! ### The obligation -/

/-- Settles O19: an arrival puts one generation in place, which is open exactly while its count is not reached; a release
drops the full one and frees its tiles. -/
theorem barriers : Obligations.Barriers := by
  unfold Obligations.Barriers
  refine ⟨fun s t c d s1 alone ready outside first => ⟨_, congrArg Host.Outcome.next (barrierEffect_opens alone ready outside first), ?_⟩,
    fun s t c d s1 b alone ready outside later new agree => ⟨_, congrArg Host.Outcome.next (barrierEffect_joins alone ready outside later new agree), ?_⟩,
    fun s c sc inst i b full outside quiet => ⟨_, congrArg Host.Outcome.next (barrierReleaseEffect_outside full outside), ?_⟩,
    fun s c sc inst i notFull => ?_⟩
  · refine ⟨mem_setBar .., fun more => ?_, (setBar_kept (by decide) (heldReady_keeps ready)).frame⟩
    rw [barOf_setBar (barSt_is_iff.2 ⟨rfl, rfl, rfl, rfl⟩), if_neg]
    simpa [barSt_full_iff] using more
  · obtain ⟨mine, -⟩ := barOf_some later
    have mine' : BarSt.is { b with tiles := b.tiles ++ [t.val] } c (scopeOf (d.fld 2 31 30))
      (scopeInst (scopeOf (d.fld 2 31 30)) t.val) (d.fld 2 29 26) = true := mine
    refine ⟨mem_setBar .., fun more => ?_, fun last => ?_, (setBar_kept (by decide) (heldReady_keeps ready)).frame⟩
    · rw [barOf_setBar mine', if_neg]
      simpa [barSt_full_iff] using more
    · rw [barOf_setBar mine', if_pos]
      simp [barSt_full_iff, last]
  · obtain ⟨bars, free, kept⟩ := releaseTiles_quiet (s := { s with tile := { s.tile with bars := s.tile.bars.erase b } }) quiet
    exact ⟨bars, fun x hx => by rw [free, if_pos hx], ((dropBar_kept s b).trans kept).frame⟩
  · exact congrArg Host.Outcome.next (by simp only [barrierReleaseEffect, notFull])

end Sys2Proof.Proofs
end

section
/-! Events of the tiles (R99, R457): an entry that finds room is written at once, one that finds none waits in its job's
queue, and the oldest that waits goes first. -/

namespace Sys2Proof.Proofs

open Sys2Proof Sys2Proof.Machine Sys2Proof.Laws

/-! ### What an event reads -/

theorem ctxOf_of_job {s t : State} (h : t.job = s.job) (c : Nat) : ctxOf t c = ctxOf s c := by rw [ctxOf, h, ctxOf]

theorem evqSlots_of_regs {s t : State} (h : t.host.regs = s.host.regs) (c : Nat) : evqSlots t c = evqSlots s c := by
  simp only [evqSlots, rw, h]

theorem rw64_of_regs {s t : State} (h : t.host.regs = s.host.regs) (off : Nat) : rw64 t off = rw64 s off := by
  simp only [rw64, rw, h]

theorem eventOf_of_job_fab {s u : State} (job : u.job = s.job) (fab : u.fab = s.fab) (c t : Nat) (d : Desc) :
    eventOf u c t d = eventOf s c t d := by
  simp only [eventOf, now, ctxOf_of_job job, fab]

/-! ### Entries -/

@[simp] theorem evqPut_waiting (m : Mem) (base slots : Nat) (q : EvQ) (e : Ev) : (evqPut m base slots q e).2.waiting = q.waiting := rfl

/-- An entry without an interrupt goes to host memory and moves the queue's indices. -/
theorem jobEntry_quiet {e : Ev} (quiet : e.irq = false) (s : State) (c : Nat) :
    jobEntry s c e =
      updCtx { s with hostMem := (evqPut s.hostMem (rw64 s (jobBase c + 0x80)) (evqSlots s c) (ctxOf s c).evq e).1 } c fun j =>
        { j with evq := (evqPut s.hostMem (rw64 s (jobBase c + 0x80)) (evqSlots s c) (ctxOf s c).evq e).2 } := by
  simp only [jobEntry, quiet, Bool.false_eq_true, if_false]

theorem jobEntry_quiet_hostMem {e : Ev} (quiet : e.irq = false) (s : State) (c : Nat) :
    (jobEntry s c e).hostMem = s.hostMem.write (rw64 s (jobBase c + 0x80) + 64 * (ctxOf s c).evq.prod)
      (entryBytes e (ctxOf s c).evq.phase (ctxOf s c).evq.seq) := by
  rw [jobEntry_quiet quiet, updCtx_hostMem, evqPut_mem]

theorem jobEntry_quiet_evq {e : Ev} (quiet : e.irq = false) (s : State) (c : Nat) :
    (ctxOf (jobEntry s c e) c).evq = (evqPut s.hostMem (rw64 s (jobBase c + 0x80)) (evqSlots s c) (ctxOf s c).evq e).2 := by
  rw [jobEntry_quiet quiet, ctxOf_updCtx, if_pos rfl]

theorem jobEntry_quiet_tile {e : Ev} (quiet : e.irq = false) (s : State) (c : Nat) : (jobEntry s c e).tile = s.tile := by
  rw [jobEntry_quiet quiet, updCtx_tile]

theorem jobEntry_quiet_kept {C : List Part} {z s : State} {e : Ev} {c : Nat} (quiet : e.irq = false)
    (hC : ([.hostMem, .job] : List Part) ⊆ C) (kept : Kept C z s) : Kept C z (jobEntry s c e) := by
  rw [jobEntry_quiet quiet]
  exact updCtx_kept (List.Subset.trans (by decide) hC) (Kept.put kept)

/-! ### EVENT -/

/-- The accepted EVENT of a descriptor without step_end and without a signal frees the sequencer (R66, R68). -/
theorem eventDone_quiet {s : State} {t : Nat} {d : Desc} (hold : (seqrOf s t).hold = some d) (goesOn : d.bit 2 31 = false)
    (quiet : d.bit 0 25 = false) (c : Nat) : eventDone s c t = updSeqr s t fun z => { z with hold := none, waited := false } := by
  simp only [eventDone, hold, goesOn, Bool.false_eq_true, if_false, holdDone_quiet quiet]

theorem eventEffect_accepted {s s1 : State} {t c : Nat} {d : Desc} (ready : heldReady s t 9 = some (c, d, s1))
    (first : (ctxOf s1 c).evq.waiting = []) (slots : evqSlots s1 c ≠ 0) (room : evqFull (ctxOf s1 c).evq (evqSlots s1 c) = false) :
    eventEffect t s = eventDone (jobEntry s1 c (eventOf s1 c t d)) c t := by
  simp only [eventEffect, ready, first, slots, room, List.any_nil, ne_eq, not_true, Bool.false_eq_true, or_self, if_false]

theorem eventEffect_waits {s s1 : State} {t c : Nat} {d : Desc} (ready : heldReady s t 9 = some (c, d, s1))
    (first : (ctxOf s1 c).evq.waiting = []) (slots : evqSlots s1 c ≠ 0) (full : evqFull (ctxOf s1 c).evq (evqSlots s1 c) = true) :
    eventEffect t s = updCtx s1 c fun j => { j with evq := { j.evq with waiting := j.evq.waiting ++ [eventOf s1 c t d] } } := by
  simp only [eventEffect, ready, first, slots, full, List.any_nil, Bool.false_eq_true, or_true, if_true, if_false]

/-! ### EVENT_ACCEPT -/

theorem eventAcceptEffect_oldest {s : State} {c : Nat} {e : Ev} {rest : List Ev} (waiting : (ctxOf s c).evq.waiting = e :: rest)
    (slots : evqSlots s c ≠ 0) (room : evqFull (ctxOf s c).evq (evqSlots s c) = false) (part : e.tile = none) :
    eventAcceptEffect c s = jobEntry (updCtx s c fun j => { j with evq := { j.evq with waiting := rest } }) c e := by
  simp only [eventAcceptEffect, waiting, slots, room, part, Option.isSome_none, Bool.false_eq_true, and_false, if_false]

theorem eventAcceptEffect_full {s : State} {c : Nat} {e : Ev} {rest : List Ev} (waiting : (ctxOf s c).evq.waiting = e :: rest)
    (slots : evqSlots s c ≠ 0) (full : evqFull (ctxOf s c).evq (evqSlots s c) = true) : eventAcceptEffect c s = s := by
  simp only [eventAcceptEffect, waiting, slots, full, ne_eq, not_false_eq_true, and_self, if_true]

/-! ### The obligation -/

/-- Settles O20: the header's wait leaves job, registers and timebase alone, so that the entry, its place and its waiting are
those of the state before; EVENT_ACCEPT writes the first of the list. -/
theorem tileEvents : Obligations.TileEvents := by
  unfold Obligations.TileEvents
  refine ⟨fun s t c d s1 ready first slots room goesOn noIrq quiet => ?_, fun s t c d s1 ready first slots full => ?_,
    fun s c e rest waiting slots room part noIrq => ?_, fun s c e rest waiting slots full => ?_⟩
  · have kept := heldReady_keeps ready
    have ctx := ctxOf_of_job (kept.frame .job (by decide)) c
    have regs : s1.host.regs = s.host.regs := kept.frame .regs (by decide)
    have hostMem : s1.hostMem = s.hostMem := kept.frame .hostMem (by decide)
    have entry := eventOf_of_job_fab (kept.frame .job (by decide)) (kept.frame .fab (by decide)) c t.val d
    have hold : (seqrOf (jobEntry s1 c (eventOf s1 c t.val d)) t.val).hold = some d := by
      rw [seqrOf, jobEntry_quiet_tile noIrq]; exact heldReady_hold ready
    refine ⟨_, congrArg Host.Outcome.next ((eventEffect_accepted ready first slots room).trans (eventDone_quiet hold goesOn quiet c)), ?_⟩
    refine ⟨?_, ?_, ?_, (updSeqr_kept (by decide) (jobEntry_quiet_kept noIrq (by decide) ?_)).frame⟩
    · rw [updSeqr_hostMem, jobEntry_quiet_hostMem noIrq, ctx, hostMem, rw64_of_regs regs, entry]
    · rw [ctxOf_of_job (updSeqr_job ..), jobEntry_quiet_evq noIrq, evqPut_prod, ctx, evqSlots_of_regs regs]
    · rw [seqrOf_updSeqr, if_pos rfl]
    · exact heldReady_kept (by decide) ready (Kept.refl _ s)
  · have kept := heldReady_keeps ready
    have entry := eventOf_of_job_fab (kept.frame .job (by decide)) (kept.frame .fab (by decide)) c t.val d
    refine ⟨_, congrArg Host.Outcome.next (eventEffect_waits ready first slots full), ?_, ?_,
      (updCtx_kept (by decide) (heldReady_kept (by decide) ready (Kept.refl _ s))).frame⟩
    · rw [ctxOf_updCtx, if_pos rfl, first, entry, List.nil_append]
    · rw [seqrOf_updCtx, heldReady_hold ready]
  · refine ⟨_, congrArg Host.Outcome.next (eventAcceptEffect_oldest waiting slots room part), ?_, ?_,
      (jobEntry_quiet_kept noIrq (by decide) (updCtx_kept (by decide) (Kept.refl _ s))).frame⟩
    · rw [jobEntry_quiet_evq noIrq, evqPut_waiting, ctxOf_updCtx, if_pos rfl]
    · rw [jobEntry_quiet_hostMem noIrq, ctxOf_updCtx, if_pos rfl]
      rfl
  · exact congrArg Host.Outcome.next (eventAcceptEffect_full waiting slots full)

end Sys2Proof.Proofs
end

section
/-! The life of a descriptor (R65 to R68, R71, R74, R231): issue into a queue or against a hold, start with the header's wait,
completion with the header's signal. -/

namespace Sys2Proof.Proofs

open Sys2Proof Sys2Proof.Machine Sys2Proof.Laws

/-! ### Issue -/

/-- The 64 bytes of a descriptor that lies in the store are those of the store (R63). -/
theorem descBytes_of_inStore {a : Nat} (inStore : a + 64 ≤ storeEnd) (s : State) (t i : Nat) :
    descBytes s t a i = storeRead s t a 64 := by
  unfold descBytes storeRead Mem.read
  refine List.map_congr_left fun j hj => ?_
  have : a + j < storeEnd := by have := List.mem_range.1 hj; omega
  simp [this, Nat.add_assoc]

/-- The sequencer of tile t issues `k`, the sound descriptor at `addr`, for context c (R66, R71). -/
structure Issues (s : State) (t addr c : Nat) (k : Desc) : Prop where
  ctx : tileCtx s t = some c
  running : (ctxOf s c).state = .running
  free : (seqrOf s t).hold = none
  goesOn : (seqrOf s t).stepEnd = false
  clock : pairRuns s t = true
  inStore : addr % 2 ^ 21 + 64 ≤ storeEnd
  read : k = { seq := (seqrOf s t).nextSeq, addr := addr % 2 ^ 21, w := wordsOf (storeRead s t (addr % 2 ^ 21) 64) }
  sound : issueReason s c t k = none

/-- The checks read nothing of the sequencers. -/
theorem issueReason_updSeqr (s : State) (u : Nat) (f : Seqr → Seqr) (c t : Nat) (d : Desc) :
    issueReason (updSeqr s u f) c t d = issueReason s c t d := rfl

theorem stampColl_other {k : Desc} (h : k.cls ≠ 7 ∨ k.fld 2 31 28 ≠ 2) (s : State) (c : Nat) : stampColl s c k = (k, s) :=
  if_neg fun both => h.elim (· both.1) (· both.2)

theorem stampColl_collective {k : Desc} (cls : k.cls = 7) (op : k.fld 2 31 28 = 2) (s : State) (c : Nat) :
    stampColl s c k = ({ k with coll := (ctxOf s c).fab.collNext }, updFab s c fun f => { f with collNext := f.collNext + 1 }) :=
  if_pos ⟨cls, op⟩

/-- A place in the order of collectives is all that a descriptor gets at its issue (R231). -/
theorem stampColl_desc (s : State) (c : Nat) (k : Desc) :
    (stampColl s c k).1.cls = k.cls ∧ (stampColl s c k).1.addr = k.addr := by
  unfold stampColl; split <;> exact ⟨rfl, rfl⟩

@[simp] theorem seqrOf_stampColl (s : State) (c : Nat) (k : Desc) (t : Nat) : seqrOf (stampColl s c k).2 t = seqrOf s t := by
  unfold stampColl; split <;> rfl

theorem stampColl_updSeqr (s : State) (t : Nat) (f : Seqr → Seqr) (c : Nat) (k : Desc) :
    stampColl (updSeqr s t f) c k = ((stampColl s c k).1, updSeqr (stampColl s c k).2 t f) := by
  unfold stampColl; split <;> rfl

/-- A sound descriptor takes its place in the collective order and goes to its queue or to the hold. -/
theorem descriptorIssueEffect_issues {s : State} {t addr c : Nat} {k : Desc} (h : Issues s t addr c k) (pc : Nat) :
    descriptorIssueEffect t pc addr s =
      enqueue (updSeqr (stampColl s c k).2 t fun z => { z with pc := pc % 2 ^ 21 }) t (stampColl s c k).1 := by
  obtain ⟨ctx, running, free, goesOn, clock, inStore, read, sound⟩ := h
  have stands : ¬ ((ctxOf s c).state ≠ .running ∨ (seqrOf s t).hold.isSome = true ∨ (seqrOf s t).stepEnd = true ∨ ¬ pairRuns s t = true) := by
    simp [running, free, goesOn, clock]
  simp only [descriptorIssueEffect, ctx, if_neg stands, if_neg inStore.not_gt, descBytes_of_inStore inStore, ← read,
    issueReason_updSeqr, sound, stampColl_updSeqr]

theorem seqrOf_enqueue_queued {s : State} {t : Nat} {d : Desc} {q : DescQueue} (unit : queueOf d.cls = some q)
    (room : queueFull (seqrOf s t) q = false) :
    seqrOf (enqueue s t d) t =
      { seqrOf s t with nextSeq := (seqrOf s t).nextSeq + 1, last := d.addr, waited := false, descs := (seqrOf s t).descs ++ [d] } := by
  rw [enqueue, seqrOf_updSeqr, if_pos rfl]
  simp only [unit, room, Bool.false_eq_true, if_false]

theorem seqrOf_enqueue_held {s : State} {t : Nat} {d : Desc}
    (noRoom : ∀ q, queueOf d.cls = some q → queueFull (seqrOf s t) q = true) :
    seqrOf (enqueue s t d) t =
      { seqrOf s t with nextSeq := (seqrOf s t).nextSeq + 1, last := d.addr, waited := false, hold := some d } := by
  rw [enqueue, seqrOf_updSeqr, if_pos rfl]
  cases unit : queueOf d.cls with
  | none => rfl
  | some q => simp only [noRoom q unit, if_true]

/-- What an issue leaves of the sequencer when the descriptor's queue has room (R66). -/
theorem seqrOf_issue_queued {s : State} {t addr c : Nat} {k : Desc} {q : DescQueue} (h : Issues s t addr c k)
    (unit : queueOf k.cls = some q) (room : queueFull (seqrOf s t) q = false) (pc : Nat) :
    seqrOf (descriptorIssueEffect t pc addr s) t =
      { seqrOf s t with
        pc := pc % 2 ^ 21, last := addr % 2 ^ 21, nextSeq := (seqrOf s t).nextSeq + 1, waited := false
        descs := (seqrOf s t).descs ++ [(stampColl s c k).1] } := by
  obtain ⟨cls, place⟩ := stampColl_desc s c k
  have at_ : k.addr = addr % 2 ^ 21 := by rw [h.read]
  rw [descriptorIssueEffect_issues h, seqrOf_enqueue_queued (cls ▸ unit), seqrOf_updSeqr, if_pos rfl, seqrOf_stampColl, place, at_]
  rw [seqrOf_updSeqr, if_pos rfl, seqrOf_stampColl]
  exact room

/-- What it leaves when the queue is full, or the sequencer executes the descriptor itself. -/
theorem seqrOf_issue_held {s : State} {t addr c : Nat} {k : Desc} (h : Issues s t addr c k)
    (noRoom : ∀ q, queueOf k.cls = some q → queueFull (seqrOf s t) q = true) (pc : Nat) :
    seqrOf (descriptorIssueEffect t pc addr s) t =
      { seqrOf s t with
        pc := pc % 2 ^ 21, last := addr % 2 ^ 21, nextSeq := (seqrOf s t).nextSeq + 1, waited := false
        hold := some (stampColl s c k).1 } := by
  obtain ⟨cls, place⟩ := stampColl_desc s c k
  have at_ : k.addr = addr % 2 ^ 21 := by rw [h.read]
  rw [descriptorIssueEffect_issues h, seqrOf_enqueue_held, seqrOf_updSeqr, if_pos rfl, seqrOf_stampColl, place, at_]
  rw [seqrOf_updSeqr, if_pos rfl, seqrOf_stampColl, cls]
  exact noRoom

theorem descriptorIssueEffect_job {s : State} {t addr c : Nat} {k : Desc} (h : Issues s t addr c k) (pc : Nat) :
    (descriptorIssueEffect t pc addr s).job = (stampColl s c k).2.job := by
  rw [descriptorIssueEffect_issues h]; rfl

theorem descriptorIssueEffect_frame {s : State} {t addr c : Nat} {k : Desc} (h : Issues s t addr c k) (pc : Nat) :
    s.changesOnly [.tile, .job] (descriptorIssueEffect t pc addr s) := by
  rw [descriptorIssueEffect_issues h]
  exact (enqueue_kept (by decide) (updSeqr_kept (by decide) (stampColl_kept (by decide) (Kept.refl _ s)))).frame

/-! ### Start -/

theorem semGet_of_sem {s u : State} (h : Part.same .sem s u) (t i : Nat) : semGet u t i = semGet s t i := by
  simp only [semGet, semDflt, h.1, h.2]

/-- A change of a descriptor that keeps a property of it leaves one with that property. -/
theorem updDesc_exists {s : State} {t seq : Nat} {f : Desc → Desc} {P : Desc → Prop} (keeps : ∀ e, P e → P (f e))
    (h : ∃ e ∈ (seqrOf s t).descs, P e) : ∃ e ∈ (seqrOf (updDesc s t seq f) t).descs, P e := by
  obtain ⟨e, mem, he⟩ := h
  rw [updDesc, seqrOf_updSeqr, if_pos rfl]
  refine ⟨_, List.mem_map_of_mem mem, ?_⟩
  split
  · exact keeps e he
  · exact he

/-- A held descriptor that enters its queue goes behind those of the tile. -/
theorem admitHeld_exists {s : State} {t : Nat} {P : Desc → Prop} (q : DescQueue) (h : ∃ e ∈ (seqrOf s t).descs, P e) :
    ∃ e ∈ (seqrOf (admitHeld s t q) t).descs, P e := by
  obtain ⟨e, mem, he⟩ := h
  unfold admitHeld
  dsimp only
  split
  · split
    · rw [seqrOf_updSeqr, if_pos rfl]
      exact ⟨e, List.mem_append_left _ mem, he⟩
    · exact ⟨e, mem, he⟩
  · exact ⟨e, mem, he⟩

theorem updDesc_started {s : State} {t : Nat} {d : Desc} (mem : d ∈ (seqrOf s t).descs) (tbl : List Byte) (clk : Nat) (snap : Mem) :
    ∃ e ∈ (seqrOf (updDesc s t d.seq fun e => { e with phase := .started, tbl := tbl, clk := clk, snap := snap }) t).descs,
      e.seq = d.seq ∧ e.w = d.w ∧ e.phase = .started := by
  rw [updDesc, seqrOf_updSeqr, if_pos rfl]
  refine ⟨_, List.mem_map_of_mem mem, ?_⟩
  rw [if_pos rfl]
  exact ⟨rfl, rfl, rfl⟩

@[simp] theorem seqrOf_clockTick (s : State) (p t : Nat) : seqrOf (clockTick s p) t = seqrOf s t := by
  unfold clockTick; split <;> rfl

/-- The state in which a descriptor that starts takes its wait: clocks have passed where it draws spin bits (R102). -/
def atStart (s : State) (t : Nat) (d : Desc) : State := if drawsSpin s t d then clockTick s (t / 32) else s

theorem atStart_kept (s : State) (t : Nat) (d : Desc) : Kept [.tile] s (atStart s t d) :=
  Kept.ite (clockTick_kept (List.Subset.refl _) (Kept.refl _ s)) (Kept.refl _ s)

@[simp] theorem seqrOf_atStart (s : State) (t : Nat) (d : Desc) (u : Nat) : seqrOf (atStart s t d) u = seqrOf s u := by
  unfold atStart; split
  · exact seqrOf_clockTick ..
  · rfl

/-- A descriptor without an activation table is marked started, a held one may take its place, and a DMA asks for its tags. -/
def afterStart (s : State) (t : Nat) (q : DescQueue) (d : Desc) : State :=
  let s0 := atStart s t d
  let s1 := admitHeld (updDesc (takeWait s0 t d) t d.seq fun e =>
    { e with phase := .started, tbl := [], clk := pairClock s0 (t / 32), snap := s0.tile.store }) t q
  if d.cls = 1 then dmaAsk s1 t d else s1

/-- The head of a queue starts when a place is free and its fence, its wait and its clock allow it (R67, R74). -/
theorem descriptorStartEffect_starts {s : State} {t c : Nat} {q : DescQueue} {d : Desc}
    (head : (inQueue q (seqrOf s t).descs).find? (fun e => decide (e.phase = .queued)) = some d) (ctx : tileCtx s t = some c)
    (place : (inQueue q (seqrOf s t).descs).countP (fun e => decide (e.phase ≠ .queued)) < queueRuns q)
    (fence : fenceOk (seqrOf s t) d = true) (wait : waitOk s t d = true) (spin : spinHeld s t d = false) (clock : pairRuns s t = true)
    (noTable : tableAddr d = none) (turn : waitBehind s t q d = false) : descriptorStartEffect t q s = afterStart s t q d := by
  have free : slotFree (seqrOf s t) q = true := decide_eq_true place
  simp only [descriptorStartEffect, head, ctx, free, fence, wait, spin, clock, turn, noTable, not_true, Bool.false_eq_true, or_self,
    if_false, Option.isSome_none, false_and, afterStart, atStart]

theorem afterStart_tail_kept (s : State) (t : Nat) (q : DescQueue) (d : Desc) :
    Kept [.tile] (takeWait (atStart s t d) t d) (afterStart s t q d) := by
  have admitted := admitHeld_kept (q := q) (t := t) (List.Subset.refl _) (updDesc_kept (t := t) (seq := d.seq) (f := fun e =>
    { e with phase := .started, tbl := [], clk := pairClock (atStart s t d) (t / 32), snap := (atStart s t d).tile.store })
    (List.Subset.refl _) (Kept.refl [.tile] (takeWait (atStart s t d) t d)))
  exact Kept.ite (dmaAsk_kept (List.Subset.refl _) admitted) admitted

theorem afterStart_frame (s : State) (t : Nat) (q : DescQueue) (d : Desc) : s.changesOnly [.sem, .tile] (afterStart s t q d) := by
  have tile : ∀ {p : Part}, p ∉ [Part.sem, Part.tile] → p ∉ [Part.tile] := fun h k => h (List.mem_cons_of_mem _ k)
  have taken : Kept [.sem] (atStart s t d) (takeWait (atStart s t d) t d) := takeWait_kept (List.Subset.refl _) (Kept.refl _ _)
  intro p hp
  refine Part.same_trans ((atStart_kept s t d).frame p (tile hp)) (Part.same_trans (taken.frame p ?_) ((afterStart_tail_kept s t q d).frame p (tile hp)))
  exact fun k => hp (List.mem_singleton.1 k ▸ List.mem_cons_self)

theorem afterStart_started {s : State} {t : Nat} {d : Desc} (mem : d ∈ (seqrOf s t).descs) (q : DescQueue) :
    ∃ e ∈ (seqrOf (afterStart s t q d) t).descs, e.seq = d.seq ∧ e.w = d.w ∧ e.phase = .started := by
  have mem' : d ∈ (seqrOf (takeWait (atStart s t d) t d) t).descs := by simpa using mem
  have admitted := admitHeld_exists q (updDesc_started mem' [] (pairClock (atStart s t d) (t / 32)) (atStart s t d).tile.store)
  unfold afterStart
  dsimp only
  split
  · exact updDesc_exists (fun _ => id) admitted
  · exact admitted

/-- The header's wait is taken from its semaphore (R67). -/
theorem afterStart_sem {s : State} {t : Nat} {d : Desc} (waits : d.bit 0 26 = true) (q : DescQueue) :
    semGet (afterStart s t q d) t (d.fld 0 23 16) = semGet s t (d.fld 0 23 16) - d.fld 1 31 16 := by
  rw [semGet_of_sem ((afterStart_tail_kept s t q d).frame .sem (by decide)), takeWait, if_pos waits, semGet_semPut_same,
    semGet_of_sem ((atStart_kept s t d).frame .sem (by decide))]

/-! ### Completion -/

theorem descriptorCompleteEffect_leaves {s : State} {t : Nat} {q : DescQueue} {d : Desc} (oldest : (inQueue q (seqrOf s t).descs).head? = some d)
    (done : d.phase = .done) (left : hasLeft s t d = true) :
    descriptorCompleteEffect t q s =
      completionSignal (updSeqr s t fun z => { z with descs := z.descs.filter fun e => e.seq ≠ d.seq }) t d := by
  simp only [descriptorCompleteEffect, oldest, done, left, and_self, if_true]

theorem updSeqr_filter_seq (s : State) (t n : Nat) :
    ∀ e ∈ (seqrOf (updSeqr s t fun z => { z with descs := z.descs.filter fun e => e.seq ≠ n }) t).descs, e.seq ≠ n := by
  intro e he
  rw [seqrOf_updSeqr, if_pos rfl] at he
  simpa using (List.mem_filter.1 he).2

/-! ### The obligation -/

/-- Settles O17: an issue is the stamp of R231 and the entry into queue or hold; a start marks the head and takes its wait; a
completion removes the oldest and gives its signal. -/
theorem descriptorLifeCycle : Obligations.DescriptorLifeCycle := by
  unfold Obligations.DescriptorLifeCycle
  refine ⟨fun s t pc addr c k q ctx running free goesOn clock inStore read sound unit room => ?_,
    fun s t pc addr c k ctx running free goesOn clock inStore read sound noRoom => ?_,
    fun s c k other => stampColl_other other s c, fun s c k cls op => ?_,
    fun s t q d c head ctx place fence wait spin clock noTable turn => ?_, fun s t q d oldest done left quiet => ?_,
    fun s t q d oldest done left asked room => ?_⟩
  · have h : Issues s t.val addr c k := ⟨ctx, running, free, goesOn, clock, inStore, read, sound⟩
    refine ⟨descriptorIssueEffect t.val pc addr s, rfl, ?_⟩
    beta_reduce
    rw [seqrOf_issue_queued h unit room]
    exact ⟨rfl, rfl, rfl, free, rfl, descriptorIssueEffect_job h pc, descriptorIssueEffect_frame h pc⟩
  · have h : Issues s t.val addr c k := ⟨ctx, running, free, goesOn, clock, inStore, read, sound⟩
    refine ⟨descriptorIssueEffect t.val pc addr s, rfl, ?_⟩
    beta_reduce
    rw [seqrOf_issue_held h fun q unit => by rw [unit] at noRoom; exact noRoom]
    exact ⟨rfl, rfl, rfl, rfl, rfl, descriptorIssueEffect_job h pc, descriptorIssueEffect_frame h pc⟩
  · rw [stampColl_collective cls op, ctxOf_updFab, if_pos rfl]
    exact ⟨rfl, rfl⟩
  · have mem : d ∈ (seqrOf s t.val).descs := (List.mem_filter.1 (List.mem_of_find?_eq_some head)).1
    exact ⟨_, congrArg Host.Outcome.next (descriptorStartEffect_starts head ctx place fence wait spin clock noTable turn),
      afterStart_started mem q, fun waits => afterStart_sem waits q, afterStart_frame s t q d⟩
  · refine ⟨_, congrArg Host.Outcome.next ((descriptorCompleteEffect_leaves oldest done left).trans (completionSignal_of_none quiet _ _)),
      updSeqr_filter_seq s t.val d.seq, rfl, (updSeqr_kept (List.Subset.refl _) (Kept.refl _ s)).frame⟩
  · refine ⟨_, congrArg Host.Outcome.next ((descriptorCompleteEffect_leaves oldest done left).trans (completionSignal_fits asked room)),
      updSeqr_filter_seq s t.val d.seq, semGet_semPut_same .., ?_⟩
    exact (semPut_kept (by decide) (updSeqr_kept (by decide) (Kept.refl _ s))).frame

end Sys2Proof.Proofs
end

section
/-! Units at work alone (R62, R67), and the vector unit (R86 to R88): a VEC of one microinstruction writes one register. -/

namespace Sys2Proof.Proofs

open Sys2Proof Sys2Proof.Machine Sys2Proof.Laws

/-! ### A unit alone in its stores -/

theorem pickDesc_some {s : State} {t k i : Nat} {d : Desc} (picked : pickDesc s t k i = some d) :
    d ∈ (seqrOf s t).descs ∧ d.cls = k ∧ d.phase = .started := by
  obtain ⟨mem, is⟩ := List.mem_filter.1 (List.mem_of_getElem? picked)
  exact ⟨mem, of_decide_eq_true is⟩

/-- Where no error waits, no other unit works and the stores stand as at the start, a descriptor that draws no spin bits does
its work on the state as it is (R62). -/
theorem unitEffect_quiet {s : State} {k t i : Nat} {d : Desc} (picked : pickDesc s t k i = some d) (quiet : s.quietWork t d)
    (noSpin : drawsSpin s t d = false) : unitEffect k t i s = unitWork k t i s := by
  obtain ⟨noUpsets, alone, unchanged⟩ := quiet
  simp only [unitEffect, picked, storesMet, noUpsets, if_true, alone, List.map_nil, List.filter_nil, unchanged, clocked, noSpin,
    Bool.false_eq_true, if_false]

/-- A descriptor whose work is done waits to be reported (R68). -/
theorem markDone_done {s : State} {t : Nat} {d : Desc} (mem : d ∈ (seqrOf s t).descs) :
    ∃ e ∈ (seqrOf (markDone s t d.seq) t).descs, e.seq = d.seq ∧ e.phase = .done := by
  rw [markDone, updDesc, seqrOf_updSeqr, if_pos rfl]
  refine ⟨_, List.mem_map_of_mem mem, ?_⟩
  rw [if_pos rfl]
  exact ⟨rfl, rfl⟩

/-! ### Vector registers -/

theorem mget_foldl_mset_zipIdx (xs : List Word) (m : NMap Word) (b n k : Nat) :
    mget ((xs.zipIdx n).foldl (fun m x => mset m 0 (b + x.2) x.1) m) 0 k =
      if b + n ≤ k ∧ k < b + n + xs.length then xs.getD (k - (b + n)) 0 else mget m 0 k := by
  induction xs generalizing m n with
  | nil => simp
  | cons x xs ih =>
    rw [List.zipIdx_cons, List.foldl_cons, ih, mget_mset, List.length_cons]
    by_cases first : k = b + n
    · subst first
      simp
    · by_cases later : b + (n + 1) ≤ k ∧ k < b + (n + 1) + xs.length
      · rw [if_pos later, if_pos (by omega), show k - (b + n) = k - (b + (n + 1)) + 1 by omega, List.getD_cons_succ]
      · rw [if_neg later, if_neg first, if_neg (by omega)]

/-- A register reads the lanes it was written (R86). -/
theorem vget_vput_same {xs : List Word} (full : xs.length = 128) (s : State) (t v : Nat) : vget (vput s t v xs) t v = xs := by
  apply List.ext_getElem
  · simp [vget, full]
  · intro i _ hi
    simp only [vget, vput, List.getElem_map, List.getElem_range, mget_foldl_mset_zipIdx]
    rw [if_pos (by omega), Nat.add_zero, Nat.add_sub_cancel_left, List.getD_eq_getElem _ _ hi]

/-- Another register of the tile reads what it held. -/
theorem vget_vput_ne {xs : List Word} (full : xs.length = 128) {v w : Nat} (other : w ≠ v) (s : State) (t : Nat) :
    vget (vput s t v xs) t w = vget s t w := by
  refine List.map_congr_left fun i hi => ?_
  have hi := List.mem_range.1 hi
  exact (mget_foldl_mset_zipIdx xs s.tile.vreg ((t * 32 + v) * 128) 0 ((t * 32 + w) * 128 + i)).trans (if_neg (by omega))

@[simp] theorem vget_length (s : State) (t v : Nat) : (vget s t v).length = 128 := by simp [vget]

@[simp] theorem vget_markDone (s : State) (t n u v : Nat) : vget (markDone s t n) u v = vget s u v := rfl

/-! ### Microinstructions -/

/-- A VEC of one microinstruction that is neither vspin nor vst draws no spin bits (R103). -/
theorem drawsSpin_single {s : State} {t x : Nat} {d : Desc} (cls : d.cls = 4) (prog : vecProgram s t d = [x])
    (notSpin : (microOf x).op ≠ 0x12) (notStore : (microOf x).op ≠ 0x02) : drawsSpin s t d = false := by
  have h1 : bits x 63 58 ≠ 0x12 := notSpin
  have h2 : bits x 63 58 ≠ 0x02 := notStore
  simp [drawsSpin, cls, prog, h1, h2]

/-- The operation codes of the lane-wise microinstructions (R88). -/
def laneOps : List Nat := [0x03, 0x04, 0x05, 0x06, 0x07, 0x08, 0x09, 0x0A, 0x0B, 0x0C, 0x0D, 0x0E, 0x0F, 0x13]

/-- A lane-wise microinstruction that every lane accepts writes its register. -/
theorem vecOp_lanes {s : State} {p : VecAt} {m : MicroOp} {lanes : List Word} (op : m.op ∈ laneOps)
    (valid : (List.zip (vget s p.t m.va) (List.zip (vget s p.t m.vb) (vget s p.t m.vc))).map (fun x => laneOp m x.1 x.2.1 x.2.2)
      = lanes.map some) : vecOp s p m = .ok (vput s p.t m.vd lanes) := by
  unfold vecOp
  dsimp only
  split
  case h_11 =>
    rw [valid, if_pos (by simp), List.filterMap_map]
    simp
  all_goals next code => exact absurd (code ▸ op) (by decide)

/-- A plain vld through pointer 0 widens 128 FP32 elements into its register. -/
theorem vecOp_load {s : State} {t : Nat} {d : Desc} {m : MicroOp} (op : m.op = 0x01) (fmt : m.sub = 0) (ptr : m.va = 0) (off : m.imm = 0)
    (inStore : d.sa 4 + 512 ≤ storeEnd) :
    vecOp s ⟨t, d, 0⟩ m = .ok (vput s t m.vd ((readElems s t .fp32 (d.sa 4) 128).map (vldElem .fp32))) := by
  have place : vecAddr ⟨t, d, 0⟩ m = some (d.sa 4) := by simp [vecAddr, ptr, off, fld, bits]
  have form : fmtOf (0 / 4) = some .fp32 := rfl
  have size : ¬ storeEnd < d.sa 4 + vecBytes .fp32 := inStore.not_gt
  simp only [vecOp, op, vecLoad, form, place, fmt, size, Nat.zero_mod, ne_eq, not_true, if_false]

/-- One iteration of one microinstruction is that microinstruction (R86). -/
theorem vecWork_single {s u : State} {t c x : Nat} {d : Desc} (picked : pickDesc s t 4 0 = some d) (ctx : tileCtx s t = some c)
    (prog : vecProgram s t d = [x]) (once : d.fld 3 15 0 = 1) (runs : vecOp s ⟨t, d, 0⟩ (microOf x) = .ok u) :
    vecWork t s = markDone u t d.seq := by
  have program : ((List.range 1).flatMap fun i => [x].map fun u => (i, u)) = [(0, x)] := rfl
  simp only [vecWork, picked, ctx, prog, once, program, vecRun, runs]

/-- A VEC of one microinstruction that gives a register its lanes: the register reads them, the others what they held, and
the descriptor is done. -/
theorem vecEffect_single {s : State} {t c x : Nat} {d : Desc} {lanes : List Word} (picked : pickDesc s t 4 0 = some d)
    (ctx : tileCtx s t = some c) (quiet : s.quietWork t d) (prog : vecProgram s t d = [x]) (once : d.fld 3 15 0 = 1)
    (notSpin : (microOf x).op ≠ 0x12) (notStore : (microOf x).op ≠ 0x02) (full : lanes.length = 128)
    (runs : vecOp s ⟨t, d, 0⟩ (microOf x) = .ok (vput s t (microOf x).vd lanes)) :
    vget (vecEffect t s) t (microOf x).vd = lanes ∧ (∀ v, v ≠ (microOf x).vd → vget (vecEffect t s) t v = vget s t v) ∧
      (∃ e ∈ (seqrOf (vecEffect t s) t).descs, e.seq = d.seq ∧ e.phase = .done) ∧ s.changesOnly [.vreg, .tile] (vecEffect t s) := by
  obtain ⟨mem, cls, -⟩ := pickDesc_some picked
  have result : vecEffect t s = markDone (vput s t (microOf x).vd lanes) t d.seq :=
    (unitEffect_quiet picked quiet (drawsSpin_single cls prog notSpin notStore)).trans (vecWork_single picked ctx prog once runs)
  rw [result]
  refine ⟨?_, fun v other => ?_, markDone_done mem, (markDone_kept (by decide) (vput_kept (by decide) (Kept.refl _ s))).frame⟩
  · rw [vget_markDone, vget_vput_same full]
  · rw [vget_markDone, vget_vput_ne full other]

/-! ### The obligation -/

/-- Settles O23: both forms give one register 128 lanes, and neither draws spin bits. -/
theorem vectorLaneOperations : Obligations.VectorLaneOperations := by
  unfold Obligations.VectorLaneOperations
  refine ⟨fun s t d c x lanes picked ctx quiet prog once op valid => ⟨vecEffect t.val s, rfl, ?_⟩,
    fun s t d c x picked ctx quiet prog once op fmt ptr off inStore => ⟨vecEffect t.val s, rfl, ?_⟩⟩
  · have full : lanes.length = 128 := by simpa using (congrArg List.length valid).symm
    obtain ⟨written, others, done, frame⟩ := vecEffect_single picked ctx quiet prog once (fun e => absurd (e ▸ op) (by decide))
      (fun e => absurd (e ▸ op) (by decide)) full (vecOp_lanes op valid)
    exact ⟨written, fun v _ => others v, done, frame⟩
  · obtain ⟨written, -, -, frame⟩ := vecEffect_single picked ctx quiet prog once (by rw [op]; decide) (by rw [op]; decide)
      (by simp [readElems]) (vecOp_load op fmt ptr off inStore)
    exact ⟨written, frame⟩

end Sys2Proof.Proofs
end

section
/-! The rows of a DMA (R78, R79, R154): where the statement of O21 fails. `tileCtx` names the context whose step is flagged as in
progress and does not ask that the context is loaded, while a DMA that reads goes on after each row only in a loaded job. -/

namespace Sys2Proof.Proofs

open Sys2Proof Sys2Proof.Machine Sys2Proof.Laws

/-- Only MATMUL, CONV and VEC draw spin bits (R103). -/
theorem drawsSpin_of_cls_one {d : Desc} (cls : d.cls = 1) (s : State) (t : Nat) : drawsSpin s t d = false := by
  simp [drawsSpin, cls]

/-- A DMA that reads for a job that is not loaded stops at its first row: it moves nothing and is not done. -/
theorem dmaCopy_of_not_loaded {s : State} {c t e a : Nat} {d : Desc} {f : DmaF} (inward : f.out = false)
    (allowed : extFault s c t f e f.rb = none) (calm : s.mem.upsets = []) (gone : (ctxOf s c).loaded = false) (rest : List (Nat × Nat)) :
    dmaCopy c t d f s ((e, a) :: rest) = s := by
  simp only [dmaCopy, allowed, inward, extMeet, calm, gone, Bool.false_eq_true, if_false, if_true, Bool.not_false]

/-- A started DMA of the last 16 bytes of device memory into a tile store. -/
def lateRead : Desc :=
  { seq := 0, addr := 0, w := [0x10000000, 0, 0xFFFFFFF0, 0x8F, 0x13FFF0, 16, 0x10001], phase := .started }

/-- Context 7 is torn down with its step flagged as in progress, and tile 511 of its course has a started DMA. -/
def tornInStep : State :=
  updSeqr (updCtx State.reset 7 fun j =>
    { j with
      state := .tornDown
      stepIn := true
      man := { courseMask := 2 ^ 31, regions := [{ base := 0, len := 0x9000000000, perm := 15, kind := 1, placed := true }] } })
    511 fun z => { z with descs := [lateRead] }

theorem lateRead_rows : dmaRows (dmaOf lateRead) = [(0x8FFFFFFFF0, 0x13FFF0)] := by decide +kernel

theorem lateRead_picked : pickDesc tornInStep 511 1 0 = some lateRead := by decide +kernel

theorem lateRead_quiet : tornInStep.quietWork 511 lateRead := by decide +kernel

theorem lateRead_allowed : extFault tornInStep 7 511 (dmaOf lateRead) 0x8FFFFFFFF0 (dmaOf lateRead).rb = none ∧
    extPoison tornInStep (dmaOf lateRead) 0x8FFFFFFFF0 (dmaOf lateRead).rb = none := by decide +kernel

theorem tornInStep_ctx : tileCtx tornInStep 511 = some 7 := by decide +kernel

/-- The DMA leaves the state as it is. -/
theorem dmaEffect_tornInStep : dmaEffect 511 0 tornInStep = tornInStep := by
  have work : dmaWork 511 0 tornInStep = dmaCopy 7 511 lateRead (dmaOf lateRead) tornInStep [(0x8FFFFFFFF0, 0x13FFF0)] := by
    rw [← lateRead_rows]
    simp only [dmaWork, lateRead_picked, tornInStep_ctx]
    rfl
  calc dmaEffect 511 0 tornInStep
      = dmaWork 511 0 tornInStep := unitEffect_quiet lateRead_picked lateRead_quiet (drawsSpin_of_cls_one (by decide +kernel) _ _)
    _ = dmaCopy 7 511 lateRead (dmaOf lateRead) tornInStep [(0x8FFFFFFFF0, 0x13FFF0)] := work
    _ = tornInStep := dmaCopy_of_not_loaded (by decide +kernel) lateRead_allowed.1 rfl (by decide +kernel) []

/-- Refutes O21: its first clause does not ask that the job is loaded. With context 7 torn down and its step still flagged as in
progress, every premise holds and the DMA is never done. -/
theorem not_rowsMoved : ¬ Obligations.RowsMoved := by
  unfold Obligations.RowsMoved
  rintro ⟨fromOutside, -⟩
  have allowed : ∀ r ∈ dmaRows (dmaOf lateRead), extFault tornInStep 7 511 (dmaOf lateRead) r.1 (dmaOf lateRead).rb = none ∧
      extPoison tornInStep (dmaOf lateRead) r.1 (dmaOf lateRead).rb = none := by
    rw [lateRead_rows]
    exact fun r hr => List.mem_singleton.1 hr ▸ lateRead_allowed
  obtain ⟨u, ran, -, -, ⟨e, mem, -, done⟩, -⟩ :=
    fromOutside tornInStep 511 0 lateRead 7 lateRead_picked tornInStep_ctx lateRead_quiet rfl (by decide +kernel) (by decide +kernel) allowed
  have same : tornInStep = u := dmaEffect_tornInStep ▸ Host.Outcome.next.inj ran
  have only : (seqrOf tornInStep 511).descs = [lateRead] := by decide +kernel
  have mem' : e ∈ (seqrOf tornInStep 511).descs := same ▸ mem
  rw [only, List.mem_singleton] at mem'
  rw [mem'] at done
  exact absurd done (by decide)

end Sys2Proof.Proofs
end

section
/-! The completion of a POST command (R126, R133): where the statement of O60 fails. The head of a ring is a 32-bit word, and the
clause of the completion lets a ring that ends inside device memory have more slots than such a word counts. -/

namespace Sys2Proof.Proofs

open Sys2Proof Sys2Proof.Machine Sys2Proof.Laws

theorem leNat_lt (bs : List Byte) : leNat bs < 256 ^ bs.length := by
  induction bs with
  | nil => exact Nat.one_pos
  | cons b t ih =>
    have low : b.toNat < 256 := b.isLt
    simp only [leNat, List.length_cons, Nat.pow_succ]
    omega

/-- A number read from `n` bytes of device memory fits in them. -/
theorem devNat_lt (s : State) (a n : Nat) : devNat s a n < 256 ^ n := by
  simpa [devNat, devRead] using leNat_lt (devRead s a n)

/-- An NMS command in slot 2³² − 1, run and found to keep nothing; its output address is 512 KiB. -/
def lastOfWord : PostRun :=
  { ctx := 7, slot := 2 ^ 32 - 1, w := [0x20000001, 0x1FFFF, 0x200000, 0, 0x200100, 0, 0, 0, 0x200200, 0, 0x80000, 0, 1, 0, 0, 0],
    result := some ([], 2 ^ 31, 0) }

/-- Job 7 runs and may write all of device memory; its ring on POST unit 0 lies at 1 MiB and has 2³² + 1 slots. -/
def wideRing : State :=
  { updCtx State.reset 7 fun j =>
      { j with
        state := .running
        man := { courseMask := 1, regions := [{ base := 0, len := 0x9000000000, perm := 15, kind := 1, placed := true }] } } with
    post := { base := [(7, 0x100000)], slots := [(7, 2 ^ 32 + 1)], run := [(0, some lastOfWord)] } }

/-- Refutes O60: its completion clause bounds the ring's end and not its slots. In a ring of 2³² + 1 slots the head that follows
slot 2³² − 1 is 2³², which the four bytes of the head cannot hold. -/
theorem not_postCommands : ¬ Obligations.PostCommands := by
  unfold Obligations.PostCommands
  rintro ⟨-, -, -, -, -, -, completes, -⟩
  obtain ⟨t, -, -, -, -, head, -⟩ :=
    completes wideRing 0 (2 ^ 31) 0 [] lastOfWord (by decide +kernel) rfl rfl (by decide +kernel) (by decide +kernel) (by decide +kernel)
      (by decide +kernel) (by decide) (by decide) (by decide +kernel)
  have next : (lastOfWord.slot + 1) % (postRing wideRing 0 lastOfWord.ctx).2 = 256 ^ 4 := by decide +kernel
  exact absurd (head.trans next) (devNat_lt _ _ 4).ne

end Sys2Proof.Proofs
end

section
/-! The loader (R149 to R152): a refused load writes only its result; an accepted one gives the lowest free context a fresh
job, and the courses on which no step is in progress that job's semaphores. -/

namespace Sys2Proof.Proofs

open Sys2Proof Sys2Proof.Machine Sys2Proof.Laws

/-! ### Maps written from maps -/

theorem mget_of_unlisted {α : Type} {m : NMap α} {k : Nat} (h : k ∉ m.map (·.1)) (d : α) : mget m d k = d := by
  induction m with
  | nil => rfl
  | cons p m ih =>
    obtain ⟨first, later⟩ := not_or.1 (mt List.mem_cons.2 h)
    rw [mget, if_neg first, ih later]

/-- Entries with distinct keys, written one after another: a listed key reads its entry, every other one what it held. -/
theorem mget_foldl_mset {α : Type} [DecidableEq α] {xs : NMap α} (distinct : (xs.map (·.1)).Nodup) (m : NMap α) (d : α) (k : Nat) :
    mget (xs.foldl (fun l p => mset l d p.1 p.2) m) d k = mget xs (mget m d k) k := by
  induction xs generalizing m with
  | nil => rfl
  | cons p xs ih =>
    obtain ⟨unlisted, distinct⟩ := List.nodup_cons.1 distinct
    rw [List.foldl_cons, ih distinct, mget_mset, mget]
    split
    · next e => exact mget_of_unlisted (e ▸ unlisted) p.2
    · rfl

/-- Entries written elsewhere leave a key, whatever default the reader uses. -/
theorem mget_foldl_mset_unlisted {α : Type} [DecidableEq α] {xs : NMap α} {k : Nat} (h : k ∉ xs.map (·.1)) (m : NMap α) (d e : α) :
    mget (xs.foldl (fun l p => mset l d p.1 p.2) m) e k = mget m e k := by
  induction xs generalizing m with
  | nil => rfl
  | cons p xs ih =>
    obtain ⟨first, later⟩ := not_or.1 (mt List.mem_cons.2 h)
    rw [List.foldl_cons, ih later, mget_mset_ne m d e p.1 p.2 first]

/-- Reading a map whose keys are moved, by a move that takes no other key of the map to the key read. -/
theorem mget_map_key {α : Type} {m : NMap α} {f : Nat → Nat} {k : Nat} (only : ∀ p ∈ m, f p.1 = f k → p.1 = k) (d : α) :
    mget (m.map fun p => (f p.1, p.2)) d (f k) = mget m d k := by
  induction m with
  | nil => rfl
  | cons p m ih =>
    have first : f k = f p.1 ↔ k = p.1 := ⟨fun e => (only p List.mem_cons_self e.symm).symm, congrArg f⟩
    simp only [List.map_cons, mget, first, ih fun q hq => only q (List.mem_cons_of_mem _ hq)]

/-! ### Job tiles and initial values -/

theorem coursesOf_sorted (m : Manifest) : (coursesOf m).Pairwise (· < ·) := List.pairwise_lt_range.filter _

theorem findIdx?_courseTiles (n t : Nat) :
    ((List.range 16).map (16 * n + ·)).findIdx? (· = t) = if t / 16 = n then some (t % 16) else none := by
  split
  · next mine =>
    refine List.findIdx?_eq_some_iff_getElem.2 ⟨by simp [Nat.mod_lt], ?_, fun j before => ?_⟩
    · simp [← mine, Nat.div_add_mod]
    · simp only [List.getElem_map, List.getElem_range, decide_eq_true_eq]
      omega
  · next other =>
    refine List.findIdx?_eq_none_iff.2 fun x hx => ?_
    obtain ⟨j, hj, rfl⟩ := List.mem_map.1 hx
    have := List.mem_range.1 hj
    exact decide_eq_false (by omega)

/-- The job tile of a tile follows from the rank of its course (R136). -/
theorem findIdx?_tiles {ns : List Nat} (sorted : ns.Pairwise (· < ·)) {t : Nat} (mine : t / 16 ∈ ns) :
    (ns.flatMap fun n => (List.range 16).map (16 * n + ·)).findIdx? (· = t) =
      some (16 * (ns.filter (· < t / 16)).length + t % 16) := by
  induction ns with
  | nil => exact absurd mine List.not_mem_nil
  | cons n ns ih =>
    obtain ⟨above, sorted⟩ := List.pairwise_cons.1 sorted
    rw [List.flatMap_cons, List.findIdx?_append, findIdx?_courseTiles]
    by_cases first : t / 16 = n
    · have none_below : (n :: ns).filter (· < t / 16) = [] := by
        refine List.filter_eq_nil_iff.2 fun x hx => ?_
        rcases List.mem_cons.1 hx with rfl | hx
        · simp [first]
        · simp [first, (above x hx).le]
      rw [if_pos first, none_below]
      simp
    · have later : t / 16 ∈ ns := (List.mem_cons.1 mine).resolve_left first
      rw [if_neg first, ih sorted later, List.filter_cons_of_pos (by simpa using above _ later)]
      simp only [Option.none_or, Option.map_some, List.length_cons, List.length_map, List.length_range, Option.some.injEq]
      omega

theorem mem_tilesOf_iff {m : Manifest} {t : Nat} : t ∈ tilesOf m ↔ t / 16 ∈ coursesOf m := by
  simp only [tilesOf, List.mem_flatMap, List.mem_map, List.mem_range]
  constructor
  · rintro ⟨n, hn, j, hj, rfl⟩
    rwa [show (16 * n + j) / 16 = n by omega]
  · exact fun h => ⟨_, h, t % 16, Nat.mod_lt _ (by decide), Nat.div_add_mod t 16⟩

/-- Number of a course among those of its job (R136). -/
def courseRank (m : Manifest) (n : Nat) : Nat := ((coursesOf m).filter (· < n)).length

theorem semInitOf_tile {m : Manifest} {t : Nat} (mine : t / 16 ∈ coursesOf m) (i : Nat) :
    semInitOf m t i = mget m.semInit 0 ((16 * courseRank m (t / 16) + t % 16) * 256 + i) := by
  have idx : (tilesOf m).findIdx? (· = t) = some (16 * courseRank m (t / 16) + t % 16) := findIdx?_tiles (coursesOf_sorted m) mine
  simp only [semInitOf, idx]

/-- A loaded manifest lists each initial value once (R147). -/
theorem parseManifest_semInit_sorted (img : List Byte) : ((parseManifest img).semInit.map (·.1)).Pairwise (· < ·) := by
  have wf : mwf (fun _ => 0) (parseManifest img).semInit := by
    refine List.foldlRecOn _ _ ⟨List.Pairwise.nil, by simp⟩ fun m hm e _ => ?_
    dsimp only
    split
    · exact List.foldlRecOn _ _ hm fun m hm j _ => mset_wf (d := fun _ => 0) _ _ hm
    · exact mset_wf (d := fun _ => 0) _ _ hm
  exact wf.1

/-! ### The semaphores of a course -/

/-- The key of the semaphore in course `n` that takes the initial value listed under `k` (R151). -/
def initKey (m : Manifest) (n k : Nat) : Nat := k - courseRank m n * 4096 + n * 4096

/-- The initial values of the tiles of a course, under the keys of the semaphores that take them. -/
def courseInit (m : Manifest) (n : Nat) : NMap Nat :=
  (m.semInit.filter fun p => decide (p.1 / 4096 = courseRank m n)).map fun p => (initKey m n p.1, p.2)

theorem courseInit_key {m : Manifest} {n k : Nat} (h : k ∈ (courseInit m n).map (·.1)) : k / 4096 = n := by
  simp only [courseInit, initKey, List.map_map, List.mem_map, List.mem_filter, Function.comp_apply, decide_eq_true_eq] at h
  obtain ⟨p, ⟨-, own⟩, rfl⟩ := h
  omega

theorem courseInit_distinct {m : Manifest} (sorted : (m.semInit.map (·.1)).Pairwise (· < ·)) (n : Nat) :
    ((courseInit m n).map (·.1)).Nodup := by
  have own := (List.pairwise_map.1 sorted).filter fun p => decide (p.1 / 4096 = courseRank m n)
  rw [courseInit, List.map_map, List.Nodup, List.pairwise_map]
  refine own.imp_of_mem fun {p q} hp hq below => ?_
  have hp := of_decide_eq_true (List.mem_filter.1 hp).2
  have hq := of_decide_eq_true (List.mem_filter.1 hq).2
  simp only [Function.comp_apply, initKey]
  omega

theorem mget_courseInit (m : Manifest) {t i : Nat} (hi : i < 256) :
    mget (courseInit m (t / 16)) 0 (t * 256 + i) = mget m.semInit 0 ((16 * courseRank m (t / 16) + t % 16) * 256 + i) := by
  have key : initKey m (t / 16) ((16 * courseRank m (t / 16) + t % 16) * 256 + i) = t * 256 + i := by
    rw [initKey]; omega
  rw [← key, courseInit, mget_map_key, mget_filter_key m.semInit 0 (fun k => decide (k / 4096 = courseRank m (t / 16))), if_pos]
  · exact decide_eq_true (by omega)
  · intro p hp same
    have hp := of_decide_eq_true (List.mem_filter.1 hp).2
    rw [key, initKey] at same
    omega

/-- A course that is set to a job's initial values: its semaphores read them (R151). -/
theorem semGet_semInitCourse_own {m : Manifest} (sorted : (m.semInit.map (·.1)).Pairwise (· < ·)) (s : State) {t i : Nat} (hi : i < 256)
    (mine : t / 16 ∈ coursesOf m) : semGet (semInitCourse s m (t / 16)) t i = semInitOf m t i := by
  have dflt : semDflt (semInitCourse s m (t / 16)) t i = 0 := by
    have known : mget (semInitCourse s m (t / 16)).tile.semUndef 0 (t / 16) = 0 :=
      (mget_mset s.tile.semUndef 0 (t / 16) 0 (t / 16)).trans (if_pos rfl)
    rw [semDflt, known]
  have emptied : mget (s.tile.sem.filter fun p => decide (p.1 / 4096 ≠ t / 16)) 0 (t * 256 + i) = 0 := by
    rw [mget_filter_key s.tile.sem 0 (fun k => decide (k / 4096 ≠ t / 16)), if_neg]
    exact fun h => of_decide_eq_true h (by omega)
  calc semGet (semInitCourse s m (t / 16)) t i
      = mget (courseInit m (t / 16)) (mget (s.tile.sem.filter fun p => decide (p.1 / 4096 ≠ t / 16)) 0 (t * 256 + i)) (t * 256 + i) := by
        rw [semGet, dflt]
        exact mget_foldl_mset (courseInit_distinct sorted _) _ 0 _
    _ = semInitOf m t i := by rw [emptied, mget_courseInit m hi, semInitOf_tile mine]

/-- The semaphores of the other courses read what they held. -/
theorem semGet_semInitCourse_other (s : State) (m : Manifest) {n t i : Nat} (hi : i < 256) (other : t / 16 ≠ n) :
    semGet (semInitCourse s m n) t i = semGet s t i := by
  have outside : (t * 256 + i) / 4096 ≠ n := by omega
  have dflt : semDflt (semInitCourse s m n) t i = semDflt s t i := by
    have same : mget (semInitCourse s m n).tile.semUndef 0 (t / 16) = mget s.tile.semUndef 0 (t / 16) :=
      mget_mset_ne s.tile.semUndef 0 0 n 0 other
    simp only [semDflt, same]
  rw [semGet, dflt]
  refine (mget_foldl_mset_unlisted (fun h => outside (courseInit_key h)) _ 0 _).trans ?_
  exact (mget_filter_key s.tile.sem _ (fun k => decide (k / 4096 ≠ n)) _).trans (if_pos (decide_eq_true outside))

/-! ### A course passes to the job that is loaded -/

/-- The two states have the same contexts and the same loads in waiting. -/
def SameJobs (s t : State) : Prop := t.job.ctxs = s.job.ctxs ∧ t.job.loads = s.job.loads

theorem SameJobs.trans {s t u : State} (h : SameJobs s t) (k : SameJobs t u) : SameJobs s u := ⟨k.1.trans h.1, k.2.trans h.2⟩

theorem SameJobs.of_job {s t : State} (h : t.job = s.job) : SameJobs s t := by rw [SameJobs, h]; exact ⟨rfl, rfl⟩

theorem SameJobs.ctx {s t : State} (h : SameJobs s t) (c : Nat) : ctxOf t c = ctxOf s c := by rw [ctxOf, h.1, ctxOf]

theorem SameJobs.courseHolder {s t : State} (h : SameJobs s t) (n : Nat) : courseHolder t n = courseHolder s n := by
  simp only [Machine.courseHolder, h.ctx]

/-- In the save area of a shared job its registers wait as zeros (R151). -/
def zeroSaveArea (s : State) (m : Manifest) (n : Nat) : State :=
  if m.exclusive then s
  else forEach ((List.range 16).map (16 * n + ·)) s fun s t => match saveAddr m t with
    | some a => devWrite s none a (List.replicate 16384 0)
    | none => s

theorem zeroSaveArea_kept (s : State) (m : Manifest) (n : Nat) : Kept [.dev, .mem, .store] s (zeroSaveArea s m n) := by
  unfold zeroSaveArea
  refine Kept.ite (Kept.refl _ s) (forEach_kept (Kept.refl _ s) fun x t h => ?_)
  split
  · exact devWrite_kept (by decide) h
  · exact h

/-- While a step holds the course, only the save area of the new job is written. -/
theorem loadCourse_held {s : State} {n : Nat} (held : courseHolder s n ≠ none) (c : Nat) :
    loadCourse s c n = zeroSaveArea s (ctxOf s c).man n := by
  unfold loadCourse
  rw [if_neg (by simpa using held)]
  rfl

/-- On a course that no step holds, the semaphores and registers are the new job's; what comes before them writes memories. -/
theorem loadCourse_free {s : State} {n : Nat} (free : courseHolder s n = none) (c : Nat) :
    ∃ u cc, Kept [.dev, .mem, .store] s u ∧ loadCourse s c n =
      { zeroVregs (semInitCourse u (ctxOf s c).man n) n with job := { u.job with courseCtx := cc } } := by
  unfold loadCourse
  rw [if_pos (by rw [free]; rfl)]
  refine ⟨_, _, writeKeep_kept (by decide) (Kept.ite (forEach_kept ?_ fun x t h => saveVregs_kept (by decide) h) ?_), rfl⟩
  all_goals exact zeroSaveArea_kept s (ctxOf s c).man n

theorem loadCourse_sameJobs (s : State) (c n : Nat) : SameJobs s (loadCourse s c n) := by
  by_cases free : courseHolder s n = none
  · obtain ⟨u, cc, kept, result⟩ := loadCourse_free free c
    have job : u.job = s.job := kept.frame .job (by decide)
    simp [SameJobs, result, job]
  · rw [loadCourse_held free]
    exact SameJobs.of_job ((zeroSaveArea_kept ..).frame .job (by decide))

/-- The semaphores of the course are set as its new job has them, and no others. -/
theorem semGet_loadCourse {s : State} {c n : Nat} (free : courseHolder s n = none)
    (sorted : ((ctxOf s c).man.semInit.map (·.1)).Pairwise (· < ·)) (mine : n ∈ coursesOf (ctxOf s c).man) (t : Nat) {i : Nat} (hi : i < 256) :
    semGet (loadCourse s c n) t i = if t / 16 = n then semInitOf (ctxOf s c).man t i else semGet s t i := by
  obtain ⟨u, cc, kept, result⟩ := loadCourse_free free c
  have sem : Part.same .sem (semInitCourse u (ctxOf s c).man n) (loadCourse s c n) := by
    rw [result]; exact ⟨rfl, rfl⟩
  rw [semGet_of_sem sem]
  split
  · next own => subst own; exact semGet_semInitCourse_own sorted u hi mine
  · next other => exact (semGet_semInitCourse_other u _ hi other).trans (semGet_of_sem (kept.frame .sem (by decide)) t i)

/-! ### All courses of the job -/

/-- The loader goes through courses of the job of context `c`. -/
def loadCourses (s : State) (c : Nat) (ns : List Nat) : State := forEach ns s fun s n => loadCourse s c n

theorem loadCourses_sameJobs (s : State) (c : Nat) (ns : List Nat) : SameJobs s (loadCourses s c ns) := by
  unfold loadCourses forEach
  exact List.foldlRecOn _ _ ⟨rfl, rfl⟩ fun t h n _ => h.trans (loadCourse_sameJobs t c n)

theorem semGet_loadCourses {c : Nat} {m : Manifest} (sorted : (m.semInit.map (·.1)).Pairwise (· < ·)) {ns : List Nat} (mine : ns ⊆ coursesOf m)
    {s : State} (man : (ctxOf s c).man = m) (free : ∀ n ∈ ns, courseHolder s n = none) (t : Nat) {i : Nat} (hi : i < 256) :
    semGet (loadCourses s c ns) t i = if t / 16 ∈ ns then semInitOf m t i else semGet s t i := by
  induction ns generalizing s with
  | nil => rfl
  | cons n ns ih =>
    obtain ⟨first, rest⟩ := List.cons_subset.1 mine
    have same := loadCourse_sameJobs s c n
    have later := ih rest (s := loadCourse s c n) ((congrArg JobCtx.man (same.ctx c)).trans man) fun x hx =>
      (same.courseHolder x).trans (free x (List.mem_cons_of_mem _ hx))
    have here := semGet_loadCourse (free n List.mem_cons_self) (man ▸ sorted) (man ▸ first) t hi
    rw [man] at here
    refine later.trans ?_
    rw [here]
    by_cases own : t / 16 = n <;> simp [own]

/-! ### Making a job live -/

/-- The manifest as a load leaves it in its context: the gather decisions are made (R156). -/
def liveManifest (s : State) (img : List Byte) : Manifest :=
  let m := parseManifest img
  let g := gatherKeep s m ((secEntries img 4).map fun e => lat e 0 1) (lat img 0x38 8)
  { m with
    keep := g.1
    regions := m.regions.zipIdx.map fun p => if p.1.kind = 4 then { p.1 with placed := g.2.contains p.2 } else p.1 }

/-- The context holds its fresh job and its bed scratch is undefined (R151, R360). -/
def placed (s : State) (c : Nat) (m : Manifest) : State :=
  let u := updCtx s c fun j => freshCtx j m
  if m.bedWays = 0 then u else bedTrim (undefScratch u c)

theorem placed_kept (s : State) (c : Nat) (m : Manifest) : Kept [.scratch, .mem] (updCtx s c fun j => freshCtx j m) (placed s c m) :=
  Kept.ite (Kept.refl _ _) (bedTrim_kept (by decide) (undefScratch_kept (by decide) (Kept.refl _ _)))

/-- After the courses only memories and the tables of Rink, POST and telemetry are written. -/
theorem makeLive_kept_courses (s : State) (c : Nat) (img : List Byte) :
    Kept [.dev, .mem, .rink, .post, .tel] (loadCourses (placed s c (liveManifest s img)) c (coursesOf (liveManifest s img))) (makeLive s c img) := by
  have hC : ([.dev, .mem, .rink, .post, .tel] : List Part) ⊆ [.dev, .mem, .rink, .post, .tel] := List.Subset.refl _
  unfold makeLive
  exact initStaging_kept (by decide) (Kept.put (giveEntries_kept (by decide) (Kept.refl _ _)))

/-- Of contexts and loads, making a job live changes the context that it takes. -/
theorem makeLive_sameJobs (s : State) (c : Nat) (img : List Byte) :
    SameJobs (updCtx s c fun j => freshCtx j (liveManifest s img)) (makeLive s c img) :=
  ((SameJobs.of_job ((placed_kept ..).frame .job (by decide))).trans (loadCourses_sameJobs ..)).trans
    (SameJobs.of_job ((makeLive_kept_courses ..).frame .job (by decide)))

theorem loads_makeLive (s : State) (c : Nat) (img : List Byte) : (makeLive s c img).job.loads = s.job.loads :=
  (makeLive_sameJobs s c img).2

theorem ctxOf_makeLive (s : State) (c : Nat) (img : List Byte) (d : Nat) :
    ctxOf (makeLive s c img) d = if d = c then freshCtx (ctxOf s c) (liveManifest s img) else ctxOf s d :=
  ((makeLive_sameJobs s c img).ctx d).trans (ctxOf_updCtx ..)

/-- A course that no step holds is held by none when a fresh job is placed. -/
theorem courseHolder_placed {s : State} {n : Nat} (free : courseHolder s n = none) (c : Nat) (m : Manifest) :
    courseHolder (placed s c m) n = none := by
  rw [(SameJobs.of_job ((placed_kept s c m).frame .job (by decide))).courseHolder]
  refine List.find?_eq_none.2 fun d hd => ?_
  have was := List.find?_eq_none.1 free d hd
  rw [ctxOf_updCtx]
  split
  · simp [freshCtx, JobCtx.inStep]
  · exact was

/-- On courses that no step holds, the new job's semaphores have their initial values (R151). -/
theorem semGet_makeLive {s : State} {img : List Byte} (free : ∀ n ∈ coursesOf (parseManifest img), courseHolder s n = none) (c : Nat)
    {t i : Nat} (mine : t ∈ tilesOf (liveManifest s img)) (hi : i < 256) :
    semGet (makeLive s c img) t i = semInitOf (liveManifest s img) t i := by
  have man : (ctxOf (placed s c (liveManifest s img)) c).man = liveManifest s img := by
    rw [(SameJobs.of_job ((placed_kept s c _).frame .job (by decide))).ctx, ctxOf_updCtx, if_pos rfl]
    rfl
  have sorted : ((liveManifest s img).semInit.map (·.1)).Pairwise (· < ·) := parseManifest_semInit_sorted img
  rw [semGet_of_sem ((makeLive_kept_courses s c img).frame .sem (by decide)),
    semGet_loadCourses sorted (List.Subset.refl _) man (fun n hn => courseHolder_placed (free n hn) c _) t hi,
    if_pos (mem_tilesOf_iff.1 mine)]

/-! ### The loader's check -/

/-- The answer to a load is the result of the JOB page and an event (R149, R457). -/
theorem loadDone_job (s : State) (code i : Nat) (c : Option Nat) :
    (loadDone s code i c).job =
      { s.job with result := BitVec.ofNat 32 (c.getD 0 * 2 ^ 24 + code * 2 ^ 16), resultIndex := i } := by
  have event : (loadDone s code i c).job = (jobResult s (c.getD 0) code i).job :=
    (raisePart_kept (List.Subset.refl _) (Kept.refl _ _)).frame .job (by decide)
  exact event.trans ((blockEvent_kept (List.Subset.refl _) (Kept.refl _ _)).frame .job (by decide))

theorem loadDone_sameJobs (s : State) (code i : Nat) (c : Option Nat) : SameJobs s (loadDone s code i c) := by
  rw [SameJobs, loadDone_job]
  exact ⟨rfl, rfl⟩

/-- The code's place in JOB_RESULT (R469). -/
theorem fld_result_code (c code : Nat) : fld (BitVec.ofNat 32 (c * 2 ^ 24 + code * 2 ^ 16)) 23 16 = code % 256 := by
  simp only [fld, bits, BitVec.toNat_ofNat, Nat.shiftRight_eq_div_pow]
  omega

/-- The loader is free to check its oldest load, with `img` as its image: the Hardom is idle and the image log has room
(R152, R382). `u` is the state without that load. -/
structure ChecksLoad (s : State) (hw : List Host.Cell) (img : List Byte) (u : State) : Prop where
  oldest : ∃ a n rest, s.job.loads = (a, n) :: rest ∧ img = (s.hostMem.writeCells hw).read a n ∧
    u = { s with hostMem := s.hostMem.writeCells hw, job := { s.job with loads := rest } }
  steady : s.boot.resetting = false
  idle : s.sec.busy = false
  clean : s.sec.scrubbing = false
  room : s.sec.images.length < 64

theorem ChecksLoad.kept {s u : State} {hw : List Host.Cell} {img : List Byte} (h : ChecksLoad s hw img u) :
    Kept [.out, .hostMem, .host, .job] s u := by
  obtain ⟨⟨a, n, rest, -, -, rfl⟩, -⟩ := h
  have hC : ([.out, .hostMem, .host, .job] : List Part) ⊆ [.out, .hostMem, .host, .job] := List.Subset.refl _
  exact Kept.put (Kept.refl _ s)

theorem ChecksLoad.ctx {s u : State} {hw : List Host.Cell} {img : List Byte} (h : ChecksLoad s hw img u) (c : Nat) : ctxOf u c = ctxOf s c := by
  obtain ⟨⟨a, n, rest, -, -, rfl⟩, -⟩ := h
  rfl

/-- A failing check is answered with its code and index (R149). -/
theorem loadCheckEffect_refused {s u : State} {hw : List Host.Cell} {img : List Byte} {code i : Nat} (h : ChecksLoad s hw img u)
    (fault : loadFault u img = some (code, i)) : loadCheckEffect hw s = loadDone u code i (if code = 0x03 then none else loadCtx u) := by
  obtain ⟨⟨a, n, rest, head, rfl, rfl⟩, steady, idle, clean, room⟩ := h
  simp [loadCheckEffect, head, steady, idle, clean, room.not_ge, fault]

/-- The state in which a load has passed its check: its image is logged and its job is live in context `c` (R151, R382). -/
def passed (u : State) (c : Nat) (img : List Byte) : State := makeLive (logImage u (Config.sha384 img)) c img

theorem loadCheckEffect_passed {s u : State} {hw : List Host.Cell} {img : List Byte} {c : Nat} (h : ChecksLoad s hw img u)
    (pass : loadFault u img = none) (ctx : loadCtx u = some c) : loadCheckEffect hw s = loadDone (passed u c img) 0 0 (some c) := by
  obtain ⟨⟨a, n, rest, head, rfl, rfl⟩, steady, idle, clean, room⟩ := h
  simp [loadCheckEffect, head, steady, idle, clean, room.not_ge, pass, ctx, passed]

/-- The manifest that a passed load gives its context. -/
def passedManifest (u : State) (img : List Byte) : Manifest := liveManifest (logImage u (Config.sha384 img)) img

theorem logImage_sameJobs (s : State) (d : Sha) : SameJobs s (logImage s d) :=
  SameJobs.of_job ((logImage_kept (List.Subset.refl _) (Kept.refl _ s)).frame .job (by decide))

theorem ctxOf_loaded (u : State) (c : Nat) (img : List Byte) (d : Nat) :
    ctxOf (loadDone (passed u c img) 0 0 (some c)) d = if d = c then freshCtx (ctxOf u c) (passedManifest u img) else ctxOf u d := by
  have image := (logImage_sameJobs u (Config.sha384 img)).ctx
  rw [(loadDone_sameJobs ..).ctx, passed, ctxOf_makeLive, image, image]
  rfl

theorem loads_loaded (u : State) (c : Nat) (img : List Byte) : (loadDone (passed u c img) 0 0 (some c)).job.loads = u.job.loads :=
  (loadDone_sameJobs ..).2.trans ((loads_makeLive ..).trans (logImage_sameJobs ..).2)

theorem semGet_loaded {u : State} {img : List Byte} (free : ∀ n ∈ coursesOf (parseManifest img), courseHolder u n = none) (c : Nat) {t i : Nat}
    (mine : t ∈ tilesOf (passedManifest u img)) (hi : i < 256) :
    semGet (loadDone (passed u c img) 0 0 (some c)) t i = semInitOf (passedManifest u img) t i := by
  rw [semGet_of_sem ((loadDone_kept (List.Subset.refl _) (Kept.refl _ _)).frame .sem (by decide)), passed]
  exact semGet_makeLive (fun n hn => ((logImage_sameJobs ..).courseHolder n).trans (free n hn)) c mine hi

/-! ### The load command -/

theorem jobLoadEffect_queued {s : State} (ready : isReady s = true) (room : s.job.loads.length < 8) (r : Nat) :
    jobLoadEffect r s = { s with job := { s.job with loads := s.job.loads ++ [(rw64 s 0x7118, (rw s 0x7120).toNat)] } } := by
  simp [jobLoadEffect, ready, room.not_ge]

theorem jobLoadEffect_busy {s : State} (ready : isReady s = true) (full : 8 ≤ s.job.loads.length) (r : Nat) :
    jobLoadEffect r s = jobResult s 0 0x22 0 := by
  simp [jobLoadEffect, ready, full]

/-! ### The obligation -/

/-- Settles O39: a load command queues or is BUSY; a check that fails changes no context, and one that passes makes the job
live in the context it takes. -/
theorem loadingAJob : Obligations.LoadingAJob := by
  unfold Obligations.LoadingAJob
  refine ⟨fun s r ready room => ⟨_, congrArg Host.Outcome.next (jobLoadEffect_queued ready room r.val), rfl, ?_⟩,
    fun s r ready full => congrArg Host.Outcome.next (jobLoadEffect_busy ready full r.val),
    fun s hw a n c rest img u head steady idle clean image room taken pass ctx => ?_,
    fun s hw a n c rest img u head steady idle clean image room taken pass ctx free => ?_,
    fun s hw a n code i rest img u head steady idle clean image room taken fault => ?_⟩
  · have hC : ([.job] : List Part) ⊆ [.job] := List.Subset.refl _
    exact (Kept.put (Kept.refl _ s)).frame
  · have checks : ChecksLoad s hw img u := ⟨⟨a, n, rest, head, image, taken⟩, steady, idle, clean, room⟩
    have live := (ctxOf_loaded u c img c).trans (if_pos rfl)
    refine ⟨_, congrArg Host.Outcome.next (loadCheckEffect_passed checks pass ctx), ?_, ?_, ?_, ?_, fun d _ other => ?_, ?_, ?_⟩
    · rw [live]; rfl
    · rw [live]; rfl
    · rw [live]; rfl
    · rw [live]; rfl
    · rw [ctxOf_loaded, if_neg other, checks.ctx]
    · rw [loads_loaded, taken]
    · rw [loadDone_job]; simp
  · have checks : ChecksLoad s hw img u := ⟨⟨a, n, rest, head, image, taken⟩, steady, idle, clean, room⟩
    refine ⟨_, congrArg Host.Outcome.next (loadCheckEffect_passed checks pass ctx), ?_⟩
    have man : (ctxOf (loadDone (passed u c img) 0 0 (some c)) c).man = passedManifest u img :=
      congrArg JobCtx.man ((ctxOf_loaded u c img c).trans (if_pos rfl))
    beta_reduce
    rw [man]
    exact fun k mine i hi => semGet_loaded (fun x hx => by simpa only [courseHolder, checks.ctx] using free x hx) c mine hi
  · have checks : ChecksLoad s hw img u := ⟨⟨a, n, rest, head, image, taken⟩, steady, idle, clean, room⟩
    refine ⟨_, congrArg Host.Outcome.next (loadCheckEffect_refused checks fault), fun d _ => ?_, ?_, ?_, ?_,
      (loadDone_kept (by decide) checks.kept).frame⟩
    · rw [(loadDone_sameJobs ..).ctx, checks.ctx]
    · rw [(loadDone_sameJobs ..).2, taken]
    · rw [loadDone_job]; exact fld_result_code _ _
    · rw [loadDone_job]

end Sys2Proof.Proofs
end

section
/-! Records in device memory (R157): what a read of a record finds after some of its bytes were written, and that a range
without a poisoned line has none in any part of it. -/

namespace Sys2Proof.Proofs

open Sys2Proof Sys2Proof.Machine Sys2Proof.Laws

/-! ### Little-endian numbers in lists -/

theorem leNat_take_lt (bs : List Byte) (n : Nat) : leNat (bs.take n) < 256 ^ n :=
  (leNat_lt _).trans_le (Nat.pow_le_pow_right (by decide) (List.length_take_le n bs))

theorem lat_lt (bs : List Byte) (o n : Nat) : lat bs o n < 256 ^ n := leNat_take_lt _ n

theorem lat_leBytes {n x : Nat} (h : x < 256 ^ n) : lat (leBytes n x) 0 n = x := by
  rw [lat, List.drop_zero, List.take_of_length_le (leBytes_length n x).le, leNat_leBytes, Nat.mod_eq_of_lt h]

theorem length_flatMap_const {α : Type} {f : α → List Byte} {w : Nat} (width : ∀ x, (f x).length = w) (xs : List α) :
    (xs.flatMap f).length = w * xs.length := by
  induction xs with
  | nil => simp
  | cons x xs ih => simp [width, ih, Nat.mul_succ, Nat.add_comm]

/-- Elements of equal width, one after another: the bytes at an element's place are its own. -/
theorem take_drop_flatMap {α : Type} {f : α → List Byte} {w : Nat} (width : ∀ x, (f x).length = w) {xs : List α} {i : Nat}
    (h : i < xs.length) : ((xs.flatMap f).drop (w * i)).take w = f xs[i] := by
  induction xs generalizing i with
  | nil => exact absurd h (Nat.not_lt_zero i)
  | cons x xs ih =>
    rw [List.flatMap_cons]
    cases i with
    | zero => rw [Nat.mul_zero, List.drop_zero, List.take_append_of_le_length (width x).ge, List.take_of_length_le (width x).le]; rfl
    | succ i =>
      have past : w * (i + 1) = (f x).length + w * i := by rw [width, Nat.mul_succ, Nat.add_comm]
      rw [past, ← List.drop_drop, List.drop_left]
      exact ih (Nat.lt_of_succ_lt_succ h)

theorem lat_flatMap_leBytes {α : Type} (v : α → Nat) (w : Nat) {xs : List α} {i : Nat} (h : i < xs.length) :
    lat (xs.flatMap fun x => leBytes w (v x)) (w * i) w = v xs[i] % 256 ^ w := by
  rw [lat, take_drop_flatMap (fun x => leBytes_length w (v x)) h, leNat_leBytes]

theorem lat_replicate_zero (m o n : Nat) : lat (List.replicate m (0 : Byte)) o n = 0 := by
  have zeros : ∀ j, leNat (List.replicate j (0 : Byte)) = 0 := fun j => by
    induction j with
    | zero => rfl
    | succ j ih => rw [List.replicate_succ, leNat, ih]; rfl
  rw [lat, List.drop_replicate, List.take_replicate, zeros]

/-! ### Reads of device memory -/

theorem devGet_of_dev {s t : State} (h : t.mem.dev = s.mem.dev) (a : Nat) : devGet t a = devGet s a := by rw [devGet, h, devGet]

theorem devRead_of_dev {s t : State} (h : t.mem.dev = s.mem.dev) (a n : Nat) : devRead t a n = devRead s a n :=
  List.map_congr_left fun _ _ => devGet_of_dev h _

theorem devNat_of_dev {s t : State} (h : t.mem.dev = s.mem.dev) (a n : Nat) : devNat t a n = devNat s a n := by
  rw [devNat, devRead_of_dev h, devNat]

@[simp] theorem devRead_length (s : State) (a n : Nat) : (devRead s a n).length = n := by rw [devRead, List.length_map, List.length_range]

theorem devRead_congr {s t : State} {a n : Nat} (h : ∀ i < n, devGet t (a + i) = devGet s (a + i)) : devRead t a n = devRead s a n :=
  List.map_congr_left fun i hi => h i (List.mem_range.1 hi)

/-- A part of what was read is a read of that part. -/
theorem take_drop_devRead (s : State) (a : Nat) {o n m : Nat} (h : o + n ≤ m) : ((devRead s a m).drop o).take n = devRead s (a + o) n := by
  refine List.ext_getElem (by simp; omega) fun i hi _ => ?_
  simp [devRead, Nat.add_assoc]

theorem lat_devRead (s : State) (a : Nat) {o n m : Nat} (h : o + n ≤ m) : lat (devRead s a m) o n = devNat s (a + o) n := by
  rw [lat, take_drop_devRead s a h, devNat]

/-- A written byte of the direct window reads as written, every other one as before. -/
theorem devGet_devWrite_direct {keep : Option Nat} {a : Nat} {bs : List Byte} (fits : bs.length + a ≤ 0x9000000000) (s : State) {x : Nat}
    (direct : x < 0x9000000000) :
    devGet (devWrite s keep a bs) x = if a ≤ x ∧ x < a + bs.length then bs.getD (x - a) 0 else devGet s x := by
  have dev : (devWrite s keep a bs).mem.dev = s.mem.dev.write a bs := memWrite_direct _ _ _ fits
  simp only [devGet, devAddr, direct, if_true, dev, Mem.get_write]

/-! ### Records -/

/-- The record lies in the direct window (R12, R160). -/
abbrev Direct (r : Rec) : Prop := r.addr + 65792 ≤ 0x9000000000

/-- The bytes lie in the record (R157). -/
abbrev FitsRecord (w : Nat × List Byte) : Prop := w.1 + w.2.length ≤ 65792

/-- Bytes o to o + n − 1 of the record are none of those written. -/
abbrev Apart (o n : Nat) (w : Nat × List Byte) : Prop := o + n ≤ w.1 ∨ w.1 + w.2.length ≤ o

/-- The address is outside the record, through whichever window. -/
abbrev OffRecord (r : Rec) (a : Nat) : Prop := ∀ i < 65792, devAddr a ≠ devAddr (r.addr + i)

/-- Bytes of a record written one range after another. -/
def recWrites (s : State) (r : Rec) (ws : List (Nat × List Byte)) : State := ws.foldl (fun s w => recWrite s r w.1 w.2) s

theorem recWrites_cons (s : State) (r : Rec) (w : Nat × List Byte) (ws : List (Nat × List Byte)) :
    recWrites s r (w :: ws) = recWrites (recWrite s r w.1 w.2) r ws := rfl

theorem recWrites_append (s : State) (r : Rec) (ws vs : List (Nat × List Byte)) :
    recWrites s r (ws ++ vs) = recWrites (recWrites s r ws) r vs := List.foldl_append

theorem recWrites_kept {C : List Part} {z s : State} {r : Rec} {ws : List (Nat × List Byte)} (hC : ([.dev, .mem] : List Part) ⊆ C)
    (h : Kept C z s) : Kept C z (recWrites s r ws) :=
  Kept.foldl (fun _ _ hx => recWrite_kept hC hx) h

theorem devGet_recWrite_off {r : Rec} {w : Nat × List Byte} (fits : FitsRecord w) {a : Nat} (off : OffRecord r a) (s : State) :
    devGet (recWrite s r w.1 w.2) a = devGet s a :=
  devGet_devWrite s none (r.addr + w.1) w.2 a fun i hi => by rw [Nat.add_assoc]; exact off (w.1 + i) (by omega)

/-- Writes within a record leave every byte outside it. -/
theorem devGet_recWrites_off {r : Rec} {ws : List (Nat × List Byte)} (fits : ∀ w ∈ ws, FitsRecord w) {a : Nat} (off : OffRecord r a)
    (s : State) : devGet (recWrites s r ws) a = devGet s a := by
  induction ws generalizing s with
  | nil => rfl
  | cons w ws ih =>
    rw [recWrites_cons, ih (fun v hv => fits v (List.mem_cons_of_mem _ hv)), devGet_recWrite_off (fits w List.mem_cons_self) off]

theorem devRead_recWrite_apart {r : Rec} (direct : Direct r) {w : Nat × List Byte} (fits : FitsRecord w) {o n : Nat} (inside : o + n ≤ 65792)
    (apart : Apart o n w) (s : State) : devRead (recWrite s r w.1 w.2) (r.addr + o) n = devRead s (r.addr + o) n :=
  devRead_congr fun i hi => by
    refine (devGet_devWrite_direct (by omega) s (by omega)).trans (if_neg ?_)
    rcases apart with before | after <;> omega

/-- Writes apart from a range of the record leave what it holds. -/
theorem devRead_recWrites_apart {r : Rec} (direct : Direct r) {ws : List (Nat × List Byte)} (fits : ∀ w ∈ ws, FitsRecord w) {o n : Nat}
    (inside : o + n ≤ 65792) (apart : ∀ w ∈ ws, Apart o n w) (s : State) :
    devRead (recWrites s r ws) (r.addr + o) n = devRead s (r.addr + o) n := by
  induction ws generalizing s with
  | nil => rfl
  | cons w ws ih =>
    rw [recWrites_cons, ih (fun v hv => fits v (List.mem_cons_of_mem _ hv)) fun v hv => apart v (List.mem_cons_of_mem _ hv),
      devRead_recWrite_apart direct (fits w List.mem_cons_self) inside (apart w List.mem_cons_self)]

/-- A range that a write covers reads as written. -/
theorem devRead_recWrite_within {r : Rec} (direct : Direct r) {w : Nat × List Byte} (fits : FitsRecord w) {o n : Nat}
    (within : o + n ≤ w.2.length) (s : State) : devRead (recWrite s r w.1 w.2) (r.addr + w.1 + o) n = (w.2.drop o).take n := by
  refine List.ext_getElem (by simp; omega) fun i hi _ => ?_
  have hi : i < n := by simpa using hi
  have read := devGet_devWrite_direct (keep := none) (a := r.addr + w.1) (bs := w.2) (by omega) s (x := r.addr + w.1 + o + i) (by omega)
  rw [if_pos (by omega), show r.addr + w.1 + o + i - (r.addr + w.1) = o + i by omega] at read
  have bound : o + i < w.2.length := by omega
  simpa [devRead, recWrite, List.getD_eq_getElem?_getD, bound] using read

/-- A range that one of the writes covers and no later one touches reads as that one wrote it. -/
theorem devRead_recWrites_within {r : Rec} (direct : Direct r) {w : Nat × List Byte} {vs : List (Nat × List Byte)}
    (fits : ∀ v ∈ w :: vs, FitsRecord v) {o n : Nat} (within : o + n ≤ w.2.length) (apart : ∀ v ∈ vs, Apart (w.1 + o) n v)
    (us : List (Nat × List Byte)) (s : State) :
    devRead (recWrites s r (us ++ w :: vs)) (r.addr + w.1 + o) n = (w.2.drop o).take n := by
  have own : FitsRecord w := fits w List.mem_cons_self
  rw [recWrites_append, recWrites_cons, Nat.add_assoc,
    devRead_recWrites_apart direct (fun v hv => fits v (List.mem_cons_of_mem _ hv)) (by omega) apart, ← Nat.add_assoc,
    devRead_recWrite_within direct own within]

theorem devNat_recWrites_within {r : Rec} (direct : Direct r) {w : Nat × List Byte} {vs : List (Nat × List Byte)}
    (fits : ∀ v ∈ w :: vs, FitsRecord v) {o n : Nat} (within : o + n ≤ w.2.length) (apart : ∀ v ∈ vs, Apart (w.1 + o) n v)
    (us : List (Nat × List Byte)) (s : State) :
    devNat (recWrites s r (us ++ w :: vs)) (r.addr + w.1 + o) n = lat w.2 o n := by
  rw [devNat, devRead_recWrites_within direct fits within apart, lat]

/-! ### Poison -/

theorem touchLines_subset {a n b m : Nat} (low : b ≤ a) (high : a + n ≤ b + m) (g : Nat) : touchLines g a n ⊆ touchLines g b m := by
  intro l hl
  unfold touchLines at hl ⊢
  split at hl
  · exact absurd hl List.not_mem_nil
  · next some_bytes =>
    obtain ⟨i, hi, line⟩ := List.mem_filterMap.1 hl
    have first : b / g ≤ a / g := Nat.div_le_div_right low
    have last : (n + a - 1) / g ≤ (m + b - 1) / g := Nat.div_le_div_right (by omega)
    rw [if_neg (by omega)]
    refine List.mem_filterMap.2 ⟨a / g - b / g + i, List.mem_range.2 ?_, ?_⟩
    · have := List.mem_range.1 hi
      omega
    · rwa [← Nat.add_assoc, Nat.add_sub_cancel' first]

/-- Where no line under a range is poisoned, none under a part of it is. -/
theorem poisonedAt_none_of_within {s : State} {b m : Nat} (clean : poisonedAt s b m = none) {a n : Nat} (low : b ≤ a) (high : a + n ≤ b + m) :
    poisonedAt s a n = none := by
  rw [poisonedAt, Option.map_eq_none_iff, List.find?_eq_none] at clean ⊢
  exact fun l hl => clean l (touchLines_subset low high 64 hl)

/-- No plane of a record that lies in it is poisoned where the record is not. -/
theorem recPoison_none {s : State} {r : Rec} (clean : poisonedAt s r.addr recBytes = none) {rs : List (Nat × Nat)}
    (inside : ∀ p ∈ rs, p.1 + p.2 ≤ recBytes) : recPoison s r rs = none :=
  List.findSome?_eq_none_iff.2 fun p hp => poisonedAt_none_of_within clean (Nat.le_add_right _ _) (by have := inside p hp; omega)

/-- Where no error waits in a memory, reading meets none (R247). -/
theorem meetRanges_quiet {s : State} (quiet : s.mem.upsets = []) (source ctx : Nat) (rs : List (Nat × Nat)) : meetRanges s source ctx rs = s :=
  if_pos quiet

theorem recMeet_quiet {s : State} (quiet : s.mem.upsets = []) (c : Nat) (r : Rec) (rs : List (Nat × Nat)) : recMeet s c r rs = s :=
  meetRanges_quiet quiet 3 c _

end Sys2Proof.Proofs
end

section
/-! What the trowels do to one record (R170, R175 to R179, R184): the planes that a sweep or an initialisation writes, then the
step and the digest in the record's header. -/

namespace Sys2Proof.Proofs

open Sys2Proof Sys2Proof.Machine Sys2Proof.Laws

/-! ### Writes that end with step and digest -/

/-- Writes of a record, then its step, then the digest of its master plane (R170, R179). -/
def sealRecord (s : State) (r : Rec) (ws : List (Nat × List Byte)) (step : Nat) : State :=
  storeDigest (recWrites s r (ws ++ [(0x48, leBytes 4 step)])) r

theorem recDigest_lt (bs : List Byte) : recDigest bs < 256 ^ 8 := (crc64 bs).isLt

/-- The last write of a sealed record: its digest. -/
def digestWrite (s : State) (r : Rec) : Nat × List Byte := (0x50, leBytes 8 (recDigest (devRead s (0x100 + r.addr) 16384)))

theorem digestWrite_fits (s : State) (r : Rec) : FitsRecord (digestWrite s r) := by simp [FitsRecord, digestWrite]

theorem digestWrite_apart (s : State) (r : Rec) {o : Nat} (past : 0x58 ≤ o) (n : Nat) : Apart o n (digestWrite s r) :=
  Or.inr (by simpa [digestWrite] using past)

theorem storeDigest_off (s : State) {r : Rec} {a : Nat} (off : OffRecord r a) : devGet (storeDigest s r) a = devGet s a :=
  devGet_recWrite_off (digestWrite_fits s r) off s

theorem storeDigest_apart (s : State) {r : Rec} (direct : Direct r) {o n : Nat} (inside : o + n ≤ 65792) (past : 0x58 ≤ o) :
    devRead (storeDigest s r) (r.addr + o) n = devRead s (r.addr + o) n :=
  devRead_recWrite_apart direct (digestWrite_fits s r) inside (digestWrite_apart s r past n) s

/-- The digest in the header is that of the master plane as it stands (R179). -/
theorem storeDigest_digest (s : State) {r : Rec} (direct : Direct r) :
    devNat (storeDigest s r) (r.addr + 0x50) 8 = recDigest (devRead (storeDigest s r) (r.addr + 0x100) 16384) := by
  have stored : devRead (storeDigest s r) (r.addr + 0x50 + 0) 8 = ((digestWrite s r).2.drop 0).take 8 :=
    devRead_recWrite_within direct (digestWrite_fits s r) (by simp [digestWrite]) s
  rw [storeDigest_apart s direct (by decide) (by decide), devNat, stored]
  exact (lat_leBytes (recDigest_lt _)).trans (by rw [Nat.add_comm])

theorem stepWrite_fits (step : Nat) : FitsRecord (0x48, leBytes 4 step) := by simp [FitsRecord]

theorem sealRecord_fits {ws : List (Nat × List Byte)} (fits : ∀ w ∈ ws, FitsRecord w) (step : Nat) :
    ∀ w ∈ ws ++ [(0x48, leBytes 4 step)], FitsRecord w := by
  intro w hw
  rcases List.mem_append.1 hw with hw | hw
  · exact fits w hw
  · rw [List.mem_singleton.1 hw]; exact stepWrite_fits step

section

variable {r : Rec} {ws : List (Nat × List Byte)} (s : State) (step : Nat) (fits : ∀ w ∈ ws, FitsRecord w)

include fits

theorem sealRecord_off {a : Nat} (off : OffRecord r a) : devGet (sealRecord s r ws step) a = devGet s a := by
  rw [sealRecord, storeDigest_off _ off, devGet_recWrites_off (sealRecord_fits fits step) off]

variable (direct : Direct r)

include direct

omit fits in
theorem sealRecord_digest : devNat (sealRecord s r ws step) (r.addr + 0x50) 8 =
    recDigest (devRead (sealRecord s r ws step) (r.addr + 0x100) 16384) := storeDigest_digest _ direct

omit fits in
theorem sealRecord_step : devNat (sealRecord s r ws step) (r.addr + 0x48) 4 = step % 2 ^ 32 := by
  have stored : devNat (recWrites s r (ws ++ [(0x48, leBytes 4 step)])) (r.addr + 0x48 + 0) 4 = lat (leBytes 4 step) 0 4 :=
    devNat_recWrites_within direct (w := (0x48, leBytes 4 step)) (fun v hv => by rw [List.mem_singleton.1 hv]; exact stepWrite_fits step)
      (by simp) (fun v hv => absurd hv List.not_mem_nil) ws s
  have kept : devRead (sealRecord s r ws step) (r.addr + 0x48) 4 = devRead (recWrites s r (ws ++ [(0x48, leBytes 4 step)])) (r.addr + 0x48) 4 :=
    devRead_recWrite_apart direct (digestWrite_fits _ r) (by decide) (Or.inl (by simp [digestWrite])) _
  rw [devNat, kept]
  refine stored.trans ?_
  rw [lat, List.drop_zero, List.take_of_length_le (leBytes_length 4 step).le, leNat_leBytes, show (256 : Nat) ^ 4 = 2 ^ 32 from rfl]

/-- What the writes cover past the header's digest reads as the last of them wrote it. -/
theorem sealRecord_within {us vs : List (Nat × List Byte)} {w : Nat × List Byte} (split : ws = us ++ w :: vs) {o n : Nat}
    (past : 0x58 ≤ w.1) (within : o + n ≤ w.2.length) (apart : ∀ v ∈ vs, Apart (w.1 + o) n v) :
    devNat (sealRecord s r ws step) (r.addr + w.1 + o) n = lat w.2 o n := by
  have own : FitsRecord w := fits w (by rw [split]; simp)
  have later : ∀ v ∈ vs ++ [(0x48, leBytes 4 step)], Apart (w.1 + o) n v := by
    intro v hv
    rcases List.mem_append.1 hv with hv | hv
    · exact apart v hv
    · rw [List.mem_singleton.1 hv]; exact Or.inr (by simp; omega)
  have each : ∀ v ∈ w :: (vs ++ [(0x48, leBytes 4 step)]), FitsRecord v := fun v hv =>
    sealRecord_fits fits step v (by rw [split, List.append_assoc]; exact List.mem_append_right _ hv)
  rw [devNat, sealRecord, Nat.add_assoc, storeDigest_apart _ direct (by omega) (by omega), ← Nat.add_assoc, split, List.append_assoc,
    List.cons_append, devRead_recWrites_within direct each within later, lat]

/-- What none of the writes touches past the header's digest stays. -/
theorem sealRecord_apart {o n : Nat} (inside : o + n ≤ 65792) (past : 0x58 ≤ o) (apart : ∀ w ∈ ws, Apart o n w) :
    devNat (sealRecord s r ws step) (r.addr + o) n = devNat s (r.addr + o) n := by
  have each : ∀ v ∈ ws ++ [(0x48, leBytes 4 step)], Apart o n v := by
    intro v hv
    rcases List.mem_append.1 hv with hv | hv
    · exact apart v hv
    · rw [List.mem_singleton.1 hv]; exact Or.inr (by simp; omega)
  rw [devNat, sealRecord, storeDigest_apart _ direct inside past, devRead_recWrites_apart direct (sealRecord_fits fits step) inside each, devNat]

end

@[simp] theorem countWritten_mem (s : State) (k nans ovf flush : Nat) : (countWritten s k nans ovf flush).mem = s.mem := rfl
@[simp] theorem startRec_job (s : State) (k idx : Nat) : (startRec s k idx).job = s.job := rfl

/-! ### A sweep of one record -/

/-- What a sweep of record `r` computes (R175 to R177). -/
def sweepOut (s : State) (r : Rec) (blk : List Byte) (step : Nat) : SweepOut :=
  sweepRec (fun off n => devRead s (r.addr + off) n) (hdrOf s r) blk step

/-- The planes that it writes, and wscale where the working copy is F8E4 (R170, R176). -/
def sweepWrites (h : List Byte) (o : SweepOut) : List (Nat × List Byte) :=
  (0x100, o.master) :: (0x4100, o.mom1) :: (0x8100, o.mom2) :: (0xE100, o.work) ::
    (if hWfmt h = 4 then [(0x14, leBytes 1 o.wscale)] else [])

theorem applySweep_eq (s : State) (k : Nat) (r : Rec) (blk : List Byte) (step : Nat) :
    applySweep s k r blk step = countWritten (sealRecord s r (sweepWrites (hdrOf s r) (sweepOut s r blk step)) step) k
      (sweepOut s r blk step).nans (sweepOut s r blk step).ovf (sweepOut s r blk step).flush := by
  by_cases f8 : hWfmt (hdrOf s r) = 4
  · simp [applySweep, sealRecord, sweepWrites, recWrites, sweepOut, f8]
  · simp [applySweep, sealRecord, sweepWrites, recWrites, sweepOut, f8]

theorem applySweep_dev (s : State) (k : Nat) (r : Rec) (blk : List Byte) (step : Nat) :
    (applySweep s k r blk step).mem.dev = (sealRecord s r (sweepWrites (hdrOf s r) (sweepOut s r blk step)) step).mem.dev := by
  rw [applySweep_eq, countWritten_mem]

theorem applySweep_job (s : State) (k : Nat) (r : Rec) (blk : List Byte) (step : Nat) : (applySweep s k r blk step).job = s.job :=
  (applySweep_kept (List.Subset.refl _) (Kept.refl _ s)).frame .job (by decide)

section

variable {s : State} {r : Rec} {blk : List Byte} {step : Nat}

/-- The new values of the parameters in use, in order. -/
def sweptParams (s : State) (r : Rec) (h blk : List Byte) : List (Word × Word × Word) := (List.range (hCount h)).map (sweptParam s r h blk)

/-- The elements of a sweep are those of the record: gradient, master and moments read at their places. -/
theorem sweepElems_eq (s : State) (r : Rec) (h blk : List Byte) :
    ((List.range (hCount h)).map fun i =>
      updElem (grpAt blk (hGroup h)) (wordAt blk 0x14)
        (widen (if hGfmt h = 2 then .fp16 else .bf16) (lat (devRead s (r.addr + planeOff 4) (2 * hCount h)) (2 * i) 2))
        (wordAt (devRead s (r.addr + planeOff 1) (4 * hCount h)) (4 * i)) (wordAt (devRead s (r.addr + planeOff 2) (4 * hCount h)) (4 * i))
        (wordAt (devRead s (r.addr + planeOff 3) (4 * hCount h)) (4 * i))) = sweptParams s r h blk := by
  refine List.map_congr_left fun i hi => ?_
  have hi := List.mem_range.1 hi
  simp only [wordAt]
  rw [lat_devRead s _ (by omega), lat_devRead s _ (by omega), lat_devRead s _ (by omega), lat_devRead s _ (by omega)]
  rfl

theorem sweepOut_master : (sweepOut s r blk step).master = (sweptParams s r (hdrOf s r) blk).flatMap fun v => leBytes 4 v.1.toNat := by
  rw [← sweepElems_eq]; exact List.flatMap_map ..

theorem sweepOut_mom1 : (sweepOut s r blk step).mom1 = (sweptParams s r (hdrOf s r) blk).flatMap fun v => leBytes 4 v.2.1.toNat := by
  rw [← sweepElems_eq]; exact List.flatMap_map ..

theorem sweepOut_mom2 : (sweepOut s r blk step).mom2 =
    if (grpAt blk (hGroup (hdrOf s r))).opt ≤ 1 then (sweptParams s r (hdrOf s r) blk).flatMap fun v => leBytes 4 v.2.2.toNat else [] := by
  rw [← sweepElems_eq]; exact congrArg (ite _ · []) (List.flatMap_map ..)

theorem workPlane_length_le (h : List Byte) (stoch : Bool) (step seed : Nat) (ws : List Word) :
    (workPlane h stoch step seed ws).1.length ≤ 2 * ws.length := by
  unfold workPlane
  dsimp only
  rw [length_flatMap_const fun x => leBytes_length _ _, List.length_map, List.length_zipIdx]
  split <;> omega

theorem sweptParams_length (s : State) (r : Rec) (h blk : List Byte) : (sweptParams s r h blk).length = hCount h := by simp [sweptParams]

theorem sweepOut_work_length : (sweepOut s r blk step).work.length ≤ 2 * hCount (hdrOf s r) :=
  (workPlane_length_le ..).trans (by simp)

theorem sweepOut_master_length : (sweepOut s r blk step).master.length = 4 * hCount (hdrOf s r) := by
  rw [sweepOut_master, length_flatMap_const fun v => leBytes_length 4 _, sweptParams_length]

theorem sweepOut_mom1_length : (sweepOut s r blk step).mom1.length = 4 * hCount (hdrOf s r) := by
  rw [sweepOut_mom1, length_flatMap_const fun v => leBytes_length 4 _, sweptParams_length]

theorem sweepOut_mom2_length : (sweepOut s r blk step).mom2.length =
    if (grpAt blk (hGroup (hdrOf s r))).opt ≤ 1 then 4 * hCount (hdrOf s r) else 0 := by
  rw [sweepOut_mom2]
  split
  · rw [length_flatMap_const fun v => leBytes_length 4 _, sweptParams_length]
  · rfl

theorem sweepWrites_fits (count : hCount (hdrOf s r) ≤ 4096) : ∀ w ∈ sweepWrites (hdrOf s r) (sweepOut s r blk step), FitsRecord w := by
  have master : (sweepOut s r blk step).master.length = 4 * hCount (hdrOf s r) := sweepOut_master_length
  have mom1 : (sweepOut s r blk step).mom1.length = 4 * hCount (hdrOf s r) := sweepOut_mom1_length
  have mom2 : (sweepOut s r blk step).mom2.length ≤ 4 * hCount (hdrOf s r) := by rw [sweepOut_mom2_length]; split <;> omega
  have work : (sweepOut s r blk step).work.length ≤ 2 * hCount (hdrOf s r) := sweepOut_work_length
  intro w hw
  simp only [sweepWrites, List.mem_cons] at hw
  rcases hw with rfl | rfl | rfl | rfl | hw
  · simp only [FitsRecord]; omega
  · simp only [FitsRecord]; omega
  · simp only [FitsRecord]; omega
  · simp only [FitsRecord]; omega
  · split at hw
    · rw [List.mem_singleton.1 hw]; simp [FitsRecord]
    · exact absurd hw List.not_mem_nil

/-- A range past the header is apart from the write of wscale. -/
theorem wscaleWrite_apart {h : List Byte} {o : SweepOut} {a n : Nat} (past : 0x58 ≤ a) {v : Nat × List Byte}
    (hv : v ∈ if hWfmt h = 4 then [(0x14, leBytes 1 o.wscale)] else []) : Apart a n v := by
  split at hv
  · rw [List.mem_singleton.1 hv]; exact Or.inr (by simp; omega)
  · exact absurd hv List.not_mem_nil

/-- Element `i` of a plane of four-byte values. -/
theorem lat_sweptPlane (f : Word × Word × Word → Word) {i : Nat} (hi : i < hCount (hdrOf s r)) :
    lat ((sweptParams s r (hdrOf s r) blk).flatMap fun v => leBytes 4 (f v).toNat) (4 * i) 4 = (f (sweptParam s r (hdrOf s r) blk i)).toNat := by
  rw [lat_flatMap_leBytes (fun v => (f v).toNat) 4 (by rwa [sweptParams_length])]
  simp only [sweptParams, List.getElem_map, List.getElem_range]
  exact Nat.mod_eq_of_lt (f _).isLt

variable (direct : Direct r) (count : hCount (hdrOf s r) ≤ 4096) (k : Nat)

include direct count

/-- The master value of every parameter in use after a sweep (R170, R175). -/
theorem applySweep_master {i : Nat} (hi : i < hCount (hdrOf s r)) :
    devNat (applySweep s k r blk step) (r.addr + 0x100 + 4 * i) 4 = (sweptParam s r (hdrOf s r) blk i).1.toNat := by
  rw [devNat_of_dev (applySweep_dev ..)]
  refine (sealRecord_within s step (sweepWrites_fits count) direct (us := []) (w := (0x100, _)) rfl (by simp only; omega) ?_ ?_).trans ?_
  · rw [sweepOut_master_length]; omega
  · refine List.forall_mem_cons.2 ⟨Or.inl (by simp only; omega), List.forall_mem_cons.2 ⟨Or.inl (by simp only; omega),
      List.forall_mem_cons.2 ⟨Or.inl (by simp only; omega), fun v hv => wscaleWrite_apart (by simp only; omega) hv⟩⟩⟩
  · simp only [sweepOut_master]
    exact lat_sweptPlane (fun v => v.1) hi

/-- The first moment of every parameter in use after a sweep (R170, R175). -/
theorem applySweep_mom1 {i : Nat} (hi : i < hCount (hdrOf s r)) :
    devNat (applySweep s k r blk step) (r.addr + 0x4100 + 4 * i) 4 = (sweptParam s r (hdrOf s r) blk i).2.1.toNat := by
  rw [devNat_of_dev (applySweep_dev ..)]
  refine (sealRecord_within s step (sweepWrites_fits count) direct (us := [(0x100, _)]) (w := (0x4100, _)) rfl (by simp only; omega) ?_ ?_).trans ?_
  · rw [sweepOut_mom1_length]; omega
  · refine List.forall_mem_cons.2 ⟨Or.inl (by simp only; omega), List.forall_mem_cons.2 ⟨Or.inl (by simp only; omega),
      fun v hv => wscaleWrite_apart (by simp only; omega) hv⟩⟩
  · simp only [sweepOut_mom1]
    exact lat_sweptPlane (fun v => v.2.1) hi

/-- The second moment after a sweep: new under Adam and AdamW, and as it stood under the others (R163, R175). -/
theorem applySweep_mom2 {i : Nat} (hi : i < hCount (hdrOf s r)) :
    devNat (applySweep s k r blk step) (r.addr + 0x8100 + 4 * i) 4 =
      if (grpAt blk (hGroup (hdrOf s r))).opt ≤ 1 then (sweptParam s r (hdrOf s r) blk i).2.2.toNat else devNat s (r.addr + 0x8100 + 4 * i) 4 := by
  rw [devNat_of_dev (applySweep_dev ..)]
  by_cases adam : (grpAt blk (hGroup (hdrOf s r))).opt ≤ 1
  · rw [if_pos adam]
    refine (sealRecord_within s step (sweepWrites_fits count) direct (us := [(0x100, _), (0x4100, _)]) (w := (0x8100, _)) rfl
      (by simp only; omega) ?_ ?_).trans ?_
    · rw [sweepOut_mom2_length, if_pos adam]; omega
    · exact List.forall_mem_cons.2 ⟨Or.inl (by simp only; omega), fun v hv => wscaleWrite_apart (by simp only; omega) hv⟩
    · simp only [sweepOut_mom2, if_pos adam]
      exact lat_sweptPlane (fun v => v.2.2) hi
  · have master : (sweepOut s r blk step).master.length = 4 * hCount (hdrOf s r) := sweepOut_master_length
    have mom1 : (sweepOut s r blk step).mom1.length = 4 * hCount (hdrOf s r) := sweepOut_mom1_length
    have mom2 : (sweepOut s r blk step).mom2.length = 0 := sweepOut_mom2_length.trans (if_neg adam)
    rw [if_neg adam, Nat.add_assoc]
    refine sealRecord_apart s step (sweepWrites_fits count) direct (by omega) (by omega) ?_
    refine List.forall_mem_cons.2 ⟨Or.inr (by simp only; omega), List.forall_mem_cons.2 ⟨Or.inr (by simp only; omega),
      List.forall_mem_cons.2 ⟨Or.inr (by simp only; omega), List.forall_mem_cons.2 ⟨Or.inl (by simp only; omega),
        fun v hv => wscaleWrite_apart (by omega) hv⟩⟩⟩⟩

omit count in
theorem applySweep_step : devNat (applySweep s k r blk step) (r.addr + 0x48) 4 = step % 2 ^ 32 := by
  rw [devNat_of_dev (applySweep_dev ..), sealRecord_step s step direct]

omit count in
theorem applySweep_digest : devNat (applySweep s k r blk step) (r.addr + 0x50) 8 =
    recDigest (devRead (applySweep s k r blk step) (r.addr + 0x100) 16384) := by
  rw [devNat_of_dev (applySweep_dev ..), devRead_of_dev (applySweep_dev ..), sealRecord_digest s step direct]

omit direct in
/-- A sweep writes no byte outside the record. -/
theorem applySweep_off {a : Nat} (off : OffRecord r a) : devGet (applySweep s k r blk step) a = devGet s a := by
  rw [devGet_of_dev (applySweep_dev ..), sealRecord_off s step (sweepWrites_fits count) off]

end

end Sys2Proof.Proofs
end

section
/-! Trowel commands (R173, R183 to R185): which command a trowel may take, and what starting it, counting a record, ending it
and failing it make of the job's list of commands. -/

namespace Sys2Proof.Proofs

open Sys2Proof Sys2Proof.Machine Sys2Proof.Laws

/-- The trowel commands of a job. -/
abbrev cmdsOf (s : State) (c : Nat) : List TrwCmd := (ctxOf s c).trn.cmds

theorem headCmd_some {s : State} {k op c : Nat} {x : TrwCmd} (head : headCmd s k op = some (c, x)) :
    x ∈ cmdsOf s c ∧ x.op = op ∧ k ∈ x.todo := by
  have waits := List.mem_of_find?_eq_some head
  obtain ⟨waits, may⟩ := List.mem_filter.1 waits
  obtain ⟨d, -, waits⟩ := List.mem_flatMap.1 waits
  obtain ⟨y, hy, same⟩ := List.mem_map.1 waits
  obtain ⟨rfl, rfl⟩ := Prod.mk.inj same
  obtain ⟨queued, todo⟩ := List.mem_filter.1 hy
  exact ⟨queued, of_decide_eq_true (Bool.and_eq_true_iff.1 may).1, List.contains_iff_mem.1 todo⟩

theorem cmdsOf_of_job {s t : State} (h : t.job = s.job) (c : Nat) : cmdsOf t c = cmdsOf s c := by rw [cmdsOf, ctxOf_of_job h]

/-! ### What becomes of a command in the list -/

theorem cmdsOf_updCmd (s : State) (c n : Nat) (f : TrwCmd → TrwCmd) :
    cmdsOf (updCmd s c n f) c = (cmdsOf s c).map fun x => if x.id = n then f x else x := by
  simp [cmdsOf, updCmd]

theorem mem_updCmd {s : State} {c n : Nat} {y : TrwCmd} (queued : y ∈ cmdsOf s c) (own : y.id = n) (f : TrwCmd → TrwCmd) :
    f y ∈ cmdsOf (updCmd s c n f) c := by
  rw [cmdsOf_updCmd]
  exact List.mem_map.2 ⟨y, queued, if_pos own⟩

/-- Whatever the trowel ends, no command of its number names the trowel any more. -/
theorem endOn_todo {s : State} {c k : Nat} {x y : TrwCmd} (left : y ∈ cmdsOf (endOn s c k x) c) (named : y.id = x.id) :
    k ∉ y.todo := by
  have left : y ∈ cmdsOf (updCmd s c x.id fun z => { z with todo := z.todo.filter (· ≠ k) }) c := by
    simp only [cmdsOf, endOn, ctxOf_updTrn, if_true] at left
    exact (List.mem_filter.1 left).1
  rw [cmdsOf_updCmd] at left
  obtain ⟨z, -, rfl⟩ := List.mem_map.1 left
  by_cases own : z.id = x.id
  · rw [if_pos own]; simp
  · rw [if_neg own] at named; exact absurd named own

/-- A command of the host, and a SWEEP, stays in the list when a trowel ends it. -/
theorem mem_endOn {s : State} {c k : Nat} {x y : TrwCmd} (queued : y ∈ cmdsOf s c) (own : y.id = x.id) (stays : y.op = 1 ∨ y.host = true) :
    { y with todo := y.todo.filter (· ≠ k) } ∈ cmdsOf (endOn s c k x) c := by
  simp only [cmdsOf, endOn, ctxOf_updTrn, if_true]
  refine List.mem_filter.2 ⟨mem_updCmd queued own _, ?_⟩
  rcases stays with sweep | host
  · simp [sweep]
  · simp [host]

theorem not_mem_filter_ne (k : Nat) (ks : List Nat) : k ∉ ks.filter (· ≠ k) := by simp

/-- A trowel that ends a host command after a good record counts the record (R185). -/
theorem exists_done {s : State} {c k : Nat} {x : TrwCmd} (queued : x ∈ cmdsOf s c) (host : x.host = true) :
    ∃ y ∈ cmdsOf (endOn (didOne s c x) c k x) c, y.id = x.id ∧ k ∉ y.todo ∧ y.done = x.done + 1 ∧ y.fails = x.fails :=
  ⟨_, mem_endOn (mem_updCmd queued rfl _) rfl (Or.inr host), rfl, not_mem_filter_ne k _, rfl, rfl⟩

/-- A trowel that stops a host command at a record names the record and the check that failed (R185). -/
theorem exists_failed {s : State} {c k idx code : Nat} {x : TrwCmd} (queued : x ∈ cmdsOf s c) (host : x.host = true) :
    ∃ y ∈ cmdsOf (failOn s c k idx code x) c, y.id = x.id ∧ k ∉ y.todo ∧ y.fails = x.fails ++ [(k, idx, code)] :=
  ⟨_, mem_endOn (mem_updCmd queued rfl _) rfl (Or.inr host), rfl, not_mem_filter_ne k _, rfl⟩

/-- A trowel that has worked on its last record counts it and ends the command, or fails it there with result 5 (R185). -/
theorem exists_judged {s : State} {c k idx : Nat} {x : TrwCmd} (queued : x ∈ cmdsOf s c) (host : x.host = true) (good : Prop) [Decidable good] :
    ∃ y ∈ (ctxOf (if good then endOn (didOne s c x) c k x else failOn s c k idx 5 x) c).trn.cmds, y.id = x.id ∧ k ∉ y.todo ∧
      (good → y.done = x.done + 1 ∧ y.fails = x.fails) ∧ (¬ good → y.fails = x.fails ++ [(k, idx, 5)]) := by
  split
  · next h =>
    obtain ⟨y, left, own, ended, counted⟩ := exists_done (k := k) queued host
    exact ⟨y, left, own, ended, fun _ => counted, fun bad => absurd h bad⟩
  · next h =>
    obtain ⟨y, left, own, ended, failed⟩ := exists_failed (k := k) (idx := idx) (code := 5) queued host
    exact ⟨y, left, own, ended, fun good => absurd good h, fun _ => failed⟩

theorem judged_kept {C : List Part} {z s : State} {c k idx : Nat} {x : TrwCmd} {good : Prop} [Decidable good] (hC : ([.job] : List Part) ⊆ C)
    (h : Kept C z s) : Kept C z (if good then endOn (didOne s c x) c k x else failOn s c k idx 5 x) :=
  Kept.ite (endOn_kept hC (didOne_kept hC h)) (failOn_kept hC h)

/-! ### Commands and the rest of the context -/

/-- Commands apart, a change of a command leaves its context. -/
theorem ctxOf_updCmd (s : State) (c n : Nat) (f : TrwCmd → TrwCmd) :
    ctxOf (updCmd s c n f) c = { ctxOf s c with trn := { (ctxOf s c).trn with cmds := cmdsOf (updCmd s c n f) c } } := by
  simp [cmdsOf, updCmd]

theorem ctxOf_beginOn (s : State) (c k : Nat) (x : TrwCmd) :
    ctxOf (beginOn s c k x) c = { ctxOf s c with trn := { (ctxOf s c).trn with cmds := cmdsOf (beginOn s c k x) c } } := ctxOf_updCmd ..

theorem ctxOf_endOn (s : State) (c k : Nat) (x : TrwCmd) :
    ctxOf (endOn s c k x) c = { ctxOf s c with trn := { (ctxOf s c).trn with cmds := cmdsOf (endOn s c k x) c } } := by
  simp [cmdsOf, endOn, updCmd]

end Sys2Proof.Proofs
end

section
/-! Contexts at rest: one that is neither RUNNING nor DRAINING keeps its state and its boundary through an apply, the ploughs and
absent parts that an apply may bring, and the scheduler; so a job that a fault ends is TORN_DOWN (R246, R359). -/

namespace Sys2Proof.Proofs

open Sys2Proof Sys2Proof.Machine Sys2Proof.Laws

/-- The context is in a state in which no step runs or drains, with its boundary as given. -/
structure Rests (c : Nat) (st : JState) (b : Boundary) (s : State) : Prop where
  state : (ctxOf s c).state = st
  bnd : (ctxOf s c).bnd = b
  notRunning : st ≠ .running
  notDraining : st ≠ .draining

section

variable {c : Nat} {st : JState} {b : Boundary} {s : State}

theorem Rests.of_ctxs (h : Rests c st b s) {t : State} (same : t.job.ctxs = s.job.ctxs) : Rests c st b t := by
  have ctx : ctxOf t c = ctxOf s c := by rw [ctxOf, same, ctxOf]
  exact ⟨ctx ▸ h.state, ctx ▸ h.bnd, h.notRunning, h.notDraining⟩

/-- What leaves the JOB page alone leaves every context at rest. -/
theorem Rests.of_kept (h : Rests c st b s) {C : List Part} {t : State} (k : Kept C s t) (out : Part.job ∉ C) : Rests c st b t :=
  h.of_ctxs (congrArg JobSt.ctxs (k.frame .job out))

theorem Rests.updCtx (h : Rests c st b s) {d : Nat} {f : JobCtx → JobCtx}
    (keep : d = c → (f (ctxOf s c)).state = (ctxOf s c).state ∧ (f (ctxOf s c)).bnd = (ctxOf s c).bnd) : Rests c st b (updCtx s d f) := by
  refine ⟨?_, ?_, h.notRunning, h.notDraining⟩
  · rw [ctxOf_updCtx]
    split
    · next own => subst own; exact (keep rfl).1.trans h.state
    · exact h.state
  · rw [ctxOf_updCtx]
    split
    · next own => subst own; exact (keep rfl).2.trans h.bnd
    · exact h.bnd

theorem Rests.updCtx_other (h : Rests c st b s) {d : Nat} (other : d ≠ c) (f : JobCtx → JobCtx) : Rests c st b (Machine.updCtx s d f) :=
  h.updCtx fun own => absurd own other

theorem Rests.updTrn (h : Rests c st b s) (d : Nat) (f : JobTrn → JobTrn) : Rests c st b (updTrn s d f) := h.updCtx fun _ => ⟨rfl, rfl⟩

theorem Rests.updFab (h : Rests c st b s) (d : Nat) (f : JobFab → JobFab) : Rests c st b (updFab s d f) := h.updCtx fun _ => ⟨rfl, rfl⟩

theorem Rests.forEach {α : Type} {f : State → α → State} (step : ∀ t a, Rests c st b t → Rests c st b (f t a)) {l : List α} {s : State}
    (h : Rests c st b s) : Rests c st b (forEach l s f) := by
  induction l generalizing s with
  | nil => exact h
  | cons a l ih => exact ih (step s a h)

theorem Rests.ite {p : Prop} [Decidable p] {t u : State} (h : Rests c st b t) (k : Rests c st b u) : Rests c st b (if p then t else u) := by
  split
  · exact h
  · exact k

/-! ### Events -/

theorem Rests.partEntry (h : Rests c st b s) (e : Ev) : Rests c st b (partEntry s e) :=
  h.of_kept (partEntry_kept (List.Subset.refl _) (Kept.refl _ s)) (by decide)

theorem Rests.jobEntry (h : Rests c st b s) (d : Nat) (e : Ev) : Rests c st b (jobEntry s d e) := by
  have entered : ∀ (m : Mem) (q : EvQ), Rests c st b (Machine.updCtx { s with hostMem := m } d fun j => { j with evq := q }) := fun m q => by
    refine Rests.updCtx ?_ fun _ => ⟨rfl, rfl⟩
    exact h.of_ctxs rfl
  unfold Machine.jobEntry
  exact Rests.ite ((entered _ _).of_kept (signalSource_kept (List.Subset.refl _) (Kept.refl _ _)) (by decide)) (entered _ _)

/-- An event of any job changes no more of a context than its event queue (R457). -/
theorem Rests.jobEvent (h : Rests c st b s) (d : Nat) (e : Ev) : Rests c st b (jobEvent s d e) := by
  unfold Machine.jobEvent
  exact Rests.ite (h.partEntry e) (Rests.ite (h.updCtx fun _ => ⟨rfl, rfl⟩) (h.jobEntry d e))

/-! ### The snowplough of another job -/

theorem Rests.parkPloughed (h : Rests c st b s) {d : Nat} (other : d ≠ c) (mode aborted : Nat) : Rests c st b (parkPloughed s d mode aborted) := by
  unfold Machine.parkPloughed parked
  exact (h.updCtx_other other _).jobEvent d _

theorem Rests.stopFab (h : Rests c st b s) (d : Nat) : Rests c st b (stopFab s d) := by
  unfold Machine.stopFab
  refine Rests.of_ctxs (s := Machine.updCtx s d _) ?_ rfl
  exact h.updCtx fun _ => ⟨rfl, rfl⟩

theorem Rests.stopJob (h : Rests c st b s) (d : Nat) : Rests c st b (stopJob s d) := by
  have tiles := h.of_kept (stopTiles_kept (c := d) (List.Subset.refl _) (Kept.refl _ s)) (by decide)
  have events : Rests c st b (stopEvents (Machine.stopFab (stopTiles s d) d) d) := (tiles.stopFab d).updCtx fun _ => ⟨rfl, rfl⟩
  exact (events.of_kept (postHalt_kept (List.Subset.refl _) (Kept.refl _ _)) (by decide)).of_kept
    (rinkStop_kept (List.Subset.refl _) (Kept.refl _ _)) (by decide)

theorem Rests.abortNow (h : Rests c st b s) {d : Nat} (other : d ≠ c) : Rests c st b (abortNow s d) := by
  have stopped : Rests c st b (resetSems (postDiscard (Machine.stopJob s d) d) d (heldCourses s d)) :=
    ((h.stopJob d).of_kept (postDiscard_kept (List.Subset.refl _) (Kept.refl _ _)) (by decide)).of_kept
      (resetSems_kept (List.Subset.refl _) (Kept.refl _ _)) (by decide)
  unfold Machine.abortNow
  exact Rests.ite (stopped.updCtx_other other _) ((stopped.updTrn d _).parkPloughed other _ _)

/-- The snowplough starts for a job that is RUNNING or DRAINING, and for no other (R258). -/
theorem Rests.ploughNow (h : Rests c st b s) (d : Nat) (mode : Plough) (cause : Nat) : Rests c st b (ploughNow s d mode cause) := by
  unfold Machine.ploughNow
  dsimp only
  split
  · exact h
  · next works =>
    have other : d ≠ c := by
      rintro rfl
      rcases not_not.1 works with running | draining
      · exact h.notRunning (h.state.symm.trans running)
      · exact h.notDraining (h.state.symm.trans draining)
    have begun : ∀ f, Rests c st b (Machine.updCtx s d f) := fun f => h.updCtx_other other f
    split
    · exact h
    · exact h
    · exact (begun _).abortNow other
    · exact (begun _).abortNow other
    · exact Rests.ite (begun _) ((begun _).parkPloughed other _ _)

theorem Rests.ploughSpread (h : Rests c st b s) (d : Nat) (mode : Plough) (cause : Nat) : Rests c st b (ploughSpread s d mode cause) := by
  have flooded : ∀ m, Rests c st b (floodPlough s d m cause) := fun m =>
    h.of_kept (floodPlough_kept (List.Subset.refl _) (Kept.refl _ s)) (by decide)
  unfold Machine.ploughSpread
  exact Rests.ite h (Rests.ite h ((flooded _).ploughNow d mode cause))

/-! ### Absent parts and links -/

theorem Rests.raisePart (h : Rests c st b s) (code : Nat) (f : EvF) : Rests c st b (raisePart s code f) := h.partEntry _

theorem Rests.absentNow (h : Rests c st b s) (x cause b23 : Nat) (port : Option Nat) : Rests c st b (absentNow s x cause b23 port) := by
  have entered : ∀ full : Bool, Rests c st b (if full = true then Machine.raisePart (addKey s 0x10 x 0) 0x0107 { coords := x }
      else { s with fab := { s.fab with absent := s.fab.absent ++ [(x, cause)] } }) := fun full => by
    refine Rests.ite (Rests.raisePart ?_ _ _) (h.of_ctxs rfl)
    exact h.of_kept (addKey_kept (List.Subset.refl _) (Kept.refl _ s)) (by decide)
  have flooded : ∀ {u : State}, Rests c st b u → Rests c st b (flood (refollow (cutLinks u x)) 0x10 0 (noticeBytes x b23 cause 0) port) := by
    intro u hu
    refine Rests.of_kept ?_ (flood_kept (List.Subset.refl _) (Kept.refl _ _)) (by decide)
    refine Rests.of_kept ?_ (refollow_kept (List.Subset.refl _) (Kept.refl _ _)) (by decide)
    exact hu.of_kept (cutLinks_kept (List.Subset.refl _) (Kept.refl _ _)) (by decide)
  have raised : ∀ {u : State}, Rests c st b u →
      Rests c st b (if isNeighbour u x = true then Machine.raisePart u 0x0106 { cause := cause, coords := x } else u) :=
    fun hu => Rests.ite (hu.raisePart _ _) hu
  unfold Machine.absentNow
  refine Rests.ite h (Rests.ite h ?_)
  refine Rests.ite (raised (flooded (entered _))) (Rests.forEach (fun t d ht => ?_) (raised (flooded (entered _))))
  exact Rests.ite (ht.ploughSpread d .abort 2) ht

theorem Rests.portsOut (h : Rests c st b s) (port cause : Nat) : Rests c st b (portsOut s port cause) := by
  unfold Machine.portsOut
  split
  · exact Rests.ite h (h.absentNow ..)
  · exact h

theorem Rests.restartLinks (h : Rests c st b s) (ps : List Nat) : Rests c st b (restartLinks s ps) := by
  unfold Machine.restartLinks
  refine Rests.forEach (fun t p ht => ht.portsOut p 1) (Rests.forEach (fun t p ht => ?_) (Rests.forEach (fun t p ht => ?_) h))
  · exact ht.of_kept (afterOut_kept (List.Subset.refl _) (Kept.refl _ t)) (by decide)
  · exact ht.of_kept (restartLink_kept (List.Subset.refl _) (Kept.refl _ t)) (by decide)

/-! ### The apply -/

/-- Clocks, keys, sinks, rings, links and seeds that follow an apply leave a context at rest (R449). -/
theorem Rests.afterApply (h : Rests c st b s) (old : State) : Rests c st b (afterApply old s) := by
  have keyed : ∀ {u : State} (p : Prop) [Decidable p], Rests c st b u → Rests c st b (if p then dropStaleKeys u else u) := fun _ _ hu =>
    Rests.ite (hu.of_kept (dropStaleKeys_kept (List.Subset.refl _) (Kept.refl _ _)) (by decide)) hu
  have followed : ∀ {u : State} (p : Prop) [Decidable p], Rests c st b u → Rests c st b (if p then u else refollow u) := fun _ _ hu =>
    Rests.ite hu (hu.of_kept (refollow_kept (List.Subset.refl _) (Kept.refl _ _)) (by decide))
  unfold Machine.afterApply
  refine Rests.of_kept (keyed _ ?_) (lowerClocks_kept (List.Subset.refl _) (Kept.refl _ _)) (by decide)
  refine Rests.forEach (fun t i ht => ?_) (Rests.forEach (fun t i ht => ?_) (Rests.restartLinks (followed _ ?_) _))
  · exact Rests.ite (ht.of_ctxs rfl) ht
  · exact Rests.ite (ht.updTrn _ _) ht
  · exact Rests.forEach (fun t n ht => ht.of_kept (spinReload_kept (List.Subset.refl _) (Kept.refl _ t)) (by decide)) h

theorem Rests.goLive (h : Rests c st b s) : Rests c st b (goLive s) := by
  have settled : ∀ l m : List Nat, Rests c st b (Machine.forEach l (Machine.forEach m s clockTick) spinSettle) := fun l m => by
    refine Rests.forEach (fun t n ht => ?_) (Rests.forEach (fun t p ht => ?_) h)
    · exact ht.of_kept (spinSettle_kept (List.Subset.refl _) (Kept.refl _ t)) (by decide)
    · exact ht.of_kept (clockTick_kept (List.Subset.refl _) (Kept.refl _ t)) (by decide)
  unfold Machine.goLive
  refine Rests.afterApply ?_ _
  exact (settled _ _).of_ctxs rfl

theorem Rests.cfgResult (h : Rests c st b s) (code rule wh : Nat) : Rests c st b (cfgResult s code rule wh) :=
  h.of_kept (cfgResult_kept (List.Subset.refl _) (Kept.refl _ s)) (by decide)

theorem Rests.applyNow (h : Rests c st b s) : Rests c st b (applyNow s) := by
  unfold Machine.applyNow
  refine Rests.ite h ?_
  split
  · refine Rests.cfgResult ?_ ..
    exact h.of_ctxs rfl
  · exact h.goLive.cfgResult ..

theorem Rests.applyIfIdle (h : Rests c st b s) : Rests c st b (applyIfIdle s) := Rests.ite h.applyNow h

/-! ### The scheduler -/

theorem Rests.passCourse (h : Rests c st b s) (d n : Nat) : Rests c st b (passCourse s d n) := by
  have saved : ∀ (e : Nat) (ts : List Nat), Rests c st b (Machine.forEach ts s fun s t => saveVregs s (ctxOf s e).man t) := fun e ts =>
    Rests.forEach (fun t _ ht => ht.of_kept (saveVregs_kept (List.Subset.refl _) (Kept.refl _ t)) (by decide)) h
  have loaded : ∀ {u : State} (ts : List Nat), Rests c st b u → Rests c st b (Machine.forEach ts u fun s t => loadVregs s (ctxOf s d).man t) :=
    fun ts hu => Rests.forEach (fun t _ ht => ht.of_kept (loadVregs_kept (List.Subset.refl _) (Kept.refl _ t)) (by decide)) hu
  have set : ∀ {u : State} (m : Manifest), Rests c st b u → Rests c st b (semInitCourse (writeKeep u m n) m n) := fun {u} m hu => by
    refine Rests.of_kept ?_ (semInitCourse_kept (List.Subset.refl _) (Kept.refl _ _)) (by decide)
    exact hu.of_kept (writeKeep_kept (List.Subset.refl _) (Kept.refl _ u)) (by decide)
  unfold Machine.passCourse
  refine Rests.ite h ?_
  exact (set _ (loaded _ (Rests.ite (saved _ _) h))).of_ctxs rfl

theorem Rests.admitJob (h : Rests c st b s) {d : Nat} (other : d ≠ c) : Rests c st b (admitJob s d) := by
  unfold Machine.admitJob
  refine Rests.of_ctxs (Rests.ite (h.updCtx_other other _) (Rests.forEach (fun t n ht => ?_) (h.updCtx_other other _))) rfl
  exact (ht.passCourse d n).of_kept (undefCourse_kept (List.Subset.refl _) (Kept.refl _ _)) (by decide)

/-- The scan admits RUNNING jobs only (R347). -/
theorem Rests.scanOne {p : State × Nat} (h : Rests c st b p.1) (d : Nat) : Rests c st b (scanOne p d).1 := by
  unfold Machine.scanOne
  dsimp only
  split
  · exact h
  · next isReady =>
    have other : d ≠ c := by
      rintro rfl
      exact h.notRunning (h.state.symm.trans (by simp [ready] at isReady; exact isReady.1.1))
    split
    · exact h
    · exact Rests.ite (h.updCtx_other other _) (h.admitJob other)

theorem Rests.schedule (h : Rests c st b s) : Rests c st b (schedule s) := by
  have scan : ∀ (l : List Nat) (p : State × Nat), Rests c st b p.1 → Rests c st b (l.foldl Machine.scanOne p).1 := by
    intro l
    induction l with
    | nil => exact fun _ hp => hp
    | cons d l ih => exact fun p hp => ih _ (hp.scanOne d)
  exact Rests.ite (scan _ (s, 0) h) h

end

/-! ### Torn down -/

theorem tornDown_rests (s : State) (c : Nat) : Rests c .tornDown (ctxOf s c).bnd (tornDown s c) := by
  have ctx : ctxOf (tornDown s c) c = { ctxOf s c with state := .tornDown } := (ctxOf_updCtx s c _ c).trans (if_pos rfl)
  exact ⟨by rw [ctx], by rw [ctx], by decide, by decide⟩

/-- A loaded job that is torn down is TORN_DOWN, whatever applies and starts after it (R359, R361). -/
theorem teardown_state {s : State} {c : Nat} (loaded : (ctxOf s c).loaded = true) (b4 code : Nat) (f : EvF) :
    (ctxOf (teardown s c b4 code f) c).state = .tornDown := by
  unfold teardown
  rw [if_pos loaded]
  exact (tornDown_rests _ c).applyIfIdle.schedule.state

theorem faultJob_state {s : State} {c : Nat} (loaded : (ctxOf s c).loaded = true) (code : Nat) (f : EvF) :
    (ctxOf (faultJob s c code f) c).state = .tornDown := teardown_state loaded 1 code f

theorem memFault_state {s : State} {c : Nat} (loaded : (ctxOf s c).loaded = true) (unit inst a : Nat) :
    (ctxOf (memFault s c unit inst a) c).state = .tornDown := faultJob_state loaded _ _

theorem remoteTimeout_state {s : State} {c : Nat} (loaded : (ctxOf s c).loaded = true) (cause coords : Nat) :
    (ctxOf (remoteTimeout s c cause coords) c).state = .tornDown := faultJob_state loaded _ _

/-- A job that the plough parks is PARKED, with the outcome of its boundary, whatever applies after it (R259). -/
theorem ploughPark_rests (s : State) (c mode aborted : Nat) :
    Rests c .parked { (ctxOf s c).bnd with phase := .none, aborting := false } (ploughPark s c mode aborted) := by
  have parks : Rests c .parked { (ctxOf s c).bnd with phase := .none, aborting := false } (parked s c) := by
    unfold parked
    exact ⟨by rw [ctxOf_updCtx, if_pos rfl], by rw [ctxOf_updCtx, if_pos rfl], by decide, by decide⟩
  exact (parks.jobEvent c _).applyIfIdle

end Sys2Proof.Proofs
end

section
/-! SWEEP (R169, R170, R175, R178, R179): a trowel that sweeps its last record, and the check of all headers before any trowel
writes. -/

namespace Sys2Proof.Proofs

open Sys2Proof Sys2Proof.Machine Sys2Proof.Laws

/-- The trowel has started its SWEEP: the headers are checked, and the command is begun on it (R169, R173). -/
def sweepBegun (s : State) (c k : Nat) (x : TrwCmd) : State := beginOn (updTrn s c fun t => { t with checked := true }) c k x

/-- The trowel notes a swept record: its digest for the exchange, the next record, one more done (R170, R180, R185). -/
def noteSwept (s : State) (c k : Nat) (x : TrwCmd) (r : Rec) : State :=
  updCmd (updTrn s c fun t => { t with triples := t.triples ++ [(r.tensor, r.shard, lat (hdrOf s r) 0x50 8)] }) c x.id fun y =>
    { y with pos := mset y.pos 0 k (r.idx + 1), done := y.done + 1 }

/-- The record is swept, and the trowel works on the job. -/
def sweptBy (s : State) (c k : Nat) (r : Rec) (blk : List Byte) (step : Nat) : State :=
  updTrowel (applySweep (startRec s k r.idx) k r blk step) k fun w => { w with sweeping := true, ctx := c }

/-- The state in which a trowel has swept its last record and ended its SWEEP. -/
def sweptLast (s : State) (c k : Nat) (x : TrwCmd) (r : Rec) (blk : List Byte) (step : Nat) : State :=
  updTrowel (endOn (noteSwept (sweptBy s c k r blk step) c k x r) c k x) k fun w => { w with sweeping := false }

theorem updTrowel_job (s : State) (k : Nat) (f : Trowel → Trowel) : (updTrowel s k f).job = s.job := rfl

theorem sweptBy_job (s : State) (c k : Nat) (r : Rec) (blk : List Byte) (step : Nat) : (sweptBy s c k r blk step).job = s.job := by
  rw [sweptBy, updTrowel_job, applySweep_job, startRec_job]

theorem noteSwept_kept {C : List Part} {z s : State} {c k : Nat} {x : TrwCmd} {r : Rec} (hC : ([.job] : List Part) ⊆ C)
    (h : Kept C z s) : Kept C z (noteSwept s c k x r) :=
  updCmd_kept hC (updTrn_kept hC h)

theorem sweptLast_kept {C : List Part} {z s : State} {c k step : Nat} {x : TrwCmd} {r : Rec} {blk : List Byte}
    (hC : ([.dev, .mem, .job, .trw, .tel] : List Part) ⊆ C) (h : Kept C z s) : Kept C z (sweptLast s c k x r blk step) :=
  updTrowel_kept (Part.subs hC (by decide)) (endOn_kept (Part.subs hC (by decide)) (noteSwept_kept (Part.subs hC (by decide))
    (updTrowel_kept (Part.subs hC (by decide)) (applySweep_kept (Part.subs hC (by decide)) (startRec_kept (Part.subs hC (by decide)) h)))))

theorem sweptLast_dev (s : State) (c k : Nat) (x : TrwCmd) (r : Rec) (blk : List Byte) (step : Nat) :
    (sweptLast s c k x r blk step).mem.dev = (applySweep (startRec s k r.idx) k r blk step).mem.dev := rfl

theorem endOn_grads (s : State) (c k : Nat) (x : TrwCmd) : (ctxOf (endOn s c k x) c).trn.grads = (ctxOf s c).trn.grads := by
  rw [ctxOf_endOn]

theorem noteSwept_grads (s : State) (c k : Nat) (x : TrwCmd) (r : Rec) : (ctxOf (noteSwept s c k x r) c).trn.grads = (ctxOf s c).trn.grads := by
  rw [noteSwept, ctxOf_updCmd, ctxOf_updTrn, if_pos rfl]

/-- A sweep reads no byte outside the record. -/
theorem sweepReads_inside {h blk : List Byte} (count : hCount h ≤ 4096) (grad : Bool) : ∀ p ∈ sweepReads h blk grad, p.1 + p.2 ≤ recBytes := by
  intro p hp
  simp only [sweepReads, List.cons_append, List.nil_append, List.mem_cons, List.mem_append] at hp
  rcases hp with rfl | rfl | rfl | hp | hp
  · decide
  · simp only [recBytes]; omega
  · simp only [recBytes]; omega
  · split at hp
    · rw [List.mem_singleton.1 hp]; simp only [recBytes]; omega
    · exact absurd hp List.not_mem_nil
  · split at hp
    · rw [List.mem_singleton.1 hp]; simp only [recBytes]; omega
    · exact absurd hp List.not_mem_nil

/-- After its last record the trowel ends the command; no gradient waits for the turns of the trowels below (R193). -/
theorem sweepRun_nil {s : State} {c : Nat} (noGrads : (ctxOf s c).trn.grads = []) (k : Nat) (x : TrwCmd) (step : Nat) :
    sweepRun s c k x step [] = updTrowel (endOn s c k x) k fun w => { w with sweeping := false } := by
  rw [sweepRun, ctxOf_of_job (updTrowel_job ..), endOn_grads, noGrads, List.length_nil, turnGrads]

/-- Sweeping one last record, of a job that exports no trail and has no gradient waiting for its turn. -/
theorem sweepRun_last {s : State} {c : Nat} {r : Rec} (quiet : s.mem.upsets = []) (clean : poisonedAt s r.addr recBytes = none)
    (count : hCount (hdrOf s r) ≤ 4096) (plain : (ctxOf s c).man.trailExport = false) (noGrads : (ctxOf s c).trn.grads = [])
    (k : Nat) (x : TrwCmd) (step : Nat) : sweepRun s c k x step [r] = sweptLast s c k x r (ctxOf s c).trn.block step := by
  have whole := recPoison_none clean (sweepReads_inside (blk := (ctxOf s c).trn.block) count true)
  have held : (ctxOf (noteSwept (sweptBy s c k r (ctxOf s c).trn.block step) c k x r) c).trn.grads = [] := by
    rw [noteSwept_grads, ctxOf_of_job (sweptBy_job ..), noGrads]
  rw [sweepRun]
  rw [recMeet_quiet quiet]
  dsimp only
  simp only [whole, plain, Bool.false_eq_true, if_false]
  exact sweepRun_nil held k x step

theorem sweepBegun_kept {C : List Part} {z s : State} {c k : Nat} {x : TrwCmd} (hC : ([.job] : List Part) ⊆ C) (h : Kept C z s) :
    Kept C z (sweepBegun s c k x) := beginOn_kept hC (updTrn_kept hC h)

theorem ctxOf_sweepBegun (s : State) (c k : Nat) (x : TrwCmd) :
    ctxOf (sweepBegun s c k x) c =
      { ctxOf s c with trn := { (ctxOf s c).trn with checked := true, cmds := cmdsOf (sweepBegun s c k x) c } } := by
  refine (ctxOf_beginOn ..).trans ?_
  rw [ctxOf_updTrn, if_pos rfl]
  rfl

/-- With all headers checked, the trowel goes on with its records (R169, R170). -/
theorem sweepEffect_checked {s : State} {k c : Nat} {x : TrwCmd} (head : headCmd s k 1 = some (c, x))
    (sweeping : (ctxOf s c).bnd.phase = .sweeping) (staged : (ctxOf s c).trn.stageOut = []) (checked : (ctxOf s c).trn.checked = true) :
    sweepEffect k s = sweepRun (sweepBegun s c k x) c k x (ctxOf s c).step
      ((recsIn (ctxOf s c).man k).filter fun r => decide (mget x.pos 0 k ≤ r.idx)) := by
  simp only [sweepEffect, head, sweeping, staged, checked, ne_eq, not_true_eq_false, or_self, if_false, if_true]
  rfl

/-- A header that fails its checks ends the job before any trowel writes (R169). -/
theorem sweepEffect_badHeader {s : State} {k c : Nat} {x : TrwCmd} (quiet : s.mem.upsets = []) (head : headCmd s k 1 = some (c, x))
    (sweeping : (ctxOf s c).bnd.phase = .sweeping) (staged : (ctxOf s c).trn.stageOut = []) (unchecked : (ctxOf s c).trn.checked = false)
    (bad : recordFault s c ≠ none) (loaded : (ctxOf s c).loaded = true) : (ctxOf (sweepEffect k s) c).state = .tornDown := by
  obtain ⟨⟨r, e⟩, fault⟩ := Option.ne_none_iff_exists'.1 bad
  simp only [sweepEffect, head, sweeping, staged, unchecked, ne_eq, not_true_eq_false, or_self, if_false, Bool.false_eq_true,
    meetRanges_quiet quiet, fault]
  split
  · exact memFault_state loaded ..
  · next same => exact faultJob_state loaded ..
  · next same => exact absurd same (by simp)

theorem sweepEffect_none {s : State} {k : Nat} (idle : headCmd s k 1 = none) : sweepEffect k s = s := by
  simp only [sweepEffect, idle]

/-- A swept record counts for its command. -/
theorem mem_noteSwept {s : State} {c : Nat} {x y : TrwCmd} (queued : y ∈ cmdsOf s c) (own : y.id = x.id) (k : Nat) (r : Rec) :
    { y with pos := mset y.pos 0 k (r.idx + 1), done := y.done + 1 } ∈ cmdsOf (noteSwept s c k x r) c := by
  refine mem_updCmd ?_ own _
  simpa only [cmdsOf, ctxOf_updTrn, if_true] using queued

/-- The last record ends the command on its trowel. -/
theorem sweptLast_cmd {s : State} {c k : Nat} {x y : TrwCmd} (queued : y ∈ cmdsOf s c) (own : y.id = x.id) (sweep : y.op = 1) (r : Rec)
    (blk : List Byte) (step : Nat) : ∃ z ∈ cmdsOf (sweptLast s c k x r blk step) c, z.id = x.id ∧ z.done = y.done + 1 ∧ k ∉ z.todo := by
  have still : y ∈ cmdsOf (sweptBy s c k r blk step) c := by rwa [cmdsOf_of_job (sweptBy_job ..)]
  have ended := mem_endOn (k := k) (x := x) (mem_noteSwept still own k r) own (Or.inl sweep)
  rw [sweptLast, cmdsOf_of_job (updTrowel_job ..)]
  exact ⟨_, ended, own, rfl, not_mem_filter_ne k y.todo⟩

theorem mem_sweepBegun {s : State} {c k : Nat} {x : TrwCmd} (queued : x ∈ cmdsOf s c) :
    { x with begun := if x.begun.contains k then x.begun else k :: x.begun } ∈ cmdsOf (sweepBegun s c k x) c := by
  have still : x ∈ cmdsOf (updTrn s c fun t => { t with checked := true }) c := by simpa [cmdsOf] using queued
  exact mem_updCmd still rfl _

/-! ### The obligation -/

/-- Settles O43: a record is swept parameter by parameter within its bytes, and a header that fails ends the job. -/
theorem sweepOfARecord : Obligations.SweepOfARecord := by
  unfold Obligations.SweepOfARecord
  refine ⟨fun s k c x r h blk quiet head sweeping staged noGrads checked last clean plain direct header count block => ?_,
    fun s k c x quiet head sweeping staged unchecked bad loaded =>
      ⟨_, rfl, sweepEffect_badHeader quiet head sweeping staged unchecked bad loaded⟩,
    fun s k idle => congrArg Host.Outcome.next (sweepEffect_none idle)⟩
  subst header block
  obtain ⟨queued, sweep, -⟩ := headCmd_some head
  have ctx := ctxOf_sweepBegun s c k.val x
  have dev : (sweepBegun s c k.val x).mem.dev = s.mem.dev := rfl
  have hdr : hdrOf (sweepBegun s c k.val x) r = hdrOf s r := devRead_of_dev dev ..
  have swept : sweepEffect k.val s = sweptLast (sweepBegun s c k.val x) c k.val x r (ctxOf s c).trn.block (ctxOf s c).step := by
    rw [sweepEffect_checked head sweeping staged checked, last]
    refine (sweepRun_last (s := sweepBegun s c k.val x) quiet clean (hdr ▸ count) ?_ ?_ ..).trans ?_
    · rw [ctx]; exact plain
    · rw [ctx]; exact noGrads
    · rw [ctx]
  refine ⟨_, congrArg Host.Outcome.next swept, ?_⟩
  have start : (startRec (sweepBegun s c k.val x) k.val r.idx).mem.dev = s.mem.dev := rfl
  have after := sweptLast_dev (sweepBegun s c k.val x) c k.val x r (ctxOf s c).trn.block (ctxOf s c).step
  have startHdr : hdrOf (startRec (sweepBegun s c k.val x) k.val r.idx) r = hdrOf s r := devRead_of_dev start ..
  have param : sweptParam (startRec (sweepBegun s c k.val x) k.val r.idx) r (hdrOf s r) (ctxOf s c).trn.block =
      sweptParam s r (hdrOf s r) (ctxOf s c).trn.block := by
    funext i
    simp only [sweptParam, devNat_of_dev start]
  have startCount : hCount (hdrOf (startRec (sweepBegun s c k.val x) k.val r.idx) r) ≤ 4096 := by rw [startHdr]; exact count
  have ended := sweptLast_cmd (x := x) (k := k.val) (mem_sweepBegun (k := k.val) queued) rfl sweep r (ctxOf s c).trn.block (ctxOf s c).step
  have kept : Kept [.dev, .mem, .job, .trw, .tel] s
      (sweptLast (sweepBegun s c k.val x) c k.val x r (ctxOf s c).trn.block (ctxOf s c).step) :=
    sweptLast_kept (List.Subset.refl _) (sweepBegun_kept (by decide) (Kept.refl _ s))
  refine ⟨fun i hi => ⟨?_, ?_, ?_⟩, ?_, ?_, fun a off => ?_, ended, kept.frame⟩
  · rw [devNat_of_dev after, applySweep_master direct startCount k.val (by rwa [startHdr]), startHdr, param]
  · rw [devNat_of_dev after, applySweep_mom1 direct startCount k.val (by rwa [startHdr]), startHdr, param]
  · rw [devNat_of_dev after, applySweep_mom2 direct startCount k.val (by rwa [startHdr]), startHdr, param, devNat_of_dev start]
  · rw [devNat_of_dev after, applySweep_step direct k.val]
  · rw [devNat_of_dev after, devRead_of_dev after, applySweep_digest direct k.val]
  · rw [devGet_of_dev after, applySweep_off startCount k.val off, devGet_of_dev start]

end Sys2Proof.Proofs
end

section
/-! From the sweep to the release (R170, R181, R182, R190, R259, R263): the digest exchange, STEP_CLOSE and the keeper gate, the
waiting records of the step sequence. -/

namespace Sys2Proof.Proofs

open Sys2Proof Sys2Proof.Machine Sys2Proof.Laws

/-! ### What a boundary keeps while events are raised and reductions run -/

/-- Of the context, nothing but its fabric state and its event queue has changed. -/
def SameStep (c : Nat) (s t : State) : Prop := ∃ f q, ctxOf t c = { ctxOf s c with fab := f, evq := q }

section

variable {c : Nat} {z s t : State}

theorem SameStep.refl (s : State) : SameStep c s s := ⟨_, _, rfl⟩

theorem SameStep.of_ctxs (h : SameStep c z s) (same : t.job.ctxs = s.job.ctxs) : SameStep c z t := by
  obtain ⟨f, q, ctx⟩ := h
  exact ⟨f, q, by rw [ctxOf, same, ← ctxOf, ctx]⟩

/-- What leaves the JOB page alone keeps the step. -/
theorem SameStep.of_kept (h : SameStep c z s) {C : List Part} (k : Kept C s t) (out : Part.job ∉ C) : SameStep c z t :=
  h.of_ctxs (congrArg JobSt.ctxs (k.frame .job out))

theorem SameStep.updFab (h : SameStep c z s) (d : Nat) (g : JobFab → JobFab) : SameStep c z (updFab s d g) := by
  obtain ⟨f, q, ctx⟩ := h
  by_cases own : c = d
  · exact ⟨g (ctxOf s c).fab, q, by subst own; rw [ctxOf_updFab, if_pos rfl, ctx]⟩
  · exact ⟨f, q, by rw [ctxOf_updFab, if_neg own, ctx]⟩

theorem SameStep.updEvq (h : SameStep c z s) (d : Nat) (g : JobCtx → EvQ) : SameStep c z (updCtx s d fun j => { j with evq := g j }) := by
  obtain ⟨f, q, ctx⟩ := h
  by_cases own : c = d
  · exact ⟨f, g (ctxOf s c), by subst own; rw [ctxOf_updCtx, if_pos rfl, ctx]⟩
  · exact ⟨f, q, by rw [ctxOf_updCtx, if_neg own, ctx]⟩

theorem SameStep.forEach {α : Type} {f : State → α → State} (step : ∀ u a, SameStep c z u → SameStep c z (f u a)) {l : List α}
    {s : State} (h : SameStep c z s) : SameStep c z (forEach l s f) := by
  induction l generalizing s with
  | nil => exact h
  | cons a l ih => exact ih (step s a h)

theorem SameStep.jobEvent (h : SameStep c z s) (d : Nat) (e : Ev) : SameStep c z (jobEvent s d e) := by
  have entered : SameStep c z (jobEntry s d e) := by
    have queued : ∀ (m : Mem) (q : EvQ), SameStep c z (updCtx { s with hostMem := m } d fun j => { j with evq := q }) := fun m q =>
      SameStep.updEvq (h.of_ctxs rfl) d _
    unfold jobEntry
    dsimp only
    split
    · exact (queued _ _).of_kept (signalSource_kept (List.Subset.refl _) (Kept.refl _ _)) (by decide)
    · exact queued _ _
  unfold Machine.jobEvent
  dsimp only
  split
  · exact h.of_kept (partEntry_kept (List.Subset.refl _) (Kept.refl _ s)) (by decide)
  · split
    · exact h.updEvq d _
    · exact entered

theorem SameStep.raiseJob (h : SameStep c z s) (d code : Nat) (f : EvF) : SameStep c z (raiseJob s d code f) := h.jobEvent d _

theorem SameStep.inject (h : SameStep c z s) (p : Packet) : SameStep c z (inject s p) :=
  h.of_kept (inject_kept (List.Subset.refl _) (Kept.refl _ s)) (by decide)

theorem SameStep.putRed (h : SameStep c z s) (d : Nat) (r : RedSt) : SameStep c z (putRed s d r) := h.updFab d _

theorem SameStep.sendDown (h : SameStep c z s) (d : Nat) (r : RedSt) (w : Dword) : SameStep c z (sendDown s d r w) :=
  h.of_kept (sendDown_kept (List.Subset.refl _) (Kept.refl _ s)) (by decide)

theorem SameStep.tryCombine (h : SameStep c z s) (d : Nat) (r : RedSt) : SameStep c z (tryCombine s d r) := by
  unfold Machine.tryCombine
  split
  · exact h.putRed d r
  · split
    · exact h.putRed d r
    · split
      · dsimp only
        split
        · exact (h.putRed d r).inject _
        · exact (h.putRed d _).sendDown d r _
      · exact h.putRed d r

theorem SameStep.redDiscard (h : SameStep c z s) : SameStep c z (redDiscard s) :=
  h.of_kept (redDiscard_kept (List.Subset.refl _) (Kept.refl _ s)) (by decide)

theorem SameStep.redHold (h : SameStep c z s) (d port : Nat) (p : Packet) : SameStep c z (redHold s d port p) := by
  unfold Machine.redHold
  dsimp only
  split
  · exact h.redDiscard
  · exact h.updFab d _

theorem SameStep.redTake (h : SameStep c z s) (d port : Nat) (p : Packet) : SameStep c z (redTake s d port p) := by
  unfold Machine.redTake
  dsimp only
  split
  · exact h.redDiscard
  · split
    · exact h.redHold d port p
    · split
      · exact h.redDiscard
      · split
        · split
          · exact h.redDiscard
          · split
            · exact h.redHold d port p
            · exact h.tryCombine d _
        · split
          · exact h.redDiscard
          · exact (h.putRed d _).sendDown d _ _

theorem SameStep.redRetry (h : SameStep c z s) (d : Nat) : SameStep c z (redRetry s d) :=
  SameStep.forEach (fun _ x hu => hu.redTake d x.1 x.2) (h.updFab d _)

/-- A contribution to a reduction moves nothing of the step (R225, R226). -/
theorem SameStep.reduce (h : SameStep c z s) (d : Nat) (cls : RedClass) (id seq : Nat) (word : Dword) :
    SameStep c z (reduce s d cls id seq word) := by
  unfold Machine.reduce
  split
  · exact SameStep.redRetry (h.tryCombine d _) d
  · exact h.putRed d _

end

/-! ### STEP_CLOSE and after it -/

/-- What the release leaves of a context: the boundary waits for it, and a park that is due stays due (R354, R355). -/
theorem toRelease_ctx (s : State) (c : Nat) : ∃ f q, ctxOf (toRelease s c) c =
    { ctxOf s c with
      preempt := false
      bnd := { (ctxOf s c).bnd with
        phase := .awaitRelease
        park := if (ctxOf s c).bnd.park ≠ 0 then (ctxOf s c).bnd.park else if (ctxOf s c).preempt then 1 else 0 }
      fab := f
      evq := q } := by
  obtain ⟨f, q, ctx⟩ := (SameStep.refl (c := c) (updCtx s c fun j => { j with
    preempt := false
    bnd := { j.bnd with
      phase := .awaitRelease
      park := if (ctxOf s c).bnd.park ≠ 0 then (ctxOf s c).bnd.park else if (ctxOf s c).preempt then 1 else 0 } })).reduce c .release 0
    (ctxOf s c).step
    (if (if (ctxOf s c).bnd.park ≠ 0 then (ctxOf s c).bnd.park else if (ctxOf s c).preempt then 1 else 0) ≠ 0 ∨ (ctxOf s c).plough.isSome
      then 0x100000001 else 1)
  refine ⟨f, q, ctx.trans ?_⟩
  rw [ctxOf_updCtx, if_pos rfl]

/-- Of the context, only training state has changed, and neither the records that wait nor the committed step. -/
def SameRecords (c : Nat) (s t : State) : Prop :=
  ∃ x, ctxOf t c = { ctxOf s c with trn := x } ∧ x.stageOut = (ctxOf s c).trn.stageOut ∧ x.committed = (ctxOf s c).trn.committed

theorem SameRecords.refl (c : Nat) (s : State) : SameRecords c s s := ⟨_, rfl, rfl, rfl⟩

theorem SameRecords.updTrn {c : Nat} {z s : State} (h : SameRecords c z s) {g : JobTrn → JobTrn}
    (stage : ∀ x, (g x).stageOut = x.stageOut) (commit : ∀ x, (g x).committed = x.committed) : SameRecords c z (updTrn s c g) := by
  obtain ⟨x, ctx, waits, committed⟩ := h
  exact ⟨g x, by rw [ctxOf_updTrn, if_pos rfl, ctx], (stage x).trans waits, (commit x).trans committed⟩

theorem SameRecords.queuePartCmd {c : Nat} {z s : State} (h : SameRecords c z s) (op step : Nat) : SameRecords c z (queuePartCmd s c op step) :=
  h.updTrn (fun _ => rfl) fun _ => rfl

/-- BASE and SNAP commands that a boundary queues leave the rest of the context (R195, R198). -/
theorem queueExports_records (s : State) (c : Nat) : SameRecords c s (queueExports s c) := by
  have based : ∀ (p : Prop) [Decidable p] (op step : Nat), SameRecords c s (if p then Machine.queuePartCmd s c op step else s) :=
    fun p _ op step => by
      split
      · exact (SameRecords.refl c s).queuePartCmd op step
      · exact SameRecords.refl c s
  unfold queueExports
  dsimp only
  split
  · exact SameRecords.updTrn ((based _ 4 _).queuePartCmd 6 _) (fun _ => rfl) fun _ => rfl
  · exact based _ 4 _

/-- Without a trail, STEP_CLOSE writes nothing (R192). -/
theorem closeStep_untrailed {s : State} {c : Nat} (plain : (ctxOf s c).man.trailExport = false) (skipped : Bool) (n : Nat) :
    closeStep s c skipped n = afterClose (queueExports s c) c := by
  simp only [closeStep, plain, Bool.false_eq_true, if_false]

theorem afterClose_release {s : State} {c : Nat} (staged : (ctxOf s c).trn.stageOut = []) (going : (ctxOf s c).bnd.aborting = false)
    (free : ¬ (keeperGate s c = true ∧ (ctxOf s c).man.trailExport = true ∧ (ctxOf s c).bnd.retake = false ∧ ¬ gateOpen s c = true)) :
    afterClose s c = toRelease s c := by
  unfold afterClose
  dsimp only
  rw [if_neg (not_not.2 staged), if_neg (by rw [going]; decide), if_neg free]

theorem afterClose_aborting {s : State} {c : Nat} (staged : (ctxOf s c).trn.stageOut = []) (aborting : (ctxOf s c).bnd.aborting = true) :
    afterClose s c = ploughPark s c 1 0xFFFFFFFF := by
  unfold afterClose
  dsimp only
  rw [if_neg (not_not.2 staged), if_pos aborting]

theorem afterClose_gate {s : State} {c : Nat} (staged : (ctxOf s c).trn.stageOut = []) (going : (ctxOf s c).bnd.aborting = false)
    (shut : keeperGate s c = true ∧ (ctxOf s c).man.trailExport = true ∧ (ctxOf s c).bnd.retake = false ∧ ¬ gateOpen s c = true) :
    afterClose s c = updBnd s c fun b => { b with phase := .gate } := by
  unfold afterClose
  dsimp only
  rw [if_neg (not_not.2 staged), if_neg (by rw [going]; decide), if_pos shut]

/-- A step without a trail and not aborted goes from STEP_CLOSE to the release. -/
theorem closeStep_release {s : State} {c : Nat} (plain : (ctxOf s c).man.trailExport = false) (going : (ctxOf s c).bnd.aborting = false)
    (staged : (ctxOf s c).trn.stageOut = []) (skipped : Bool) (n : Nat) :
    (ctxOf (closeStep s c skipped n) c).bnd.phase = .awaitRelease ∧
      (ctxOf (closeStep s c skipped n) c).bnd.diverged = (ctxOf s c).bnd.diverged ∧
      ((ctxOf s c).bnd.park ≠ 0 → (ctxOf (closeStep s c skipped n) c).bnd.park = (ctxOf s c).bnd.park) ∧
      (ctxOf (closeStep s c skipped n) c).trn.committed = (ctxOf s c).trn.committed := by
  obtain ⟨x, ctx, waits, committed⟩ := queueExports_records s c
  rw [closeStep_untrailed plain, afterClose_release (by rw [ctx]; exact waits.trans staged) (by rw [ctx]; exact going)
    (by rw [ctx, plain]; simp)]
  obtain ⟨f, q, released⟩ := toRelease_ctx (queueExports s c) c
  rw [released, ctx]
  exact ⟨rfl, rfl, fun due => if_pos due, committed⟩

/-- An aborted boundary without a trail parks after STEP_CLOSE (R259). -/
theorem closeStep_park {s : State} {c : Nat} (plain : (ctxOf s c).man.trailExport = false) (aborting : (ctxOf s c).bnd.aborting = true)
    (staged : (ctxOf s c).trn.stageOut = []) (skipped : Bool) (n : Nat) :
    (ctxOf (closeStep s c skipped n) c).state = .parked ∧
      (ctxOf (closeStep s c skipped n) c).bnd.diverged = (ctxOf s c).bnd.diverged := by
  obtain ⟨x, ctx, waits, committed⟩ := queueExports_records s c
  rw [closeStep_untrailed plain, afterClose_aborting (by rw [ctx]; exact waits.trans staged) (by rw [ctx]; exact aborting)]
  have parks := ploughPark_rests (queueExports s c) c 1 0xFFFFFFFF
  exact ⟨parks.state, by rw [parks.bnd, ctx]⟩

/-! ### The sweep's end -/

/-- All SWEEP commands are done, and the step is committed (R170). -/
def committedStep (s : State) (c : Nat) : State :=
  updTrn s c fun t => { t with cmds := t.cmds.filter (·.op ≠ 1), committed := (ctxOf s c).step }

theorem ctxOf_committedStep (s : State) (c : Nat) : ctxOf (committedStep s c) c =
    { ctxOf s c with trn := { (ctxOf s c).trn with cmds := (cmdsOf s c).filter (·.op ≠ 1), committed := (ctxOf s c).step } } :=
  (ctxOf_updTrn ..).trans (if_pos rfl)

theorem sweepEndEffect_exchange {s : State} {c : Nat} (ended : sweepEnded s c = true) (named : exchanges s c = true) :
    sweepEndEffect c s = sendTriples (updBnd (committedStep s c) c fun b => { b with phase := .digests }) c := by
  simp only [sweepEndEffect, ended, named, if_true]
  rfl

theorem sweepEndEffect_close {s : State} {c : Nat} (ended : sweepEnded s c = true) (alone : exchanges s c = false) :
    sweepEndEffect c s = closeStep (committedStep s c) c false (recsOf (ctxOf s c).man).length := by
  simp only [sweepEndEffect, ended, alone, if_true, Bool.false_eq_true, if_false]
  rfl

theorem sweepEnded_staged {s : State} {c : Nat} (ended : sweepEnded s c = true) : (ctxOf s c).trn.stageOut = [] := by
  simp only [sweepEnded, Bool.and_eq_true, decide_eq_true_eq] at ended
  exact ended.2

/-! ### The digest exchange -/

/-- The triples of this step that have arrived (R180). -/
abbrev arrivedTriples (s : State) (c : Nat) : List DigestTriple :=
  ((ctxOf s c).trn.arrived.filter fun x => decide (x.1 = (ctxOf s c).step)).map fun x => x.2

/-- The shards in which the parts diverge (R181). -/
def divergedShards (s : State) (c : Nat) (ts : List DigestTriple) (missing : Bool) : Nat :=
  (((compareTriples s c ts missing).map fun d => (d.tensor, d.shard)).eraseDups).length

/-- Which other triples wait does not matter to the comparison. -/
theorem compareTriples_arrived (s : State) (c : Nat) (g : List (Nat × DigestTriple) → List (Nat × DigestTriple)) (ts : List DigestTriple)
    (missing : Bool) : compareTriples (updTrn s c fun t => { t with arrived := g t.arrived }) c ts missing = compareTriples s c ts missing := by
  have peers : digestPeers (updTrn s c fun t => { t with arrived := g t.arrived }) c = digestPeers s c := by
    unfold digestPeers
    rw [ctxOf_updTrn, if_pos rfl]
    rfl
  unfold compareTriples
  rw [peers, ctxOf_updTrn, if_pos rfl]
  rfl

/-- The exchange has ended: each divergence was raised, and the boundary counts the shards (R181). -/
theorem endExchange_eq (s : State) (c : Nat) (more : List DigestTriple) (missing : Bool) : ∃ u,
    endExchange s c more missing = closeStep u c false (recsOf (ctxOf s c).man).length ∧ ∃ f q, ctxOf u c =
      { ctxOf s c with
        bnd := { (ctxOf s c).bnd with
          diverged := divergedShards s c (arrivedTriples s c ++ more) missing
          park := if divergedShards s c (arrivedTriples s c ++ more) missing = 0 then (ctxOf s c).bnd.park else 3 }
        trn := { (ctxOf s c).trn with arrived := (ctxOf s c).trn.arrived.filter (·.1 ≠ (ctxOf s c).step) }
        fab := f
        evq := q } := by
  unfold endExchange
  dsimp only
  rw [compareTriples_arrived s c fun l => l.filter (·.1 ≠ (ctxOf s c).step)]
  have man : (ctxOf (updTrn s c fun t => { t with arrived := t.arrived.filter (·.1 ≠ (ctxOf s c).step) }) c).man = (ctxOf s c).man := by
    rw [ctxOf_updTrn, if_pos rfl]
  rw [man]
  refine ⟨_, rfl, ?_⟩
  obtain ⟨f, q, raised⟩ := SameStep.forEach (c := c) (l := compareTriples s c (arrivedTriples s c ++ more) missing) (f := fun s d =>
    raiseJob s c 0x001A { cause := d.cause, coords := d.sender, a := 2 ^ 32 * d.tensor + d.shard, va := d.own, vb := d.got })
    (fun _ _ hu => hu.raiseJob c _ _) (SameStep.refl (updTrn s c fun t => { t with arrived := t.arrived.filter (·.1 ≠ (ctxOf s c).step) }))
  refine ⟨f, q, ?_⟩
  rw [ctxOf_updBnd, if_pos rfl, raised, ctxOf_updTrn, if_pos rfl]
  rfl

/-! ### Waiting records -/

/-- The one waiting record of a step is written when the staging ring has room (R186, R190). -/
theorem flushAll_one {s t : State} {c : Nat} {r : Region} {x : List Byte} (waits : (ctxOf s c).trn.stageOut = [x])
    (ring : staging (ctxOf s c).man = some r) (put : stagePut s r x = some t) :
    flushAll s c = updTrn t c fun u => { u with stageOut := [] } := by
  rw [flushAll, waits, List.length_singleton, flushStage, waits, ring]
  dsimp only
  rw [put]
  rfl

theorem stagePut_room {s : State} {r : Region} {x : List Byte}
    (room : ringRoom r.len (devNat s (r.base + 8) 8) (devNat s (r.base + 0x40) 8) x.length = true) : ∃ t, stagePut s r x = some t :=
  ⟨_, if_pos room⟩

theorem stagingRoomEffect_one {s t : State} {c : Nat} {r : Region} {x : List Byte} (waits : (ctxOf s c).trn.stageOut = [x])
    (ring : staging (ctxOf s c).man = some r) (put : stagePut s r x = some t) (job : t.job = s.job) (phase : (ctxOf s c).bnd.phase ≠ .gate)
    (noGrads : (ctxOf s c).trn.grads = []) :
    stagingRoomEffect c s = updTrn (updTrn t c fun u => { u with stageOut := [] }) c fun u =>
      { u with noRoom := if u.stageOut = [] then [] else u.noRoom } := by
  have flushed : ctxOf (updTrn t c fun u => { u with stageOut := [] }) c = { ctxOf s c with trn := { (ctxOf s c).trn with stageOut := [] } } := by
    rw [ctxOf_updTrn, if_pos rfl, ctxOf_of_job job]
  unfold stagingRoomEffect
  dsimp only
  rw [flushAll_one waits ring put]
  simp only [flushed, noGrads, List.length_nil, turnGrads]
  rw [if_neg]
  rw [ctxOf_updTrn, if_pos rfl, flushed]
  exact fun gate => phase gate.1

theorem keeperGateOpenEffect_gate {s : State} {c : Nat} (phase : (ctxOf s c).bnd.phase = .gate) (staged : (ctxOf s c).trn.stageOut = []) :
    keeperGateOpenEffect c s = afterClose s c := if_pos ⟨phase, staged⟩

/-! ### The obligation -/

/-- Settles O36: the commit of a step follows its boundary from the last swept record to the release. -/
theorem commitOfAStep : Obligations.CommitOfAStep := by
  unfold Obligations.CommitOfAStep
  refine ⟨fun s c ended named => ?_, fun s c ended alone plain going => ?_, fun s c ts phase going plain staged => ?_,
    fun s c phase going loaded => ?_, fun s c phase aborting plain staged => ?_, fun s c r x waits ring room phase noGrads => ?_,
    fun s c phase staged going opened => ?_, fun s c phase staged going shut keeper trail retake => ?_⟩
  · refine ⟨_, congrArg Host.Outcome.next (sweepEndEffect_exchange ended named), ?_⟩
    have kept : Kept [.out, .job, .fab, .tel] s
        (sendTriples (updBnd (committedStep s c.val) c.val fun b => { b with phase := .digests }) c.val) :=
      sendTriples_kept (by decide) (updBnd_kept (by decide) (updTrn_kept (by decide) (Kept.refl _ s)))
    have sent := (sendTriples_kept (c := c.val) (List.Subset.refl _)
      (Kept.refl _ (updBnd (committedStep s c.val) c.val fun b => { b with phase := .digests }))).frame .job (by decide)
    have ctx := ctxOf_of_job sent c.val
    rw [ctxOf_updBnd, if_pos rfl, ctxOf_committedStep] at ctx
    exact ⟨by rw [ctx], by rw [ctx], kept.frame⟩
  · have ctx := ctxOf_committedStep s c.val
    obtain ⟨released, -, -, committed⟩ := closeStep_release (s := committedStep s c.val) (c := c.val) (by rw [ctx]; exact plain)
      (by rw [ctx]; exact going) (by rw [ctx]; exact sweepEnded_staged ended) false (recsOf (ctxOf s c.val).man).length
    exact ⟨_, congrArg Host.Outcome.next (sweepEndEffect_close ended alone), released, committed.trans (by rw [ctx])⟩
  · obtain ⟨u, closes, f, q, ctx⟩ := endExchange_eq s c.val ts true
    obtain ⟨released, diverged, park, -⟩ := closeStep_release (s := u) (c := c.val) (by rw [ctx]; exact plain)
      (by rw [ctx]; exact going) (by rw [ctx]; exact staged) false (recsOf (ctxOf s c.val).man).length
    have effect : digestExchangeCompleteEffect c.val ts s = closeStep u c.val false (recsOf (ctxOf s c.val).man).length := by
      rw [digestExchangeCompleteEffect, if_pos phase, going]
      exact closes
    rw [ctx] at diverged park
    refine ⟨_, congrArg Host.Outcome.next effect, released, diverged, fun found => ?_⟩
    have found : divergedShards s c.val (arrivedTriples s c.val ++ ts) true ≠ 0 := fun none => found (diverged.trans none)
    simp only [if_neg found] at park
    exact park (by decide)
  · have effect : digestTriplesTimeoutEffect c.val s = remoteTimeout s c.val 4 0xFFFF := if_pos ⟨phase, going⟩
    exact ⟨_, congrArg Host.Outcome.next effect, remoteTimeout_state loaded ..⟩
  · obtain ⟨u, closes, f, q, ctx⟩ := endExchange_eq s c.val [] false
    obtain ⟨parks, diverged⟩ := closeStep_park (s := u) (c := c.val) (by rw [ctx]; exact plain)
      (by rw [ctx]; exact aborting) (by rw [ctx]; exact staged) false (recsOf (ctxOf s c.val).man).length
    have effect : abortDigestWaitEndEffect c.val s = closeStep u c.val false (recsOf (ctxOf s c.val).man).length :=
      (if_pos ⟨phase, aborting⟩).trans closes
    rw [ctx, List.append_nil] at diverged
    exact ⟨_, congrArg Host.Outcome.next effect, parks, diverged⟩
  · obtain ⟨t, put⟩ := stagePut_room room
    have wrote : Kept [.dev, .mem] s t := stagePut_kept (List.Subset.refl _) put (Kept.refl _ s)
    have job : t.job = s.job := wrote.frame .job (by decide)
    have kept : Kept [.dev, .mem, .job] s (updTrn (updTrn t c.val fun u => { u with stageOut := [] }) c.val fun u =>
        { u with noRoom := if u.stageOut = [] then [] else u.noRoom }) :=
      updTrn_kept (by decide) (updTrn_kept (by decide) (stagePut_kept (by decide) put (Kept.refl _ s)))
    refine ⟨_, congrArg Host.Outcome.next (stagingRoomEffect_one waits ring put job phase noGrads), ?_, ?_, kept.frame⟩
    · simp only [ctxOf_updTrn, if_true]
    · simp only [ctxOf_updTrn, if_true, ctxOf_of_job job]
  · obtain ⟨f, q, ctx⟩ := toRelease_ctx s c.val
    have effect : keeperGateOpenEffect c.val s = toRelease s c.val :=
      (keeperGateOpenEffect_gate phase staged).trans (afterClose_release staged going fun shut => shut.2.2.2 opened)
    exact ⟨_, congrArg Host.Outcome.next effect, by rw [ctx], by rw [ctx]⟩
  · have effect : keeperGateOpenEffect c.val s = updBnd s c.val fun b => { b with phase := .gate } :=
      (keeperGateOpenEffect_gate phase staged).trans (afterClose_gate staged going ⟨keeper, trail, retake, by rw [shut]; decide⟩)
    have kept : Kept [.job] s (updBnd s c.val fun b => { b with phase := .gate }) := updBnd_kept (List.Subset.refl _) (Kept.refl _ s)
    exact ⟨_, congrArg Host.Outcome.next effect, by simp only [ctxOf_updBnd, if_true], kept.frame⟩

end Sys2Proof.Proofs
end

section
/-! BASE and SNAP (R190, R192, R193, R195, R198): the images that a job hands to its sinks when its records lie in one stack. -/

namespace Sys2Proof.Proofs

open Sys2Proof Sys2Proof.Machine Sys2Proof.Laws

/-- BASE and SNAP read no byte outside the record (R192). -/
theorem exportReads_inside (h : List Byte) (isBase : Bool) : ∀ p ∈ exportReads h isBase, p.1 + p.2 ≤ recBytes := by
  intro p hp
  simp only [exportReads, List.mem_cons, List.not_mem_nil, or_false] at hp
  rcases hp with rfl | rfl
  · cases isBase <;> decide
  · unfold workBytes recBytes
    split <;> decide

theorem recMeets_quiet {s : State} (quiet : s.mem.upsets = []) (c : Nat) (isBase : Bool) (rs : List Rec) :
    forEach rs s (fun s r => recMeet s c r (exportReads (hdrOf s r) isBase)) = s := by
  induction rs with
  | nil => rfl
  | cons r rs ih =>
    rw [forEach, List.foldl_cons, recMeet_quiet quiet]
    exact ih

/-- A trowel alone with the job's records, in the oldest command of its kind, hands them on (R193). -/
theorem exportEffect_only {op k c : Nat} {s : State} {x : TrwCmd} (quiet : s.mem.upsets = []) (head : headCmd s k op = some (c, x))
    (only : x.todo = [k]) (oldest : ((cmdsOf s c).find? fun y => decide (y.op = op ∧ y.todo ≠ [])).map (fun y => y.id) = some x.id)
    (sink : ¬ (op = 4 ∧ (sinkCfg s c 1).len = 0))
    (clean : (recsIn (ctxOf s c).man k).findSome? (fun r => poisonedAt s r.addr recBytes) = none) :
    exportEffect op k s = exportRun s c k x (if x.host then (ctxOf s c).trn.committed else (x.w.getD 3 0).toNat) := by
  have turn : ¬ (x.todo.any (· < k) = true ∨
      ¬ ((cmdsOf s c).find? fun y => decide (y.op = op ∧ y.todo ≠ [])).map (fun y => y.id) = some x.id) := by
    rw [only, oldest]; simp
  have whole : (recsIn (ctxOf s c).man k).findSome? (fun r => recPoison s r (exportReads (hdrOf s r) (decide (op = 4)))) = none :=
    List.findSome?_eq_none_iff.2 fun r hr => recPoison_none (List.findSome?_eq_none_iff.1 clean r hr) (exportReads_inside _ _)
  unfold exportEffect
  rw [head]
  dsimp only
  rw [if_neg turn, if_neg sink, recMeets_quiet quiet, whole]

/-- A trowel that hands its records to the mover: `g` adds them to what the job exports, and the command counts them. -/
def exported (s : State) (c k : Nat) (x : TrwCmd) (g : JobTrn → JobTrn) : State :=
  endOn (updCmd (beginOn (forEach (recsIn (ctxOf s c).man k) (updTrn s c g) fun s r => startRec s k r.idx) c k x) c x.id fun y =>
    { y with done := y.done + (recsIn (ctxOf s c).man k).length }) c k x

theorem exported_out (s : State) (c k : Nat) (x : TrwCmd) (g : JobTrn → JobTrn) :
    (ctxOf (exported s c k x g) c).trn.baseOut = (g (ctxOf s c).trn).baseOut ∧
      (ctxOf (exported s c k x g) c).trn.snapOut = (g (ctxOf s c).trn).snapOut := by
  have started : (forEach (recsIn (ctxOf s c).man k) (updTrn s c g) fun s r => startRec s k r.idx).job = (updTrn s c g).job :=
    (forEach_kept (C := [.trw]) (Kept.refl _ _) fun _ _ hu => startRec_kept (List.Subset.refl _) hu).frame .job (by decide)
  rw [exported, ctxOf_endOn, ctxOf_updCmd, ctxOf_beginOn, ctxOf_of_job started, ctxOf_updTrn, if_pos rfl]
  exact ⟨rfl, rfl⟩

theorem exported_todo {s : State} {c k : Nat} {x y : TrwCmd} {g : JobTrn → JobTrn} (left : y ∈ cmdsOf (exported s c k x g) c) (named : y.id = x.id) :
    k ∉ y.todo := by
  rw [exported] at left
  exact endOn_todo left named

theorem exported_kept {C : List Part} {z s : State} {c k : Nat} {x : TrwCmd} {g : JobTrn → JobTrn} (hC : ([.job, .trw] : List Part) ⊆ C)
    (h : Kept C z s) : Kept C z (exported s c k x g) :=
  endOn_kept (Part.subs hC (by decide)) (updCmd_kept (Part.subs hC (by decide)) (beginOn_kept (Part.subs hC (by decide))
    (forEach_kept (updTrn_kept (Part.subs hC (by decide)) h) fun _ _ hu => startRec_kept (Part.subs hC (by decide)) hu)))

/-- OPEN and the shards of a base image (R192). -/
def baseBody (s : State) (c k label : Nat) : List Byte :=
  trailRec s 0x11 0 label 0 0 0 (leBytes 4 (baseK s c) ++ leBytes 4 (recsOf (ctxOf s c).man).length ++ List.replicate 24 0) ++
    (recsIn (ctxOf s c).man k).flatMap (shardRec s 0x12 label)

/-- OPEN and the shards of a snapshot (R192). -/
def snapBody (s : State) (c k label : Nat) : List Byte :=
  trailRec s 0x21 0 label 0 0 0 (leBytes 4 (recsOf (ctxOf s c).man).length ++ List.replicate 28 0) ++
    (recsIn (ctxOf s c).man k).flatMap (shardRec s 0x22 label)

/-- A base image is added to what waits for the base sink. -/
def addBase (bs : List Byte) (label : Nat) (t : JobTrn) : JobTrn :=
  { t with baseOut := t.baseOut ++ bs, baseSeq := [], baseLabel := label, basing := false }

/-- A snapshot is added to what waits for the snapshot sink. -/
def addSnap (bs : List Byte) (label : Nat) (t : JobTrn) : JobTrn := { t with snapOut := t.snapOut ++ bs, snapSeq := [], snapLabel := label }

theorem exportRun_base {s : State} {c k : Nat} {x : TrwCmd} (base : x.op = 4) (only : x.todo = [k]) (begun : x.begun = []) (label : Nat) :
    exportRun s c k x label = exported s c k x (addBase (baseBody s c k label ++
      closeRec s 0x13 0 label (recsOf (ctxOf s c).man).length 0 (baseBody s c k label)) label) := by
  simp only [exportRun, base, only, begun, decide_true, if_true, List.nil_append, Bool.not_true]
  rfl

theorem exportRun_snap {s : State} {c k : Nat} {x : TrwCmd} (snap : x.op = 6) (only : x.todo = [k]) (begun : x.begun = []) (label : Nat) :
    exportRun s c k x label = exported s c k x (addSnap (snapBody s c k label ++
      closeRec s 0x23 0 label (recsOf (ctxOf s c).man).length 0 (snapBody s c k label)) label) := by
  simp only [exportRun, snap, only, begun, decide_true, if_true, List.nil_append, Nat.reduceEqDiff, decide_false,
    Bool.false_eq_true, if_false]
  rfl

/-! ### The obligation -/

/-- Settles O44: both exports hand OPEN, the shards and CLOSE to their sink, and end the command on the trowel. -/
theorem exportsOfRecords : Obligations.ExportsOfRecords := by
  unfold Obligations.ExportsOfRecords
  refine ⟨fun s k c label x body quiet head only stack oldest sink clean begun hlabel hbody => ?_,
    fun s k c label x body quiet head only stack oldest clean begun hlabel hbody => ?_⟩
  · obtain ⟨-, base, -⟩ := headCmd_some head
    subst hlabel hbody
    have effect := (exportEffect_only quiet head only oldest (fun h => sink h.2) clean).trans (exportRun_base base only begun _)
    refine ⟨_, congrArg Host.Outcome.next effect, ?_, fun y left named => exported_todo left named,
      (exported_kept (List.Subset.refl _) (Kept.refl _ s)).frame⟩
    rw [(exported_out ..).1, List.append_assoc]
    rfl
  · obtain ⟨-, snap, -⟩ := headCmd_some head
    subst hlabel hbody
    have effect := (exportEffect_only quiet head only oldest (fun h => absurd h.1 (by decide)) clean).trans (exportRun_snap snap only begun _)
    refine ⟨_, congrArg Host.Outcome.next effect, ?_, fun y left named => exported_todo left named,
      (exported_kept (List.Subset.refl _) (Kept.refl _ s)).frame⟩
    rw [(exported_out ..).2, List.append_assoc]
    rfl

end Sys2Proof.Proofs
end

section
/-! Sinks (R186, R187, R190): reads of a control area, from host memory or on a tag of device firmware, and the mover that
writes a record to a sink in host memory. -/

namespace Sys2Proof.Proofs

open Sys2Proof Sys2Proof.Machine Sys2Proof.Laws

/-! ### Sending takes no tag -/

theorem freeInput_tags (s : State) (q : QPkt) : (freeInput s q).fab.tags = s.fab.tags := by
  unfold freeInput
  split
  · rfl
  · rfl

theorem sendOn_tags (s : State) (port : Nat) (q : QPkt) : (sendOn s port q).fab.tags = s.fab.tags := by
  unfold sendOn
  dsimp only
  split
  · exact freeInput_tags ..
  · rfl

theorem doHop_tags (s : State) (inp : Option (Nat × Nat)) (p : Packet) (h : Hop) : (doHop s inp p h).fab.tags = s.fab.tags := by
  cases h with
  | deliver => exact freeInput_tags ..
  | port n q cont => exact sendOn_tags ..
  | discard => exact (freeInput_tags ..).trans (congrArg FabSt.tags
      ((countDiscard_kept (List.Subset.refl _) (Kept.refl _ s)).frame .fab (by decide)))

theorem inject_tags (s : State) (p : Packet) : (inject s p).fab.tags = s.fab.tags := by
  unfold inject forward
  dsimp only
  split
  · split
    · exact doHop_tags ..
    · exact (doHop_tags ..).trans (doHop_tags ..)
  · exact doHop_tags ..

/-! ### Reads of device firmware -/

/-- A read of a peer by firmware: one more tag of firmware, one more read that waits for its bytes (R218). -/
theorem fwAsk_asks (s : State) (c dst addr n what cmd : Nat) : (fwAsk s c dst addr n what cmd).fab.tags = s.fab.tags ++ [(freeTag s, 8)] ∧
    (ctxOf (fwAsk s c dst addr n what cmd) c).fab.reads =
      (ctxOf s c).fab.reads ++ [⟨freeTag s, dst, what, cmd, 0, List.replicate n 0, false⟩] := by
  constructor
  · exact (inject_tags ..).trans rfl
  · have job : (fwAsk s c dst addr n what cmd).job = (updFab (takeTag s 8).2 c fun f =>
        { f with reads := f.reads ++ [⟨(takeTag s 8).1, dst, what, cmd, 0, List.replicate n 0, false⟩] }).job :=
      (inject_kept (List.Subset.refl _) (Kept.refl _ _)).frame .job (by decide)
    rw [ctxOf_of_job job, ctxOf_updFab, if_pos rfl]
    rfl

theorem fwAskArea_free {s : State} {c k : Nat} (idle : fwReadOf s c k 0 = none) (tag : firmwareTagFree s = true) :
    fwAskArea s c k = fwAsk s c (toPhys s (sinkAt s c k).coords) (sinkAt s c k).base 256 k 0 := by
  unfold fwAskArea
  dsimp only
  rw [if_neg (by simp [idle, tag])]

theorem fwAskSource_free {s : State} {c : Nat} {x : TrwCmd} (missing : x.src.length < cmdLen x) (idle : fwReadOf s c 3 x.id = none)
    (tag : firmwareTagFree s = true) : fwAskSource s c x = fwAsk s c (toPhys s (fld (x.w.getD 0 0) 23 9)) (cmdAddr x + x.src.length)
      (min 4096 (cmdLen x - x.src.length)) 3 x.id := by
  unfold fwAskSource
  dsimp only
  rw [if_neg (by simp [idle, tag, Nat.not_le.2 missing])]

/-- The read is over: no tag of its number is left in use (R218). -/
theorem fwDone_tags {s : State} {c : Nat} {r : FwRead} (answered : r.nak = false) : ∀ x ∈ (fwDone s c r).fab.tags, x.1 ≠ r.tag := by
  intro x hx
  rw [fwDone, answered] at hx
  exact of_decide_eq_true (List.mem_filter.1 hx).2

theorem ctxOf_fwDone (s : State) (c : Nat) (r : FwRead) : ∃ f, ctxOf (fwDone s c r) c = { ctxOf s c with fab := f } := by
  have job : (fwDone s c r).job = (updFab s c fun f => { f with reads := f.reads.erase r }).job := by
    unfold fwDone
    dsimp only
    split
    · rfl
    · rfl
  exact ⟨_, (ctxOf_of_job job c).trans ((ctxOf_updFab ..).trans (if_pos rfl))⟩

/-! ### What is read of a control area -/

/-- A control area that passes: the counts are taken (R187). -/
theorem takeArea_valid {s : State} {c k : Nat} {a : List Byte} (valid : areaCause (sinkAt s c k).len a = none) :
    takeArea s c k a = updSink s c k fun x =>
      { x with prod := if x.known then x.prod else lat a 8 8, cons := lat a 0x40 8, invalid := false, known := true } := by
  rw [takeArea, valid]

theorem sinkOf_updSink (s : State) (c k : Nat) (f : SinkSt → SinkSt) : sinkOf (updSink s c k f) c k = f (sinkOf s c k) := by
  simp [sinkOf, updSink]

/-- A sink found invalid is so recorded, and its job goes on in its state (R187). -/
theorem sinkBad_invalid (s : State) (c k cause : Nat) :
    (sinkOf (sinkBad s c k cause) c k).invalid = true ∧ (ctxOf (sinkBad s c k cause) c).state = (ctxOf s c).state := by
  have marked : ∀ {u : State}, SameStep c (updSink s c k fun x => { x with invalid := true, known := true }) u →
      (sinkOf u c k).invalid = true ∧ (ctxOf u c).state = (ctxOf s c).state := by
    rintro u ⟨f, q, ctx⟩
    rw [sinkOf, ctx]
    exact ⟨congrArg SinkSt.invalid (sinkOf_updSink s c k fun x => { x with invalid := true, known := true }), by simp [updSink]⟩
  have raised : ∀ (p : Prop) [Decidable p] (f : EvF), SameStep c (updSink s c k fun x => { x with invalid := true, known := true })
      (if p then updSink s c k fun x => { x with invalid := true, known := true }
        else raiseJob (updSink s c k fun x => { x with invalid := true, known := true }) c 0x001D f) := fun p _ f => by
    split
    · exact SameStep.refl _
    · exact (SameStep.refl _).raiseJob c _ _
  have dropped : ∀ u : State, sinkOf (dropSnap u c) c k = sinkOf u c k ∧ (ctxOf (dropSnap u c) c).state = (ctxOf u c).state := fun u => by
    simp [sinkOf, dropSnap]
  unfold sinkBad
  dsimp only
  split
  · rw [(dropped _).1, (dropped _).2]
    exact marked (raised _ _)
  · exact marked (raised _ _)

theorem takeArea_invalid {s : State} {c k : Nat} {a : List Byte} (bad : areaCause (sinkAt s c k).len a ≠ none) :
    (sinkOf (takeArea s c k a) c k).invalid = true ∧ (ctxOf (takeArea s c k a) c).state = (ctxOf s c).state := by
  obtain ⟨e, cause⟩ := Option.ne_none_iff_exists'.1 bad
  rw [takeArea, cause]
  exact sinkBad_invalid s c k e

section

variable {s : State} {c k : Nat} (hw : List Host.Cell) (loaded : (ctxOf s c).loaded = true) (placed : (sinkAt s c k).len ≠ 0)

include loaded placed

/-- A poll of a sink in host memory takes its control area, as its consumer left it (R187). -/
theorem sinkPollEffect_host (near : (sinkAt s c k).peer = false) : sinkPollEffect c k hw s =
    takeArea { s with hostMem := s.hostMem.writeCells hw } c k ((s.hostMem.writeCells hw).read (sinkAt s c k).base 256) := by
  have ready : ¬ (¬ (ctxOf { s with hostMem := s.hostMem.writeCells hw } c).loaded = true ∨
      (sinkAt { s with hostMem := s.hostMem.writeCells hw } c k).len = 0) := fun h => h.elim (fun h => h loaded) placed
  have host : ¬ (sinkAt { s with hostMem := s.hostMem.writeCells hw } c k).peer = true := fun h => Bool.false_ne_true (near.symm.trans h)
  unfold sinkPollEffect
  dsimp only
  rw [if_neg ready, if_neg host]
  rfl

/-- A poll of a peer sink asks the peer (R187). -/
theorem sinkPollEffect_peer (peer : (sinkAt s c k).peer = true) :
    sinkPollEffect c k hw s = fwAskArea { s with hostMem := s.hostMem.writeCells hw } c k := by
  have ready : ¬ (¬ (ctxOf { s with hostMem := s.hostMem.writeCells hw } c).loaded = true ∨
      (sinkAt { s with hostMem := s.hostMem.writeCells hw } c k).len = 0) := fun h => h.elim (fun h => h loaded) placed
  have far : (sinkAt { s with hostMem := s.hostMem.writeCells hw } c k).peer = true := peer
  unfold sinkPollEffect
  dsimp only
  rw [if_neg ready, if_pos far]

end

theorem sinkReadTimeoutEffect_late {s : State} {c k : Nat} {r : FwRead} (loaded : (ctxOf s c).loaded = true)
    (asked : fwReadOf s c k 0 = some r) : sinkReadTimeoutEffect c k s = sinkBad (fwDone s c r) c k 3 := by
  rw [sinkReadTimeoutEffect, if_pos loaded, fwAnswered, asked]

theorem sinkReadTimeoutEffect_none {s : State} {c k : Nat} (quiet : (ctxOf s c).loaded = false ∨ fwReadOf s c k 0 = none) :
    sinkReadTimeoutEffect c k s = s := by
  unfold sinkReadTimeoutEffect
  split
  · next loaded =>
    rcases quiet with unloaded | none
    · exact absurd (unloaded.symm.trans loaded) (by decide)
    · rw [fwAnswered, none]
  · rfl

end Sys2Proof.Proofs
end

section
/-! The mover (R190): a base record that lies in the mover's hands is written to a sink in host memory. -/

namespace Sys2Proof.Proofs

open Sys2Proof Sys2Proof.Machine Sys2Proof.Laws

/-- Bytes apart from a number's place are read as before it was written. -/
theorem read_wr_apart (m : Mem) {a n x b l : Nat} (apart : a + n ≤ b ∨ b + l ≤ a) : (m.wr a n x).read b l = m.read b l := by
  refine List.map_congr_left fun i hi => ?_
  have hi := List.mem_range.1 hi
  rw [Mem.wr, Mem.get_write, leBytes_length, if_neg (by omega)]

/-- The job context, but for what the mover changes when it hands a base record over. -/
def BaseHanded (s t : State) (c n : Nat) : Prop :=
  ∃ step, ctxOf t c = { ctxOf s c with
    trn := { (ctxOf s c).trn with
      sinks := mupd (ctxOf s c).trn.sinks {} 1 fun x => { x with prod := x.prod + n }
      baseOut := (ctxOf s c).trn.baseOut.drop n
      baseStep := step } }

theorem BaseHanded.sinkOf {s t : State} {c n : Nat} (h : BaseHanded s t c n) (k : Nat) :
    sinkOf t c k = if k = 1 then { sinkOf s c 1 with prod := (sinkOf s c 1).prod + n } else sinkOf s c k := by
  obtain ⟨step, ctx⟩ := h
  rw [Machine.sinkOf, ctx]
  exact mget_mupd (ctxOf s c).trn.sinks {} 1 (fun x => { x with prod := x.prod + n }) k

/-- A write to host memory changes nothing else. -/
theorem hostMem_kept {C : List Part} {z s : State} {m : Mem} (hC : ([.hostMem] : List Part) ⊆ C) (wf : s.hostMem.wf → m.wf) (h : Kept C z s) :
    Kept C z { s with hostMem := m } :=
  Kept.put h (mems := fun ⟨host, rest⟩ => ⟨wf host, rest⟩)

/-- The mover's write of a base record to its sink (R186, R190). -/
def moveBase (s : State) (c : Nat) (bs : List Byte) : State := consumeFor (sinkWrite s c 1 bs) c 1 bs.length

section

variable {s : State} {c : Nat} {bs : List Byte}

/-- A record that fits before the ring's end is written in one piece, then the producer count (R186). -/
theorem sinkWrite_base (near : (sinkCfg s c 1).peer = false)
    (fits : (sinkOf s c 1).prod % ((sinkCfg s c 1).len - 256) + bs.length ≤ (sinkCfg s c 1).len - 256) :
    (sinkWrite s c 1 bs).hostMem =
      (s.hostMem.write ((sinkCfg s c 1).base + (256 + (sinkOf s c 1).prod % ((sinkCfg s c 1).len - 256))) bs).wr ((sinkCfg s c 1).base + 8) 8
        ((sinkOf s c 1).prod + bs.length) ∧
    ∃ step, ctxOf (sinkWrite s c 1 bs) c = { ctxOf s c with
      trn := { (ctxOf s c).trn with
        sinks := mupd (ctxOf s c).trn.sinks {} 1 fun x => { x with prod := x.prod + bs.length }
        baseStep := step } } := by
  have piece : ringPieces (sinkCfg s c 1).len (sinkOf s c 1).prod bs = [(256 + (sinkOf s c 1).prod % ((sinkCfg s c 1).len - 256), bs)] :=
    if_pos (by omega)
  have place : sinkAt s c 1 = sinkCfg s c 1 := rfl
  unfold sinkWrite
  dsimp only
  rw [place, near, if_neg Bool.false_ne_true, piece]
  simp only [List.foldl_cons, List.foldl_nil]
  split
  · refine ⟨rfl, lat bs 8 4, ?_⟩
    rw [sinkClosed, ctxOf_updTrn, if_pos rfl, updSink, ctxOf_updTrn, if_pos rfl]
    rfl
  · refine ⟨rfl, (ctxOf s c).trn.baseStep, ?_⟩
    rw [updSink, ctxOf_updTrn, if_pos rfl]
    rfl

/-- After the mover's write, the sink has the bytes, its count goes on by them, and nothing waits for it (R186, R190). -/
theorem moveBase_spec (near : (sinkCfg s c 1).peer = false)
    (fits : (sinkOf s c 1).prod % ((sinkCfg s c 1).len - 256) + bs.length ≤ (sinkCfg s c 1).len - 256) :
    (moveBase s c bs).hostMem =
      (s.hostMem.write ((sinkCfg s c 1).base + (256 + (sinkOf s c 1).prod % ((sinkCfg s c 1).len - 256))) bs).wr ((sinkCfg s c 1).base + 8) 8
        ((sinkOf s c 1).prod + bs.length) ∧ BaseHanded s (moveBase s c bs) c bs.length := by
  obtain ⟨host, step, ctx⟩ := sinkWrite_base near fits
  refine ⟨host, step, ?_⟩
  rw [moveBase, consumeFor, if_neg (by decide), ctxOf_updTrn, if_pos rfl, ctx]
  rfl

theorem moveBase_kept (near : (sinkCfg s c 1).peer = false)
    (fits : (sinkOf s c 1).prod % ((sinkCfg s c 1).len - 256) + bs.length ≤ (sinkCfg s c 1).len - 256) : Kept [.hostMem, .job] s (moveBase s c bs) := by
  have place : sinkAt s c 1 = sinkCfg s c 1 := rfl
  have piece : ringPieces (sinkCfg s c 1).len (sinkOf s c 1).prod bs = [(256 + (sinkOf s c 1).prod % ((sinkCfg s c 1).len - 256), bs)] :=
    if_pos (by omega)
  have written : Kept [.hostMem, .job] s (sinkWrite s c 1 bs) := by
    unfold sinkWrite
    dsimp only
    rw [place, near, if_neg Bool.false_ne_true, piece, List.foldl_cons, List.foldl_nil]
    have stored : ∀ (a b x : Nat) (f : SinkSt → SinkSt),
        Kept [.hostMem, .job] s (updSink { s with hostMem := (s.hostMem.write a bs).wr b 8 x } c 1 f) := fun a b x f =>
      updSink_kept (by decide) (hostMem_kept (by decide) (fun wf => Mem.wr_wf _ _ _ (Mem.write_wf _ _ wf)) (Kept.refl _ s))
    exact Kept.ite (sinkClosed_kept (by decide) (stored ..)) (stored ..)
  rw [moveBase, consumeFor, if_neg (by decide)]
  exact updTrn_kept (by decide) written

end

/-! ### Which record the mover takes -/

theorem movable_of_nil {s : State} {c k : Nat} (empty : nextFor s c k = []) : movable s c k = false := by
  unfold movable
  rw [empty]
  rfl

theorem moverOne_none {s : State} {c : Nat} (empty : ∀ k < 3, nextFor s c k = []) (budget : Nat) : moverOne s c budget = none := by
  unfold moverOne
  rw [List.find?_cons_of_neg (by simp [movable_of_nil (empty 0 (by decide))]), List.find?_cons_of_neg (by simp [movable_of_nil (empty 2 (by decide))]),
    List.find?_cons_of_neg (by simp [movable_of_nil (empty 1 (by decide))]), List.find?_nil]

theorem moverRun_none {s : State} {c : Nat} (empty : ∀ k < 3, nextFor s c k = []) (budget n : Nat) : moverRun s c budget n = s := by
  cases n with
  | zero => rfl
  | succ n => rw [moverRun, moverOne_none empty]

/-- With no trail and no snapshot record, a base record that fits its sink and the budget goes next (R190). -/
theorem moverOne_base {s : State} {c budget : Nat} {bs : List Byte} (trail : nextFor s c 0 = []) (snap : nextFor s c 2 = [])
    (next : nextFor s c 1 = bs) (some_bytes : bs ≠ []) (ready : sinkReady s c 1 = true) (room : sinkRoom s c 1 bs.length = true)
    (near : (sinkCfg s c 1).peer = false) (budgeted : bs.length ≤ budget) :
    moverOne s c budget = some (moveBase s c bs, budget - bs.length) := by
  have place : sinkAt s c 1 = sinkCfg s c 1 := rfl
  have can : movable s c 1 = true := by
    unfold movable
    simp [next, some_bytes, ready, room, place, near]
  have served : [0, 2, 1].find? (movable s c) = some 1 := by
    rw [List.find?_cons_of_neg (by simp [movable_of_nil trail]), List.find?_cons_of_neg (by simp [movable_of_nil snap]),
      List.find?_cons_of_pos can]
  unfold moverOne
  rw [served]
  dsimp only
  simp only [Nat.one_ne_zero, if_false]
  rw [next, if_neg (Nat.not_lt.2 budgeted), place, near]
  rfl

theorem nextFor_trail (s : State) (c : Nat) : nextFor s c 0 = match staging (ctxOf s c).man with
    | some r => (stagedRecord s r (sinkOf s c 0).ahead).map (devGet s)
    | none => [] := rfl

theorem nextFor_base (s : State) (c : Nat) : nextFor s c 1 =
    ((ctxOf s c).trn.baseOut.drop (sinkOf s c 1).ahead).take (recLen ((ctxOf s c).trn.baseOut.drop (sinkOf s c 1).ahead)) := rfl

theorem nextFor_snap (s : State) (c : Nat) : nextFor s c 2 =
    ((ctxOf s c).trn.snapOut.drop (sinkOf s c 2).ahead).take (recLen ((ctxOf s c).trn.snapOut.drop (sinkOf s c 2).ahead)) := rfl

/-- What waits in staging does not change when a base record is handed over. -/
theorem nextFor_trail_handed {s t : State} {c n : Nat} (handed : BaseHanded s t c n) (dev : t.mem.dev = s.mem.dev) :
    nextFor t c 0 = nextFor s c 0 := by
  have sink := handed.sinkOf 0
  obtain ⟨step, ctx⟩ := handed
  have man : (ctxOf t c).man = (ctxOf s c).man := by rw [ctx]
  have bytes : devGet t = devGet s := funext (devGet_of_dev dev)
  have staged : ∀ (r : Region) (off : Nat), stagedRecord t r off = stagedRecord s r off := fun r off => by
    unfold stagedRecord
    rw [devNat_of_dev dev, devNat_of_dev dev, bytes]
  rw [nextFor_trail, nextFor_trail, man, bytes, sink, if_neg (by decide)]
  split
  · rw [staged]
  · rfl

/-- A handed base record leaves nothing for the base sink, and what waits for the others as it was. -/
theorem nextFor_handed {s t : State} {c n : Nat} (handed : BaseHanded s t c n) (dev : t.mem.dev = s.mem.dev) (all : (ctxOf s c).trn.baseOut.length ≤ n)
    (trail : nextFor s c 0 = []) (snap : nextFor s c 2 = []) : ∀ k < 3, nextFor t c k = [] := by
  have sink := handed.sinkOf 2
  have staged := nextFor_trail_handed handed dev
  obtain ⟨step, ctx⟩ := handed
  have base : (ctxOf t c).trn.baseOut = [] := by rw [ctx]; exact List.drop_eq_nil_of_le all
  have kept : (ctxOf t c).trn.snapOut = (ctxOf s c).trn.snapOut := by rw [ctx]
  intro k hk
  match k, hk with
  | 0, _ => exact staged.trans trail
  | 1, _ => rw [nextFor_base, base, List.drop_nil, List.take_nil]
  | 2, _ => rw [nextFor_snap, kept, sink, if_neg (by decide), ← nextFor_snap, snap]

/-! ### The obligation -/

/-- A sink with nothing sent ahead has no producer count to publish (R190). -/
theorem publish_settled {s : State} {c k : Nat} (settled : (sinkOf s c k).ahead = 0) : publish s c k = s := if_pos (Or.inl settled)

theorem publish_all_settled {s : State} {c : Nat} (settled : ∀ k < 3, (sinkOf s c k).ahead = 0) :
    forEach [0, 2, 1] s (fun s k => if (sinkAt s c k).peer then publish s c k else s) = s := by
  have each : ∀ k < 3, (if (sinkAt s c k).peer then publish s c k else s) = s := fun k hk => by
    rw [publish_settled (settled k hk), ite_self]
  simp only [forEach, List.foldl_cons, List.foldl_nil, each 0 (by decide), each 2 (by decide), each 1 (by decide)]

/-- The mover hands the base record over and finds nothing else to move (R190). -/
theorem trailMoverEffect_base {s : State} {c budget : Nat} {bs : List Byte} (loaded : (ctxOf s c).loaded = true)
    (mover : (ctxOf s c).man.trailMbps ≠ 0) (fresh : readFresh s c = s) (near : (sinkCfg s c 1).peer = false) (ready : sinkReady s c 1 = true)
    (trail : nextFor s c 0 = []) (snap : nextFor s c 2 = []) (settled : ∀ k < 3, (sinkOf s c k).ahead = 0) (waits : (ctxOf s c).trn.baseOut = bs)
    (whole : recLen bs = bs.length) (long : 64 ≤ bs.length) (budgeted : bs.length ≤ budget) (room : sinkRoom s c 1 bs.length = true)
    (fits : (sinkOf s c 1).prod % ((sinkCfg s c 1).len - 256) + bs.length ≤ (sinkCfg s c 1).len - 256) :
    trailMoverEffect c budget s = moveBase s c bs := by
  have next : nextFor s c 1 = bs := by
    rw [nextFor_base, settled 1 (by decide), waits, List.drop_zero, whole, List.take_length]
  have some_bytes : bs ≠ [] := by rintro rfl; exact absurd long (by decide)
  obtain ⟨n, turns⟩ : ∃ n, budget / 64 = n + 1 := ⟨budget / 64 - 1, by omega⟩
  have dev : (moveBase s c bs).mem.dev = s.mem.dev := (moveBase_kept near fits).frame .dev (by decide)
  unfold trailMoverEffect
  rw [if_pos ⟨loaded, mover⟩, fresh, publish_all_settled settled, turns, moverRun,
    moverOne_base trail snap next some_bytes ready room near budgeted]
  exact moverRun_none (nextFor_handed (moveBase_spec near fits).2 dev (by rw [waits]) trail snap) _ _

/-- Settles O45: the mover's write of a base record, and each outcome of reading a control area. -/
theorem sinkRings : Obligations.SinkRings := by
  unfold Obligations.SinkRings
  refine ⟨fun s c budget pos bs g loaded mover fresh cfg near ready trail snap settled waits whole long budgeted room hpos fits => ?_,
    fun s c k hw a loaded placed near area valid => ?_, fun s c k hw a loaded placed near area bad => ?_,
    fun s c k hw loaded placed peer idle tag => ?_, fun s c k r loaded asked answered => ?_,
    fun s c k quiet => congrArg Host.Outcome.next (sinkReadTimeoutEffect_none quiet)⟩
  · subst cfg hpos
    obtain ⟨host, handed⟩ := moveBase_spec near fits
    have sink := handed.sinkOf 1
    obtain ⟨step, ctx⟩ := handed
    refine ⟨_, congrArg Host.Outcome.next (trailMoverEffect_base loaded mover fresh near ready trail snap settled waits whole long budgeted room fits),
      ?_, ?_, ?_, ?_, (moveBase_kept near fits).frame⟩
    · rw [host, Nat.add_assoc, read_wr_apart _ (by omega), Mem.read_write]
    · rw [host, Mem.rd_wr, show (256 : Nat) ^ 8 = 2 ^ 64 from rfl]
    · rw [sink, if_pos rfl]
    · rw [ctx, waits]
      exact List.drop_length
  · subst area
    have taken : sinkPollEffect c.val k.val hw s = _ := (sinkPollEffect_host hw loaded placed near).trans (takeArea_valid valid)
    have kept : Kept [.hostMem, .job] s (sinkPollEffect c.val k.val hw s) := by
      rw [taken]
      exact updSink_kept (by decide) (hostMem_kept (by decide) (Mem.writeCells_wf hw) (Kept.refl _ s))
    refine ⟨_, congrArg Host.Outcome.next taken, ?_, ?_, ?_, rfl, taken ▸ kept.frame⟩
    · rw [sinkOf_updSink]
    · rw [sinkOf_updSink]
    · rw [sinkOf_updSink]
      rfl
  · subst area
    have read := sinkPollEffect_host hw loaded placed near
    obtain ⟨invalid, state⟩ := takeArea_invalid (s := { s with hostMem := s.hostMem.writeCells hw }) (c := c.val) (k := k.val) bad
    exact ⟨_, congrArg Host.Outcome.next read, invalid, state⟩
  · have asks : sinkPollEffect c.val k.val hw s = _ := (sinkPollEffect_peer hw loaded placed peer).trans (fwAskArea_free idle tag)
    obtain ⟨tags, reads⟩ := fwAsk_asks { s with hostMem := s.hostMem.writeCells hw } c.val (toPhys s (sinkAt s c.val k.val).coords)
      (sinkAt s c.val k.val).base 256 k.val 0
    have kept : Kept [.out, .hostMem, .job, .fab, .tel] s (fwAsk { s with hostMem := s.hostMem.writeCells hw } c.val
        (toPhys s (sinkAt s c.val k.val).coords) (sinkAt s c.val k.val).base 256 k.val 0) :=
      fwAsk_kept (by decide) (hostMem_kept (by decide) (Mem.writeCells_wf hw) (Kept.refl _ s))
    exact ⟨_, congrArg Host.Outcome.next asks, tags, reads, kept.frame⟩
  · obtain ⟨invalid, state⟩ := sinkBad_invalid (fwDone s c.val r) c.val k.val 3
    obtain ⟨f, ctx⟩ := ctxOf_fwDone s c.val r
    have fab : (sinkBad (fwDone s c.val r) c.val k.val 3).fab = (fwDone s c.val r).fab :=
      (sinkBad_kept (List.Subset.refl _) (Kept.refl _ _)).frame .fab (by decide)
    refine ⟨_, congrArg Host.Outcome.next (sinkReadTimeoutEffect_late loaded asked), invalid, state.trans (by rw [ctx]), ?_⟩
    rw [fab]
    exact fwDone_tags answered

end Sys2Proof.Proofs
end

section
/-! The trowel command queue (R183 to R185, R455): a doorbell takes the commands from the head up to the new tail, and a command
that every trowel has ended is completed. -/

namespace Sys2Proof.Proofs

open Sys2Proof Sys2Proof.Machine Sys2Proof.Laws

/-- TROWEL_DONE moves nothing of the step (R185, R457). -/
theorem SameStep.trowelEvent {c : Nat} {z s : State} (h : SameStep c z s) (tag code stack idx n : Nat) :
    SameStep c z (trowelEvent s c tag code stack idx n) := h.jobEvent c _

/-! ### Taking commands -/

theorem takeCmd_reserved {s : State} {c : Nat} {w : List Word} (broken : cmdReserved c w = true) :
    takeCmd s c w = trowelEvent s c (fld (w.getD 4 0) 31 16) 2 0xFF 0 0 := if_pos broken

/-- A command in order, of a loaded job with records, joins the list (R183, R184). -/
theorem takeCmd_loaded {s : State} {c : Nat} {w : List Word} (ordered : cmdReserved c w = false) (loaded : (ctxOf s c).state = .loaded)
    (holds : recStacks (ctxOf s c).man ≠ []) : takeCmd s c w = updTrn s c fun t => { t with
      nextCmd := trwNext s + 1
      cmds := t.cmds ++ [{ id := trwNext s, op := fld (w.getD 0 0) 31 28, w := w, host := true,
                           todo := if fld (w.getD 0 0) 31 28 = 4 then List.range 12 else recStacks (ctxOf s c).man }] } := by
  unfold takeCmd
  dsimp only
  rw [if_neg (by rw [ordered]; decide), if_neg (not_not.2 (Or.inl loaded))]
  simp only [holds, false_and, if_false]

theorem takeCmds_done {s : State} {c tail : Nat} (done : (ctxOf s c).trwHead = tail) (base slots n : Nat) : takeCmds s c base slots tail n = s := by
  cases n with
  | zero => rfl
  | succ n => rw [takeCmds, if_pos done]

/-- One command between head and tail: it is taken, and the head is at the tail (R455). -/
theorem takeCmds_one {s : State} {c base slots tail : Nat} {w : List Word} (waits : (ctxOf s c).trwHead ≠ tail)
    (last : ((ctxOf s c).trwHead + 1) % slots = tail)
    (words : w = (List.range 8).map fun i => BitVec.ofNat 32 (s.hostMem.rd (base + 32 * (ctxOf s c).trwHead + 4 * i) 4)) (n : Nat) :
    takeCmds s c base slots tail (n + 1) = updCtx (takeCmd s c w) c fun j => { j with trwHead := tail } := by
  rw [takeCmds, if_neg waits, ← words, last]
  exact takeCmds_done (by rw [ctxOf_updCtx, if_pos rfl]) ..

/-- A doorbell with the tail one command ahead takes that command (R183, R455). -/
theorem trowelQueueDoorbellEffect_one {s : State} {c tail : Nat} {hw : List Host.Cell} {w : List Word}
    (inQueue : tail < (rw s (jobBase c + 0x98)).toNat) (waits : (ctxOf s c).trwHead ≠ tail)
    (last : ((ctxOf s c).trwHead + 1) % (rw s (jobBase c + 0x98)).toNat = tail)
    (words : w = (List.range 8).map fun i => BitVec.ofNat 32
      ((s.hostMem.writeCells hw).rd (rw64 s (jobBase c + 0x90) + 32 * (ctxOf s c).trwHead + 4 * i) 4)) :
    trowelQueueDoorbellEffect c tail hw s =
      updCtx (takeCmd { s with hostMem := s.hostMem.writeCells hw } c w) c fun j => { j with trwHead := tail } := by
  obtain ⟨n, slots⟩ : ∃ n, (rw s (jobBase c + 0x98)).toNat = n + 1 := ⟨_, (Nat.succ_pred_eq_of_pos (Nat.zero_lt_of_lt inQueue)).symm⟩
  have place : (rw { s with hostMem := s.hostMem.writeCells hw } (jobBase c + 0x98)).toNat = n + 1 := slots
  rw [slots] at inQueue last
  unfold trowelQueueDoorbellEffect
  dsimp only
  rw [place, if_neg (Nat.not_le.2 inQueue)]
  exact takeCmds_one (s := { s with hostMem := s.hostMem.writeCells hw }) waits last words n

/-! ### Completion -/

theorem trowelDoneEffect_some {s : State} {c : Nat} {x : TrwCmd} (ended : (cmdsOf s c).find? (fun y => y.host && decide (y.todo = [])) = some x) :
    trowelDoneEffect c s = trowelEvent (updTrn s c fun t => { t with cmds := t.cmds.filter fun y => y.id ≠ x.id }) c
      (fld (x.w.getD 4 0) 31 16) (worstFail x.fails).2.2 (worstFail x.fails).1 (worstFail x.fails).2.1 x.done := by
  rw [trowelDoneEffect, ended]

theorem peerReadTimeoutEffect_some {s : State} {c : Nat} {x : TrwCmd} {r : FwRead}
    (asked : (ctxOf s c).fab.reads.find? (fun y => decide (y.what = 3)) = some r)
    (queued : (cmdsOf s c).find? (fun y => decide (y.id = r.cmd)) = some x) :
    peerReadTimeoutEffect c s = remoteTimeout (updTrn (trowelEvent s c (fld (x.w.getD 4 0) 31 16) 8 0xFF 0 x.done) c fun t =>
      { t with cmds := t.cmds.filter fun y => y.id ≠ x.id }) c 6 r.dst := by
  rw [peerReadTimeoutEffect, asked]
  dsimp only
  rw [queued]

/-! ### The obligation -/

/-- Settles O46: a doorbell past the queue, one command taken or refused, a completion, and a source that does not arrive. -/
theorem trowelCommandQueue : Obligations.TrowelCommandQueue := by
  unfold Obligations.TrowelCommandQueue
  refine ⟨fun s c tail hw past => congrArg Host.Outcome.next (if_pos past),
    fun s c tail slots h hw w hslots inQueue head waits last words ordered loaded holds => ?_,
    fun s c tail slots h hw w hslots inQueue head waits last words broken => ?_, fun s c x ended => ?_,
    fun s c x r asked queued loaded => ?_⟩
  · subst hslots head
    have taken := takeCmd_loaded (s := { s with hostMem := s.hostMem.writeCells hw }) ordered loaded holds
    have kept : Kept [.hostMem, .job] s (updCtx (takeCmd { s with hostMem := s.hostMem.writeCells hw } c.val w) c.val fun j =>
        { j with trwHead := tail }) := by
      rw [taken]
      exact updCtx_kept (by decide) (updTrn_kept (by decide) (hostMem_kept (by decide) (Mem.writeCells_wf hw) (Kept.refl _ s)))
    refine ⟨_, congrArg Host.Outcome.next (trowelQueueDoorbellEffect_one inQueue waits last words), ?_, ?_, ?_, kept.frame⟩
    · rw [ctxOf_updCtx, if_pos rfl]
    · rw [ctxOf_updCtx, if_pos rfl, taken, ctxOf_updTrn, if_pos rfl]
      rfl
    · rw [taken]
      rfl
  · subst hslots head
    have refused := takeCmd_reserved (s := { s with hostMem := s.hostMem.writeCells hw }) broken
    have kept : Kept [.out, .hostMem, .host, .job] s (updCtx (takeCmd { s with hostMem := s.hostMem.writeCells hw } c.val w) c.val fun j =>
        { j with trwHead := tail }) :=
      updCtx_kept (by decide) (takeCmd_kept (by decide) (hostMem_kept (by decide) (Mem.writeCells_wf hw) (Kept.refl _ s)))
    obtain ⟨f, q, ctx⟩ := (SameStep.refl (c := c.val) { s with hostMem := s.hostMem.writeCells hw }).trowelEvent (fld (w.getD 4 0) 31 16) 2 0xFF 0 0
    refine ⟨_, congrArg Host.Outcome.next (trowelQueueDoorbellEffect_one inQueue waits last words), ?_, ?_, kept.frame⟩
    · rw [ctxOf_updCtx, if_pos rfl]
    · rw [ctxOf_updCtx, if_pos rfl, refused, ctx]
      rfl
  · obtain ⟨f, q, ctx⟩ := (SameStep.refl (c := c.val) (updTrn s c.val fun t => { t with cmds := t.cmds.filter fun y => y.id ≠ x.id })).trowelEvent
      (fld (x.w.getD 4 0) 31 16) (worstFail x.fails).2.2 (worstFail x.fails).1 (worstFail x.fails).2.1 x.done
    have kept : Kept [.out, .hostMem, .host, .job] s (trowelEvent (updTrn s c.val fun t => { t with cmds := t.cmds.filter fun y => y.id ≠ x.id })
        c.val (fld (x.w.getD 4 0) 31 16) (worstFail x.fails).2.2 (worstFail x.fails).1 (worstFail x.fails).2.1 x.done) :=
      trowelEvent_kept (by decide) (updTrn_kept (by decide) (Kept.refl _ s))
    refine ⟨_, congrArg Host.Outcome.next (trowelDoneEffect_some ended), ?_, kept.frame⟩
    rw [ctx, ctxOf_updTrn, if_pos rfl]
  · obtain ⟨f, q, ctx⟩ := (SameStep.refl (c := c.val) s).trowelEvent (fld (x.w.getD 4 0) 31 16) 8 0xFF 0 x.done
    refine ⟨_, congrArg Host.Outcome.next (peerReadTimeoutEffect_some asked queued), remoteTimeout_state ?_ ..⟩
    rw [ctxOf_updTrn, if_pos rfl, ctx]
    exact loaded

end Sys2Proof.Proofs
end

section
/-! DIGEST and INIT (R178, R179, R184): a trowel recomputes the digest of a record, or initialises it from its working copy. -/

namespace Sys2Proof.Proofs

open Sys2Proof Sys2Proof.Machine Sys2Proof.Laws

/-! ### DIGEST -/

/-- DIGEST of one record: its master plane's digest is that of its header, or the trowel fails there (R179, R184). -/
theorem digestRun_one {s : State} {c : Nat} {r : Rec} (quiet : s.mem.upsets = []) (clean : poisonedAt s r.addr 0x4100 = none) (k : Nat) (x : TrwCmd) :
    digestRun s c k x [r] =
      if recDigest (devRead s (0x100 + r.addr) 16384) = devNat s (r.addr + 0x50) 8 then
        endOn (didOne (startRec s k r.idx) c x) c k x
      else failOn (startRec s k r.idx) c k r.idx 5 x := by
  rw [digestRun, recMeet_quiet quiet, clean]
  rfl

theorem digestEffect_run {s : State} {k c : Nat} {x : TrwCmd} (head : headCmd s k 2 = some (c, x)) :
    digestEffect k s = digestRun s c k x (recsIn (ctxOf s c).man k) := by
  rw [digestEffect, head]

theorem queued_startRec {s : State} {c : Nat} {x : TrwCmd} (queued : x ∈ cmdsOf s c) (k idx : Nat) : x ∈ cmdsOf (startRec s k idx) c := by
  rwa [cmdsOf_of_job (startRec_job ..)]

/-! ### INIT -/

/-- The master plane that an initialisation writes (R184). -/
def initPlane (s : State) (r : Rec) : List Byte :=
  (List.range (hCount (hdrOf s r))).flatMap fun i => leBytes 4 (initMaster (hdrOf s r)
    (lat (devRead s (0xE100 + r.addr) ((if hWfmt (hdrOf s r) = 4 then 1 else 2) * hCount (hdrOf s r)))
      ((if hWfmt (hdrOf s r) = 4 then 1 else 2) * i) (if hWfmt (hdrOf s r) = 4 then 1 else 2))).toNat

/-- What an initialisation writes of a record: master from the working copy, moments and gradient zero (R184). -/
def initWrites (s : State) (r : Rec) : List (Nat × List Byte) :=
  [(0x100, initPlane s r), (0x4100, List.replicate (4 * hCount (hdrOf s r)) 0), (0x8100, List.replicate (4 * hCount (hdrOf s r)) 0),
    (0xC100, (List.replicate (4 * hCount (hdrOf s r)) 0).take (2 * hCount (hdrOf s r)))]

theorem initRec_eq (s : State) (k : Nat) (r : Rec) :
    initRec s k r = countWritten (sealRecord s r (initWrites s r) 0) k (nansIn (initPlane s r)) 0 0 := by
  simp only [initRec, sealRecord, recWrites, initWrites, initPlane, List.cons_append, List.nil_append, List.foldl_cons, List.foldl_nil]

theorem initPlane_length (s : State) (r : Rec) : (initPlane s r).length = 4 * hCount (hdrOf s r) := by
  rw [initPlane, length_flatMap_const fun i => leBytes_length 4 _, List.length_range]

theorem initWrites_fits {s : State} {r : Rec} (count : hCount (hdrOf s r) ≤ 4096) : ∀ w ∈ initWrites s r, FitsRecord w := by
  have master := initPlane_length s r
  intro w hw
  simp only [initWrites, List.mem_cons, List.not_mem_nil, or_false] at hw
  rcases hw with rfl | rfl | rfl | rfl
  · simp only [FitsRecord]; omega
  · simp only [FitsRecord, List.length_replicate]; omega
  · simp only [FitsRecord, List.length_replicate]; omega
  · simp only [FitsRecord, List.length_take, List.length_replicate]; omega

section

variable {s : State} {r : Rec} (direct : Direct r) (count : hCount (hdrOf s r) ≤ 4096) (k : Nat)

theorem initRec_dev : (initRec s k r).mem.dev = (sealRecord s r (initWrites s r) 0).mem.dev := by rw [initRec_eq, countWritten_mem]

include direct in
theorem initRec_step : devNat (initRec s k r) (r.addr + 0x48) 4 = 0 := by
  rw [devNat_of_dev (initRec_dev k), sealRecord_step s 0 direct, Nat.zero_mod]

include direct in
theorem initRec_digest : devNat (initRec s k r) (r.addr + 0x50) 8 = recDigest (devRead (initRec s k r) (r.addr + 0x100) 16384) := by
  rw [devNat_of_dev (initRec_dev k), devRead_of_dev (initRec_dev k), sealRecord_digest s 0 direct]

include count

theorem initRec_off {a : Nat} (off : OffRecord r a) : devGet (initRec s k r) a = devGet s a := by
  rw [devGet_of_dev (initRec_dev k), sealRecord_off s 0 (initWrites_fits count) off]

include direct

/-- Element `i` of the master plane is the widened working value (R184). -/
theorem initRec_master (bf16 : hWfmt (hdrOf s r) = 1) {i : Nat} (hi : i < hCount (hdrOf s r)) :
    devNat (initRec s k r) (r.addr + 0x100 + 4 * i) 4 = (widen .bf16 (devNat s (r.addr + 0xE100 + 2 * i) 2)).toNat := by
  have master := initPlane_length s r
  rw [devNat_of_dev (initRec_dev k)]
  refine (sealRecord_within s 0 (initWrites_fits count) direct (us := []) (w := (0x100, initPlane s r)) rfl (by simp only; omega)
    (by simp only; omega) ?_).trans ?_
  · refine List.forall_mem_cons.2 ⟨Or.inl (by simp only; omega), List.forall_mem_cons.2 ⟨Or.inl (by simp only; omega),
      List.forall_mem_cons.2 ⟨Or.inl (by simp only; omega), fun v hv => absurd hv List.not_mem_nil⟩⟩⟩
  · have working : lat (devRead s (0xE100 + r.addr) (2 * hCount (hdrOf s r))) (2 * i) 2 = devNat s (r.addr + 0xE100 + 2 * i) 2 := by
      rw [lat_devRead s _ (by omega), Nat.add_comm 0xE100 r.addr]
    simp only [initPlane, bf16, show ¬ (1 : Nat) = 4 by decide, if_false]
    rw [lat_flatMap_leBytes _ 4 (by rwa [List.length_range]), List.getElem_range, working, initMaster, bf16, if_neg (by decide)]
    exact Nat.mod_eq_of_lt (BitVec.isLt _)

/-- The moments and the gradient are zero (R184). -/
theorem initRec_zeros {i : Nat} (hi : i < hCount (hdrOf s r)) :
    devNat (initRec s k r) (r.addr + 0x4100 + 4 * i) 4 = 0 ∧ devNat (initRec s k r) (r.addr + 0x8100 + 4 * i) 4 = 0 ∧
      devNat (initRec s k r) (r.addr + 0xC100 + 2 * i) 2 = 0 := by
  simp only [devNat_of_dev (initRec_dev k)]
  refine ⟨?_, ?_, ?_⟩
  · refine (sealRecord_within s 0 (initWrites_fits count) direct (us := [(0x100, initPlane s r)]) (w := (0x4100, _)) rfl (by simp only; omega)
      (by simp only [List.length_replicate]; omega) ?_).trans (lat_replicate_zero ..)
    exact List.forall_mem_cons.2 ⟨Or.inl (by simp only; omega), List.forall_mem_cons.2 ⟨Or.inl (by simp only; omega),
      fun v hv => absurd hv List.not_mem_nil⟩⟩
  · refine (sealRecord_within s 0 (initWrites_fits count) direct (us := [(0x100, initPlane s r), (0x4100, _)]) (w := (0x8100, _)) rfl
      (by simp only; omega) (by simp only [List.length_replicate]; omega) ?_).trans (lat_replicate_zero ..)
    exact List.forall_mem_cons.2 ⟨Or.inl (by simp only; omega), fun v hv => absurd hv List.not_mem_nil⟩
  · refine (sealRecord_within s 0 (initWrites_fits count) direct (us := [(0x100, initPlane s r), (0x4100, _), (0x8100, _)]) (w := (0xC100, _)) rfl
      (by simp only; omega) (by simp only [List.length_take, List.length_replicate]; omega) (fun v hv => absurd hv List.not_mem_nil)).trans ?_
    simp only [List.take_replicate]
    exact lat_replicate_zero ..

end

/-- A header that passes its checks counts at most 4096 parameters (R169). -/
theorem hCount_le_of_headerCheck {h : List Byte} {tensor shard : Nat} {same : Bool} (pass : headerCheck h tensor shard same = none) :
    hCount h ≤ 4096 := by
  unfold headerCheck at pass
  dsimp only at pass
  split at pass
  · exact absurd pass (by simp)
  · split at pass
    · exact absurd pass (by simp)
    · split at pass
      · exact absurd pass (by simp)
      · split at pass
        · exact absurd pass (by simp)
        · next c4 => exact (not_not.1 c4).2.2.2.1

/-- INIT of one record whose header passes, of BF16 working values (R184). -/
theorem initRun_one {s : State} {c : Nat} {r : Rec} (quiet : s.mem.upsets = []) (cleanHdr : poisonedAt s r.addr 256 = none)
    (cleanWork : poisonedAt s (0xE100 + r.addr) (2 * hCount (hdrOf s r)) = none)
    (pass : headerCheck (hdrOf s r) r.tensor r.shard (sameGfmt s (ctxOf s c).man (hGfmt (hdrOf s r))) = none)
    (bf16 : hWfmt (hdrOf s r) = 1) (k : Nat) (x : TrwCmd) :
    initRun s c k x [r] = endOn (didOne (initRec (startRec s k r.idx) k r) c x) c k x := by
  have wide : ¬ hWfmt (hdrOf s r) = 4 := by rw [bf16]; decide
  rw [initRun, recMeet_quiet quiet]
  dsimp only
  rw [cleanHdr]
  dsimp only
  rw [if_neg wide, recMeet_quiet quiet, pass]
  dsimp only
  rw [cleanWork]
  rfl

theorem initEffect_run {s : State} {k c : Nat} {x : TrwCmd} (head : headCmd s k 8 = some (c, x)) :
    initEffect k s = initRun s c k x (recsIn (ctxOf s c).man k) := by
  rw [initEffect, head]

end Sys2Proof.Proofs
end

section
/-! REPLAY and IMPORT (R185, R188, R196): the sequence that a command names, and what a trowel makes of its records. -/

namespace Sys2Proof.Proofs

open Sys2Proof Sys2Proof.Machine Sys2Proof.Laws

/-! ### Decoded bytes -/

theorem expandBits_length_le (m : Nat) (bits : List Bool) (data : List Byte) : (expandBits m bits data).length ≤ m * bits.length := by
  induction bits generalizing data with
  | nil => exact Nat.zero_le _
  | cons b bits ih =>
    cases b with
    | true =>
      have rest := ih (data.drop m)
      simp only [expandBits, List.length_append, List.length_take, List.length_cons, Nat.mul_succ]
      omega
    | false =>
      have rest := ih data
      simp only [expandBits, List.length_append, List.length_replicate, List.length_cons, Nat.mul_succ]
      omega

/-- Granules of the size of a mode, of an even number of bytes where the size is 2. -/
theorem granules_le {mode d : Nat} (even : ¬ (mode = 2 ∧ d % 2 = 1)) :
    (if mode = 2 then 2 else 1) * (if mode = 1 ∨ mode = 2 then cdiv d (if mode = 2 then 2 else 1) else 0) ≤ d := by
  unfold cdiv
  split
  · next two =>
    subst two
    simp only [or_true, if_true]
    omega
  · split
    · simp
    · simp

/-- A unit decodes to no more bytes than the stream holds of it (R118, R121). -/
theorem groutDecodeUnit_length_le {get : Nat → Byte} {want u : Nat} {bs : List Byte} (decoded : groutDecodeUnit get want = .ok bs u) :
    bs.length ≤ want := by
  unfold groutDecodeUnit at decoded
  extract_lets rd mode d z len m nb gs bm bitAt granules rest at decoded
  split at decoded
  · exact absurd decoded (by simp)
  · split at decoded
    · exact absurd decoded (by simp)
    · next size =>
      rw [← not_not.1 size]
      split at decoded
      · exact absurd decoded (by simp)
      · next flags =>
        split at decoded
        · exact absurd decoded (by simp)
        · split at decoded
          · injection decoded with same
            rw [← same]
            simp [rd]
          · split at decoded
            · injection decoded with same
              rw [← same, List.length_replicate]
            · injection decoded with same
              rw [← same]
              refine (expandBits_length_le ..).trans ?_
              simp only [granules, List.length_map, List.length_range]
              exact granules_le fun odd => flags (Or.inr (Or.inr odd))

theorem groutDecodeFrom_length_le (get : Nat → Byte) (t limit fuel n o : Nat) (acc : List Byte) :
    (groutDecodeFrom get t limit fuel n o acc).1.1.length ≤ acc.length + fuel * 4096 := by
  induction fuel generalizing n o acc with
  | zero => simp [groutDecodeFrom]
  | succ fuel ih =>
    rw [groutDecodeFrom]
    split
    · exact Nat.le_add_right _ _
    · next bs u decoded =>
      have short : bs.length ≤ 4096 := (groutDecodeUnit_length_le decoded).trans (Nat.min_le_left _ _)
      split
      · exact Nat.le_add_right _ _
      · refine (ih (n + 1) (o + u) (acc ++ bs)).trans ?_
        rw [List.length_append]
        omega

/-- A gradient plane decodes to at most its 8192 bytes (R118). -/
theorem gradient_length_le (get : Nat → Byte) (limit : Nat) : (groutDecode get 8192 limit).1.1.length ≤ 8192 :=
  (groutDecodeFrom_length_le ..).trans (by decide)

/-! ### The source of a command -/

theorem srcMeet_quiet {s : State} (quiet : s.mem.upsets = []) (c : Nat) (x : TrwCmd) (n : Nat) : srcMeet s c x n = s := by
  unfold srcMeet
  rw [meetRanges_quiet quiet, ite_self]

section

variable {s : State} {c k opn shard close : Nat} {x : TrwCmd} {f : State → List Byte → List (List Byte) → State}

theorem withSequence_missing (missing : srcReady x = false) : withSequence s c k x opn shard close f = fwAskSource (beginOn s c k x) c x :=
  if_pos (by rw [missing]; decide)

/-- A sequence that is not complete fails the command with result 3 (R185, R196). -/
theorem withSequence_incomplete (quiet : s.mem.upsets = []) (ready : srcReady x = true) (incomplete : (seqParse s x opn shard close).1 = none)
    (clean : srcPoison s x (seqParse s x opn shard close).2 = none) : withSequence s c k x opn shard close f = failAll s c 3 x := by
  rw [withSequence, if_neg (not_not.2 ready)]
  dsimp only
  rw [srcMeet_quiet quiet, clean, incomplete]

theorem withSequence_complete {rs : List (Nat × Nat)} (quiet : s.mem.upsets = []) (ready : srcReady x = true)
    (complete : (seqParse s x opn shard close).1 = some rs) (clean : srcPoison s x (seqParse s x opn shard close).2 = none) :
    withSequence s c k x opn shard close f = f (noteUnheld s c x (rs.tail.map (seqRec (seqSource s x).1)))
      (seqRec (seqSource s x).1 (rs.headD (0, 0))) (rs.tail.map (seqRec (seqSource s x).1)) := by
  rw [withSequence, if_neg (not_not.2 ready)]
  dsimp only
  rw [srcMeet_quiet quiet, clean, complete]

end

/-- A command that fails without a stack is over on every trowel (R185). -/
theorem failAll_cmd {s : State} {c : Nat} {x : TrwCmd} (queued : x ∈ cmdsOf s c) (code : Nat) :
    ∃ y ∈ cmdsOf (failAll s c code x) c, y.id = x.id ∧ y.todo = [] ∧ y.fails = [(0xFF, 0, code)] :=
  ⟨_, mem_updCmd queued rfl _, rfl, rfl, rfl⟩

/-- The firmware asks the peer for the source, and the command waits (R188). -/
theorem replayEffect_eq {s : State} {k c : Nat} {x : TrwCmd} (head : headCmd s k 3 = some (c, x)) :
    replayEffect k s = withSequence s c k x 1 2 3 fun s opn recs =>
      if (scalarCause25 (opn.drop 32) (recGroups s (ctxOf s c).man) (bf16Grads s (ctxOf s c).man) false).isSome then failAll s c 7 x
      else if bit (lat opn 1 1) 0 then endOn s c k x
      else replayRun s c k x (opn.drop 32) (lat opn 8 4) recs := by
  rw [replayEffect, head]

theorem importEffect_eq {s : State} {k c : Nat} {x : TrwCmd} (head : headCmd s k 5 = some (c, x)) :
    importEffect k s = withSequence s c k x 0x11 0x12 0x13 fun s _ recs => importRun s c k x recs recs := by
  rw [importEffect, head]

/-! ### Records that the job holds -/

theorem named_some {m : Manifest} {k : Nat} {b : List Byte} {r : Rec} (names : named m k b = some r) :
    r ∈ recsOf m ∧ r.tensor = lat b 0x10 4 ∧ r.shard = lat b 0x14 4 :=
  ⟨(List.mem_filter.1 (List.mem_of_find?_eq_some names)).1, by simpa using List.find?_some names⟩

/-- A record that a placement of the job holds is not noted as unheld. -/
theorem noteUnheld_named {s : State} {c k : Nat} {b : List Byte} {r : Rec} (names : named (ctxOf s c).man k b = some r) (x : TrwCmd) :
    noteUnheld s c x [b] = s := by
  obtain ⟨holds, tensor, shard⟩ := named_some names
  have held : ([b].any fun b => (recsOf (ctxOf s c).man).all fun r => decide (r.tensor ≠ lat b 0x10 4 ∨ r.shard ≠ lat b 0x14 4)) = false := by
    simp only [List.any_cons, List.any_nil, Bool.or_false]
    refine List.all_eq_false.2 ⟨r, holds, ?_⟩
    simp [tensor, shard]
  unfold noteUnheld
  dsimp only
  rw [held, if_neg Bool.false_ne_true]

/-- Noting unheld records changes no more of a command than its failures (R185). -/
theorem mem_noteUnheld {s : State} {c : Nat} {x : TrwCmd} (queued : x ∈ cmdsOf s c) (rs : List (List Byte)) :
    ∃ y ∈ cmdsOf (noteUnheld s c x rs) c, y.id = x.id ∧ y.host = x.host ∧ y.done = x.done := by
  unfold noteUnheld
  dsimp only
  split
  · exact ⟨_, mem_updCmd queued rfl _, rfl, rfl, rfl⟩
  · exact ⟨x, queued, rfl, rfl, rfl⟩

theorem noteUnheld_man (s : State) (c : Nat) (x : TrwCmd) (rs : List (List Byte)) : (ctxOf (noteUnheld s c x rs) c).man = (ctxOf s c).man := by
  unfold noteUnheld
  dsimp only
  split
  · rw [ctxOf_updCmd]
  · rfl

end Sys2Proof.Proofs
end

section
/-! What DIGEST, INIT, REPLAY and IMPORT do on a trowel that holds one record (R179, R184, R185, R188, R196). -/

namespace Sys2Proof.Proofs

open Sys2Proof Sys2Proof.Machine Sys2Proof.Laws

/-- What becomes of a command changes no memory. -/
theorem judged_mem {s : State} {c k idx : Nat} {x : TrwCmd} {good : Prop} [Decidable good] :
    (if good then endOn (didOne s c x) c k x else failOn s c k idx 5 x).mem = s.mem := by
  split
  · rfl
  · rfl

/-! ### REPLAY of one record -/

/-- A record with the replayed gradient, swept (R196). -/
def replayed (s : State) (k : Nat) (r : Rec) (plane blk : List Byte) (step : Nat) : State :=
  applySweep (recWrite (startRec s k r.idx) r 0xC100 plane) k r blk step

section

variable {s : State} {r : Rec} {plane : List Byte} (direct : Direct r) (short : plane.length ≤ 8192) (k : Nat)

include short

theorem planeWrite_fits : FitsRecord (0xC100, plane) := by
  simp only [FitsRecord]
  omega

include direct

/-- A gradient plane that is written leaves the record's header. -/
theorem hdrOf_planeWrite : hdrOf (recWrite (startRec s k r.idx) r 0xC100 plane) r = hdrOf s r :=
  devRead_recWrite_apart direct (w := (0xC100, plane)) (o := 0) (planeWrite_fits short) (by decide) (Or.inl (by simp only; omega)) (startRec s k r.idx)

omit direct in
theorem replayed_off {blk : List Byte} {step : Nat} (count : hCount (hdrOf (recWrite (startRec s k r.idx) r 0xC100 plane) r) ≤ 4096) {a : Nat}
    (off : OffRecord r a) : devGet (replayed s k r plane blk step) a = devGet s a := by
  rw [replayed, applySweep_off count k off]
  exact devGet_recWrite_off (w := (0xC100, plane)) (planeWrite_fits short) off (startRec s k r.idx)

omit direct short in
theorem queued_replayed {c : Nat} {x : TrwCmd} (queued : x ∈ cmdsOf s c) (blk : List Byte) (step : Nat) :
    x ∈ cmdsOf (replayed s k r plane blk step) c := by
  have wrote : (recWrite (startRec s k r.idx) r 0xC100 plane).job = (startRec s k r.idx).job :=
    (recWrite_kept (List.Subset.refl _) (Kept.refl _ _)).frame .job (by decide)
  rwa [replayed, cmdsOf_of_job ((applySweep_job ..).trans (wrote.trans (startRec_job ..)))]

end

/-- REPLAY of the one SHARD_GRAD record of a trowel: its gradient is swept in, and the digest judged (R196). -/
theorem replayRun_one {s : State} {c k : Nat} {x : TrwCmd} {blk b : List Byte} {step : Nat} {r : Rec} (quiet : s.mem.upsets = [])
    (names : named (ctxOf s c).man k b = some r) (decodes : (groutDecode (fun i => b.getD (32 + i) 0) 8192 (b.length - 32)).2 = none)
    (length : b.length = roundUp (32 + (groutDecode (fun i => b.getD (32 + i) 0) 8192 (b.length - 32)).1.2) 64)
    (clean : recPoison s r (sweepReads (hdrOf s r) blk false) = none) (later : hLast (hdrOf s r) < step) (direct : Direct r) :
    ∃ plane : List Byte, plane.length ≤ 8192 ∧ replayRun s c k x blk step [b] =
      if devNat (replayed s k r plane blk step) (r.addr + 0x50) 8 = lat b 0x18 8 then
        endOn (didOne (replayed s k r plane blk step) c x) c k x
      else failOn (replayed s k r plane blk step) c k r.idx 5 x := by
  have short := gradient_length_le (fun i => b.getD (32 + i) 0) (b.length - 32)
  rcases out : groutDecode (fun i => b.getD (32 + i) 0) 8192 (b.length - 32) with ⟨⟨plane, used⟩, fault⟩
  rw [out] at decodes length short
  simp only at decodes length short
  subst decodes
  have notLate : ¬ step ≤ hLast (hdrOf (recWrite (startRec s k r.idx) r 0xC100 plane) r) := by
    rw [hdrOf_planeWrite direct short]
    exact Nat.not_le.2 later
  refine ⟨plane, short, ?_⟩
  rw [replayRun, names]
  dsimp only
  rw [out]
  dsimp only
  rw [recMeet_quiet quiet, clean]
  dsimp only
  rw [if_neg (not_not.2 length), if_neg notLate]
  rfl

/-! ### IMPORT of one record -/

/-- What an IMPORT writes of a record: header, master and moments, and the working copy (R192, R196). -/
def importWrites (b h : List Byte) : List (Nat × List Byte) :=
  [(0, (b.drop 32).take 0xC100), (0xE100, (b.drop (32 + 0xC100)).take (workBytes h))]

/-- A record written from a base image, with its NaN values counted (R178, R196). -/
def imported (s : State) (k : Nat) (r : Rec) (b h : List Byte) : State :=
  countWritten (recWrites (startRec s k r.idx) r (importWrites b h)) k (nansIn ((b.drop (32 + 0x100)).take 16384)) 0 0

theorem workBytes_le (h : List Byte) : workBytes h ≤ 8192 := by
  unfold workBytes
  split
  · decide
  · decide

theorem importWrites_fits (b h : List Byte) : ∀ w ∈ importWrites b h, FitsRecord w := by
  have work := workBytes_le h
  intro w hw
  simp only [importWrites, List.mem_cons, List.not_mem_nil, or_false] at hw
  rcases hw with rfl | rfl
  · simp only [FitsRecord, List.length_take]; omega
  · simp only [FitsRecord, List.length_take]; omega

theorem imported_kept {C : List Part} {z s : State} {k : Nat} {r : Rec} {b h : List Byte} (hC : ([.dev, .mem, .trw, .tel] : List Part) ⊆ C)
    (kept : Kept C z s) : Kept C z (imported s k r b h) :=
  countWritten_kept (Part.subs hC (by decide)) (recWrites_kept (Part.subs hC (by decide)) (startRec_kept (Part.subs hC (by decide)) kept))

section

variable {s : State} {r : Rec} {b h : List Byte} (direct : Direct r) (length : b.length = roundUp (32 + 0xC100 + workBytes h) 64) (k : Nat)

theorem imported_dev : (imported s k r b h).mem.dev = (recWrites (startRec s k r.idx) r (importWrites b h)).mem.dev := by
  rw [imported, countWritten_mem]

include length in
theorem length_of_shard : 32 + 0xC100 + workBytes h ≤ b.length := by
  rw [length, roundUp, cdiv]
  omega

include direct length

/-- Header, master and moments are those of the image (R196). -/
theorem imported_head : devRead (imported s k r b h) r.addr 0xC100 = (b.drop 32).take 0xC100 := by
  have whole := length_of_shard length
  have head : devRead (recWrites (startRec s k r.idx) r (importWrites b h)) (r.addr + 0 + 0) 0xC100 = (((b.drop 32).take 0xC100).drop 0).take 0xC100 :=
    devRead_recWrites_within direct (w := (0, (b.drop 32).take 0xC100)) (importWrites_fits b h)
      (by simp only [List.length_take, List.length_drop]; omega)
      (List.forall_mem_cons.2 ⟨Or.inl (by simp only; omega), fun v hv => absurd hv List.not_mem_nil⟩) [] (startRec s k r.idx)
  rw [devRead_of_dev (imported_dev k)]
  rwa [List.drop_zero, List.take_take, Nat.min_self] at head

/-- The working copy is that of the image (R196). -/
theorem imported_work : devRead (imported s k r b h) (r.addr + 0xE100) (workBytes h) = (b.drop (32 + 0xC100)).take (workBytes h) := by
  have whole := length_of_shard length
  have work : devRead (recWrites (startRec s k r.idx) r (importWrites b h)) (r.addr + 0xE100 + 0) (workBytes h) =
      (((b.drop (32 + 0xC100)).take (workBytes h)).drop 0).take (workBytes h) :=
    devRead_recWrites_within direct (w := (0xE100, (b.drop (32 + 0xC100)).take (workBytes h)))
      (fun v hv => importWrites_fits b h v (List.mem_cons_of_mem _ hv)) (by simp only [List.length_take, List.length_drop]; omega)
      (fun v hv => absurd hv List.not_mem_nil) [(0, (b.drop 32).take 0xC100)] (startRec s k r.idx)
  rw [devRead_of_dev (imported_dev k)]
  rwa [List.drop_zero, List.take_take, Nat.min_self] at work

end

/-- IMPORT of the one BASE_SHARD record of a trowel whose header passes: it is written and its digest judged (R196). -/
theorem importRun_one {s : State} {c k : Nat} {x : TrwCmd} {b h : List Byte} {r : Rec} {all : List (List Byte)} (names : named (ctxOf s c).man k b = some r)
    (header : h = (b.drop 32).take 256) (length : b.length = roundUp (32 + 0xC100 + workBytes h) 64)
    (pass : headerCheck h r.tensor r.shard (importGfmt s (ctxOf s c).man all (hGfmt h)) = none) :
    importRun s c k x all [b] = if recDigest ((b.drop (32 + 0x100)).take 16384) = lat h 0x50 8 then endOn (didOne (imported s k r b h) c x) c k x
      else failOn (imported s k r b h) c k r.idx 5 x := by
  subst header
  rw [importRun]
  dsimp only
  rw [names]
  dsimp only
  rw [if_neg (not_not.2 length), pass]
  rfl

/-- An image without a record of this trowel ends the command here (R196). -/
theorem importRun_unnamed {s : State} {c k : Nat} {x : TrwCmd} {all recs : List (List Byte)}
    (unnamed : ∀ b ∈ recs, named (ctxOf s c).man k b = none) : importRun s c k x all recs = endOn s c k x := by
  induction recs with
  | nil => rfl
  | cons b recs ih =>
    rw [importRun]
    dsimp only
    rw [unnamed b List.mem_cons_self]
    exact ih fun v hv => unnamed v (List.mem_cons_of_mem _ hv)

/-! ### A source in a peer -/

theorem firmwareTagFree_beginOn (s : State) (c k : Nat) (x : TrwCmd) : firmwareTagFree (beginOn s c k x) = firmwareTagFree s := by
  have same : ∀ d, (ctxOf (beginOn s c k x) d).state = (ctxOf s d).state ∧ (ctxOf (beginOn s c k x) d).man = (ctxOf s d).man := fun d => by
    rw [beginOn, updCmd, ctxOf_updTrn]
    split
    · next own => rw [own]; exact ⟨rfl, rfl⟩
    · exact ⟨rfl, rfl⟩
  have loaded : loadedCtxs (beginOn s c k x) = loadedCtxs s := by
    unfold loadedCtxs JobCtx.loaded
    simp only [(same _).1]
  unfold firmwareTagFree
  simp only [loaded, (same _).2]
  rfl

/-- Firmware asks the peer for the first piece of the source, and the command waits (R188). -/
theorem fwAskSource_beginOn {s : State} {c k : Nat} {x : TrwCmd} (missing : srcReady x = false) (idle : fwReadOf s c 3 x.id = none)
    (tag : firmwareTagFree s = true) : (fwAskSource (beginOn s c k x) c x).fab.tags = s.fab.tags ++ [(freeTag s, 8)] ∧
    (ctxOf (fwAskSource (beginOn s c k x) c x) c).fab.reads = (ctxOf s c).fab.reads ++ [⟨freeTag s, toPhys s (fld (x.w.getD 0 0) 23 9), 3, x.id, 0,
      List.replicate (min 4096 (cmdLen x - x.src.length)) 0, false⟩] := by
  have short : x.src.length < cmdLen x := by
    simp only [srcReady, Bool.or_eq_false_iff, decide_eq_false_iff_not] at missing
    omega
  have fab : (ctxOf (beginOn s c k x) c).fab = (ctxOf s c).fab := by rw [ctxOf_beginOn]
  have idle : fwReadOf (beginOn s c k x) c 3 x.id = none := by rwa [fwReadOf, fab]
  rw [fwAskSource_free short idle ((firmwareTagFree_beginOn ..).trans tag)]
  obtain ⟨tags, reads⟩ := fwAsk_asks (beginOn s c k x) c (toPhys s (fld (x.w.getD 0 0) 23 9)) (cmdAddr x + x.src.length)
    (min 4096 (cmdLen x - x.src.length)) 3 x.id
  rw [fab] at reads
  exact ⟨tags, reads⟩

/-! ### The obligation -/

/-- Settles O47: each host command on one record, its failures, and a source that firmware must first read from a peer. -/
theorem hostTrowelCommands : Obligations.HostTrowelCommands := by
  unfold Obligations.HostTrowelCommands
  refine ⟨fun s k c x r quiet head host one clean => ?_,
    fun s k c x r quiet head host one cleanHdr cleanWork pass direct bf16 => ?_,
    fun s k c x head quiet ready incomplete clean => ?_,
    fun s k c x rs opn b r head host quiet ready complete cleanSrc hopn one scalars unskipped names decodes length clean later count direct => ?_,
    fun s k c x head quiet ready incomplete clean => ?_,
    fun s k c x rs head host quiet ready complete clean unnamed => ?_,
    fun s k c x rs b h r head host quiet ready complete clean one names header length pass direct => ?_,
    fun s k op c x hop head missing idle tag => ?_⟩
  · obtain ⟨queued, -, -⟩ := headCmd_some head
    have effect := digestEffect_run head
    rw [one, digestRun_one quiet clean k.val x] at effect
    have judged := exists_judged (k := k.val) (idx := r.idx) (queued_startRec queued k.val r.idx) host
      (recDigest (devRead s (0x100 + r.addr) 16384) = devNat s (r.addr + 0x50) 8)
    exact ⟨_, congrArg Host.Outcome.next effect, judged,
      (judged_kept (by decide) (startRec_kept (by decide) (Kept.refl [.job, .trw] s))).frame⟩
  · obtain ⟨queued, -, -⟩ := headCmd_some head
    have effect := initEffect_run head
    rw [one, initRun_one quiet cleanHdr cleanWork pass bf16 k.val x] at effect
    have count : hCount (hdrOf (startRec s k.val r.idx) r) ≤ 4096 := hCount_le_of_headerCheck pass
    have job : (initRec (startRec s k.val r.idx) k.val r).job = (startRec s k.val r.idx).job :=
      (initRec_kept (List.Subset.refl _) (Kept.refl _ _)).frame .job (by decide)
    have stays : x ∈ cmdsOf (initRec (startRec s k.val r.idx) k.val r) c := by
      rw [cmdsOf_of_job job]
      exact queued_startRec queued k.val r.idx
    obtain ⟨y, left, own, ended, done, -⟩ := exists_done (k := k.val) stays host
    have kept : Kept [.dev, .mem, .job, .trw, .tel] s (endOn (didOne (initRec (startRec s k.val r.idx) k.val r) c x) c k.val x) :=
      endOn_kept (by decide) (didOne_kept (by decide) (initRec_kept (by decide) (startRec_kept (by decide) (Kept.refl _ s))))
    have dev : (endOn (didOne (initRec (startRec s k.val r.idx) k.val r) c x) c k.val x).mem.dev =
        (initRec (startRec s k.val r.idx) k.val r).mem.dev := rfl
    refine ⟨_, congrArg Host.Outcome.next effect, fun i hi => ?_, ?_, ?_, fun a off => ?_, ⟨y, left, own, ended, done⟩, kept.frame⟩
    · simp only [devNat_of_dev dev]
      exact ⟨initRec_master direct count k.val bf16 hi, initRec_zeros direct count k.val hi⟩
    · rw [devNat_of_dev dev, initRec_step direct k.val]
    · rw [devNat_of_dev dev, devRead_of_dev dev, initRec_digest direct k.val]
    · rw [devGet_of_dev dev, initRec_off count k.val off]
      rfl
  · obtain ⟨queued, -, -⟩ := headCmd_some head
    exact ⟨_, congrArg Host.Outcome.next ((replayEffect_eq head).trans (withSequence_incomplete quiet ready incomplete clean)), failAll_cmd queued 3,
      (failAll_kept (List.Subset.refl _) (Kept.refl _ s)).frame⟩
  · obtain ⟨queued, -, -⟩ := headCmd_some head
    subst hopn
    obtain ⟨plane, short, run⟩ := replayRun_one (x := x) quiet names decodes length clean later direct
    have effect := (replayEffect_eq head).trans (withSequence_complete quiet ready complete cleanSrc)
    rw [one, noteUnheld_named names, if_neg (by rw [scalars]; decide), if_neg (by rw [unskipped]; decide), run] at effect
    have hdr := hdrOf_planeWrite (s := s) direct short k.val
    refine ⟨_, congrArg Host.Outcome.next effect, ?_, ?_, ?_, fun a off => ?_⟩
    · rw [devNat_of_dev (congrArg MemSt.dev judged_mem), replayed, applySweep_step direct k.val]
      exact Nat.mod_eq_of_lt (lat_lt _ 8 4)
    · rw [devNat_of_dev (congrArg MemSt.dev judged_mem), devRead_of_dev (congrArg MemSt.dev judged_mem), replayed, applySweep_digest direct k.val]
    · rw [devNat_of_dev (congrArg MemSt.dev judged_mem)]
      exact exists_judged (queued_replayed k.val queued _ _) host _
    · rw [devGet_of_dev (congrArg MemSt.dev judged_mem), replayed_off short k.val (by rw [hdr]; exact count) off]
  · obtain ⟨queued, -, -⟩ := headCmd_some head
    exact ⟨_, congrArg Host.Outcome.next ((importEffect_eq head).trans (withSequence_incomplete quiet ready incomplete clean)), failAll_cmd queued 3,
      (failAll_kept (List.Subset.refl _) (Kept.refl _ s)).frame⟩
  · obtain ⟨queued, -, -⟩ := headCmd_some head
    have effect := (importEffect_eq head).trans (withSequence_complete quiet ready complete clean)
    rw [importRun_unnamed (by rw [noteUnheld_man]; exact unnamed)] at effect
    obtain ⟨y, noted, own, byHost, done⟩ := mem_noteUnheld queued (rs.tail.map (seqRec (seqSource s x).1))
    exact ⟨_, congrArg Host.Outcome.next effect, ⟨_, mem_endOn noted own (Or.inr (byHost.trans host)), own, not_mem_filter_ne k.val _, done⟩,
      (endOn_kept (List.Subset.refl _) (noteUnheld_kept (List.Subset.refl _) (Kept.refl _ s))).frame⟩
  · obtain ⟨queued, -, -⟩ := headCmd_some head
    have effect := (importEffect_eq head).trans (withSequence_complete quiet ready complete clean)
    rw [one, noteUnheld_named names, importRun_one names header length pass] at effect
    have job : (imported s k.val r b h).job = s.job := (imported_kept (List.Subset.refl _) (Kept.refl _ s)).frame .job (by decide)
    have stays : x ∈ cmdsOf (imported s k.val r b h) c := by rwa [cmdsOf_of_job job]
    obtain ⟨y, left, own, ended, good, -⟩ := exists_judged (k := k.val) (idx := r.idx) stays host
      (recDigest ((b.drop (32 + 0x100)).take 16384) = lat h 0x50 8)
    refine ⟨_, congrArg Host.Outcome.next effect, ?_, ?_, ⟨y, left, own, ended, good⟩,
      (judged_kept (by decide) (imported_kept (by decide) (Kept.refl [.dev, .mem, .job, .trw, .tel] s))).frame⟩
    · rw [devRead_of_dev (congrArg MemSt.dev judged_mem), imported_head direct length k.val]
    · rw [devRead_of_dev (congrArg MemSt.dev judged_mem), imported_work direct length k.val]
  · have effect : exec (if op = 3 then .replay k () else .importBase k ()) s = .next (fwAskSource (beginOn s c k.val x) c x) := by
      rcases hop with rfl | rfl
      · exact congrArg Host.Outcome.next ((replayEffect_eq head).trans (withSequence_missing missing))
      · exact congrArg Host.Outcome.next ((importEffect_eq head).trans (withSequence_missing missing))
    obtain ⟨tags, reads⟩ := fwAskSource_beginOn (k := k.val) missing idle tag
    exact ⟨_, effect, tags, reads, (fwAskSource_kept (by decide) (beginOn_kept (by decide) (Kept.refl [.out, .job, .fab, .tel] s))).frame⟩

end Sys2Proof.Proofs
end

section
/-! Routes (R202, R203, R211, R212): the direction that dimension order gives a packet, the link of that direction that it
takes, and that each such hop shortens the way that is left by one. -/

namespace Sys2Proof.Proofs

open Sys2Proof Sys2Proof.Machine Sys2Proof.Laws

/-! ### The direction of dimension order -/

/-- The direction along one axis towards a destination (R211): the shorter way round a ring, by the parity of the part's own
coordinate where both ways are as long (log 12). -/
def axisDir (s : State) (dst a : Nat) : Nat :=
  let e := extent s a
  let x := coordAx (ownCoord s) a
  let k := (coordAx dst a + e - x % e) % e
  if wrapOn s a then (if k < e - k then 0 else if k > e - k then 1 else if x % 2 = 0 then 0 else 1)
  else if x < coordAx dst a then 0 else 1

theorem routeDir_eq_some_iff {s : State} {dst a d : Nat} :
    routeDir s dst = some (a, d) ↔ (a < 3 ∧ coordAx dst a ≠ coordAx (ownCoord s) a ∧
      ∀ b < a, coordAx dst b = coordAx (ownCoord s) b) ∧ axisDir s dst a = d := by
  have turn : routeDir s dst = ((List.range 3).find? fun a => coordAx dst a ≠ coordAx (ownCoord s) a).map fun a => (a, axisDir s dst a) := by
    unfold routeDir axisDir
    congr 1
    funext a
    dsimp only
    split <;> rfl
  rw [turn, Option.map_eq_some_iff]
  constructor
  · rintro ⟨b, first, pair⟩
    obtain ⟨rfl, rfl⟩ := Prod.mk.inj pair
    obtain ⟨differs, axis, before⟩ := List.find?_range_eq_some.1 first
    exact ⟨⟨List.mem_range.1 axis, of_decide_eq_true differs, fun c hc => by simpa using before c hc⟩, rfl⟩
  · rintro ⟨⟨axis, differs, before⟩, rfl⟩
    exact ⟨a, List.find?_range_eq_some.2 ⟨decide_eq_true differs, List.mem_range.2 axis, fun c hc => by simpa using before c hc⟩, rfl⟩

theorem routeDir_own (s : State) : routeDir s (ownCoord s) = none := by
  simp [routeDir]

/-- On a ring the direction is that of the fewer hops (R211). -/
theorem axisDir_wrap {s : State} {a : Nat} (wrap : wrapOn s a = true) (dst : Nat) {k e : Nat} (he : e = extent s a)
    (hk : k = (coordAx dst a + e - coordAx (ownCoord s) a % e) % e) :
    axisDir s dst a = if k < e - k then 0 else if e - k < k then 1 else coordAx (ownCoord s) a % 2 := by
  subst he hk
  simp only [axisDir, wrap, if_true]
  split
  · rfl
  · split
    · rfl
    · split <;> omega

theorem axisDir_line {s : State} {a : Nat} (line : wrapOn s a = false) (dst : Nat) :
    axisDir s dst a = if coordAx (ownCoord s) a < coordAx dst a then 0 else 1 := by
  simp [axisDir, line]

theorem axisDir_lt (s : State) (dst a : Nat) : axisDir s dst a < 2 := by
  unfold axisDir
  dsimp only
  repeat' split
  all_goals decide

/-- Settles O25: routeDir is the first axis that differs, with the direction of that axis. -/
theorem dimensionOrder : Obligations.DimensionOrder := by
  unfold Obligations.DimensionOrder
  refine ⟨routeDir_own, fun s dst a d route => ?_⟩
  obtain ⟨⟨axis, differs, before⟩, rfl⟩ := routeDir_eq_some_iff.1 route
  refine ⟨axis, differs, before, fun wrap k e he hk => ?_, fun line => ?_⟩
  · rw [axisDir_wrap wrap dst he hk]
    exact ⟨fun h => if_pos h, fun h => by rw [if_neg (by omega), if_pos h], fun h => by rw [if_neg (by omega), if_neg (by omega)]⟩
  · rw [axisDir_line line]
    exact ⟨fun h => if_pos h, fun h => if_neg (by omega)⟩

/-! ### The link of a direction -/

/-- Settles O26: pickPort compares the two links of the direction where both can carry a packet, and takes the one that can
otherwise. -/
theorem linkOfADirection : Obligations.LinkOfADirection := by
  unfold Obligations.LinkOfADirection
  intro s a d vc
  have ports : 4 * a + 2 * d = a * 4 + d * 2 := by omega
  rw [ports]
  refine ⟨fun ha hb more => ?_, fun ha hb most => ?_, fun ha hb => ?_, fun ha hb => ?_, fun ha hb => ?_⟩
  · simp [pickPort, ha, hb, more]
  · simp [pickPort, ha, hb, Nat.not_lt.2 most]
  all_goals simp [pickPort, ha, hb]

/-! ### Coordinates after a hop -/

theorem coordAx_lt (p a : Nat) : coordAx p a < 32 := by
  unfold coordAx
  split
  · omega
  · split <;> omega

theorem coordAx_packC {x y z : Nat} (hx : x < 32) (hy : y < 32) (hz : z < 32) :
    coordAx (packC x y z) 0 = x ∧ coordAx (packC x y z) 1 = y ∧ coordAx (packC x y z) 2 = z := by
  simp only [coordAx, packC]
  simp
  omega

/-- A coordinate of a place of which one coordinate was replaced. -/
theorem coordAx_setAx {p a v b : Nat} (hv : v < 32) (hb : b < 3) :
    coordAx (setAx p a v) b = if b = a then v else coordAx p b := by
  have lt : ∀ c, (if a = c then v else coordAx p c) < 32 := fun c => by
    split
    · exact hv
    · exact coordAx_lt p c
  obtain ⟨c0, c1, c2⟩ := coordAx_packC (lt 0) (lt 1) (lt 2)
  unfold setAx
  interval_cases b
  · rw [c0]; simp only [eq_comm]
  · rw [c1]; simp only [eq_comm]
  · rw [c2]; simp only [eq_comm]

theorem coordAx_lt_extent {s : State} {p a : Nat} (inside : inSystem s p = true) (ha : a < 3) : coordAx p a < extent s a :=
  of_decide_eq_true (List.all_eq_true.1 inside a (List.mem_range.2 ha))

theorem extent_le (s : State) (a : Nat) : extent s a ≤ 32 := coordAx_lt _ a

/-- The next coordinate along an axis of extent e: upward in direction 0, downward in direction 1, around at the ends (R203). -/
def stepTo (e x d : Nat) : Nat :=
  if d = 0 then (if x + 1 < e then x + 1 else 0) else if 0 < x then x - 1 else e - 1

theorem stepTo_lt {e x : Nat} (hx : x < e) (d : Nat) : stepTo e x d < e := by
  unfold stepTo
  repeat' split
  all_goals omega

/-- The part cabled to either port of a direction is one step along its axis (R203). -/
theorem neighbour_eq_setAx {s : State} {a d port n : Nat} (hd : d < 2) (port_eq : port = 4 * a + 2 * d ∨ port = 4 * a + 2 * d + 1)
    (cabled : neighbour s port = some n) : n = setAx (ownCoord s) a (stepTo (extent s a) (coordAx (ownCoord s) a) d) := by
  have axis : port / 4 = a := by omega
  have sign : port % 4 < 2 ↔ d = 0 := by omega
  simp only [neighbour, axis, sign] at cabled
  rw [stepTo]
  split_ifs at cabled ⊢
  all_goals exact (Option.some.inj cabled).symm

/-! ### Progress -/

/-- Hops upward from x to y around a ring of e. -/
def upHops (e x y : Nat) : Nat := (y + e - x) % e

theorem upHops_eq {e x y : Nat} (hx : x < e) (hy : y < e) : upHops e x y = if x ≤ y then y - x else y + e - x := by
  unfold upHops
  split
  · next le => rw [show y + e - x = y - x + e by omega, Nat.add_mod_right, Nat.mod_eq_of_lt (by omega)]
  · exact Nat.mod_eq_of_lt (by omega)

theorem upHops_stepTo_up {e x y : Nat} (hx : x < e) (hy : y < e) (differs : y ≠ x) : upHops e (stepTo e x 0) y + 1 = upHops e x y := by
  rw [upHops_eq (stepTo_lt hx 0) hy, upHops_eq hx hy, stepTo, if_pos rfl]
  split
  · split <;> split <;> omega
  · split <;> split <;> omega

theorem upHops_stepTo_down {e x y : Nat} (hx : x < e) (hy : y < e) :
    upHops e (stepTo e x 1) y = if upHops e x y + 1 < e then upHops e x y + 1 else 0 := by
  rw [upHops_eq (stepTo_lt hx 1) hy, upHops_eq hx hy, stepTo, if_neg one_ne_zero]
  split
  · split <;> split <;> split <;> omega
  · split <;> split <;> split <;> omega

/-- On a ring the hops left are the fewer of those upward and those of the other way round. -/
theorem axisHops_wrap {s : State} {a x y : Nat} (wrap : wrapOn s a = true) (hx : x < extent s a) (hy : y < extent s a) :
    axisHops s a x y = min (upHops (extent s a) x y) (extent s a - upHops (extent s a) x y) := by
  have down : (x + extent s a - y) % extent s a = upHops (extent s a) y x := rfl
  have up : (y + extent s a - x) % extent s a = upHops (extent s a) x y := rfl
  simp only [axisHops, wrap, if_true, up, down]
  rw [upHops_eq hx hy, upHops_eq hy hx]
  split <;> split <;> omega

/-- A step in the direction of dimension order is one hop fewer along its axis (R211). -/
theorem axisHops_stepTo {s : State} {dst a : Nat} (own : coordAx (ownCoord s) a < extent s a) (there : coordAx dst a < extent s a)
    (differs : coordAx dst a ≠ coordAx (ownCoord s) a) :
    axisHops s a (stepTo (extent s a) (coordAx (ownCoord s) a) (axisDir s dst a)) (coordAx dst a) + 1 =
      axisHops s a (coordAx (ownCoord s) a) (coordAx dst a) := by
  cases wrap : wrapOn s a with
  | false =>
    simp only [axisHops, wrap, Bool.false_eq_true, if_false, axisDir_line wrap]
    split
    · rw [stepTo, if_pos rfl, if_pos (by omega)]; omega
    · rw [stepTo, if_neg one_ne_zero, if_pos (by omega)]; omega
  | true =>
    have way : upHops (extent s a) (coordAx (ownCoord s) a) (coordAx dst a) ≠ 0 := by
      rw [upHops_eq own there]
      split <;> omega
    have around : upHops (extent s a) (coordAx (ownCoord s) a) (coordAx dst a) < extent s a := Nat.mod_lt _ (by omega)
    have turn := axisDir_wrap wrap dst rfl rfl
    rw [Nat.mod_eq_of_lt own, ← upHops] at turn
    rw [axisHops_wrap wrap (stepTo_lt own _) there, axisHops_wrap wrap own there]
    have parity : coordAx (ownCoord s) a % 2 < 2 := Nat.mod_lt _ (by decide)
    rcases (show axisDir s dst a = 0 ∨ axisDir s dst a = 1 by have := axisDir_lt s dst a; omega) with up | down
    · rw [up] at turn ⊢
      have next := upHops_stepTo_up own there differs
      have short : ¬ extent s a - upHops (extent s a) (coordAx (ownCoord s) a) (coordAx dst a) <
          upHops (extent s a) (coordAx (ownCoord s) a) (coordAx dst a) := fun long => by
        rw [if_neg (by omega), if_pos long] at turn
        exact absurd turn (by decide)
      omega
    · rw [down] at turn ⊢
      have next := upHops_stepTo_down own there
      have short : ¬ upHops (extent s a) (coordAx (ownCoord s) a) (coordAx dst a) <
          extent s a - upHops (extent s a) (coordAx (ownCoord s) a) (coordAx dst a) := fun long => by
        rw [if_pos long] at turn
        exact absurd turn (by decide)
      split at next <;> omega

/-- A change of one coordinate that takes one hop off its axis takes one hop off the route. -/
theorem hopsBetween_setAx {s : State} {p q a v : Nat} (hv : v < 32) (ha : a < 3)
    (shorter : axisHops s a v (coordAx q a) + 1 = axisHops s a (coordAx p a) (coordAx q a)) :
    hopsBetween s (setAx p a v) q + 1 = hopsBetween s p q := by
  unfold hopsBetween
  rw [coordAx_setAx hv (by decide), coordAx_setAx hv (by decide), coordAx_setAx hv (by decide)]
  interval_cases a
  · rw [if_pos rfl, if_neg (by decide), if_neg (by decide)]; omega
  · rw [if_neg (by decide), if_pos rfl, if_neg (by decide)]; omega
  · rw [if_neg (by decide), if_neg (by decide), if_pos rfl]; omega

/-- Settles O27: a hop changes one coordinate, along whose axis the way gets one hop shorter. -/
theorem routesMakeProgress : Obligations.RoutesMakeProgress := by
  unfold Obligations.RoutesMakeProgress
  intro s dst a d port n own there _ route port_eq cabled
  obtain ⟨⟨axis, differs, -⟩, rfl⟩ := routeDir_eq_some_iff.1 route
  obtain rfl := neighbour_eq_setAx (axisDir_lt s dst a) port_eq cabled
  have inside := coordAx_lt_extent own axis
  exact hopsBetween_setAx ((stepTo_lt inside _).trans_le (extent_le s a)) axis
    (axisHops_stepTo inside (coordAx_lt_extent there axis) differs)

end Sys2Proof.Proofs
end

section
/-! Packets on their way (R206, R209 to R214): what sending a packet may change of the switchback, and what PACKET_FORWARD does
with one that is delivered, sent, queued, sidestepped or discarded. -/

namespace Sys2Proof.Proofs

open Sys2Proof Sys2Proof.Machine Sys2Proof.Laws

/-! ### What traffic leaves alone -/

/-- What every single change keeps, the changes made for each element of a list keep. -/
theorem forEach_keeps {α : Type} {P : State → Prop} {f : State → α → State} (step : ∀ u a, P u → P (f u a)) {l : List α} {s : State}
    (h : P s) : P (forEach l s f) := by
  induction l generalizing s with
  | nil => exact h
  | cons a l ih => exact ih (step s a h)

/-- A port without what traffic moves: its credits, queue, buffers, turns and the time of its last TIME packet. -/
def idleLink (l : Link) : Link :=
  { l with credits := [], queue := [], inUse := [], replay := [], lastColl := false, lastReq := 0, tSent := 0 }

/-- From s to t only traffic has moved in the switchback. -/
structure Traffic (s t : State) : Prop where
  fab : t.fab = { s.fab with links := t.fab.links }
  idle : ∀ q, idleLink (linkOf t q) = idleLink (linkOf s q)

section

variable {s t u : State}

theorem Traffic.refl (s : State) : Traffic s s := ⟨rfl, fun _ => rfl⟩

theorem Traffic.trans (h : Traffic s t) (k : Traffic t u) : Traffic s u :=
  ⟨by rw [k.fab, h.fab], fun q => (k.idle q).trans (h.idle q)⟩

theorem Traffic.of_fab (h : Traffic s t) (same : u.fab = t.fab) : Traffic s u :=
  h.trans ⟨by rw [same], fun q => by rw [linkOf, same, linkOf]⟩

theorem Traffic.updLink (h : Traffic s t) {p : Nat} {f : Link → Link} (idle : ∀ l, idleLink (f l) = idleLink l) :
    Traffic s (updLink t p f) := by
  refine h.trans ⟨rfl, fun q => ?_⟩
  rw [linkOf_updLink]
  split
  · next own => rw [idle, own]
  · rfl

theorem Traffic.emit (h : Traffic s t) (m : OutMsg) : Traffic s (emit t m) := h.of_fab rfl

theorem Traffic.freeInput (h : Traffic s t) (q : QPkt) : Traffic s (freeInput t q) := by
  unfold Machine.freeInput
  split
  · refine Traffic.emit ?_ _
    exact h.updLink fun _ => rfl
  · exact h

theorem Traffic.startPacket (h : Traffic s t) (port : Nat) (q : QPkt) : Traffic s (startPacket t port q) := by
  unfold Machine.startPacket
  refine Traffic.freeInput (Traffic.emit ?_ _) q
  exact h.updLink fun _ => rfl

theorem Traffic.sendOn (h : Traffic s t) (port : Nat) (q : QPkt) : Traffic s (sendOn t port q) := by
  unfold Machine.sendOn
  dsimp only
  split
  · exact h.startPacket port q
  · exact h.updLink fun _ => rfl

theorem Traffic.countDiscard (h : Traffic s t) : Traffic s (countDiscard t) := h.of_fab rfl

theorem Traffic.doHop (h : Traffic s t) (inp : Option (Nat × Nat)) (p : Packet) (hop : Hop) : Traffic s (doHop t inp p hop) := by
  cases hop with
  | deliver => exact (h.emit _).freeInput _
  | port n q cont => exact h.sendOn n _
  | discard => exact h.countDiscard.freeInput _

theorem Traffic.forward (h : Traffic s t) (inp : Option (Nat × Nat)) (p : Packet) : Traffic s (forward t inp p) := by
  unfold Machine.forward
  dsimp only
  split
  · split
    · exact h.doHop ..
    · exact (h.doHop ..).doHop ..
  · exact h.doHop ..

theorem Traffic.inject (h : Traffic s t) (p : Packet) : Traffic s (inject t p) := h.forward none p

theorem Traffic.flood (h : Traffic s t) (kind job : Nat) (payload : List Byte) (except : Option Nat) :
    Traffic s (flood t kind job payload except) := by
  refine forEach_keeps (fun u port hu => ?_) h
  split
  · split
    · split
      · exact hu.countDiscard
      · exact hu.sendOn port _
    · exact hu
  · exact hu

theorem Traffic.reroute (h : Traffic s t) (port : Nat) : Traffic s (reroute t port) := by
  unfold Machine.reroute
  refine forEach_keeps (fun _ x hu => hu.forward x.inp x.p) ?_
  exact h.updLink fun _ => rfl

theorem Traffic.absent (h : Traffic s t) : t.fab.absent = s.fab.absent := (congrArg FabSt.absent h.fab :)

theorem Traffic.isAbsent (h : Traffic s t) (n : Nat) : isAbsent t n = isAbsent s n := by rw [Machine.isAbsent, h.absent, Machine.isAbsent]

end

/-- Whether a port is in service is no matter of its traffic. -/
theorem inService_of_idle {s t : State} {q : Nat} (same : idleLink (linkOf t q) = idleLink (linkOf s q)) : inService t q = inService s q := by
  have state : (linkOf t q).state = (linkOf s q).state := (congrArg Link.state same :)
  have out : (linkOf t q).out = (linkOf s q).out := (congrArg Link.out same :)
  have prbs : (linkOf t q).prbs = (linkOf s q).prbs := (congrArg Link.prbs same :)
  simp only [inService, state, out, prbs]

theorem portPresent_of_idle {s t : State} {q : Nat} (same : idleLink (linkOf t q) = idleLink (linkOf s q)) :
    portPresent t q = portPresent s q := by
  have state : (linkOf t q).state = (linkOf s q).state := (congrArg Link.state same :)
  have out : (linkOf t q).out = (linkOf s q).out := (congrArg Link.out same :)
  have agreed : (linkOf t q).agreed = (linkOf s q).agreed := (congrArg Link.agreed same :)
  simp only [portPresent, state, out, agreed]

/-! ### What routing reads -/

section

variable {s t : State} (cfg : t.cfg = s.cfg)

include cfg

theorem live_of_cfg : live t = live s := by funext off; rw [live, cfg, live]

theorem extent_of_cfg : extent t = extent s := by funext a; rw [extent, live_of_cfg cfg, extent]

theorem wrapOn_of_cfg : wrapOn t = wrapOn s := by funext a; rw [wrapOn, live_of_cfg cfg, wrapOn]

theorem ownCoord_of_cfg : ownCoord t = ownCoord s := by rw [ownCoord, live_of_cfg cfg, ownCoord]

theorem neighbour_of_cfg (q : Nat) : neighbour t q = neighbour s q := by
  unfold neighbour
  rw [extent_of_cfg cfg, wrapOn_of_cfg cfg, ownCoord_of_cfg cfg]

theorem routeDir_of_cfg (dst : Nat) : routeDir t dst = routeDir s dst := by
  unfold routeDir
  rw [extent_of_cfg cfg, wrapOn_of_cfg cfg, ownCoord_of_cfg cfg]

theorem reportOf_of_cfg (p : Packet) (cause : Nat) : reportOf t p cause = reportOf s p cause := by
  unfold reportOf
  rw [ownCoord_of_cfg cfg]

end

/-- Routing reads the configuration, the absent table, and which ports are in service with what credits. -/
theorem routeHop_congr {s t : State} (cfg : t.cfg = s.cfg) (absent : ∀ n, isAbsent t n = isAbsent s n)
    (served : ∀ q, inService t q = inService s q) (credits : ∀ q v, creditsOn t q v = creditsOn s q v) (i : Option Nat) (p : Packet) :
    routeHop t i p = routeHop s i p := by
  have pick : pickPort t = pickPort s := by
    funext a d v
    simp only [pickPort, usable, neighbour_of_cfg cfg, absent, served, credits]
  simp only [routeHop, absent, ownCoord_of_cfg cfg, routeDir_of_cfg cfg, pick]

/-! ### A packet in an input buffer -/

/-- The state with a packet in the input buffer of the port it came by, if it came by one (R210). -/
def entered (s : State) (i : Option Port) (p : Packet) : State :=
  match i with
  | some q => updLink s q.val fun l => { l with inUse := mupd l.inUse 0 p.vc (· + flits p) }
  | none => s

/-- Port and VC of that buffer. -/
abbrev bufferOf (i : Option Port) (p : Packet) : Option (Nat × Nat) := i.map fun q => (q.val, p.vc)

theorem execPacketForward_eq (i : Option Port) (p : Packet) (s : State) :
    exec (.packetForward i p) s = .next (forward (entered s i p) (bufferOf i p) p) := by
  cases i <;> rfl

@[simp] theorem entered_out (s : State) (i : Option Port) (p : Packet) : (entered s i p).out = s.out := by cases i <;> rfl
@[simp] theorem entered_cfg (s : State) (i : Option Port) (p : Packet) : (entered s i p).cfg = s.cfg := by cases i <;> rfl
@[simp] theorem entered_tel (s : State) (i : Option Port) (p : Packet) : (entered s i p).tel = s.tel := by cases i <;> rfl

theorem entered_kept {C : List Part} {z s : State} {i : Option Port} {p : Packet} (hC : ([.fab] : List Part) ⊆ C) (h : Kept C z s) :
    Kept C z (entered s i p) := by
  cases i with
  | none => exact h
  | some q => exact updLink_kept hC h

theorem entered_traffic (s : State) (i : Option Port) (p : Packet) : Traffic s (entered s i p) := by
  cases i with
  | none => exact Traffic.refl s
  | some q => exact (Traffic.refl s).updLink fun _ => rfl

theorem linkOf_entered (s : State) (i : Option Port) (p : Packet) (q : Nat) :
    linkOf (entered s i p) q = { linkOf s q with inUse := (linkOf (entered s i p) q).inUse } := by
  cases i with
  | none => rfl
  | some r =>
    simp only [entered, linkOf_updLink]
    split
    · next own => rw [own]
    · rfl

theorem inUse_entered (s : State) (r : Port) (p : Packet) :
    mget (linkOf (entered s (some r) p) r.val).inUse 0 p.vc = mget (linkOf s r.val).inUse 0 p.vc + flits p := by
  simp [entered]

theorem creditsOn_entered (s : State) (i : Option Port) (p : Packet) (q v : Nat) : creditsOn (entered s i p) q v = creditsOn s q v := by
  rw [creditsOn, linkOf_entered, creditsOn]

theorem routeHop_entered (s : State) (i : Option Port) (p : Packet) :
    routeHop (entered s i p) ((bufferOf i p).map (·.1)) p = routeHop s (i.map (·.val)) p := by
  have port : (bufferOf i p).map (·.1) = i.map (·.val) := by cases i <;> rfl
  rw [port, routeHop_congr (entered_cfg s i p) (entered_traffic s i p).isAbsent
    (fun q => inService_of_idle ((entered_traffic s i p).idle q)) (creditsOn_entered s i p)]

/-! ### The packet leaves its buffer -/

theorem freeInput_out (u : State) (i : Option Port) (p x : Packet) (cont : Bool) :
    (freeInput u ⟨x, cont, bufferOf i p⟩).out = u.out ++ i.toList.map fun q => .credit q.val p.vc (flits x) := by
  cases i with
  | none => exact (List.append_nil _).symm
  | some q => rfl

theorem linkOf_freeInput (u : State) (x : QPkt) (q : Nat) :
    linkOf (freeInput u x) q = { linkOf u q with inUse := (linkOf (freeInput u x) q).inUse } := by
  have freed : ∀ (p vc n : Nat) (m : OutMsg), linkOf (emit (updLink u p fun l => { l with inUse := mupd l.inUse 0 vc (· - n) }) m) q =
      if q = p then { linkOf u p with inUse := mupd (linkOf u p).inUse 0 vc (· - n) } else linkOf u q := fun p vc n m =>
    linkOf_updLink u p _ q
  unfold freeInput
  split
  · rw [freed]
    split
    · next own => rw [own]
    · rfl
  · rfl

/-- What came in and goes on leaves its input buffer as it was. -/
theorem inUse_freeInput {s u : State} {i : Option Port} {p x : Packet} (same : ∀ q, (linkOf u q).inUse = (linkOf (entered s i p) q).inUse)
    (length : flits x = flits p) (cont : Bool) (q v : Nat) :
    mget (linkOf (freeInput u ⟨x, cont, bufferOf i p⟩) q).inUse 0 v = mget (linkOf s q).inUse 0 v := by
  cases i with
  | none => exact congrArg (mget · 0 v) (same q)
  | some r =>
    show mget (linkOf (updLink u r.val _) q).inUse 0 v = _
    rw [linkOf_updLink]
    split
    · next own =>
      subst own
      rw [mget_mupd, same r.val]
      simp only [entered, linkOf_updLink, if_true, mget_mupd, length]
      split
      · next vc => subst vc; exact Nat.add_sub_cancel ..
      · rfl
    · next other => rw [same q]; simp [entered, linkOf_updLink, other]

/-! ### Routing decisions -/

theorem routeHop_route {s : State} {i : Option Nat} {p : Packet} (low : 0 < p.ty) (high : p.ty < 0x0C) (here : isAbsent s p.dst = false)
    (notTime : p.ty ≠ 0x0A ∨ p.dst = ownCoord s) :
    routeHop s i p = match routeDir s p.dst with
      | none => .deliver
      | some (a, d) => match pickPort s a d p.vc with
        | some n => .port n p (decide (i.map (· / 4) = some a))
        | none => if p.side ≥ 2 then .discard else match (sideOrder a).findSome? fun x => pickPort s x.1 x.2 6 with
          | some n => .port n { p with vc := 6, side := p.side + 1 } false
          | none => .discard := by
  refine if_neg ?_
  rintro (zero | big | absent | ⟨time, away⟩)
  · omega
  · omega
  · rw [here] at absent; exact absurd absent (by decide)
  · rcases notTime with h | h
    · exact h time
    · exact away h

theorem routeHop_own {s : State} {i : Option Nat} {p : Packet} (low : 0 < p.ty) (high : p.ty < 0x0C) (here : isAbsent s p.dst = false)
    (own : p.dst = ownCoord s) : routeHop s i p = .deliver := by
  rw [routeHop_route low high here (Or.inr own), own, routeDir_own]

theorem routeHop_port {s : State} {i : Option Nat} {p : Packet} {a d n : Nat} (low : 0 < p.ty) (high : p.ty < 0x0C) (notTime : p.ty ≠ 0x0A)
    (here : isAbsent s p.dst = false) (route : routeDir s p.dst = some (a, d)) (pick : pickPort s a d p.vc = some n) :
    routeHop s i p = .port n p (decide (i.map (· / 4) = some a)) := by
  simp only [routeHop_route low high here (Or.inl notTime), route, pick]

theorem routeHop_side {s : State} {i : Option Nat} {p : Packet} {a d n : Nat} (low : 0 < p.ty) (high : p.ty < 0x0C) (notTime : p.ty ≠ 0x0A)
    (here : isAbsent s p.dst = false) (route : routeDir s p.dst = some (a, d)) (blocked : pickPort s a d p.vc = none) (few : p.side < 2)
    (side : (sideOrder a).findSome? (fun x => pickPort s x.1 x.2 6) = some n) :
    routeHop s i p = .port n { p with vc := 6, side := p.side + 1 } false := by
  simp only [routeHop_route low high here (Or.inl notTime), route, blocked, side, if_neg (Nat.not_le.2 few)]

theorem routeHop_discard {s : State} {i : Option Nat} {p : Packet} (bad : (p.ty = 0 ∨ 0x0C ≤ p.ty) ∨ isAbsent s p.dst = true) :
    routeHop s i p = .discard := by
  unfold routeHop
  rw [if_pos]
  rcases bad with (zero | big) | absent
  · exact Or.inl zero
  · exact Or.inr (Or.inl big)
  · exact Or.inr (Or.inr (Or.inl absent))

theorem reportOf_none_of_ty {p : Packet} (bad : p.ty = 0 ∨ 0x0C ≤ p.ty) (s : State) (cause : Nat) : reportOf s p cause = none := by
  unfold reportOf
  rw [if_neg (by omega), if_neg (by omega)]

/-- Only a discarded packet is reported (R214). -/
theorem forward_goes {s : State} {inp : Option (Nat × Nat)} {p : Packet} {h : Hop} (hop : routeHop s (inp.map (·.1)) p = h)
    (goes : h ≠ .discard ∨ reportOf s p 5 = none) : forward s inp p = doHop s inp p h := by
  unfold forward
  simp only [hop]
  split
  · next reported => rcases goes with kept | none
                     · exact absurd rfl kept
                     · rw [none] at reported; exact absurd reported (by simp)
  · rfl

/-! ### Sending -/

theorem stamped_other {p : Packet} (notTime : p.ty ≠ 0x0A) (s : State) : stamped s p = p := if_neg notTime

theorem sendOn_now {s : State} {port : Nat} {q : QPkt} (first : ∀ x ∈ (linkOf s port).queue, x.p.vc ≠ q.p.vc)
    (room : creditNeed q.p q.cont ≤ creditsOn s port q.p.vc) : sendOn s port q = startPacket s port q := by
  refine if_pos ⟨?_, room⟩
  simpa using first

theorem sendOn_waits {s : State} {port : Nat} {q : QPkt}
    (waits : (∃ x ∈ (linkOf s port).queue, x.p.vc = q.p.vc) ∨ creditsOn s port q.p.vc < creditNeed q.p q.cont) :
    sendOn s port q = updLink s port fun l => { l with queue := l.queue ++ [q] } := by
  refine if_neg ?_
  rintro ⟨first, room⟩
  rcases waits with ⟨x, queued, vc⟩ | short
  · have := List.all_eq_true.1 first x queued
    simp [vc] at this
  · omega

/-- The state in which a packet has just left by a port, and its input buffer still holds it (R210, R237, R240). -/
def departed (s : State) (port : Nat) (p : Packet) : State :=
  emit (updLink s port fun l => { l with
    credits := mupd l.credits 0 p.vc (· - flits p)
    tSent := if p.ty = 0x0A then now s else l.tSent
    replay := replayKeep l.replay p (now s) }) (.packet (some port) p)

theorem startPacket_eq (s : State) (port : Nat) (q : QPkt) : startPacket s port q = freeInput (departed s port (stamped s q.p)) q := rfl

theorem departed_out (s : State) (port : Nat) (p : Packet) : (departed s port p).out = s.out ++ [.packet (some port) p] := rfl

theorem linkOf_departed (s : State) (port : Nat) (p : Packet) (q : Nat) : linkOf (departed s port p) q =
    { linkOf s q with
      credits := (linkOf (departed s port p) q).credits, tSent := (linkOf (departed s port p) q).tSent
      replay := (linkOf (departed s port p) q).replay } := by
  have link := linkOf_updLink s port (fun l => { l with
    credits := mupd l.credits 0 p.vc (· - flits p)
    tSent := if p.ty = 0x0A then now s else l.tSent
    replay := replayKeep l.replay p (now s) }) q
  rw [show linkOf (departed s port p) q = _ from link]
  split
  · next own => rw [own]
  · rfl

theorem creditsOn_departed (s : State) (port : Nat) (p : Packet) : creditsOn (departed s port p) port p.vc = creditsOn s port p.vc - flits p := by
  have link := linkOf_updLink s port (fun l => { l with
    credits := mupd l.credits 0 p.vc (· - flits p)
    tSent := if p.ty = 0x0A then now s else l.tSent
    replay := replayKeep l.replay p (now s) }) port
  rw [if_pos rfl] at link
  rw [creditsOn, show linkOf (departed s port p) port = _ from link, mget_mupd, if_pos rfl, creditsOn]

/-- A packet for this part: it is handed over, and its input buffer gives its credits back. -/
theorem deliveredHere (s : State) (i : Option Port) (p : Packet) :
    ∃ t, doHop (entered s i p) (bufferOf i p) p .deliver = t ∧
      t.out = s.out ++ .packet none p :: (i.toList.map fun q => .credit q.val p.vc (flits p)) ∧
      (∀ q v, mget (linkOf t q).inUse 0 v = mget (linkOf s q).inUse 0 v) ∧ (i = none → t = { s with out := t.out }) ∧
      s.changesOnly [.out, .fab] t := by
  refine ⟨freeInput (emit (entered s i p) (.packet none p)) ⟨p, false, bufferOf i p⟩, rfl, ?_, fun q v => ?_, fun none => ?_, ?_⟩
  · rw [freeInput_out, emit_out, entered_out, List.append_assoc, List.singleton_append]
  · exact inUse_freeInput (u := emit (entered s i p) (.packet none p)) (fun _ => rfl) rfl false q v
  · subst none; rfl
  · exact (freeInput_kept (List.Subset.refl _) (emit_kept (by decide) (entered_kept (by decide) (Kept.refl _ s)))).frame

/-- A packet that is discarded is counted, and its input buffer gives its credits back. -/
theorem discardedHere (s : State) (i : Option Port) (p : Packet) :
    ∃ t, doHop (entered s i p) (bufferOf i p) p .discard = t ∧
      t.out = s.out ++ (i.toList.map fun q => .credit q.val p.vc (flits p)) ∧
      mget t.tel.cnt 0 0x70130 = satAdd64 (mget s.tel.cnt 0 0x70130) 1 ∧
      (∀ q v, mget (linkOf t q).inUse 0 v = mget (linkOf s q).inUse 0 v) ∧ (i = none → s.changesOnly [.tel] t) ∧
      s.changesOnly [.out, .fab, .tel] t := by
  have counted : mget (countDiscard (entered s i p)).tel.cnt 0 0x70130 = satAdd64 (mget s.tel.cnt 0 0x70130) 1 := by
    rw [countDiscard, counter_bump, if_pos rfl, entered_tel]
  have freed := freeInput_kept (q := ⟨p, false, bufferOf i p⟩) (List.Subset.refl _) (Kept.refl _ (countDiscard (entered s i p)))
  refine ⟨freeInput (countDiscard (entered s i p)) ⟨p, false, bufferOf i p⟩, rfl, ?_, ?_, fun q v => ?_, fun none => ?_, ?_⟩
  · rw [freeInput_out, countDiscard, bump_out, entered_out]
  · rw [show (freeInput _ _).tel = _ from freed.frame .tel (by decide)]
    exact counted
  · exact inUse_freeInput (u := countDiscard (entered s i p)) (fun _ => rfl) rfl false q v
  · subst none
    exact (countDiscard_kept (List.Subset.refl _) (Kept.refl _ s)).frame
  · exact (freeInput_kept (by decide) (countDiscard_kept (by decide) (entered_kept (by decide) (Kept.refl _ s)))).frame

/-- A packet that goes on at once: it leaves with its credits spent, and its input buffer gives its own back (R210). -/
theorem sentOn {s : State} {i : Option Port} {p x : Packet} {n : Nat} {cont : Bool} (notTime : x.ty ≠ 0x0A) (length : flits x = flits p)
    (first : ∀ y ∈ (linkOf s n).queue, y.p.vc ≠ x.vc) (room : creditNeed x cont ≤ creditsOn s n x.vc) :
    ∃ t, sendOn (entered s i p) n ⟨x, cont, bufferOf i p⟩ = t ∧
      t.out = s.out ++ .packet (some n) x :: (i.toList.map fun q => .credit q.val p.vc (flits p)) ∧
      creditsOn t n x.vc = creditsOn s n x.vc - flits x ∧ (linkOf t n).queue = (linkOf s n).queue ∧
      (∀ q v, mget (linkOf t q).inUse 0 v = mget (linkOf s q).inUse 0 v) ∧ s.changesOnly [.out, .fab] t := by
  refine ⟨freeInput (departed (entered s i p) n x) ⟨x, cont, bufferOf i p⟩, ?_, ?_, ?_, ?_, fun q v => ?_, ?_⟩
  · rw [sendOn_now (by rw [linkOf_entered]; exact first) (by rw [creditsOn_entered]; exact room), startPacket_eq, stamped_other notTime]
  · rw [freeInput_out, departed_out, entered_out, length, List.append_assoc, List.singleton_append]
  · rw [creditsOn, linkOf_freeInput, ← creditsOn_entered s i p, ← creditsOn_departed, creditsOn]
  · rw [linkOf_freeInput, linkOf_departed, linkOf_entered]
  · exact inUse_freeInput (fun r => by rw [linkOf_departed]) length cont q v
  · have left : Kept [.out, .fab] s (departed (entered s i p) n x) :=
      emit_kept (by decide) (updLink_kept (by decide) (entered_kept (by decide) (Kept.refl _ s)))
    exact (freeInput_kept (List.Subset.refl _) left).frame

/-- A packet that waits for credits keeps its input buffer (R210). -/
theorem queuedOn {s : State} {i : Option Port} {p : Packet} {n : Nat} {cont : Bool}
    (waits : (∃ y ∈ (linkOf s n).queue, y.p.vc = p.vc) ∨ creditsOn s n p.vc < creditNeed p cont) :
    ∃ t, sendOn (entered s i p) n ⟨p, cont, bufferOf i p⟩ = t ∧ t.out = s.out ∧
      (linkOf t n).queue = (linkOf s n).queue ++ [⟨p, cont, bufferOf i p⟩] ∧
      (∀ q : Port, i = some q → mget (linkOf t q.val).inUse 0 p.vc = mget (linkOf s q.val).inUse 0 p.vc + flits p) ∧
      s.changesOnly [.fab] t := by
  refine ⟨_, sendOn_waits (by rw [linkOf_entered, creditsOn_entered]; exact waits), entered_out s i p, ?_, fun q own => ?_, ?_⟩
  · rw [linkOf_updLink, if_pos rfl, linkOf_entered]
  · subst own
    rw [linkOf_updLink]
    split
    · next port => rw [← port]; exact inUse_entered s q p
    · exact inUse_entered s q p
  · exact (updLink_kept (List.Subset.refl _) (entered_kept (List.Subset.refl _) (Kept.refl _ s))).frame

/-! ### The obligation -/

/-- Settles O28: each clause is the routing decision of its premises, carried out on the state with the packet in the input
buffer of its port. -/
theorem packetForwarding : Obligations.PacketForwarding := by
  unfold Obligations.PacketForwarding
  have cont : ∀ (i : Option Port) (a : Nat), decide ((i.map (·.val)).map (· / 4) = some a) = decide (i.map (fun x => x.val / 4) = some a) :=
    fun i a => by cases i <;> rfl
  have runs : ∀ {s : State} {i : Option Port} {p : Packet} {h : Hop} {t : State}, routeHop s (i.map (·.val)) p = h →
      (h ≠ .discard ∨ reportOf s p 5 = none) → doHop (entered s i p) (bufferOf i p) p h = t → exec (.packetForward i p) s = .next t := by
    intro s i p h t hop goes effect
    rw [execPacketForward_eq, forward_goes ((routeHop_entered s i p).trans hop) (by rwa [reportOf_of_cfg (entered_cfg s i p)]), effect]
  refine ⟨fun s i p low high here own => ?_, fun s i p a d n low high notTime here route pick first room => ?_,
    fun s i p a d n low high notTime here route pick waits => ?_,
    fun s i p a d n low high notTime here route blocked few side first room => ?_, ⟨rfl, rfl, rfl⟩, fun s i p bad => ?_⟩
  · obtain ⟨t, effect, out, inUse, injected, frame⟩ := deliveredHere s i p
    exact ⟨t, runs (routeHop_own low high here own) (Or.inl (by simp)) effect, out, inUse, injected, frame⟩
  · obtain ⟨t, effect, out, credits, queue, inUse, frame⟩ := sentOn (i := i) (p := p) notTime rfl first room
    refine ⟨t, runs (routeHop_port low high notTime here route pick) (Or.inl (by simp)) ?_, out, credits, queue, inUse, frame⟩
    rw [cont]; exact effect
  · obtain ⟨t, effect, out, queue, inUse, frame⟩ := queuedOn (i := i) waits
    refine ⟨t, runs (routeHop_port low high notTime here route pick) (Or.inl (by simp)) ?_, out, queue, inUse, frame⟩
    rw [cont]; exact effect
  · obtain ⟨t, effect, out, credits, -, -, frame⟩ :=
      sentOn (i := i) (p := p) (x := { p with vc := 6, side := p.side + 1 }) (cont := false) notTime rfl first room
    exact ⟨t, runs (routeHop_side low high notTime here route blocked few side) (Or.inl (by simp)) effect, out, credits, frame⟩
  · have noReport : reportOf s p 5 = none := bad.elim (fun ty => reportOf_none_of_ty ty s 5) And.right
    obtain ⟨t, effect, after⟩ := discardedHere s i p
    exact ⟨t, runs (routeHop_discard (bad.imp_right And.left)) (Or.inr noReport) effect, after⟩

end Sys2Proof.Proofs
end

section
/-! Links in training and under test (R204, R210, R239, R240, R485): each training state and its next, the credits of a link that
is up, replays, credit returns and the PRBS test. -/

namespace Sys2Proof.Proofs

open Sys2Proof Sys2Proof.Machine Sys2Proof.Laws

/-! ### A change of one link -/

theorem chgLink_fab (s : State) (p : Nat) (f : Link → Link) : (chgLink s p f).fab = (updLink s p f).fab := by
  unfold chgLink
  dsimp only
  split
  · rfl
  · exact (blockEvent_kept (List.Subset.refl _) (Kept.refl _ (updLink s p f))).frame .fab (by decide)

theorem linkOf_of_links {s t : State} (links : t.fab.links = s.fab.links) (q : Nat) : linkOf t q = linkOf s q := by
  rw [linkOf, links, linkOf]

theorem linkOf_chgLink (s : State) (p : Nat) (f : Link → Link) (q : Nat) :
    linkOf (chgLink s p f) q = if q = p then f (linkOf s p) else linkOf s q := by
  rw [linkOf_of_links (congrArg FabSt.links (chgLink_fab s p f)), linkOf_updLink]

theorem linkOf_chgLink_same (s : State) (p : Nat) (f : Link → Link) : linkOf (chgLink s p f) p = f (linkOf s p) := by
  rw [linkOf_chgLink, if_pos rfl]

theorem linkOf_chgLink_ne {p q : Nat} (other : q ≠ p) (s : State) (f : Link → Link) : linkOf (chgLink s p f) q = linkOf s q := by
  rw [linkOf_chgLink, if_neg other]

theorem chgLink_absent (s : State) (p : Nat) (f : Link → Link) : (chgLink s p f).fab.absent = s.fab.absent := by rw [chgLink_fab]; rfl

/-! ### The time followed -/

theorem raisePart_fab (s : State) (code : Nat) (f : EvF) : (raisePart s code f).fab = s.fab :=
  (raisePart_kept (List.Subset.refl _) (Kept.refl _ s)).frame .fab (by decide)

/-- Choosing the time followed changes what the part follows, and nothing else of its switchback (R236, R238). -/
theorem refollow_fab (s : State) : (refollow s).fab =
    { s.fab with holdover := (refollow s).fab.holdover, follow := (refollow s).fab.follow, hops := (refollow s).fab.hops
                 slew := (refollow s).fab.slew } := by
  unfold refollow
  split
  · rfl
  · split
    · rfl
    · dsimp only
      split
      · rw [raisePart_fab]
      · rfl

theorem linkOf_refollow (s : State) (q : Nat) : linkOf (refollow s) q = linkOf s q :=
  linkOf_of_links (congrArg FabSt.links (refollow_fab s) :) q

theorem refollow_absent (s : State) : (refollow s).fab.absent = s.fab.absent := (congrArg FabSt.absent (refollow_fab s) :)

/-! ### The twin link -/

theorem twinOf_ne (p : Nat) : twinOf p ≠ p := by unfold twinOf; omega

theorem neighbour_twinOf (s : State) (p : Nat) : neighbour s (twinOf p) = neighbour s p := by
  have axis : twinOf p / 4 = p / 4 := by unfold twinOf; omega
  have sign : twinOf p % 4 < 2 ↔ p % 4 < 2 := by unfold twinOf; omega
  simp only [neighbour, axis, sign]

theorem twinOf_lt {p : Nat} (h : p < 12) : twinOf p < 12 := by unfold twinOf; omega

/-- While a twin is present no neighbour goes absent (R254). -/
theorem portsOut_twin {s : State} {p n : Nat} (port : p < 12) (cabled : neighbour s p = some n) (twin : portPresent s (twinOf p) = true)
    (cause : Nat) : portsOut s p cause = s := by
  unfold portsOut
  rw [cabled]
  refine if_pos (List.any_eq_true.2 ⟨twinOf p, List.mem_range.2 (twinOf_lt port), ?_⟩)
  rw [neighbour_twinOf, cabled, twin]
  simp

theorem applyIfIdle_none {s : State} (none : s.cfg.state ≠ 3) : applyIfIdle s = s := by
  unfold applyIfIdle applyNow
  rw [if_pos none, ite_self]

/-! ### A queue that is empty -/

theorem servePort_empty {s : State} {p : Nat} (empty : (linkOf s p).queue = []) (n : Nat) : servePort s p n = s := by
  have idle : ∀ vc, readyOn s p vc = none := fun vc => by rw [readyOn, empty]; rfl
  have refused : ∀ l : List Nat, l.find? (fun _ => false) = none := fun l => List.find?_eq_none.2 fun _ _ => Bool.false_ne_true
  have quiet : nextVc s p = none := by simp [nextVc, idle, refused]
  cases n with
  | zero => rfl
  | succ n => rw [servePort, quiet]

/-! ### Training -/

/-- The link holds the identity record that its peer sent (R204). -/
def recordTaken (s : State) (p x n : Nat) (tag : Word) : State := updLink s p fun l => { l with peer := x, peerPort := n, tag := tag }

theorem linkOf_recordTaken (s : State) (p x n : Nat) (tag : Word) :
    linkOf (recordTaken s p x n tag) p = { linkOf s p with peer := x, peerPort := n, tag := tag } := by
  rw [recordTaken, linkOf_updLink, if_pos rfl]

/-- Training goes on from the link's state (R239). -/
abbrev Trains (s : State) (p : Nat) : Prop :=
  (linkOf s p).out = false ∧ (linkOf s p).prbs = false ∧ 5 ≤ s.boot.stage ∧ switchbackRuns s = true

theorem trains_goesOn {s : State} {p : Nat} (h : Trains s p) :
    ¬ (((linkOf s p).out = true ∧ (linkOf s p).lost = false) ∨ (linkOf s p).prbs = true ∨ s.boot.stage < 5 ∨ ¬ switchbackRuns s = true) := by
  obtain ⟨out, prbs, stage, runs⟩ := h
  simp [out, prbs, runs]
  omega

section

variable {s : State} {p x n : Nat} {tag : Word} (h : Trains s p)

include h

theorem linkTrainStateEffect_detect (at_ : (linkOf s p).state = .detect) :
    linkTrainStateEffect p x n tag s = chgLink s p fun l => { l with state := .equalise } := by
  simp only [linkTrainStateEffect, if_neg (trains_goesOn h), at_]

theorem linkTrainStateEffect_equalise (at_ : (linkOf s p).state = .equalise) :
    linkTrainStateEffect p x n tag s = chgLink s p fun l => { l with state := .align } := by
  simp only [linkTrainStateEffect, if_neg (trains_goesOn h), at_]

theorem linkTrainStateEffect_align (at_ : (linkOf s p).state = .align) :
    linkTrainStateEffect p x n tag s = sendIdentity (chgLink s p fun l => { l with state := .ident }) p := by
  simp only [linkTrainStateEffect, if_neg (trains_goesOn h), at_]

theorem linkTrainStateEffect_agrees (at_ : (linkOf s p).state = .ident) (agrees : identOk s p x n tag = true) :
    linkTrainStateEffect p x n tag s =
      goPresent (chgLink (recordTaken s p x n tag) p fun l => { l with state := .credit }) x (ownCoord s) none := by
  simp only [linkTrainStateEffect, if_neg (trains_goesOn h), at_, agrees, if_true, recordTaken]

theorem linkTrainStateEffect_differs (at_ : (linkOf s p).state = .ident) (differs : identOk s p x n tag = false) :
    linkTrainStateEffect p x n tag s = identFails (recordTaken s p x n tag) p x n tag := by
  simp only [linkTrainStateEffect, if_neg (trains_goesOn h), at_, differs, Bool.false_eq_true, if_false, recordTaken]

theorem linkTrainStateEffect_credit (at_ : (linkOf s p).state = .credit) : linkTrainStateEffect p x n tag s = linkUp s p := by
  simp only [linkTrainStateEffect, if_neg (trains_goesOn h), at_]

end

theorem identity_of_idle {l m : Link} (same : idleLink l = idleLink m) :
    l.state = m.state ∧ l.peer = m.peer ∧ l.peerPort = m.peerPort ∧ l.tag = m.tag :=
  ⟨(congrArg Link.state same :), (congrArg Link.peer same :), (congrArg Link.peerPort same :), (congrArg Link.tag same :)⟩

/-- A part that becomes present is in the absent table no longer, and only traffic moves on the links (R255). -/
theorem goPresent_spec (s : State) (x b23 : Nat) (port : Option Nat) :
    isAbsent (goPresent s x b23 port) x = false ∧ ∀ q, idleLink (linkOf (goPresent s x b23 port) q) = idleLink (linkOf s q) := by
  unfold goPresent
  split
  · have sent := Traffic.flood (Traffic.refl { s with fab := { s.fab with absent := s.fab.absent.filter fun e => e.1 ≠ x } })
      0x11 0 (noticeBytes x b23 0 0) port
    refine ⟨?_, sent.idle⟩
    rw [sent.isAbsent]
    simp [isAbsent]
  · next present => exact ⟨Bool.eq_false_iff.2 present, fun _ => rfl⟩

/-- The link is out of service for the identity record that its peer sent, and the event is raised (R204). -/
def identOut (s : State) (p x n : Nat) (tag : Word) : State :=
  refollow (raisePart (chgLink (outLink s p) p fun l => { l with lost := false }) 0x0104
    { inst := p, va := x % 2 ^ 15 + n % 16 * 2 ^ 16 + tag.toNat * 2 ^ 32 })

theorem identOut_kept {C : List Part} {z s : State} {p x n : Nat} {tag : Word} (hC : ([.out, .hostMem, .fab, .host] : List Part) ⊆ C)
    (h : Kept C z s) : Kept C z (identOut s p x n tag) := by
  have out := outLink_kept (port := p) (Part.subs hC (by decide)) h
  exact refollow_kept hC (raisePart_kept (Part.subs hC (by decide)) (chgLink_kept (Part.subs hC (by decide)) out))

theorem linkOf_identOut (s : State) (p x n : Nat) (tag : Word) (q : Nat) :
    linkOf (identOut s p x n tag) q = if q = p then { linkOf (outLink s p) p with lost := false } else linkOf s q := by
  rw [identOut, linkOf_refollow, linkOf_of_links (congrArg FabSt.links (raisePart_fab _ _ _)), linkOf_chgLink]
  split
  · rfl
  · next other => exact linkOf_chgLink_ne other s _

/-- With a twin in service the refused identity costs the link, and no neighbour (R204, R254). -/
theorem identFails_twin {s : State} {p m : Nat} (port : p < 12) (cabled : neighbour s p = some m)
    (twin : portPresent s (twinOf p) = true) (quiet : s.cfg.state ≠ 3) (x n : Nat) (tag : Word) :
    identFails s p x n tag = identOut s p x n tag := by
  have cfg := (identOut_kept (p := p) (x := x) (n := n) (tag := tag) (List.Subset.refl _) (Kept.refl _ s)).frame .cfg (by decide)
  have present : portPresent (identOut s p x n tag) (twinOf p) = true := by
    rw [portPresent_of_idle (s := s) (by rw [linkOf_identOut, if_neg (twinOf_ne p)]), twin]
  have stays := portsOut_twin port ((neighbour_of_cfg cfg p).trans cabled) present 1
  exact (congrArg applyIfIdle stays).trans (applyIfIdle_none fun pending => quiet ((congrArg CfgSt.state cfg).symm.trans pending))

/-! ### A link that is up -/

theorem forEach_replay_fab (l : List (Packet × Nat)) (s : State) (p : Nat) :
    (forEach l s fun s x => emit s (.replay p x.1 0)).fab = s.fab := by
  induction l generalizing s with
  | nil => rfl
  | cons x l ih => exact ih _

/-- A link with nothing to send is up, with its credits granted anew (R210, R239). -/
theorem linkUp_empty {s : State} {p : Nat} (empty : (linkOf s p).queue = []) : linkOf (linkUp s p) p =
    { linkOf s p with
      state := .up, out := false, agreed := false, lost := false, softRst := false, credits := fullCredits, inUse := [] } := by
  have link : ∀ l : List (Packet × Nat), linkOf (forEach l (chgLink s p fun l => { l with
      state := .up, out := false, agreed := false, lost := false, softRst := false, credits := fullCredits, inUse := [] })
      fun s x => emit s (.replay p x.1 0)) p = { linkOf s p with
      state := .up, out := false, agreed := false, lost := false, softRst := false, credits := fullCredits, inUse := [] } := fun l => by
    rw [linkOf_of_links (congrArg FabSt.links (forEach_replay_fab l _ p)), linkOf_chgLink_same]
  unfold linkUp
  dsimp only
  rw [servePort_empty (by rw [link]; exact empty), link]

theorem fullCredits_get {v : Nat} (hv : v < 8) : mget fullCredits 0 v = 96 := by
  interval_cases v <;> rfl

/-- Settles O15: a link that trains takes the next state; the identity record and the credits decide what else. -/
theorem linkTrainingOrder : Obligations.LinkTrainingOrder := by
  unfold Obligations.LinkTrainingOrder
  have frame : ∀ {s t : State} {p : Port} {f : Link → Link}, t = chgLink s p.val f → s.changesOnly [.out, .fab, .host] t :=
    fun e => e ▸ (chgLink_kept (List.Subset.refl _) (Kept.refl _ _)).frame
  refine ⟨fun s p x n tag out prbs stage runs at_ => ?_, fun s p x n tag out prbs stage runs at_ => ?_,
    fun s p x n tag out prbs stage runs at_ => ?_, fun s p x n tag out prbs stage runs at_ agrees => ?_,
    fun s p x n tag out prbs stage runs at_ differs alone => ?_, fun s p x n tag out prbs stage runs at_ empty => ?_⟩
  all_goals have h : Trains s p.val := ⟨out, prbs, stage, runs⟩
  · exact ⟨_, congrArg Host.Outcome.next (linkTrainStateEffect_detect h at_), linkOf_chgLink_same s p.val _, frame rfl⟩
  · exact ⟨_, congrArg Host.Outcome.next (linkTrainStateEffect_equalise h at_), linkOf_chgLink_same s p.val _, chgLink_absent s p.val _, frame rfl⟩
  · refine ⟨_, congrArg Host.Outcome.next (linkTrainStateEffect_align h at_), linkOf_chgLink_same s p.val _, ?_, ?_⟩
    · have cfg := (chgLink_kept (port := p.val) (f := fun l => { l with state := .ident }) (List.Subset.refl _) (Kept.refl _ s)).frame .cfg (by decide)
      rw [sendIdentity, emit_out, ownCoord_of_cfg cfg, live_of_cfg cfg]
      exact List.mem_append_right _ List.mem_cons_self
    · exact (emit_kept (by decide) (chgLink_kept (List.Subset.refl _) (Kept.refl _ s))).frame
  · obtain ⟨present, same⟩ := goPresent_spec (chgLink (recordTaken s p.val x n tag) p.val fun l => { l with state := .credit })
      x (ownCoord s) none
    have link := same p.val
    rw [linkOf_chgLink_same, linkOf_recordTaken] at link
    obtain ⟨state, peer, peerPort, tagged⟩ := identity_of_idle link
    refine ⟨_, congrArg Host.Outcome.next (linkTrainStateEffect_agrees h at_ agrees), state, peer, peerPort, tagged, present, ?_⟩
    exact (goPresent_kept (by decide) (chgLink_kept (by decide) (updLink_kept (by decide) (Kept.refl _ s)))).frame
  · rintro ⟨m, cabled⟩ twin quiet
    have only : portPresent (recordTaken s p.val x n tag) (twinOf p.val) = true := by
      rw [← twin]
      exact portPresent_of_idle (by rw [recordTaken, linkOf_updLink, if_neg (twinOf_ne _)])
    have effect := (linkTrainStateEffect_differs h at_ differs).trans
      (identFails_twin (s := recordTaken s p.val x n tag) p.isLt cabled only quiet x n tag)
    refine ⟨_, congrArg Host.Outcome.next effect, ?_, ?_, ?_⟩
    · rw [linkOf_identOut, if_pos rfl, outLink, linkOf_chgLink_same]
    · rw [linkOf_identOut, if_pos rfl, outLink, linkOf_chgLink_same, linkOf_recordTaken]
      simp [at_, alone]
    · exact (identOut_kept (List.Subset.refl _) (updLink_kept (by decide) (Kept.refl _ s))).frame
  · have link := linkUp_empty empty
    refine ⟨_, congrArg Host.Outcome.next (linkTrainStateEffect_credit h at_), ?_, ?_, fun v hv => ?_, ?_⟩
    · rw [link]
    · simp [inService, link, prbs]
    · rw [creditsOn, link]; exact fullCredits_get hv
    · exact (linkUp_kept (List.Subset.refl _) (Kept.refl _ s)).frame

/-! ### Traffic tests -/

theorem test_of_idle {l m : Link} (same : idleLink l = idleLink m) : l.prbs = m.prbs ∧ l.out = m.out :=
  ⟨(congrArg Link.prbs same :), (congrArg Link.out same :)⟩

theorem prbsStopEffect_testing {s : State} {p : Nat} (ready : isReady s = true) (testing : (linkOf s p).prbs = true) :
    prbsStopEffect p s = retrainLink (bump { s with free := s.free + 1 } (slnkPage p + 0x128) (Config.freeNat s.free)) p := by
  simp [prbsStopEffect, ready, testing]

theorem creditReturnEffect_empty {s : State} {p vc n : Nat} (served : inService s p = true) (empty : (linkOf s p).queue = []) :
    creditReturnEffect p vc n s = updLink s p fun l => { l with credits := mupd l.credits 0 vc fun x => min 96 (x + n) } := by
  rw [creditReturnEffect, if_pos served]
  exact servePort_empty (by rw [linkOf_updLink, if_pos rfl]; exact empty) _

/-- The link under test leaves its traffic to the twin (R485). -/
def prbsBegun (s : State) (p : Nat) : State :=
  refollow (reroute (chgLink s p fun l => { l with prbs := true, out := true, credits := [], replay := [], inUse := [], hops := 0xFF }) p)

theorem prbsBegun_spec (s : State) (p : Nat) :
    (∀ q, idleLink (linkOf (prbsBegun s p) q) =
      idleLink (linkOf (chgLink s p fun l => { l with prbs := true, out := true, credits := [], replay := [], inUse := [], hops := 0xFF }) q)) ∧
    Kept [.out, .hostMem, .fab, .host, .tel] s (prbsBegun s p) := by
  refine ⟨fun q => ?_, ?_⟩
  · rw [prbsBegun, linkOf_refollow]
    exact ((Traffic.refl _).reroute p).idle q
  · exact refollow_kept (by decide) (reroute_kept (by decide) (chgLink_kept (by decide) (Kept.refl _ s)))

/-- Settles O16: replays only count, returned credits go to one VC, and a link under test is out of service for its traffic
alone. -/
theorem replayCreditsAndPrbs : Obligations.ReplayCreditsAndPrbs := by
  unfold Obligations.ReplayCreditsAndPrbs
  refine ⟨fun s p n served => ?_, fun s p v n served empty => ?_, fun s p ready served twin none => ?_, fun s p ready twin => ?_,
    fun s p ready testing => ?_⟩
  · refine ⟨_, congrArg Host.Outcome.next (if_pos served), ?_, ?_, rfl, ?_⟩
    · simp [emit]
    · simp [emit]
    · exact (emit_kept (by decide) (bump_kept (by decide) (bump_kept (by decide) (Kept.refl _ s)))).frame
  · refine ⟨_, congrArg Host.Outcome.next (creditReturnEffect_empty served empty), ?_, fun w other => ?_, ?_⟩
    · simp [creditsOn]
    · simp [creditsOn, other]
    · exact (updLink_kept (List.Subset.refl _) (Kept.refl _ s)).frame
  · have all : ((List.range 12).all fun q => !(linkOf s q).prbs) = true :=
      List.all_eq_true.2 fun q hq => by rw [none q (List.mem_range.1 hq)]; rfl
    obtain ⟨same, kept⟩ := prbsBegun_spec s p.val
    have other := same (twinOf p.val)
    rw [linkOf_chgLink_ne (twinOf_ne _)] at other
    obtain ⟨prbs, out⟩ := test_of_idle (linkOf_chgLink_same s p.val _ ▸ same p.val)
    refine ⟨prbsBegun s p.val, congrArg Host.Outcome.next ?_, prbs, out, ?_, (inService_of_idle other).trans twin, kept.frame⟩
    · simp [prbsStartEffect, ready, served, twin, all, prbsBegun]
    · simp [inService, prbs]
  · refine congrArg Host.Outcome.next ?_
    simp [prbsStartEffect, ready, twin]
  · refine ⟨_, congrArg Host.Outcome.next (prbsStopEffect_testing ready testing), ?_, ?_, ?_⟩
    · rw [retrainLink, linkOf_chgLink_same]
    · rw [retrainLink, linkOf_chgLink_same]
    · have counted : Kept [.out, .fab, .host, .tel] s { s with free := s.free + 1 } :=
        ⟨rfl, Nat.le_succ _, List.prefix_refl _, le_refl _, id, id, fun q _ => q.same_refl s⟩
      exact (retrainLink_kept (by decide) (bump_kept (by decide) counted)).frame

end Sys2Proof.Proofs
end

section
/-! Links that leave service (R241, R243, R254): traffic goes another way, a twin keeps the neighbour present, and without one the
neighbour is absent. -/

namespace Sys2Proof.Proofs

open Sys2Proof Sys2Proof.Machine Sys2Proof.Laws

/-! ### A link out of service -/

/-- The link is out of service, and its traffic goes another way (R243). -/
abbrev leftService (s : State) (p : Nat) : State := afterOut (outLink s p) p

theorem outLink_out (s : State) (p : Nat) : (linkOf (outLink s p) p).out = true := by rw [outLink, linkOf_chgLink_same]

theorem linkOf_outLink_ne {p q : Nat} (other : q ≠ p) (s : State) : linkOf (outLink s p) q = linkOf s q := linkOf_chgLink_ne other s _

/-- While its twin is not under test, traffic is all that a link's leaving moves on the links that stay (R485). -/
theorem afterOut_idle {s : State} {p : Nat} (untested : (linkOf s (twinOf p)).prbs = false) (q : Nat) :
    idleLink (linkOf (afterOut s p) q) = idleLink (linkOf s q) := by
  rw [afterOut, linkOf_refollow, twinCheck, untested, if_neg Bool.false_ne_true]
  exact ((Traffic.refl s).reroute p).idle q

theorem afterOut_absent (s : State) {p : Nat} (untested : (linkOf s (twinOf p)).prbs = false) : (afterOut s p).fab.absent = s.fab.absent := by
  rw [afterOut, refollow_absent, twinCheck, untested, if_neg Bool.false_ne_true]
  exact ((Traffic.refl s).reroute p).absent

theorem out_of_idle {l m : Link} (same : idleLink l = idleLink m) : l.out = m.out := (congrArg Link.out same :)

theorem not_inService_of_out {s : State} {p : Nat} (out : (linkOf s p).out = true) : inService s p = false := by simp [inService, out]

theorem not_portPresent_of_out {s : State} {p : Nat} (out : (linkOf s p).out = true) : portPresent s p = false := by simp [portPresent, out]

section

variable {s : State} {p : Nat} (untested : (linkOf s (twinOf p)).prbs = false)

include untested

theorem leftService_idle (q : Nat) : idleLink (linkOf (leftService s p) q) = idleLink (linkOf (outLink s p) q) :=
  afterOut_idle (by rw [linkOf_outLink_ne (twinOf_ne p)]; exact untested) q

theorem leftService_out : (linkOf (leftService s p) p).out = true := (out_of_idle (leftService_idle untested p)).trans (outLink_out s p)

theorem leftService_absent : (leftService s p).fab.absent = s.fab.absent := by
  rw [leftService, afterOut_absent _ (by rw [linkOf_outLink_ne (twinOf_ne p)]; exact untested)]
  exact chgLink_absent s p _

theorem leftService_present {q : Nat} (other : q ≠ p) : portPresent (leftService s p) q = portPresent s q :=
  portPresent_of_idle ((leftService_idle untested q).trans (by rw [linkOf_outLink_ne other]))

end

theorem leftService_kept {C : List Part} {z s : State} {p : Nat} (hC : ([.out, .hostMem, .fab, .host, .tel] : List Part) ⊆ C)
    (h : Kept C z s) : Kept C z (leftService s p) := afterOut_kept hC (outLink_kept (Part.subs hC (by decide)) h)

theorem leftService_cfg (s : State) (p : Nat) : (leftService s p).cfg = s.cfg :=
  (leftService_kept (List.Subset.refl _) (Kept.refl _ s)).frame .cfg (by decide)

/-- A link with a twin leaves service alone (R243, R254). -/
theorem linkLost_twin {s : State} {p n : Nat} (port : p < 12) (cabled : neighbour s p = some n) (twin : portPresent s (twinOf p) = true)
    (untested : (linkOf s (twinOf p)).prbs = false) (quiet : s.cfg.state ≠ 3) (cause : Nat) : linkLost s p cause = leftService s p := by
  have stays : portsOut (leftService s p) p cause = leftService s p :=
    portsOut_twin port ((neighbour_of_cfg (leftService_cfg s p) p).trans cabled)
      ((leftService_present untested (twinOf_ne p)).trans twin) cause
  exact (congrArg applyIfIdle stays).trans (applyIfIdle_none fun pending => quiet ((congrArg CfgSt.state (leftService_cfg s p)).symm.trans pending))

/-! ### A part that goes absent -/

/-- No job of this part follows an absent part with its plough (R258). -/
def NoPloughs (s : State) : Prop := ∀ c < 8, (ctxOf s c).loaded = true → autoPlough s c = false ∨ fabricJob s c = 0

theorem NoPloughs.of_same {s t : State} (h : NoPloughs s) (job : t.job = s.job) (cfg : t.cfg = s.cfg) : NoPloughs t := by
  intro c hc loaded
  rw [ctxOf_of_job job] at loaded
  rw [autoPlough, fabricJob, live_of_cfg cfg]
  exact h c hc loaded

theorem forEach_same {α : Type} {l : List α} {s : State} {f : State → α → State} (same : ∀ a ∈ l, f s a = s) : forEach l s f = s := by
  induction l with
  | nil => rfl
  | cons a l ih =>
    refine (congrArg (forEach l · f) (same a List.mem_cons_self)).trans (ih fun b hb => same b (List.mem_cons_of_mem a hb))

/-- The part has declared another one absent, before any job of its own is ploughed (R254, R255, R257). -/
def declared (s : State) (x cause b23 : Nat) (port : Option Nat) : State :=
  let s1 : State := { s with fab := { s.fab with absent := s.fab.absent ++ [(x, cause)] } }
  let s3 := flood (refollow (cutLinks s1 x)) 0x10 0 (noticeBytes x b23 cause 0) port
  if isNeighbour s3 x then raisePart s3 0x0106 { cause := cause, coords := x } else s3

theorem declared_kept {C : List Part} {z s : State} {x cause b23 : Nat} {port : Option Nat}
    (hC : ([.out, .hostMem, .fab, .host, .tel] : List Part) ⊆ C) (h : Kept C z s) : Kept C z (declared s x cause b23 port) := by
  have entered : Kept C z { s with fab := { s.fab with absent := s.fab.absent ++ [(x, cause)] } } :=
    ⟨h.pending, h.free, h.out, h.counter, h.bound, h.mems, fun p hp => Part.same_trans (h.frame p hp) (by
      cases p <;> first | exact rfl | exact ⟨rfl, rfl⟩ | exact absurd (hC (by decide)) hp)⟩
  have flooded := flood_kept (kind := 0x10) (job := 0) (payload := noticeBytes x b23 cause 0) (except := port) (Part.subs hC (by decide))
    (refollow_kept (Part.subs hC (by decide)) (cutLinks_kept (x := x) (Part.subs hC (by decide)) entered))
  exact Kept.ite (raisePart_kept (Part.subs hC (by decide)) flooded) flooded

theorem absentNow_declared {s : State} {x : Nat} (room : s.fab.absent.length < 64) (jobs : NoPloughs s) (here : isAbsent s x = false)
    (cause b23 : Nat) (port : Option Nat) : absentNow s x cause b23 port = declared s x cause b23 port := by
  have kept := declared_kept (x := x) (cause := cause) (b23 := b23) (port := port) (List.Subset.refl _) (Kept.refl _ s)
  have still := jobs.of_same (kept.frame .job (by decide)) (kept.frame .cfg (by decide))
  have notFull : decide (64 ≤ s.fab.absent.length) = false := decide_eq_false (by omega)
  have noPlough : forEach (loadedCtxs (declared s x cause b23 port)) (declared s x cause b23 port) (fun u c =>
      if fabricJob u c ≠ 0 ∧ physInBox u c x ∧ autoPlough u c then ploughSpread u c .abort 2 else u) = declared s x cause b23 port := by
    refine forEach_same fun c hc => if_neg ?_
    obtain ⟨below, loaded⟩ := List.mem_filter.1 hc
    rintro ⟨spans, -, follows⟩
    rcases still c (List.mem_range.1 below) loaded with off | alone
    · rw [off] at follows; exact absurd follows (by decide)
    · exact spans alone
  refine Eq.trans ?_ noPlough
  simp only [absentNow, here, notFull, Bool.false_eq_true, if_false, false_and, declared]

/-- Links that leave service and traffic sent another way change no entry of the absent table, and bring no link back. -/
theorem cutLinks_keeps {P : State → Prop} (fall : ∀ u p, P u → P (outLink u p)) (move : ∀ {u v}, Traffic u v → P u → P v) {s : State}
    (h : P s) (x : Nat) : P (cutLinks s x) :=
  forEach_keeps (fun u p hu => move ((Traffic.refl u).reroute p) hu) (forEach_keeps (fun u p hu => fall u p hu) h)

theorem declared_keeps {P : State → Prop} (fall : ∀ u p, P u → P (outLink u p)) (move : ∀ {u v}, Traffic u v → P u → P v)
    (follow : ∀ u, P u → P (refollow u)) (event : ∀ u code f, P u → P (raisePart u code f)) {s : State} {x cause b23 : Nat} {port : Option Nat}
    (h : P { s with fab := { s.fab with absent := s.fab.absent ++ [(x, cause)] } }) : P (declared s x cause b23 port) := by
  have flooded : P (flood (refollow (cutLinks { s with fab := { s.fab with absent := s.fab.absent ++ [(x, cause)] } } x)) 0x10 0
      (noticeBytes x b23 cause 0) port) :=
    move ((Traffic.refl _).flood _ _ _ _) (follow _ (cutLinks_keeps fall move h x))
  unfold declared
  dsimp only
  split
  · exact event _ _ _ flooded
  · exact flooded

theorem declared_absent (s : State) (x cause b23 : Nat) (port : Option Nat) :
    (declared s x cause b23 port).fab.absent = s.fab.absent ++ [(x, cause)] :=
  declared_keeps (P := fun u => u.fab.absent = s.fab.absent ++ [(x, cause)]) (fun u p h => (chgLink_absent u p _).trans h)
    (fun moved h => moved.absent.trans h) (fun u h => (refollow_absent u).trans h)
    (fun u code f h => (congrArg FabSt.absent (raisePart_fab u code f)).trans h) rfl

theorem declared_out {s : State} {p : Nat} (out : (linkOf s p).out = true) (x cause b23 : Nat) (port : Option Nat) :
    (linkOf (declared s x cause b23 port) p).out = true :=
  declared_keeps (P := fun u => (linkOf u p).out = true)
    (fun u q h => by
      by_cases own : p = q
      · rw [own, outLink_out]
      · rw [linkOf_outLink_ne own]; exact h)
    (fun moved h => (out_of_idle (moved.idle p)).trans h) (fun u h => by rw [linkOf_refollow]; exact h)
    (fun u code f h => by rw [linkOf_of_links (congrArg FabSt.links (raisePart_fab u code f))]; exact h) out

/-- A part that is declared absent is in the absent table, whatever was there, and no link comes back for it (R255). -/
theorem goAbsent_spec {s : State} (room : s.fab.absent.length < 64) (quiet : s.cfg.state ≠ 3) (jobs : NoPloughs s) (x cause b23 : Nat)
    (port : Option Nat) : isAbsent (goAbsent s x cause b23 port) x = true ∧
      ∀ p, (linkOf s p).out = true → (linkOf (goAbsent s x cause b23 port) p).out = true := by
  have settles : ∀ {t : State}, t.cfg = s.cfg → applyIfIdle t = t := fun cfg =>
    applyIfIdle_none fun pending => quiet ((congrArg CfgSt.state cfg).symm.trans pending)
  cases here : isAbsent s x with
  | true =>
    have stays : goAbsent s x cause b23 port = s := by rw [goAbsent, absentNow, if_pos here, settles rfl]
    rw [stays]
    exact ⟨here, fun _ h => h⟩
  | false =>
    have kept := declared_kept (x := x) (cause := cause) (b23 := b23) (port := port) (List.Subset.refl _) (Kept.refl _ s)
    rw [goAbsent, absentNow_declared room jobs here, settles (kept.frame .cfg (by decide))]
    refine ⟨?_, fun p out => declared_out out x cause b23 port⟩
    rw [isAbsent, declared_absent]
    simp

/-- Without another port to it, the neighbour of a link that leaves service goes absent (R243, R254). -/
theorem linkLost_alone {s : State} {p n : Nat} (cabled : neighbour s p = some n)
    (alone : ∀ q < 12, q ≠ p → neighbour s q = some n → portPresent s q = false) (untested : (linkOf s (twinOf p)).prbs = false) (cause : Nat) :
    linkLost s p cause = goAbsent (leftService s p) n cause (ownCoord s) none := by
  have cfg := leftService_cfg s p
  have gone : ∀ q ∈ List.range 12, ¬ (decide (neighbour (leftService s p) q = some n) && portPresent (leftService s p) q) = true := by
    intro q hq present
    obtain ⟨cable, up⟩ := (Bool.and_eq_true _ _).mp present
    rw [decide_eq_true_eq, neighbour_of_cfg cfg] at cable
    by_cases own : q = p
    · subst own
      rw [not_portPresent_of_out (leftService_out untested)] at up
      exact absurd up (by decide)
    · rw [leftService_present untested own, alone q (List.mem_range.1 hq) own cable] at up
      exact absurd up (by decide)
  refine congrArg applyIfIdle ?_
  show portsOut (leftService s p) p cause = _
  unfold portsOut
  rw [neighbour_of_cfg cfg, cabled]
  refine (if_neg ?_).trans (by rw [ownCoord_of_cfg cfg])
  rw [List.any_eq_true]
  rintro ⟨q, hq, present⟩
  exact gone q hq present

/-! ### The obligation -/

/-- What a link with a twin that leaves service comes to (R243, R254). -/
theorem linkLost_twin_spec {s : State} {p n : Nat} (port : p < 12) (cabled : neighbour s p = some n) (twin : portPresent s (twinOf p) = true)
    (untested : (linkOf s (twinOf p)).prbs = false) (quiet : s.cfg.state ≠ 3) (cause : Nat) :
    (linkOf (linkLost s p cause) p).out = true ∧ inService (linkLost s p cause) p = false ∧
      (linkLost s p cause).fab.absent = s.fab.absent ∧
      ∀ {C : List Part} {z : State}, ([.out, .hostMem, .fab, .host, .tel] : List Part) ⊆ C → Kept C z s → Kept C z (linkLost s p cause) := by
  rw [linkLost_twin port cabled twin untested quiet]
  have out := leftService_out untested
  exact ⟨out, not_inService_of_out out, leftService_absent untested, leftService_kept⟩

theorem linkLost_alone_spec {s : State} {p n : Nat} (cabled : neighbour s p = some n)
    (alone : ∀ q < 12, q ≠ p → neighbour s q = some n → portPresent s q = false) (untested : (linkOf s (twinOf p)).prbs = false)
    (quiet : s.cfg.state ≠ 3) (room : s.fab.absent.length < 64) (jobs : NoPloughs s) (cause : Nat) :
    (linkOf (linkLost s p cause) p).out = true ∧ isAbsent (linkLost s p cause) n = true := by
  have kept := leftService_kept (p := p) (List.Subset.refl _) (Kept.refl _ s)
  have cfg := leftService_cfg s p
  obtain ⟨absent, out⟩ := goAbsent_spec (s := leftService s p) (by rw [leftService_absent untested]; exact room)
    (fun pending => quiet ((congrArg CfgSt.state cfg).symm.trans pending)) (jobs.of_same (kept.frame .job (by decide)) cfg) n cause (ownCoord s) none
  rw [linkLost_alone cabled alone untested]
  exact ⟨out p (leftService_out untested), absent⟩

section

variable (s : State) (code : Nat) (f : EvF)

theorem linkOf_raisePart (q : Nat) : linkOf (raisePart s code f) q = linkOf s q := linkOf_of_links (congrArg FabSt.links (raisePart_fab s code f)) q

theorem raisePart_cfg : (raisePart s code f).cfg = s.cfg := (raisePart_kept (List.Subset.refl _) (Kept.refl _ s)).frame .cfg (by decide)

theorem raisePart_job : (raisePart s code f).job = s.job := (raisePart_kept (List.Subset.refl _) (Kept.refl _ s)).frame .job (by decide)

theorem portPresent_raisePart (q : Nat) : portPresent (raisePart s code f) q = portPresent s q :=
  portPresent_of_idle (by rw [linkOf_raisePart])

theorem neighbour_raisePart (q : Nat) : neighbour (raisePart s code f) q = neighbour s q := neighbour_of_cfg (raisePart_cfg s code f) q

end

/-- A link that retrains on a half of its lanes (R241). -/
def retrainsOn (s : State) (p half bad : Nat) : State :=
  afterOut (raisePart (chgLink s p fun l =>
    { l with state := .equalise, lanes := half, bad := bad, agreed := true, credits := [], hops := 0xFF }) 0x0102 { inst := p, va := half }) p

theorem training_of_idle {l m : Link} (same : idleLink l = idleLink m) : l.state = m.state ∧ l.lanes = m.lanes :=
  ⟨(congrArg Link.state same :), (congrArg Link.lanes same :)⟩

theorem retrainsOn_spec {s : State} {p : Nat} (untested : (linkOf s (twinOf p)).prbs = false) (half bad : Nat) :
    (linkOf (retrainsOn s p half bad) p).state = .equalise ∧ (linkOf (retrainsOn s p half bad) p).lanes = half ∧
      inService (retrainsOn s p half bad) p = false ∧ (retrainsOn s p half bad).fab.absent = s.fab.absent ∧
      s.changesOnly [.out, .hostMem, .fab, .host, .tel] (retrainsOn s p half bad) := by
  have free : (linkOf (raisePart (chgLink s p fun l =>
      { l with state := .equalise, lanes := half, bad := bad, agreed := true, credits := [], hops := 0xFF }) 0x0102
      { inst := p, va := half }) (twinOf p)).prbs = false := by
    rw [linkOf_raisePart, linkOf_chgLink_ne (twinOf_ne p), untested]
  have link := afterOut_idle free p
  rw [linkOf_raisePart, linkOf_chgLink_same] at link
  obtain ⟨state, lanes⟩ := training_of_idle link
  have atWork : (linkOf (retrainsOn s p half bad) p).state = .equalise := state
  refine ⟨atWork, lanes, by simp [inService, atWork], ?_, ?_⟩
  · rw [retrainsOn, afterOut_absent _ free, raisePart_fab, chgLink_absent]
  · exact (afterOut_kept (List.Subset.refl _) (raisePart_kept (by decide) (chgLink_kept (by decide) (Kept.refl _ s)))).frame

/-! ### Lanes that fail -/

/-- Failing lanes of both halves meet whatever lanes carry traffic (R241). -/
theorem and_activeLanes_ne_zero {bad : Nat} (low : 0 < bad % 16) (high : 0 < bad / 16) (small : bad < 256) (l : Link) :
    bad &&& activeLanes l ≠ 0 := by
  have lowHalf : bad &&& 0x0F = bad % 16 := Nat.and_two_pow_sub_one_eq_mod bad 4
  have highHalf : (bad &&& 0xF0) / 2 ^ 4 = bad / 16 := by
    rw [Nat.and_div_two_pow, show 0xF0 / 2 ^ 4 = 2 ^ 4 - 1 from rfl, Nat.and_two_pow_sub_one_eq_mod]
    omega
  have all : bad &&& 0xFF = bad % 256 := Nat.and_two_pow_sub_one_eq_mod bad 8
  unfold activeLanes
  split
  · omega
  · split <;> omega

/-- A link of all lanes on one half of which lanes fail retrains on the other half (R241). -/
theorem linkDegradedEffect_half {s : State} {p half : Nat} {bad : BitVec 8} (served : inService s p = true) (wide : (linkOf s p).lanes = 0)
    (sound : (linkOf s p).bad = 0)
    (oneHalf : (bad.toNat % 16 = 0 ∧ 0 < bad.toNat / 16 ∧ half = 1) ∨ (0 < bad.toNat % 16 ∧ bad.toNat / 16 = 0 ∧ half = 2)) :
    linkDegradedEffect p bad s = retrainsOn s p half bad.toNat := by
  have small := bad.isLt
  have active : activeLanes (linkOf s p) = 2 ^ 8 - 1 := by simp [activeLanes, wide]
  have hit : bad.toNat &&& activeLanes (linkOf s p) ≠ 0 := by
    rw [active, Nat.and_two_pow_sub_one_eq_mod]
    omega
  have all : (linkOf s p).bad ||| bad.toNat = bad.toNat := by rw [sound, Nat.zero_or]
  unfold linkDegradedEffect
  simp only [all, if_neg (not_or.2 ⟨not_not.2 served, hit⟩)]
  rcases oneHalf with ⟨low, high, rfl⟩ | ⟨low, high, rfl⟩
  · simp [low, retrainsOn]
  · simp [low.ne', high, retrainsOn]

/-- With failing lanes in both halves there is no half to retrain on: the link leaves service (R241). -/
theorem linkDegradedEffect_both {s : State} {p : Nat} {bad : BitVec 8} (served : inService s p = true) (low : 0 < bad.toNat % 16)
    (high : 0 < bad.toNat / 16) :
    linkDegradedEffect p bad s = linkDownEffect p (updLink s p fun l => { l with bad := l.bad ||| bad.toNat }) := by
  have hit := and_activeLanes_ne_zero low high bad.isLt (linkOf s p)
  have lowBad : ((linkOf s p).bad ||| bad.toNat) % 16 ≠ 0 := by
    rw [show 16 = 2 ^ 4 from rfl, Nat.or_mod_two_pow]
    exact (Nat.lt_of_lt_of_le low Nat.right_le_or).ne'
  have highBad : ((linkOf s p).bad ||| bad.toNat) / 16 ≠ 0 := by
    rw [show 16 = 2 ^ 4 from rfl, Nat.or_div_two_pow]
    exact (Nat.lt_of_lt_of_le high Nat.right_le_or).ne'
  have still : inService (updLink s p fun l => { l with bad := l.bad ||| bad.toNat }) p = true := by
    simpa [inService] using served
  have same : (updLink s p fun l => { l with bad := (linkOf s p).bad ||| bad.toNat }) =
      updLink s p fun l => { l with bad := l.bad ||| bad.toNat } := by
    simp only [updLink, mupd, linkOf]
  unfold linkDegradedEffect linkDownEffect
  rw [if_pos still, ← same]
  simp only [if_neg (not_or.2 ⟨not_not.2 served, hit⟩), lowBad, highBad, decide_false, true_and, if_true]

/-- Settles O14: a link that leaves service stays alone in that while its twin is present; otherwise its neighbour goes absent. A
retraining link does neither. -/
theorem linksLeaveService : Obligations.LinksLeaveService := by
  unfold Obligations.LinksLeaveService
  have event : ∀ (s : State) (p : Nat), Kept [.out, .hostMem, .fab, .host, .tel] s (raisePart s 0x0103 { inst := p }) := fun s p =>
    raisePart_kept (by decide) (Kept.refl _ s)
  refine ⟨fun s p n served cabled twin untested quiet => ?_, fun s p n served cabled alone untested quiet room jobs => ?_,
    fun s p n down inUse cabled twin untested quiet => ?_, fun s p bad served untested wide sound low high => ?_,
    fun s p bad served untested wide sound low high => ?_, fun s p bad served low high => ?_⟩
  · have leaves : ∀ cause, (linkOf (linkDownAs s p.val cause) p.val).out = true ∧ inService (linkDownAs s p.val cause) p.val = false ∧
        (linkDownAs s p.val cause).fab.absent = s.fab.absent ∧
        s.changesOnly [.out, .hostMem, .fab, .host, .tel] (linkDownAs s p.val cause) := fun cause => by
      obtain ⟨out, gone, absent, kept⟩ := linkLost_twin_spec (s := raisePart s 0x0103 { inst := p.val }) (p := p.val) (n := n) p.isLt
        (by rw [neighbour_raisePart]; exact cabled) (by rw [portPresent_raisePart]; exact twin) (by rw [linkOf_raisePart]; exact untested)
        (by rw [raisePart_cfg]; exact quiet) cause
      exact ⟨out, gone, absent.trans (congrArg FabSt.absent (raisePart_fab s _ _)), (kept (List.Subset.refl _) (event s p.val)).frame⟩
    exact ⟨⟨_, congrArg Host.Outcome.next (if_pos served), leaves 1⟩, ⟨_, congrArg Host.Outcome.next (if_pos served), leaves 2⟩⟩
  · have leaves : ∀ cause, (linkOf (linkDownAs s p.val cause) p.val).out = true ∧ isAbsent (linkDownAs s p.val cause) n = true := fun cause =>
      linkLost_alone_spec (s := raisePart s 0x0103 { inst := p.val }) (by rw [neighbour_raisePart]; exact cabled)
        (fun q hq other cable => by rw [portPresent_raisePart]; exact alone q hq other (by rwa [neighbour_raisePart] at cable))
        (by rw [linkOf_raisePart]; exact untested) (by rw [raisePart_cfg]; exact quiet) (by rw [raisePart_fab]; exact room)
        (NoPloughs.of_same jobs (raisePart_job s _ _) (raisePart_cfg s _ _)) cause
    exact ⟨⟨_, congrArg Host.Outcome.next (if_pos served), leaves 1⟩, ⟨_, congrArg Host.Outcome.next (if_pos served), leaves 2⟩⟩
  · obtain ⟨out, -, absent, kept⟩ := linkLost_twin_spec p.isLt cabled twin untested quiet 1
    exact ⟨_, congrArg Host.Outcome.next (if_pos ⟨down, by simp [inUse]⟩), out, absent, (kept (List.Subset.refl _) (Kept.refl _ s)).frame⟩
  · exact ⟨_, congrArg Host.Outcome.next (linkDegradedEffect_half served wide sound (Or.inl ⟨low, high, rfl⟩)), retrainsOn_spec untested 1 _⟩
  · exact ⟨_, congrArg Host.Outcome.next (linkDegradedEffect_half served wide sound (Or.inr ⟨low, high, rfl⟩)), retrainsOn_spec untested 2 _⟩
  · exact congrArg Host.Outcome.next (linkDegradedEffect_both served low high)

end Sys2Proof.Proofs
end

section
/-! The timebase and heartbeats (R236 to R238, R252 to R254): what TIME_SEND and HEARTBEAT_SEND send on each port, what a TIME packet
and a heartbeat that arrive change, and the master's setting of the timebase. -/

namespace Sys2Proof.Proofs

open Sys2Proof Sys2Proof.Machine Sys2Proof.Laws

/-! ### One port of a round -/

/-- Another port's part of a round leaves all that port p reads: its own link, and everything of the switchback but the links. -/
structure Beside (p : Nat) (s t : State) : Prop where
  kept : Kept [.out, .fab, .tel] s t
  fab : t.fab = { s.fab with links := t.fab.links }
  link : linkOf t p = linkOf s p

theorem Beside.refl (p : Nat) (s : State) : Beside p s s := ⟨Kept.refl _ s, rfl, rfl⟩

theorem Beside.trans {p : Nat} {s t u : State} (h : Beside p s t) (k : Beside p t u) : Beside p s u :=
  ⟨h.kept.trans k.kept, by rw [k.fab, h.fab], k.link.trans h.link⟩

/-- A round over the ports does port p's part in a state beside the first, and ends beside that part's. -/
theorem forEach_ports {f : State → Nat → State} {p : Nat} (port : p < 12) (others : ∀ u q, q ≠ p → Beside p u (f u q)) (s : State) :
    ∃ u, Beside p s u ∧ Beside p (f u p) (forEach (List.range 12) s f) := by
  obtain ⟨before, after, split⟩ := List.append_of_mem (List.mem_range.2 port)
  have distinct : (before ++ p :: after).Nodup := split ▸ List.nodup_range
  obtain ⟨-, tail, apart⟩ := List.nodup_append.1 distinct
  have notBefore : ∀ q ∈ before, q ≠ p := fun q hq => apart q hq p List.mem_cons_self
  have notAfter : ∀ q ∈ after, q ≠ p := fun q hq own => (List.nodup_cons.1 tail).1 (own ▸ hq)
  have round : ∀ (l : List Nat) (u : State), (∀ q ∈ l, q ≠ p) → Beside p u (forEach l u f) := by
    intro l
    induction l with
    | nil => exact fun u _ => Beside.refl p u
    | cons q l ih => exact fun u apart => (others u q (apart q List.mem_cons_self)).trans (ih _ fun r hr => apart r (List.mem_cons_of_mem q hr))
  refine ⟨forEach before s f, round before s notBefore, ?_⟩
  have joined : forEach (before ++ p :: after) s f = forEach after (f (forEach before s f) p) f := List.foldl_append
  rw [split, joined]
  exact round after _ notAfter

theorem Beside.time {p : Nat} {s t : State} (h : Beside p s t) : now t = now s := (congrArg FabSt.time h.fab :)

theorem Beside.cfg {p : Nat} {s t : State} (h : Beside p s t) : t.cfg = s.cfg := h.kept.frame .cfg (by decide)

theorem Beside.inService {p : Nat} {s t : State} (h : Beside p s t) : inService t p = inService s p := inService_of_idle (by rw [h.link])

theorem Beside.isAbsent {p : Nat} {s t : State} (h : Beside p s t) (n : Nat) : isAbsent t n = isAbsent s n := by
  have absent : t.fab.absent = s.fab.absent := (congrArg FabSt.absent h.fab :)
  rw [Machine.isAbsent, absent, Machine.isAbsent]

/-! ### TIME packets sent -/

/-- Port p's part of TIME_SEND (R236, R237). -/
def timeTurn (s : State) (p : Nat) : State :=
  match neighbour s p with
  | some nb =>
    if ¬ inService s p then s
    else if isAbsent s nb then countDiscard s
    else sendOn (updLink s p fun l => { l with timeSeq := (l.timeSeq + 1) % 65536 }) p { p := timePacket s p nb }
  | none => s

theorem timeSendEffect_eq (s : State) : timeSendEffect s = forEach (List.range 12) s timeTurn := rfl

/-- The port that TIME_SEND has numbered a packet for. -/
def numbered (s : State) (p : Nat) : State := updLink s p fun l => { l with timeSeq := (l.timeSeq + 1) % 65536 }

theorem linkOf_numbered (s : State) (p : Nat) :
    linkOf (numbered s p) p = { linkOf s p with timeSeq := ((linkOf s p).timeSeq + 1) % 65536 } := by rw [numbered, linkOf_updLink, if_pos rfl]

theorem timeTurn_sends {s : State} {p n : Nat} (cabled : neighbour s p = some n) (served : inService s p = true) (here : isAbsent s n = false) :
    timeTurn s p = sendOn (numbered s p) p { p := timePacket s p n } := by
  simp [timeTurn, cabled, served, here, numbered]

theorem sendOn_own_beside {p q : Nat} (other : q ≠ p) (s : State) (x : Packet) : Beside q s (sendOn s p { p := x }) := by
  refine ⟨sendOn_kept (by decide) (Kept.refl _ s), ((Traffic.refl s).sendOn p _).fab, ?_⟩
  have moved : ∀ f, linkOf (updLink s p f) q = linkOf s q := fun f => by rw [linkOf_updLink, if_neg other]
  unfold sendOn
  dsimp only
  split
  · exact moved _
  · exact moved _

theorem timeTurn_beside {p q : Nat} (other : q ≠ p) (s : State) : Beside q s (timeTurn s p) := by
  have number : Beside q s (numbered s p) := ⟨updLink_kept (by decide) (Kept.refl _ s), rfl, by rw [numbered, linkOf_updLink, if_neg other]⟩
  unfold timeTurn
  split
  · split
    · exact Beside.refl q s
    · split
      · exact ⟨countDiscard_kept (by decide) (Kept.refl _ s), rfl, rfl⟩
      · exact number.trans (sendOn_own_beside other _ _)
  · exact Beside.refl q s

/-- A TIME packet is made from the port's link, the timebase and the configuration (R237). -/
theorem timePacket_beside {p : Nat} {s t : State} (h : Beside p s t) (n : Nat) : timePacket t p n = timePacket s p n := by
  have locked : t.fab.locked = s.fab.locked := (congrArg FabSt.locked h.fab :)
  have holdover : t.fab.holdover = s.fab.holdover := (congrArg FabSt.holdover h.fab :)
  have hops : t.fab.hops = s.fab.hops := (congrArg FabSt.hops h.fab :)
  have master : isMaster t = isMaster s := by rw [isMaster, live_of_cfg h.cfg, isMaster]
  have own : ownHops t = ownHops s := by
    unfold ownHops
    rw [master, locked, holdover, hops]
  simp only [timePacket, h.link, h.time, ownCoord_of_cfg h.cfg, own, locked, holdover]

theorem timeTurn_time (s : State) (p : Nat) : (timeTurn s p).fab.time = s.fab.time := by
  unfold timeTurn
  split
  · split
    · rfl
    · split
      · rfl
      · exact (congrArg FabSt.time ((Traffic.refl _).sendOn p _).fab :)
  · rfl

theorem timeSendEffect_time (s : State) : (timeSendEffect s).fab.time = s.fab.time :=
  forEach_keeps (P := fun u => u.fab.time = s.fab.time) (fun u p h => (timeTurn_time u p).trans h) rfl

theorem tSent_departed {p : Packet} (time : p.ty = 0x0A) (s : State) (port : Nat) : (linkOf (departed s port p) port).tSent = now s := by
  have link := linkOf_updLink s port (fun l => { l with
    credits := mupd l.credits 0 p.vc (· - flits p)
    tSent := if p.ty = 0x0A then now s else l.tSent
    replay := replayKeep l.replay p (now s) }) port
  rw [if_pos rfl] at link
  rw [show linkOf (departed s port p) port = _ from link]
  exact if_pos time

/-- TIME_SEND on a port that can send at once (R236, R237). -/
theorem timeTurn_now {s : State} {p n : Nat} (cabled : neighbour s p = some n) (served : inService s p = true) (here : isAbsent s n = false)
    (first : ∀ x ∈ (linkOf s p).queue, x.p.vc ≠ 7) (room : creditNeed (timePacket s p n) false ≤ creditsOn s p 7) :
    (linkOf (timeTurn s p) p).tSent = now s ∧ (linkOf (timeTurn s p) p).timeSeq = ((linkOf s p).timeSeq + 1) % 65536 ∧
      OutMsg.packet (some p) (stamped s (timePacket s p n)) ∈ (timeTurn s p).out := by
  have leaves : timeTurn s p = departed (numbered s p) p (stamped s (timePacket s p n)) := by
    rw [timeTurn_sends cabled served here, sendOn_now (by rw [linkOf_numbered]; exact first) (by rw [creditsOn, linkOf_numbered]; exact room)]
    rfl
  rw [leaves]
  refine ⟨tSent_departed rfl _ p, ?_, List.mem_append_right _ List.mem_cons_self⟩
  rw [linkOf_departed, linkOf_numbered]

/-- TIME_SEND on a port that must wait for credits (R210, R236). -/
theorem timeTurn_waits {s : State} {p n : Nat} (cabled : neighbour s p = some n) (served : inService s p = true) (here : isAbsent s n = false)
    (waits : (∃ x ∈ (linkOf s p).queue, x.p.vc = 7) ∨ creditsOn s p 7 < creditNeed (timePacket s p n) false) :
    (linkOf (timeTurn s p) p).tSent = (linkOf s p).tSent ∧ (linkOf (timeTurn s p) p).timeSeq = ((linkOf s p).timeSeq + 1) % 65536 ∧
      { p := timePacket s p n } ∈ (linkOf (timeTurn s p) p).queue := by
  rw [timeTurn_sends cabled served here, sendOn_waits (by rw [creditsOn, linkOf_numbered]; exact waits), linkOf_updLink, if_pos rfl, linkOf_numbered]
  exact ⟨rfl, rfl, List.mem_append_right _ List.mem_cons_self⟩

/-! ### TIME packets received -/

theorem refollow_time (s : State) : (refollow s).fab.time = s.fab.time := (congrArg FabSt.time (refollow_fab s) :)

theorem refollow_locked (s : State) : (refollow s).fab.locked = s.fab.locked := (congrArg FabSt.locked (refollow_fab s) :)

/-- Following a neighbour moves no link; it steps the timebase forward at the first lock only (R236). -/
theorem followTime_spec (s : State) (v : Nat) : (followTime s v).fab.links = s.fab.links ∧ s.fab.time ≤ (followTime s v).fab.time ∧
    (s.fab.locked = true → (followTime s v).fab.time = s.fab.time) := by
  unfold followTime
  split
  · next unlocked => exact ⟨rfl, le_max_left .., fun locked => by simp [locked] at unlocked⟩
  · exact ⟨rfl, le_refl _, fun _ => rfl⟩

/-- The port has taken a TIME packet, and the time followed is chosen again (R236, R237). -/
def timeTaken (s : State) (p : Nat) (k : Packet) (delay : Nat) : State :=
  refollow (updLink s p fun l => { l with tEcho := lat k.payload 0 8, tRecv := now s, hops := lat k.payload 0x18 1, delay := delay })

theorem linkOf_timeTaken (s : State) (p : Nat) (k : Packet) (delay : Nat) : linkOf (timeTaken s p k delay) p =
    { linkOf s p with tEcho := lat k.payload 0 8, tRecv := now s, hops := lat k.payload 0x18 1, delay := delay } := by
  rw [timeTaken, linkOf_refollow, linkOf_updLink, if_pos rfl]

/-- The delay of the link by a TIME packet: half the round trip of the part's own last packet, where it echoes that one (R237). -/
def measuredDelay (s : State) (p : Nat) (k : Packet) : Nat :=
  if decide (lat k.payload 8 8 = (linkOf s p).tSent ∧ 0 < lat k.payload 8 8) then
    ((now s - lat k.payload 8 8) - (lat k.payload 0 8 - lat k.payload 0x10 8)) / 2
  else (linkOf s p).delay

/-- A TIME packet is taken, and its sender followed or not. -/
theorem timeEffect_cases {s : State} {p : Nat} {k : Packet} (time : k.ty = 0x0A) (own : k.dst = ownCoord s) (served : inService s p = true) :
    ∃ delay, timeEffect p k s = timeTaken s p k delay ∨ ∃ v, timeEffect p k s = followTime (timeTaken s p k delay) v := by
  refine ⟨measuredDelay s p k, ?_⟩
  rw [timeEffect, if_neg (by simp [time, own, served])]
  exact (ite_eq_or_eq _ _ _).symm.imp_right fun follows => ⟨_, follows⟩

/-- What a TIME packet for this part does to the port it came by and to the timebase (R236, R237). -/
theorem timeEffect_spec {s : State} {p : Nat} {k : Packet} (time : k.ty = 0x0A) (own : k.dst = ownCoord s) (served : inService s p = true) :
    (linkOf (timeEffect p k s) p).tEcho = lat k.payload 0 8 ∧ (linkOf (timeEffect p k s) p).tRecv = now s ∧
      (linkOf (timeEffect p k s) p).hops = lat k.payload 0x18 1 ∧ s.fab.time ≤ (timeEffect p k s).fab.time ∧
      (s.fab.locked = true → (timeEffect p k s).fab.time = s.fab.time) := by
  have same : ∀ delay, (timeTaken s p k delay).fab.time = s.fab.time := fun delay => refollow_time _
  have locked : ∀ delay, (timeTaken s p k delay).fab.locked = s.fab.locked := fun delay => refollow_locked _
  obtain ⟨delay, taken | ⟨v, follows⟩⟩ := timeEffect_cases time own served
  · rw [taken, linkOf_timeTaken, same]
    exact ⟨rfl, rfl, rfl, le_refl _, fun _ => rfl⟩
  · obtain ⟨links, forward, still⟩ := followTime_spec (timeTaken s p k delay) v
    rw [same] at forward still
    rw [locked] at still
    rw [follows, linkOf_of_links links, linkOf_timeTaken]
    exact ⟨rfl, rfl, rfl, forward, still⟩

/-! ### Heartbeats -/

/-- Port p's part of HEARTBEAT_SEND (R252, R253). -/
def beatTurn (s : State) (p : Nat) : State :=
  if inService s p then emit (updLink s p fun l => { l with hbSeq := (l.hbSeq + 1) % 65536 }) (.flit p (hbFlit s p)) else s

theorem heartbeatSendEffect_eq (s : State) : heartbeatSendEffect s = forEach (List.range 12) s beatTurn := rfl

theorem beatTurn_beside {p q : Nat} (other : q ≠ p) (s : State) : Beside q s (beatTurn s p) := by
  unfold beatTurn
  split
  · refine ⟨emit_kept (by decide) (updLink_kept (by decide) (Kept.refl _ s)), rfl, ?_⟩
    show linkOf (updLink _ _ _) q = _
    rw [linkOf_updLink, if_neg other]
  · exact Beside.refl q s

/-- A heartbeat is made from the port's link, the part's state and the configuration (R252, R253). -/
theorem hbFlit_beside {p : Nat} {s t : State} (h : Beside p s t) : hbFlit t p = hbFlit s p := by
  have boot : t.boot = s.boot := h.kept.frame .boot (by decide)
  have pwr : t.pwr = s.pwr := h.kept.frame .pwr (by decide)
  simp only [hbFlit, hbCode, boot, pwr, h.link, ownCoord_of_cfg h.cfg, live_of_cfg h.cfg]

theorem beatTurn_serves {s : State} {p : Nat} (served : inService s p = true) :
    OutMsg.flit p (hbFlit s p) ∈ (beatTurn s p).out ∧ (linkOf (beatTurn s p) p).hbSeq = ((linkOf s p).hbSeq + 1) % 65536 := by
  rw [beatTurn, if_pos served]
  refine ⟨List.mem_append_right _ List.mem_cons_self, ?_⟩
  show (linkOf (updLink _ _ _) p).hbSeq = _
  rw [linkOf_updLink, if_pos rfl]

/-- Settles O13: a round over the ports is each port's part of it, which the other parts do not touch; what arrives on a port
changes that port, or declares its peer absent. -/
theorem timebaseAndHeartbeats : Obligations.TimebaseAndHeartbeats := by
  unfold Obligations.TimebaseAndHeartbeats
  have timed : ∀ s : State, s.changesOnly [.out, .fab, .tel] (timeSendEffect s) := fun s =>
    (timeSendEffect_kept (List.Subset.refl _) (Kept.refl _ s)).frame
  refine ⟨fun s p n port cabled served here first room => ?_, fun s p n port cabled served here waits => ?_,
    fun s p k time own served => ?_, fun s r v ready master unset => ?_, fun s r v ready refused => ?_, fun s p port served => ?_,
    fun s p f served valid two three => ?_, fun s p f served valid code room quiet jobs => ?_, fun s p f bad => ?_⟩
  · obtain ⟨u, before, after⟩ := forEach_ports port (fun u q other => timeTurn_beside other.symm u) s
    rw [← timeSendEffect_eq] at after
    obtain ⟨sent, seq, out⟩ := timeTurn_now (s := u) ((neighbour_of_cfg before.cfg p).trans cabled) (before.inService.trans served)
      ((before.isAbsent n).trans here) (by rw [before.link]; exact first)
      (by rw [timePacket_beside before, creditsOn, before.link]; exact room)
    rw [before.time] at sent
    rw [before.link] at seq
    have stamp : stamped u (timePacket u p n) = stamped s (timePacket s p n) := by rw [timePacket_beside before, stamped, before.time, stamped]
    rw [stamp] at out
    exact ⟨timeSendEffect s, rfl, (congrArg Link.tSent after.link).trans sent, (congrArg Link.timeSeq after.link).trans seq, after.kept.out.subset out,
      timeSendEffect_time s, timed s⟩
  · obtain ⟨u, before, after⟩ := forEach_ports port (fun u q other => timeTurn_beside other.symm u) s
    rw [← timeSendEffect_eq] at after
    obtain ⟨sent, seq, queued⟩ := timeTurn_waits (s := u) ((neighbour_of_cfg before.cfg p).trans cabled) (before.inService.trans served)
      ((before.isAbsent n).trans here) (by rw [timePacket_beside before, creditsOn, before.link]; exact waits)
    rw [before.link] at sent seq
    rw [timePacket_beside before] at queued
    exact ⟨timeSendEffect s, rfl, (congrArg Link.tSent after.link).trans sent, (congrArg Link.timeSeq after.link).trans seq, by rw [after.link]; exact queued,
      timeSendEffect_time s, timed s⟩
  · obtain ⟨echo, recv, hops, forward, still⟩ := timeEffect_spec time own served
    exact ⟨_, rfl, echo, recv, hops, forward, still, (timeEffect_kept (List.Subset.refl _) (Kept.refl _ s)).frame⟩
  · have effect : timeSetEffect r.val v s =
        { s with fab := { s.fab with time := v.toNat, timeWasSet := true, locked := true, holdover := false, hops := 0, slew := 0 } } := by
      simp [timeSetEffect, ready, master, unset]
    refine ⟨_, congrArg Host.Outcome.next effect, rfl, rfl, rfl, rfl, ?_⟩
    intro part out
    cases part <;> first | exact rfl | exact ⟨rfl, rfl⟩ | exact absurd (List.mem_singleton.2 rfl) out
  · refine congrArg Host.Outcome.next ?_
    rcases refused with servant | set
    · simp [timeSetEffect, ready, servant]
    · simp [timeSetEffect, ready, set]
  · obtain ⟨u, before, after⟩ := forEach_ports port (fun u q other => beatTurn_beside other.symm u) s
    rw [← heartbeatSendEffect_eq] at after
    obtain ⟨out, seq⟩ := beatTurn_serves (s := u) (before.inService.trans served)
    rw [hbFlit_beside before] at out
    rw [before.link] at seq
    exact ⟨heartbeatSendEffect s, rfl, after.kept.out.subset out, (congrArg Link.hbSeq after.link).trans seq,
      (heartbeatSendEffect_kept (List.Subset.refl _) (Kept.refl _ s)).frame⟩
  · refine congrArg Host.Outcome.next ?_
    simp [heartbeatEffect, served, valid, two, three]
  · have gone := fun cause => (goAbsent_spec room quiet jobs (linkOf s p.val).peer cause (ownCoord s) none).1
    rcases code with two | three
    · refine ⟨_, congrArg Host.Outcome.next (?_ : heartbeatEffect p.val f s = _), gone 3⟩
      simp [heartbeatEffect, served, valid, two]
    · refine ⟨_, congrArg Host.Outcome.next (?_ : heartbeatEffect p.val f s = _), gone 4⟩
      simp [heartbeatEffect, served, valid, three]
  · refine congrArg Host.Outcome.next (if_neg ?_)
    rintro ⟨served, valid⟩
    rcases bad with off | invalid
    · rw [off] at served; exact absurd served (by decide)
    · rw [invalid] at valid; exact absurd valid (by decide)

end Sys2Proof.Proofs
end

section
/-! Remote writes and reads (R219, R220): what a packet of a posted burst and a READ_REQ do at their target. -/

namespace Sys2Proof.Proofs

open Sys2Proof Sys2Proof.Machine Sys2Proof.Laws

/-! ### What injecting a packet leaves alone -/

theorem mem_of_kept {C : List Part} {s t : State} (h : Kept C s t) (dev : Part.dev ∉ C) (scratch : Part.scratch ∉ C) (mem : Part.mem ∉ C) :
    t.mem = s.mem := by
  have bytes : t.mem.dev = s.mem.dev := h.frame .dev dev
  have ways : t.mem.scratch = s.mem.scratch := h.frame .scratch scratch
  have rest : t.mem = { s.mem with dev := t.mem.dev, scratch := t.mem.scratch } := h.frame .mem mem
  rw [rest, bytes, ways]

theorem inject_mem (s : State) (p : Packet) : (inject s p).mem = s.mem :=
  mem_of_kept (inject_kept (List.Subset.refl _) (Kept.refl _ s)) (by decide) (by decide) (by decide)

theorem inject_rx (s : State) (p : Packet) : (inject s p).fab.rx = s.fab.rx := (congrArg FabSt.rx ((Traffic.refl s).inject p).fab :)

/-! ### Entries of bursts -/

theorem rxOf_names (s : State) (p : Packet) : (rxOf s p).src = p.src ∧ (rxOf s p).tag = p.tag := by
  unfold rxOf
  split
  · next r found =>
    have named := List.find?_some found
    obtain ⟨src, tag, -, -⟩ := of_decide_eq_true named
    exact ⟨src, tag⟩
  · exact ⟨rfl, rfl⟩

/-- A burst of which every packet has been seen is forgotten (R219). -/
theorem putRx_whole {s : State} {r : RxSt} (whole : r.units = some (cdiv r.got 64)) :
    ∀ x ∈ (putRx s r).fab.rx, ¬ (x.src = r.src ∧ x.tag = r.tag) := by
  intro x listed
  rw [putRx, if_pos whole] at listed
  simpa [not_and_or, or_iff_not_imp_left] using (List.mem_filter.1 listed).2

theorem meetParts_quiet {s : State} (quiet : s.mem.upsets = []) (source ctx a n : Nat) : meetParts s source ctx a n = s := if_pos quiet

/-! ### Packets of a posted burst -/

theorem writeData_plain {p : Packet} (plain : p.ty = 1 ∨ p.aux.msb = false) : writeData p = (p.payload, none) := by
  refine if_neg ?_
  rintro ⟨last, signal⟩
  rcases plain with first | unsigned
  · omega
  · rw [unsigned] at signal; exact absurd signal (by decide)

/-- The entry of a packet's burst once the packet's bytes are counted in it; `last` are the units of a last packet (R219). -/
def rxCounted (s : State) (p : Packet) (last : Bool) : RxSt :=
  { rxOf s p with
    got := (rxOf s p).got + p.payload.length
    units := if last then some (fld p.aux 14 0) else (rxOf s p).units
    sig := if last then none else (rxOf s p).sig }

section

variable {s : State} {p : Packet} (quiet : s.mem.upsets = []) (own : p.dst = ownCoord s) (accepts : (rxOf s p).refused = false)

include quiet own accepts

/-- A packet that passes its check is written, and the burst answered once it is whole (R219, R220). -/
theorem writeEffect_passes {ty c : Nat} (type : p.ty = ty) (kind : ty = 1 ∨ ty = 2 ∧ p.aux.msb = false)
    (pass : packetCause s p 3 p.payload.length none = none) (job : targetCtx s p = some c) :
    writeEffect ty p s =
      if (rxCounted s p (decide (ty = 2))).units = some (cdiv (rxCounted s p (decide (ty = 2))).got 64) then
        burstWhole (putRx (devWrite s none p.addr p.payload) (rxCounted s p (decide (ty = 2)))) p c (rxCounted s p (decide (ty = 2)))
      else putRx (devWrite s none p.addr p.payload) (rxCounted s p (decide (ty = 2))) := by
  have plain : writeData p = (p.payload, none) := writeData_plain (kind.imp type.trans And.right)
  unfold writeEffect
  rw [if_neg (by simp [type, own])]
  simp only [plain, meetParts_quiet quiet, accepts, Bool.false_eq_true, if_false, pass, job, rxCounted, decide_eq_true_eq]

theorem writeEffect_fails {k x : Nat} (type : p.ty = 1) (fails : packetCause s p 3 p.payload.length none = some (k, x)) :
    ∃ r, writeEffect 1 p s = inject (putRx s r) (lateReply s p k x) := by
  have plain : writeData p = (p.payload, none) := writeData_plain (Or.inl type)
  unfold writeEffect
  rw [if_neg (by simp [type, own])]
  simp only [plain, meetParts_quiet quiet, accepts, Bool.false_eq_true, if_false, fails]
  exact ⟨_, rfl⟩

end

/-- The bytes of a packet written through the direct window are there, and every other byte of device memory stands. -/
theorem devWrite_lands {t s : State} {a : Nat} {bs : List Byte} (dev : t.mem.dev = (devWrite s none a bs).mem.dev)
    (fits : bs.length + a ≤ 0x9000000000) :
    devRead t a bs.length = bs ∧ ∀ x, (∀ i < bs.length, devAddr x ≠ devAddr (a + i)) → devGet t x = devGet s x :=
  ⟨(devRead_of_dev dev a _).trans (devRead_devWrite s none a bs fits),
    fun x off => (devGet_of_dev dev x).trans (devGet_devWrite s none a bs x off)⟩

/-! ### Reads -/

theorem cdiv_one {n : Nat} (asked : 0 < n) (few : n ≤ 512) : cdiv n 512 = 1 := by unfold cdiv; omega

theorem readReqEffect_passes {s : State} {p : Packet} (quiet : s.mem.upsets = []) (type : p.ty = 5) (own : p.dst = ownCoord s)
    (asked : 0 < p.aux.toNat) (few : p.aux.toNat ≤ 512) (pass : packetCause s p 2 p.aux.toNat none = none) :
    readReqEffect p s = inject s (responseTo s p 6 0 (devRead s p.addr p.aux.toNat)) := by
  unfold readReqEffect
  rw [if_neg (by simp [type, own])]
  simp only [meetRanges_quiet quiet, pass, cdiv_one asked few]
  simp [forEach, responseTo, List.take_of_length_le, few]

theorem readReqEffect_fails {s : State} {p : Packet} {k x : Nat} (quiet : s.mem.upsets = []) (type : p.ty = 5) (own : p.dst = ownCoord s)
    (fails : packetCause s p 2 p.aux.toNat none = some (k, x)) :
    readReqEffect p s = inject s (responseTo s p 7 (BitVec.ofNat 32 k) []) := by
  unfold readReqEffect
  rw [if_neg (by simp [type, own])]
  simp only [meetRanges_quiet quiet, fails]

/-- Settles O30: a packet that passes its check is one write and one count in its burst's entry; one that fails is a reply. -/
theorem remoteWritesAndReads : Obligations.RemoteWritesAndReads := by
  unfold Obligations.RemoteWritesAndReads
  refine ⟨fun s p c quiet type own accepts unfinished pass job fits => ?_, fun s p c quiet type own unsigned accepts whole pass job fits => ?_,
    fun s p k x quiet type own accepts fails => ?_, fun s p quiet type own asked few pass => ?_, fun s p k x quiet type own fails => ?_⟩
  · have effect : writeEffect 1 p s = putRx (devWrite s none p.addr p.payload) (rxCounted s p false) := by
      rw [writeEffect_passes quiet own accepts type (Or.inl rfl) pass job]
      exact if_neg (by simp [rxCounted, unfinished])
    obtain ⟨there, other⟩ := devWrite_lands (t := putRx (devWrite s none p.addr p.payload) (rxCounted s p false)) rfl fits
    exact ⟨_, congrArg Host.Outcome.next effect, there, other,
      (putRx_kept (by decide) (devWrite_kept (by decide) (Kept.refl [.dev, .mem, .fab] s))).frame⟩
  · have complete : (rxCounted s p true).units = some (cdiv (rxCounted s p true).got 64) := congrArg some whole
    have effect : writeEffect 2 p s =
        inject (putRx (devWrite s none p.addr p.payload) (rxCounted s p true))
          (responseTo (putRx (devWrite s none p.addr p.payload) (rxCounted s p true)) p 3 0 []) := by
      rw [writeEffect_passes quiet own accepts type (Or.inr ⟨rfl, unsigned⟩) pass job]
      exact if_pos complete
    obtain ⟨src, tag⟩ := rxOf_names s p
    obtain ⟨there, other⟩ := devWrite_lands (congrArg MemSt.dev (inject_mem (putRx (devWrite s none p.addr p.payload) (rxCounted s p true))
      (responseTo (putRx (devWrite s none p.addr p.payload) (rxCounted s p true)) p 3 0 []))) fits
    refine ⟨_, congrArg Host.Outcome.next effect, there, other, fun r listed => ?_,
      (inject_kept (by decide) (putRx_kept (by decide) (devWrite_kept (by decide) (Kept.refl [.out, .dev, .mem, .fab, .tel] s)))).frame⟩
    rw [inject_rx] at listed
    have forgotten := putRx_whole complete r listed
    rwa [show (rxCounted s p true).src = p.src from src, show (rxCounted s p true).tag = p.tag from tag] at forgotten
  · obtain ⟨r, effect⟩ := writeEffect_fails quiet own accepts type fails
    exact ⟨_, congrArg Host.Outcome.next effect, inject_mem _ _,
      (inject_kept (List.Subset.refl _) (putRx_kept (by decide) (Kept.refl _ s))).frame⟩
  · exact congrArg Host.Outcome.next (readReqEffect_passes quiet type own asked few pass)
  · exact congrArg Host.Outcome.next (readReqEffect_fails quiet type own fails)

end Sys2Proof.Proofs
end

section
/-! What one job does to the context of another: the snowplough and the scheduler write the context of their own job, and an apply
or an absent part writes no context of a job that is neither RUNNING nor DRAINING, but for its events and its trowel queues. So the
fabric state that a teardown cleared stays clear (R246, R359), and a job that the plough parked stays as it was parked (R259). -/

namespace Sys2Proof.Proofs

open Sys2Proof Sys2Proof.Machine Sys2Proof.Laws

/-! ### Work of one job -/

/-- No context has changed but that of `d`. -/
def Within (d : Nat) (z s : State) : Prop := ∀ e, e ≠ d → ctxOf s e = ctxOf z e

section

variable {d : Nat} {z s : State}

theorem Within.refl (s : State) : Within d s s := fun _ _ => rfl

theorem Within.of_ctxs (h : Within d z s) {t : State} (same : t.job.ctxs = s.job.ctxs) : Within d z t := fun e other => by
  rw [← h e other, ctxOf, same, ctxOf]

theorem Within.of_kept (h : Within d z s) {C : List Part} {t : State} (k : Kept C s t) (out : Part.job ∉ C) : Within d z t :=
  h.of_ctxs (congrArg JobSt.ctxs (k.frame .job out))

theorem Within.updCtx (h : Within d z s) (f : JobCtx → JobCtx) : Within d z (updCtx s d f) := fun e other => by
  rw [ctxOf_updCtx, if_neg other, h e other]

theorem Within.ite {p : Prop} [Decidable p] {t u : State} (h : Within d z t) (k : Within d z u) : Within d z (if p then t else u) := by
  split
  · exact h
  · exact k

theorem Within.forEach {α : Type} {f : State → α → State} (step : ∀ u a, Within d z u → Within d z (f u a)) {l : List α} (h : Within d z s) :
    Within d z (forEach l s f) := forEach_keeps step h

theorem ctxOf_jobEntry (s : State) (d : Nat) (v : Ev) :
    ∃ q, ∀ e, ctxOf (jobEntry s d v) e = if e = d then { ctxOf s d with evq := q } else ctxOf s e := by
  have signalled : ∀ (u : State) (k e : Nat), ctxOf (signalSource u k) e = ctxOf u e := fun u k =>
    ctxOf_of_job ((signalSource_kept (List.Subset.refl _) (Kept.refl _ u)).frame .job (by decide))
  have written : ∀ (m : Mem) (q : EvQ) (e : Nat), ctxOf (updCtx { s with hostMem := m } d fun j => { j with evq := q }) e =
      if e = d then { ctxOf s d with evq := q } else ctxOf s e := fun m q e => ctxOf_updCtx { s with hostMem := m } d _ e
  refine ⟨(evqPut s.hostMem (rw64 s (jobBase d + 0x80)) (evqSlots s d) (ctxOf s d).evq v).2, fun e => ?_⟩
  unfold Machine.jobEntry
  dsimp only
  split
  · exact (signalled _ _ e).trans (written _ _ e)
  · exact written _ _ e

/-- An event of a job changes no more than the event queue of its context (R457). -/
theorem ctxOf_jobEvent (s : State) (d : Nat) (v : Ev) :
    ∃ q, ∀ e, ctxOf (jobEvent s d v) e = if e = d then { ctxOf s d with evq := q } else ctxOf s e := by
  unfold Machine.jobEvent
  dsimp only
  split
  · have kept := (partEntry_kept (e := v) (List.Subset.refl _) (Kept.refl _ s)).frame .job (by decide)
    refine ⟨(ctxOf s d).evq, fun e => (ctxOf_of_job kept e).trans ?_⟩
    split
    · next own => rw [own]
    · rfl
  · split
    · exact ⟨_, fun e => ctxOf_updCtx s d _ e⟩
    · exact ctxOf_jobEntry s d v

theorem Within.jobEvent (h : Within d z s) (v : Ev) : Within d z (jobEvent s d v) := fun e other => by
  obtain ⟨q, ctx⟩ := ctxOf_jobEvent s d v
  rw [ctx, if_neg other, h e other]

theorem Within.parkPloughed (h : Within d z s) (mode aborted : Nat) : Within d z (parkPloughed s d mode aborted) :=
  Within.jobEvent (s := parked s d) (h.updCtx _) _

theorem Within.stopJob (h : Within d z s) : Within d z (stopJob s d) := by
  have fabric : Within d z (stopFab (stopTiles s d) d) := by
    refine Within.of_ctxs (s := Machine.updCtx (stopTiles s d) d _) (Within.updCtx ?_ _) rfl
    exact h.of_kept (stopTiles_kept (List.Subset.refl _) (Kept.refl _ s)) (by decide)
  exact (Within.of_kept (Within.updCtx fabric _) (postHalt_kept (List.Subset.refl _) (Kept.refl _ _)) (by decide)).of_kept
    (rinkStop_kept (List.Subset.refl _) (Kept.refl _ _)) (by decide)

theorem Within.abortNow (h : Within d z s) : Within d z (abortNow s d) := by
  have stopped : Within d z (resetSems (postDiscard (Machine.stopJob s d) d) d (heldCourses s d)) :=
    (h.stopJob.of_kept (postDiscard_kept (List.Subset.refl _) (Kept.refl _ _)) (by decide)).of_kept
      (resetSems_kept (List.Subset.refl _) (Kept.refl _ _)) (by decide)
  unfold Machine.abortNow
  exact Within.ite (stopped.updCtx _) (Within.parkPloughed (stopped.updCtx _) _ _)

/-- The snowplough writes no context but that of its job. -/
theorem Within.ploughNow (h : Within d z s) (mode : Plough) (cause : Nat) : Within d z (ploughNow s d mode cause) := by
  unfold Machine.ploughNow
  dsimp only
  split
  · exact h
  · split
    · exact h
    · exact h
    · exact (h.updCtx _).abortNow
    · exact (h.updCtx _).abortNow
    · exact Within.ite (h.updCtx _) ((h.updCtx _).parkPloughed _ _)

/-- A course passes from one job to another with its registers and semaphores; no context changes (R137, R151, R156). -/
theorem Within.passCourse (h : Within d z s) (e n : Nat) : Within d z (passCourse s e n) := by
  have saved : ∀ (c : Nat) (ts : List Nat), Within d z (Machine.forEach ts s fun s t => saveVregs s (ctxOf s c).man t) := fun _ _ =>
    Within.forEach (fun u _ hu => hu.of_kept (saveVregs_kept (List.Subset.refl _) (Kept.refl _ u)) (by decide)) h
  have loaded : ∀ {u : State} (ts : List Nat), Within d z u →
      Within d z (Machine.forEach ts u fun s t => loadVregs s (ctxOf s e).man t) :=
    fun _ hu => Within.forEach (fun v _ hv => hv.of_kept (loadVregs_kept (List.Subset.refl _) (Kept.refl _ v)) (by decide)) hu
  have set : ∀ {u : State} (m : Manifest), Within d z u → Within d z (semInitCourse (writeKeep u m n) m n) := fun {u} m hu => by
    refine Within.of_kept ?_ (semInitCourse_kept (List.Subset.refl _) (Kept.refl _ _)) (by decide)
    exact hu.of_kept (writeKeep_kept (List.Subset.refl _) (Kept.refl _ u)) (by decide)
  unfold Machine.passCourse
  refine Within.ite h ?_
  exact (set _ (loaded _ (Within.ite (saved _ _) h))).of_ctxs rfl

theorem Within.admitJob (h : Within d z s) : Within d z (admitJob s d) := by
  unfold Machine.admitJob
  refine Within.of_ctxs (Within.ite (h.updCtx _) (Within.forEach (fun t n ht => ?_) (h.updCtx _))) rfl
  exact (ht.passCourse d n).of_kept (undefCourse_kept (List.Subset.refl _) (Kept.refl _ _)) (by decide)

end

/-! ### Jobs that neither run nor drain -/

/-- The context is `j` but for its event queue and its trowel queues, and no step of the job runs or drains. -/
structure Dormant (c : Nat) (j : JobCtx) (s : State) : Prop where
  ctx : ∃ q r, ctxOf s c = { j with evq := q, trn := r }
  idle : ¬ (j.state = .running ∨ j.state = .draining)

section

variable {c : Nat} {j : JobCtx} {s : State}

theorem Dormant.of_ctx (h : Dormant c j s) {t : State} (same : ctxOf t c = ctxOf s c) : Dormant c j t := ⟨same ▸ h.ctx, h.idle⟩

theorem Dormant.of_ctxs (h : Dormant c j s) {t : State} (same : t.job.ctxs = s.job.ctxs) : Dormant c j t :=
  h.of_ctx (by rw [ctxOf, same, ctxOf])

theorem Dormant.of_kept (h : Dormant c j s) {C : List Part} {t : State} (k : Kept C s t) (out : Part.job ∉ C) : Dormant c j t :=
  h.of_ctxs (congrArg JobSt.ctxs (k.frame .job out))

theorem Dormant.ite {p : Prop} [Decidable p] {t u : State} (h : Dormant c j t) (k : Dormant c j u) : Dormant c j (if p then t else u) := by
  split
  · exact h
  · exact k

theorem Dormant.forEach {α : Type} {f : State → α → State} (step : ∀ u a, Dormant c j u → Dormant c j (f u a)) {l : List α} (h : Dormant c j s) :
    Dormant c j (forEach l s f) := forEach_keeps step h

theorem Dormant.state (h : Dormant c j s) : (ctxOf s c).state = j.state := by
  obtain ⟨q, r, ctx⟩ := h.ctx
  rw [ctx]

theorem Dormant.fab (h : Dormant c j s) : (ctxOf s c).fab = j.fab := by
  obtain ⟨q, r, ctx⟩ := h.ctx
  rw [ctx]

/-- Work of a job that runs or drains is not its own. -/
theorem Dormant.within (h : Dormant c j s) {d : Nat} (works : (ctxOf s d).state = .running ∨ (ctxOf s d).state = .draining) {t : State}
    (w : Within d s t) : Dormant c j t := by
  refine h.of_ctx (w c ?_)
  rintro rfl
  exact h.idle (h.state ▸ works)

theorem Dormant.updTrn (h : Dormant c j s) (d : Nat) (f : JobTrn → JobTrn) : Dormant c j (updTrn s d f) := by
  obtain ⟨q, r, ctx⟩ := h.ctx
  refine ⟨?_, h.idle⟩
  by_cases own : c = d
  · subst own; exact ⟨q, f r, by rw [ctxOf_updTrn, if_pos rfl, ctx]⟩
  · exact ⟨q, r, by rw [ctxOf_updTrn, if_neg own, ctx]⟩

theorem Dormant.jobEvent (h : Dormant c j s) (d : Nat) (v : Ev) : Dormant c j (jobEvent s d v) := by
  obtain ⟨q, r, ctx⟩ := h.ctx
  obtain ⟨q', event⟩ := ctxOf_jobEvent s d v
  refine ⟨?_, h.idle⟩
  by_cases own : c = d
  · subst own; exact ⟨q', r, by rw [event, if_pos rfl, ctx]⟩
  · exact ⟨q, r, by rw [event, if_neg own, ctx]⟩

/-! ### Absent parts and links -/

theorem Dormant.ploughSpread (h : Dormant c j s) (d : Nat) (mode : Plough) (cause : Nat) : Dormant c j (ploughSpread s d mode cause) := by
  have flooded : ∀ m, Within d s (floodPlough s d m cause) := fun m =>
    (Within.refl s).of_kept (floodPlough_kept (List.Subset.refl _) (Kept.refl _ s)) (by decide)
  unfold Machine.ploughSpread
  dsimp only
  split
  · exact h
  · next works => exact Dormant.ite h (h.within (not_not.1 works) ((flooded _).ploughNow mode cause))

theorem Dormant.raisePart (h : Dormant c j s) (code : Nat) (f : EvF) : Dormant c j (raisePart s code f) :=
  h.of_kept (raisePart_kept (List.Subset.refl _) (Kept.refl _ s)) (by decide)

theorem Dormant.absentNow (h : Dormant c j s) (x cause b23 : Nat) (port : Option Nat) : Dormant c j (absentNow s x cause b23 port) := by
  have entered : ∀ full : Bool, Dormant c j (if full = true then Machine.raisePart (addKey s 0x10 x 0) 0x0107 { coords := x }
      else { s with fab := { s.fab with absent := s.fab.absent ++ [(x, cause)] } }) := fun full =>
    Dormant.ite ((h.of_kept (addKey_kept (List.Subset.refl _) (Kept.refl _ s)) (by decide)).raisePart _ _) (h.of_ctxs rfl)
  have spread : ∀ {u : State}, Dormant c j u → Dormant c j (flood (refollow (cutLinks u x)) 0x10 0 (noticeBytes x b23 cause 0) port) := by
    intro u hu
    refine Dormant.of_kept ?_ (flood_kept (List.Subset.refl _) (Kept.refl _ _)) (by decide)
    refine Dormant.of_kept ?_ (refollow_kept (List.Subset.refl _) (Kept.refl _ _)) (by decide)
    exact hu.of_kept (cutLinks_kept (List.Subset.refl _) (Kept.refl _ _)) (by decide)
  have told : ∀ {u : State}, Dormant c j u → Dormant c j (if isNeighbour u x then Machine.raisePart u 0x0106 { cause := cause, coords := x } else u) :=
    fun hu => Dormant.ite (hu.raisePart _ _) hu
  unfold Machine.absentNow
  refine Dormant.ite h (Dormant.ite h (Dormant.ite (told (spread (entered _))) (Dormant.forEach (fun t d ht => ?_)
    (told (spread (entered _))))))
  exact Dormant.ite (ht.ploughSpread d .abort 2) ht

theorem Dormant.portsOut (h : Dormant c j s) (port cause : Nat) : Dormant c j (portsOut s port cause) := by
  unfold Machine.portsOut
  split
  · exact Dormant.ite h (h.absentNow ..)
  · exact h

theorem Dormant.restartLinks (h : Dormant c j s) (ps : List Nat) : Dormant c j (restartLinks s ps) := by
  unfold Machine.restartLinks
  refine Dormant.forEach (fun t p ht => ht.portsOut p 1) (Dormant.forEach (fun t p ht => ?_) (Dormant.forEach (fun t p ht => ?_) h))
  · exact ht.of_kept (afterOut_kept (List.Subset.refl _) (Kept.refl _ t)) (by decide)
  · exact ht.of_kept (restartLink_kept (List.Subset.refl _) (Kept.refl _ t)) (by decide)

/-! ### The apply and the scheduler -/

theorem Dormant.afterApply (h : Dormant c j s) (old : State) : Dormant c j (afterApply old s) := by
  have keyed : ∀ {u : State} (p : Prop) [Decidable p], Dormant c j u → Dormant c j (if p then dropStaleKeys u else u) := fun _ _ hu =>
    Dormant.ite (hu.of_kept (dropStaleKeys_kept (List.Subset.refl _) (Kept.refl _ _)) (by decide)) hu
  have followed : ∀ {u : State} (p : Prop) [Decidable p], Dormant c j u → Dormant c j (if p then u else refollow u) := fun _ _ hu =>
    Dormant.ite hu (hu.of_kept (refollow_kept (List.Subset.refl _) (Kept.refl _ _)) (by decide))
  have seeded := Dormant.forEach
    (l := (List.range 32).filter fun n => live64 old (coursePage n + 0x100) ≠ live64 s (coursePage n + 0x100))
    (f := fun s n => spinReload s n (live64 s (coursePage n + 0x100)))
    (fun t n ht => ht.of_kept (spinReload_kept (List.Subset.refl _) (Kept.refl _ t)) (by decide)) h
  unfold Machine.afterApply
  refine Dormant.of_kept (keyed _ ?_) (lowerClocks_kept (List.Subset.refl _) (Kept.refl _ _)) (by decide)
  refine Dormant.forEach (fun t i ht => ?_) (Dormant.forEach (fun t i ht => ?_)
    (Dormant.restartLinks (followed _ seeded) _))
  · exact Dormant.ite (ht.of_ctxs rfl) ht
  · exact Dormant.ite (ht.updTrn _ _) ht

theorem Dormant.goLive (h : Dormant c j s) : Dormant c j (goLive s) := by
  have settled : ∀ ns ps : List Nat, Dormant c j (Machine.forEach ns (Machine.forEach ps s clockTick) spinSettle) := fun _ _ =>
    Dormant.forEach (fun t _ ht => ht.of_kept (spinSettle_kept (List.Subset.refl _) (Kept.refl _ t)) (by decide))
      (Dormant.forEach (fun t _ ht => ht.of_kept (clockTick_kept (List.Subset.refl _) (Kept.refl _ t)) (by decide)) h)
  unfold Machine.goLive
  refine Dormant.afterApply ?_ _
  exact (settled _ _).of_ctxs rfl

/-- An apply, and what it brings, leaves a job that is neither RUNNING nor DRAINING as it is (R445 to R449). -/
theorem Dormant.applyIfIdle (h : Dormant c j s) : Dormant c j (applyIfIdle s) := by
  have noted : ∀ {u : State} (code rule wh : Nat), Dormant c j u → Dormant c j (cfgResult u code rule wh) := fun {u} _ _ _ hu =>
    hu.of_kept (cfgResult_kept (List.Subset.refl _) (Kept.refl _ u)) (by decide)
  unfold Machine.applyIfIdle Machine.applyNow
  refine Dormant.ite (Dormant.ite h ?_) h
  split
  · exact noted _ _ _ (Dormant.of_ctxs h rfl)
  · exact noted _ _ _ h.goLive

/-- The scan admits RUNNING jobs only (R347). -/
theorem Dormant.scanOne {p : State × Nat} (h : Dormant c j p.1) (d : Nat) : Dormant c j (scanOne p d).1 := by
  unfold Machine.scanOne
  dsimp only
  split
  · exact h
  · next isReady =>
    have runs : (ctxOf p.1 d).state = .running := by simp [ready] at isReady; exact isReady.1.1
    split
    · exact h
    · exact Dormant.ite (h.within (.inl runs) ((Within.refl _).updCtx _)) (h.within (.inl runs) (Within.refl _).admitJob)

theorem Dormant.schedule (h : Dormant c j s) : Dormant c j (schedule s) := by
  have scan : ∀ (l : List Nat) (p : State × Nat), Dormant c j p.1 → Dormant c j (l.foldl Machine.scanOne p).1 := by
    intro l
    induction l with
    | nil => exact fun _ hp => hp
    | cons d l ih => exact fun p hp => ih _ (hp.scanOne d)
  exact Dormant.ite (scan _ (s, 0) h) h

end

/-! ### Torn down -/

theorem ctxOf_updCtx_same (s : State) (c : Nat) (f : JobCtx → JobCtx) : ctxOf (updCtx s c f) c = f (ctxOf s c) :=
  (ctxOf_updCtx s c f c).trans (if_pos rfl)

/-- A context that is released has no get and no collective open (R360). -/
theorem releaseJob_fab (s : State) (c : Nat) : (ctxOf (releaseJob s c) c).fab.gets = [] ∧ (ctxOf (releaseJob s c) c).fab.insts = [] := by
  unfold releaseJob
  extract_lets
  rw [ctxOf_updCtx_same]
  exact ⟨rfl, rfl⟩

theorem tornDown_dormant (s : State) (c code : Nat) (f : EvF) :
    Dormant c { ctxOf s c with state := .tornDown } (tornDown (raiseJob s c code f) c) := by
  obtain ⟨q, event⟩ := ctxOf_jobEvent s c ⟨code, c, now s, ({ f with step := (ctxOf s c).step } : EvF).bytes, true, false, none⟩
  refine ⟨⟨q, (ctxOf s c).trn, (ctxOf_updCtx_same _ c _).trans ?_⟩, by simp⟩
  rw [raiseJob, event, if_pos rfl]

theorem tornDown_fab (s : State) (c code : Nat) (f : EvF) :
    (ctxOf (schedule (applyIfIdle (tornDown (raiseJob s c code f) c))) c).fab = (ctxOf s c).fab :=
  (tornDown_dormant s c code f).applyIfIdle.schedule.fab

/-- What follows the release of a job that is torn down leaves its fabric state as released (R359). -/
theorem teardown_fab {s : State} {c : Nat} (loaded : (ctxOf s c).loaded = true) (b4 code : Nat) (f : EvF) :
    (ctxOf (teardown s c b4 code f) c).fab = (ctxOf (tearCore s c b4) c).fab := by
  rw [teardown, if_pos loaded, tornDown_fab]

/-- A fault leaves no get of the job open (R246, R359). -/
theorem faultJob_gets {s : State} {c : Nat} (loaded : (ctxOf s c).loaded = true) (code : Nat) (f : EvF) :
    (ctxOf (faultJob s c code f) c).fab.gets = [] := by
  rw [faultJob, teardown_fab loaded, tearCore]
  exact (releaseJob_fab _ c).1

/-- A fault leaves no collective of the job open (R246, R359). -/
theorem faultJob_insts {s : State} {c : Nat} (loaded : (ctxOf s c).loaded = true) (code : Nat) (f : EvF) :
    (ctxOf (faultJob s c code f) c).fab.insts = [] := by
  rw [faultJob, teardown_fab loaded, tearCore]
  exact (releaseJob_fab _ c).2

end Sys2Proof.Proofs
end

section
/-! The initiator's side (R218, R219, R221, R222): a response closes its burst, data of a get lands in its tile's store, and a refused
or silent get ends the job. -/

namespace Sys2Proof.Proofs

open Sys2Proof Sys2Proof.Machine Sys2Proof.Laws

/-! ### Responses to a burst -/

theorem tag_of_burstOf {s : State} {p : Packet} {c : Nat} {b : Burst} (found : burstOf s c p = some b) : b.tag = p.tag := by
  have named := List.find?_some found
  exact (of_decide_eq_true named).1

theorem ctxOf_burstDone (s : State) (c : Nat) (b : Burst) (late : Bool) :
    ctxOf (burstDone s c b late) c =
      { ctxOf s c with
        fab := { (ctxOf s c).fab with
          bursts := (ctxOf s c).fab.bursts.filter fun x => x.tag ≠ b.tag
          epochs := mupd (ctxOf s c).fab.epochs {} b.step fun e => { e with done := e.done + 1, late := e.late + b2n late } } } :=
  ctxOf_updCtx_same s c _

/-- A response to a burst of a SINK, or of a put with nothing more to send, while no posted writes are awaited, only closes the burst
(R219, R222). -/
theorem answered_plain {s : State} {c : Nat} {b : Burst}
    (plain : b.source = 2 ∨ (b.source = 0 ∧ (seqrOf s b.tile).descs.find? (fun d => decide (d.seq = b.seq) && fabWaits d) = none))
    (phase : (ctxOf s c).bnd.phase ≠ .awaitPosted) (late : Bool) : answered s c b late = burstDone s c b late := by
  have still : (ctxOf (burstDone s c b late) c).bnd.phase ≠ .awaitPosted := by
    rwa [ctxOf_burstDone]
  have descs : seqrOf (burstDone s c b late) b.tile = seqrOf s b.tile := rfl
  have resumed : (if b.source = 1 then sinkAnswered (burstDone s c b late) c b late
      else if b.source = 0 then putResume (burstDone s c b late) c b else burstDone s c b late) = burstDone s c b late := by
    obtain sink | ⟨put, sent⟩ := plain
    · rw [if_neg (by omega), if_neg (by omega)]
    · rw [if_neg (by omega), if_pos put, putResume, descs, sent]
  unfold answered
  dsimp only
  rw [resumed]
  exact if_neg still

theorem burstDone_bursts (s : State) (c : Nat) (b : Burst) (late : Bool) :
    ∀ x ∈ (ctxOf (burstDone s c b late) c).fab.bursts, x.tag ≠ b.tag := fun x listed => by
  rw [ctxOf_burstDone] at listed
  exact of_decide_eq_true (List.mem_filter.1 listed).2

theorem burstDone_tags (s : State) (c : Nat) (b : Burst) (late : Bool) : ∀ x ∈ (burstDone s c b late).fab.tags, x.1 ≠ b.tag :=
  fun _ listed => of_decide_eq_true (List.mem_filter.1 listed).2

theorem burstDone_epoch (s : State) (c : Nat) (b : Burst) (late : Bool) :
    mget (ctxOf (burstDone s c b late) c).fab.epochs {} b.step =
      { mget (ctxOf s c).fab.epochs {} b.step with
        done := (mget (ctxOf s c).fab.epochs {} b.step).done + 1
        late := (mget (ctxOf s c).fab.epochs {} b.step).late + b2n late } := by
  rw [ctxOf_burstDone, mget_mupd, if_pos rfl]

theorem ctxOf_pushLate {s : State} {c : Nat} (room : (ctxOf s c).fab.late.length < 256) (r : List Byte) :
    ctxOf (pushLate s c r) c = { ctxOf s c with fab := { (ctxOf s c).fab with late := (ctxOf s c).fab.late ++ [r] } } := by
  rw [pushLate, ctxOf_updFab, if_pos rfl, if_pos room]

/-! ### Data of a get -/

/-- The get has all of its data: it is closed, and its tag is free (R218). -/
def getDone (s : State) (c : Nat) (g : GetReq) : State :=
  getEnd (dropTag (updFab s c fun f => { f with gets := f.gets.filter fun x => x.tag ≠ g.tag }) g.tag) c g

/-- The get has `got` bytes of its data (R218). -/
def getCounted (s : State) (c : Nat) (g : GetReq) (got : Nat) : State :=
  updFab s c fun f => { f with gets := f.gets.map fun x => if x.tag = g.tag then { x with got := got } else x }

theorem readDataEffect_store {s : State} {p : Packet} {c : Nat} {g : GetReq} (get : getOf s p = some (c, g)) (tile : g.toStore = true) :
    readDataEffect p s =
      if g.got + p.payload.length < g.bytes then
        getCounted (storeWrite s g.tile (g.laddr + p.aux.toNat) p.payload) c g (g.got + p.payload.length)
      else getDone (storeWrite s g.tile (g.laddr + p.aux.toNat) p.payload) c g := by
  simp only [readDataEffect, get, tile, if_true]
  rfl

theorem getEnd_cases (s : State) (c : Nat) (g : GetReq) : getEnd s c g = s ∨ ∃ f, getEnd s c g = updDesc s g.tile g.seq f := by
  unfold getEnd
  split
  · exact .inl rfl
  · exact .inr ⟨_, rfl⟩

theorem getDone_store (s : State) (c : Nat) (g : GetReq) : (getDone s c g).tile.store = s.tile.store := by
  obtain same | ⟨f, ends⟩ := getEnd_cases (dropTag (updFab s c fun f => { f with gets := f.gets.filter fun x => x.tag ≠ g.tag }) g.tag) c g
  · rw [getDone, same]; rfl
  · rw [getDone, ends]; rfl

theorem getDone_gets (s : State) (c : Nat) (g : GetReq) : ∀ x ∈ (ctxOf (getDone s c g) c).fab.gets, x.tag ≠ g.tag := by
  have ended : (getDone s c g).job = (updFab s c fun f => { f with gets := f.gets.filter fun x => x.tag ≠ g.tag }).job :=
    (getEnd_kept (List.Subset.refl _) (Kept.refl _ _)).frame .job (by decide)
  intro x listed
  rw [ctxOf_of_job ended, ctxOf_updFab, if_pos rfl] at listed
  exact of_decide_eq_true (List.mem_filter.1 listed).2

theorem getDone_kept {C : List Part} {z s : State} {c : Nat} {g : GetReq} (hC : ([.tile, .job, .fab] : List Part) ⊆ C) (h : Kept C z s) :
    Kept C z (getDone s c g) :=
  getEnd_kept (Part.subs hC (by decide)) (dropTag_kept (Part.subs hC (by decide)) (updFab_kept (Part.subs hC (by decide)) h))

/-! ### The obligation -/

/-- Settles O31: a response closes the burst of its tag and counts it in the epoch; READ_NAK and the timeout of a get are faults. -/
theorem responsesToTheInitiator : Obligations.ResponsesToTheInitiator := by
  unfold Obligations.ResponsesToTheInitiator
  refine ⟨fun s p c b tag burst plain phase => ?_, fun s p c b tag burst plain phase room => ?_, fun s p c g get tile => ?_,
    fun s p c g get loaded => ?_, fun s c tag g get loaded => ?_⟩
  · have effect : ackEffect p s = burstDone s c b false := by
      simp only [ackEffect, tag, burst]
      exact answered_plain plain phase false
    refine ⟨_, congrArg Host.Outcome.next effect, ?_, ?_, burstDone_epoch s c b false, (burstDone_kept (List.Subset.refl _) (Kept.refl _ s)).frame⟩
    · exact tag_of_burstOf burst ▸ burstDone_bursts s c b false
    · exact tag_of_burstOf burst ▸ burstDone_tags s c b false
  · have pushed := ctxOf_pushLate room (lateRecord b p.payload)
    have effect : lateWriteEffect p s = burstDone (pushLate s c (lateRecord b p.payload)) c b true := by
      simp only [lateWriteEffect, tag, burst]
      exact answered_plain (s := pushLate s c (lateRecord b p.payload)) plain (by rw [pushed]; exact phase) true
    refine ⟨_, congrArg Host.Outcome.next effect, ?_, ?_, ?_, (burstDone_kept (List.Subset.refl _) (pushLate_kept (by decide) (Kept.refl _ s))).frame⟩
    · exact tag_of_burstOf burst ▸ burstDone_bursts _ c b true
    · rw [ctxOf_burstDone, pushed]
    · rw [burstDone_epoch, pushed]; rfl
  · have written := storeRead_storeWrite s g.tile (g.laddr + p.aux.toNat) p.payload
    have effect := readDataEffect_store get tile
    have stored := storeWrite_kept (t := g.tile) (a := g.laddr + p.aux.toNat) (bs := p.payload) (by decide) (Kept.refl [.store, .tile, .job, .fab] s)
    split at effect
    · next more =>
      exact ⟨_, congrArg Host.Outcome.next effect, written, fun all => absurd more (by omega), (updFab_kept (by decide) stored).frame⟩
    · refine ⟨_, congrArg Host.Outcome.next effect, ?_, fun _ => getDone_gets _ c g, (getDone_kept (by decide) stored).frame⟩
      rwa [storeRead, getDone_store]
  · have effect : readNakEffect p s = faultJob s c 0x0014 { cause := p.aux.toNat % 65536, coords := g.dst } := by
      simp only [readNakEffect, get]
    exact ⟨_, congrArg Host.Outcome.next effect, faultJob_state loaded .., faultJob_gets loaded ..⟩
  · have effect : getTimeoutEffect c.val tag s = remoteTimeout s c.val 1 g.dst := by
      simp only [getTimeoutEffect, get]
    exact ⟨_, congrArg Host.Outcome.next effect, remoteTimeout_state loaded .., faultJob_gets loaded ..⟩

end Sys2Proof.Proofs
end

section
/-! Collectives (R230, R231): the start of one, a piece that a running one awaits, and the timeout. With no COLL packet held,
nothing is presented again. -/

namespace Sys2Proof.Proofs

open Sys2Proof Sys2Proof.Machine Sys2Proof.Laws

theorem collSettle_none {s : State} {c : Nat} (none : (ctxOf s c).fab.collHeld = []) : collSettle s c = s := by
  rw [collSettle, none, List.length_nil, collRetry]

/-! ### The start -/

/-- The collective that a descriptor starts (R230, R231). -/
def started (s : State) (t c : Nat) (d : Desc) (e : List Byte) : CollInst :=
  ⟨d.fld 10 31 16, d.fld 10 15 0, t, d.seq, cPend e (cRanks s c e) (cOwn s c e),
    cBuf e (cOwn s c e) (devRead s (cSource e (d.fld 10 15 0)).1 (cSource e (d.fld 10 15 0)).2)⟩

/-- The collective stands in its context, and its first pieces are sent (R230). -/
def launched (s : State) (t c : Nat) (d : Desc) (e : List Byte) : State :=
  cLaunch (updFab s c fun f => { f with insts := f.insts ++ [started s t c d e] }) c e (started s t c d e)
    (devRead s (cSource e (d.fld 10 15 0)).1 (cSource e (d.fld 10 15 0)).2)

theorem launched_fab (s : State) (t c : Nat) (d : Desc) (e : List Byte) :
    (ctxOf (launched s t c d e) c).fab = { (ctxOf s c).fab with insts := (ctxOf s c).fab.insts ++ [started s t c d e] } := by
  have sent : (launched s t c d e).job = (updFab s c fun f => { f with insts := f.insts ++ [started s t c d e] }).job :=
    (cLaunch_kept (List.Subset.refl _) (Kept.refl _ _)).frame .job (by decide)
  rw [ctxOf_of_job sent, ctxOf_updFab, if_pos rfl]

theorem launched_kept {C : List Part} {z s : State} {t c : Nat} {d : Desc} {e : List Byte} (hC : ([.out, .job, .fab, .tel] : List Part) ⊆ C)
    (h : Kept C z s) : Kept C z (launched s t c d e) :=
  cLaunch_kept (Part.subs hC (by decide)) (updFab_kept (Part.subs hC (by decide)) h)

/-- A collective step starts when its turn comes and its ranges pass (R230, R231). -/
theorem fabCollectiveEffect_starts {s : State} {t i c : Nat} {d : Desc} {e : List Byte} (picked : pickDesc s t 7 i = some d)
    (ctx : tileCtx s t = some c) (op : d.fld 2 31 28 = 2) (alone : (ctxOf s c).fab.insts = []) (none : (ctxOf s c).fab.collHeld = [])
    (turn : (firstColl s c).map (fun y => y.1) = some d.coll) (quiet : s.mem.upsets = [])
    (entry : (ctxOf s c).man.colls.getD (d.fld 10 31 16) [] = e)
    (source : regionCheck (ctxOf s c).man 0 (cSource e (d.fld 10 15 0)).1 (cSource e (d.fld 10 15 0)).2 = .none)
    (result : regionCheck (ctxOf s c).man 1 (cResult e (d.fld 10 15 0)).1 (cResult e (d.fld 10 15 0)).2 = .none)
    (clean : poisonedAt s (cSource e (d.fld 10 15 0)).1 (cSource e (d.fld 10 15 0)).2 = .none) :
    fabCollectiveEffect t i s = launched s t c d e := by
  have settled : collSettle (launched s t c d e) c = launched s t c d e := collSettle_none (by rw [launched_fab]; exact none)
  simp only [fabCollectiveEffect, picked, ctx, op, alone, turn, ne_eq, not_true_eq_false, or_self, if_false, entry, source, result,
    Option.orElse_none, meetRanges_quiet quiet, clean]
  exact settled

/-! ### An awaited piece -/

/-- The collective with a piece taken into its buffer (R230). -/
def taken (i : CollInst) (axis off : Nat) (bs : List Byte) : CollInst :=
  { i with pend := i.pend.erase (axis, off, bs.length), buf := i.buf.take off ++ bs ++ i.buf.drop (off + bs.length) }

/-- The kinds that only copy take a piece at its own offset; the collective goes on while a piece is missing (R230). -/
theorem cReceive_copies {s : State} {c : Nat} {e : List Byte} {i : CollInst} {axis off : Nat} {bs : List Byte} (kind : 4 ≤ cKind e)
    (more : i.pend.erase (axis, off, bs.length) ≠ []) : cReceive s c e i axis off bs = putInst s c (taken i axis off bs) := by
  have copy : (decide (cKind e = 2) || (decide (cKind e = 3) && decide (cGather e ≤ off))) = false := by
    rw [decide_eq_false (by omega), decide_eq_false (p := cKind e = 3) (by omega)]; rfl
  simp only [cReceive, copy, kind, if_true, Bool.false_eq_true, if_false]
  exact if_pos more

theorem putInst_mem {s : State} {c : Nat} {i j : CollInst} (runs : i ∈ (ctxOf s c).fab.insts) (id : i.id = j.id) (step : i.step = j.step) :
    j ∈ (ctxOf (putInst s c j) c).fab.insts := by
  rw [putInst, ctxOf_updFab, if_pos rfl]
  exact List.mem_map.2 ⟨i, runs, if_pos ⟨id, step⟩⟩

theorem putInst_collHeld (s : State) (c : Nat) (j : CollInst) : (ctxOf (putInst s c j) c).fab.collHeld = (ctxOf s c).fab.collHeld := by
  rw [putInst, ctxOf_updFab, if_pos rfl]

/-- A piece that a collective awaits, of a job with no digest exchange, goes to the collective (R231). -/
theorem collEffect_takes {s : State} {p : Packet} {axis off c : Nat} {i : CollInst} (type : p.ty = 8) (own : p.dst = ownCoord s)
    (job : ctxOfFabricJob s p.fabricJob = some c) (plain : exchanges s c = false) (none : (ctxOf s c).fab.collHeld = [])
    (found : (ctxOf s c).fab.insts.find? (fun y => decide (y.id = fld p.aux 31 16 ∧ y.step = fld p.aux 15 0)) = some i)
    (kind : 4 ≤ cKind ((ctxOf s c).man.colls.getD i.id [])) (awaited : i.pend.contains (axis, off, p.payload.length) = true)
    (inOrder : cReady i axis off = true) (more : i.pend.erase (axis, off, p.payload.length) ≠ []) :
    collEffect p axis off s = putInst s c (taken i axis off p.payload) := by
  have takes : collTake s c axis off p = putInst s c (taken i axis off p.payload) := by
    simp only [collTake, plain, Bool.false_eq_true, false_and, if_false, found, awaited, not_true_eq_false, inOrder, if_true]
    exact cReceive_copies kind more
  unfold collEffect
  rw [if_neg (by simp [type, own])]
  simp only [job, takes]
  exact collSettle_none ((putInst_collHeld ..).trans none)

/-! ### The obligation -/

/-- Settles O32: a collective enters the empty list, a piece replaces the collective that awaits it, and the timeout is a fault. -/
theorem collectiveInstances : Obligations.CollectiveInstances := by
  unfold Obligations.CollectiveInstances
  refine ⟨fun s t i c d e picked ctx op alone none turn quiet entry source result clean => ?_,
    fun s p axis off c i type own job plain none found kind awaited inOrder more => ?_, fun s c k n runs loaded => ?_⟩
  · refine ⟨_, congrArg Host.Outcome.next (fabCollectiveEffect_starts picked ctx op alone none turn quiet entry source result clean), ?_,
      (launched_kept (List.Subset.refl _) (Kept.refl _ s)).frame⟩
    rw [launched_fab, alone, List.nil_append, started]
  · refine ⟨_, congrArg Host.Outcome.next (collEffect_takes type own job plain none found kind awaited inOrder more), ?_,
      (putInst_kept (List.Subset.refl _) (Kept.refl _ s)).frame⟩
    exact ⟨taken i axis.val off p.payload, putInst_mem (List.mem_of_find?_eq_some found) rfl rfl, rfl, rfl, rfl, rfl⟩
  · have effect : collectiveTimeoutEffect c.val k n s = remoteTimeout s c.val 2 0xFFFF := if_pos runs
    exact ⟨_, congrArg Host.Outcome.next effect, remoteTimeout_state loaded .., faultJob_insts loaded ..⟩

end Sys2Proof.Proofs
end

section
/-! Control reductions and the step timeout (R207, R225, R226, R249, R258): what a reduction packet of the expected step does, and the
snowplough that a step timeout starts. -/

namespace Sys2Proof.Proofs

open Sys2Proof Sys2Proof.Machine Sys2Proof.Laws

/-! ### Reduction packets -/

theorem redOf_some {s : State} {c id : Nat} {cls : RedClass} {r : RedSt} (found : redOf s c cls id = some r) : r.cls = cls ∧ r.id = id := by
  have named := List.find?_some found
  exact of_decide_eq_true named

/-- A reduction packet of this part and of one of its jobs goes to the job (R207). -/
theorem ctrlReduceEffect_job {s : State} {kind port c : Nat} {p : Packet} (dir : fld p.aux 31 24 = kind) (up : s.boot.resetting = false)
    (own : p.dst = ownCoord s) (job : ctxOfFabricJob s p.fabricJob = some c) : ctrlReduceEffect kind port p s = redTake s c port p := by
  unfold ctrlReduceEffect
  rw [if_neg (by simp [dir, up, own])]
  simp only [job]

theorem putRed_mem (s : State) (c : Nat) (r : RedSt) : r ∈ (ctxOf (putRed s c r) c).fab.reds := by
  rw [putRed, ctxOf_updFab, if_pos rfl]
  exact List.mem_append_right _ (List.mem_singleton_self r)

theorem ctxOf_sendDown (s : State) (c : Nat) (r : RedSt) (w : Dword) (d : Nat) : ctxOf (sendDown s c r w) d = ctxOf s d :=
  ctxOf_of_job ((sendDown_kept (List.Subset.refl _) (Kept.refl _ s)).frame .job (by decide)) d

/-- The reduction has its result, which goes down the tree (R225). -/
def resultDown (s : State) (c : Nat) (r : RedSt) (w : Dword) : State := sendDown (putRed s c { r with result := some w }) c r w

theorem resultDown_mem (s : State) (c : Nat) (r : RedSt) (w : Dword) :
    { r with result := some w } ∈ (ctxOf (resultDown s c r w) c).fab.reds := by
  rw [resultDown, ctxOf_sendDown]
  exact putRed_mem ..

theorem resultDown_kept {C : List Part} {z s : State} {c : Nat} {r : RedSt} {w : Dword} (hC : ([.out, .job, .fab, .tel] : List Part) ⊆ C)
    (h : Kept C z s) : Kept C z (resultDown s c r w) :=
  sendDown_kept (Part.subs hC (by decide)) (putRed_kept (Part.subs hC (by decide)) h)

theorem resultDown_out {s : State} {c : Nat} (leaf : treeKids s c = []) (r : RedSt) (w : Dword) : (resultDown s c r w).out = s.out := by
  have below : treeKids (putRed s c { r with result := some w }) c = [] := leaf
  rw [resultDown, sendDown, below, forEach]
  rfl

/-- Once its only part below has sent its word, the root has the result (R225). -/
theorem tryCombine_last {s : State} {c k : Nat} {q : RedSt} {own w : Dword} (contributed : q.own = some own) (waits : q.result = none)
    (only : q.kids = [(k, w)]) (kids : treeKids s c = [k]) (root : treeParent s c = none) :
    tryCombine s c q = resultDown s c q (combine own w) := by
  simp [tryCombine, contributed, waits, only, kids, root, resultDown]

section

variable {s : State} {c port : Nat} {p : Packet} (order : redOrder s c .verdict 0 p = 0) (up : fld p.aux 31 24 = 1)
  (cls : fld p.aux 23 20 = 1) (id : fld p.aux 19 16 = 0)
include order up cls id

/-- The word of the only part below, of the expected step, completes the reduction at the root (R225). -/
theorem redTake_root {r : RedSt} {own : Dword} (found : redOf s c .verdict 0 = some r) (contributed : r.own = some own)
    (waits : r.result = none) (first : r.kids = []) (kids : treeKids s c = [toLogical s p.src]) (root : treeParent s c = none) :
    redTake s c port p = resultDown s c { r with kids := [(toLogical s p.src, BitVec.ofNat 64 (leNat p.payload))] }
      (combine own (BitVec.ofNat 64 (leNat p.payload))) := by
  have last := tryCombine_last (q := { r with kids := [(toLogical s p.src, BitVec.ofNat 64 (leNat p.payload))] }) contributed waits rfl kids root
  simpa [redTake, cls, id, classOf, order, up, found, waits, kids, first, contributed] using last

/-- A word from below is held while the part has not contributed (R207, R225). -/
theorem redTake_early (early : redOf s c .verdict 0 = none) (below : toLogical s p.src ∈ treeKids s c) :
    redTake s c port p = redHold s c port p := by
  simp [redTake, cls, id, classOf, order, up, early, below]

/-- A word from a part that is not below in the tree is discarded (R207). -/
theorem redTake_stranger (stranger : toLogical s p.src ∉ treeKids s c) : redTake s c port p = countDiscard s := by
  simp [redTake, cls, id, classOf, order, up, stranger, redDiscard]

end

/-- The result from above goes down the tree to a part that has contributed (R225, R226). -/
theorem redTake_down {s : State} {c port : Nat} {p : Packet} {r : RedSt} (order : redOrder s c .release 0 p = 0) (down : fld p.aux 31 24 = 2)
    (cls : fld p.aux 23 20 = 2) (id : fld p.aux 19 16 = 0) (found : redOf s c .release 0 = some r) (contributed : r.own.isSome = true)
    (waits : r.result = none) : redTake s c port p = resultDown s c r (BitVec.ofNat 64 (leNat p.payload)) := by
  obtain ⟨w, own⟩ := Option.isSome_iff_exists.1 contributed
  simp [redTake, cls, id, classOf, order, down, found, own, waits, resultDown]

/-- A port holds one packet of a class (R207). -/
theorem redHold_room {s : State} {c port : Nat} {p : Packet}
    (room : ∀ h ∈ (ctxOf s c).fab.held, ¬ (h.1 = port ∧ fld h.2.aux 23 20 = fld p.aux 23 20)) :
    redHold s c port p = updFab s c fun f => { f with held := f.held ++ [(port, p)] } := by
  refine if_neg fun taken => ?_
  obtain ⟨h, held, same⟩ := List.any_eq_true.1 taken
  exact room h held (of_decide_eq_true same)

/-- A reduction packet for no job and no orphaned reduction, or of a part in reset, is discarded (R207, R249). -/
theorem ctrlReduceEffect_discards {s : State} {port : Nat} {p : Packet} (up : fld p.aux 31 24 = 1) (own : p.dst = ownCoord s)
    (lost : s.boot.resetting = true ∨ (ctxOfFabricJob s p.fabricJob = none ∧ orphanFor s p = none)) :
    ctrlReduceEffect 1 port p s = countDiscard s := by
  by_cases resets : s.boot.resetting = true
  · exact if_pos (.inr (.inl resets))
  · obtain ⟨noJob, noOrphan⟩ := lost.resolve_left resets
    unfold ctrlReduceEffect
    rw [if_neg (by simp [up, resets, own])]
    simp only [noJob, orphanTake, noOrphan, redDiscard]

/-! ### The snowplough of a step timeout -/

theorem parkPloughed_dormant (s : State) (c mode aborted : Nat) : Dormant c (ctxOf (parked s c) c) (parkPloughed s c mode aborted) := by
  have parks : (ctxOf (parked s c) c).state = .parked := congrArg JobCtx.state (ctxOf_updCtx_same s c _)
  have asleep : Dormant c (ctxOf (parked s c) c) (parked s c) := ⟨⟨_, _, rfl⟩, by simp [parks]⟩
  exact asleep.jobEvent c _

/-- A job that aborts before its sweep or digest exchange has begun is parked at once (R259). -/
theorem abortNow_parks {s : State} {c : Nat} (before : beforeVerdict (ctxOf s c).bnd = true) :
    ∃ u, Dormant c (ctxOf (parked u c) c) (abortNow s c) := by
  have early : ¬ (((ctxOf s c).bnd.phase = .sweeping ∧ (ctxOf s c).trn.checked = true) ∨ (ctxOf s c).bnd.phase = .digests) := by
    rintro (⟨phase, -⟩ | phase) <;> simp [beforeVerdict, phase] at before
  unfold abortNow
  extract_lets
  rw [if_neg early]
  exact ⟨_, parkPloughed_dormant ..⟩

/-- The snowplough in the abort mode parks a job that is before its verdict (R258, R259). -/
theorem ploughSpread_parks {s : State} {c cause : Nat} (works : (ctxOf s c).state = .running ∨ (ctxOf s c).state = .draining)
    (unploughed : (ctxOf s c).plough = none) (before : beforeVerdict (ctxOf s c).bnd = true) :
    ∃ u, Dormant c (ctxOf (parked u c) c) (ploughSpread s c .abort cause) := by
  have flooded : ctxOf (floodPlough s c 1 cause) c = ctxOf s c :=
    ctxOf_of_job ((floodPlough_kept (List.Subset.refl _) (Kept.refl _ s)).frame .job (by decide)) c
  have begins : ploughSpread s c .abort cause =
      abortNow (updCtx (floodPlough s c 1 cause) c fun j => { j with plough := some .abort, ploughCause := cause }) c := by
    unfold ploughSpread ploughNow
    simp [works, unploughed, flooded]
  rw [begins]
  refine abortNow_parks ?_
  rw [ctxOf_updCtx_same, flooded]
  exact before

/-- A step timeout of a job with auto-plough parks it (R258). -/
theorem stepTimeoutEffect_parks {s : State} {c : Nat} (timed : stepTimeoutMs s c ≠ 0) (inStep : (ctxOf s c).inStep = true)
    (before : beforeVerdict (ctxOf s c).bnd = true) (forward : (ctxOf s c).bnd.retake = false) (auto : autoPlough s c = true)
    (unploughed : (ctxOf s c).plough = none) (works : (ctxOf s c).state = .running ∨ (ctxOf s c).state = .draining) :
    (ctxOf (stepTimeoutEffect c s) c).state = .parked ∧ (ctxOf (stepTimeoutEffect c s) c).stepIn = false := by
  obtain ⟨f, q, raised⟩ := (SameStep.refl (c := c) s).raiseJob c 0x001C {}
  have ploughs : stepTimeoutEffect c s = applyIfIdle (ploughSpread (raiseJob s c 0x001C {}) c .abort 4) := by
    simp [stepTimeoutEffect, timed, inStep, before, forward, auto, ploughFrom]
  obtain ⟨u, parks⟩ := ploughSpread_parks (s := raiseJob s c 0x001C {}) (cause := 4) (by rw [raised]; exact works)
    (by rw [raised]; exact unploughed) (by rw [raised]; exact before)
  obtain ⟨q', r, ctx⟩ := parks.applyIfIdle.ctx
  rw [ploughs, ctx, parked, ctxOf_updCtx_same]
  exact ⟨rfl, rfl⟩

/-! ### The obligation -/

/-- Settles O38: each packet is one branch of its reduction, a timeout of a reduction is a fault, and a step timeout an abort. -/
theorem controlReductions : Obligations.ControlReductions := by
  unfold Obligations.ControlReductions
  refine ⟨fun s port p c r own up cls id live here job order found contributed waits first kids root => ?_,
    fun s port p c up cls id live here job order early below room => ?_,
    fun s port p c up cls id live here job order stranger => ?_,
    fun s port p c r down cls id live here job order found contributed waits => ?_,
    fun s port p up here lost => ?_, fun s c rc i r found contributed waits loaded => ?_,
    fun s c timed inStep before forward manual => ?_,
    fun s c timed inStep before forward auto unploughed works => ⟨_, rfl, stepTimeoutEffect_parks timed inStep before forward auto unploughed works⟩,
    fun s c untimed => congrArg Host.Outcome.next (if_neg fun ⟨timed, _⟩ => timed untimed)⟩
  · have effect := (ctrlReduceEffect_job up live here job).trans
      (redTake_root (port := port.val) order up cls id found contributed waits first kids root)
    exact ⟨_, congrArg Host.Outcome.next effect, ⟨_, resultDown_mem .., (redOf_some found).1, rfl⟩,
      (resultDown_kept (List.Subset.refl _) (Kept.refl _ s)).frame⟩
  · have effect := ((ctrlReduceEffect_job up live here job).trans (redTake_early (port := port.val) order up cls id early below)).trans
      (redHold_room fun h held => cls ▸ room h held)
    refine ⟨_, congrArg Host.Outcome.next effect, ?_, ?_, (updFab_kept (List.Subset.refl _) (Kept.refl _ s)).frame⟩
    · rw [ctxOf_updFab, if_pos rfl]
    · rw [ctxOf_updFab, if_pos rfl]
  · exact congrArg Host.Outcome.next ((ctrlReduceEffect_job up live here job).trans (redTake_stranger order up cls id stranger))
  · have effect := (ctrlReduceEffect_job down live here job).trans (redTake_down (port := port.val) order down cls id found contributed waits)
    exact ⟨_, congrArg Host.Outcome.next effect, ⟨_, resultDown_mem .., (redOf_some found).1, rfl⟩, fun leaf => resultDown_out leaf ..,
      (resultDown_kept (List.Subset.refl _) (Kept.refl _ s)).frame⟩
  · refine ⟨_, congrArg Host.Outcome.next (ctrlReduceEffect_discards up here lost), ?_, (countDiscard_kept (List.Subset.refl _) (Kept.refl _ s)).frame⟩
    rw [countDiscard, counter_bump, if_pos rfl]
  · have effect : controlReductionTimeoutEffect c.val rc i.val s = remoteTimeout s c.val (if rc = .start then 5 else 3) 0xFFFF := by
      simp [controlReductionTimeoutEffect, found, contributed, waits]
    exact ⟨_, congrArg Host.Outcome.next effect, remoteTimeout_state loaded ..⟩
  · have effect : stepTimeoutEffect c.val s = raiseJob s c.val 0x001C {} := by
      simp [stepTimeoutEffect, timed, inStep, before, forward, manual]
    obtain ⟨f, q, raised⟩ := (SameStep.refl (c := c.val) s).raiseJob c.val 0x001C {}
    exact ⟨_, congrArg Host.Outcome.next effect, by rw [raised], by rw [raised], (raiseJob_kept (by decide) (Kept.refl _ s)).frame⟩

end Sys2Proof.Proofs
end

section
/-! One step, whatever the command (R245): `exec` answers a next state from every state, and what an effect keeps, the step keeps. -/

namespace Sys2Proof.Proofs

open Sys2Proof Sys2Proof.Machine Sys2Proof.Laws

/-- Every part of the state: a `Kept` that names them all says only what no command changes. -/
def everyPart : List Part :=
  [.out, .hostMem, .dev, .scratch, .mem, .store, .sem, .vreg, .tile, .job, .fab, .trw, .rink, .post, .regs, .fw, .host, .cfg, .tel, .sec,
    .pwr, .boot]

theorem mem_everyPart (p : Part) : p ∈ everyPart := by cases p <;> decide

theorem subset_everyPart (F : List Part) : F ⊆ everyPart := fun p _ => mem_everyPart p

/-- The outcome is a next state, up to which everything was kept that no command changes. -/
def GoesOn (s : State) (o : Host.Outcome State Fault Refusal) : Prop := ∃ t, o = .next t ∧ Kept everyPart s t

theorem GoesOn.next {s t : State} (h : Kept everyPart s t) : GoesOn s (.next t) := ⟨t, rfl, h⟩

theorem linkLostSet_kept {C : List Part} {z s : State} {lost : Bool} (hC : ([.host] : List Part) ⊆ C) (h : Kept C z s) :
    Kept C z { s with host := { s.host with linkLost := lost } } := Kept.put h

/-- Every command goes on from every state: none is refused and none stops the part (R245). -/
theorem exec_goesOn (i : Instr) (s : State) : GoesOn s (exec i s) :=
  have all := subset_everyPart
  have r := Kept.refl everyPart s
  have next {t : State} (h : Kept everyPart s t) : GoesOn s (.next t) := .next h
  match i with
  | .descriptorIssue .. => next (descriptorIssueEffect_kept (all _) r)
  | .descriptorStart .. => next (descriptorStartEffect_kept (all _) r)
  | .descriptorComplete .. => next (descriptorCompleteEffect_kept (all _) r)
  | .dma .. => next (dmaEffect_kept (all _) r)
  | .matmul .. => next (matmulEffect_kept (all _) r)
  | .conv .. => next (convEffect_kept (all _) r)
  | .vec .. => next (vecEffect_kept (all _) r)
  | .joint .. => next (jointEffect_kept (all _) r)
  | .semWait .. => next (semWaitEffect_kept (all _) r)
  | .semSignal .. => next (semSignalEffect_kept (all _) r)
  | .semSet .. => next (semSetEffect_kept (all _) r)
  | .fabPut .. => next (fabMove_kept (all _) r)
  | .fabGet .. => next (fabMove_kept (all _) r)
  | .fabCollectiveStep .. => next (fabCollectiveEffect_kept (all _) r)
  | .tagGrant .. => next (tagGrantEffect_kept (all _) r)
  | .barrier .. => next (barrierEffect_kept (all _) r)
  | .barrierRelease .. => next (barrierReleaseEffect_kept (all _) r)
  | .event .. => next (eventEffect_kept (all _) r)
  | .eventAccept .. => next (eventAcceptEffect_kept (all _) r)
  | .drainEnd .. => next (drainEndEffect_kept (all _) r)
  | .boundaryViolation .. => next (boundaryViolationEffect_kept (all _) r)
  | .postedTimeout .. => next (postedTimeoutEffect_kept (all _) r)
  | .rollupComplete => next (rollupCompleteEffect_kept (all _) r)
  | .telFreeze .. => next (telFreezeEffect_kept (all _) r)
  | .periodicFreezeTick => next (periodicFreezeTickEffect_kept (all _) r)
  | .verdictReductionComplete .. => next (verdictReductionCompleteEffect_kept (all _) r)
  | .sweep .. => next (sweepEffect_kept (all _) r)
  | .stagingRoom .. => next (stagingRoomEffect_kept (all _) r)
  | .sweepEnd .. => next (sweepEndEffect_kept (all _) r)
  | .digestExchangeComplete .. => next (digestExchangeCompleteEffect_kept (all _) r)
  | .digestTriplesTimeout .. => next (digestTriplesTimeoutEffect_kept (all _) r)
  | .keeperGateOpen .. => next (keeperGateOpenEffect_kept (all _) r)
  | .releaseReductionComplete .. => next (releaseReductionCompleteEffect_kept (all _) r)
  | .startReductionComplete .. => next (startReductionCompleteEffect_kept (all _) r)
  | .controlReductionTimeout .. => next (controlReductionTimeoutEffect_kept (all _) r)
  | .stepTimeout .. => next (stepTimeoutEffect_kept (all _) r)
  | .jobLoad .. => next (jobLoadEffect_kept (all _) r)
  | .loadCheck .. => next (loadCheckEffect_kept (all _) r)
  | .jobStart .. => next (jobStartEffect_kept (all _) r)
  | .jobResume .. => next (jobResumeEffect_kept (all _) r)
  | .jobPreempt .. => next (jobPreemptEffect_kept (all _) r)
  | .jobUnload .. => next (jobUnloadEffect_kept (all _) r)
  | .jobTeardown .. => next (jobTeardownEffect_kept (all _) r)
  | .jobClear .. => next (jobClearEffect_kept (all _) r)
  | .ploughFinish .. => next (ploughCommand_kept (all _) r)
  | .ploughAbort .. => next (ploughCommand_kept (all _) r)
  | .creditAdd .. => next (creditWrite_kept (all _) r)
  | .creditOverflowClear .. => next (creditOverflowClearEffect_kept (all _) r)
  | .snapshotRequest .. => next (snapshotRequestEffect_kept (all _) r)
  | .snap .. => next (exportEffect_kept (all _) r)
  | .poolTake .. => next (poolTakeEffect_kept (all _) r)
  | .poolGive .. => next (poolGiveEffect_kept (all _) r)
  | .trowelQueueDoorbell .. => next (trowelQueueDoorbellEffect_kept (all _) r)
  | .digest .. => next (digestEffect_kept (all _) r)
  | .replay .. => next (replayEffect_kept (all _) r)
  | .base .. => next (exportEffect_kept (all _) r)
  | .importBase .. => next (importEffect_kept (all _) r)
  | .init .. => next (initEffect_kept (all _) r)
  | .trowelDone .. => next (trowelDoneEffect_kept (all _) r)
  | .trailMover .. => next (trailMoverEffect_kept (all _) r)
  | .sinkPoll .. => next (sinkPollEffect_kept (all _) r)
  | .sinkReadTimeout .. => next (sinkReadTimeoutEffect_kept (all _) r)
  | .packetForward (some _) _ => next (arrive_kept (all _) r)
  | .packetForward none _ => next (inject_kept (all _) r)
  | .write .. => next (writeEffect_kept (all _) r)
  | .writeLast .. => next (writeEffect_kept (all _) r)
  | .ack .. => next (ackEffect_kept (all _) r)
  | .lateWrite .. => next (lateWriteEffect_kept (all _) r)
  | .readReq .. => next (readReqEffect_kept (all _) r)
  | .readData .. => next (readDataEffect_kept (all _) r)
  | .readNak .. => next (readNakEffect_kept (all _) r)
  | .getTimeout .. => next (getTimeoutEffect_kept (all _) r)
  | .coll .. => next (collEffect_kept (all _) r)
  | .collectiveTimeout .. => next (collectiveTimeoutEffect_kept (all _) r)
  | .ctrlReduceUp .. => next (ctrlReduceEffect_kept (all _) r)
  | .ctrlReduceDown .. => next (ctrlReduceEffect_kept (all _) r)
  | .absentNotice .. => next (unlessReset_kept (all _) r (absentNoticeEffect_kept (all _) r))
  | .presentNotice .. => next (unlessReset_kept (all _) r (presentNoticeEffect_kept (all _) r))
  | .jobLostNotice .. => next (unlessReset_kept (all _) r (jobLostNoticeEffect_kept (all _) r))
  | .ploughNotice .. => next (unlessReset_kept (all _) r (ploughNoticeEffect_kept (all _) r))
  | .fw _ => next r
  | .timeSend => next (timeSendEffect_kept (all _) r)
  | .time .. => next (timeEffect_kept (all _) r)
  | .timeSet .. => next (timeSetEffect_kept (all _) r)
  | .heartbeatSend => next (heartbeatSendEffect_kept (all _) r)
  | .heartbeat .. => next (heartbeatEffect_kept (all _) r)
  | .heartbeatTimeout .. => next (heartbeatTimeoutEffect_kept (all _) r)
  | .linkDown .. => next (linkDownEffect_kept (all _) r)
  | .linkDegraded .. => next (linkDegradedEffect_kept (all _) r)
  | .linkTrainState .. => next (linkTrainStateEffect_kept (all _) r)
  | .linkTrainTimeout .. => next (linkTrainTimeoutEffect_kept (all _) r)
  | .fecReplay .. => next (.ite (emit_kept (all _) (bump_kept (all _) (bump_kept (all _) r))) r)
  | .creditReturn .. => next (creditReturnEffect_kept (all _) r)
  | .prbsStart .. => next (prbsStartEffect_kept (all _) r)
  | .prbsStop .. => next (prbsStopEffect_kept (all _) r)
  | .announcementEnd => next (announcementEndEffect_kept (all _) r)
  | .unitHang .. => next (unitHangEffect_kept (all _) r)
  | .thermalTrip .. => next (thermalTripEffect_kept (all _) r)
  | .supplyFault .. => next (supplyFaultEffect_kept (all _) r)
  | .routerFault _ => next (.ite (partFault_kept (all _) r) r)
  | .coolantOkDeassert => next (coolantOkDeassertEffect_kept (all _) r)
  | .aonLoss => next (aonLossEffect_kept (all _) r)
  | .refclkLoss => next (refclkLossEffect_kept (all _) r)
  | .aonPowerOnReset .. => next (aonPowerOnResetEffect_kept (all _) r)
  | .regulatorStart => next (regulatorStartEffect_kept (all _) r)
  | .coldBoot .. => next (coldBootEffect_kept (all _) r)
  | .memoryTrainingComplete => next (memoryTrainingCompleteEffect_kept (all _) r)
  | .ready => next (readyEffect_kept (all _) r)
  | .rstWarm .. => next (rstWarmEffect_kept (all _) r)
  | .perstNAssert => next (perstNAssertEffect_kept (all _) r)
  | .perstNDeassert => next (perstNDeassertEffect_kept (all _) r)
  | .warmRestart => next (warmRestartEffect_kept (all _) r)
  | .rstCompute .. => next (rstComputeEffect_kept (all _) r)
  | .functionLevelReset => next (functionLevelResetEffect_kept (all _) r)
  | .pcieLinkLoss => next (.ite r (linkLostSet_kept (all _) r))
  | .rstact .. => next (rstactEffect_kept (all _) r)
  | .softReset .. => next (softResetEffect_kept (all _) r)
  | .stWrite .. => next (stWriteEffect_kept (all _) r)
  | .cfgCheck => next (cfgCheckEffect_kept (all _) r)
  | .cfgCheckDone => next (cfgCheckDoneEffect_kept (all _) r)
  | .cfgApply => next (cfgApplyEffect_kept (all _) r)
  | .cfgDiscard .. => next (cfgDiscardEffect_kept (all _) r)
  | .cfgSave => next (cfgSaveEffect_kept (all _) r)
  | .cfgSaveDone .. => next (cfgSaveDoneEffect_kept (all _) r)
  | .sleep => next (sleepEffect_kept (all _) r)
  | .wake => next (wakeEffect_kept (all _) r)
  | .lowPowerExit => next (lowPowerExitEffect_kept (all _) r)
  | .pairGate .. => next (pairGateEffect_kept (all _) r)
  | .governorRelease => next (governorReleaseEffect_kept (all _) r)
  | .powerControlTick .. => next (powerControlTickEffect_kept (all _) r)
  | .thermalLimitTick .. => next (thermalLimitTickEffect_kept (all _) r)
  | .droopStretch .. => next (droopStretchEffect_kept (all _) r)
  | .voltageLoopTick .. => next (voltageLoopTickEffect_kept (all _) r)
  | .memoryRecentre .. => next (memoryRecentreEffect_kept (all _) r)
  | .fabricEqualisation .. => next (fabricEqualisationEffect_kept (all _) r)
  | .brakeAssert => next (brakeAssertEffect_kept (all _) r)
  | .brakeDeassert => next (brakeDeassertEffect_kept (all _) r)
  | .tenantSwitch .. => next (tenantSwitchEffect_kept (all _) r)
  | .scrubComplete .. => next (scrubCompleteEffect_kept (all _) r)
  | .weightSetClose .. => next (weightSetCloseEffect_kept (all _) r)
  | .weightChunk .. => next (weightChunkEffect_kept (all _) r)
  | .secRefused => next (secRefusedEffect_kept (all _) r)
  | .getVersion .. => next (getVersionEffect_kept (all _) r)
  | .getCapabilities .. => next (getCapabilitiesEffect_kept (all _) r)
  | .negotiateAlgorithms .. => next (spdmRequest_kept r fun _ h => spdm_kept (all _) h)
  | .getDigests .. => next (spdmRequest_kept r fun _ h => spdm_kept (all _) h)
  | .getCertificate .. => next (spdmRequest_kept r fun _ h => spdm_kept (all _) h)
  | .challenge .. => next (challengeEffect_kept (all _) r)
  | .getMeasurements .. => next (getMeasurementsEffect_kept (all _) r)
  | .keyExchange .. => next (secRequest_kept (all _) r)
  | .finish .. => next (secRequest_kept (all _) r)
  | .spdmHeartbeat .. => next (inSession_kept (all _) r fun _ h => h)
  | .keyUpdate .. => next (inSession_kept (all _) r fun _ h => h)
  | .endSession .. => next (endSessionEffect_kept (all _) r)
  | .chunkSend .. => next (chunkSendEffect_kept (all _) r)
  | .chunkGet .. => next (chunkGetEffect_kept (all _) r)
  | .report .. => next (reportEffect_kept (all _) r)
  | .setKey .. => next (secRequest_kept (all _) r)
  | .releaseKey .. => next (secRequest_kept (all _) r)
  | .ownerKeyUpdate .. => next (secRequest_kept (all _) r)
  | .setEndpointId .. => next (setEndpointIdEffect_kept (all _) r)
  | .mctpRegisterRead .. => next (mctpRegisterReadEffect_kept (all _) r)
  | .mctpRegisterWrite .. => next (mctpRegisterWriteEffect_kept (all _) r)
  | .i3cPrivateWrite .. => next (i3cPrivateWriteEffect_kept (all _) r)
  | .i3cPrivateRead .. => next (i3cPrivateReadEffect_kept (all _) r)
  | .dynamicAddressAssignment .. => next (dynamicAddressAssignmentEffect_kept (all _) r)
  | .registerWrite .. => next (registerWriteEffect_kept (all _) r)
  | .accessErrRead .. => next (accessErrReadEffect_kept (all _) r)
  | .irqStatusClear .. => next (irqStatusClearEffect_kept (all _) r)
  | .irqForce .. => next (irqForceEffect_kept (all _) r)
  | .queuePop .. => next (queuePopEffect_kept (all _) r)
  | .queueConfigWrite .. => next (queueConfigWriteEffect_kept (all _) r)
  | .bar4BaseWrite .. => next (bar4BaseWriteEffect_kept (all _) r)
  | .bar4Read .. => next (bar4ReadEffect_kept (all _) r)
  | .bar4Write .. => next (bar4WriteEffect_kept (all _) r)
  | .eventQueueDoorbell .. => next (eventQueueDoorbellEffect_kept (all _) r)
  | .dmaDoorbell .. => next (dmaDoorbellEffect_kept (all _) r)
  | .hostDmaDescriptor .. => next (hostDmaDescriptorEffect_kept (all _) r)
  | .hostDmaComplete .. => next (hostDmaCompleteEffect_kept (all _) r)
  | .fwOpen .. => next (fwOpenEffect_kept (all _) r)
  | .fwData .. => next (fwDataEffect_kept (all _) r)
  | .fwCommit .. => next (fwCommitEffect_kept (all _) r)
  | .fwAbort .. => next (fwAbortEffect_kept (all _) r)
  | .fwUpdateDone .. => next (fwUpdateDoneEffect_kept (all _) r)
  | .courseFence .. => next (courseFenceEffect_kept (all _) r)
  | .courseBist .. => next (courseBistEffect_kept (all _) r)
  | .bistDone .. => next (bistDoneEffect_kept (all _) r)
  | .courseRelease .. => next (courseReleaseEffect_kept (all _) r)
  | .unitOutOfService .. => next (unitOutOfServiceEffect_kept (all _) r)
  | .unitSelfTest .. => next (unitSelfTestEffect_kept (all _) r)
  | .selfTestDone .. => next (selfTestDoneEffect_kept (all _) r)
  | .unitReturnToService .. => next (unitReturnToServiceEffect_kept (all _) r)
  | .idleScrub .. => next (idleScrubEffect_kept (all _) r)
  | .ingestRingPoll .. => next (pollRing_kept (all _) r fun _ _ _ _ h => takeIngest_kept (all _) h)
  | .ingestOpen .. => next (ingestOpenEffect_kept (all _) r)
  | .decode .. => next (decodeEffect_kept (all _) r)
  | .decodeComplete .. => next (decodeCompleteEffect_kept (all _) r)
  | .shape .. => next (shapeEffect_kept (all _) r)
  | .shapeComplete .. => next (shapeCompleteEffect_kept (all _) r)
  | .ingestClose .. => next (ingestCloseEffect_kept (all _) r)
  | .encodeRingPoll .. => next (pollRing_kept (all _) r fun _ _ _ _ h => takeEncode_kept (all _) h)
  | .encodeOpen .. => next (encodeOpenEffect_kept (all _) r)
  | .encode .. => next (encodeEffect_kept (all _) r)
  | .encodeAttemptComplete .. => next (encodeAttemptCompleteEffect_kept (all _) r)
  | .pictureComplete .. => next (pictureCompleteEffect_kept (all _) r)
  | .encodeClose .. => next (encodeCloseEffect_kept (all _) r)
  | .postRingPoll .. => next (postRingPollEffect_kept (all _) r)
  | .decodeAndNms .. => next (decodeAndNmsEffect_kept (all _) r)
  | .nms .. => next (nmsEffect_kept (all _) r)
  | .postCommandComplete .. => next (postCommandCompleteEffect_kept (all _) r)
  | .peerReadTimeout .. => next (peerReadTimeoutEffect_kept (all _) r)
  | .abortDigestWaitEnd .. => next (abortDigestWaitEndEffect_kept (all _) r)
  | .d3hotTransition .. => next (d3hotTransitionEffect_kept (all _) r)
  | .bar4Resize .. => next (bar4ResizeEffect_kept (all _) r)
  | .boundaryScanInstruction .. => next (boundaryScanInstructionEffect_kept (all _) r)
  | .testLogicReset => next (testLogicResetEffect_kept (all _) r)
  | .sealedRangeZeroed .. => next (sealedRangeZeroedEffect_kept (all _) r)

/-- Settles O2: the queue's front leaves by the step itself, and the command, or the idle tick, keeps the rest. -/
theorem stepKeepsTheInvariants : Obligations.StepKeepsTheInvariants := by
  intro s
  unfold step
  split
  · next idle =>
    have kept := idleTick_kept (subset_everyPart _) (.refl _ s)
    exact ⟨idleTick s, rfl, by rw [kept.pending, idle]; rfl, kept.out, kept.free, kept.mems⟩
  · next i rest front =>
    obtain ⟨t, next, kept⟩ := exec_goesOn i { s with pending := rest }
    exact ⟨t, next, by rw [kept.pending, front]; rfl, kept.out, kept.free, kept.mems⟩

end Sys2Proof.Proofs
end

section
/-! What stopping a job releases (R259), and what an apply brings with it (R353, R445 to R449): links that restart, parts that go
absent for it and the ploughs of their jobs. What each of these keeps, the apply keeps. -/

namespace Sys2Proof.Proofs

open Sys2Proof Sys2Proof.Machine Sys2Proof.Laws

/-! ### A job that stops -/

theorem bars_of_kept {C : List Part} {s t : State} (k : Kept C s t) (out : Part.tile ∉ C) : t.tile.bars = s.tile.bars :=
  (congrArg TileSt.bars (k.frame .tile out) :)

/-- The job's barrier generations end with its tiles (R259 action 2). -/
theorem stopTiles_bars (s : State) (c : Nat) : (stopTiles s c).tile.bars = s.tile.bars.filter fun b => b.ctx ≠ c := by
  have outputs : ∀ l : List (Nat × Nat), (forEach l s (undefOut (ctxOf s c).man)).tile.bars = s.tile.bars := fun _ =>
    forEach_keeps (P := fun u => u.tile.bars = s.tile.bars)
      (fun u _ hu => (bars_of_kept (undefOut_kept (List.Subset.refl _) (Kept.refl _ u)) (by decide)).trans hu) rfl
  have scratch : ∀ (p : Prop) [Decidable p] (u : State), (if p then u else undefScratch u c).tile.bars = u.tile.bars := fun p _ u => by
    split <;> rfl
  unfold stopTiles
  refine congrArg (List.filter _) ((scratch _ _).trans ?_)
  refine forEach_keeps (P := fun u => u.tile.bars = s.tile.bars) (fun u n hu => ?_) (outputs _)
  exact hu

/-- The job's tags are free once it has stopped; nothing else of the switchback changes (R259 action 3). -/
theorem stopJob_fab (s : State) (c : Nat) : (stopJob s c).fab = { s.fab with tags := s.fab.tags.filter fun t => t.2 ≠ c } := by
  have tiles : (stopTiles s c).fab = s.fab := (stopTiles_kept (List.Subset.refl _) (Kept.refl _ s)).frame .fab (by decide)
  have rest : Kept [.dev, .mem, .job, .rink, .post] (stopFab (stopTiles s c) c) (stopJob s c) :=
    rinkStop_kept (by decide) (postHalt_kept (by decide) (updCtx_kept (by decide) (Kept.refl _ _)))
  have tags : (stopFab (stopTiles s c) c).fab =
      { (stopTiles s c).fab with tags := (stopTiles s c).fab.tags.filter fun t => t.2 ≠ c } := rfl
  rw [rest.frame .fab (by decide), tags, tiles]

theorem stopJob_bars (s : State) (c : Nat) : (stopJob s c).tile.bars = s.tile.bars.filter fun b => b.ctx ≠ c := by
  have rest : Kept [.dev, .mem, .job, .fab, .rink, .post] (stopTiles s c) (stopJob s c) :=
    rinkStop_kept (by decide) (postHalt_kept (by decide) (updCtx_kept (by decide) (stopFab_kept (by decide) (Kept.refl _ _))))
  rw [bars_of_kept rest (by decide), stopTiles_bars]

theorem SameStep.updCtx {c : Nat} {z s : State} (h : SameStep c z s) (d : Nat) {g : JobCtx → JobCtx}
    (fabric : ∀ j, ∃ f, g j = { j with fab := f }) : SameStep c z (updCtx s d g) := by
  obtain ⟨f, q, ctx⟩ := h
  by_cases own : c = d
  · obtain ⟨f', change⟩ := fabric (ctxOf s c)
    exact ⟨f', q, by rw [← own, ctxOf_updCtx_same, change, ctx]⟩
  · exact ⟨f, q, by rw [ctxOf_updCtx, if_neg own, ctx]⟩

/-- Stopping a job writes no more of any context than its fabric state and its event queue. -/
theorem SameStep.stopJob {c : Nat} {z s : State} (h : SameStep c z s) (d : Nat) : SameStep c z (stopJob s d) := by
  have tiles := h.of_kept (stopTiles_kept (c := d) (List.Subset.refl _) (Kept.refl _ s)) (by decide)
  have fabric : SameStep c z (stopFab (stopTiles s d) d) := by
    refine SameStep.of_ctxs (s := Machine.updCtx (stopTiles s d) d _) ?_ rfl
    exact tiles.updCtx d fun _ => ⟨_, rfl⟩
  have events : SameStep c z (stopEvents (stopFab (stopTiles s d) d) d) := fabric.updEvq d _
  exact (events.of_kept (postHalt_kept (List.Subset.refl _) (Kept.refl _ _)) (by decide)).of_kept
    (rinkStop_kept (List.Subset.refl _) (Kept.refl _ _)) (by decide)

/-- The state of a job that aborts, before it parks or waits for its digests (R259 actions 1 to 5). -/
abbrev halted (s : State) (c : Nat) : State := resetSems (postDiscard (stopJob s c) c) c (heldCourses s c)

theorem halted_kept (s : State) (c : Nat) : Kept [.dev, .mem, .sem] (stopJob s c) (halted s c) :=
  resetSems_kept (by decide) (postDiscard_kept (by decide) (Kept.refl _ _))

theorem SameStep.halted (s : State) (c : Nat) : SameStep c s (halted s c) :=
  ((SameStep.refl s).stopJob c).of_kept (halted_kept s c) (by decide)

/-- Once the job has stopped, an abort moves no tag and no barrier. -/
theorem abortNow_kept_stopJob (s : State) (c : Nat) :
    Kept [.out, .hostMem, .dev, .mem, .sem, .job, .host] (stopJob s c) (abortNow s c) := by
  have stopped : Kept [.out, .hostMem, .dev, .mem, .sem, .job, .host] (stopJob s c) (halted s c) :=
    resetSems_kept (by decide) (postDiscard_kept (by decide) (Kept.refl _ _))
  exact Kept.ite (updCtx_kept (by decide) stopped) (parkPloughed_kept (by decide) (updTrn_kept (by decide) stopped))

theorem abortNow_tags (s : State) (c : Nat) : (abortNow s c).fab.tags = s.fab.tags.filter fun t => t.2 ≠ c := by
  rw [(abortNow_kept_stopJob s c).frame .fab (by decide), stopJob_fab]

theorem abortNow_bars (s : State) (c : Nat) : (abortNow s c).tile.bars = s.tile.bars.filter fun b => b.ctx ≠ c := by
  rw [bars_of_kept (abortNow_kept_stopJob s c) (by decide), stopJob_bars]

/-! ### What an apply brings -/

/-- The contexts, the fabric tags and the barrier generations are the same. -/
structure JobsAside (s t : State) : Prop where
  ctxs : t.job.ctxs = s.job.ctxs
  tags : t.fab.tags = s.fab.tags
  bars : t.tile.bars = s.tile.bars

section

variable {C : List Part} {s t u : State}

theorem JobsAside.refl (s : State) : JobsAside s s := ⟨rfl, rfl, rfl⟩

theorem JobsAside.trans (h : JobsAside s t) (k : JobsAside t u) : JobsAside s u :=
  ⟨k.ctxs.trans h.ctxs, k.tags.trans h.tags, k.bars.trans h.bars⟩

theorem JobsAside.of_kept (k : Kept C s t) (job : Part.job ∉ C) (tile : Part.tile ∉ C) (tags : t.fab.tags = s.fab.tags) : JobsAside s t :=
  ⟨congrArg JobSt.ctxs (k.frame .job job), tags, bars_of_kept k tile⟩

theorem JobsAside.of_frame (k : Kept C s t) (job : Part.job ∉ C) (tile : Part.tile ∉ C) (fab : Part.fab ∉ C) : JobsAside s t :=
  .of_kept k job tile (congrArg FabSt.tags (k.frame .fab fab))

theorem JobsAside.ite {p : Prop} [Decidable p] (h : JobsAside s t) (k : JobsAside s u) : JobsAside s (if p then t else u) := by
  split
  · exact h
  · exact k

theorem JobsAside.forEach {α : Type} {f : State → α → State} (step : ∀ u a, JobsAside u (f u a)) (l : List α) (s : State) :
    JobsAside s (forEach l s f) := forEach_keeps (P := JobsAside s) (fun u a hu => hu.trans (step u a)) (.refl s)

end

theorem Traffic.tags {s t : State} (h : Traffic s t) : t.fab.tags = s.fab.tags := (congrArg FabSt.tags h.fab :)

theorem flood_aside (s : State) (kind job : Nat) (payload : List Byte) (except : Option Nat) :
    JobsAside s (flood s kind job payload except) :=
  .of_kept (flood_kept (List.Subset.refl _) (Kept.refl _ s)) (by decide) (by decide) ((Traffic.refl s).flood ..).tags

theorem reroute_aside (s : State) (p : Nat) : JobsAside s (reroute s p) :=
  .of_kept (reroute_kept (List.Subset.refl _) (Kept.refl _ s)) (by decide) (by decide) ((Traffic.refl s).reroute p).tags

theorem refollow_aside (s : State) : JobsAside s (refollow s) :=
  .of_kept (refollow_kept (List.Subset.refl _) (Kept.refl _ s)) (by decide) (by decide) (congrArg FabSt.tags (refollow_fab s) :)

theorem chgLink_aside (s : State) (p : Nat) (f : Link → Link) : JobsAside s (chgLink s p f) :=
  .of_kept (chgLink_kept (List.Subset.refl _) (Kept.refl _ s)) (by decide) (by decide) (congrArg FabSt.tags (chgLink_fab s p f) :)

theorem afterOut_aside (s : State) (p : Nat) : JobsAside s (afterOut s p) := by
  have twin : JobsAside s (twinCheck s p) := .ite (chgLink_aside ..) (.refl s)
  exact (twin.trans (reroute_aside _ p)).trans (refollow_aside _)

theorem restartLink_aside (s : State) (p : Nat) : JobsAside s (restartLink s p) := (chgLink_aside ..).trans (chgLink_aside ..)

theorem cutLinks_aside (s : State) (x : Nat) : JobsAside s (cutLinks s x) :=
  (JobsAside.forEach (fun u _ => chgLink_aside u _ _) _ s).trans (.forEach (fun u _ => reroute_aside u _) _ _)

theorem raisePart_aside (s : State) (code : Nat) (f : EvF) : JobsAside s (raisePart s code f) :=
  .of_frame (raisePart_kept (List.Subset.refl _) (Kept.refl _ s)) (by decide) (by decide) (by decide)

theorem cfgResult_aside (s : State) (code rule wh : Nat) : JobsAside s (cfgResult s code rule wh) :=
  .of_frame (cfgResult_kept (List.Subset.refl _) (Kept.refl _ s)) (by decide) (by decide) (by decide)

theorem clockTick_aside (s : State) (p : Nat) : JobsAside s (clockTick s p) := .ite ⟨rfl, rfl, rfl⟩ (.refl s)

theorem addKey_aside (s : State) (kind b01 b4 : Nat) : JobsAside s (addKey s kind b01 b4) := by
  unfold addKey
  exact ⟨rfl, rfl, rfl⟩

/-- What an apply keeps if these do: whatever leaves the contexts, tags and barriers alone (links, seeds, clocks, keys), the sinks that
it starts anew, and the ploughs of jobs for which a part goes absent. -/
structure ApplyKeeps (P : State → Prop) : Prop where
  aside : ∀ {s t}, JobsAside s t → P s → P t
  sinks : ∀ s d k, P s → P (updTrn s d fun t => { t with sinks := mset t.sinks {} k {} })
  ploughs : ∀ s d, P s → P (ploughSpread s d .abort 2)

section

variable {P : State → Prop} {s : State} (keeps : ApplyKeeps P)
include keeps

theorem ApplyKeeps.absentNow (h : P s) (x cause b23 : Nat) (port : Option Nat) : P (absentNow s x cause b23 port) := by
  have listed : JobsAside s { s with fab := { s.fab with absent := s.fab.absent ++ [(x, cause)] } } := ⟨rfl, rfl, rfl⟩
  have spread : ∀ u, JobsAside u (flood (refollow (cutLinks u x)) 0x10 0 (noticeBytes x b23 cause 0) port) := fun u =>
    ((cutLinks_aside u x).trans (refollow_aside _)).trans (flood_aside ..)
  have told : ∀ (p : Prop) [Decidable p] (u : State), JobsAside u (if p then raisePart u 0x0106 { cause := cause, coords := x } else u) :=
    fun _ _ u => .ite (raisePart_aside ..) (.refl u)
  unfold Machine.absentNow
  split
  · exact h
  · dsimp only
    split
    · exact h
    · split
      · exact keeps.aside ((((addKey_aside s 0x10 x 0).trans (raisePart_aside _ 0x0107 { coords := x })).trans (spread _)).trans (told _ _)) h
      · refine forEach_keeps (P := P) (fun u d hu => ?_) (keeps.aside ((listed.trans (spread _)).trans (told _ _)) h)
        split
        · exact keeps.ploughs u d hu
        · exact hu

theorem ApplyKeeps.portsOut (h : P s) (port cause : Nat) : P (portsOut s port cause) := by
  unfold Machine.portsOut
  split
  · split
    · exact h
    · exact keeps.absentNow h ..
  · exact h

theorem ApplyKeeps.restartLinks (h : P s) (ps : List Nat) : P (restartLinks s ps) := by
  unfold Machine.restartLinks
  dsimp only
  refine forEach_keeps (P := P) (fun u p hu => keeps.portsOut hu p 1) (keeps.aside ?_ h)
  exact (JobsAside.forEach restartLink_aside ps s).trans (.forEach afterOut_aside _ _)

theorem ApplyKeeps.afterApply (h : P s) (old : State) : P (afterApply old s) := by
  have keyed : ∀ (p : Prop) [Decidable p] (u : State), JobsAside u (if p then dropStaleKeys u else u) := fun _ _ u =>
    .ite ⟨rfl, rfl, rfl⟩ (.refl u)
  have lowered : ∀ u : State, JobsAside u (lowerClocks u) := fun u =>
    .of_frame (lowerClocks_kept (List.Subset.refl _) (Kept.refl _ u)) (by decide) (by decide) (by decide)
  have followed : ∀ (p : Prop) [Decidable p] (u : State), JobsAside u (if p then u else refollow u) := fun _ _ u =>
    .ite (.refl u) (refollow_aside u)
  unfold Machine.afterApply
  refine keeps.aside ((keyed _ _).trans (lowered _)) (forEach_keeps (P := P) (fun u i hu => ?_)
    (forEach_keeps (P := P) (fun u i hu => ?_) (keeps.restartLinks ?_ _)))
  · dsimp only
    split
    · refine keeps.aside (s := u) ?_ hu
      exact ⟨rfl, rfl, rfl⟩
    · exact hu
  · dsimp only
    split
    · exact keeps.sinks u _ _ hu
    · exact hu
  · refine keeps.aside (JobsAside.trans ?_ (followed _ _)) h
    refine JobsAside.forEach (fun _ _ => ?_) _ s
    exact ⟨rfl, rfl, rfl⟩

theorem ApplyKeeps.goLive (h : P s) : P (goLive s) := by
  have settles : ∀ (u : State) (n : Nat), JobsAside u (spinSettle u n) := fun _ _ => ⟨rfl, rfl, rfl⟩
  have settled : ∀ ns ps : List Nat, JobsAside s (forEach ns (forEach ps s clockTick) spinSettle) := fun ns ps =>
    (JobsAside.forEach clockTick_aside ps s).trans (.forEach settles ns _)
  unfold Machine.goLive
  refine keeps.afterApply (keeps.aside ?_ h) _
  exact (settled _ _).trans ⟨rfl, rfl, rfl⟩

/-- What the ploughs of absent parts keep, the apply of an idle part keeps (R353). -/
theorem ApplyKeeps.applyIfIdle (h : P s) : P (applyIfIdle s) := by
  unfold Machine.applyIfIdle Machine.applyNow
  split
  · split
    · exact h
    · split
      · exact keeps.aside (s := s) (JobsAside.trans (t := { s with cfg := { s.cfg with state := 1 } }) ⟨rfl, rfl, rfl⟩ (cfgResult_aside ..)) h
      · exact keeps.aside (cfgResult_aside ..) (keeps.goLive h)
  · exact h

end

/-- While a job is in its step or its boundary the part is not idle, and no apply acts (R353). -/
theorem applyIfIdle_inStep {s : State} {c : Nat} (below : c < 8) (inStep : (ctxOf s c).inStep = true) : applyIfIdle s = s := by
  refine if_neg fun idle => ?_
  have out := List.all_eq_true.1 idle c (List.mem_range.2 below)
  simp [inStep] at out

end Sys2Proof.Proofs
end

section
/-! PLOUGH_FINISH and PLOUGH_ABORT (R258 to R260): what a plough command starts, at once or at the end of the step, and what the
job keeps and gives up. -/

namespace Sys2Proof.Proofs

open Sys2Proof Sys2Proof.Machine Sys2Proof.Laws

/-! ### The command and its result -/

theorem jobResult_job (s : State) (c code index : Nat) : (jobResult s c code index).job =
    { s.job with result := BitVec.ofNat 32 (c * 2 ^ 24 + code * 2 ^ 16), resultIndex := index } :=
  (blockEvent_kept (List.Subset.refl _) (Kept.refl _ _)).frame .job (by decide)

/-- JOB_RESULT is about no context, tag or barrier (R469). -/
theorem jobResult_aside (s : State) (c code index : Nat) : JobsAside s (jobResult s c code index) := by
  have kept := jobResult_kept (c := c) (code := code) (index := index) (List.Subset.refl _) (Kept.refl _ s)
  exact ⟨(congrArg JobSt.ctxs (jobResult_job ..) :), congrArg FabSt.tags (kept.frame .fab (by decide)), bars_of_kept kept (by decide)⟩

theorem JobsAside.ctxOf {s t : State} (h : JobsAside s t) (c : Nat) : ctxOf t c = ctxOf s c := by rw [Machine.ctxOf, h.ctxs, Machine.ctxOf]

/-- On a part that is READY, with no load waiting and no compute reset, a plough command starts the plough (R258, R469). -/
theorem ploughCommand_starts {s : State} {c : Nat} (up : isReady s = true) (idle : s.job.loads = []) (runs : s.boot.resetting = false)
    (works : (ctxOf s c).state = .running ∨ (ctxOf s c).state = .draining) (mode : Plough) :
    ploughCommand c mode s = jobResult (ploughFrom s c mode 1) c 0 0 := by
  simp [ploughCommand, jobCommand, jobBusy, up, idle, runs, works]

/-! ### The plough begins -/

/-- The job's plough has begun, with its mode and cause (R258). -/
def ploughing (s : State) (c : Nat) (mode : Plough) (cause : Nat) : State :=
  updCtx s c fun j => { j with plough := some mode, ploughCause := cause }

theorem floodPlough_aside (s : State) (c mode cause : Nat) : JobsAside s (floodPlough s c mode cause) :=
  .ite (.refl s) ((addKey_aside ..).trans (flood_aside ..))

/-- The job's plough has begun in abort mode, and its other parts are told (R258, R259). -/
def abortBegun (s : State) (c cause : Nat) : State := ploughing (floodPlough s c 1 cause) c .abort cause

theorem ctxOf_abortBegun (s : State) (c cause : Nat) :
    ctxOf (abortBegun s c cause) c = { ctxOf s c with plough := some .abort, ploughCause := cause } := by
  rw [abortBegun, ploughing, ctxOf_updCtx_same, (floodPlough_aside s c 1 cause).ctxOf c]

section

variable {s : State} {c : Nat} (works : (ctxOf s c).state = .running ∨ (ctxOf s c).state = .draining) (unploughed : (ctxOf s c).plough = none)
include works unploughed

theorem ploughNow_finish (cause : Nat) : ploughNow s c .finish cause =
    if (ctxOf s c).stepIn = true ∨ (ctxOf s c).state = .draining then ploughing s c .finish cause
    else parkPloughed (ploughing s c .finish cause) c 0 0xFFFFFFFF := by
  simp [ploughNow, works, unploughed, ploughing]

theorem ploughNow_abort (cause : Nat) : ploughNow s c .abort cause = abortNow (ploughing s c .abort cause) c := by
  simp [ploughNow, works, unploughed, ploughing]

/-- The first start of a plough is flooded to the job's other parts, and acts here (R258). -/
theorem ploughSpread_first (mode : Plough) (cause : Nat) :
    ploughSpread s c mode cause = ploughNow (floodPlough s c (if mode = .abort then 1 else 0) cause) c mode cause := by
  simp [ploughSpread, works, unploughed]

theorem ploughSpread_aborts (cause : Nat) : ploughSpread s c .abort cause = abortNow (abortBegun s c cause) c := by
  have flooded := (floodPlough_aside s c 1 cause).ctxOf c
  rw [ploughSpread_first works unploughed, if_pos rfl, ploughNow_abort (by rw [flooded]; exact works) (by rw [flooded]; exact unploughed), abortBegun]

end

/-- In a step the plough in finish mode waits for the step's end, and no apply comes before it (R260, R353). -/
theorem applyIfIdle_ploughNow_finish {s : State} {c : Nat} (below : c < 8) (works : (ctxOf s c).state = .running)
    (unploughed : (ctxOf s c).plough = none) (inStep : (ctxOf s c).stepIn = true) (cause : Nat) :
    applyIfIdle (ploughNow s c .finish cause) = ploughing s c .finish cause := by
  rw [ploughNow_finish (.inl works) unploughed, if_pos (.inl inStep)]
  refine applyIfIdle_inStep below ?_
  rw [ploughing, ctxOf_updCtx_same]
  simp [JobCtx.inStep, inStep]

/-- A job that the plough parked, and that at most applies have followed (R259 action 7). -/
theorem Dormant.parked_fields {u t : State} {c : Nat} (parks : Dormant c (ctxOf (parked u c) c) t) :
    (ctxOf t c).state = .parked ∧ (ctxOf t c).stepIn = false ∧ (ctxOf t c).plough = none := by
  obtain ⟨q, r, ctx⟩ := parks.ctx
  rw [ctx, parked, ctxOf_updCtx_same]
  exact ⟨rfl, rfl, rfl⟩

/-- The abort is noted in the context, which waits for its digests (R259). -/
def noteAbort (j : JobCtx) : JobCtx := { j with plough := some .abort, bnd := { j.bnd with aborting := true } }

theorem abortNow_digests {s : State} {c : Nat} (digests : (ctxOf s c).bnd.phase = .digests) :
    abortNow s c = updCtx (halted s c) c noteAbort := if_pos (.inr digests)

/-! ### What ploughs leave of a context -/

/-- From s to t the committed step of the context stands, and no tag and no barrier generation has come up. -/
structure Yields (c : Nat) (s t : State) : Prop where
  committed : (ctxOf t c).trn.committed = (ctxOf s c).trn.committed
  tags : t.fab.tags ⊆ s.fab.tags
  bars : t.tile.bars ⊆ s.tile.bars

section

variable {c : Nat} {z s : State}

theorem Yields.refl (s : State) : Yields c s s := ⟨rfl, List.Subset.refl _, List.Subset.refl _⟩

theorem Yields.aside (h : Yields c z s) {t : State} (k : JobsAside s t) : Yields c z t :=
  ⟨(congrArg (·.trn.committed) (k.ctxOf c)).trans h.committed, k.tags ▸ h.tags, k.bars ▸ h.bars⟩

theorem Yields.updCtx (h : Yields c z s) (d : Nat) {f : JobCtx → JobCtx} (keep : ∀ j, (f j).trn.committed = j.trn.committed) :
    Yields c z (updCtx s d f) := by
  refine ⟨?_, h.tags, h.bars⟩
  rw [ctxOf_updCtx]
  split
  · next own => rw [keep, ← own, h.committed]
  · exact h.committed

theorem Yields.jobEvent (h : Yields c z s) (d : Nat) (v : Ev) : Yields c z (jobEvent s d v) := by
  obtain ⟨f, q, ctx⟩ := (SameStep.refl (c := c) s).jobEvent d v
  have kept := jobEvent_kept (c := d) (e := v) (List.Subset.refl _) (Kept.refl _ s)
  have fab : (Machine.jobEvent s d v).fab = s.fab := kept.frame .fab (by decide)
  exact ⟨by rw [ctx]; exact h.committed, by rw [fab]; exact h.tags, by rw [bars_of_kept kept (by decide)]; exact h.bars⟩

theorem Yields.parkPloughed (h : Yields c z s) (d mode aborted : Nat) : Yields c z (parkPloughed s d mode aborted) :=
  Yields.jobEvent (s := parked s d) (h.updCtx d fun _ => rfl) d _

theorem Yields.halted (h : Yields c z s) (d : Nat) : Yields c z (halted s d) := by
  obtain ⟨f, q, ctx⟩ := (SameStep.refl (c := c) s).stopJob d
  have kept := halted_kept s d
  have same : ctxOf (Proofs.halted s d) c = ctxOf (stopJob s d) c := ctxOf_of_job (kept.frame .job (by decide)) c
  refine ⟨by rw [same, ctx]; exact h.committed, ?_, ?_⟩
  · rw [kept.frame .fab (by decide), stopJob_fab]
    exact List.Subset.trans (List.filter_subset_self _) h.tags
  · rw [bars_of_kept kept (by decide), stopJob_bars]
    exact List.Subset.trans (List.filter_subset_self _) h.bars

theorem Yields.abortNow (h : Yields c z s) (d : Nat) : Yields c z (abortNow s d) := by
  have marked := (h.halted d).updCtx d (f := noteAbort) fun _ => rfl
  unfold Machine.abortNow
  dsimp only
  split
  · exact marked
  · refine Yields.parkPloughed ((h.halted d).updCtx d fun j => ?_) ..
    dsimp only
    split <;> rfl

theorem Yields.ploughNow (h : Yields c z s) (d : Nat) (mode : Plough) (cause : Nat) : Yields c z (ploughNow s d mode cause) := by
  have begun : ∀ m, Yields c z (ploughing s d m cause) := fun m => h.updCtx d fun _ => rfl
  unfold Machine.ploughNow
  dsimp only
  split
  · exact h
  · split
    · exact h
    · exact h
    · exact (begun .abort).abortNow d
    · exact (begun .abort).abortNow d
    · split
      · exact begun .finish
      · exact (begun .finish).parkPloughed ..

theorem Yields.ploughSpread (h : Yields c z s) (d : Nat) (mode : Plough) (cause : Nat) : Yields c z (ploughSpread s d mode cause) := by
  unfold Machine.ploughSpread
  dsimp only
  split
  · exact h
  · split
    · exact h
    · exact (h.aside (floodPlough_aside ..)).ploughNow d mode cause

theorem Yields.applyKeeps (c : Nat) (z : State) : ApplyKeeps (Yields c z) where
  aside k h := h.aside k
  sinks _ d _ h := h.updCtx d fun _ => rfl
  ploughs _ d h := h.ploughSpread d .abort 2

end

/-- The context is `j`, in abort mode, but for its event queue and its trowel queues. -/
structure Aborts (c : Nat) (j : JobCtx) (s : State) : Prop where
  ctx : ∃ q r, ctxOf s c = { j with evq := q, trn := r }
  mode : j.plough = some .abort

theorem Within.ploughSpread {d : Nat} {z s : State} (h : Within d z s) (mode : Plough) (cause : Nat) : Within d z (ploughSpread s d mode cause) := by
  have flooded : ∀ m, Within d z (floodPlough s d m cause) := fun m => h.of_ctxs (floodPlough_aside s d m cause).ctxs
  unfold Machine.ploughSpread
  dsimp only
  exact .ite h (.ite h ((flooded _).ploughNow mode cause))

/-- A second start of the plough in abort mode has no effect (R258). -/
theorem ploughSpread_again {s : State} {c : Nat} (again : (ctxOf s c).plough = some .abort) (mode : Plough) (cause : Nat) :
    ploughSpread s c mode cause = s := by
  simp [ploughSpread, again]

theorem Aborts.applyKeeps (c : Nat) (j : JobCtx) : ApplyKeeps (Aborts c j) where
  aside k h := ⟨k.ctxOf c ▸ h.ctx, h.mode⟩
  sinks s d k h := by
    obtain ⟨q, r, ctx⟩ := h.ctx
    refine ⟨?_, h.mode⟩
    by_cases own : c = d
    · subst own; exact ⟨q, _, by rw [ctxOf_updTrn, if_pos rfl, ctx]⟩
    · exact ⟨q, r, by rw [ctxOf_updTrn, if_neg own, ctx]⟩
  ploughs s d h := by
    obtain ⟨q, r, ctx⟩ := h.ctx
    by_cases own : c = d
    · subst own
      rw [ploughSpread_again (by rw [ctx]; exact h.mode)]
      exact h
    · exact ⟨((Within.refl s).ploughSpread .abort 2) c own ▸ h.ctx, h.mode⟩

/-! ### Abort and finish -/

/-- Between steps the plough in finish mode parks the job at once (R260). -/
theorem ploughFrom_finish_parks {s : State} {c : Nat} (works : (ctxOf s c).state = .running) (unploughed : (ctxOf s c).plough = none)
    (between : (ctxOf s c).stepIn = false) (cause : Nat) :
    (ctxOf (ploughFrom s c .finish cause) c).state = .parked ∧ (ctxOf (ploughFrom s c .finish cause) c).stepIn = false ∧
      (ctxOf (ploughFrom s c .finish cause) c).plough = none := by
  have flooded := (floodPlough_aside s c 0 cause).ctxOf c
  have parks : ploughSpread s c .finish cause = parkPloughed (ploughing (floodPlough s c 0 cause) c .finish cause) c 0 0xFFFFFFFF := by
    rw [ploughSpread_first (.inl works) unploughed, if_neg (by decide),
      ploughNow_finish (by rw [flooded]; exact .inl works) (by rw [flooded, unploughed]), if_neg (by rw [flooded, between, works]; decide)]
  rw [ploughFrom, parks]
  exact (parkPloughed_dormant ..).applyIfIdle.parked_fields

/-- In a step the plough in finish mode is only noted (R260). -/
theorem ploughFrom_finish_waits {s : State} {c : Nat} (below : c < 8) (works : (ctxOf s c).state = .running)
    (unploughed : (ctxOf s c).plough = none) (inStep : (ctxOf s c).stepIn = true) (cause : Nat) :
    ploughFrom s c .finish cause = ploughing (floodPlough s c 0 cause) c .finish cause := by
  have flooded := (floodPlough_aside s c 0 cause).ctxOf c
  rw [ploughFrom, ploughSpread_first (.inl works) unploughed, if_neg (by decide),
    applyIfIdle_ploughNow_finish below (by rw [flooded, works]) (by rw [flooded, unploughed]) (by rw [flooded, inStep])]

section

variable {s : State} {c : Nat} (works : (ctxOf s c).state = .running ∨ (ctxOf s c).state = .draining) (unploughed : (ctxOf s c).plough = none)
include works unploughed

/-- Before the verdict an abort parks the job (R259). -/
theorem ploughFrom_abort_parks (before : beforeVerdict (ctxOf s c).bnd = true) (cause : Nat) :
    (ctxOf (ploughFrom s c .abort cause) c).state = .parked ∧ (ctxOf (ploughFrom s c .abort cause) c).stepIn = false ∧
      (ctxOf (ploughFrom s c .abort cause) c).plough = none := by
  obtain ⟨u, parks⟩ := ploughSpread_parks (cause := cause) works unploughed before
  exact parks.applyIfIdle.parked_fields

/-- An abort leaves the last committed step, and no tag or barrier of the job (R259). -/
theorem ploughFrom_abort_yields (cause : Nat) :
    (ctxOf (ploughFrom s c .abort cause) c).trn.committed = (ctxOf s c).trn.committed ∧
      (∀ x ∈ (ploughFrom s c .abort cause).fab.tags, x.2 ≠ c) ∧ ∀ b ∈ (ploughFrom s c .abort cause).tile.bars, b.ctx ≠ c := by
  have whole := (Yields.applyKeeps c s).applyIfIdle ((Yields.refl s).ploughSpread c .abort cause)
  have after := (Yields.applyKeeps c _).applyIfIdle (Yields.refl (ploughSpread s c .abort cause))
  have released := ploughSpread_aborts works unploughed cause
  refine ⟨whole.committed, fun x hx => ?_, fun b hb => ?_⟩
  · have mem := after.tags hx
    rw [released, abortNow_tags] at mem
    exact of_decide_eq_true (List.mem_filter.1 mem).2
  · have mem := after.bars hb
    rw [released, abortNow_bars] at mem
    exact of_decide_eq_true (List.mem_filter.1 mem).2

/-- In the digest exchange an abort is noted, and the job goes on to the end of its wait (R259). -/
theorem ploughFrom_abort_waits (digests : (ctxOf s c).bnd.phase = .digests) (cause : Nat) :
    (ctxOf (ploughFrom s c .abort cause) c).state = (ctxOf s c).state ∧ (ctxOf (ploughFrom s c .abort cause) c).bnd.aborting = true ∧
      (ctxOf (ploughFrom s c .abort cause) c).plough = some .abort := by
  obtain ⟨f, q, stopped⟩ := SameStep.halted (abortBegun s c cause) c
  have aborting : Aborts c (noteAbort (ctxOf (halted (abortBegun s c cause) c) c)) (ploughSpread s c .abort cause) := by
    rw [ploughSpread_aborts works unploughed, abortNow_digests (by rw [ctxOf_abortBegun]; exact digests)]
    exact ⟨⟨_, _, ctxOf_updCtx_same ..⟩, rfl⟩
  obtain ⟨q', r, final⟩ := ((Aborts.applyKeeps c _).applyIfIdle aborting).ctx
  rw [ploughFrom, final, stopped, ctxOf_abortBegun]
  exact ⟨rfl, rfl, rfl⟩

end

/-! ### The obligation -/

/-- Settles O41: in finish mode by whether a step is under way, in abort mode by how far the boundary has come. -/
theorem ploughCommands : Obligations.PloughCommands := by
  unfold Obligations.PloughCommands
  have result : ∀ (s : State) (c d : Nat), ctxOf (jobResult s c 0 0) d = ctxOf s d := fun s c => (jobResult_aside s c 0 0).ctxOf
  refine ⟨fun s c up idle runs works unploughed inStep => ?_, fun s c up idle runs works unploughed between => ?_,
    fun s c up idle runs works unploughed before => ?_, fun s c up idle runs works unploughed digests => ?_⟩
  · have effect := ploughCommand_starts up idle runs (.inl works) .finish
    rw [ploughFrom_finish_waits c.isLt works unploughed inStep] at effect
    refine ⟨_, congrArg Host.Outcome.next effect, ?_, ?_, ?_, ?_⟩
    · rw [result, ploughing, ctxOf_updCtx_same, (floodPlough_aside ..).ctxOf, works]
    · rw [result, ploughing, ctxOf_updCtx_same]
    · rw [result, ploughing, ctxOf_updCtx_same, (floodPlough_aside ..).ctxOf, inStep]
    · exact (jobResult_kept (by decide) (updCtx_kept (by decide) (floodPlough_kept (by decide) (Kept.refl _ s)))).frame
  · obtain ⟨state, -, plough⟩ := ploughFrom_finish_parks works unploughed between 1
    exact ⟨_, congrArg Host.Outcome.next (ploughCommand_starts up idle runs (.inl works) .finish), by rw [result, state], by rw [result, plough]⟩
  · obtain ⟨state, stepIn, -⟩ := ploughFrom_abort_parks works unploughed before 1
    obtain ⟨committed, tags, bars⟩ := ploughFrom_abort_yields works unploughed 1
    have aside := jobResult_aside (ploughFrom s c.val .abort 1) c.val 0 0
    exact ⟨_, congrArg Host.Outcome.next (ploughCommand_starts up idle runs works .abort), by rw [result, state], by rw [result, stepIn],
      by rw [result, committed], by rw [aside.tags]; exact tags, by rw [aside.bars]; exact bars⟩
  · obtain ⟨state, aborting, plough⟩ := ploughFrom_abort_waits works unploughed digests 1
    exact ⟨_, congrArg Host.Outcome.next (ploughCommand_starts up idle runs works .abort), by rw [result, state], by rw [result, aborting],
      by rw [result, plough]⟩

end Sys2Proof.Proofs
end

section
/-! The notices of the fabric (R248, R255 to R258): a part goes absent or comes back, a job is lost, a plough starts; a notice whose
key is held does nothing more. -/

namespace Sys2Proof.Proofs

open Sys2Proof Sys2Proof.Machine Sys2Proof.Laws

/-- A part in compute reset discards every notice; otherwise it acts on it (R217). -/
theorem unlessReset_runs {s : State} (runs : s.boot.resetting = false) (t : State) : unlessReset s t = t := by simp [unlessReset, runs]

theorem unlessReset_discards {s : State} (resets : s.boot.resetting = true) (t : State) : unlessReset s t = countDiscard s := if_pos resets

/-! ### Presence -/

theorem goPresent_present (s : State) (x b23 : Nat) (port : Option Nat) : isAbsent (goPresent s x b23 port) x = false := by
  unfold goPresent
  split
  · rw [((Traffic.refl _).flood ..).isAbsent]
    simp [isAbsent]
  · next here => simpa using here

/-! ### Keys -/

/-- The part has kept the key of a notice and sent the notice on (R255, R256). -/
def passedOn (s : State) (kind job b4 : Nat) (payload : List Byte) (port : Nat) : State :=
  flood (addKey s kind job b4) kind job payload (some port)

section

variable {s : State} {kind job b4 port : Nat} {payload : List Byte}

theorem passedOn_kept {C : List Part} {z : State} (hC : ([.out, .fab, .tel] : List Part) ⊆ C) (h : Kept C z s) :
    Kept C z (passedOn s kind job b4 payload port) := flood_kept hC (addKey_kept (Part.subs hC (by decide)) h)

theorem passedOn_frame : s.changesOnly [.out, .fab, .tel] (passedOn s kind job b4 payload port) :=
  (passedOn_kept (List.Subset.refl _) (Kept.refl _ s)).frame

theorem ctxOf_passedOn (c : Nat) : ctxOf (passedOn s kind job b4 payload port) c = ctxOf s c :=
  ctxOf_of_job (passedOn_frame .job (by decide)) c

theorem autoPlough_passedOn (c : Nat) : autoPlough (passedOn s kind job b4 payload port) c = autoPlough s c := by
  rw [autoPlough, live_of_cfg (passedOn_frame .cfg (by decide)), autoPlough]

theorem ctxOfFabricJob_passedOn (fj : Nat) : ctxOfFabricJob (passedOn s kind job b4 payload port) fj = ctxOfFabricJob s fj := by
  have jobs : fabricJob (passedOn s kind job b4 payload port) = fabricJob s := by
    funext c
    rw [fabricJob, live_of_cfg (passedOn_frame .cfg (by decide)), fabricJob]
  have ctxs : Machine.ctxOf (passedOn s kind job b4 payload port) = Machine.ctxOf s := funext ctxOf_passedOn
  rw [ctxOfFabricJob, loadedCtxs, jobs, ctxs, ctxOfFabricJob, loadedCtxs]

end

theorem ctxOfFabricJob_lt {s : State} {fj c : Nat} (found : ctxOfFabricJob s fj = some c) : c < 8 := by
  unfold ctxOfFabricJob at found
  split at found
  · cases found
  · exact List.mem_range.1 (List.mem_of_mem_filter (List.mem_of_find?_eq_some found))

/-! ### Lost jobs and ploughs -/

theorem jobLostNoticeEffect_again {s : State} {port : Nat} {p : Packet} (held : hasKey s 0x12 (lat p.payload 0 2) 0 = true) :
    jobLostNoticeEffect port p s = s := if_pos (.inr held)

theorem ploughNoticeEffect_again {s : State} {port : Nat} {p : Packet} (held : hasKey s 0x13 (lat p.payload 0 2) (lat p.payload 4 1) = true) :
    ploughNoticeEffect port p s = s := if_pos (.inr held)

/-- A lost job of this part is ploughed in abort mode if it asks for it (R248, R258). -/
theorem jobLostNoticeEffect_ploughs {s : State} {port c : Nat} {p : Packet} (notice : isNotice s p 0x12 = true)
    (new : hasKey s 0x12 (lat p.payload 0 2) 0 = false) (job : ctxOfFabricJob s (lat p.payload 0 2) = some c) (auto : autoPlough s c = true) :
    jobLostNoticeEffect port p s = ploughFrom (passedOn s 0x12 (lat p.payload 0 2) 0 p.payload port) c .abort 3 := by
  have found : ctxOfFabricJob (passedOn s 0x12 (lat p.payload 0 2) 0 p.payload port) (lat p.payload 0 2) = some c := by
    rw [ctxOfFabricJob_passedOn, job]
  have asks : autoPlough (passedOn s 0x12 (lat p.payload 0 2) 0 p.payload port) c = true := by rw [autoPlough_passedOn, auto]
  rw [passedOn] at found asks
  simp [jobLostNoticeEffect, notice, new, found, asks, passedOn]

/-- A plough that another part has started starts here (R258). -/
theorem ploughNoticeEffect_ploughs {s : State} {port c : Nat} {p : Packet} (notice : isNotice s p 0x13 = true)
    (finish : lat p.payload 4 1 = 0) (new : hasKey s 0x13 (lat p.payload 0 2) 0 = false)
    (job : ctxOfFabricJob s (lat p.payload 0 2) = some c) :
    ploughNoticeEffect port p s =
      ploughStart (passedOn s 0x13 (lat p.payload 0 2) 0 p.payload port) c .finish (lat p.payload 5 1 % 16) := by
  have found : ctxOfFabricJob (passedOn s 0x13 (lat p.payload 0 2) 0 p.payload port) (lat p.payload 0 2) = some c := by
    rw [ctxOfFabricJob_passedOn, job]
  rw [passedOn] at found
  simp [ploughNoticeEffect, notice, finish, new, found, passedOn]

/-! ### The obligation -/

/-- Settles O33: each notice acts once, on the absent table or on the job that it names; a part in compute reset discards it, and a
message for device firmware changes nothing. -/
theorem fabricNotices : Obligations.FabricNotices := by
  unfold Obligations.FabricNotices
  have acts : ∀ {s : State} (t : State), s.boot.resetting = false → Host.Outcome.next (φ := Fault) (ρ := Refusal) (unlessReset s t) = .next t :=
    fun t runs => congrArg Host.Outcome.next (unlessReset_runs runs t)
  refine ⟨fun s port p runs notice room quiet jobs => ?_, fun s port p runs notice => ?_,
    fun s port p c runs notice new job auto works unploughed between => ?_,
    fun s port p runs notice held => (acts _ runs).trans (congrArg Host.Outcome.next (jobLostNoticeEffect_again held)),
    fun s port p c runs notice new finish job works unploughed inStep => ?_,
    fun s port p m runs notice mode held => (acts _ runs).trans (congrArg Host.Outcome.next (ploughNoticeEffect_again (by rw [mode]; exact held))),
    fun s port p resets => ?_, fun _ _ => rfl⟩
  · have effect : absentNoticeEffect port.val p s =
        goAbsent s (lat p.payload 0 2) (lat p.payload 4 1) (lat p.payload 2 2) (some port.val) := if_pos notice
    exact ⟨_, acts _ runs, by rw [effect]; exact (goAbsent_spec room quiet jobs ..).1⟩
  · have effect : presentNoticeEffect port.val p s = goPresent s (lat p.payload 0 2) (lat p.payload 2 2) (some port.val) := if_pos notice
    refine ⟨_, acts _ runs, by rw [effect]; exact goPresent_present .., ?_⟩
    exact (presentNoticeEffect_kept (List.Subset.refl _) (Kept.refl _ s)).frame
  · have before : beforeVerdict (ctxOf s c).bnd = true := by simp [beforeVerdict, between]
    refine ⟨_, acts _ runs, ?_⟩
    rw [jobLostNoticeEffect_ploughs notice new job auto]
    exact (ploughFrom_abort_parks (.inl (by rw [ctxOf_passedOn, works])) (by rw [ctxOf_passedOn, unploughed]) (by rw [ctxOf_passedOn, before]) 3).1
  · refine ⟨_, acts _ runs, ?_⟩
    rw [ploughNoticeEffect_ploughs notice finish new job, ploughStart, applyIfIdle_ploughNow_finish (ctxOfFabricJob_lt job)
      (by rw [ctxOf_passedOn, works]) (by rw [ctxOf_passedOn, unploughed]) (by rw [ctxOf_passedOn, inStep])]
    refine ⟨?_, ?_, (updCtx_kept (by decide) (passedOn_kept (by decide) (Kept.refl _ s))).frame⟩
    · rw [ploughing, ctxOf_updCtx_same, ctxOf_passedOn, works]
    · rw [ploughing, ctxOf_updCtx_same]
  · have discards : ∀ t, Host.Outcome.next (φ := Fault) (ρ := Refusal) (unlessReset s t) = .next (countDiscard s) := fun t =>
      congrArg Host.Outcome.next (unlessReset_discards resets t)
    exact ⟨discards _, discards _, discards _, discards _⟩

end Sys2Proof.Proofs
end

section
/-! Part-class faults, supplies and clocks that are lost, and the end of an announcement (R251, R252, R403, R422, R427, R502): what
the retention log keeps of each, and the state in which each leaves the part. -/

namespace Sys2Proof.Proofs

open Sys2Proof Sys2Proof.Machine Sys2Proof.Laws

/-! ### The retention log -/

/-- The retention log holds the last 16 entries (R457, R467). -/
theorem retain_length (s : State) (e : Ev) : (retain s e).tel.ret.length = min 16 (s.tel.ret.length + 1) := List.length_take

theorem raiseRetained_length (s : State) (code : Nat) (f : EvF) :
    (raiseRetained s code f).tel.ret.length = min 16 (s.tel.ret.length + 1) := by
  have entered : ∀ (u : State) (e : Ev), (partEntry u e).tel = u.tel := fun u e =>
    (partEntry_kept (List.Subset.refl _) (Kept.refl _ u)).frame .tel (by decide)
  rw [raiseRetained, entered]
  exact retain_length ..

/-! ### Part-class faults -/

/-- A Part-class event is retained, and the power-off announcement begins (R251, R252). -/
theorem partFault_spec {s : State} (aon : s.boot.aon = true) (runs : s.boot.stopped = false) (code : Nat) (f : EvF) :
    (partFault s code f).boot = { s.boot with announce := some (3, 6) } ∧
      (partFault s code f).tel.ret.length = min 16 (s.tel.ret.length + 1) ∧ (partFault s code f).pwr = s.pwr := by
  have kept := raiseRetained_kept (code := code) (f := f) (List.Subset.refl _) (Kept.refl _ s)
  have boot : (raiseRetained s code f).boot = s.boot := kept.frame .boot (by decide)
  have starts : partFault s code f =
      { raiseRetained s code f with boot := { (raiseRetained s code f).boot with announce := some (3, 6) } } := if_neg (by simp [aon, runs])
  rw [starts]
  exact ⟨by rw [boot], raiseRetained_length .., kept.frame .pwr (by decide)⟩

theorem thermalTripEffect_hot {s : State} {unit inst reading : Nat} (hot : 460 ≤ reading) (aon : s.boot.aon = true) :
    thermalTripEffect unit inst reading s =
      { partFault s 0x0120 { unit := unit, inst := inst, va := reading } with
        pwr := { (partFault s 0x0120 { unit := unit, inst := inst, va := reading }).pwr with thermtrip := true } } := by
  rw [thermalTripEffect, if_neg (by omega)]
  exact if_pos aon

theorem coolantSet_kept {C : List Part} {z s : State} {ok : Bool} (hC : ([.pwr] : List Part) ⊆ C) (h : Kept C z s) :
    Kept C z { s with pwr := { s.pwr with coolant := ok } } := Kept.put h

/-! ### The end of an announcement -/

theorem haltAll_links (s : State) : (haltAll s).fab.links = s.fab.links := by
  unfold haltAll
  refine forEach_keeps (P := fun u => u.fab.links = s.fab.links) (fun u c hu => ?_) rfl
  rw [updTrn_fab, updCtx_fab, stopJob_fab]
  exact hu

/-- Every link drops its packets and leaves service (R251 action 3). -/
def linksCleared (s : State) : State := forEach (List.range 12) s fun s p => outLink (updLink s p fun l => { l with queue := [] }) p

theorem linksCleared_out (s : State) {p : Nat} (port : p < 12) : (linkOf (linksCleared s) p).out = true := by
  have out := (forEach_range (fun u q => (linkOf u q).out) (fun _ => True)
    (fun u q => outLink (updLink u q fun l => { l with queue := [] }) q) (fun _ => true) s trivial (fun u q _ _ =>
      ⟨outLink_out .., fun j other => by rw [linkOf_outLink_ne other, linkOf_updLink, if_neg other], trivial⟩) 12).2 p
  rw [if_pos port] at out
  exact out

/-- The part with its links out of service, its jobs halted, its pairs gated and its stacks in self-refresh (R251). -/
def offline (s : State) : State := selfRefreshAll (gateAll (haltAll (linksCleared s))) true

/-- LOW_POWER without a wake, with no trowel at work (R251 action 4). -/
def lowered (s : State) : State :=
  { s with
    pwr := { s.pwr with state := .lowPower, dead := true, waking := false }
    trw := s.trw.map fun p => (p.1, { p.2 with sweeping := false, zero := false }) }

theorem leaveFabric_eq (s : State) : leaveFabric s = lowered (offline s) := by
  unfold leaveFabric lowered offline linksCleared
  rfl

theorem offline_gated (s : State) {p : Nat} (pair : p < 16) : (pairOf (offline s) p).gated = true := by
  have pwr : (offline s).pwr = (gateAll (haltAll (linksCleared s))).pwr :=
    (selfRefreshAll_kept (List.Subset.refl _) (Kept.refl _ _)).frame .pwr (by decide)
  rw [pairOf, pwr, ← pairOf, gateAll_pair, if_pos pair]

theorem offline_refreshed (s : State) {k : Nat} (stack : k < 12) : (stackOf (offline s) k).selfRefresh = true := by
  rw [offline, selfRefreshAll_stack, if_pos stack]

theorem offline_out (s : State) {p : Nat} (port : p < 12) : (linkOf (offline s) p).out = true := by
  have rest : Kept [.mem, .pwr] (haltAll (linksCleared s)) (offline s) :=
    selfRefreshAll_kept (by decide) (gateAll_kept (by decide) (Kept.refl _ _))
  rw [linkOf, rest.frame .fab (by decide), haltAll_links, ← linkOf, linksCleared_out s port]

theorem announcementEndEffect_warm {s : State} {cause : Nat} (warm : s.boot.announce = some (2, cause)) :
    announcementEndEffect s = { wiped s with boot := { (wiped s).boot with cause := cause, stopped := true } } := by
  simp [announcementEndEffect, warm]

theorem announcementEndEffect_off {s : State} {cause : Nat} (off : s.boot.announce = some (3, cause)) :
    announcementEndEffect s = { leaveFabric s with boot := { (leaveFabric s).boot with announce := none, cause := cause } } := by
  simp [announcementEndEffect, off]

/-! ### The obligation -/

/-- Settles O49: a Part-class fault is retained and announced, a loss leaves what the rails that remain hold, and the announcement
ends in a stop or out of the fabric. -/
theorem partFaultsAndLoss : Obligations.PartFaultsAndLoss := by
  unfold Obligations.PartFaultsAndLoss
  refine ⟨fun s unit inst reading hot aon runs => ?_, fun s unit inst reading cool => congrArg Host.Outcome.next (if_pos cool),
    fun s reading outside regs aon runs => ?_, fun s reading inside => ?_, fun s reading regs aon runs => ?_,
    fun s active aon runs => ?_, fun s idle => ?_, fun s aon => ?_, fun s aon => ?_, fun s cause warm => ?_, fun s cause off => ?_,
    fun s quiet => ?_⟩
  · obtain ⟨boot, length, -⟩ := partFault_spec aon runs 0x0120 { unit := unit, inst := inst, va := reading }
    have kept := thermalTripEffect_kept (unit := unit) (inst := inst) (reading := reading) (List.Subset.refl _) (Kept.refl _ s)
    rw [thermalTripEffect_hot hot aon] at kept
    exact ⟨_, congrArg Host.Outcome.next (thermalTripEffect_hot hot aon), rfl, congrArg BootSt.announce boot, length, kept.frame⟩
  · obtain ⟨boot, length, -⟩ := partFault_spec aon runs 0x0121 { va := reading }
    exact ⟨_, congrArg Host.Outcome.next (if_pos ⟨regs, outside⟩), boot, length, (partFault_kept (List.Subset.refl _) (Kept.refl _ s)).frame⟩
  · refine congrArg Host.Outcome.next (if_neg ?_)
    rintro ⟨regs, outside⟩
    rcases inside with off | ⟨low, high⟩
    · rw [off] at regs; cases regs
    · omega
  · obtain ⟨boot, length, -⟩ := partFault_spec aon runs 0x0123 { unit := 4, va := reading }
    exact ⟨_, congrArg Host.Outcome.next (if_pos regs), boot, length, (partFault_kept (List.Subset.refl _) (Kept.refl _ s)).frame⟩
  · obtain ⟨boot, -, pwr⟩ := partFault_spec (s := { s with pwr := { s.pwr with coolant := false } }) aon runs 0x0122 {}
    have effect : coolantOkDeassertEffect s = partFault { s with pwr := { s.pwr with coolant := false } } 0x0122 {} := if_pos active
    have kept := coolantOkDeassertEffect_kept (List.Subset.refl _) (Kept.refl _ s)
    rw [effect] at kept
    exact ⟨_, congrArg Host.Outcome.next effect, pwr, congrArg BootSt.announce boot, kept.frame⟩
  · have effect : coolantOkDeassertEffect s = { s with pwr := { s.pwr with coolant := false } } := if_neg idle
    exact ⟨_, congrArg Host.Outcome.next effect, rfl, (coolantSet_kept (List.Subset.refl _) (Kept.refl _ s)).frame⟩
  · have kept : Kept [.out, .hostMem, .host, .tel] s (if s.boot.regs then raiseRetained s 0x0121 {} else s) :=
      .ite (raiseRetained_kept (by decide) (Kept.refl _ s)) (Kept.refl _ s)
    have effect : aonLossEffect s = aonLost (if s.boot.regs then raiseRetained s 0x0121 {} else s) 1 := if_neg (by simp [aon])
    exact ⟨_, congrArg Host.Outcome.next effect, rfl, rfl, rfl, rfl, (congrArg CfgSt.copies (kept.frame .cfg (by decide)) :),
      (congrArg SecSt.counter (kept.frame .sec (by decide)) :), (congrArg BootSt.fw (kept.frame .boot (by decide)) :), rfl⟩
  · refine ⟨refclkLossEffect s, rfl, ?_⟩
    rw [refclkLossEffect, if_neg (by simp [aon])]
    exact ⟨aon, rfl, rfl, rfl, rfl, retain_length .., rfl⟩
  · exact ⟨_, congrArg Host.Outcome.next (announcementEndEffect_warm warm), rfl, rfl, rfl, rfl, rfl, rfl, rfl, rfl, rfl, rfl, rfl,
      fun _ _ => rfl⟩
  · have effect := announcementEndEffect_off off
    rw [leaveFabric_eq] at effect
    have gated : ∀ p < 16, (pairOf (offline s) p).gated = true := fun p => offline_gated s
    have refreshed : ∀ k < 12, (stackOf (offline s) k).selfRefresh = true := fun k => offline_refreshed s
    have out : ∀ p < 12, (linkOf (offline s) p).out = true := fun p => offline_out s
    generalize offline s = u at effect gated refreshed out
    exact ⟨_, congrArg Host.Outcome.next effect, rfl, rfl, rfl, rfl, gated, refreshed, out⟩
  · have effect : announcementEndEffect s = s := by simp [announcementEndEffect, quiet]
    exact congrArg Host.Outcome.next effect

end Sys2Proof.Proofs
end

section
/-! The completion of a descriptor of a Rink ring (R283, R288): the bytes of its slot, the head of the ring and the ring's tasks
after it. The signal and the interrupt that a descriptor may ask for come last and leave all of that as it is. -/

namespace Sys2Proof.Proofs

open Sys2Proof Sys2Proof.Machine Sys2Proof.Laws

/-! ### The head of a ring -/

theorem advanceHead_waits {s : State} {c : Nat} {enc : Bool} (waits : (ringKey c enc, ringHead s c enc) ∉ s.rink.ahead) (n : Nat) :
    advanceHead s c enc n = s := by
  cases n <;> simp [advanceHead, waits]

/-- Moving a head changes the head of its ring and the list of slots completed ahead, and nothing else. -/
theorem advanceHead_changes (s : State) (c : Nat) (enc : Bool) (n : Nat) :
    ∃ ahead next, advanceHead s c enc n = { s with rink := { s.rink with ahead := ahead, next := next } } ∧
      ∀ k ≠ ringKey c enc, mget next 0 k = mget s.rink.next 0 k := by
  induction n generalizing s with
  | zero => exact ⟨_, _, rfl, fun _ _ => rfl⟩
  | succ n ih =>
    rw [advanceHead]
    split
    · obtain ⟨ahead, next, moved, others⟩ := ih { s with rink := { s.rink with
        ahead := s.rink.ahead.filter (· ≠ (ringKey c enc, ringHead s c enc))
        next := mset s.rink.next 0 (ringKey c enc) ((ringHead s c enc + 1) % max 1 (ringOf s c enc).2) } }
      exact ⟨ahead, next, moved, fun k other => (others k other).trans (mget_mset_ne _ _ _ _ _ other)⟩
    · exact ⟨_, _, rfl, fun _ _ => rfl⟩

/-- With one slot completed, the head passes it where it stands on it, and else stays. -/
theorem advanceHead_single {s : State} {c slot n : Nat} {enc : Bool} (single : s.rink.ahead = [(ringKey c enc, slot)]) (positive : 0 < n) :
    ringHead (advanceHead s c enc n) c enc =
      if ringHead s c enc = slot then (slot + 1) % max 1 (ringOf s c enc).2 else ringHead s c enc := by
  split
  case isTrue head =>
    obtain ⟨n, rfl⟩ := Nat.exists_eq_succ_of_ne_zero positive.ne'
    simp only [advanceHead, single, head, List.contains_cons, beq_self_eq_true, Bool.true_or, if_true, List.filter_cons, List.filter_nil,
      ne_eq, not_true_eq_false, decide_false, Bool.false_eq_true, if_false]
    rw [advanceHead_waits List.not_mem_nil, ringHead, mget_mset, if_pos rfl]
  case isFalse other => rw [advanceHead_waits (by simp [single, other])]

/-! ### What a completion makes of the state -/

/-- The state after the bytes of the slot: those past the status, then the status (R288). -/
def slotWritten (s : State) (x : RTask) (status : Nat) (comp : List Byte) : State :=
  devWrite (devWrite s none (slotAddr s x.ctx x.enc x.slot + 0x60 + 1) comp) none (slotAddr s x.ctx x.enc x.slot + 0x60)
    [BitVec.ofNat 8 status]

/-- The state after the task has left and the head has moved past what is completed (R288). -/
def ringLeft (s : State) (x : RTask) : State :=
  advanceHead { s with rink := { s.rink with
    tasks := s.rink.tasks.filter fun y => decide ¬ (y.ctx = x.ctx ∧ y.enc = x.enc ∧ y.slot = x.slot)
    ahead := s.rink.ahead ++ [(ringKey x.ctx x.enc, x.slot)] } } x.ctx x.enc (ringOf s x.ctx x.enc).2

/-- A descriptor has completed: slot, head and head word, without its signal and its interrupt (R288). -/
def completed (s : State) (x : RTask) (status : Nat) (comp : List Byte) : State :=
  updSpill (settleUnit (devWrite (ringLeft (slotWritten s x status comp) x) none ((ringOf s x.ctx x.enc).1 + 4)
    (leBytes 4 (ringHead (ringLeft (slotWritten s x status comp) x) x.ctx x.enc))) x.unit)

theorem ringLeft_changes (s : State) (x : RTask) : ∃ ahead next, ringLeft s x = { s with rink := { s.rink with
      tasks := s.rink.tasks.filter fun y => decide ¬ (y.ctx = x.ctx ∧ y.enc = x.enc ∧ y.slot = x.slot), ahead := ahead, next := next } } ∧
    ∀ k ≠ ringKey x.ctx x.enc, mget next 0 k = mget s.rink.next 0 k :=
  advanceHead_changes ..

theorem ringOf_of_cfg {s t : State} (h : t.cfg = s.cfg) (c : Nat) (enc : Bool) : ringOf t c enc = ringOf s c enc := by
  simp only [ringOf, rinkRing, live64, live, h]

theorem slotAddr_of_cfg {s t : State} (h : t.cfg = s.cfg) (c : Nat) (enc : Bool) (slot : Nat) : slotAddr t c enc slot = slotAddr s c enc slot := by
  rw [slotAddr, ringOf_of_cfg h, slotAddr]

theorem ringLeft_cfg (s : State) (x : RTask) : (ringLeft s x).cfg = s.cfg := by
  obtain ⟨_, _, left, -⟩ := ringLeft_changes s x
  rw [left]

/-- A descriptor that asks for no interrupt completes, and then its signal is sent (R288). -/
theorem rinkFinish_eq {x : RTask} (quiet : bit (lat x.d 1 1) 4 = false) (s : State) (status : Nat) (comp : List Byte) :
    rinkFinish s x status comp = rinkSignal (completed s x status comp) x := by
  have ring : ringOf (ringLeft (slotWritten s x status comp) x) x.ctx x.enc = ringOf s x.ctx x.enc := ringOf_of_cfg (ringLeft_cfg ..) ..
  rw [completed, ← ring, rinkFinish]
  simp only [quiet, Bool.false_and, Bool.false_eq_true, if_false]
  rfl

theorem rinkFinish_quiet {x : RTask} (quiet : x.quiet) (s : State) (status : Nat) (comp : List Byte) :
    rinkFinish s x status comp = completed s x status comp := by
  obtain ⟨signal, irq⟩ := quiet
  rw [rinkFinish_eq irq, rinkSignal, if_pos (by simp [signal])]

theorem rink_kept {C : List Part} {z s : State} {r : RinkSt} (hC : ([.rink] : List Part) ⊆ C) (h : Kept C z s) :
    Kept C z { s with rink := r } := Kept.put h

theorem ringLeft_kept {C : List Part} {z s : State} (hC : ([.rink] : List Part) ⊆ C) (h : Kept C z s) (x : RTask) : Kept C z (ringLeft s x) :=
  advanceHead_kept hC (rink_kept hC h)

theorem completed_kept {C : List Part} {z s : State} (hC : ([.dev, .mem, .rink] : List Part) ⊆ C) (h : Kept C z s) (x : RTask) (status : Nat)
    (comp : List Byte) : Kept C z (completed s x status comp) :=
  have rink : ([.rink] : List Part) ⊆ C := Part.subs hC (by decide)
  have memory : ([.dev, .mem] : List Part) ⊆ C := Part.subs hC (by decide)
  updSpill_kept rink (settleUnit_kept rink (devWrite_kept memory (ringLeft_kept rink (devWrite_kept memory (devWrite_kept memory h)) x)))

/-! ### The Rink after a completion -/

theorem updSpill_changes (s : State) : ∃ spill, updSpill s = { s with rink := { s.rink with spill := spill } } :=
  List.foldlRecOn (motive := fun t => ∃ spill, t = { s with rink := { s.rink with spill := spill } }) _ _ ⟨_, rfl⟩
    (by rintro _ ⟨spill, rfl⟩ k -; exact ⟨_, rfl⟩)

theorem settleUnit_changes (s : State) (u : Option MediaUnit) : ∃ units, settleUnit s u = { s with rink := { s.rink with units := units } } := by
  cases u with
  | none => exact ⟨_, rfl⟩
  | some m =>
    rw [settleUnit]
    split <;> exact ⟨_, rfl⟩

/-- A completion writes the slot and the head word, and in the Rink the task leaves, a head moves, and units and splits follow. -/
theorem completed_changes (s : State) (x : RTask) (status : Nat) (comp : List Byte) : ∃ ahead units spill,
    completed s x status comp =
      { devWrite (slotWritten s x status comp) none ((ringOf s x.ctx x.enc).1 + 4)
          (leBytes 4 (ringHead (ringLeft (slotWritten s x status comp) x) x.ctx x.enc)) with
        rink := { s.rink with
          tasks := s.rink.tasks.filter fun y => decide ¬ (y.ctx = x.ctx ∧ y.enc = x.enc ∧ y.slot = x.slot)
          ahead := ahead, next := (ringLeft (slotWritten s x status comp) x).rink.next, units := units, spill := spill } } := by
  obtain ⟨ahead, next, left, -⟩ := ringLeft_changes (slotWritten s x status comp) x
  unfold completed
  generalize ringHead (ringLeft (slotWritten s x status comp) x) x.ctx x.enc = head
  rw [left]
  obtain ⟨units, settled⟩ := settleUnit_changes (devWrite _ none ((ringOf s x.ctx x.enc).1 + 4) (leBytes 4 head)) x.unit
  obtain ⟨spill, split⟩ := updSpill_changes (settleUnit (devWrite _ none ((ringOf s x.ctx x.enc).1 + 4) (leBytes 4 head)) x.unit)
  refine ⟨ahead, units, spill, ?_⟩
  rw [split, settled]
  rfl

theorem completed_next (s : State) (x : RTask) (status : Nat) (comp : List Byte) :
    (completed s x status comp).rink.next = (ringLeft (slotWritten s x status comp) x).rink.next := by
  obtain ⟨_, _, _, done⟩ := completed_changes s x status comp
  rw [done]

theorem ringHead_completed (s : State) (x : RTask) (status : Nat) (comp : List Byte) (c : Nat) (enc : Bool) :
    ringHead (completed s x status comp) c enc = ringHead (ringLeft (slotWritten s x status comp) x) c enc := by
  rw [ringHead, completed_next, ringHead]

theorem completed_mem (s : State) (x : RTask) (status : Nat) (comp : List Byte) : (completed s x status comp).mem =
    (devWrite (slotWritten s x status comp) none ((ringOf s x.ctx x.enc).1 + 4)
      (leBytes 4 (ringHead (completed s x status comp) x.ctx x.enc))).mem := by
  obtain ⟨_, _, _, done⟩ := completed_changes s x status comp
  rw [ringHead_completed, done]

theorem completed_cfg (s : State) (x : RTask) (status : Nat) (comp : List Byte) : (completed s x status comp).cfg = s.cfg :=
  (completed_kept (List.Subset.refl _) (Kept.refl _ s) x status comp).frame .cfg (by decide)

theorem completed_job (s : State) (x : RTask) (status : Nat) (comp : List Byte) : (completed s x status comp).job = s.job :=
  (completed_kept (List.Subset.refl _) (Kept.refl _ s) x status comp).frame .job (by decide)

theorem completed_strm (s : State) (x : RTask) (status : Nat) (comp : List Byte) : (completed s x status comp).rink.strm = s.rink.strm := by
  obtain ⟨_, _, _, done⟩ := completed_changes s x status comp
  rw [done]

theorem completed_tails (s : State) (x : RTask) (status : Nat) (comp : List Byte) : (completed s x status comp).rink.tails = s.rink.tails := by
  obtain ⟨_, _, _, done⟩ := completed_changes s x status comp
  rw [done]

theorem completed_tasks (s : State) (x : RTask) (status : Nat) (comp : List Byte) : (completed s x status comp).rink.tasks =
    s.rink.tasks.filter fun y => decide ¬ (y.ctx = x.ctx ∧ y.enc = x.enc ∧ y.slot = x.slot) := by
  obtain ⟨_, _, _, done⟩ := completed_changes s x status comp
  rw [done]

/-- No other ring's head moves. -/
theorem completed_next_other {s : State} {x : RTask} {k : Nat} (other : k ≠ ringKey x.ctx x.enc) (status : Nat) (comp : List Byte) :
    mget (completed s x status comp).rink.next 0 k = mget s.rink.next 0 k := by
  obtain ⟨_, _, left, others⟩ := ringLeft_changes (slotWritten s x status comp) x
  rw [completed_next, left]
  exact others k other

/-- Where nothing completed ahead, the head passes the slot that it stands on. -/
theorem ringHead_completed_single {s : State} (none_ahead : s.rink.ahead = []) {x : RTask} (slots : x.slot < (ringOf s x.ctx x.enc).2)
    (status : Nat) (comp : List Byte) : ringHead (completed s x status comp) x.ctx x.enc =
      if ringHead s x.ctx x.enc = x.slot then (x.slot + 1) % (ringOf s x.ctx x.enc).2 else ringHead s x.ctx x.enc := by
  rw [ringHead_completed]
  refine (advanceHead_single (slot := x.slot) ?_ (Nat.zero_lt_of_lt slots)).trans ?_
  · exact congrArg (· ++ [(ringKey x.ctx x.enc, x.slot)]) none_ahead
  · rw [← Nat.max_eq_right (Nat.one_le_of_lt slots)]; rfl

/-! ### The slot and the head word -/

theorem devRead_cons (s : State) (a n : Nat) : devRead s a (n + 1) = devGet s a :: devRead s (a + 1) n := by
  simp [devRead, List.range_succ_eq_map, Nat.add_assoc, Nat.add_comm 1]

/-- A write in the direct window leaves what is read apart from it. -/
theorem devRead_devWrite_apart {keep : Option Nat} {a : Nat} {bs : List Byte} (fits : bs.length + a ≤ 0x9000000000) (s : State) {b n : Nat}
    (direct : b + n ≤ 0x9000000000) (apart : b + n ≤ a ∨ a + bs.length ≤ b) : devRead (devWrite s keep a bs) b n = devRead s b n :=
  devRead_congr fun i hi => (devGet_devWrite_direct fits s (by omega)).trans (if_neg (by omega))

theorem devRead_devWrite_all {keep : Option Nat} {a n : Nat} {bs : List Byte} (full : bs.length = n) (fits : n + a ≤ 0x9000000000) (s : State) :
    devRead (devWrite s keep a bs) a n = bs := by
  subst full
  exact devRead_devWrite s keep a bs fits

/-- A write in the direct window leaves an address that stands for none of its bytes. -/
theorem devGet_devWrite_off {keep : Option Nat} {a : Nat} {bs : List Byte} (fits : bs.length + a ≤ 0x9000000000) (s : State) {b : Nat}
    (off : ∀ i < bs.length, devAddr b ≠ some (a + i)) : devGet (devWrite s keep a bs) b = devGet s b :=
  devGet_devWrite s keep a bs b fun i hi => by
    have direct : devAddr (a + i) = some (a + i) := if_pos (by omega)
    rw [direct]
    exact off i hi

/-- The task is of this slot, in a ring below the Rink's entries (R280, R283). -/
structure InRing (s : State) (c : Nat) (enc : Bool) (slot : Nat) (x : RTask) : Prop where
  ctx : x.ctx = c
  ring : x.enc = enc
  place : x.slot = slot
  slots : slot < (ringOf s c enc).2
  below : (ringOf s c enc).1 + 64 + 128 * (ringOf s c enc).2 ≤ 0x8FF0000000

theorem taskOf_some {s : State} {c slot : Nat} {enc : Bool} {x : RTask} (found : taskOf s c enc slot = some x) :
    x.ctx = c ∧ x.enc = enc ∧ x.slot = slot :=
  of_decide_eq_true (List.find?_some found :)

theorem InRing.of_rinkSlot {s : State} {c slot : Nat} {enc : Bool} {x : RTask} (h : s.rinkSlot c enc slot x) : InRing s c enc slot x := by
  obtain ⟨found, -, slots, below⟩ := h
  obtain ⟨ctx, ring, place⟩ := taskOf_some found
  exact ⟨ctx, ring, place, slots, below⟩

section

variable {s : State} {c slot : Nat} {enc : Bool} {x : RTask}

/-- What precedes a completion may write memory and change the Rink: the ring is the same. -/
theorem InRing.of_cfg (h : InRing s c enc slot x) {t : State} (cfg : t.cfg = s.cfg) : InRing t c enc slot x :=
  ⟨h.ctx, h.ring, h.place, by rw [ringOf_of_cfg cfg]; exact h.slots, by rw [ringOf_of_cfg cfg]; exact h.below⟩

theorem InRing.slot_end (h : InRing s c enc slot x) : slotAddr s c enc slot + 128 ≤ 0x8FF0000000 := by
  have slots := h.slots
  have below := h.below
  rw [slotAddr]
  omega

theorem completed_slotDone (h : InRing s c enc slot x) (status : Nat) {comp : List Byte} (full : comp.length = 31) :
    s.slotDone c enc slot status comp (completed s x status comp) := by
  have slot_end := h.slot_end
  have start : (ringOf s c enc).1 + 64 ≤ slotAddr s c enc slot := Nat.le_add_right _ _
  obtain ⟨rfl, rfl, rfl, -, -⟩ := h
  have word : (leBytes 4 (ringHead (completed s x status comp) x.ctx x.enc)).length = 4 := leBytes_length ..
  have dev := congrArg MemSt.dev (completed_mem s x status comp)
  refine ⟨?_, ?_, ?_⟩
  · rw [devRead_of_dev dev, devRead_devWrite_apart (by omega) _ (by omega) (by omega), devRead_cons, slotWritten,
      devGet_devWrite_direct (by simp; omega) _ (by omega), if_pos (by simp), devRead_devWrite_apart (by simp; omega) _ (by omega) (by simp),
      devRead_devWrite_all full (by omega)]
    simp
  · rw [taskOf, completed_tasks, List.find?_eq_none]
    intro y hy
    have left := of_decide_eq_true (List.mem_filter.1 hy).2
    exact fun mine => left (of_decide_eq_true mine)
  · rw [devNat, devRead_of_dev dev, devRead_devWrite_all word (by omega), leNat_leBytes]
    rfl

theorem devGet_completed_off (h : InRing s c enc slot x) (status : Nat) {comp : List Byte} (full : comp.length = 31) {a : Nat}
    (off : s.offSlot c enc slot a) : devGet (completed s x status comp) a = devGet s a := by
  have slot_end := h.slot_end
  have start : (ringOf s c enc).1 + 64 ≤ slotAddr s c enc slot := Nat.le_add_right _ _
  obtain ⟨rfl, rfl, rfl, -, -⟩ := h
  obtain ⟨off_slot, off_head⟩ := off
  have head : (leBytes 4 (ringHead (completed s x status comp) x.ctx x.enc)).length = 4 := leBytes_length ..
  have byte : [BitVec.ofNat 8 status].length = 1 := rfl
  rw [devGet_of_dev (congrArg MemSt.dev (completed_mem s x status comp)),
    devGet_devWrite_off (by omega) _ fun i hi => off_head i (by omega), slotWritten,
    devGet_devWrite_off (by omega) _ fun i hi => off_slot i (by omega),
    devGet_devWrite_off (by omega) _ fun i hi => by rw [Nat.add_assoc _ 1]; exact off_slot (1 + i) (by omega)]

/-- What a completion says of its slot speaks of the ring as the configuration has it. -/
theorem slotDone_of_cfg {t u : State} (cfg : t.cfg = s.cfg) {status : Nat} {comp : List Byte} (done : t.slotDone c enc slot status comp u) :
    s.slotDone c enc slot status comp u := by
  rw [State.slotDone, slotAddr_of_cfg cfg, ringOf_of_cfg cfg] at done
  exact done

theorem slotDone_of_mem_rink {t u : State} (mem : u.mem = t.mem) (rink : u.rink = t.rink) {status : Nat} {comp : List Byte}
    (done : s.slotDone c enc slot status comp t) : s.slotDone c enc slot status comp u := by
  have dev := congrArg MemSt.dev mem
  rw [State.slotDone, devRead_of_dev dev, devNat_of_dev dev, taskOf, ringHead, rink]
  exact done

theorem offSlot_of_cfg {t : State} (cfg : t.cfg = s.cfg) {a : Nat} (off : s.offSlot c enc slot a) : t.offSlot c enc slot a := by
  rw [State.offSlot, slotAddr_of_cfg cfg, ringOf_of_cfg cfg]
  exact off

/-! ### The entries of the streams -/

/-- No byte of an entry is written by a completion. -/
theorem InRing.off_entry (h : InRing s c enc slot x) {e i : Nat} (entry : e < 2 ^ 18) (inside : i < 1024) :
    s.offSlot c enc slot (entryAddr e + i) := by
  have slot_end := h.slot_end
  have start : (ringOf s c enc).1 + 64 ≤ slotAddr s c enc slot := Nat.le_add_right _ _
  have direct : devAddr (entryAddr e + i) = some (entryAddr e + i) := if_pos (by rw [entryAddr]; omega)
  rw [State.offSlot, direct]
  simp only [entryAddr, ne_eq, Option.some.injEq]
  constructor <;> intro j hj <;> omega

theorem entGet_completed (h : InRing s c enc slot x) (status : Nat) {comp : List Byte} (full : comp.length = 31) {e o n : Nat}
    (entry : e < 2 ^ 18) (inside : o + n ≤ 1024) : entGet (completed s x status comp) e o n = entGet s e o n := by
  rw [entGet, devNat, devRead_congr fun i hi => ?_, entGet, devNat]
  rw [Nat.add_assoc]
  exact devGet_completed_off h status full (h.off_entry entry (by omega))

theorem entryState_completed (h : InRing s c enc slot x) (status : Nat) {comp : List Byte} (full : comp.length = 31) {e : Nat}
    (entry : e < 2 ^ 18) : entryState (completed s x status comp) e = entryState s e :=
  congrArg BitVec.toNat (devGet_completed_off h status full (h.off_entry entry (i := 0) (by decide)) :)

theorem strmOf_completed (s : State) (x : RTask) (status : Nat) (comp : List Byte) (e : Nat) :
    strmOf (completed s x status comp) e = strmOf s e := by
  rw [strmOf, completed_strm, strmOf]

end

/-! ### The signal -/

theorem holdsTile_of_job {s t : State} (h : t.job = s.job) (c g : Nat) : holdsTile t c g = holdsTile s c g := by
  simp only [holdsTile, courseHolder, ctxOf_of_job h]

/-- The signal of a completion, where its job holds the tile and the count has room (R74, R76, R288). -/
theorem rinkSignal_fits {s : State} {x : RTask} {o g : Nat} (asked : bit (lat x.d 1 1) 3 = true) (place : o = if x.enc then 0x28 else 0x38)
    (tile : g = lat x.d o 2 % 512) (holds : holdsTile s x.ctx g = true) (room : semGet s g (lat x.d (o + 2) 1) < 0xFFFF) :
    rinkSignal s x = semPut s g (lat x.d (o + 2) 1) (semGet s g (lat x.d (o + 2) 1) + 1) := by
  subst tile
  rw [rinkSignal, ← place]
  simp only [asked, not_true_eq_false, if_false, holds, if_true]
  exact semSignal_fits _ room

end Sys2Proof.Proofs
end

section
/-! A poll of a Rink ring (R283, R284, R289): the tail is read, and where no other ring of the kind holds work, what is taken is what
this ring offers. -/

namespace Sys2Proof.Proofs

open Sys2Proof Sys2Proof.Machine Sys2Proof.Laws

/-! ### What the rings offer -/

/-- No ring of this kind but that of context `c` holds work that may be taken. -/
def OthersIdle (s : State) (c : Nat) (enc : Bool) : Prop := ∀ k < 8, k ≠ c → (ctxOf s k).state ≠ .running ∨ ringWindow s k enc = []

theorem poisonedAt_of_mem {s t : State} (h : t.mem = s.mem) (a n : Nat) : poisonedAt t a n = poisonedAt s a n := by
  rw [poisonedAt, h, poisonedAt]

theorem ringKey_ne {c k : Nat} (other : k ≠ c) (enc : Bool) : ringKey k enc ≠ ringKey c enc := by
  rw [ringKey, ringKey]
  omega

theorem ringWindow_congr {s t : State} {c : Nat} {enc : Bool} (cfg : t.cfg = s.cfg)
    (tail : mget t.rink.tails 0 (ringKey c enc) = mget s.rink.tails 0 (ringKey c enc))
    (head : mget t.rink.next 0 (ringKey c enc) = mget s.rink.next 0 (ringKey c enc)) : ringWindow t c enc = ringWindow s c enc := by
  simp only [ringWindow, ringHead, ringOf_of_cfg cfg, tail, head]

theorem OthersIdle.congr {s t : State} {c : Nat} {enc : Bool} (h : OthersIdle s c enc) (cfg : t.cfg = s.cfg) (job : t.job = s.job)
    (tails : ∀ k ≠ ringKey c enc, mget t.rink.tails 0 k = mget s.rink.tails 0 k)
    (heads : ∀ k ≠ ringKey c enc, mget t.rink.next 0 k = mget s.rink.next 0 k) : OthersIdle t c enc := fun k below other => by
  have key := ringKey_ne other enc
  rw [ctxOf_of_job job, ringWindow_congr cfg (tails _ key) (heads _ key)]
  exact h k below other

theorem OthersIdle.offers {s : State} {c k : Nat} {enc : Bool} (h : OthersIdle s c enc) (below : k < 8) (other : k ≠ c) :
    ringOffers s k enc = none := by
  rw [ringOffers]
  rcases h k below other with halted | empty
  · exact if_neg fun runs => halted runs.1
  · rw [empty]
    exact ite_self _

theorem ringOffers_empty {s : State} {c : Nat} {enc : Bool} (empty : ringWindow s c enc = []) : ringOffers s c enc = none := by
  rw [ringOffers, empty]
  exact ite_self _

/-- A ring whose only descriptor is taken offers nothing. -/
theorem ringOffers_taken {s : State} {c slot : Nat} {enc : Bool} (window : ringWindow s c enc = [slot])
    (taken : (taskOf s c enc slot).isSome = true) : ringOffers s c enc = none := by
  simp [ringOffers, window, nextSlot, taken]

/-- A descriptor behind an uncompleted one of its stream is not offered (R284). -/
theorem ringOffers_behind {s : State} {c a b : Nat} {enc : Bool} (window : ringWindow s c enc = [a, b]) (ahead : s.rink.ahead = [])
    (taken : (taskOf s c enc a).isSome = true)
    (stream : devNat s (slotAddr s c enc a + 4) 4 = devNat s (slotAddr s c enc b + 4) 4) : ringOffers s c enc = none := by
  simp [ringOffers, window, nextSlot, ahead, taken, stream]

/-- A ring whose only descriptor has completed holds nothing. -/
theorem ringWindow_passed {s t : State} {c slot : Nat} {enc : Bool} (window : ringWindow s c enc = [slot]) (slots : slot < (ringOf s c enc).2)
    (head : ringHead s c enc = slot) (cfg : t.cfg = s.cfg) (tails : t.rink.tails = s.rink.tails)
    (passed : ringHead t c enc = (slot + 1) % (ringOf s c enc).2) : ringWindow t c enc = [] := by
  have length := congrArg List.length window
  simp only [ringWindow, head, List.length_map, List.length_range, List.length_singleton] at length
  simp only [ringWindow, passed, ringOf_of_cfg cfg, tails, List.map_eq_nil_iff, List.range_eq_nil]
  generalize (ringOf s c enc).2 = n at *
  generalize mget s.rink.tails 0 (ringKey c enc) = tail at *
  rw [Nat.max_eq_right (Nat.one_le_of_lt slots)] at *
  have low : tail % n < n := Nat.mod_lt _ (Nat.zero_lt_of_lt slots)
  rcases Nat.lt_or_ge (slot + 1) n with inside | last
  · have reach : slot ≤ tail % n := by
      by_contra short
      rw [Nat.mod_eq_of_lt (a := tail % n + n - slot) (by omega)] at length
      omega
    rw [Nat.mod_eq_sub_mod (by omega), Nat.mod_eq_of_lt (by omega)] at length
    rw [Nat.mod_eq_of_lt inside, show tail % n + n - (slot + 1) = n by omega, Nat.mod_self]
  · obtain rfl : n = slot + 1 := by omega
    rw [show tail % (slot + 1) + (slot + 1) - slot = tail % (slot + 1) + 1 by omega] at length
    rw [Nat.mod_self, Nat.sub_zero, Nat.add_mod_right, Nat.mod_mod]
    rcases Nat.lt_or_ge (tail % (slot + 1) + 1) (slot + 1) with small | full
    · rw [Nat.mod_eq_of_lt small] at length
      omega
    · rw [show tail % (slot + 1) + 1 = slot + 1 by omega, Nat.mod_self] at length
      cases length

/-! ### Turns -/

theorem takeSlot_clean {s : State} {c slot : Nat} {enc : Bool} (quiet : s.mem.upsets = [])
    (clean : poisonedAt s (slotAddr s c enc slot) 128 = none) (take : State → Nat → Nat → List Byte → State) :
    takeSlot take s c enc slot = take s c slot (devRead s (slotAddr s c enc slot) 128) := by
  simp only [takeSlot, meetRanges_quiet quiet, clean]

/-- The state as context `c` has its turn. -/
def turned (s : State) (c : Nat) (enc : Bool) : State := { s with rink := { s.rink with turn := mset s.rink.turn 7 (b2n enc) c } }

@[simp] theorem turned_cfg (s : State) (c : Nat) (enc : Bool) : (turned s c enc).cfg = s.cfg := rfl
@[simp] theorem turned_mem (s : State) (c : Nat) (enc : Bool) : (turned s c enc).mem = s.mem := rfl

theorem takeTurns_idle {s : State} {c : Nat} {enc : Bool} (others : OthersIdle s c enc) (nothing : ringOffers s c enc = none)
    (take : State → Nat → Nat → List Byte → State) (n : Nat) : takeTurns take enc n s = s := by
  cases n with
  | zero => rfl
  | succ n =>
    have quiet : ((List.range 8).map fun i => (mget s.rink.turn 7 (b2n enc) + 1 + i) % 8).find? (fun c => (ringOffers s c enc).isSome) = none := by
      simp only [List.find?_eq_none, List.mem_map]
      rintro _ ⟨i, -, rfl⟩
      by_cases mine : (mget s.rink.turn 7 (b2n enc) + 1 + i) % 8 = c
      · simp [mine, nothing]
      · simp [others.offers (Nat.mod_lt _ (by decide)) mine]
    rw [takeTurns, quiet]

theorem takeTurns_takes {s : State} {c slot : Nat} {enc : Bool} (others : OthersIdle s c enc) (below : c < 8)
    (offers : ringOffers s c enc = some slot) (take : State → Nat → Nat → List Byte → State) (n : Nat) :
    takeTurns take enc (n + 1) s = takeTurns take enc n (takeSlot take (turned s c enc) c enc slot) := by
  have turn : ((List.range 8).map fun i => (mget s.rink.turn 7 (b2n enc) + 1 + i) % 8).find? (fun c => (ringOffers s c enc).isSome) = some c := by
    generalize mget s.rink.turn 7 (b2n enc) + 1 = first
    have mine : c ∈ (List.range 8).map fun i => (first + i) % 8 :=
      List.mem_map.2 ⟨(c + 8 - first % 8) % 8, List.mem_range.2 (Nat.mod_lt _ (by decide)), by omega⟩
    cases found : ((List.range 8).map fun i => (first + i) % 8).find? fun c => (ringOffers s c enc).isSome with
    | none => exact absurd (by rw [offers]; rfl) (List.find?_eq_none.1 found c mine)
    | some k =>
      obtain ⟨i, -, rfl⟩ := List.mem_map.1 (List.mem_of_find?_eq_some found)
      by_contra other
      have some_offer : (ringOffers s ((first + i) % 8) enc).isSome = true := (List.find?_some found :)
      rw [others.offers (Nat.mod_lt _ (by decide)) fun mine => other (congrArg some mine)] at some_offer
      cases some_offer
  rw [takeTurns, turn]
  simp only [offers]
  rfl

/-! ### A poll -/

/-- The state as a tail has been read of a ring. -/
def withTail (s : State) (c : Nat) (enc : Bool) (tail : Nat) : State :=
  { s with rink := { s.rink with tails := mset s.rink.tails 0 (ringKey c enc) tail } }

@[simp] theorem withTail_cfg (s : State) (c : Nat) (enc : Bool) (tail : Nat) : (withTail s c enc tail).cfg = s.cfg := rfl
@[simp] theorem withTail_mem (s : State) (c : Nat) (enc : Bool) (tail : Nat) : (withTail s c enc tail).mem = s.mem := rfl

theorem polls_withTail {s u : State} {c : Nat} {enc : Bool} (h : s.polls c enc u) :
    ∃ tail, tail = devNat s (ringOf s c enc).1 4 ∧ u = withTail s c enc tail := by
  obtain ⟨-, -, -, -, -, read, -⟩ := h
  exact ⟨_, rfl, read⟩

theorem polls_othersIdle {s u : State} {c : Nat} {enc : Bool} (h : s.polls c enc u) : OthersIdle u c enc := by
  obtain ⟨tail, -, rfl⟩ := polls_withTail h
  obtain ⟨-, -, -, -, -, -, others⟩ := h
  have idle : OthersIdle s c enc := others
  exact idle.congr rfl rfl (fun k other => mget_mset_ne _ _ _ _ _ other) fun _ _ => rfl

/-- A poll reads the tail, and the rings have their turns. -/
theorem pollRing_polls {s u : State} {c : Nat} {enc : Bool} (h : s.polls c enc u) (quiet : s.mem.upsets = [])
    (take : State → Nat → Nat → List Byte → State) :
    pollRing take s c enc = takeTurns take enc ((List.range 8).map fun c => (ringWindow u c enc).length).sum u := by
  obtain ⟨runs, slots, active, allowed, clean, rfl, -⟩ := h
  simp only [pollRing, runs, slots, active, allowed, meetRanges_quiet quiet, clean, ne_eq, not_true_eq_false, or_self, if_false]

theorem pollRing_idle {s u : State} {c : Nat} {enc : Bool} (h : s.polls c enc u) (quiet : s.mem.upsets = [])
    (nothing : ringOffers u c enc = none) (take : State → Nat → Nat → List Byte → State) : pollRing take s c enc = u := by
  rw [pollRing_polls h quiet, takeTurns_idle (polls_othersIdle h) nothing]

/-- The poll of a ring finds one descriptor there, in a slot without a poisoned line, and offers it. -/
structure FindsOne (s u : State) (c : Nat) (enc : Bool) (slot : Nat) (d : List Byte) : Prop where
  polls : s.polls c enc u
  ctx : c < 8
  quiet : s.mem.upsets = []
  window : ringWindow u c enc = [slot]
  offers : ringOffers u c enc = some slot
  clean : poisonedAt s (slotAddr s c enc slot) 128 = none
  read : d = devRead s (slotAddr s c enc slot) 128

/-- The descriptor is taken, and where nothing is left to take then, the poll ends. -/
theorem FindsOne.pollRing_eq {s u : State} {c slot : Nat} {enc : Bool} {d : List Byte} (h : FindsOne s u c enc slot d)
    {take : State → Nat → Nat → List Byte → State} {t : State} (taken : take (turned u c enc) c slot d = t) (others : OthersIdle t c enc)
    (nothing : ringOffers t c enc = none) : pollRing take s c enc = t := by
  obtain ⟨polls, ctx, quiet, window, offers, clean, rfl⟩ := h
  have idle := polls_othersIdle polls
  have work : 1 ≤ ((List.range 8).map fun c => (ringWindow u c enc).length).sum :=
    List.le_sum_of_mem (List.mem_map.2 ⟨c, List.mem_range.2 ctx, by rw [window]; rfl⟩)
  obtain ⟨n, fuel⟩ := Nat.exists_eq_succ_of_ne_zero (Nat.one_le_iff_ne_zero.1 work)
  have now_taken : takeSlot take (turned u c enc) c enc slot = t := by
    obtain ⟨tail, -, rfl⟩ := polls_withTail polls
    have cfg := (turned_cfg (withTail s c enc tail) c enc).trans (withTail_cfg s c enc tail)
    have mem := (turned_mem (withTail s c enc tail) c enc).trans (withTail_mem s c enc tail)
    rw [← slotAddr_of_cfg cfg, ← poisonedAt_of_mem mem] at clean
    rw [takeSlot_clean (by rw [mem]; exact quiet) clean, slotAddr_of_cfg cfg, devRead_of_dev (congrArg MemSt.dev mem)]
    exact taken
  rw [pollRing_polls polls quiet, fuel, takeTurns_takes idle ctx offers, now_taken, takeTurns_idle others nothing]

end Sys2Proof.Proofs
end

section
/-! The ingest ring and the stream contexts (R280 to R288, R308, R312): what is taken from the ring waits or goes to the host, and OPEN
and CLOSE write the entry of their stream and complete. -/

namespace Sys2Proof.Proofs

open Sys2Proof Sys2Proof.Machine Sys2Proof.Laws

/-! ### Bytes of an entry -/

section

variable {s : State} {e : Nat}

theorem entPut_dev (s : State) (e o : Nat) (b : List Byte) : (entPut s e o b).mem.dev = (devWrite s none (entryAddr e + o) b).mem.dev := rfl

theorem setEntryState_eq (s : State) (e v : Nat) : setEntryState s e v = entPut s e 0 [BitVec.ofNat 8 v] := rfl

theorem entryState_eq (s : State) (e : Nat) : entryState s e = entGet s e 0 1 := by
  simp [entryState, entGet, devNat, devRead, leNat]

theorem entryAddr_end (entry : e < 2 ^ 18) : entryAddr e + 1024 ≤ 0x9000000000 := by
  rw [entryAddr]
  omega

/-- What is written of an entry is read from it. -/
theorem entGet_entPut_within (entry : e < 2 ^ 18) {o : Nat} {b : List Byte} (inside : o + b.length ≤ 1024) {p n : Nat} (within : p + n ≤ b.length)
    (s : State) : entGet (entPut s e o b) e (o + p) n = lat b p n := by
  have below := entryAddr_end entry
  rw [entGet, ← Nat.add_assoc, ← lat_devRead _ _ within, devRead_of_dev (entPut_dev s e o b), devRead_devWrite_all rfl (by omega)]

theorem entGet_entPut_apart (entry : e < 2 ^ 18) {o : Nat} {b : List Byte} (inside : o + b.length ≤ 1024) {p n : Nat} (range : p + n ≤ 1024)
    (apart : p + n ≤ o ∨ o + b.length ≤ p) (s : State) : entGet (entPut s e o b) e p n = entGet s e p n := by
  have below := entryAddr_end entry
  rw [entGet, devNat, devRead_of_dev (entPut_dev s e o b), devRead_devWrite_apart (by omega) _ (by omega) (by omega), entGet, devNat]

theorem entGet_entSet_same (entry : e < 2 ^ 18) {o n : Nat} (inside : o + n ≤ 1024) (s : State) (v : Nat) :
    entGet (entSet s e o n v) e o n = v % 256 ^ n := by
  have length := leBytes_length n v
  have read := entGet_entPut_within entry (o := o) (b := leBytes n v) (by omega) (p := 0) (n := n) (by omega) s
  rw [Nat.add_zero] at read
  rw [entSet, read, lat, List.drop_zero, List.take_of_length_le length.le, leNat_leBytes]

theorem entGet_entSet_apart (entry : e < 2 ^ 18) {o m : Nat} (inside : o + m ≤ 1024) {p n : Nat} (range : p + n ≤ 1024)
    (apart : p + n ≤ o ∨ o + m ≤ p) (s : State) (v : Nat) : entGet (entSet s e o m v) e p n = entGet s e p n := by
  have length := leBytes_length m v
  exact entGet_entPut_apart entry (by omega) range (by omega) s

/-- The first 64 bytes of an entry hold what is written there. -/
theorem devGet_entPut_off (entry : e < 2 ^ 18) {b : List Byte} (inside : b.length ≤ 64) {a : Nat} (off : offEntry e a) (s : State) :
    devGet (entPut s e 0 b) a = devGet s a := by
  have below := entryAddr_end entry
  rw [devGet_of_dev (entPut_dev s e 0 b), Nat.add_zero, devGet_devWrite_off (by omega) _ fun i hi => off i (by omega : i < 64)]

theorem devGet_updStrm (s : State) (e : Nat) (f : Strm → Strm) (a : Nat) : devGet (updStrm s e f) a = devGet s a := devGet_of_dev rfl a

theorem entGet_updStrm (s : State) (i : Nat) (f : Strm → Strm) (e o n : Nat) : entGet (updStrm s i f) e o n = entGet s e o n :=
  devNat_of_dev rfl ..

theorem strmOf_updStrm (s : State) (e : Nat) (f : Strm → Strm) : strmOf (updStrm s e f) e = f (strmOf s e) :=
  (mget_mupd ..).trans (if_pos rfl)

end

/-! ### What the split reads -/

/-- Memory, configuration, table, streams and spilling classes are the same: what a descriptor's status and the split depend on. -/
structure SameStreams (s t : State) : Prop where
  dev : t.mem.dev = s.mem.dev
  cfg : t.cfg = s.cfg
  table : t.rink.table = s.rink.table
  strm : t.rink.strm = s.rink.strm
  spill : t.rink.spill = s.rink.spill

section

variable {s t : State}

theorem SameStreams.entGet (h : SameStreams s t) (e o n : Nat) : entGet t e o n = entGet s e o n := devNat_of_dev h.dev ..

theorem SameStreams.entryOf (h : SameStreams s t) (c k : Nat) : entryOf t c k = entryOf s c k := by
  rw [Machine.entryOf, h.table, Machine.entryOf]

theorem SameStreams.entFlag (h : SameStreams s t) (e i : Nat) : entFlag t e i = entFlag s e i := by
  rw [Machine.entFlag, h.entGet, Machine.entFlag]

theorem SameStreams.spills (h : SameStreams s t) (k : Nat) : spills t k = spills s k := by
  have split : splitOf t k = splitOf s k := by simp only [splitOf, live, h.cfg]
  rw [Machine.spills, split, h.spill, Machine.spills]

theorem SameStreams.toHost (h : SameStreams s t) (e : Nat) (d : List Byte) : toHost t e d = toHost s e d := by
  simp only [Machine.toHost, h.entGet, h.entFlag, h.spills]

theorem SameStreams.toHostShape (h : SameStreams s t) (d : List Byte) : toHostShape t d = toHostShape s d := by
  rw [Machine.toHostShape, h.spills, Machine.toHostShape]

theorem polls_sameStreams {u : State} {c : Nat} {enc : Bool} (h : s.polls c enc u) : SameStreams s (turned u c enc) := by
  obtain ⟨tail, -, rfl⟩ := polls_withTail h
  exact ⟨rfl, rfl, rfl, rfl, rfl⟩

end

/-! ### Taking -/

/-- The task of a descriptor as it is taken. -/
def ingestTask (s : State) (c slot : Nat) (d : List Byte) : RTask :=
  { ctx := c, enc := false, slot := slot, d := d, hostShape := toHostShape s d }

/-- The state with that task. -/
def withIngestTask (s : State) (c slot : Nat) (d : List Byte) : State :=
  { s with rink := { s.rink with tasks := s.rink.tasks ++ [ingestTask s c slot d] } }

/-- A descriptor that is not sent to the host, and whose stream is not on the host path, waits for its command. -/
theorem takeIngest_waits {s : State} {c slot : Nat} {d : List Byte} (low : 1 ≤ lat d 0 1) (high : lat d 0 1 ≤ 4)
    (stays : ∀ e, lat d 0 1 = 2 → entryOf s c (lat d 4 4) = some e → toHost s e d = false ∧ entFlag s e 0 = false) :
    takeIngest s c slot d = updSpill (withIngestTask s c slot d) := by
  rw [takeIngest, if_neg (by omega)]
  dsimp only
  split
  case isTrue => rfl
  case isFalse acts =>
    have decode : lat d 0 1 = 2 := by
      by_contra other
      exact acts (.inl other)
    split
    case h_1 => rfl
    case h_2 e entry =>
      obtain ⟨near, off_path⟩ := stays e decode entry
      rw [if_neg (by simp [near]), if_neg (by simp [off_path])]
      rfl

/-- The stream of a descriptor that is sent to the host goes onto the host path. -/
def ontoHostPath (s : State) (e : Nat) : State := entSet s e 3 1 (entGet s e 3 1 ||| 1)

/-- A DECODE that goes to the host completes at once (R308). -/
theorem takeIngest_host {s : State} {c slot e : Nat} {d : List Byte} (decode : lat d 0 1 = 2) (acts : ingestStatus s (ingestTask s c slot d) = none)
    (entry : entryOf s c (lat d 4 4) = some e) (host : toHost s e d = true) :
    takeIngest s c slot d = rinkFinish (ontoHostPath (withIngestTask s c slot d) e) (ingestTask s c slot d) 4
      (ingestComp s 16 (entGet (ontoHostPath (withIngestTask s c slot d) e) e 8 4) 0 0) := by
  have own : taskEntry s (ingestTask s c slot d) = some e := entry
  rw [takeIngest, if_neg (by omega)]
  dsimp only
  rw [← ingestTask, acts, own, if_neg (by simp [decode])]
  dsimp only
  rw [if_pos host]
  rfl

theorem ingestStatus_acts {s : State} {x : RTask} {e : Nat} (good : ingestBad x.d = false) (entry : taskEntry s x = some e)
    (decode : lat x.d 0 1 = 2) (live : entryState s e ≠ 0) (ingest : (strmOf s e).enc = false) : ingestStatus s x = none := by
  simp [ingestStatus, good, entry, decode, live, ingest]

/-- A descriptor that may not act is wrong or does not fit the state of its stream (R287). -/
theorem ingestStatus_codes {s : State} {x : RTask} {st : Nat} (refused : ingestStatus s x = some st) : st = 0x10 ∨ st = 0x11 := by
  rw [ingestStatus] at refused
  by_cases bad : ingestBad x.d = true
  · rw [if_pos bad] at refused
    exact .inl (Option.some.inj refused).symm
  · right
    rw [if_neg bad] at refused
    cases entry : taskEntry s x <;> grind

theorem ingestComp_length (s : State) (cflags frame errors need : Nat) : (ingestComp s cflags frame errors need).length = 31 := by
  simp only [ingestComp, List.length_append, leBytes_length]

theorem ingestComp_of_fab {s t : State} (h : t.fab = s.fab) (cflags frame errors need : Nat) :
    ingestComp t cflags frame errors need = ingestComp s cflags frame errors need := by
  rw [ingestComp, now, h, ingestComp, now]

/-! ### The poll -/

section

variable {s u : State} {c slot : Nat} {d : List Byte}

theorem withIngestTask_taken (s : State) (c slot : Nat) (d : List Byte) {t : State} (tasks : t.rink.tasks = (withIngestTask s c slot d).rink.tasks) :
    (taskOf t c false slot).isSome = true := by
  rw [taskOf, tasks, List.find?_isSome]
  exact ⟨ingestTask s c slot d, List.mem_append_right _ List.mem_cons_self, by simp [ingestTask]⟩

theorem turned_kept {C : List Part} {z : State} (hC : ([.rink] : List Part) ⊆ C) (h : s.polls c false u) (k : Kept C z s) :
    Kept C z (turned u c false) := by
  obtain ⟨tail, -, rfl⟩ := polls_withTail h
  exact rink_kept hC (rink_kept hC k)

/-- The poll takes a descriptor that stays, which then waits for its command. -/
theorem FindsOne.waits (h : FindsOne s u c false slot d) (low : 1 ≤ lat d 0 1) (high : lat d 0 1 ≤ 4)
    (stays : ∀ e, lat d 0 1 = 2 → entryOf s c (lat d 4 4) = some e → toHost s e d = false ∧ entFlag s e 0 = false) :
    pollRing takeIngest s c false = updSpill (withIngestTask (turned u c false) c slot d) := by
  have same := polls_sameStreams h.polls
  have taken : takeIngest (turned u c false) c slot d = updSpill (withIngestTask (turned u c false) c slot d) :=
    takeIngest_waits low high fun e decode entry => by
      rw [same.toHost, same.entFlag]
      exact stays e decode (same.entryOf c _ ▸ entry)
  obtain ⟨spill, split⟩ := updSpill_changes (withIngestTask (turned u c false) c slot d)
  rw [split] at taken ⊢
  exact h.pollRing_eq taken ((polls_othersIdle h.polls).congr rfl rfl (fun _ _ => rfl) fun _ _ => rfl)
    (ringOffers_taken ((ringWindow_congr (s := u) rfl rfl rfl).trans h.window) (withIngestTask_taken (turned u c false) c slot d rfl))

/-- A DECODE of an open stream of the ingest ring that goes to the host and asks for no signal and no interrupt (R308). -/
structure GoesToHost (s : State) (c e : Nat) (d : List Byte) : Prop where
  decode : lat d 0 1 = 2
  good : ingestBad d = false
  entry : entryOf s c (lat d 4 4) = some e
  inside : e < 2 ^ 18
  live : entryState s e ≠ 0
  ingest : (strmOf s e).enc = false
  host : toHost s e d = true
  still : bit (lat d 1 1) 3 = false ∧ bit (lat d 1 1) 4 = false

/-- The state in which a DECODE that the poll takes for the host completes. -/
def hosted (u : State) (c slot e : Nat) (d : List Byte) : State := ontoHostPath (withIngestTask (turned u c false) c slot d) e

theorem hosted_kept {C : List Part} {z : State} (hC : ([.dev, .rink] : List Part) ⊆ C) (h : s.polls c false u) (slot e : Nat) (d : List Byte)
    (k : Kept C z s) : Kept C z (hosted u c slot e d) :=
  have rink : ([.rink] : List Part) ⊆ C := Part.subs hC (by decide)
  entSet_kept (Part.subs hC (by decide)) (rink_kept rink (turned_kept rink h k))

section

variable {e : Nat}

theorem ringHead_hosted (h : s.polls c false u) : ringHead (hosted u c slot e d) c false = ringHead s c false := by
  obtain ⟨tail, -, rfl⟩ := polls_withTail h
  rfl

theorem entGet_hosted (h : s.polls c false u) (inside : e < 2 ^ 18) {o n : Nat} (range : o + n ≤ 1024) (apart : o + n ≤ 3 ∨ 4 ≤ o) :
    entGet (hosted u c slot e d) e o n = entGet s e o n := by
  rw [hosted, ontoHostPath, entGet_entSet_apart inside (by decide) range apart]
  exact (polls_sameStreams h).entGet e o n

theorem entFlag_hosted (inside : e < 2 ^ 18) : entFlag (hosted u c slot e d) e 0 = true := by
  rw [entFlag, hosted, ontoHostPath, entGet_entSet_same inside (by decide), bit, show 256 ^ 1 = 2 ^ 8 from rfl,
    Nat.testBit_mod_two_pow]
  simp

/-- The poll completes a DECODE that goes to the host. -/
theorem takeIngest_hosted (h : s.polls c false u) (decode : GoesToHost s c e d) (slot : Nat) : takeIngest (turned u c false) c slot d =
    completed (hosted u c slot e d) (ingestTask (turned u c false) c slot d) 4 (ingestComp s 16 (entGet s e 8 4) 0 0) := by
  have same := polls_sameStreams h
  have fab : (turned u c false).fab = s.fab := (turned_kept (List.Subset.refl _) h (Kept.refl _ s)).frame .fab (by decide)
  have entry : entryOf (turned u c false) c (lat d 4 4) = some e := (same.entryOf ..).trans decode.entry
  have live : entryState (turned u c false) e ≠ 0 := by
    rw [entryState_eq, same.entGet, ← entryState_eq]
    exact decode.live
  have ingest : (strmOf (turned u c false) e).enc = false := by
    rw [strmOf, same.strm]
    exact decode.ingest
  have acts : ingestStatus (turned u c false) (ingestTask (turned u c false) c slot d) = none :=
    ingestStatus_acts decode.good entry decode.decode live ingest
  have still : (ingestTask (turned u c false) c slot d).quiet := decode.still
  rw [takeIngest_host decode.decode acts entry ((same.toHost ..).trans decode.host), rinkFinish_quiet still, ← hosted, ingestComp_of_fab fab,
    entGet_hosted h decode.inside (by decide) (by decide)]

theorem inRing_hosted (h : s.polls c false u) (slots : slot < (ringOf s c false).2)
    (below : (ringOf s c false).1 + 64 + 128 * (ringOf s c false).2 ≤ 0x8FF0000000) (e : Nat) (d : List Byte) :
    InRing (hosted u c slot e d) c false slot (ingestTask (turned u c false) c slot d) := by
  have cfg : (hosted u c slot e d).cfg = s.cfg := (polls_sameStreams h).cfg
  have ring := ringOf_of_cfg cfg c false
  exact ⟨rfl, rfl, rfl, by rw [ring]; exact slots, by rw [ring]; exact below⟩

/-- The state after the poll has completed a DECODE that goes to the host. -/
def afterHosted (s u : State) (c slot e : Nat) (d : List Byte) : State :=
  completed (hosted u c slot e d) (ingestTask (turned u c false) c slot d) 4 (ingestComp s 16 (entGet s e 8 4) 0 0)

theorem afterHosted_kept (h : s.polls c false u) (slot e : Nat) (d : List Byte) : Kept [.dev, .mem, .rink] s (afterHosted s u c slot e d) :=
  completed_kept (List.Subset.refl _) (hosted_kept (by decide) h slot e d (Kept.refl _ s)) _ _ _

theorem ringHead_afterHosted (h : s.polls c false u) (none_ahead : s.rink.ahead = []) (slots : slot < (ringOf s c false).2)
    (head : ringHead s c false = slot) : ringHead (afterHosted s u c slot e d) c false = (slot + 1) % (ringOf s c false).2 := by
  have ring := ringOf_of_cfg (t := hosted u c slot e d) (polls_sameStreams h).cfg c false
  have ahead : (hosted u c slot e d).rink.ahead = [] := by
    obtain ⟨tail, -, rfl⟩ := polls_withTail h
    exact none_ahead
  rw [← ring] at slots ⊢
  exact (ringHead_completed_single (x := ingestTask (turned u c false) c slot d) ahead slots 4 _).trans (if_pos ((ringHead_hosted h).trans head))

/-- The poll completes a DECODE that goes to the host, and its ring is empty then. -/
theorem FindsOne.hosts (h : FindsOne s u c false slot d) (decode : GoesToHost s c e d) (none_ahead : s.rink.ahead = [])
    (slots : slot < (ringOf s c false).2) (head : ringHead s c false = slot) : pollRing takeIngest s c false = afterHosted s u c slot e d := by
  have polls := h.polls
  have ring : ringOf u c false = ringOf s c false := ringOf_of_cfg (polls_sameStreams polls).cfg c false
  have cfg : (afterHosted s u c slot e d).cfg = u.cfg := completed_cfg ..
  have tails : (afterHosted s u c slot e d).rink.tails = u.rink.tails := completed_tails ..
  have passed := ringHead_afterHosted (e := e) (d := d) polls none_ahead slots head
  have empty : ringWindow (afterHosted s u c slot e d) c false = [] := by
    rw [← ring] at slots passed
    exact ringWindow_passed h.window slots ((ringHead_hosted (slot := slot) (e := e) (d := d) polls).trans head) cfg tails passed
  exact h.pollRing_eq (takeIngest_hosted polls decode slot)
    ((polls_othersIdle polls).congr cfg (completed_job ..) (fun _ _ => by rw [tails]) fun _ other => completed_next_other other ..)
    (ringOffers_empty empty)

end

end

/-! ### OPEN and CLOSE -/

section

variable {s : State} {c slot e : Nat} {x : RTask}

theorem atPhase_runs {op : Nat} {enc : Bool} {phase : RPhase} (h : s.rinkSlot c enc slot x) (at_phase : x.phase = phase) (command : lat x.d 0 1 = op)
    (f : RTask → State) : atPhase s c enc slot op phase f = f x := by
  obtain ⟨found, runs, -, -⟩ := h
  rw [atPhase, found]
  exact if_pos ⟨at_phase, command, runs⟩

theorem withRanges_passes {t : RTask} {rd store wr : List (Nat × Nat)} (quiet : s.mem.upsets = [])
    (reads : rangesFault s t.ctx 0 (rd ++ store) = none) (writes : rangesFault s t.ctx 1 (wr ++ store) = none) (clean : rangesPoison s rd = none)
    (f : State → State) : withRanges s t rd store wr f = f s := by
  simp only [withRanges, reads, writes, Option.orElse, meetRanges_quiet quiet, clean]

/-- Bytes that the picture store of an OPEN needs (R286). -/
def openNeed (d : List Byte) : Nat := Config.storeNeed (lat d 0x40 1) (lat d 0x41 1) (lat d 0x42 1) (lat d 0x44 2) (lat d 0x46 2)

/-- The configuration bytes that an OPEN names (R286). -/
def openConfig (d : List Byte) : List (Nat × Nat) := if lat d 0x5C 4 = 0 then [] else [(lat d 8 8 + lat d 0x58 4, lat d 0x5C 4)]

/-- The entry's first bytes as an OPEN writes them (R281). -/
def openBytes (c : Nat) (x : RTask) : List Byte :=
  openEntry c (lat x.d 0x40 1) x.stream (lat x.d 0x48 8) (lat x.d 0x50 8) (lat x.d 0x44 2) (lat x.d 0x46 2) (lat x.d 0x41 1) (lat x.d 0x42 1)

/-- The state in which an OPEN completes. -/
def opened (s : State) (c e : Nat) (x : RTask) : State :=
  updStrm (entPut s e 0 (openBytes c x)) e fun _ => { open_ := x.d, config := (openConfig x.d).flatMap fun r => devRead s r.1 r.2 }

theorem opened_kept {C : List Part} {z : State} (hC : ([.dev, .rink] : List Part) ⊆ C) (h : Kept C z s) (c e : Nat) (x : RTask) :
    Kept C z (opened s c e x) :=
  updStrm_kept (Part.subs hC (by decide)) (entPut_kept (Part.subs hC (by decide)) h)

theorem entryState_of_open (command : lat x.d 0 1 = 1) (acts : ingestStatus s x = none) (entry : taskEntry s x = some e) : entryState s e = 0 := by
  by_contra live
  rw [ingestStatus] at acts
  split at acts
  · cases acts
  · simp [entry, live] at acts

theorem ingestOpenEffect_refused {st : Nat} (h : s.rinkSlot c false slot x) (taken : x.phase = .taken) (command : lat x.d 0 1 = 1)
    (refused : ingestStatus s x = some st) : ingestOpenEffect c slot s = rinkFinish s x st (ingestComp s 0 0 0 0) := by
  have codes := ingestStatus_codes refused
  rw [ingestOpenEffect, atPhase_runs h taken command]
  simp only [refused, codes, if_true]

theorem ingestOpenEffect_short (h : s.rinkSlot c false slot x) (taken : x.phase = .taken) (command : lat x.d 0 1 = 1)
    (acts : ingestStatus s x = none) (entry : taskEntry s x = some e) (short : lat x.d 0x50 8 < openNeed x.d) :
    ingestOpenEffect c slot s = rinkFinish s x 0x12 (ingestComp s 0 0 0 (openNeed x.d)) := by
  rw [ingestOpenEffect, atPhase_runs h taken command]
  simp only [acts, entry]
  exact if_pos short

theorem ingestOpenEffect_opens (h : s.rinkSlot c false slot x) (taken : x.phase = .taken) (command : lat x.d 0 1 = 1)
    (acts : ingestStatus s x = none) (entry : taskEntry s x = some e) (room : openNeed x.d ≤ lat x.d 0x50 8) (quiet : s.mem.upsets = [])
    (reads : rangesFault s c 0 (openConfig x.d ++ [(lat x.d 0x48 8, lat x.d 0x50 8)]) = none) (writes : rangesFault s c 1 [(lat x.d 0x48 8, lat x.d 0x50 8)] = none)
    (clean : rangesPoison s (openConfig x.d) = none) :
    ingestOpenEffect c slot s = rinkFinish (opened s c e x) x 1 (ingestComp s 0 0 0 (openNeed x.d)) := by
  obtain ⟨ctx, -, -, -, -⟩ := InRing.of_rinkSlot h
  rw [ingestOpenEffect, atPhase_runs h taken command]
  rw [← ctx] at reads writes
  unfold openNeed at room ⊢
  unfold openConfig at reads clean
  simp only [acts, entry, if_neg (Nat.not_lt.2 room)]
  rw [withRanges_passes (wr := []) quiet reads writes clean]
  have fab : (opened s c e x).fab = s.fab := (opened_kept (List.Subset.refl _) (Kept.refl _ s) c e x).frame .fab (by decide)
  rw [opened, openBytes, openConfig] at fab ⊢
  rw [if_neg (show ¬ (1 = 0x10 ∨ 1 = 0x11) by decide), ingestComp_of_fab fab]

/-- The state in which a CLOSE completes. -/
def closed (s : State) (e : Nat) : State := updStrm (setEntryState s e 0) e fun _ => {}

theorem closed_kept {C : List Part} {z : State} (hC : ([.dev, .rink] : List Part) ⊆ C) (h : Kept C z s) (e : Nat) : Kept C z (closed s e) :=
  updStrm_kept (Part.subs hC (by decide)) (setEntryState_kept (Part.subs hC (by decide)) h)

theorem ingestCloseEffect_closes (h : s.rinkSlot c false slot x) (taken : x.phase = .taken) (command : lat x.d 0 1 = 4)
    (acts : ingestStatus s x = none) (entry : taskEntry s x = some e) :
    ingestCloseEffect c slot s = rinkFinish (closed s e) x 1 (ingestComp s 0 (entGet s e 8 4) 0 0) := by
  rw [ingestCloseEffect, atPhase_runs h taken command, acts, entry]
  rfl

/-! ### The entry after OPEN and CLOSE -/

theorem lat_append_here (w v : Nat) (bs : List Byte) : lat (leBytes w v ++ bs) 0 w = v % 256 ^ w := by
  rw [lat, List.drop_zero, List.take_left' (leBytes_length w v), leNat_leBytes]

theorem lat_append_past {w o : Nat} (past : w ≤ o) (v : Nat) (bs : List Byte) (n : Nat) : lat (leBytes w v ++ bs) o n = lat bs (o - w) n := by
  rw [lat, lat, List.drop_append, leBytes_length, List.drop_eq_nil_of_le (by rw [leBytes_length]; exact past), List.nil_append]

theorem openBytes_length (c : Nat) (x : RTask) : (openBytes c x).length = 64 := by
  simp only [openBytes, openEntry, List.length_append, leBytes_length]

theorem lat_openBytes (context : c < 8) (x : RTask) : lat (openBytes c x) 0 1 = 1 ∧ lat (openBytes c x) 1 1 = lat x.d 0x40 1 ∧
    lat (openBytes c x) 2 1 = c ∧ lat (openBytes c x) 4 4 = lat x.d 4 4 ∧ lat (openBytes c x) 8 4 = 0 ∧
    lat (openBytes c x) 0x10 8 = lat x.d 0x48 8 ∧ lat (openBytes c x) 0x18 8 = lat x.d 0x50 8 := by
  have fits (o n : Nat) : lat x.d o n % 256 ^ n = lat x.d o n := Nat.mod_eq_of_lt (lat_lt ..)
  simp (disch := decide) only [openBytes, openEntry, List.append_assoc, lat_append_past, Nat.sub_self, Nat.reduceSub, lat_append_here]
  exact ⟨rfl, fits .., Nat.mod_eq_of_lt (by omega), fits .., rfl, fits .., fits ..⟩

theorem entGet_opened (entry : e < 2 ^ 18) {o n : Nat} (inside : o + n ≤ 64) : entGet (opened s c e x) e o n = lat (openBytes c x) o n := by
  have length := openBytes_length c x
  have read := entGet_entPut_within entry (o := 0) (b := openBytes c x) (by omega) (p := o) (n := n) (by omega) s
  rw [Nat.zero_add] at read
  rw [opened, entGet_updStrm, read]

theorem strmOf_opened (s : State) (c e : Nat) (x : RTask) : strmOf (opened s c e x) e =
    { open_ := x.d, config := (openConfig x.d).flatMap fun r => devRead s r.1 r.2 } := strmOf_updStrm ..

theorem devGet_opened_off (entry : e < 2 ^ 18) {a : Nat} (off : offEntry e a) : devGet (opened s c e x) a = devGet s a := by
  rw [opened, devGet_updStrm, devGet_entPut_off entry (openBytes_length c x).le off]

theorem entryState_closed (entry : e < 2 ^ 18) (s : State) : entryState (closed s e) e = 0 := by
  rw [entryState_eq, closed, entGet_updStrm, setEntryState_eq]
  exact entGet_entPut_within entry (o := 0) (b := [BitVec.ofNat 8 0]) (by decide) (p := 0) (n := 1) (by decide) s

theorem strmOf_closed (s : State) (e : Nat) : strmOf (closed s e) e = {} := strmOf_updStrm ..

end

end Sys2Proof.Proofs
end

section
/-! O57 clause by clause: what the poll, the split, OPEN and CLOSE leave, from the completion of a slot and the bytes of an entry. -/

namespace Sys2Proof.Proofs

open Sys2Proof Sys2Proof.Machine Sys2Proof.Laws

/-- On the host path a stream stays there but at a random access point while its class does not spill (R309). -/
theorem toHost_onPath {s : State} {e : Nat} (d : List Byte) (path : entFlag s e 0 = true) :
    toHost s e d = false ↔ bit (lat d 1 1) 2 = true ∧ spills s ((codingClass (entGet s e 1 1)).getD 0) = false := by
  simp [toHost, path]

theorem pollRing_halted {s : State} {c : Nat} (halted : (ctxOf s c).state ≠ .running) (take : State → Nat → Nat → List Byte → State) (enc : Bool) :
    pollRing take s c enc = s := if_pos (.inl halted)

section

variable {s u : State} {c slot e : Nat} {d : List Byte}

theorem ringOffers_waits {a b : Nat} {x : RTask} (h : s.polls c false u) (window : ringWindow u c false = [a, b]) (none_ahead : s.rink.ahead = [])
    (taken : taskOf s c false a = some x) (stream : devNat s (slotAddr s c false a + 4) 4 = devNat s (slotAddr s c false b + 4) 4) :
    ringOffers u c false = none := by
  obtain ⟨tail, -, rfl⟩ := polls_withTail h
  have cfg := withTail_cfg s c false tail
  have dev := congrArg MemSt.dev (withTail_mem s c false tail)
  refine ringOffers_behind window none_ahead (congrArg Option.isSome taken) ?_
  rw [slotAddr_of_cfg cfg, slotAddr_of_cfg cfg, devNat_of_dev dev, devNat_of_dev dev, stream]

/-- What the Rink holds after a descriptor was taken that waits. -/
theorem withIngestTask_spec (h : s.polls c false u) {t : State} (taken : updSpill (withIngestTask (turned u c false) c slot d) = t) :
    t.rink.tasks = s.rink.tasks ++ [{ ctx := c, enc := false, slot := slot, d := d, hostShape := toHostShape s d }] ∧
      mget t.rink.tails 0 (ringKey c false) = devNat s (ringOf s c false).1 4 ∧ mget t.rink.turn 7 0 = c ∧ s.changesOnly [.rink] t := by
  have shape := (polls_sameStreams h).toHostShape d
  have kept := updSpill_kept (List.Subset.refl _) (rink_kept (r := (withIngestTask (turned u c false) c slot d).rink) (List.Subset.refl _)
    (turned_kept (List.Subset.refl _) h (Kept.refl _ s)))
  obtain ⟨spill, split⟩ := updSpill_changes (withIngestTask (turned u c false) c slot d)
  obtain ⟨tail, read, rfl⟩ := polls_withTail h
  refine ⟨?_, ?_, ?_, taken ▸ kept.frame⟩
  · rw [← taken, split, ← shape]
    rfl
  · rw [← taken, split, ← read]
    exact (mget_mset ..).trans (if_pos rfl)
  · rw [← taken, split]
    exact (mget_mset ..).trans (if_pos rfl)

theorem afterHosted_spec (h : s.polls c false u) (decode : GoesToHost s c e d) (none_ahead : s.rink.ahead = [])
    (slots : slot < (ringOf s c false).2) (below : (ringOf s c false).1 + 64 + 128 * (ringOf s c false).2 ≤ 0x8FF0000000)
    (head : ringHead s c false = slot) {t : State} (polled : afterHosted s u c slot e d = t) :
    s.slotDone c false slot 4 (ingestComp s 16 (entGet s e 8 4) 0 0) t ∧ entFlag t e 0 = true ∧
      ringHead t c false = (slot + 1) % (ringOf s c false).2 ∧ s.changesOnly [.dev, .mem, .rink] t := by
  subst polled
  have ring := inRing_hosted h slots below e d
  have full := ingestComp_length s 16 (entGet s e 8 4) 0 0
  refine ⟨slotDone_of_cfg (polls_sameStreams h).cfg (completed_slotDone ring 4 full), ?_, ringHead_afterHosted h none_ahead slots head,
    (afterHosted_kept h slot e d).frame⟩
  rw [entFlag, afterHosted, entGet_completed ring 4 full decode.inside (by decide)]
  exact entFlag_hosted decode.inside

end

/-! ### OPEN and CLOSE -/

section

variable {s : State} {c slot e : Nat} {x : RTask}

/-- A descriptor that changes nothing but its slot. -/
theorem completed_spec (h : s.rinkSlot c false slot x) (st : Nat) {comp : List Byte} (full : comp.length = 31)
    {t : State} (done : completed s x st comp = t) :
    s.slotDone c false slot st comp t ∧ (∀ a, s.offSlot c false slot a → devGet t a = devGet s a) ∧ s.changesOnly [.dev, .mem, .rink] t := by
  subst done
  have ring := InRing.of_rinkSlot h
  exact ⟨completed_slotDone ring st full, fun _ off => devGet_completed_off ring st full off,
    (completed_kept (List.Subset.refl _) (Kept.refl _ s) x st comp).frame⟩

/-- An OPEN whose picture store has room leaves the entry and the stream as it names them. -/
theorem completed_opened_spec (h : s.rinkSlot c false slot x) (context : c < 8) (entry : e < 2 ^ 18) {comp : List Byte} (full : comp.length = 31)
    {t : State} (done : completed (opened s c e x) x 1 comp = t) :
    s.slotDone c false slot 1 comp t ∧ entryState t e = 1 ∧
      (entGet t e 1 1 = lat x.d 0x40 1 ∧ entGet t e 2 1 = c ∧ entGet t e 4 4 = lat x.d 4 4 ∧ entGet t e 8 4 = 0 ∧
        entGet t e 0x10 8 = lat x.d 0x48 8 ∧ entGet t e 0x18 8 = lat x.d 0x50 8 ∧
        strmOf t e = { open_ := x.d, config := (openConfig x.d).flatMap fun r => devRead s r.1 r.2 }) ∧
      (∀ a, offEntry e a → s.offSlot c false slot a → devGet t a = devGet s a) ∧ s.changesOnly [.dev, .mem, .rink] t := by
  subst done
  have kept := opened_kept (C := [.dev, .mem, .rink]) (by decide) (Kept.refl _ s) c e x
  have cfg : (opened s c e x).cfg = s.cfg := kept.frame .cfg (by decide)
  have ring := (InRing.of_rinkSlot h).of_cfg cfg
  have held {o n : Nat} (inside : o + n ≤ 64) : entGet (completed (opened s c e x) x 1 comp) e o n = lat (openBytes c x) o n := by
    rw [entGet_completed ring 1 full entry (by omega), entGet_opened entry inside]
  obtain ⟨state, coding, context, stream, frames, store, bytes⟩ := lat_openBytes context x
  refine ⟨slotDone_of_cfg cfg (completed_slotDone ring 1 full), ?_, ⟨?_, ?_, ?_, ?_, ?_, ?_, ?_⟩, fun a off apart => ?_,
    (completed_kept (by decide) kept x 1 comp).frame⟩
  · rw [entryState_eq, held (by decide), state]
  · rw [held (by decide), coding]
  · rw [held (by decide), context]
  · rw [held (by decide), stream]
  · rw [held (by decide), frames]
  · rw [held (by decide), store]
  · rw [held (by decide), bytes]
  · rw [strmOf_completed, strmOf_opened]
  · rw [devGet_completed_off ring 1 full (offSlot_of_cfg cfg apart), devGet_opened_off entry off]

theorem completed_closed_kept {C : List Part} (hC : ([.dev, .mem, .rink] : List Part) ⊆ C) (s : State) (e : Nat) (x : RTask) (comp : List Byte) :
    Kept C s (completed (closed s e) x 1 comp) :=
  completed_kept hC (closed_kept (Part.subs hC (by decide)) (Kept.refl _ s) e) x 1 comp

/-- A CLOSE leaves the context FREE and its stream empty. -/
theorem completed_closed_spec (h : s.rinkSlot c false slot x) (entry : e < 2 ^ 18) {comp : List Byte} (full : comp.length = 31)
    {t : State} (done : completed (closed s e) x 1 comp = t) :
    s.slotDone c false slot 1 comp t ∧ entryState t e = 0 ∧ strmOf t e = {} := by
  subst done
  have cfg : (closed s e).cfg = s.cfg := (closed_kept (List.Subset.refl _) (Kept.refl _ s) e).frame .cfg (by decide)
  have ring := (InRing.of_rinkSlot h).of_cfg cfg
  refine ⟨slotDone_of_cfg cfg (completed_slotDone ring 1 full), ?_, ?_⟩
  · rw [entryState_completed ring 1 full entry, entryState_closed entry]
  · rw [strmOf_completed, strmOf_closed]

theorem ringHead_closed (h : s.rinkSlot c false slot x) (none_ahead : s.rink.ahead = []) (e : Nat) (comp : List Byte) :
    ringHead (completed (closed s e) x 1 comp) c false =
      if ringHead s c false = slot then (slot + 1) % (ringOf s c false).2 else ringHead s c false := by
  obtain ⟨rfl, enc, rfl, slots, -⟩ := InRing.of_rinkSlot h
  rw [← enc] at slots ⊢
  exact ringHead_completed_single (s := closed s e) none_ahead slots 1 comp

/-- A CLOSE that asks for a signal, of a semaphore that its job holds and that has room (R74, R288). -/
theorem ingestCloseEffect_signals {g i : Nat} (h : s.rinkSlot c false slot x) (taken : x.phase = .taken) (command : lat x.d 0 1 = 4)
    (signal : bit (lat x.d 1 1) 3 = true) (still : bit (lat x.d 1 1) 4 = false) (acts : ingestStatus s x = none) (entry : taskEntry s x = some e)
    (tile : g = lat x.d 0x38 2 % 512) (index : i = lat x.d 0x3A 1) (holds : holdsTile s c g = true) (room : semGet s g i < 0xFFFF) :
    ingestCloseEffect c slot s =
      semPut (completed (closed s e) x 1 (ingestComp s 0 (entGet s e 8 4) 0 0)) g i (semGet s g i + 1) := by
  obtain ⟨rfl, enc, -, -, -⟩ := InRing.of_rinkSlot h
  have kept := completed_closed_kept (List.Subset.refl _) s e x (ingestComp s 0 (entGet s e 8 4) 0 0)
  have count := semGet_of_sem (kept.frame .sem (by decide)) g i
  subst index
  rw [ingestCloseEffect_closes h taken command acts entry, rinkFinish_eq still,
    rinkSignal_fits (o := 0x38) signal (by rw [enc]; rfl) tile (by rw [holdsTile_of_job (kept.frame .job (by decide))]; exact holds)
      (by rw [count]; exact room), count]

end

/-! ### The obligation -/

/-- Settles O57: the poll takes what its ring offers, which waits or is completed for the host; OPEN writes the entry of its stream
and CLOSE frees it, and each completes its slot. -/
theorem ingestRingAndContexts : Obligations.IngestRingAndContexts := by
  unfold Obligations.IngestRingAndContexts
  refine ⟨fun s u c slot d polls window quiet read clean offers low high stays => ?_,
    fun s u c a b x polls window quiet taken fresh ahead stream => ?_,
    fun s u c slot e d polls window quiet read clean offers below slots ahead entry inside isOpen ingest good decode head signal irq host => ?_,
    fun s c halted => congrArg Host.Outcome.next (pollRing_halted halted ..), fun s e d path => toHost_onPath d path,
    fun s c slot e need cfg x held still taken op acts entry inside quiet hcfg reads writes clean hneed => ?_,
    fun s c slot st x held still taken op refused => ?_,
    fun s c slot e x held still taken op acts entry inside ahead => ?_,
    fun s c slot e g i x held taken op signal irq acts entry inside hg hi holds room => ?_⟩
  · have one : FindsOne s u c.val false slot d := ⟨polls, c.isLt, quiet, window, offers, clean, read⟩
    exact ⟨_, congrArg Host.Outcome.next (one.waits low high stays), withIngestTask_spec polls rfl⟩
  · exact congrArg Host.Outcome.next (pollRing_idle polls quiet (ringOffers_waits polls window ahead taken stream) takeIngest)
  · have one : FindsOne s u c.val false slot d := ⟨polls, c.isLt, quiet, window, offers, clean, read⟩
    have hosts : GoesToHost s c.val e d := ⟨decode, good, entry, inside, by rw [isOpen]; decide, ingest, host, signal, irq⟩
    exact ⟨_, congrArg Host.Outcome.next (one.hosts hosts ahead slots head), afterHosted_spec polls hosts ahead slots below head rfl⟩
  · obtain rfl : cfg = openConfig x.d := hcfg
    obtain rfl : need = openNeed x.d := hneed
    have full := ingestComp_length s 0 0 0 (openNeed x.d)
    rcases Nat.lt_or_ge (lat x.d 0x50 8) (openNeed x.d) with short | room
    · obtain ⟨slotDone, off, frame⟩ := completed_spec held 0x12 full rfl
      have free := (entryState_completed (InRing.of_rinkSlot held) 0x12 full inside).trans (entryState_of_open op acts entry)
      rw [answers, if_pos short, if_pos short]
      exact ⟨_, congrArg Host.Outcome.next ((ingestOpenEffect_short held taken op acts entry short).trans (rinkFinish_quiet still ..)),
        slotDone, free, fun room => absurd short (Nat.not_lt.2 room), fun a _ apart => off a apart, frame⟩
    · obtain ⟨slotDone, isOpen, fields, off, frame⟩ := completed_opened_spec held c.isLt inside full rfl
      rw [answers, if_neg (Nat.not_lt.2 room), if_neg (Nat.not_lt.2 room)]
      exact ⟨_, congrArg Host.Outcome.next
        ((ingestOpenEffect_opens held taken op acts entry room quiet reads writes clean).trans (rinkFinish_quiet still ..)),
        slotDone, isOpen, fun _ => fields, off, frame⟩
  · exact ⟨_, congrArg Host.Outcome.next ((ingestOpenEffect_refused held taken op refused).trans (rinkFinish_quiet still ..)),
      completed_spec held st (ingestComp_length ..) rfl⟩
  · obtain ⟨done, free, empty⟩ := completed_closed_spec held inside (ingestComp_length s 0 (entGet s e 8 4) 0 0) rfl
    exact ⟨_, congrArg Host.Outcome.next ((ingestCloseEffect_closes held taken op acts entry).trans (rinkFinish_quiet still ..)),
      done, free, empty, ringHead_closed held ahead e _, (completed_closed_kept (List.Subset.refl _) ..).frame⟩
  · obtain ⟨done, free, -⟩ := completed_closed_spec held inside (ingestComp_length s 0 (entGet s e 8 4) 0 0) rfl
    have signalled := ingestCloseEffect_signals held taken op signal irq acts entry hg hi holds room
    exact ⟨_, congrArg Host.Outcome.next signalled, slotDone_of_mem_rink (semPut_mem ..) (semPut_rink ..) done, free, semGet_semPut_same ..,
      (semPut_kept (by decide) (completed_closed_kept (by decide) ..)).frame⟩

end Sys2Proof.Proofs
end

section
/-! The scheduler (R345 to R348, R166): what the scan keeps if the admission of a ready job and its return to its boundary do, what it
makes of the context of one job, and the scan that finds one ready job. -/

namespace Sys2Proof.Proofs

open Sys2Proof Sys2Proof.Machine Sys2Proof.Laws

/-! ### What the scan keeps -/

/-- What the scheduler keeps if these do: a ready job that returns to its boundary, and a ready job whose step is admitted (R166, R347). -/
structure ScanKeeps (P : State → Prop) : Prop where
  retake : ∀ s d, ready s d = true → (ctxOf s d).bnd.retake = true → P s → P (retakeStep s d)
  admits : ∀ s d, ready s d = true → (ctxOf s d).bnd.retake = false → P s → P (admitJob s d)

theorem ScanKeeps.scanOne {P : State → Prop} (keeps : ScanKeeps P) {p : State × Nat} (h : P p.1) (d : Nat) : P (scanOne p d).1 := by
  unfold Machine.scanOne
  dsimp only
  split
  · exact h
  · next waits =>
    have waits : ready p.1 d = true := by simpa using waits
    split
    · exact h
    · dsimp only
      split
      · next again => exact keeps.retake _ d waits again h
      · next onward => exact keeps.admits _ d waits (Bool.eq_false_iff.2 onward) h

theorem ScanKeeps.schedule {P : State → Prop} (keeps : ScanKeeps P) {s : State} (h : P s) : P (schedule s) := by
  have scan : ∀ (l : List Nat) (p : State × Nat), P p.1 → P (l.foldl Machine.scanOne p).1 := by
    intro l
    induction l with
    | nil => exact fun _ hp => hp
    | cons d l ih => exact fun p hp => ih _ (keeps.scanOne hp d)
  unfold Machine.schedule
  split
  · exact scan _ (s, 0) h
  · exact h

/-! ### The context of one job -/

theorem ready_running {s : State} {c : Nat} (waits : ready s c = true) : (ctxOf s c).state = .running ∧ (ctxOf s c).stepIn = false := by
  simp only [ready, Bool.and_eq_true, decide_eq_true_eq, Bool.not_eq_true'] at waits
  exact waits.1

/-- A job that is not RUNNING, or whose step is in progress, is not ready (R347). -/
theorem not_ready {s : State} {c : Nat} (h : (ctxOf s c).state ≠ .running ∨ (ctxOf s c).stepIn = true) : ready s c = false := by
  refine Bool.eq_false_iff.2 fun waits => ?_
  obtain ⟨running, between⟩ := ready_running waits
  rcases h with other | inStep
  · exact other running
  · exact Bool.false_ne_true (between.symm.trans inStep)

theorem ctxOf_passCourse (s : State) (e n c : Nat) : ctxOf (passCourse s e n) c = ctxOf s c :=
  ((Within.refl (d := c + 1) s).passCourse e n) c (Nat.succ_ne_self c).symm

/-- The context of a job whose step is admitted: the step is the expected one, a credit is taken, the boundary is new (R345, R346). -/
theorem ctxOf_admitJob (s : State) (c : Nat) : ∃ f, ctxOf (admitJob s c) c =
    { ctxOf s c with
      stepIn := true
      step := nextStep s c
      fresh := false
      credit := if creditMode s c then (ctxOf s c).credit - 1 else (ctxOf s c).credit
      bnd := {}
      fab := f } := by
  have passed : ∀ (p : Prop) [Decidable p] (ns : List Nat) (u : State),
      ctxOf (if p then u else forEach ns u fun s n => undefCourse (passCourse s c n) n) c = ctxOf u c := fun p _ ns u => by
    split
    · rfl
    · refine forEach_keeps (P := fun v => ctxOf v c = ctxOf u c) (fun v n hv => ?_) rfl
      exact (ctxOf_passCourse v c n c).trans hv
  exact ⟨_, (passed _ _ _).trans (ctxOf_updCtx_same ..)⟩

/-- Work for another job leaves the context. -/
theorem ctxOf_retakeStep_other (s : State) {c d : Nat} (other : c ≠ d) : ctxOf (retakeStep s d) c = ctxOf s c :=
  (ctxOf_updCtx s d _ c).trans (if_neg other)

theorem ctxOf_admitJob_other (s : State) {c d : Nat} (other : c ≠ d) : ctxOf (admitJob s d) c = ctxOf s c :=
  (Within.refl s).admitJob c other

theorem ScanKeeps.unready {c : Nat} {j : JobCtx} (h : j.state ≠ .running ∨ j.stepIn = true) : ScanKeeps fun s => ctxOf s c = j := by
  have other : ∀ {s d}, ready s d = true → ctxOf s c = j → c ≠ d := by
    rintro s d waits ctx rfl
    exact Bool.false_ne_true ((not_ready (by rw [ctx]; exact h)).symm.trans waits)
  exact ⟨fun s d waits _ ctx => (ctxOf_retakeStep_other s (other waits ctx)).trans ctx,
    fun s d waits _ ctx => (ctxOf_admitJob_other s (other waits ctx)).trans ctx⟩

/-- The scheduler leaves a job whose step it cannot let in (R347). -/
theorem ctxOf_schedule_unready {s : State} {c : Nat} (h : (ctxOf s c).state ≠ .running ∨ (ctxOf s c).stepIn = true) :
    ctxOf (schedule s) c = ctxOf s c := (ScanKeeps.unready h).schedule (P := fun t => ctxOf t c = ctxOf s c) rfl

/-- From z to s the context stands, or a step of the job was admitted. -/
def Onward (c : Nat) (z s : State) : Prop := ctxOf s c = ctxOf z c ∨
  ∃ n k f, ctxOf s c = { ctxOf z c with stepIn := true, step := n, fresh := false, credit := k, bnd := {}, fab := f }

theorem Onward.scanKeeps {c : Nat} {z : State} (onward : (ctxOf z c).bnd.retake = false) : ScanKeeps (Onward c z) := by
  have admitted : ∀ {s}, ready s c = true → Onward c z s → ctxOf s c = ctxOf z c := by
    intro s waits h
    refine h.resolve_right ?_
    rintro ⟨n, k, f, ctx⟩
    exact Bool.false_ne_true ((not_ready (.inr (congrArg JobCtx.stepIn ctx))).symm.trans waits)
  refine ⟨fun s d waits again h => ?_, fun s d waits _ h => ?_⟩
  · by_cases own : c = d
    · subst own
      rw [admitted waits h, onward] at again
      exact absurd again Bool.false_ne_true
    · rw [Onward, ctxOf_retakeStep_other s own]
      exact h
  · by_cases own : c = d
    · subst own
      obtain ⟨f, ctx⟩ := ctxOf_admitJob s c
      exact .inr ⟨_, _, f, by rw [ctx, admitted waits h]⟩
    · rw [Onward, ctxOf_admitJob_other s own]
      exact h

/-- A job that does not return to a boundary is left, or a step of it is admitted (R345, R347). -/
theorem schedule_onward {s : State} {c : Nat} (onward : (ctxOf s c).bnd.retake = false) : Onward c s (schedule s) :=
  (Onward.scanKeeps onward).schedule (.inl rfl)

section

variable {c : Nat} {z s : State} (h : Onward c z s)
include h

theorem Onward.state : (ctxOf s c).state = (ctxOf z c).state := by rcases h with ctx | ⟨_, _, _, ctx⟩ <;> rw [ctx]
theorem Onward.startWait : (ctxOf s c).startWait = (ctxOf z c).startWait := by rcases h with ctx | ⟨_, _, _, ctx⟩ <;> rw [ctx]
theorem Onward.ran : (ctxOf s c).ran = (ctxOf z c).ran := by rcases h with ctx | ⟨_, _, _, ctx⟩ <;> rw [ctx]

/-- A step that is admitted is before its boundary. -/
theorem Onward.bnd : (ctxOf s c).bnd = (ctxOf z c).bnd ∨ (ctxOf s c).bnd = {} := by
  rcases h with ctx | ⟨_, _, _, ctx⟩
  · exact .inl (by rw [ctx])
  · exact .inr (by rw [ctx])

end

/-! ### Barriers -/

theorem passCourse_bars (s : State) (c n : Nat) : (passCourse s c n).tile.bars = s.tile.bars :=
  bars_of_kept (passCourse_kept (List.Subset.refl _) (Kept.refl _ s)) (by decide)

theorem admitJob_bars (s : State) (c : Nat) : (admitJob s c).tile.bars = s.tile.bars := by
  have passed : ∀ (p : Prop) [Decidable p] (ns : List Nat) (u : State),
      (if p then u else forEach ns u fun s n => undefCourse (passCourse s c n) n).tile.bars = u.tile.bars := fun p _ ns u => by
    split
    · rfl
    · refine forEach_keeps (P := fun v => v.tile.bars = u.tile.bars) (fun v n hv => ?_) rfl
      exact (passCourse_bars v c n).trans hv
  exact passed _ _ _

/-- The scheduler opens and releases no barrier. -/
theorem schedule_bars (s : State) : (schedule s).tile.bars = s.tile.bars :=
  ScanKeeps.schedule (P := fun t => t.tile.bars = s.tile.bars)
    ⟨fun _ _ _ _ h => h, fun t d _ _ h => (admitJob_bars t d).trans h⟩ rfl

/-! ### One ready job -/

theorem scanOne_unready {p : State × Nat} {d : Nat} (waits : ready p.1 d = false) : scanOne p d = p := by
  simp [scanOne, waits]

theorem scan_unready {l : List Nat} {p : State × Nat} (waits : ∀ d ∈ l, ready p.1 d = false) : l.foldl scanOne p = p := by
  induction l with
  | nil => rfl
  | cons d l ih =>
    rw [List.foldl_cons, scanOne_unready (waits d List.mem_cons_self)]
    exact ih fun e he => waits e (List.mem_cons_of_mem _ he)

/-- A ready job whose courses no step holds and no earlier job awaits is admitted (R347). -/
theorem scanOne_admits {s : State} {c : Nat} (waits : ready s c = true) (onward : (ctxOf s c).bnd.retake = false)
    (free : ∀ n < 32, bit (ctxOf s c).man.courseMask n = true → courseHolder s n = none) : scanOne (s, 0) c = (admitJob s c, 0) := by
  have unheld : ¬ (((List.range 32).any fun n => bit (ctxOf s c).man.courseMask n && (courseHolder s n).isSome) = true ∨
      (ctxOf s c).man.courseMask &&& 0 ≠ 0) := by
    rintro (held | awaited)
    · obtain ⟨n, below, held⟩ := List.any_eq_true.1 held
      obtain ⟨mine, held⟩ := Bool.and_eq_true_iff.1 held
      rw [free n (List.mem_range.1 below) mine] at held
      exact Bool.false_ne_true held
    · exact awaited (Nat.and_zero _)
  unfold scanOne
  dsimp only
  rw [if_neg (by simp [waits]), if_neg unheld, if_neg (by simp [onward])]

/-- Every context is scanned, whichever was admitted last (R347). -/
theorem mem_scan {c : Nat} (below : c < 8) (last : Nat) : c ∈ (List.range 8).map fun i => (last + 1 + i) % 8 :=
  List.mem_map.2 ⟨(c + 7 * (last + 1)) % 8, List.mem_range.2 (Nat.mod_lt _ (by decide)), by omega⟩

/-- The one ready job is admitted when no step holds its courses (R345, R347). -/
theorem schedule_admits {s : State} {c : Nat} (below : c < 8) (up : isReady s = true) (active : s.pwr.state = .active)
    (runs : s.boot.resetting = false) (clean : s.sec.scrubbing = false) (waits : ready s c = true)
    (onward : (ctxOf s c).bnd.retake = false) (others : ∀ d < 8, d ≠ c → (ctxOf s d).state ≠ .running)
    (free : ∀ n < 32, bit (ctxOf s c).man.courseMask n = true → courseHolder s n = none) : schedule s = admitJob s c := by
  have scanned : schedule s = (((List.range 8).map fun i => (s.job.lastAdmit + 1 + i) % 8).foldl scanOne (s, 0)).1 :=
    if_pos ⟨up, active, runs, clean⟩
  have low : ∀ d ∈ (List.range 8).map fun i => (s.job.lastAdmit + 1 + i) % 8, d < 8 := by
    intro d hd
    obtain ⟨i, -, rfl⟩ := List.mem_map.1 hd
    exact Nat.mod_lt _ (by decide)
  obtain ⟨before, after, order, first⟩ := List.eq_append_cons_of_mem (mem_scan below s.job.lastAdmit)
  have skipped : before.foldl scanOne (s, 0) = (s, 0) := scan_unready fun d hd =>
    not_ready (.inl (others d (low d (order ▸ List.mem_append_left _ hd)) fun own => first (own ▸ hd)))
  have rest : after.foldl scanOne (admitJob s c, 0) = (admitJob s c, 0) := scan_unready fun d hd => by
    by_cases own : d = c
    · obtain ⟨f, ctx⟩ := ctxOf_admitJob s c
      exact not_ready (.inr (by rw [own, ctx]))
    · refine not_ready (.inl ?_)
      rw [ctxOf_admitJob_other s own]
      exact others d (low d (order ▸ List.mem_append_right _ (List.mem_cons_of_mem _ hd))) own
  rw [scanned, order, List.foldl_append, skipped, List.foldl_cons, scanOne_admits waits onward free, rest]

end Sys2Proof.Proofs
end

section
/-! Step credits, snapshot requests and buffer pools (R198, R345 to R347, R363, R389, R469): a credit that lets the one ready job begin
its step, and what a take and a give make of a pool. -/

namespace Sys2Proof.Proofs

open Sys2Proof Sys2Proof.Machine Sys2Proof.Laws

/-! ### Credits -/

/-- The credits after an addition, which saturate with a note of the overflow (R346). -/
def credited (s : State) (c : Nat) (v : Word) : State :=
  updCtx s c fun j => { j with
    credit := min 65535 ((ctxOf s c).credit + v.toNat % 65536)
    creditOvf := j.creditOvf || decide (65535 < (ctxOf s c).credit + v.toNat % 65536) }

theorem ctxOf_credited (s : State) (c : Nat) (v : Word) : ctxOf (credited s c v) c = { ctxOf s c with
    credit := min 65535 ((ctxOf s c).credit + v.toNat % 65536)
    creditOvf := (ctxOf s c).creditOvf || decide (65535 < (ctxOf s c).credit + v.toNat % 65536) } := ctxOf_updCtx_same ..

theorem creditWrite_adds {s : State} {v : Word} (up : isReady s = true) (adds : v.msb = false) (c : Nat) :
    creditWrite c v s = schedule (credited s c v) := by
  simp [creditWrite, up, adds, credited]

/-- Bit 31 clears the overflow and adds nothing (R469). -/
theorem creditWrite_clears {s : State} {v : Word} (up : isReady s = true) (clears : v.msb = true) (c : Nat) :
    creditWrite c v s = schedule (updCtx s c fun j => { j with creditOvf := false }) := by
  simp [creditWrite, up, clears]

/-- More credits move no course from job to job. -/
theorem courseHolder_credited (s : State) (c : Nat) (v : Word) : courseHolder (credited s c v) = courseHolder s := by
  have ctx : ∀ d, (ctxOf (credited s c v) d).inStep = (ctxOf s d).inStep ∧ (ctxOf (credited s c v) d).man = (ctxOf s d).man := by
    intro d
    rw [credited, ctxOf_updCtx]
    split
    · next own => subst own; exact ⟨rfl, rfl⟩
    · exact ⟨rfl, rfl⟩
  funext n
  simp only [courseHolder, ctx]

/-- A RUNNING job that waits for nothing but a credit is ready once it has one (R347). -/
theorem ready_credited {s : State} {c : Nat} {v : Word} (running : (ctxOf s c).state = .running) (between : (ctxOf s c).stepIn = false)
    (begun : (ctxOf s c).startWait = false) (given : 0 < v.toNat % 65536) : ready (credited s c v) c = true := by
  have one : 1 ≤ min 65535 ((ctxOf s c).credit + v.toNat % 65536) := by omega
  simp only [ready, ctxOf_credited, running, between, begun, decide_true, Bool.not_false, Bool.true_and, one, Bool.or_true]

/-! ### Snapshot requests -/

/-- A request is recorded, with the sink that it names (R198). -/
theorem snapshotRequestEffect_records {s : State} {c : Nat} (up : isReady s = true) (placed : (sinkCfg s c 2).len ≠ 0)
    (allowed : (sinkCfg s c 2).peer = true ∨ ownsSealed s c = false) (loaded : (ctxOf s c).loaded = true) : snapshotRequestEffect c s =
      if (ctxOf s c).trn.snapping then updTrn s c fun t => { t with snapReq := true, snapNext := sinkCfg s c 2 }
      else updSink (updTrn s c fun t => { t with snapReq := true, snapNext := sinkCfg s c 2 }) c 2 fun _ => {} := by
  have unsealed : ¬ ((sinkCfg s c 2).len ≠ 0 ∧ ¬ (sinkCfg s c 2).peer = true ∧ ownsSealed s c = true) := by
    rintro ⟨-, near, owns⟩
    rcases allowed with far | none
    · exact near far
    · exact Bool.false_ne_true (none.symm.trans owns)
  unfold snapshotRequestEffect
  dsimp only
  rw [if_neg (by simp [up]), if_neg unsealed, if_pos ⟨loaded, placed⟩]

/-- A snapshot to host memory of a job that owns a sealed range is refused (R389). -/
theorem snapshotRequestEffect_refuses {s : State} {c : Nat} (up : isReady s = true) (placed : (sinkCfg s c 2).len ≠ 0)
    (near : (sinkCfg s c 2).peer = false) (owns : ownsSealed s c = true) (idle : s.sec.busy = false) :
    snapshotRequestEffect c s = secRefuse s .snapshot := by
  simp [snapshotRequestEffect, up, placed, near, owns, idle]

/-! ### Pools -/

theorem poolOf_updPool (s : State) (p : Nat) (f : Pool → Pool) (q : Nat) :
    poolOf (updPool s p f) q = if q = p then f (poolOf s p) else poolOf s q := mget_mupd ..

theorem poolOf_updPool_same (s : State) (p : Nat) (f : Pool → Pool) : poolOf (updPool s p f) p = f (poolOf s p) :=
  (poolOf_updPool s p f p).trans (if_pos rfl)

theorem poolTakeEffect_replies {s : State} (up : isReady s = true) (p r : Nat) :
    poolTakeEffect p r s = emit (poolTaken s p) (.reply r (leBytes 4 (poolHead s p).toNat)) := by simp [poolTakeEffect, up]

/-- A take from a pool without entries is answered POOL_EMPTY, whether the pool is enabled or not (R363). -/
theorem poolHead_empty {s : State} {p : Nat} (empty : (poolOf s p).entries = []) : poolHead s p = 0xFFFFFFFF := by
  simp [poolHead, empty]

theorem poolHead_oldest {s : State} {p : Nat} {e : Word} {es : List Word} (enabled : (poolOf s p).enable = true)
    (oldest : (poolOf s p).entries = e :: es) : poolHead s p = e := by
  simp [poolHead, enabled, oldest]

theorem poolGiveEffect_appends {s : State} {p : Nat} (up : isReady s = true) (enabled : (poolOf s p).enable = true)
    (room : (poolOf s p).entries.length < 1024) (v : Word) :
    poolOf (poolGiveEffect p v s) p = { poolOf s p with entries := (poolOf s p).entries ++ [v] } := by
  simp [poolGiveEffect, up, poolOf_updPool_same, enabled, room]

theorem poolGiveEffect_drops {s : State} {p : Nat} (up : isReady s = true) (enabled : (poolOf s p).enable = true)
    (full : 1024 ≤ (poolOf s p).entries.length) (v : Word) :
    poolOf (poolGiveEffect p v s) p = { poolOf s p with dropped := min 8191 ((poolOf s p).dropped + 1) } := by
  simp [poolGiveEffect, up, poolOf_updPool_same, enabled, Nat.not_lt.2 full]

theorem poolGiveEffect_other {s : State} {p q : Nat} (up : isReady s = true) (other : q ≠ p) (v : Word) :
    poolOf (poolGiveEffect p v s) q = poolOf s q := by
  simp [poolGiveEffect, up, poolOf_updPool, other]

/-- A give to a part that is READY writes nothing but the pool (R363). -/
theorem poolGiveEffect_frame {s : State} (up : isReady s = true) (p : Nat) (v : Word) : s.changesOnly [.job] (poolGiveEffect p v s) := by
  unfold poolGiveEffect
  rw [if_neg (by simp [up])]
  exact (updPool_kept (List.Subset.refl _) (Kept.refl _ s)).frame

/-! ### The obligation -/

/-- Settles O42: a credit counts, and admits the one ready job; a snapshot request is recorded or refused; a pool is a bounded queue. -/
theorem creditsAndPools : Obligations.CreditsAndPools := by
  unfold Obligations.CreditsAndPools
  refine ⟨fun s c v up adds unready => ?_, fun s c v up active runs clean adds given mode running between begun old onward others free => ?_,
    fun s c up unready => ?_, fun s c up placed allowed loaded => ?_,
    fun s c up placed near owns idle => congrArg Host.Outcome.next (snapshotRequestEffect_refuses up placed near owns idle),
    fun s p r e es up enabled oldest => ?_, fun s p r up empty => ?_, fun s p v up enabled room => ?_, fun s p v up enabled full => ?_⟩
  · have ctx := ctxOf_schedule_unready (s := credited s c.val v) (c := c.val) (by rw [ctxOf_credited]; exact unready)
    rw [ctxOf_credited] at ctx
    refine ⟨_, congrArg Host.Outcome.next (creditWrite_adds up adds c.val), by rw [ctx], ?_⟩
    rw [ctx]
    simp
  · have admits := schedule_admits (s := credited s c.val v) c.isLt up active runs clean (ready_credited running between begun given)
      (by rw [ctxOf_credited]; exact onward)
      (fun d below other => by rw [credited, ctxOf_updCtx, if_neg other]; exact others d below other)
      (by rw [ctxOf_credited, courseHolder_credited]; exact free)
    obtain ⟨f, ctx⟩ := ctxOf_admitJob (credited s c.val v) c.val
    have counted : creditMode (credited s c.val v) c.val = true := mode
    have next : nextStep (credited s c.val v) c.val = ((ctxOf s c.val).step + 1) % 2 ^ 32 := by
      rw [nextStep, ctxOf_credited]
      exact if_neg (by simp [old])
    rw [counted, next, ctxOf_credited] at ctx
    refine ⟨_, congrArg Host.Outcome.next ((creditWrite_adds up adds c.val).trans admits), ?_, ?_, ?_, rfl⟩
    · rw [ctx]
    · rw [ctx]
    · rw [ctx]
      rfl
  · have ctx := ctxOf_schedule_unready (s := updCtx s c.val fun j => { j with creditOvf := false }) (c := c.val)
      (by rw [ctxOf_updCtx_same]; exact unready)
    rw [ctxOf_updCtx_same] at ctx
    exact ⟨_, congrArg Host.Outcome.next (creditWrite_clears up (by decide) c.val), by rw [ctx], by rw [ctx]⟩
  · refine ⟨_, congrArg Host.Outcome.next (snapshotRequestEffect_records up placed allowed loaded), ?_, ?_⟩
    · split
      · rw [ctxOf_updTrn, if_pos rfl]
      · simp [updSink]
    · exact (Kept.ite (updTrn_kept (List.Subset.refl _) (Kept.refl _ s))
        (updSink_kept (List.Subset.refl _) (updTrn_kept (List.Subset.refl _) (Kept.refl _ s)))).frame
  · have taken : poolOf (poolTaken s p.val) p.val = { poolOf s p.val with entries := es } := by
      simp [poolTaken, poolOf_updPool_same, enabled, oldest]
    have effect := poolTakeEffect_replies up p.val r.val
    rw [poolHead_oldest enabled oldest] at effect
    exact ⟨_, congrArg Host.Outcome.next effect, rfl, taken, fun q other => (poolOf_updPool s p.val _ q).trans (if_neg other),
      (emit_kept (by decide) (updPool_kept (by decide) (Kept.refl _ s))).frame⟩
  · have taken : poolOf (poolTaken s p.val) p.val = poolOf s p.val := by
      rw [poolTaken, poolOf_updPool_same]
      split
      · rw [empty, List.drop_nil, ← empty]
      · rfl
    have effect := poolTakeEffect_replies up p.val r.val
    rw [poolHead_empty empty] at effect
    exact ⟨_, congrArg Host.Outcome.next effect, rfl, taken, (emit_kept (by decide) (updPool_kept (by decide) (Kept.refl _ s))).frame⟩
  · exact ⟨_, rfl, poolGiveEffect_appends up enabled room v, fun q other => poolGiveEffect_other up other v, poolGiveEffect_frame up p.val v⟩
  · exact ⟨_, rfl, poolGiveEffect_drops up enabled full v, poolGiveEffect_frame up p.val v⟩

end Sys2Proof.Proofs
end

section
/-! The end of the drain and the local check (R222, R349 to R352, R354): a check that ends on a job confined to its part takes the
freeze tick and has its verdict, and a violation ends the job. -/

namespace Sys2Proof.Proofs

open Sys2Proof Sys2Proof.Machine Sys2Proof.Laws

/-! ### Reductions of a job confined to the part -/

/-- A job confined to the part has its own word as the result (R224, R352). -/
theorem reduce_alone {s : State} {c : Nat} (alone : fabricJob s c = 0) (cls : RedClass) (id seq : Nat) (word : Dword) :
    reduce s c cls id seq word = putRed s c { cls := cls, id := id, seq := seq, own := some word, result := some word } := by
  simp [reduce, spans, alone]

theorem ctxOf_putRed (s : State) (c : Nat) (r : RedSt) : ctxOf (putRed s c r) c =
    { ctxOf s c with fab := { (ctxOf s c).fab with
        reds := ((ctxOf s c).fab.reds.filter fun x => !(decide (x.cls = r.cls ∧ x.id = r.id))) ++ [r] } } :=
  (ctxOf_updFab ..).trans (if_pos rfl)

/-! ### The freeze tick -/

/-- Unless a roll-up runs, a tick is taken at once (R474, R477). -/
theorem tick_taken {s : State} (free : s.tel.rolling = false) : tick s = rollUp (freezeNow s) := if_neg (by simp [free])

/-! ### The end of the check -/

/-- The local check has ended, with its outcome and the time of the drain noted (R351, R355). -/
def checkEnded (s : State) (c cause : Nat) : State :=
  updBnd s c fun b => { b with
    localOk := decide (cause = 0)
    failCause := cause
    drainUs := min (2 ^ 32 - 1) ((now s - b.t0) / 1000) }

/-- The word that the part gives to the verdict: whether its check passed, and the overflow flag of its step (R226). -/
def verdictWord (j : JobCtx) (ok : Bool) : Dword := (if ok then 1 else 0) ||| (if j.fab.ovf then 0x100000000 else 0)

/-- The verdict of a job confined to the part, as its own word makes it. -/
def ownVerdict (j : JobCtx) (ok : Bool) : RedSt :=
  { cls := .verdict, id := 0, seq := j.step, own := some (verdictWord j ok), result := some (verdictWord j ok) }

section

variable {s : State} {c : Nat} (free : s.tel.rolling = false) (alone : fabricJob s c = 0)
include free alone

theorem endCheck_alone (cause : Nat) : endCheck s c cause =
    putRed (updBnd (rollUp (freezeNow (checkEnded s c cause))) c fun b => { b with phase := .awaitVerdict }) c
      (ownVerdict (ctxOf s c) (decide (cause = 0))) := by
  have ticks : tick (checkEnded s c cause) = rollUp (freezeNow (checkEnded s c cause)) := tick_taken free
  have ends : endCheck s c cause = toVerdict (tick (checkEnded s c cause)) c := if_neg (by simp [free])
  have ctx : ctxOf (rollUp (freezeNow (checkEnded s c cause))) c = ctxOf (checkEnded s c cause) c := rfl
  have still : fabricJob (updBnd (rollUp (freezeNow (checkEnded s c cause))) c fun b => { b with phase := .awaitVerdict }) c = 0 := alone
  rw [ends, ticks, toVerdict, reduce_alone still, ctx, checkEnded, ctxOf_updBnd, if_pos rfl]
  rfl

/-- The boundary waits for a verdict that is known (R351, R352). -/
theorem ctxOf_endCheck_alone (cause : Nat) : ∃ n rs, ctxOf (endCheck s c cause) c =
    { ctxOf s c with
      bnd := { (ctxOf s c).bnd with localOk := decide (cause = 0), failCause := cause, drainUs := n, phase := .awaitVerdict }
      fab := { (ctxOf s c).fab with reds := rs ++ [ownVerdict (ctxOf s c) (decide (cause = 0))] } } := by
  have ctx : ctxOf (rollUp (freezeNow (checkEnded s c cause))) c = ctxOf (checkEnded s c cause) c := rfl
  rw [endCheck_alone free alone, ctxOf_putRed, ctxOf_updBnd, if_pos rfl, ctx, checkEnded, ctxOf_updBnd, if_pos rfl]
  exact ⟨_, _, rfl⟩

/-- The counters are frozen as they stood (R474). -/
theorem endCheck_alone_tel (cause : Nat) : (endCheck s c cause).tel.shadow = s.tel.cnt ∧
    (endCheck s c cause).tel.plumbShadow = s.tel.plumb ∧ (endCheck s c cause).tel.tickTime = now s := by
  rw [endCheck_alone free alone]
  exact ⟨rfl, rfl, rfl⟩

theorem endCheck_alone_kept {C : List Part} {z : State} (hC : ([.job, .tel] : List Part) ⊆ C) (cause : Nat) (h : Kept C z s) :
    Kept C z (endCheck s c cause) := by
  have ticks : tick (checkEnded s c cause) = rollUp (freezeNow (checkEnded s c cause)) := tick_taken free
  have ended : Kept C z (tick (checkEnded s c cause)) := tick_kept (Part.subs hC (by decide)) (updBnd_kept (Part.subs hC (by decide)) h)
  rw [ticks] at ended
  rw [endCheck_alone free alone]
  exact putRed_kept (Part.subs hC (by decide)) (updBnd_kept (Part.subs hC (by decide)) ended)

end

/-! ### From the drain to the check -/

section

variable {s : State} {c : Nat} (draining : (ctxOf s c).state = .draining) (phase : (ctxOf s c).bnd.phase = .drain) (done : drained s c = true)
include draining phase done

/-- Once the drain has ended the local check is made (R349, R351). -/
theorem drainEndEffect_checks : drainEndEffect c s = localCheck s c := by
  simp [drainEndEffect, draining, phase, done]

/-- With the semaphores at their initial values and no barrier open, the posted bursts decide (R222, R351). -/
theorem drainEndEffect_posted (clean : semMismatch s c = none) (noBar : s.tile.bars.find? (fun b => decide (b.ctx = c)) = none) :
    drainEndEffect c s = postedCheck s c := by
  rw [drainEndEffect_checks draining phase done, localCheck, clean, noBar]

end

theorem drainEndEffect_undrained {s : State} {c : Nat} (busy : drained s c = false) : drainEndEffect c s = s := by
  simp [drainEndEffect, busy]

theorem postedCheck_waits {s : State} {c : Nat} (waits : 0 < outstanding (ctxOf s c) (ctxOf s c).step) :
    postedCheck s c = updBnd s c fun b => { b with phase := .awaitPosted } := if_pos waits

theorem postedCheck_ends {s : State} {c : Nat} (answered : outstanding (ctxOf s c) (ctxOf s c).step = 0) :
    postedCheck s c = endCheck s c (if (mget (ctxOf s c).fab.epochs {} (ctxOf s c).step).late = 0 then 0 else 1) :=
  if_neg (by simp [answered])

/-! ### Violations -/

/-- A boundary violation ends the job (R354). -/
theorem violate_state {s : State} {c : Nat} (draining : (ctxOf s c).state = .draining) (f : EvF) :
    (ctxOf (violate s c f) c).state = .tornDown := by
  have noted : (ctxOf (updBnd s c fun b => { b with localOk := false, failCause := 3, violated := true }) c).state = .draining := by
    rw [ctxOf_updBnd, if_pos rfl, draining]
  have ticked := (SameStep.refl (c := c) (updBnd s c fun b => { b with localOk := false, failCause := 3, violated := true })).of_kept
    (tick_kept (List.Subset.refl _) (Kept.refl _ _)) (by decide)
  have given : ∀ (p : Prop) [Decidable p] {z u : State} (word : Dword), SameStep c z u →
      SameStep c z (if p then reduce u c .verdict 0 (ctxOf u c).step word else u) := fun p _ z u word hu => by
    split
    · exact hu.reduce ..
    · exact hu
  unfold violate
  extract_lets s1 j s2 fab s3
  have same : SameStep c (updBnd s c fun b => { b with localOk := false, failCause := 3, violated := true }) s3 :=
    SameStep.of_ctxs (s := s2) (given _ _ ticked) rfl
  obtain ⟨f', q, ctx⟩ := same
  have state : (ctxOf s3 c).state = .draining := (congrArg JobCtx.state ctx).trans noted
  exact faultJob_state (by simp [JobCtx.loaded, state]) ..

theorem localCheck_violates {s : State} {c : Nat} (draining : (ctxOf s c).state = .draining) (mismatch : semMismatch s c ≠ none) :
    (ctxOf (localCheck s c) c).state = .tornDown := by
  obtain ⟨⟨t, i, v⟩, found⟩ := Option.ne_none_iff_exists'.1 mismatch
  rw [localCheck, found]
  exact violate_state draining _

theorem boundaryViolationEffect_state {s : State} {c t : Nat} (draining : (ctxOf s c).state = .draining)
    (phase : (ctxOf s c).bnd.phase = .drain) (mine : t ∈ tilesOf (ctxOf s c).man) (waits : semWaiter s t ≠ none) :
    (ctxOf (boundaryViolationEffect c t s) c).state = .tornDown := by
  obtain ⟨⟨d, i⟩, found⟩ := Option.ne_none_iff_exists'.1 waits
  have effect : boundaryViolationEffect c t s = violate s c { cause := 1, tile := t, a := d.addr, va := i, vb := semGet s t i } := by
    unfold boundaryViolationEffect
    dsimp only
    rw [if_pos ⟨draining, phase, mine⟩, found]
  rw [effect]
  exact violate_state draining _

/-! ### Bursts that were never answered -/

/-- The part gives up the bursts of the epoch that were never answered, with an event (R15, R222). -/
def givenUp (s : State) (c : Nat) : State :=
  dropUnanswered (raiseJob s c 0x001B { va := outstanding (ctxOf s c) (ctxOf s c).step }) c

theorem givenUp_kept {C : List Part} {z s : State} {c : Nat} (hC : ([.out, .hostMem, .host, .job, .fab] : List Part) ⊆ C) (h : Kept C z s) :
    Kept C z (givenUp s c) := dropUnanswered_kept (Part.subs hC (by decide)) (raiseJob_kept (Part.subs hC (by decide)) h)

/-- A timeout without a late error fails the check with cause 2 (R222). -/
theorem postedTimeoutEffect_ends {s : State} {c : Nat} (phase : (ctxOf s c).bnd.phase = .awaitPosted)
    (waits : 0 < outstanding (ctxOf s c) (ctxOf s c).step) (onTime : (mget (ctxOf s c).fab.epochs {} (ctxOf s c).step).late = 0) :
    postedTimeoutEffect c s = endCheck (givenUp s c) c 2 := by
  unfold postedTimeoutEffect
  dsimp only
  rw [if_pos ⟨phase, waits⟩, if_pos onTime]
  rfl

/-! ### The obligation -/

/-- Settles O34: the posted bursts decide when the check ends and with what verdict; a semaphore or a descriptor that waits is a
violation. -/
theorem drainAndLocalCheck : Obligations.DrainAndLocalCheck := by
  unfold Obligations.DrainAndLocalCheck
  refine ⟨fun s c draining phase done clean noBar waits => ?_, fun s c draining phase done clean noBar answered free alone => ?_,
    fun s c busy => congrArg Host.Outcome.next (drainEndEffect_undrained busy), fun s c draining phase done mismatch => ?_,
    fun s c t draining phase mine waits => ⟨_, rfl, boundaryViolationEffect_state draining phase mine waits⟩,
    fun s c phase waits onTime free alone => ?_⟩
  · have effect := (drainEndEffect_posted draining phase done clean noBar).trans (postedCheck_waits waits)
    refine ⟨_, congrArg Host.Outcome.next effect, ?_, ?_, (updBnd_kept (List.Subset.refl _) (Kept.refl _ s)).frame⟩
    · rw [ctxOf_updBnd, if_pos rfl]
    · rw [ctxOf_updBnd, if_pos rfl, draining]
  · have effect := (drainEndEffect_posted draining phase done clean noBar).trans (postedCheck_ends answered)
    obtain ⟨n, rs, ctx⟩ := ctxOf_endCheck_alone free alone
      (if (mget (ctxOf s c.val).fab.epochs {} (ctxOf s c.val).step).late = 0 then 0 else 1)
    obtain ⟨shadow, plumb, time⟩ := endCheck_alone_tel free alone
      (if (mget (ctxOf s c.val).fab.epochs {} (ctxOf s c.val).step).late = 0 then 0 else 1)
    have ok : decide ((if (mget (ctxOf s c.val).fab.epochs {} (ctxOf s c.val).step).late = 0 then 0 else 1) = 0) =
        decide ((mget (ctxOf s c.val).fab.epochs {} (ctxOf s c.val).step).late = 0) := by split <;> simp [*]
    refine ⟨_, congrArg Host.Outcome.next effect, by rw [ctx], by rw [ctx]; exact draining, by rw [ctx, ok],
      ⟨ownVerdict (ctxOf s c.val) (decide ((mget (ctxOf s c.val).fab.epochs {} (ctxOf s c.val).step).late = 0)), ?_, rfl, rfl, rfl, ?_⟩,
      shadow, plumb, time, (endCheck_alone_kept free alone (List.Subset.refl _) _ (Kept.refl _ s)).frame⟩
    · rw [ctx, ok]
      exact List.mem_append_right _ (List.mem_singleton_self _)
    · simp [ownVerdict, verdictWord]
  · refine ⟨_, rfl, ?_⟩
    rw [drainEndEffect_checks draining phase done]
    exact localCheck_violates draining mismatch
  · have given := givenUp_kept (c := c.val) (List.Subset.refl _) (Kept.refl _ s)
    have free : (givenUp s c.val).tel.rolling = false := (congrArg TelSt.rolling (given.frame .tel (by decide))).trans free
    have alone : fabricJob (givenUp s c.val) c.val = 0 := by
      rw [fabricJob, live_of_cfg (given.frame .cfg (by decide)), ← fabricJob, alone]
    obtain ⟨n, rs, ctx⟩ := ctxOf_endCheck_alone free alone 2
    exact ⟨_, congrArg Host.Outcome.next (postedTimeoutEffect_ends phase waits onTime), by rw [ctx], by rw [ctx]; rfl, by rw [ctx],
      (endCheck_alone_kept free alone (by decide) 2 (givenUp_kept (by decide) (Kept.refl _ s))).frame⟩

end Sys2Proof.Proofs
end

section
/-! The verdict, the release and a start reduction (R352, R354, R355): a failed verdict parks the job and commits nothing, a verdict that
passed goes on to the release, and the release lets the job run on or parks it. -/

namespace Sys2Proof.Proofs

open Sys2Proof Sys2Proof.Machine Sys2Proof.Laws

/-! ### Results that are known -/

section

variable {s : State} {c : Nat} {r : RedSt} {w : Dword}

theorem verdictReductionCompleteEffect_done (known : redOf s c .verdict 0 = some r) (result : r.result = some w)
    (phase : (ctxOf s c).bnd.phase = .awaitVerdict) : verdictReductionCompleteEffect c s = verdictDone s c w := by
  simp [verdictReductionCompleteEffect, known, result, phase]

/-- The park of the release: the part's own cause, or cause 5 where another part asks for it (R354). -/
def releasePark (j : JobCtx) (w : Dword) : Nat :=
  if j.bnd.park ≠ 0 then j.bnd.park else if w.getLsbD 32 ∧ j.plough.isNone then 5 else 0

theorem releaseReductionCompleteEffect_done (known : redOf s c .release 0 = some r) (result : r.result = some w)
    (phase : (ctxOf s c).bnd.phase = .awaitRelease) :
    releaseReductionCompleteEffect c s = action10 (dropRed s c .release 0) c (releasePark (ctxOf s c) w) := by
  unfold releaseReductionCompleteEffect
  simp only [known, result, if_pos phase, releasePark]

theorem startReductionCompleteEffect_done (known : redOf s c .start 0 = some r) (result : r.result.isSome = true)
    (waits : (ctxOf s c).startWait = true) : startReductionCompleteEffect c s =
      schedule (redRetry (updCtx (dropRed s c .start 0) c fun j => { j with startWait := false }) c) := by
  simp [startReductionCompleteEffect, known, result, waits]

end

theorem ctxOf_dropRed (s : State) (c : Nat) (cls : RedClass) (id : Nat) : ∃ rs, ctxOf (dropRed s c cls id) c =
    { ctxOf s c with fab := { (ctxOf s c).fab with reds := rs } } := ⟨_, (ctxOf_updFab ..).trans (if_pos rfl)⟩

theorem redRetry_unheld {s : State} {c : Nat} (unheld : (ctxOf s c).fab.held = []) :
    redRetry s c = updFab s c fun f => { f with held := [] } := by
  unfold redRetry
  rw [unheld]
  rfl

/-! ### Jobs that park -/

theorem dormant_of_parked {s : State} {c : Nat} (parks : (ctxOf s c).state = .parked) : Dormant c (ctxOf s c) s :=
  ⟨⟨_, _, rfl⟩, by simp [parks]⟩

theorem ctxOf_parked (s : State) (c : Nat) : (ctxOf (parked s c) c).state = .parked ∧ (ctxOf (parked s c) c).stepIn = false := by
  rw [parked, ctxOf_updCtx_same]
  exact ⟨rfl, rfl⟩

theorem Dormant.stepIn {c : Nat} {j : JobCtx} {s : State} (h : Dormant c j s) : (ctxOf s c).stepIn = j.stepIn := by
  obtain ⟨q, r, ctx⟩ := h.ctx
  rw [ctx]

theorem Yields.boundaryEvent {c : Nat} {z s : State} (h : Yields c z s) (d outcome next park fail : Nat) :
    Yields c z (boundaryEvent s d outcome next park fail) := h.jobEvent d _

theorem Yields.finishPlough {c : Nat} {z s : State} (h : Yields c z s) (d aborted : Nat) : Yields c z (finishPlough s d aborted) := by
  unfold Machine.finishPlough
  dsimp only
  split
  · exact h.jobEvent d _
  · exact h

/-- A failed verdict parks the job (R354). -/
theorem failStep_parks (s : State) (c : Nat) : (ctxOf (failStep s c) c).state = .parked ∧ (ctxOf (failStep s c) c).stepIn = false := by
  obtain ⟨state, stepIn, -⟩ := ((dormant_of_parked (ctxOf_parked (finishPlough
    (boundaryEvent s c 3 1 4 (if (ctxOf s c).bnd.localOk then 4 else (ctxOf s c).bnd.failCause)) c (ctxOf s c).step) c).1).applyIfIdle).parked_fields
  exact ⟨state, stepIn⟩

/-- A failed verdict commits nothing (R200, R354). -/
theorem Yields.failStep {c : Nat} {z s : State} (h : Yields c z s) : Yields c z (failStep s c) :=
  (Yields.applyKeeps c z).applyIfIdle (((h.boundaryEvent ..).finishPlough c _).updCtx c fun _ => rfl)

theorem Yields.dropRed {c : Nat} {z s : State} (h : Yields c z s) (d : Nat) (cls : RedClass) (id : Nat) : Yields c z (dropRed s d cls id) :=
  h.updCtx d fun _ => rfl

theorem verdictDone_fails {s : State} {c : Nat} {w : Dword} (failed : w.getLsbD 0 = false) :
    verdictDone s c w = failStep (dropRed s c .verdict 0) c := if_neg (ne_true_of_eq_false failed)

/-! ### A verdict that passed -/

/-- The release of a job confined to the part, as its own word makes it. -/
def ownRelease (j : JobCtx) (w : Dword) : RedSt := { cls := .release, id := 0, seq := j.step, own := some w, result := some w }

/-- A job confined to the part knows its release at once (R352, R354). -/
theorem toRelease_alone {s : State} {c : Nat} (alone : fabricJob s c = 0) : ∃ p w, toRelease s c =
    putRed (updCtx s c fun j => { j with preempt := false, bnd := { j.bnd with phase := .awaitRelease, park := p } }) c
      (ownRelease (ctxOf s c) w) :=
  ⟨_, _, reduce_alone (s := updCtx s c _) alone ..⟩

/-- The verdict has passed, with its overflow flag (R352). -/
def verdictPassed (s : State) (c : Nat) (w : Dword) : State :=
  updBnd (dropRed s c .verdict 0) c fun b => { b with overflow := w.getLsbD 32, phase := .sweeping }

theorem ctxOf_verdictPassed (s : State) (c : Nat) (w : Dword) : ∃ rs, ctxOf (verdictPassed s c w) c =
    { ctxOf s c with
      bnd := { (ctxOf s c).bnd with overflow := w.getLsbD 32, phase := .sweeping }
      fab := { (ctxOf s c).fab with reds := rs } } := by
  obtain ⟨rs, ctx⟩ := ctxOf_dropRed s c .verdict 0
  exact ⟨rs, by rw [verdictPassed, ctxOf_updBnd, if_pos rfl, ctx]⟩

section

variable {s : State} {c : Nat} {w : Dword} (passed : w.getLsbD 0 = true) (untrained : (ctxOf s c).man.training = false)
  (noApply : s.cfg.state ≠ 3) (alone : fabricJob s c = 0) (unheld : (ctxOf s c).fab.held = [])
include passed untrained noApply

/-- A job that does not train goes from the verdict to the release (R352). -/
theorem verdictDone_untrained : verdictDone s c w = redRetry (toRelease (verdictPassed s c w) c) c := by
  obtain ⟨rs, ctx⟩ := ctxOf_verdictPassed s c w
  have applied : applyNow (verdictPassed s c w) = verdictPassed s c w := if_pos noApply
  have plain : (ctxOf (verdictPassed s c w) c).man.training = false := by rw [ctx, untrained]
  have commits : commitStep (verdictPassed s c w) c = toRelease (verdictPassed s c w) c := by simp [commitStep, plain]
  unfold verdictDone
  dsimp only
  rw [if_pos passed, ← verdictPassed, applied, commits]

include alone unheld

theorem verdictDone_alone : ∃ p w', verdictDone s c w = updFab
    (putRed (updCtx (verdictPassed s c w) c fun j => { j with preempt := false, bnd := { j.bnd with phase := .awaitRelease, park := p } }) c
      (ownRelease (ctxOf (verdictPassed s c w) c) w')) c fun f => { f with held := [] } := by
  obtain ⟨p, w', releases⟩ := toRelease_alone (s := verdictPassed s c w) (c := c) alone
  obtain ⟨rs, ctx⟩ := ctxOf_verdictPassed s c w
  refine ⟨p, w', ?_⟩
  rw [verdictDone_untrained passed untrained noApply, releases]
  refine redRetry_unheld ?_
  rw [ctxOf_putRed, ctxOf_updCtx_same, ctx]
  exact unheld

end

/-! ### The release -/

section

variable {s : State} {c : Nat} (onward : (ctxOf s c).plough = none) (noApply : s.cfg.state ≠ 3)
include onward noApply

/-- A release without a park lets the job run on (R355). -/
theorem action10_runs : (ctxOf (action10 s c 0) c).state = .running ∧ (ctxOf (action10 s c 0) c).bnd.phase = .none := by
  have cfg : (boundaryEvent s c (outcomeOf (ctxOf s c).bnd) 0 0 0).cfg = s.cfg :=
    (boundaryEvent_kept (List.Subset.refl _) (Kept.refl _ s)).frame .cfg (by decide)
  have effect : action10 s c 0 = schedule (updCtx (boundaryEvent s c (outcomeOf (ctxOf s c).bnd) 0 0 0) c fun j =>
      { j with state := .running, stepIn := false, bnd := {} }) := by
    unfold action10
    dsimp only
    rw [if_pos ⟨rfl, by rw [onward]; rfl⟩, applyIfIdle_none (s := updCtx _ c _) (by rw [← cfg] at noApply; exact noApply)]
  have steps := schedule_onward (s := updCtx (boundaryEvent s c (outcomeOf (ctxOf s c).bnd) 0 0 0) c fun j =>
    { j with state := .running, stepIn := false, bnd := {} }) (c := c) (by rw [ctxOf_updCtx_same])
  have bnd := steps.bnd
  rw [ctxOf_updCtx_same, or_self] at bnd
  rw [effect, bnd, steps.state, ctxOf_updCtx_same]
  exact ⟨rfl, rfl⟩

end

/-- A release with a park, or with a plough that waits for it, parks the job (R354, R355). -/
theorem action10_parks {s : State} {c park : Nat} (parks : park ≠ 0 ∨ (ctxOf s c).plough ≠ none) :
    (ctxOf (action10 s c park) c).state = .parked ∧ (ctxOf (action10 s c park) c).stepIn = false := by
  have halts : ¬ (park = 0 ∧ (ctxOf s c).plough.isNone = true) := by
    rintro ⟨free, unploughed⟩
    exact parks.elim (· free) (· (Option.isNone_iff_eq_none.1 unploughed))
  have ends : ∀ (u : State) (g : Boundary → Boundary),
      (ctxOf (schedule (applyIfIdle (updBnd (parked u c) c g))) c).state = .parked ∧
        (ctxOf (schedule (applyIfIdle (updBnd (parked u c) c g))) c).stepIn = false := fun u g => by
    obtain ⟨state, stepIn⟩ := ctxOf_parked u c
    have noted : ctxOf (updBnd (parked u c) c g) c = { ctxOf (parked u c) c with bnd := g (ctxOf (parked u c) c).bnd } :=
      (ctxOf_updBnd ..).trans (if_pos rfl)
    have asleep := (dormant_of_parked (s := updBnd (parked u c) c g) (c := c) (by rw [noted, state])).applyIfIdle.schedule
    exact ⟨by rw [asleep.state, noted, state], by rw [asleep.stepIn, noted, stepIn]⟩
  unfold action10
  dsimp only
  rw [if_neg halts]
  exact ends _ _

theorem releasePark_none {j : JobCtx} {w : Dword} (stays : w.getLsbD 32 = false) (park : j.bnd.park = 0) : releasePark j w = 0 := by
  rw [releasePark, if_neg (not_not_intro park), if_neg fun asks => Bool.false_ne_true (stays.symm.trans asks.1)]

theorem releasePark_parks {j : JobCtx} {w : Dword} (parks : w.getLsbD 32 = true ∨ j.bnd.park ≠ 0 ∨ j.plough ≠ none) :
    releasePark j w ≠ 0 ∨ j.plough ≠ none := by
  by_cases own : j.bnd.park = 0
  · by_cases ploughed : j.plough = none
    · have asked := parks.resolve_right (not_or.2 ⟨not_not_intro own, not_not_intro ploughed⟩)
      refine .inl ?_
      rw [releasePark, if_neg (not_not_intro own), if_pos ⟨asked, Option.isNone_iff_eq_none.2 ploughed⟩]
      decide
    · exact .inr ploughed
  · exact .inl (by simp [releasePark, own])

/-! ### The obligation -/

/-- Settles O35: each result by the branch of the boundary that it takes, a job at rest unaffected by the apply and the scheduler. -/
theorem verdictAndRelease : Obligations.VerdictAndRelease := by
  unfold Obligations.VerdictAndRelease
  refine ⟨fun s c r w known result phase failed => ?_, fun s c r w known result phase passed untrained noApply alone unheld => ?_,
    fun s c r w known result phase stays park onward noApply => ?_, fun s c r w known result phase parks => ?_,
    fun s c r known result waits _ forward => ?_⟩
  · have effect := (verdictReductionCompleteEffect_done known result phase).trans (verdictDone_fails failed)
    have yields := ((Yields.refl (c := c.val) s).dropRed c.val .verdict 0).failStep
    obtain ⟨state, stepIn⟩ := failStep_parks (dropRed s c .verdict 0) c
    exact ⟨_, congrArg Host.Outcome.next effect, state, stepIn, yields.committed⟩
  · obtain ⟨p, w', done⟩ := verdictDone_alone passed untrained noApply alone unheld
    obtain ⟨rs, ctx⟩ := ctxOf_verdictPassed s c w
    have effect := (verdictReductionCompleteEffect_done known result phase).trans done
    refine ⟨_, congrArg Host.Outcome.next effect, ?_, ?_, ?_, ⟨ownRelease (ctxOf (verdictPassed s c w) c) w', ?_, rfl, rfl⟩,
      (updFab_kept (List.Subset.refl _) (putRed_kept (by decide) (updCtx_kept (by decide) (updBnd_kept (by decide)
        (updFab_kept (by decide) (Kept.refl _ s)))))).frame⟩
    all_goals rw [ctxOf_updFab, if_pos rfl, ctxOf_putRed, ctxOf_updCtx_same]
    · rw [ctx]
    · rw [ctx]
    · exact List.mem_append_right _ (List.mem_singleton_self _)
  · obtain ⟨rs, ctx⟩ := ctxOf_dropRed s c .release 0
    have effect := releaseReductionCompleteEffect_done known result phase
    rw [releasePark_none stays park] at effect
    exact ⟨_, congrArg Host.Outcome.next effect, action10_runs (by rw [ctx]; exact onward) noApply⟩
  · obtain ⟨rs, ctx⟩ := ctxOf_dropRed s c .release 0
    have effect := releaseReductionCompleteEffect_done known result phase
    exact ⟨_, congrArg Host.Outcome.next effect, action10_parks (by rw [ctx]; exact releasePark_parks parks)⟩
  · obtain ⟨rs, dropped⟩ := ctxOf_dropRed s c .start 0
    have started : ctxOf (updCtx (dropRed s c .start 0) c fun j => { j with startWait := false }) c =
        { ctxOf s c with startWait := false, fab := { (ctxOf s c).fab with reds := rs } } := by rw [ctxOf_updCtx_same, dropped]
    obtain ⟨f, q, ctx⟩ := (SameStep.refl (c := c) (updCtx (dropRed s c .start 0) c fun j => { j with startWait := false })).redRetry c
    have steps := schedule_onward (c := c) (s := redRetry (updCtx (dropRed s c .start 0) c fun j => { j with startWait := false }) c)
      (by rw [ctx, started]; exact forward)
    exact ⟨_, congrArg Host.Outcome.next (startReductionCompleteEffect_done known result waits), by rw [steps.startWait, ctx, started],
      by rw [steps.state, ctx, started]⟩

end Sys2Proof.Proofs
end

section
/-! The commands of a job's life (R227, R265, R344 to R348, R356, R359, R361): a start or resume whose checks pass makes the context
RUNNING, an unload or a teardown leaves nothing of the job, and a command that does not fit the context's state is refused. -/

namespace Sys2Proof.Proofs

open Sys2Proof Sys2Proof.Machine Sys2Proof.Laws

/-! ### Commands and their results -/

/-- On a part that is READY, with no load waiting and no compute reset, a command of the JOB page acts (R344, R469). -/
theorem jobCommand_acts {s : State} {c : Nat} (up : isReady s = true) (idle : s.job.loads = []) (runs : s.boot.resetting = false)
    (f : State → State) : jobCommand s c f = f s := by
  simp [jobCommand, jobBusy, up, idle, runs]

/-- While loads wait a command completes with BUSY (R469). -/
theorem jobCommand_busy {s : State} {c : Nat} (up : isReady s = true) (loading : s.job.loads ≠ []) (f : State → State) :
    jobCommand s c f = jobResult s c 0x22 0 := by
  simp [jobCommand, jobBusy, up, loading]

theorem ctxOf_jobResult (s : State) (c code index d : Nat) : ctxOf (jobResult s c code index) d = ctxOf s d :=
  (jobResult_aside s c code index).ctxOf d

/-- The result of a command that succeeds names its context (R469). -/
theorem jobResult_succeeds (s : State) (c : Nat) : (jobResult s c 0 0).job.result = BitVec.ofNat 32 (c * 2 ^ 24) := by
  rw [jobResult_job, Nat.zero_mul, Nat.add_zero]

/-- A context that is not loaded neither runs nor drains, and waits in no other state (R149, R343). -/
theorem not_loaded {j : JobCtx} (unloaded : j.loaded = false) :
    ¬ (j.state = .running ∨ j.state = .draining) ∧ ¬ (j.state = .loaded ∨ j.state = .parked) := by
  cases state : j.state <;> simp [JobCtx.loaded, state] at unloaded ⊢

/-! ### What the reads of the sinks leave of a context -/

/-- Of the context, nothing but its fabric state, its event queue and its training state has changed. -/
def SameRun (c : Nat) (s t : State) : Prop := ∃ f q r, ctxOf t c = { ctxOf s c with fab := f, evq := q, trn := r }

section

variable {c : Nat} {z s t : State}

theorem SameRun.refl (s : State) : SameRun c s s := ⟨_, _, _, rfl⟩

theorem SameRun.step (h : SameRun c z s) (k : SameStep c s t) : SameRun c z t := by
  obtain ⟨f, q, r, ctx⟩ := h
  obtain ⟨f', q', ctx'⟩ := k
  exact ⟨f', q', r, by rw [ctx', ctx]⟩

theorem SameRun.updTrn (h : SameRun c z s) (d : Nat) (g : JobTrn → JobTrn) : SameRun c z (updTrn s d g) := by
  obtain ⟨f, q, r, ctx⟩ := h
  by_cases own : c = d
  · exact ⟨f, q, g r, by subst own; rw [ctxOf_updTrn, if_pos rfl, ctx]⟩
  · exact ⟨f, q, r, by rw [ctxOf_updTrn, if_neg own, ctx]⟩

theorem SameRun.sinkBad (h : SameRun c z s) (d k cause : Nat) : SameRun c z (sinkBad s d k cause) := by
  have noted : SameRun c z (updSink s d k fun x => { x with invalid := true, known := true }) := h.updTrn d _
  have raised : ∀ (f : EvF), SameRun c z (raiseJob (updSink s d k fun x => { x with invalid := true, known := true }) d 0x001D f) :=
    fun f => noted.step ((SameStep.refl _).raiseJob d _ f)
  unfold Machine.sinkBad
  extract_lets cfg s1 s2
  have told : SameRun c z s2 := by
    unfold s2
    split
    · exact noted
    · exact raised _
  split
  · exact told.updTrn d _
  · exact told

theorem SameRun.takeArea (h : SameRun c z s) (d k : Nat) (area : List Byte) : SameRun c z (takeArea s d k area) := by
  unfold Machine.takeArea
  split
  · exact h.sinkBad d k _
  · exact h.updTrn d _

theorem SameStep.fwAsk (h : SameStep c z s) (d dst addr n what cmd : Nat) : SameStep c z (fwAsk s d dst addr n what cmd) := by
  have taken : SameStep c z (takeTag s 8).2 := h.of_ctxs rfl
  exact (taken.updFab d _).inject _

theorem SameStep.fwDone (h : SameStep c z s) (d : Nat) (r : FwRead) : SameStep c z (fwDone s d r) := by
  have ended := h.updFab d fun f => { f with reads := f.reads.erase r }
  unfold Machine.fwDone
  dsimp only
  split
  · exact ended
  · exact ended.of_ctxs rfl

theorem SameRun.fwAskArea (h : SameRun c z s) (d k : Nat) : SameRun c z (fwAskArea s d k) := by
  unfold Machine.fwAskArea
  dsimp only
  split
  · exact h
  · exact h.step ((SameStep.refl s).fwAsk ..)

theorem SameRun.fwAnswered (h : SameRun c z s) (d k : Nat) (area : Option (List Byte)) : SameRun c z (fwAnswered s d k area) := by
  have done : ∀ r, SameRun c z (fwDone s d r) := fun r => h.step ((SameStep.refl s).fwDone d r)
  unfold Machine.fwAnswered
  split
  · exact h
  · split
    · exact (done _).takeArea d k _
    · exact (done _).sinkBad d k 3

/-- The reads of the control areas move nothing of the job but what it knows of its sinks (R187). -/
theorem SameRun.readSinks (h : SameRun c z s) (d : Nat) (peer : List (Option (List Byte))) : SameRun c z (readSinks s d peer) := by
  refine forEach_keeps (P := SameRun c z) (fun u k hu => ?_) (h.updTrn d _)
  dsimp only
  split
  · exact hu
  · split
    · exact (hu.fwAskArea d k).fwAnswered d k _
    · exact hu.takeArea d k _

end

/-! ### Start and resume -/

/-- The context has become RUNNING, its first step not yet admitted (R345, R348, R361). -/
def jobBegun (s : State) (c : Nat) : State :=
  updCtx (dropOrphans (if (ctxOf s c).ran then s else bump s 0x7130 1) c) c fun j => { j with
    state := .running, fresh := true, ran := true, stepIn := false, startWait := spans s c, starts := (j.starts + 1) % 65536 }

theorem ctxOf_jobBegun (s : State) (c : Nat) : ctxOf (jobBegun s c) c = { ctxOf s c with
    state := .running, fresh := true, ran := true, stepIn := false, startWait := spans s c
    starts := ((ctxOf s c).starts + 1) % 65536 } := by
  have counted : ctxOf (dropOrphans (if (ctxOf s c).ran then s else bump s 0x7130 1) c) c = ctxOf s c := by
    unfold dropOrphans
    split
    · rfl
    · rfl
  rw [jobBegun, ctxOf_updCtx_same, counted]

/-- A job that is not to take its boundary again becomes RUNNING, and awaits its start reduction if it spans parts (R345, R348). -/
theorem goRunning_runs {s : State} {c : Nat} (forward : (ctxOf s c).bnd.retake = false) :
    (ctxOf (goRunning s c) c).state = .running ∧ (ctxOf (goRunning s c) c).ran = true ∧
      (ctxOf (goRunning s c) c).startWait = spans s c := by
  have contributed : ∀ (p : Prop) [Decidable p] (seq : Nat), SameStep c (jobBegun s c)
      (if p then reduce (jobBegun s c) c .start 0 seq 1 else jobBegun s c) := fun p _ seq => by
    split
    · exact (SameStep.refl _).reduce ..
    · exact SameStep.refl _
  unfold goRunning
  extract_lets j s1 s2 k
  obtain ⟨f, q, ctx⟩ : SameStep c (jobBegun s c) (if spans s1 c = true then reduce s1 c .start 0 (ctxOf s1 c).starts 1 else s1) :=
    contributed _ _
  rw [ctxOf_jobBegun] at ctx
  have steps : Onward c (if spans s1 c = true then reduce s1 c .start 0 (ctxOf s1 c).starts 1 else s1) s2 :=
    schedule_onward (by rw [ctx]; exact forward)
  have onward : k.bnd.retake = false := by
    rcases steps.bnd with bnd | bnd
    · rw [show k.bnd = _ from bnd, ctx]
      exact forward
    · rw [show k.bnd = _ from bnd]
  rw [if_neg (by simp [onward]), steps.state, steps.ran, steps.startWait, ctx]
  exact ⟨rfl, rfl, rfl⟩

/-- A start or resume whose checks pass (R187, R227, R265). -/
theorem startFrom_runs {s : State} {c : Nat} {st : JState} {peer : List (Option (List Byte))} (state : (ctxOf s c).state = st)
    (next : nextInvalid s c = false) (box : boxMismatch s c = false) (sinks : anyInvalid (readSinks s c peer) c = false) :
    startFrom s c st peer = jobResult (goRunning (readSinks s c peer) c) c 0 0 := by
  simp [startFrom, state, next, box, sinks]

theorem goRunning_readSinks {s : State} {c : Nat} (forward : (ctxOf s c).bnd.retake = false) (peer : List (Option (List Byte))) :
    (ctxOf (goRunning (readSinks s c peer) c) c).state = .running ∧ (ctxOf (goRunning (readSinks s c peer) c) c).ran = true ∧
      (ctxOf (goRunning (readSinks s c peer) c) c).startWait = spans s c := by
  obtain ⟨f, q, r, ctx⟩ := (SameRun.refl (c := c) s).readSinks c peer
  have cfg : (readSinks s c peer).cfg = s.cfg := (readSinks_kept (List.Subset.refl _) (Kept.refl _ s)).frame .cfg (by decide)
  have same : spans (readSinks s c peer) c = spans s c := by rw [spans, fabricJob, live_of_cfg cfg, ← fabricJob, ← spans]
  obtain ⟨state, ran, waits⟩ := goRunning_runs (s := readSinks s c peer) (c := c) (by rw [ctx]; exact forward)
  exact ⟨state, ran, waits.trans same⟩

/-! ### Release and teardown -/

/-- A sweep of the job on a trowel ends (R360). -/
def endSweep (c : Nat) (s : State) (k : Nat) : State :=
  if (mget s.trw {} k).sweeping && decide ((mget s.trw {} k).ctx = c) then updTrowel s k fun w => { w with sweeping := false } else s

theorem endSweeps_same (c : Nat) (l : List Nat) (s : State) :
    (forEach l s (endSweep c)).job = s.job ∧ (forEach l s (endSweep c)).fab = s.fab := by
  refine forEach_keeps (P := fun u => u.job = s.job ∧ u.fab = s.fab) (fun u k hu => ?_) ⟨rfl, rfl⟩
  unfold endSweep
  split
  · exact hu
  · exact hu

/-- A release frees the job's tags and clears its context, and writes no other context (R360). -/
theorem releaseJob_clears (s : State) (c : Nat) : ∃ u f, releaseJob s c = updCtx u c f ∧ (∀ j, (f j).man = {} ∧ (f j).stepIn = false) ∧
    u.job.ctxs = s.job.ctxs ∧ u.fab = (releaseTags s c).fab := by
  have freed := rinkFree_kept (c := c) (List.Subset.refl _) (Kept.refl _ (releasePools (releaseTags s c) c))
  have fab : (rinkFree (releasePools (releaseTags s c) c) c).fab = (releaseTags s c).fab := freed.frame .fab (by decide)
  have ctxs : (rinkFree (releasePools (releaseTags s c) c) c).job.ctxs = s.job.ctxs := (congrArg JobSt.ctxs (freed.frame .job (by decide)) :)
  unfold releaseJob
  extract_lets s1 mine drop zs keys jobWas postWas secWas s2 s3
  obtain ⟨job, still⟩ : s3.job = s2.job ∧ s3.fab = s2.fab := endSweeps_same c (List.range 12) s2
  exact ⟨s3, _, rfl, fun _ => ⟨rfl, rfl⟩, (congrArg JobSt.ctxs job).trans ctxs, still.trans fab⟩

theorem ctxOf_releaseJob (s : State) (c : Nat) : (ctxOf (releaseJob s c) c).man = {} ∧ (ctxOf (releaseJob s c) c).stepIn = false := by
  obtain ⟨u, f, clears, fields, -, -⟩ := releaseJob_clears s c
  rw [clears, ctxOf_updCtx_same]
  exact fields _

theorem ctxOf_releaseJob_other (s : State) {c d : Nat} (other : d ≠ c) : ctxOf (releaseJob s c) d = ctxOf s d := by
  obtain ⟨u, f, clears, -, ctxs, -⟩ := releaseJob_clears s c
  rw [clears, ctxOf_updCtx, if_neg other, ctxOf, ctxs, ← ctxOf]

/-- No tag of the job is in use after its release (R360). -/
theorem releaseJob_tags (s : State) (c : Nat) : ∀ x ∈ (releaseJob s c).fab.tags, x.2 ≠ c := by
  obtain ⟨u, f, clears, -, -, fab⟩ := releaseJob_clears s c
  intro x hx
  have freed : (releaseJob s c).fab = (releaseTags s c).fab := by rw [clears]; exact fab
  rw [freed] at hx
  exact of_decide_eq_true (Bool.and_eq_true_iff.1 (List.mem_filter.1 hx).2).1

/-- The first actions of a teardown close the job's barriers (R359). -/
theorem tearCore_bars (s : State) (c b4 : Nat) : ∀ b ∈ (tearCore s c b4).tile.bars, b.ctx ≠ c := by
  have rest : Kept [.out, .dev, .mem, .sem, .job, .fab, .trw, .rink, .post, .host, .tel, .sec] (stopJob s c) (tearCore s c b4) :=
    releaseJob_kept (by decide) (floodJobLost_kept (by decide)
      (forEach_kept (stopDma_kept (by decide) (Kept.refl _ _)) fun _ _ => undefSems_kept (by decide)))
  rw [bars_of_kept rest (by decide), stopJob_bars]
  exact fun b hb => of_decide_eq_true (List.mem_filter.1 hb).2

theorem Yields.tornDown {c : Nat} {z s : State} (h : Yields c z s) (d : Nat) : Yields c z (tornDown s d) := by
  have aside : JobsAside (Machine.updCtx s d fun j => { j with state := .tornDown }) (Machine.tornDown s d) := ⟨rfl, rfl, rfl⟩
  have marked : Yields c z (Machine.updCtx s d fun j => { j with state := .tornDown }) := h.updCtx d fun _ => rfl
  exact marked.aside aside

/-- The event, the apply and the scheduler that end a teardown bring no tag and no barrier (R359). -/
theorem teardown_end (s : State) (c code : Nat) (f : EvF) :
    (schedule (applyIfIdle (tornDown (raiseJob s c code f) c))).fab.tags ⊆ s.fab.tags ∧
      (schedule (applyIfIdle (tornDown (raiseJob s c code f) c))).tile.bars ⊆ s.tile.bars := by
  have raised : Yields c s (raiseJob s c code f) := (Yields.refl s).jobEvent c _
  have applied := (Yields.applyKeeps c s).applyIfIdle (raised.tornDown c)
  have fab : (schedule (applyIfIdle (tornDown (raiseJob s c code f) c))).fab = (applyIfIdle (tornDown (raiseJob s c code f) c)).fab :=
    (schedule_kept (List.Subset.refl _) (Kept.refl _ _)).frame .fab (by decide)
  exact ⟨by rw [fab]; exact applied.tags, by rw [schedule_bars]; exact applied.bars⟩

theorem ctxOf_tearCore (s : State) (c b4 : Nat) : (ctxOf (tearCore s c b4) c).man = {} ∧ (ctxOf (tearCore s c b4) c).stepIn = false := by
  unfold tearCore
  exact ctxOf_releaseJob _ c

theorem tearCore_tags (s : State) (c b4 : Nat) : ∀ x ∈ (tearCore s c b4).fab.tags, x.2 ≠ c := by
  unfold tearCore
  exact releaseJob_tags _ c

theorem Dormant.man {c : Nat} {j : JobCtx} {s : State} (h : Dormant c j s) : (ctxOf s c).man = j.man := by
  obtain ⟨q, r, ctx⟩ := h.ctx
  rw [ctx]

theorem tornDown_man (s : State) (c code : Nat) (f : EvF) :
    (ctxOf (schedule (applyIfIdle (tornDown (raiseJob s c code f) c))) c).man = (ctxOf s c).man :=
  (tornDown_dormant s c code f).applyIfIdle.schedule.man

theorem tornDown_stepIn (s : State) (c code : Nat) (f : EvF) :
    (ctxOf (schedule (applyIfIdle (tornDown (raiseJob s c code f) c))) c).stepIn = (ctxOf s c).stepIn :=
  (tornDown_dormant s c code f).applyIfIdle.schedule.stepIn

/-- A teardown leaves no manifest, no step, no tag and no barrier of the job (R359, R360). -/
theorem teardown_clears {s : State} {c : Nat} (loaded : (ctxOf s c).loaded = true) (b4 code : Nat) (f : EvF) :
    (ctxOf (teardown s c b4 code f) c).man = {} ∧ (ctxOf (teardown s c b4 code f) c).stepIn = false ∧
      (∀ x ∈ (teardown s c b4 code f).fab.tags, x.2 ≠ c) ∧ ∀ b ∈ (teardown s c b4 code f).tile.bars, b.ctx ≠ c := by
  obtain ⟨man, stepIn⟩ := ctxOf_tearCore s c b4
  obtain ⟨tags, bars⟩ := teardown_end (tearCore s c b4) c code f
  rw [teardown, if_pos loaded, tornDown_man, tornDown_stepIn]
  exact ⟨man, stepIn, fun x hx => tearCore_tags s c b4 x (tags hx), fun b hb => tearCore_bars s c b4 b (bars hb)⟩

/-! ### The commands on a part that takes them -/

theorem ctxOf_bump (s : State) (off n d : Nat) : ctxOf (bump s off n) d = ctxOf s d := rfl

/-- The job is unloaded, and counted if it ever ran (R344, R361). -/
def unloaded (s : State) (c : Nat) : State :=
  if (ctxOf s c).ran then bump (updCtx (releaseJob s c) c fun j => { j with state := .idle }) 0x7138 1
  else updCtx (releaseJob s c) c fun j => { j with state := .idle }

theorem ctxOf_unloaded (s : State) (c d : Nat) :
    ctxOf (unloaded s c) d = ctxOf (updCtx (releaseJob s c) c fun j => { j with state := .idle }) d := by
  unfold unloaded
  split
  · exact ctxOf_bump ..
  · rfl

section

variable {s : State} {c : Nat} (up : isReady s = true) (idle : s.job.loads = []) (runs : s.boot.resetting = false)
include up idle runs

theorem jobPreemptEffect_acts (works : (ctxOf s c).state = .running ∨ (ctxOf s c).state = .draining) :
    jobPreemptEffect c s = jobResult (updCtx s c fun j => { j with preempt := true }) c 0 0 := by
  rw [jobPreemptEffect, jobCommand_acts up idle runs, if_pos works]

theorem jobUnloadEffect_acts (rests : (ctxOf s c).state = .loaded ∨ (ctxOf s c).state = .parked) :
    jobUnloadEffect c s = jobResult (unloaded s c) c 0 0 := by
  rw [jobUnloadEffect, jobCommand_acts up idle runs]
  exact if_pos rests

theorem jobTeardownEffect_acts (loaded : (ctxOf s c).loaded = true) :
    jobTeardownEffect c s = jobResult (teardown s c 2 0x0005 {}) c 0 0 := by
  rw [jobTeardownEffect, jobCommand_acts up idle runs, if_pos loaded]

theorem jobClearEffect_acts (down : (ctxOf s c).state = .tornDown) :
    jobClearEffect c s = jobResult (updCtx s c fun j => { j with state := .idle }) c 0 0 := by
  rw [jobClearEffect, jobCommand_acts up idle runs, if_pos down]

/-- A context that is not loaded has no job to preempt, unload, tear down or plough (R344). -/
theorem jobCommands_refused (unloaded : (ctxOf s c).loaded = false) : jobPreemptEffect c s = jobResult s c 0x20 0 ∧
    jobUnloadEffect c s = jobResult s c 0x20 0 ∧ jobTeardownEffect c s = jobResult s c 0x20 0 ∧
    ∀ mode, ploughCommand c mode s = jobResult s c 0x20 0 := by
  obtain ⟨stopped, away⟩ := not_loaded unloaded
  refine ⟨?_, ?_, ?_, fun mode => ?_⟩
  · rw [jobPreemptEffect, jobCommand_acts up idle runs, if_neg stopped]
  · rw [jobUnloadEffect, jobCommand_acts up idle runs]
    exact if_neg away
  · rw [jobTeardownEffect, jobCommand_acts up idle runs, if_neg (ne_true_of_eq_false unloaded)]
  · rw [ploughCommand, jobCommand_acts up idle runs, if_neg stopped]

end

section

variable {s : State} {c : Nat} {hw : List Host.Cell} {peer : List (Option (List Byte))} (up : isReady s = true) (idle : s.job.loads = [])
  (runs : s.boot.resetting = false) (next : nextInvalid { s with hostMem := s.hostMem.writeCells hw } c = false)
  (box : boxMismatch { s with hostMem := s.hostMem.writeCells hw } c = false)
  (sinks : anyInvalid (readSinks { s with hostMem := s.hostMem.writeCells hw } c peer) c = false)
include up idle runs next box sinks

theorem jobStartEffect_acts (state : (ctxOf s c).state = .loaded) : jobStartEffect c hw peer s =
    jobResult (goRunning (readSinks { s with hostMem := s.hostMem.writeCells hw } c peer) c) c 0 0 := by
  rw [jobStartEffect, jobCommand_acts (s := { s with hostMem := s.hostMem.writeCells hw }) up idle runs]
  exact startFrom_runs state next box sinks

theorem jobResumeEffect_acts (state : (ctxOf s c).state = .parked) : jobResumeEffect c hw peer s =
    jobResult (goRunning (readSinks { s with hostMem := s.hostMem.writeCells hw } c peer) c) c 0 0 := by
  rw [jobResumeEffect, jobCommand_acts (s := { s with hostMem := s.hostMem.writeCells hw }) up idle runs]
  exact startFrom_runs state next box sinks

end

/-- What a start or resume leaves when it has its result. -/
theorem runs_result {s u : State} {c : Nat} {peer : List (Option (List Byte))} (fabric : u.cfg = s.cfg)
    (forward : (ctxOf u c).bnd.retake = false) :
    (ctxOf (jobResult (goRunning (readSinks u c peer) c) c 0 0) c).state = .running ∧
      (ctxOf (jobResult (goRunning (readSinks u c peer) c) c 0 0) c).ran = true ∧
      (ctxOf (jobResult (goRunning (readSinks u c peer) c) c 0 0) c).startWait = spans s c := by
  have same : spans u c = spans s c := by rw [spans, fabricJob, live_of_cfg fabric, ← fabricJob, ← spans]
  rw [ctxOf_jobResult, ← same]
  exact goRunning_readSinks forward peer

/-! ### The obligation -/

/-- Settles O40: a command that the context's state allows has its effect and result 0; any other is refused with its code. -/
theorem lifeOfAJob : Obligations.LifeOfAJob := by
  unfold Obligations.LifeOfAJob
  refine ⟨fun s u c hw peer written up idle runs state next box sinks forward => ?_,
    fun s u c hw peer written up idle runs state next box sinks forward => ?_, fun s c up idle runs works => ?_,
    fun s c up idle runs rests => ?_, fun s c up idle runs loaded => ?_, fun s c up idle runs down => ?_,
    fun s c up idle runs empty => ?_, fun s c up loading => ?_⟩
  · subst written
    obtain ⟨running, ran, waits⟩ := runs_result (s := s) (u := { s with hostMem := s.hostMem.writeCells hw }) (peer := peer) rfl forward
    exact ⟨_, congrArg Host.Outcome.next (jobStartEffect_acts up idle runs next box sinks state), running, ran, waits,
      jobResult_succeeds ..⟩
  · subst written
    obtain ⟨running, -, waits⟩ := runs_result (s := s) (u := { s with hostMem := s.hostMem.writeCells hw }) (peer := peer) rfl forward
    exact ⟨_, congrArg Host.Outcome.next (jobResumeEffect_acts up idle runs next box sinks state), running, waits, jobResult_succeeds ..⟩
  · exact ⟨_, congrArg Host.Outcome.next (jobPreemptEffect_acts up idle runs works), by rw [ctxOf_jobResult, ctxOf_updCtx_same],
      jobResult_succeeds .., (jobResult_kept (by decide) (updCtx_kept (by decide) (Kept.refl _ s))).frame⟩
  · refine ⟨_, congrArg Host.Outcome.next (jobUnloadEffect_acts up idle runs rests), ?_, ?_, jobResult_succeeds .., fun d _ other => ?_⟩
    · rw [ctxOf_jobResult, ctxOf_unloaded, ctxOf_updCtx_same]
    · rw [ctxOf_jobResult, ctxOf_unloaded, ctxOf_updCtx_same, (ctxOf_releaseJob s c.val).1]
    · rw [ctxOf_jobResult, ctxOf_unloaded, ctxOf_updCtx, if_neg other, ctxOf_releaseJob_other s other]
  · obtain ⟨man, stepIn, tags, bars⟩ := teardown_clears loaded 2 0x0005 {}
    have aside := jobResult_aside (teardown s c.val 2 0x0005 {}) c.val 0 0
    exact ⟨_, congrArg Host.Outcome.next (jobTeardownEffect_acts up idle runs loaded), by rw [ctxOf_jobResult, teardown_state loaded],
      by rw [ctxOf_jobResult, man], by rw [ctxOf_jobResult, stepIn], by rw [aside.tags]; exact tags, by rw [aside.bars]; exact bars,
      jobResult_succeeds ..⟩
  · exact ⟨_, congrArg Host.Outcome.next (jobClearEffect_acts up idle runs down), by rw [ctxOf_jobResult, ctxOf_updCtx_same],
      (jobResult_kept (by decide) (updCtx_kept (by decide) (Kept.refl _ s))).frame⟩
  · obtain ⟨preempt, unload, tear, plough⟩ := jobCommands_refused up idle runs empty
    exact ⟨congrArg Host.Outcome.next preempt, congrArg Host.Outcome.next unload, congrArg Host.Outcome.next tear,
      congrArg Host.Outcome.next (plough .finish), congrArg Host.Outcome.next (plough .abort)⟩
  · have busy : ∀ f, jobCommand s c.val f = jobResult s c.val 0x22 0 := jobCommand_busy up loading
    exact ⟨congrArg Host.Outcome.next (busy _), congrArg Host.Outcome.next (busy _), congrArg Host.Outcome.next (busy _),
      congrArg Host.Outcome.next (busy _), congrArg Host.Outcome.next (busy _), congrArg Host.Outcome.next (busy _)⟩

end Sys2Proof.Proofs
end

section
/-! The monotonic counter (R367): a step lets it only grow, and no further than 256. -/

namespace Sys2Proof.Proofs

open Sys2Proof Sys2Proof.Machine Sys2Proof.Laws

/-- A step takes the front command from the queue; beside that it changes nothing that no command changes. -/
theorem step_kept {s t : State} (next : step s = .next t) : Kept everyPart { s with pending := s.pending.tail } t := by
  unfold step at next
  split at next
  · next idle =>
    cases next
    have same : s.pending.tail = s.pending := by rw [idle]; rfl
    rw [same]
    exact idleTick_kept (subset_everyPart _) (.refl _ s)
  · next i rest front =>
    obtain ⟨u, goes, kept⟩ := exec_goesOn i { s with pending := rest }
    cases goes.symm.trans next
    rw [front]
    exact kept

/-- Settles O3: every operation of the model keeps the counter's growth and its bound, and a step is made of them. -/
theorem monotonicCounterOnlyIncreases : Obligations.MonotonicCounterOnlyIncreases := by
  unfold Obligations.MonotonicCounterOnlyIncreases
  intro s t next
  have kept := step_kept next
  exact ⟨kept.counter, kept.bound⟩

end Sys2Proof.Proofs
end

section
/-! The Hardom's desk (R376, R378, R395 to R397): how a request reaches it over SPDM or on the HRDM page, how it answers, and that
a change of its own state changes nothing else. -/

namespace Sys2Proof.Proofs

open Sys2Proof Sys2Proof.Machine Sys2Proof.Laws

variable {s : State}

theorem changesOnly_sec (s : State) (x : SecSt) : s.changesOnly [.sec] { s with sec := x } := fun p out => by
  cases p with
  | sec => exact absurd (List.mem_singleton_self _) out
  | sem => exact ⟨rfl, rfl⟩
  | _ => rfl

theorem setSec_kept {C : List Part} {z : State} {x : SecSt} (counter : x.counter = s.sec.counter) (hC : ([.sec] : List Part) ⊆ C)
    (h : Kept C z s) : Kept C z { s with sec := x } := Kept.put h (counter := counter)

/-! ### Answers -/

@[simp] theorem spdm_sec (s : State) (p : MsgPath) (code : Nat) (bs : List Byte) : (spdm s p code bs).sec = s.sec := rfl

@[simp] theorem vendorOk_sec (s : State) (p : MsgPath) (code : Nat) : (vendorOk s p code).sec = s.sec := rfl

@[simp] theorem secRefuse_sec (s : State) (r : Refused) :
    (secRefuse s r).sec = { s.sec with busy := true, refusing := s.sec.refusing ++ [r] } := rfl

@[simp] theorem hrdmResult_sec (s : State) (r : Nat) : (hrdmResult s r).sec = { s.sec with result := r } :=
  (blockEvent_kept (List.Subset.refl _) (Kept.refl _ _)).frame .sec (by decide)

/-! ### Requests -/

theorem spdmRequest_up (up : spdmUp s = true) (f : State → State) : spdmRequest s f = f s := if_pos up

/-- The Hardom serves a request of SPDM at once while it is free and no scrub runs (R395, R396). -/
theorem secRequest_free (up : spdmUp s = true) (free : s.sec.busy = false) (calm : s.sec.scrubbing = false) (i : Instr) :
    secRequest i s = secDo i s := by
  rw [secRequest, if_pos up, secArrive, if_neg (by simp [free, calm])]

theorem hrdmCommand_free (up : isReady s = true) (free : s.sec.busy = false) (r : Nat) (f : State → State) : hrdmCommand s r f = f s := by
  rw [hrdmCommand, if_neg (by simp [up]), if_neg (by simp [free])]

theorem hrdmCommand_busy (up : isReady s = true) (busy : s.sec.busy = true) (r : Nat) (f : State → State) :
    hrdmCommand s r f = accessErr s 0x8000 4 r 0x8100 := by
  rw [hrdmCommand, if_neg (by simp [up]), if_pos busy]

end Sys2Proof.Proofs
end

section
/-! Attestation (R376 to R379): requests that are answered at once, sessions and their opening, and the report. -/

namespace Sys2Proof.Proofs

open Sys2Proof Sys2Proof.Machine Sys2Proof.Laws

variable {s : State} {p : MsgPath}

/-! ### Requests answered at once -/

theorem getMeasurementsEffect_block (up : spdmUp s = true) {i : Nat} (first : 0 < i) (last : i ≤ 7) :
    getMeasurementsEffect p i s = spdm s p 0x60 (BitVec.ofNat 8 i :: measurement s i) := by
  rw [getMeasurementsEffect, spdmRequest_up up, if_neg (by omega), if_neg (by omega), if_pos last]

theorem chunkGetEffect_piece (up : spdmUp s = true) {h i : Nat} (held : 1024 * i < (mget s.sec.chunks [] (2 * pathKey p + 1)).length) :
    chunkGetEffect p h i s =
      spdm s p 0x06 (BitVec.ofNat 8 h :: ((mget s.sec.chunks [] (2 * pathKey p + 1)).drop (1024 * i)).take 1024) := by
  rw [chunkGetEffect, spdmRequest_up up]
  exact if_neg (by omega)

/-! ### Requests inside a session -/

theorem inSession_known (up : spdmUp s = true) {n : Nat} (known : (sessionOf s p n).isSome = true) (code : Nat) (f : State → State) :
    inSession p n code f s = spdm (f s) p code [] := by
  rw [inSession, spdmRequest_up up]
  exact if_pos known

/-! ### Security operations over SPDM -/

theorem doKeyExchange_room (sound : s.sec.scrubFailed = false) (room : s.sec.sessions.length < 2) (m : Bool) :
    ∃ id, doKeyExchange p m s =
      spdm { s with sec := { s.sec with sessions := s.sec.sessions ++ [{ id := id, path := p, mutAuth := m }] } } p 0x64 [BitVec.ofNat 8 id] :=
  ⟨_, if_neg (by simp [sound, room])⟩

theorem doKeyExchange_full (full : 2 ≤ s.sec.sessions.length) (m : Bool) : doKeyExchange p m s = secRefuse s (.spdm p) :=
  if_pos (Or.inr full)

section

variable {x : Session} (only : s.sec.sessions = [x]) (path : x.path = p) (opening : x.est = false)
include only path opening

theorem doFinish_establishes (sound : s.sec.scrubFailed = false) (oneWay : x.mutAuth = false) (leaf : Option (List Byte)) :
    doFinish p x.id leaf true s = spdm (updSession s x.id fun x => { x with est := true, owner := x.mutAuth }) p 0x65 [] := by
  simp [doFinish, only, path, opening, sound, oneWay]

theorem doFinish_refused {leaf : Option (List Byte)} {ok : Bool} (bad : ok = false ∨ (x.mutAuth = true ∧ leaf = none)) :
    doFinish p x.id leaf ok s = secRefuse s (.spdm p) := by
  have found : s.sec.sessions.find? (fun y => decide (y.id = x.id) && decide (y.path = p) && !y.est) = some x := by
    simp [only, path, opening]
  have refused : s.sec.scrubFailed = true ∨ ¬ ok = true ∨ (x.mutAuth = true ∧ ¬ (leaf.isSome && decide (leaf = ownerKey s)) = true) := by
    rcases bad with wrong | ⟨asked, none⟩
    · simp [wrong]
    · simp [asked, none]
  rw [doFinish, found]
  exact if_pos refused

end

/-! ### The report -/

theorem reportEffect_calm (up : spdmUp s = true) (calm : s.sec.scrubbing = false) (n : Option Nat) (nonce : List Byte) :
    reportEffect p n nonce s = doReport p n nonce s := by
  rw [reportEffect, spdmRequest_up up]
  exact if_neg (by simp [calm])

/-- A report waits for the end of a scrub (R398). -/
theorem reportEffect_scrubbing (up : spdmUp s = true) (scrub : s.sec.scrubbing = true) (sound : s.sec.scrubFailed = false) (n : Option Nat)
    (nonce : List Byte) : reportEffect p n nonce s = { s with sec := { s.sec with waiting := s.sec.waiting ++ [.report p n nonce] } } := by
  rw [reportEffect, spdmRequest_up up]
  exact if_pos ⟨scrub, by simp [sound]⟩

/-! ### The obligation -/

/-- Settles O54: each request is answered by its own response, and what it leaves is read off the state that it writes. -/
theorem attestation : Obligations.Attestation := by
  unfold Obligations.Attestation
  refine ⟨fun s p up => ?_, fun s p v12 up => ?_, fun s p up => congrArg Host.Outcome.next (spdmRequest_up up _),
    fun s p up => congrArg Host.Outcome.next (spdmRequest_up up _), fun s p off n up => congrArg Host.Outcome.next (spdmRequest_up up _),
    fun s p nonce up => ?_, fun s p i up first last => congrArg Host.Outcome.next (getMeasurementsEffect_block up first last),
    fun s p m up free calm sound room => ?_,
    fun s p m up free calm full => congrArg Host.Outcome.next ((secRequest_free up free calm _).trans (doKeyExchange_full full m)),
    fun s p x leaf up free calm sound only path opening oneWay => ?_,
    fun s p x leaf ok up free calm only path opening bad =>
      congrArg Host.Outcome.next ((secRequest_free up free calm _).trans (doFinish_refused only path opening bad)),
    fun s p n up known => ⟨congrArg Host.Outcome.next (inSession_known up known _ _), congrArg Host.Outcome.next (inSession_known up known _ _)⟩,
    fun s p n up known => ?_, fun s p h bs up => ?_, fun s p h i b up held piece => ?_, fun s p nonce up calm => ?_,
    fun s p n nonce up scrub sound => ?_⟩
  · have acts : getVersionEffect p s = _ := spdmRequest_up up _
    exact ⟨_, rfl, by rw [acts]; rfl, by rw [acts]; simp, (getVersionEffect_kept (by decide) (Kept.refl _ s)).frame⟩
  · have acts := spdmRequest_up up
    exact ⟨_, rfl, by rw [getCapabilitiesEffect, acts]; rfl, by rw [getCapabilitiesEffect, acts]; simp,
      (getCapabilitiesEffect_kept (by decide) (Kept.refl _ s)).frame⟩
  · have acts : challengeEffect p nonce s = _ := spdmRequest_up up _
    exact ⟨_, rfl, by rw [acts]; rfl, (challengeEffect_kept (by decide) (Kept.refl _ s)).frame⟩
  · obtain ⟨id, acts⟩ := doKeyExchange_room (p := p) sound room m
    exact ⟨_, congrArg Host.Outcome.next (secRequest_free up free calm _), ⟨_, congrArg (·.sec.sessions) acts, rfl, rfl, rfl, rfl⟩,
      (doKeyExchange_kept (by decide) (Kept.refl _ s)).frame⟩
  · have acts := doFinish_establishes only path opening sound oneWay leaf
    have sessions : (doFinish p x.id leaf true s).sec.sessions = [{ x with est := true, owner := false }] := by
      simp [acts, updSession, only, oneWay]
    exact ⟨_, congrArg Host.Outcome.next (secRequest_free up free calm _), sessions, (doFinish_kept (by decide) (Kept.refl _ s)).frame⟩
  · have acts : endSessionEffect p n s = _ := inSession_known up known _ _
    have sessions : (endSessionEffect p n s).sec.sessions = s.sec.sessions.filter fun x => x.id ≠ n := by rw [acts]; rfl
    exact ⟨_, rfl, by rw [sessions]; simp, by rw [sessions]; simp +contextual, (endSessionEffect_kept (by decide) (Kept.refl _ s)).frame⟩
  · have acts : chunkSendEffect p h bs false s = _ := spdmRequest_up up _
    exact ⟨_, rfl, by rw [acts]; simp, (chunkSendEffect_kept (by decide) (Kept.refl _ s)).frame⟩
  · subst held
    exact congrArg Host.Outcome.next (chunkGetEffect_piece up piece)
  · have acts : doReport p none nonce s = spdm { s with
        free := s.free + 1
        sec := { s.sec with chunks := mset s.sec.chunks [] (2 * pathKey p + 1) (reportBytes s s.free nonce) } } p 0x7E
        (1 :: reportBytes s s.free nonce) := rfl
    exact ⟨_, congrArg Host.Outcome.next (reportEffect_calm up calm none nonce), rfl, by rw [acts]; simp,
      (doReport_kept (by decide) (Kept.refl _ s)).frame⟩
  · have acts := reportEffect_scrubbing (p := p) up scrub sound n nonce
    exact ⟨_, congrArg Host.Outcome.next acts, rfl, rfl, changesOnly_sec s _⟩

end Sys2Proof.Proofs
end

section
/-! Weight chunks and sets (R383 to R386): what an accepted chunk and a refused one leave, and the close of a set. -/

namespace Sys2Proof.Proofs

open Sys2Proof Sys2Proof.Machine Sys2Proof.Laws

variable {s : State} {ch st k : Nat} {b d : List Byte} {x : Xfer}

/-! ### A chunk that is accepted -/

/-- The chunkPayload of a chunk, which of a plain chunk is its plaintext (R385). -/
def chunkPayload (b : List Byte) : List Byte := (b.drop 64).take (lat b 0xC 4)

theorem chunkPayload_length (header : chunkHeaderOk ch b = true) (plain : lat b 4 1 = 0) : (chunkPayload b).length = lat b 0xC 4 := by
  have long : b.length = 64 + lat b 0xC 4 := by
    simp only [chunkHeaderOk, plain, if_true, Bool.and_eq_true, decide_eq_true_eq] at header
    omega
  simp [chunkPayload, long]

/-- The entry of a set that a plain chunk adds its bytes and its leaf to (R383). -/
def grown (w : WSet) (b : List Byte) : WSet :=
  { path := lat b 4 1, state := 1, bytes := w.bytes + lat b 0xC 4, leaves := w.leaves ++ [merkleLeaf (chunkPayload b)], id := lat b 0x10 8 }

/-- What a plain chunk leaves that is accepted: it is written where the transfer stands, and its set grows (R383, R385, R386). -/
def plainAccepted (s : State) (d : List Byte) (x : Xfer) (b : List Byte) : State :=
  { devWrite s none (lat d 8 8 + x.plain) (chunkPayload b) with
    sec := { s.sec with wsets := mset s.sec.wsets {} (lat b 5 1) (grown (wset s (lat b 5 1)) b) } }

theorem chunkAccept_plain (header : chunkHeaderOk ch b = true) (next : chunkNext s b = true)
    (place : chunkPlace s d x (lat b 0xC 4) = true) (sound : s.sec.scrubFailed = false) (plain : lat b 4 1 = 0) :
    chunkAccept s ch d x b = some (plainAccepted s d x b) := by
  have key : chunkKey s ch b = some none := if_pos plain
  have text : chunkPlain none b = some (chunkPayload b) := rfl
  have unsealed : ¬ lat b 4 1 = 2 := by omega
  unfold chunkAccept
  dsimp only
  rw [if_neg (by simp [header, next, place, sound]), key]
  dsimp only
  rw [text]
  dsimp only
  rw [if_neg unsealed]
  rfl

/-- The transfer that a channel holds is as given (R385). -/
def putXfer (s : State) (ch : Nat) (x : Xfer) : State := { s with sec := { s.sec with xfer := mset s.sec.xfer none ch (some x) } }

theorem putXfer_xfer (s : State) (ch : Nat) (x : Xfer) : mget (putXfer s ch x).sec.xfer none ch = some x := by
  simp [putXfer]

theorem wset_putXfer (s : State) (ch : Nat) (x : Xfer) (k : Nat) : wset (putXfer s ch x) k = wset s k := rfl

theorem putXfer_kept {C : List Part} {z s : State} {ch : Nat} {x : Xfer} (hC : ([.sec] : List Part) ⊆ C) (h : Kept C z s) :
    Kept C z (putXfer s ch x) := by
  unfold putXfer
  exact Kept.put h

section

variable (cur : (chanOf s ch).cur = some (d, st)) (xfer : mget s.sec.xfer none ch = some x) (going : x.refused = false)
  (more : x.host + b.length < lat d 0x10 4)
include cur xfer going more

/-- A chunk before the last of its transfer goes in, or the transfer is refused; either way its bytes count (R385, R386). -/
theorem doChunk_accepts {t : State} (accepted : chunkAccept s ch d x b = some t) :
    doChunk ch b s = putXfer (putXfer t ch { x with plain := x.plain + lat b 0xC 4, set := some (lat b 5 1) }) ch
      { x with host := x.host + b.length, plain := x.plain + lat b 0xC 4, set := some (lat b 5 1) } := by
  unfold doChunk
  rw [cur, xfer]
  dsimp only
  rw [if_neg (ne_true_of_eq_false going), if_neg (not_lt.2 more.le), accepted, if_neg (not_le.2 more)]
  dsimp only
  rw [mget_mset, if_pos rfl]
  rfl

theorem doChunk_refuses {y : Xfer} (refused : chunkAccept s ch d x b = none)
    (marked : mget (chunkRefuse s ch d x b).sec.xfer none ch = some y) :
    doChunk ch b s = putXfer (chunkRefuse s ch d x b) ch { y with host := x.host + b.length } := by
  unfold doChunk
  rw [cur, xfer]
  dsimp only
  rw [if_neg (ne_true_of_eq_false going), if_neg (not_lt.2 more.le), refused, if_neg (not_le.2 more)]
  dsimp only
  rw [marked]
  rfl

end

/-! ### A chunk that is refused -/

/-- A transfer refused where it stands fails its set (R386). -/
theorem failXfer_fails (cur : (chanOf s ch).cur = some (d, st)) (xfer : mget s.sec.xfer none ch = some x) (set : x.set = some k) :
    (wset (failXfer s ch) k).state = 3 ∧ mget (failXfer s ch).sec.xfer none ch = some { x with refused := true } := by
  unfold failXfer
  simp [cur, xfer, set, wset, devUndef, devWrite]

/-- A chunk that is not well formed, but names its set, fails the set (R383, R386). -/
theorem chunkRefuse_fails (cur : (chanOf s ch).cur = some (d, st)) (long : 64 ≤ b.length) (magic : lat b 0 4 = 0x42574B52) :
    (wset (chunkRefuse s ch d x b) (lat b 5 1)).state = 3 ∧
      mget (chunkRefuse s ch d x b).sec.xfer none ch = some { x with set := some (lat b 5 1), refused := true } := by
  unfold chunkRefuse
  dsimp only
  have named : (if 64 ≤ b.length ∧ lat b 0 4 = 0x42574B52 then some (lat b 5 1) else x.set) = some (lat b 5 1) := if_pos ⟨long, magic⟩
  rw [named]
  refine failXfer_fails (d := d) (st := st) (x := { x with set := some (lat b 5 1) }) ?_ (by simp) rfl
  split
  · exact cur
  · exact cur

theorem chunkAccept_malformed (bad : chunkHeaderOk ch b = false) : chunkAccept s ch d x b = none :=
  if_pos (Or.inl (by simp [bad]))

/-! ### The command -/

theorem weightChunkEffect_runs (awake : s.host.d3 = false) (linked : s.host.linkLost = false) (released : s.boot.perst = false)
    (calm : s.sec.scrubbing = false) (ch : Nat) (b : List Byte) : weightChunkEffect ch b s = doChunk ch b s := by
  rw [weightChunkEffect, if_neg (by simp [awake, linked, released]), if_neg (by simp [calm])]

/-! ### The close of a set -/

section

variable (sound : s.sec.scrubFailed = false) (opened : (wset s k).state = 1)
include sound opened

theorem doClose_complete (all : (rw s 0x8104).toNat = (wset s k).leaves.length) : ∃ keys, doClose k s =
    hrdmResult { s with sec := { s.sec with
      wsets := mset s.sec.wsets {} k { wset s k with state := 2, root := merkleRoot (wset s k).leaves.length (wset s k).leaves }
      loadKeys := keys } } 1 := by
  unfold doClose
  dsimp only
  rw [if_neg (by simp [sound, opened]), if_pos all, if_pos all]
  exact ⟨_, rfl⟩

theorem doClose_short (short : (rw s 0x8104).toNat ≠ (wset s k).leaves.length) : ∃ keys, doClose k s =
    secRefuse { s with sec := { s.sec with wsets := mset s.sec.wsets {} k { wset s k with state := 3 }, loadKeys := keys } } .hrdm := by
  unfold doClose
  dsimp only
  rw [if_neg (by simp [sound, opened]), if_neg short, if_neg short]
  exact ⟨_, rfl⟩

end

end Sys2Proof.Proofs
end

section
/-! Keys (R387, R388, R390 to R394): the device-set key, the keys of sealed channels and the owner key, and the weights and keys
of O53. -/

namespace Sys2Proof.Proofs

open Sys2Proof Sys2Proof.Machine Sys2Proof.Laws

variable {s : State} {p : MsgPath} {n : Nat} {key : List Byte} {x : Session}

/-! ### The device-set key and the keys of channels -/

section

variable (known : sessionOf s p n = some x)
include known

theorem doSetKey_installs (sound : s.sec.scrubFailed = false) (owner : x.owner = true) (empty : s.sec.devKey = none) (setId : Nat) :
    doSetKey p n setId key s = vendorOk { s with sec := { s.sec with devKey := some (setId, key) } } p 2 := by
  simp [doSetKey, known, sound, owner, empty]

theorem doSetKey_stranger (stranger : x.owner = false) (setId : Nat) : doSetKey p n setId key s = secRefuse s (.spdm p) := by
  simp [doSetKey, known, stranger]

/-- A key is released to a free channel of a job at rest when the session holds a report of the present images and configuration
(R388). -/
theorem doReleaseKey_installs {job chan : Nat} {d : Sha} (sound : s.sec.scrubFailed = false)
    (report : (d, configDigest s, s.sec.images) ∈ x.reports) (below : job < 8)
    (rests : (ctxOf s job).state = .loaded ∨ (ctxOf s job).state = .parked) (channel : chan < 4) (free : chanKey s chan = none)
    (loadId : Word) : doReleaseKey p n job chan loadId d key s =
      vendorOk { s with sec := { s.sec with
        loadKeys := mset s.sec.loadKeys none chan
          (some { job := job, loadId := loadId, key := key, cfg := configDigest s, images := s.sec.images }) } } p 3 := by
  unfold doReleaseKey
  rw [known]
  dsimp only
  rw [if_neg (by simp [sound, report, below, rests, free, Nat.le_of_lt_succ channel])]

end

/-! ### The owner key -/

/-- The slot that is not in use, which an update writes (R392). -/
def spareSlot (s : State) : Nat := match ownerSlot s with | some 0 => 1 | _ => 0

theorem spareSlot_lt (s : State) : spareSlot s < 2 := by
  unfold spareSlot
  split <;> omega

theorem ownerSlot_ne_spareSlot (s : State) : ownerSlot s ≠ some (spareSlot s) := by
  unfold spareSlot
  split
  · next zero => rw [zero]; simp
  · next other => exact other

theorem doOwnerKeyUpdate_accepts {seq : Nat} {sig : List Byte} (sound : s.sec.scrubFailed = false) (room : s.sec.counter < 256)
    (next : seq = s.sec.counter + 1) (point : key.length = 97) (signed : updateSigned s seq key sig = true) :
    doOwnerKeyUpdate p seq key sig true s =
      vendorOk { s with sec := { s.sec with slots := mset s.sec.slots none (spareSlot s) (some ⟨seq, key⟩), counter := seq } } p 4 := by
  unfold doOwnerKeyUpdate
  rw [if_neg (by simp [sound, room, next, point, ← signed])]
  rfl

theorem doOwnerKeyUpdate_refused {seq : Nat} (bad : seq ≠ s.sec.counter + 1 ∨ s.sec.counter = 256) (sig : List Byte) (ok : Bool) :
    doOwnerKeyUpdate p seq key sig ok s = secRefuse s (.spdm p) :=
  if_pos (bad.elim (fun wrong => Or.inr (Or.inr (Or.inl wrong))) fun full => Or.inr (Or.inl full.ge))

/-! ### The obligation -/

/-- Settles O53: a plain chunk lands where its transfer stands, a malformed one fails its set, and a key is installed where the
session and the counter allow it. -/
theorem weightsAndKeys : Obligations.WeightsAndKeys := by
  unfold Obligations.WeightsAndKeys
  refine ⟨fun s ch b d st a n k x awake linked released cur xfer going calm sound header next len place plain addr set more fits => ?_,
    fun s ch b d st k x awake linked released cur xfer going calm long magic bad set more => ?_,
    fun s k up free sound opened all => ?_, fun s k up free sound opened short => ?_,
    fun s p n setId key x up free calm sound known owner empty => ?_,
    fun s p n setId key x up free calm known stranger =>
      congrArg Host.Outcome.next ((secRequest_free up free calm _).trans (doSetKey_stranger known stranger _)),
    fun s p n job chan loadId d key x up free calm sound known report below rests channel empty => ?_,
    fun s p seq key sig up free calm sound room next point signed => ?_,
    fun s p seq key sig ok up free calm bad =>
      congrArg Host.Outcome.next ((secRequest_free up free calm _).trans (doOwnerKeyUpdate_refused bad sig ok))⟩
  · subst len addr set
    have full := chunkPayload_length header plain
    have accepted := chunkAccept_plain header next place sound plain
    have acts := (weightChunkEffect_runs awake linked released calm ch.val b).trans (doChunk_accepts cur xfer going more accepted)
    have grew : wset (plainAccepted s d x b) (lat b 5 1) = grown (wset s (lat b 5 1)) b := by simp [wset, plainAccepted]
    obtain ⟨lands, rest⟩ := devWrite_lands (t := plainAccepted s d x b) rfl (by omega)
    rw [full] at lands rest
    exact ⟨_, congrArg Host.Outcome.next acts, lands, by rw [wset_putXfer, wset_putXfer, grew]; rfl,
      by rw [wset_putXfer, wset_putXfer, grew]; rfl, by rw [wset_putXfer, wset_putXfer, grew]; rfl, putXfer_xfer .., rest,
      (putXfer_kept (by decide) (putXfer_kept (by decide) (chunkAccept_kept (List.Subset.refl _) accepted (Kept.refl _ s)))).frame⟩
  · subst set
    obtain ⟨failed, marked⟩ := chunkRefuse_fails (x := x) cur long magic
    have acts := (weightChunkEffect_runs awake linked released calm ch.val b).trans
      (doChunk_refuses cur xfer going more (chunkAccept_malformed bad) marked)
    exact ⟨_, congrArg Host.Outcome.next acts, failed, _, putXfer_xfer .., rfl⟩
  · obtain ⟨keys, acts⟩ := doClose_complete sound opened all
    have closed := (hrdmCommand_free up free 4 (doClose k.val)).trans acts
    refine ⟨_, congrArg Host.Outcome.next closed, by simp [wset], by simp [wset], by simp, fun j other => by simp [wset, other], ?_⟩
    rw [← acts]
    exact (doClose_kept (by decide) (Kept.refl _ s)).frame
  · obtain ⟨keys, acts⟩ := doClose_short sound opened short
    have failed := (hrdmCommand_free up free 4 (doClose k.val)).trans acts
    exact ⟨_, congrArg Host.Outcome.next failed, by simp [wset], rfl, rfl, changesOnly_sec s _⟩
  · have acts := (secRequest_free up free calm (.setKey p n setId key)).trans (doSetKey_installs known sound owner empty setId.toNat)
    exact ⟨_, congrArg Host.Outcome.next acts, rfl, by
      rw [← acts, secRequest_free up free calm]; exact (doSetKey_kept (by decide) (Kept.refl _ s)).frame⟩
  · have acts := doReleaseKey_installs (key := key) known sound report below rests channel empty loadId
    refine ⟨_, congrArg Host.Outcome.next (secRequest_free up free calm _), ?_, fun j other => ?_,
      (doReleaseKey_kept (by decide) (Kept.refl _ s)).frame⟩
    · rw [secDo, acts]; simp [chanKey]
    · rw [secDo, acts]; simp [chanKey, other]
  · have acts := doOwnerKeyUpdate_accepts (p := p) sound room next point signed
    refine ⟨_, congrArg Host.Outcome.next (secRequest_free up free calm _), ?_,
      ⟨spareSlot s, spareSlot_lt s, ?_, ownerSlot_ne_spareSlot s, fun j other => ?_⟩, (doOwnerKeyUpdate_kept (by decide) (Kept.refl _ s)).frame⟩
    · rw [secDo, acts]; exact next
    · rw [secDo, acts]; simp [slotOf]
    · rw [secDo, acts]; simp [slotOf, other]

end Sys2Proof.Proofs
end

section
/-! The apply of the configuration store (R440, R447): its links may restart, and beside that it touches no memory, no record of
the Hardom but keys that went stale, and of the jobs no more than their sinks. -/

namespace Sys2Proof.Proofs

open Sys2Proof Sys2Proof.Machine Sys2Proof.Laws

theorem kept_widen {C D : List Part} {s t : State} (h : Kept C s t) (sub : C ⊆ D) : Kept D s t :=
  ⟨h.pending, h.free, h.out, h.counter, h.bound, h.mems, fun p out => h.frame p fun mem => out (sub mem)⟩

/-! ### Counters of the switchback -/

/-- Of the telemetry only counters have changed. -/
def CountsOnly (s t : State) : Prop := t.tel = { s.tel with cnt := t.tel.cnt }

section

variable {s t u : State}

theorem CountsOnly.refl (s : State) : CountsOnly s s := rfl

theorem CountsOnly.trans (h : CountsOnly s t) (k : CountsOnly t u) : CountsOnly s u := by
  unfold CountsOnly at *
  rw [k, h]

theorem CountsOnly.of_kept {C : List Part} (k : Kept C s t) (out : Part.tel ∉ C) : CountsOnly s t := by
  rw [CountsOnly, k.frame .tel out]

theorem CountsOnly.forEach {α : Type} {f : State → α → State} (step : ∀ u a, CountsOnly u (f u a)) (l : List α) (s : State) :
    CountsOnly s (forEach l s f) := forEach_keeps (P := CountsOnly s) (fun u a hu => hu.trans (step u a)) (.refl s)

theorem doHop_counts (s : State) (inp : Option (Nat × Nat)) (p : Packet) (hop : Hop) : CountsOnly s (doHop s inp p hop) := by
  cases hop with
  | deliver => exact .of_kept (freeInput_kept (by decide) (emit_kept (C := [.out, .fab]) (by decide) (Kept.refl _ s))) (by decide)
  | port n q cont => exact .of_kept (sendOn_kept (List.Subset.refl _) (Kept.refl _ s)) (by decide)
  | discard => exact CountsOnly.trans (t := countDiscard s) rfl (.of_kept (freeInput_kept (List.Subset.refl _) (Kept.refl _ _)) (by decide))

theorem forward_counts (s : State) (inp : Option (Nat × Nat)) (p : Packet) : CountsOnly s (forward s inp p) := by
  unfold forward
  dsimp only
  split
  · split
    · exact doHop_counts ..
    · exact (doHop_counts ..).trans (doHop_counts ..)
  · exact doHop_counts ..

theorem flood_counts (s : State) (kind job : Nat) (payload : List Byte) (except : Option Nat) :
    CountsOnly s (flood s kind job payload except) := by
  refine .forEach (fun u port => ?_) _ s
  split
  · split
    · split
      · rfl
      · exact .of_kept (sendOn_kept (List.Subset.refl _) (Kept.refl _ u)) (by decide)
    · rfl
  · rfl

theorem reroute_counts (s : State) (port : Nat) : CountsOnly s (reroute s port) := by
  unfold reroute
  exact CountsOnly.trans (t := updLink s port _) rfl (.forEach (fun u (x : QPkt) => forward_counts u x.inp x.p) _ _)

end

/-! ### Beside an apply -/

/-- Parts that an apply moves without a plough. -/
def besideParts : List Part := [.out, .hostMem, .tile, .job, .fab, .rink, .host, .cfg, .tel, .sec, .pwr]

/-- What every change of an apply keeps, but for links that restart: all memories and stores, what the Hardom holds but keys of
channels, and every job's state and manifest. -/
structure ApplyAside (s t : State) : Prop where
  kept : Kept besideParts s t
  tel : CountsOnly s t
  sec : t.sec = { s.sec with loadKeys := t.sec.loadKeys }
  rink : t.rink = { s.rink with next := t.rink.next, tails := t.rink.tails }
  zeroing : t.job.zeroing = s.job.zeroing
  jobs : ∀ c, (ctxOf t c).state = (ctxOf s c).state ∧ (ctxOf t c).man = (ctxOf s c).man

section

variable {C : List Part} {s t u : State}

theorem ApplyAside.refl (s : State) : ApplyAside s s := ⟨.refl _ s, .refl s, rfl, rfl, rfl, fun _ => ⟨rfl, rfl⟩⟩

theorem ApplyAside.trans (h : ApplyAside s t) (k : ApplyAside t u) : ApplyAside s u where
  kept := h.kept.trans k.kept
  tel := h.tel.trans k.tel
  sec := by rw [k.sec, h.sec]
  rink := by rw [k.rink, h.rink]
  zeroing := k.zeroing.trans h.zeroing
  jobs c := ⟨(k.jobs c).1.trans (h.jobs c).1, (k.jobs c).2.trans (h.jobs c).2⟩

theorem ApplyAside.of_counts (k : Kept C s t) (tel : CountsOnly s t)
    (clear : C ⊆ besideParts ∧ Part.job ∉ C ∧ Part.rink ∉ C ∧ Part.sec ∉ C := by decide) : ApplyAside s t := by
  obtain ⟨sub, job, rink, sec⟩ := clear
  have same := k.frame .job job
  exact ⟨kept_widen k sub, tel, by rw [k.frame .sec sec], by rw [k.frame .rink rink], congrArg JobSt.zeroing same,
    fun c => by rw [ctxOf_of_job same]; exact ⟨rfl, rfl⟩⟩

theorem ApplyAside.of_kept (k : Kept C s t)
    (clear : C ⊆ besideParts ∧ Part.job ∉ C ∧ Part.rink ∉ C ∧ Part.sec ∉ C := by decide) (tel : Part.tel ∉ C := by decide) :
    ApplyAside s t := .of_counts k (.of_kept k tel) clear

theorem ApplyAside.ite {p : Prop} [Decidable p] (h : ApplyAside s t) (k : ApplyAside s u) : ApplyAside s (if p then t else u) := by
  split
  · exact h
  · exact k

theorem ApplyAside.forEach {α : Type} {f : State → α → State} (step : ∀ u a, ApplyAside u (f u a)) (l : List α) (s : State) :
    ApplyAside s (forEach l s f) := forEach_keeps (P := ApplyAside s) (fun u a hu => hu.trans (step u a)) (.refl s)

end

theorem setCfg_kept {C : List Part} {z s : State} {x : CfgSt} (hC : ([.cfg] : List Part) ⊆ C) (h : Kept C z s) :
    Kept C z { s with cfg := x } := Kept.put h

theorem setCfg_beside (s : State) (x : CfgSt) : ApplyAside s { s with cfg := x } :=
  .of_kept (setCfg_kept (List.Subset.refl _) (Kept.refl _ s))

theorem refollow_beside (s : State) : ApplyAside s (refollow s) := .of_kept (refollow_kept (List.Subset.refl _) (Kept.refl _ s))

theorem chgLink_beside (s : State) (p : Nat) (f : Link → Link) : ApplyAside s (chgLink s p f) :=
  .of_kept (chgLink_kept (List.Subset.refl _) (Kept.refl _ s))

theorem raisePart_beside (s : State) (code : Nat) (f : EvF) : ApplyAside s (raisePart s code f) :=
  .of_kept (raisePart_kept (List.Subset.refl _) (Kept.refl _ s))

theorem setFab_kept {C : List Part} {z s : State} {x : FabSt} (hC : ([.fab] : List Part) ⊆ C) (h : Kept C z s) :
    Kept C z { s with fab := x } := Kept.put h

theorem setFab_beside (s : State) (x : FabSt) : ApplyAside s { s with fab := x } := .of_kept (setFab_kept (List.Subset.refl _) (Kept.refl _ s))

theorem addKey_beside (s : State) (kind b01 b4 : Nat) : ApplyAside s (addKey s kind b01 b4) :=
  .of_kept (addKey_kept (List.Subset.refl _) (Kept.refl _ s))

theorem flood_beside (s : State) (kind job : Nat) (payload : List Byte) (except : Option Nat) :
    ApplyAside s (flood s kind job payload except) :=
  .of_counts (flood_kept (List.Subset.refl _) (Kept.refl _ s)) (flood_counts ..)

theorem reroute_beside (s : State) (p : Nat) : ApplyAside s (reroute s p) :=
  .of_counts (reroute_kept (List.Subset.refl _) (Kept.refl _ s)) (reroute_counts ..)

theorem afterOut_beside (s : State) (p : Nat) : ApplyAside s (afterOut s p) := by
  have twin : ApplyAside s (twinCheck s p) := .ite (chgLink_beside ..) (.refl s)
  exact (twin.trans (reroute_beside _ p)).trans (refollow_beside _)

theorem restartLink_beside (s : State) (p : Nat) : ApplyAside s (restartLink s p) := (chgLink_beside ..).trans (chgLink_beside ..)

theorem cutLinks_beside (s : State) (x : Nat) : ApplyAside s (cutLinks s x) :=
  (ApplyAside.forEach (fun u _ => chgLink_beside u _ _) _ s).trans (.forEach (fun u _ => reroute_beside u _) _ _)

theorem spinReload_beside (s : State) (n seed : Nat) : ApplyAside s (spinReload s n seed) :=
  .of_kept (spinReload_kept (List.Subset.refl _) (Kept.refl _ s))

theorem lowerClocks_beside (s : State) : ApplyAside s (lowerClocks s) := .of_kept (lowerClocks_kept (List.Subset.refl _) (Kept.refl _ s))

theorem dropStaleKeys_beside (s : State) : ApplyAside s (dropStaleKeys s) :=
  ⟨dropStaleKeys_kept (by decide) (Kept.refl _ s), rfl, rfl, rfl, rfl, fun _ => ⟨rfl, rfl⟩⟩

theorem sinkRestart_beside (s : State) (c k : Nat) : ApplyAside s (updTrn s c fun t => { t with sinks := mset t.sinks {} k {} }) :=
  ⟨updTrn_kept (by decide) (Kept.refl _ s), rfl, rfl, rfl, rfl, fun d => by
    rw [ctxOf_updTrn]
    split
    · next own => subst own; exact ⟨rfl, rfl⟩
    · exact ⟨rfl, rfl⟩⟩

theorem setRink_kept {C : List Part} {z s : State} {x : RinkSt} (hC : ([.rink] : List Part) ⊆ C) (h : Kept C z s) :
    Kept C z { s with rink := x } := Kept.put h

theorem ringRestart_beside (s : State) (next tails : NMap Nat) :
    ApplyAside s { s with rink := { s.rink with next := next, tails := tails } } :=
  ⟨setRink_kept (by decide) (Kept.refl _ s), rfl, rfl, rfl, rfl, fun _ => ⟨rfl, rfl⟩⟩

/-! ### The apply -/

/-- Ports whose links restart when the values of the registers change from `old` to `new` (R239, R449). -/
def relinked (old new : Nat → Word) : List Nat :=
  let relink := [0x70100, 0x70104, 0x70108, 0x7010C].any fun o => old o ≠ new o
  (List.range 12).filter fun p => relink || decide (old (slnkPage p + 0x100) ≠ new (slnkPage p + 0x100))

theorem relinked_nil {old new : Nat → Word} (same : ∀ o, fabricPage o = true → new o = old o) : relinked old new = [] := by
  have fabric : ∀ o, 0x70000 ≤ o → o < 0x7D000 → new o = old o := fun o low high => same o (by simp [fabricPage, low, high])
  have port : ∀ p < 12, new (slnkPage p + 0x100) = old (slnkPage p + 0x100) := fun p hp => by
    refine fabric _ ?_ ?_ <;> unfold slnkPage <;> omega
  unfold relinked
  simp only [List.filter_eq_nil_iff, List.mem_range]
  intro p hp
  simp [port p hp, fabric]

/-- What follows an apply is the restart of links, and what lies beside it. -/
theorem afterApply_links (old s : State) :
    ∃ u, ApplyAside s u ∧ ApplyAside (restartLinks u (relinked (live old) (live s))) (afterApply old s) := by
  have followed : ∀ (p : Prop) [Decidable p] (u : State), ApplyAside u (if p then u else refollow u) := fun _ _ u =>
    .ite (.refl u) (refollow_beside u)
  have keyed : ∀ (p : Prop) [Decidable p] (u : State), ApplyAside u (if p then dropStaleKeys u else u) := fun _ _ u =>
    .ite (dropStaleKeys_beside u) (.refl u)
  unfold afterApply
  refine ⟨_, (ApplyAside.forEach (fun u n => spinReload_beside u n _) _ s).trans (followed _ _),
    (((ApplyAside.forEach (fun u i => ?_) _ _).trans (.forEach (fun u i => ?_) _ _)).trans (keyed _ _)).trans (lowerClocks_beside _)⟩
  · dsimp only
    exact .ite (sinkRestart_beside ..) (.refl u)
  · dsimp only
    exact .ite (ringRestart_beside ..) (.refl u)

/-- Every shadow is live (R447). -/
def wentLive (s : State) : State :=
  { s with cfg := { s.cfg with live := s.cfg.shadow, seq := (s.cfg.seq + 1) % 2 ^ 32, dirty := [], state := 0 } }

/-- An apply is the restart of the links that the staged values ask for, and what lies beside it. -/
theorem goLive_links (s : State) :
    ∃ u, ApplyAside s u ∧ ApplyAside (restartLinks u (relinked (live s) (shadow s))) (goLive s) := by
  have settled : ∀ ns ps : List Nat, Kept [.tile] s (forEach ns (forEach ps s clockTick) spinSettle) := fun _ _ =>
    forEach_kept (forEach_kept (Kept.refl _ s) fun _ _ h => clockTick_kept (List.Subset.refl _) h) fun _ _ h =>
      spinSettle_kept (List.Subset.refl _) h
  have goes : ∀ x : State, Kept [.tile] s x →
      ∃ u, ApplyAside s u ∧ ApplyAside (restartLinks u (relinked (live s) (shadow s))) (afterApply x (wentLive x)) := by
    intro x kept
    obtain ⟨u, before, after⟩ := afterApply_links x (wentLive x)
    have same := kept.frame .cfg (by decide)
    have old : live x = live s := live_of_cfg same
    have new : live (wentLive x) = shadow s := by
      funext o
      rw [shadow, ← same]
      rfl
    rw [old, new] at after
    exact ⟨u, ((ApplyAside.of_kept kept).trans (setCfg_beside x _)).trans before, after⟩
  exact goes _ (settled _ _)

/-! ### The configuration store -/

/-- The entries of a copy of the store are staged (R440). -/
def storeStaged (s : State) (es : List (Nat × Word)) : State :=
  forEach es s fun s e => if storable e.1 then stageValue s e.1 e.2 else s

theorem storeStaged_kept (s : State) (es : List (Nat × Word)) : Kept [.cfg] s (storeStaged s es) :=
  forEach_kept (Kept.refl _ s) fun _ _ h => .ite (stageValue_kept (List.Subset.refl _) h) h

theorem live_storeStaged (s : State) (es : List (Nat × Word)) : live (storeStaged s es) = live s :=
  forEach_keeps (P := fun u => live u = live s) (fun u e hu => by split <;> exact hu) rfl

/-- Entries elsewhere leave the shadows of the fabric's pages. -/
theorem shadow_storeStaged {es : List (Nat × Word)} (elsewhere : ∀ e ∈ es, fabricPage e.1 = false) (s : State) {o : Nat}
    (fabric : fabricPage o = true) : shadow (storeStaged s es) o = shadow s o := by
  induction es generalizing s with
  | nil => rfl
  | cons e es ih =>
    have other : o ≠ e.1 := fun same => Bool.false_ne_true ((elsewhere e List.mem_cons_self).symm.trans (same ▸ fabric))
    have first : shadow (if storable e.1 then stageValue s e.1 e.2 else s) o = shadow s o := by
      split
      · exact mget_mset_ne _ _ _ _ _ other
      · rfl
    exact (ih (fun e' mem => elsewhere e' (List.mem_cons_of_mem _ mem)) _).trans first

/-- No staged value and no entry of the store's copy in use changes a register of the fabric's pages. -/
def FabricStands (s : State) : Prop := (∀ o, fabricPage o = true → shadow s o = live s o) ∧
  ∀ k c, storeCopy s = some (k, c) → ∀ e ∈ c.entries, fabricPage e.1 = false

/-- The apply of the store is the restart of some links, and what lies beside it; of none while the fabric's pages stand. -/
theorem applyStore_links (s : State) :
    ∃ u ps, ApplyAside s u ∧ ApplyAside (restartLinks u ps) (applyStore s) ∧ (FabricStands s → ps = []) := by
  have discarded : ∀ (u : State) (x : CfgSt), ApplyAside u (discardStaged { u with cfg := x }) := fun u x =>
    (setCfg_beside u x).trans (setCfg_beside _ _)
  unfold applyStore
  split
  · exact ⟨s, [], .refl s, discarded s _, fun _ => rfl⟩
  · next k c copy =>
    have staged : ApplyAside s (storeStaged s c.entries) := .of_kept (storeStaged_kept s c.entries)
    dsimp only
    split
    · exact ⟨s, [], .refl s, staged.trans (discarded _ _), fun _ => rfl⟩
    · obtain ⟨u, before, after⟩ := goLive_links { storeStaged s c.entries with cfg := { (storeStaged s c.entries).cfg with
        bootStatus := BitVec.ofNat 32 (k + (c.entries.filter fun e => !storable e.1).length * 8), bootWhere := 0 } }
      refine ⟨u, _, (staged.trans (setCfg_beside _ _)).trans before, after, fun stands => relinked_nil fun o fabric => ?_⟩
      obtain ⟨unstaged, elsewhere⟩ := stands
      calc shadow (storeStaged s c.entries) o
        _ = live s o := (shadow_storeStaged (elsewhere k c copy) s fabric).trans (unstaged o fabric)
        _ = live (storeStaged s c.entries) o := by rw [live_storeStaged]

theorem mget_map_value {α β : Type} (f : α → β) (m : NMap α) (d : α) (k : Nat) :
    mget (m.map fun p => (p.1, f p.2)) (f d) k = f (mget m d k) := by
  induction m with
  | nil => rfl
  | cons p m ih =>
    simp only [List.map_cons, mget, ih]
    split <;> rfl

theorem storeCopy_some {s : State} {k : Nat} {c : StoreCopy} (copy : storeCopy s = some (k, c)) : mget s.cfg.copies none k = some c := by
  have valid : ∀ {j : Nat} {a : StoreCopy},
      (match mget s.cfg.copies none j with | some c => if c.valid then some c else none | none => none) = some a →
        mget s.cfg.copies none j = some a := by
    intro j a h
    split at h
    · next c held =>
      split at h
      · rw [held, h]
      · exact absurd h (by simp)
    · exact absurd h (by simp)
  unfold storeCopy at copy
  dsimp only at copy
  split at copy
  · next a b first second =>
    split at copy
    · obtain ⟨rfl, rfl⟩ := Prod.mk.inj (Option.some.inj copy)
      exact valid second
    · obtain ⟨rfl, rfl⟩ := Prod.mk.inj (Option.some.inj copy)
      exact valid first
  · next a first _ =>
    obtain ⟨rfl, rfl⟩ := Prod.mk.inj (Option.some.inj copy)
    exact valid first
  · next b _ second =>
    obtain ⟨rfl, rfl⟩ := Prod.mk.inj (Option.some.inj copy)
    exact valid second
  · exact absurd copy (by simp)

/-- A copy of the store without its entries in the fabric's pages, in a scrub that keeps them (R371). -/
def scrubCopy (keepFabric : Bool) (x : Option StoreCopy) : Option StoreCopy :=
  x.map fun c => { c with entries := if keepFabric then c.entries.filter (fun e => !fabricPage e.1) else c.entries }

/-- The apply of a scrub restarts no link when it keeps the fabric's pages and none of their values is staged (R371). -/
theorem storeApply_links (s : State) (keepFabric : Bool) :
    ∃ u ps, ApplyAside s u ∧ ApplyAside (restartLinks u ps) (storeApply s keepFabric) ∧
      (keepFabric = true → (∀ o, fabricPage o = true → shadow s o = live s o) → ps = []) := by
  obtain ⟨u, ps, before, after, stands⟩ :=
    applyStore_links { s with cfg := { s.cfg with copies := s.cfg.copies.map fun p => (p.1, scrubCopy keepFabric p.2) } }
  refine ⟨u, ps, (setCfg_beside s _).trans before, after.trans (setCfg_beside _ _), fun keep unstaged => stands ⟨unstaged, ?_⟩⟩
  intro k c copy e mem
  have held := storeCopy_some copy
  change mget (s.cfg.copies.map fun p => (p.1, scrubCopy keepFabric p.2)) (scrubCopy keepFabric none) k = some c at held
  rw [mget_map_value] at held
  obtain ⟨c0, -, rfl⟩ := Option.map_eq_some_iff.1 held
  obtain ⟨-, elsewhere⟩ : e ∈ c0.entries ∧ fabricPage e.1 = false := by simpa [keep] using mem
  exact elsewhere

end Sys2Proof.Proofs
end

section
/-! A scrubbed part (R371): device memory reads zero, and no job, media task or POST ring holds anything. Links that restart at boot may
declare parts absent and plough what a context calls a job (R254, R258), but a plough finds nothing there to stop. -/

namespace Sys2Proof.Proofs

open Sys2Proof Sys2Proof.Machine Sys2Proof.Laws

/-- The part is scrubbed, and its retention log is as given. -/
structure Scrubbed (ret : List (List Byte)) (s : State) : Prop where
  dev : s.mem.dev = {}
  ret : s.tel.ret = ret
  scrubbing : s.sec.scrubbing = false
  man : ∀ c, (ctxOf s c).man = {}
  tasks : s.rink.tasks = []
  table : s.rink.table = []
  slots : s.post.slots = []

section

variable {C : List Part} {ret : List (List Byte)} {s t : State} (h : Scrubbed ret s)
include h

theorem Scrubbed.of_beside (k : ApplyAside s t) : Scrubbed ret t where
  dev := (k.kept.frame .dev (by decide)).trans h.dev
  ret := by rw [k.tel, h.ret]
  scrubbing := by rw [k.sec, h.scrubbing]
  man c := (k.jobs c).2.trans (h.man c)
  tasks := by rw [k.rink, h.tasks]
  table := by rw [k.rink, h.table]
  slots := by rw [k.kept.frame .post (by decide), h.slots]

theorem Scrubbed.of_jobs (k : Kept C s t) (man : ∀ c, (ctxOf t c).man = (ctxOf s c).man)
    (clear : Part.dev ∉ C ∧ Part.tel ∉ C ∧ Part.sec ∉ C ∧ Part.rink ∉ C ∧ Part.post ∉ C := by decide) : Scrubbed ret t := by
  obtain ⟨dev, tel, sec, rink, post⟩ := clear
  exact ⟨(k.frame .dev dev).trans h.dev, by rw [k.frame .tel tel, h.ret], by rw [k.frame .sec sec, h.scrubbing],
    fun c => (man c).trans (h.man c), by rw [k.frame .rink rink, h.tasks], by rw [k.frame .rink rink, h.table],
    by rw [k.frame .post post, h.slots]⟩

theorem Scrubbed.updCtx (d : Nat) {f : JobCtx → JobCtx} (man : ∀ j, (f j).man = j.man) : Scrubbed ret (updCtx s d f) :=
  h.of_jobs (updCtx_kept (List.Subset.refl _) (Kept.refl _ s)) fun c => by
    rw [ctxOf_updCtx]
    split
    · next own => subst own; exact man _
    · rfl

theorem Scrubbed.jobEvent (d : Nat) (e : Ev) : Scrubbed ret (jobEvent s d e) :=
  h.of_jobs (jobEvent_kept (List.Subset.refl _) (Kept.refl _ s)) fun c => by
    obtain ⟨q, ctx⟩ := ctxOf_jobEvent s d e
    rw [ctx]
    split
    · next own => subst own; rfl
    · rfl

/-! ### A plough finds nothing -/

theorem Scrubbed.heldCourses (c : Nat) : heldCourses s c = [] := by
  have none : coursesOf (ctxOf s c).man = [] := by rw [h.man]; decide
  rw [Machine.heldCourses, none]
  rfl

theorem Scrubbed.stopTiles (c : Nat) : Scrubbed ret (stopTiles s c) := by
  have same : Machine.stopTiles s c = { s with tile := { s.tile with bars := s.tile.bars.filter fun b => b.ctx ≠ c } } := by
    have ways : (ctxOf s c).man.bedWays = 0 := by rw [h.man]
    simp [Machine.stopTiles, h.heldCourses, ways, Machine.forEach]
  rw [same]
  exact ⟨h.dev, h.ret, h.scrubbing, h.man, h.tasks, h.table, h.slots⟩

theorem Scrubbed.updFab (c : Nat) (f : JobFab → JobFab) : Scrubbed ret (updFab s c f) := h.updCtx c fun _ => rfl

theorem Scrubbed.updTrn (c : Nat) (f : JobTrn → JobTrn) : Scrubbed ret (updTrn s c f) := h.updCtx c fun _ => rfl

theorem Scrubbed.stopFab (c : Nat) : Scrubbed ret (stopFab s c) := by
  unfold Machine.stopFab
  exact (h.updFab c _).of_beside (setFab_beside _ _)

theorem Scrubbed.stopEvents (c : Nat) : Scrubbed ret (stopEvents s c) := h.updCtx c fun _ => rfl

theorem Scrubbed.postHalt (c : Nat) : Scrubbed ret (postHalt s c) :=
  forEach_keeps (fun u d hu => by
    split
    · exact ⟨hu.dev, hu.ret, hu.scrubbing, hu.man, hu.tasks, hu.table, hu.slots⟩
    · exact hu) h

theorem Scrubbed.updSpill : Scrubbed ret (updSpill s) :=
  forEach_keeps (fun _ _ hu => ⟨hu.dev, hu.ret, hu.scrubbing, hu.man, hu.tasks, hu.table, hu.slots⟩) h

theorem Scrubbed.rinkStop (c : Nat) : Scrubbed ret (rinkStop s c) := by
  have entries : entriesOf s c = [] := by rw [entriesOf, h.table]; rfl
  simp only [Machine.rinkStop, h.tasks, List.filter_nil, List.flatMap_nil, forEach, List.foldl_nil, entries]
  exact Scrubbed.updSpill ⟨h.dev, h.ret, h.scrubbing, h.man, rfl, h.table, h.slots⟩

theorem Scrubbed.stopJob (c : Nat) : Scrubbed ret (stopJob s c) := by
  have stopped := ((h.stopTiles c).stopFab c).stopEvents c
  exact (stopped.postHalt c).rinkStop c

theorem Scrubbed.postDiscard (c : Nat) : Scrubbed ret (postDiscard s c) :=
  forEach_keeps (fun u d hu => by
    have empty : (postRing u d c).2 = 0 := by rw [postRing, hu.slots]; rfl
    dsimp only
    rw [if_pos empty]
    exact hu) h

theorem Scrubbed.parkPloughed (c mode aborted : Nat) : Scrubbed ret (parkPloughed s c mode aborted) := by
  have rests : Scrubbed ret (parked s c) := h.updCtx c fun _ => rfl
  exact rests.jobEvent c _

omit h in
theorem resetSems_nil (s : State) (c : Nat) : resetSems s c [] = s := rfl

theorem Scrubbed.abortNow (c : Nat) : Scrubbed ret (abortNow s c) := by
  have stopped := (h.stopJob c).postDiscard c
  unfold Machine.abortNow
  rw [h.heldCourses]
  dsimp only
  rw [resetSems_nil]
  split
  · exact stopped.updCtx c fun _ => rfl
  · exact (stopped.updTrn c _).parkPloughed c ..

omit h in
theorem ploughNow_abort_cases (s : State) (c cause : Nat) : ploughNow s c .abort cause = s ∨
    ploughNow s c .abort cause = abortNow (ploughing s c .abort cause) c := by
  unfold ploughNow
  dsimp only
  split
  · exact .inl rfl
  · rcases (ctxOf s c).plough with _ | (_ | _)
    · exact .inr rfl
    · exact .inr rfl
    · exact .inl rfl

theorem Scrubbed.ploughSpread (c cause : Nat) : Scrubbed ret (ploughSpread s c .abort cause) := by
  have told : Scrubbed ret (floodPlough s c 1 cause) := by
    unfold floodPlough
    dsimp only
    split
    · exact h
    · exact h.of_beside ((addKey_beside ..).trans (flood_beside ..))
  have begun : Scrubbed ret (ploughing (floodPlough s c 1 cause) c .abort cause) := told.updCtx c fun _ => rfl
  unfold Machine.ploughSpread
  dsimp only
  split
  · exact h
  · split
    · exact h
    · rw [if_pos rfl]
      rcases ploughNow_abort_cases (floodPlough s c 1 cause) c cause with stays | aborts
      · rw [stays]
        exact told
      · rw [aborts]
        exact begun.abortNow c

/-! ### Links that restart -/

theorem Scrubbed.absentNow (x cause b23 : Nat) (port : Option Nat) : Scrubbed ret (absentNow s x cause b23 port) := by
  have listed := setFab_beside s { s.fab with absent := s.fab.absent ++ [(x, cause)] }
  have spread : ∀ u, ApplyAside u (flood (refollow (cutLinks u x)) 0x10 0 (noticeBytes x b23 cause 0) port) := fun u =>
    ((cutLinks_beside u x).trans (refollow_beside _)).trans (flood_beside ..)
  have told : ∀ (p : Prop) [Decidable p] (u : State), ApplyAside u (if p then raisePart u 0x0106 { cause := cause, coords := x } else u) :=
    fun _ _ u => .ite (raisePart_beside ..) (.refl u)
  unfold Machine.absentNow
  split
  · exact h
  · dsimp only
    split
    · exact h
    · split
      · exact h.of_beside ((((addKey_beside s 0x10 x 0).trans (raisePart_beside _ 0x0107 { coords := x })).trans (spread _)).trans (told _ _))
      · refine forEach_keeps (fun u d hu => ?_) (h.of_beside ((listed.trans (spread _)).trans (told _ _)))
        split
        · exact hu.ploughSpread d 2
        · exact hu

theorem Scrubbed.portsOut (port cause : Nat) : Scrubbed ret (portsOut s port cause) := by
  unfold Machine.portsOut
  split
  · split
    · exact h
    · exact h.absentNow ..
  · exact h

theorem Scrubbed.restartLinks (ps : List Nat) : Scrubbed ret (restartLinks s ps) :=
  forEach_keeps (fun _ p hu => hu.portsOut p 1)
    (h.of_beside ((ApplyAside.forEach restartLink_beside ps s).trans (.forEach afterOut_beside _ _)))

theorem Scrubbed.storeApply (keepFabric : Bool) : Scrubbed ret (storeApply s keepFabric) := by
  obtain ⟨u, ps, before, after, -⟩ := storeApply_links s keepFabric
  exact ((h.of_beside before).restartLinks ps).of_beside after

end

end Sys2Proof.Proofs
end

section
/-! Tenancy (R370 to R374, R389, R397): the start of a scrub, its end as a new session and at boot, its failure, ranges that are zeroed,
and the answer of a refusal. -/

namespace Sys2Proof.Proofs

open Sys2Proof Sys2Proof.Machine Sys2Proof.Laws

variable {s : State}

/-! ### The start of a scrub -/

/-- ZERO is queued on every trowel (R372). -/
def trowelsZero (s : State) : State := forEach (List.range 12) s fun s k => updTrowel s k fun w => { w with zero := true }

theorem trowelsZero_kept (s : State) : Kept [.trw] s (trowelsZero s) :=
  forEach_kept (Kept.refl _ s) fun _ _ h => updTrowel_kept (List.Subset.refl _) h

theorem trowelsZero_zero (s : State) {k : Nat} (below : k < 12) : (mget (trowelsZero s).trw {} k).zero = true := by
  have set := (forEach_range (fun u k => (mget u.trw {} k).zero) (fun _ => True) (fun u k => updTrowel u k fun w => { w with zero := true })
    (fun _ => true) s trivial (fun u k _ _ => ⟨by simp [updTrowel], fun j other => by simp [updTrowel, other], trivial⟩) 12).2 k
  exact set.trans (if_pos below)

/-- A scrub begins with the keys discarded and the sessions ended (R371, R372). -/
theorem scrubStart_eq (s : State) : ∃ waiting, scrubStart s = { trowelsZero s with
    sec := { s.sec with scrubbing := true, devKey := none, loadKeys := [], sessions := [], waiting := waiting } } := by
  have same : (trowelsZero s).sec = s.sec := (trowelsZero_kept s).frame .sec (by decide)
  rw [← same]
  exact ⟨_, rfl⟩

/-- An accepted switch begins the scrub, with the configuration LOCKED and the Hardom busy (R370, R372). -/
theorem doTenantSwitch_starts (sound : s.sec.scrubFailed = false) (empty : noneLoaded s = true) (quiet : s.sec.xfer = []) (src : SecSource) :
    ∃ waiting, doTenantSwitch src s = { trowelsZero s with
      sec := { s.sec with scrubbing := true, devKey := none, loadKeys := [], sessions := [], waiting := waiting, busy := true, scrubFor := some src }
      cfg := { (trowelsZero s).cfg with state := 5, checking := false } } := by
  obtain ⟨waiting, starts⟩ := scrubStart_eq s
  refine ⟨waiting, ?_⟩
  unfold doTenantSwitch
  dsimp only
  rw [if_neg (by simp [sound, empty, quiet]), starts]

theorem doTenantSwitch_loaded (loaded : noneLoaded s = false) : doTenantSwitch .hrdm s = secRefuse s .hrdm :=
  if_pos (Or.inr (Or.inl (by simp [loaded])))

/-! ### The Hardom becomes free -/

theorem secFree_idle (idle : s.sec.waiting = []) : secFree s = { s with sec := { s.sec with busy := decide (s.sec.refusing ≠ []) } } := by
  rw [secFree, idle]
  rfl

theorem secFree_idle_kept {C : List Part} {z : State} (idle : s.sec.waiting = []) (hC : ([.sec] : List Part) ⊆ C) (h : Kept C z s) :
    Kept C z (secFree s) := by
  rw [secFree_idle idle]
  exact setSec_kept rfl hC h

/-! ### The end of a scrub -/

theorem ctxOf_scrubClear (s : State) (c : Nat) : ctxOf (scrubClear s) c = { state := (ctxOf s c).state } :=
  mget_map_value (fun j : JobCtx => ({ state := j.state } : JobCtx)) s.job.ctxs {} c

theorem scrubbed_scrubClear (s : State) : Scrubbed s.tel.ret (scrubClear s) :=
  ⟨rfl, rfl, rfl, fun c => by rw [ctxOf_scrubClear], rfl, rfl, rfl⟩

theorem devGet_scrubbed {ret : List (List Byte)} (h : Scrubbed ret s) (a : Nat) : devGet s a = 0 := by
  unfold devGet
  rw [h.dev]
  split <;> rfl

theorem spinAfterScrub_beside (old s : State) : ApplyAside s (spinAfterScrub old s) :=
  .of_kept (spinAfterScrub_kept (List.Subset.refl _) (Kept.refl _ s))

/-- The scrubbed part with the configuration store applied, in a tenant's scrub without the fabric's pages (R371, R373, R440). -/
def scrubApplied (s : State) (keepFabric : Bool) : State := spinAfterScrub s (storeApply (scrubClear s) keepFabric)

theorem scrubApplied_scrubbed (s : State) (keepFabric : Bool) : Scrubbed s.tel.ret (scrubApplied s keepFabric) :=
  ((scrubbed_scrubClear s).storeApply keepFabric).of_beside (spinAfterScrub_beside s _)

/-- The scrub of a tenant switch keeps the fabric's pages, so that its apply restarts no link (R371). -/
theorem scrubApplied_tenant (s : State) : ApplyAside (scrubClear s) (scrubApplied s true) := by
  obtain ⟨u, ps, before, after, stands⟩ := storeApply_links (scrubClear s) true
  rw [stands rfl fun _ _ => rfl] at after
  exact (before.trans after).trans (spinAfterScrub_beside s _)

/-- The completion of the tenant switch that asked for the scrub (R372). -/
def scrubAnswer (src : Option SecSource) (s : State) : State :=
  match src with
  | some .hrdm => hrdmResult s 1
  | some (.spdm p _) => vendorOk s p 5
  | none => s

theorem scrubAnswer_kept {C : List Part} {z : State} (src : Option SecSource) (hC : ([.out, .host, .sec] : List Part) ⊆ C) (h : Kept C z s) :
    Kept C z (scrubAnswer src s) := by
  unfold scrubAnswer
  split
  · exact hrdmResult_kept hC h
  · exact vendorOk_kept (List.Subset.trans (by decide) hC) h
  · exact h

theorem scrubAnswer_cfg (src : Option SecSource) (s : State) : (scrubAnswer src s).cfg = s.cfg :=
  (scrubAnswer_kept src (List.Subset.refl _) (Kept.refl _ s)).frame .cfg (by decide)

theorem scrubAnswer_sec (src : Option SecSource) (s : State) : ∃ r, (scrubAnswer src s).sec = { s.sec with result := r } := by
  unfold scrubAnswer
  split
  · exact ⟨1, hrdmResult_sec s 1⟩
  · exact ⟨_, rfl⟩
  · exact ⟨_, rfl⟩

/-- The part as the session begins (R372), before the completion. -/
def sessionOpened (s : State) : State :=
  { scrubApplied s true with
    sec := { (scrubApplied s true).sec with scrubFor := none }
    cfg := { (scrubApplied s true).cfg with state := 0 } }

theorem sessionOpened_kept (s : State) : Kept [.cfg, .sec] (scrubApplied s true) (sessionOpened s) := by
  unfold sessionOpened
  exact setCfg_kept (by decide) (setSec_kept (x := { (scrubApplied s true).sec with scrubFor := none }) rfl (by decide) (Kept.refl _ _))

/-- The end of a tenant's scrub (R371, R372): what it clears, the apply beside it, and its completion. -/
theorem scrubDone_tenant (tenant : s.boot.stage ≠ 7) (idle : s.sec.waiting = []) :
    ∃ v, ApplyAside (scrubClear s) v ∧ Kept [.out, .host, .cfg, .sec] v (scrubDone s) ∧ (scrubDone s).cfg.state = 0 ∧
      ∃ keys r b, (scrubDone s).sec = { (scrubClear s).sec with loadKeys := keys, scrubFor := none, result := r, busy := b } := by
  have acts : scrubDone s = secFree (scrubAnswer s.sec.scrubFor (sessionOpened s)) := if_neg tenant
  have beside := scrubApplied_tenant s
  obtain ⟨r, answered⟩ := scrubAnswer_sec s.sec.scrubFor (sessionOpened s)
  have sec : (scrubAnswer s.sec.scrubFor (sessionOpened s)).sec =
      { (scrubClear s).sec with loadKeys := (scrubApplied s true).sec.loadKeys, scrubFor := none, result := r } := by
    rw [answered, sessionOpened, beside.sec]
  have waits : (scrubAnswer s.sec.scrubFor (sessionOpened s)).sec.waiting = [] := by
    rw [sec]
    exact idle
  refine ⟨_, beside, ?_, ?_, ?_⟩
  · rw [acts]
    exact secFree_idle_kept waits (by decide) (scrubAnswer_kept _ (by decide) (kept_widen (sessionOpened_kept s) (by decide)))
  · rw [acts, secFree_idle waits]
    exact congrArg CfgSt.state (scrubAnswer_cfg s.sec.scrubFor (sessionOpened s))
  · rw [acts, secFree_idle waits, sec]
    exact ⟨_, _, _, rfl⟩

/-- The scrub of a boot clears as a tenant's does, and the store is applied with the fabric's pages (R373, R440). -/
theorem scrubDone_boot (booting : s.boot.stage = 7) :
    Scrubbed s.tel.ret (scrubDone s) ∧ (scrubDone s).boot.stage = 8 ∧ (scrubDone s).cfg.state = 5 := by
  obtain ⟨dev, ret, scrubbing, man, tasks, table, slots⟩ := scrubApplied_scrubbed s false
  have acts : scrubDone s = { scrubApplied s false with
    boot := { (scrubApplied s false).boot with stage := 8 }, cfg := { (scrubApplied s false).cfg with state := 5 } } := if_pos booting
  rw [acts]
  exact ⟨⟨dev, ret, scrubbing, man, tasks, table, slots⟩, rfl, rfl⟩

theorem heldReports_idle (idle : s.sec.waiting = []) : heldReports s = [] := by
  rw [heldReports, idle]
  rfl

theorem filterWaiting_idle (idle : s.sec.waiting = []) (f : Instr → Bool) :
    { s with sec := { s.sec with waiting := s.sec.waiting.filter f } } = s := by
  have same : s.sec.waiting.filter f = s.sec.waiting := by rw [idle]; rfl
  rw [same]

section

variable (scrub : s.sec.scrubbing = true) (sound : s.sec.scrubFailed = false) (idle : s.sec.waiting = [])
include scrub sound idle

/-- With no request waiting, the end of a scrub answers no report. -/
theorem scrubCompleteEffect_succeeds : scrubCompleteEffect none s = scrubDone s := by
  rw [scrubCompleteEffect, if_neg (by simp [scrub, sound])]
  simp only [heldReports_idle idle, filterWaiting_idle idle]
  rfl

theorem scrubCompleteEffect_fails (k : StackId) (a : Nat) : scrubCompleteEffect (some (k, a)) s = scrubFail k a s := by
  rw [scrubCompleteEffect, if_neg (by simp [scrub, sound])]
  simp only [heldReports_idle idle, filterWaiting_idle idle]

end

/-- A stack has reported a write failure (R374). -/
def writeFailed (s : State) (k : StackId) (a : Nat) : State :=
  raisePart { s with sec := { s.sec with scrubFailed := true } } 0x010A { inst := k.val, b := a }

theorem writeFailed_kept {C : List Part} {z : State} {k : StackId} {a : Nat} (hC : ([.out, .hostMem, .host, .sec] : List Part) ⊆ C)
    (h : Kept C z s) : Kept C z (writeFailed s k a) := by
  unfold writeFailed
  exact raisePart_kept (List.Subset.trans (by decide) hC) (setSec_kept rfl (List.Subset.trans (by decide) hC) h)

theorem writeFailed_sec (s : State) (k : StackId) (a : Nat) : (writeFailed s k a).sec = { s.sec with scrubFailed := true } :=
  (raisePart_kept (List.Subset.refl _) (Kept.refl _ _)).frame .sec (by decide)

theorem scrubFail_eq (s : State) (k : StackId) (a : Nat) : scrubFail k a s = secFree (writeFailed s k a) := rfl

/-- A write failure keeps the part in SCRUBBING (R374). -/
theorem scrubFail_sec (idle : s.sec.waiting = []) (k : StackId) (a : Nat) :
    ∃ b, (scrubFail k a s).sec = { s.sec with scrubFailed := true, busy := b } := by
  have waits : (writeFailed s k a).sec.waiting = [] := by rw [writeFailed_sec, idle]
  rw [scrubFail_eq, secFree_idle waits, writeFailed_sec]
  exact ⟨_, rfl⟩

theorem scrubFail_idle_kept (idle : s.sec.waiting = []) (k : StackId) (a : Nat) :
    Kept [.out, .hostMem, .host, .sec] s (scrubFail k a s) := by
  rw [scrubFail_eq]
  exact secFree_idle_kept (by rw [writeFailed_sec, idle]) (by decide) (writeFailed_kept (List.Subset.refl _) (Kept.refl _ s))

/-! ### Sealed ranges -/

/-- The one range that waits is zeroed, and is free (R389). -/
theorem sealedRangeZeroedEffect_one {c a n : Nat} (waits : s.job.zeroing = [(c, [(a, n)])]) : sealedRangeZeroedEffect c s =
    { devWrite s none a (List.replicate n 0) with job := { s.job with zeroing := [] } } := by
  simp [sealedRangeZeroedEffect, waits, forEach, devWrite]

/-! ### Refusals -/

/-- The answer of a refused HRDM command, counted (R397). -/
def hrdmRefused (s : State) (rest : List Refused) : State := bump (hrdmResult { s with sec := { s.sec with refusing := rest } } 2) 0x8120 1

theorem hrdmRefused_sec (s : State) (rest : List Refused) : (hrdmRefused s rest).sec = { s.sec with refusing := rest, result := 2 } :=
  hrdmResult_sec _ 2

theorem hrdmRefused_kept (s : State) (rest : List Refused) : Kept [.out, .host, .tel, .sec] s (hrdmRefused s rest) :=
  bump_kept (by decide) (hrdmResult_kept (by decide) (setSec_kept rfl (by decide) (Kept.refl _ s)))

/-- One refusal is counted, under no cause (R397). -/
theorem hrdmRefused_count (s : State) (rest : List Refused) :
    mget (hrdmRefused s rest).tel.cnt 0 0x8120 = satAdd64 (mget s.tel.cnt 0 0x8120) 1 := by
  have tel : (hrdmResult { s with sec := { s.sec with refusing := rest } } 2).tel = s.tel :=
    (hrdmResult_kept (List.Subset.refl _) (Kept.refl _ _)).frame .tel (by decide)
  rw [hrdmRefused, counter_bump, if_pos rfl, tel]

/-- The answer of the last refusal frees the Hardom; while others are due it stays busy (R397). -/
theorem secRefusedEffect_hrdm {rest : List Refused} (due : s.sec.refusing = .hrdm :: rest) (calm : s.sec.scrubbing = false) :
    secRefusedEffect s = secFree (hrdmRefused s rest) := by
  have still : ¬ ((hrdmRefused s rest).sec.scrubbing = true ∧ ¬ (hrdmRefused s rest).sec.scrubFailed = true) := by
    simp [hrdmRefused_sec, calm]
  unfold secRefusedEffect
  rw [due]
  exact if_neg still

/-! ### The obligation -/

/-- Settles O52: a switch starts the scrub or is refused; what a scrub leaves is its clearing, on which the apply of the store and the
ploughs of links that restart find nothing to move. -/
theorem tenancyAndScrub : Obligations.TenancyAndScrub := by
  unfold Obligations.TenancyAndScrub
  refine ⟨fun s up free sound empty quiet => ?_, fun s p n up free calm sound empty quiet => ?_,
    fun s up free loaded => congrArg Host.Outcome.next ((hrdmCommand_free up free 4 _).trans (doTenantSwitch_loaded loaded)),
    fun s up busy => congrArg Host.Outcome.next (hrdmCommand_busy up busy 4 _), fun s scrub sound idle tenant => ?_,
    fun s scrub sound booting idle => ?_, fun s k a scrub sound idle => ?_, fun s c a n waits fits => ?_,
    fun s rest due calm idle => ?_⟩
  · obtain ⟨w, acts⟩ := doTenantSwitch_starts sound empty quiet .hrdm
    refine ⟨_, congrArg Host.Outcome.next ((hrdmCommand_free up free 4 _).trans acts), rfl, rfl, rfl, rfl, rfl, rfl,
      fun k below => by dsimp only; exact trowelsZero_zero s below, rfl, rfl, ?_⟩
    rw [← acts]
    exact (doTenantSwitch_kept (by decide) (Kept.refl _ s)).frame
  · obtain ⟨w, acts⟩ := doTenantSwitch_starts sound empty quiet (.spdm p n)
    refine ⟨_, congrArg Host.Outcome.next ((secRequest_free up free calm (.tenantSwitch (.spdm p n))).trans acts), rfl, rfl, rfl, rfl,
      fun k below => by dsimp only; exact trowelsZero_zero s below, ?_⟩
    rw [← acts]
    exact (doTenantSwitch_kept (by decide) (Kept.refl _ s)).frame
  · obtain ⟨v, beside, after, cfg, keys, r, b, sec⟩ := scrubDone_tenant tenant idle
    have cleared := (scrubbed_scrubClear s).of_beside beside
    have dev : (scrubDone s).mem.dev = v.mem.dev := after.frame .dev (by decide)
    have job : (scrubDone s).job = v.job := after.frame .job (by decide)
    have tel : (scrubDone s).tel = v.tel := after.frame .tel (by decide)
    have vreg : (scrubDone s).tile.vreg = (scrubClear s).tile.vreg :=
      (after.frame .vreg (by decide)).trans (beside.kept.frame .vreg (by decide))
    refine ⟨_, congrArg Host.Outcome.next (scrubCompleteEffect_succeeds scrub sound idle), by rw [sec]; rfl, by rw [sec]; rfl, cfg,
      fun a => (devGet_of_dev dev a).trans (devGet_scrubbed cleared a), fun i => by rw [vreg]; rfl, fun k _ i _ => ?_, by rw [sec]; rfl,
      by rw [sec]; rfl, by rw [sec]; rfl, by rw [job, beside.zeroing]; rfl, fun c _ => ?_, by rw [sec]; rfl, by rw [sec]; rfl,
      by rw [tel, cleared.ret], by rw [tel, beside.tel]; rfl⟩
    · rw [semGet_of_sem (after.frame .sem (by decide)), semGet_of_sem (beside.kept.frame .sem (by decide))]
      rfl
    · rw [ctxOf_of_job job, (beside.jobs c).1, ctxOf_scrubClear]
      exact ⟨rfl, cleared.man c⟩
  · obtain ⟨cleared, stage, cfg⟩ := scrubDone_boot booting
    exact ⟨_, congrArg Host.Outcome.next (scrubCompleteEffect_succeeds scrub sound idle), stage, cleared.scrubbing, cfg,
      devGet_scrubbed cleared, cleared.ret⟩
  · obtain ⟨b, sec⟩ := scrubFail_sec idle k a
    exact ⟨_, congrArg Host.Outcome.next (scrubCompleteEffect_fails scrub sound idle k a), by rw [sec]; exact scrub, by rw [sec],
      by rw [sec], (scrubFail_idle_kept idle k a).frame⟩
  · have acts := sealedRangeZeroedEffect_one waits
    refine ⟨_, congrArg Host.Outcome.next acts, fun i below => ?_, fun x off => ?_, rfl, by
      rw [← acts]; exact (sealedRangeZeroedEffect_kept (by decide) (Kept.refl _ s)).frame⟩
    · refine (devGet_of_dev rfl _).trans ((devGet_devWrite_direct (keep := none) (a := a) (bs := List.replicate n 0) ?_ s ?_).trans ?_)
      · simpa [Nat.add_comm] using fits
      · omega
      · simp [below]
    · exact (devGet_of_dev rfl x).trans (devGet_devWrite s none a _ x fun i below => off i (by simpa using below))
  · have waits : (hrdmRefused s rest).sec.waiting = [] := by rw [hrdmRefused_sec, idle]
    have acts := (secRefusedEffect_hrdm due calm).trans (secFree_idle waits)
    refine ⟨_, congrArg Host.Outcome.next acts, by rw [hrdmRefused_sec], by rw [hrdmRefused_sec], by simp [hrdmRefused_sec],
      hrdmRefused_count s rest, ?_⟩
    rw [← secFree_idle waits]
    exact (secFree_idle_kept waits (by decide) (hrdmRefused_kept s rest)).frame

end Sys2Proof.Proofs
end

section
/-! Sleep and wake (R404, R422): what the sleep command leaves, and the ways out of LOW_POWER before and after READY. -/

namespace Sys2Proof.Proofs

open Sys2Proof Sys2Proof.Machine Sys2Proof.Laws

variable {s : State}

theorem pwrSet_kept {C : List Part} {z : State} {x : PwrSt} (hC : ([.pwr] : List Part) ⊆ C) (h : Kept C z s) :
    Kept C z { s with pwr := x } := Kept.put h

/-! ### Sleeping -/

/-- Every pair gated with no wake waiting, and every stack in self-refresh. -/
def sleeping (s : State) : State := selfRefreshAll (gateAll s) true

theorem sleeping_kept (s : State) : Kept [.mem, .pwr] s (sleeping s) :=
  selfRefreshAll_kept (by decide) (gateAll_kept (by decide) (Kept.refl _ s))

theorem sleeping_pwr (s : State) : (sleeping s).pwr = (gateAll s).pwr :=
  (selfRefreshAll_kept (List.Subset.refl _) (Kept.refl _ _)).frame .pwr (by decide)

theorem sleeping_gated (s : State) {p : Nat} (pair : p < 16) : (pairOf (sleeping s) p).gated = true := by
  rw [pairOf, sleeping_pwr, ← pairOf, gateAll_pair, if_pos pair]

theorem sleeping_wakes (s : State) : (sleeping s).pwr.wakes = [] := by rw [sleeping_pwr, gateAll_wakes]

theorem sleeping_refreshed (s : State) {k : Nat} (stack : k < 12) : (stackOf (sleeping s) k).selfRefresh = true := by
  rw [sleeping, selfRefreshAll_stack, if_pos stack]

/-- The part in LOW_POWER with no wake commanded. -/
def inLowPower (s : State) : State := { s with pwr := { s.pwr with state := .lowPower, waking := false } }

/-- Accepted while ACTIVE with no job loaded (R404). -/
theorem sleepEffect_accepted (up : isReady s = true) (active : s.pwr.state = .active) (empty : noneLoaded s = true) :
    sleepEffect s = inLowPower (sleeping s) := by
  rw [sleepEffect, if_neg (by simp [up]), if_pos ⟨active, empty⟩, inLowPower, sleeping]

theorem sleepEffect_loaded (up : isReady s = true) (loaded : noneLoaded s = false) :
    sleepEffect s = accessErr s 0x4000 8 4 0x10C := by
  rw [sleepEffect, if_neg (by simp [up]), if_neg (by simp [loaded])]

/-! ### Going ACTIVE -/

/-- The power controller of a part that has left LOW_POWER. -/
def activePwr (s : State) : PwrSt := { s.pwr with state := .active, waking := false }

/-- Outside the boot the stacks leave self-refresh, and nothing else is done. -/
theorem goActive_booted (booted : s.boot.stage ≠ 3) : goActive s = selfRefreshAll { s with pwr := activePwr s } false := if_neg booted

theorem goActive_booted_pwr (booted : s.boot.stage ≠ 3) : (goActive s).pwr = activePwr s := by
  rw [goActive_booted booted]
  exact (selfRefreshAll_kept (List.Subset.refl _) (Kept.refl _ _)).frame .pwr (by decide)

theorem goActive_booted_stack (booted : s.boot.stage ≠ 3) {k : Nat} (stack : k < 12) : (stackOf (goActive s) k).selfRefresh = false := by
  rw [goActive_booted booted, selfRefreshAll_stack, if_pos stack]

theorem goActive_booted_kept {C : List Part} {z : State} (booted : s.boot.stage ≠ 3) (hC : ([.mem, .pwr] : List Part) ⊆ C) (h : Kept C z s) :
    Kept C z (goActive s) := by
  rw [goActive_booted booted]
  exact selfRefreshAll_kept (Part.subs hC (by decide)) (pwrSet_kept (Part.subs hC (by decide)) h)

/-- The waiting boot step goes on with its BIST and its links, which leave power and boot as they are (R434). -/
theorem goActive_boot_kept (boots : s.boot.stage = 3) :
    Kept [.out, .hostMem, .tile, .fab, .host] { s with pwr := activePwr s, boot := { s.boot with stage := 5 } } (goActive s) := by
  have goes : goActive s =
      forEach (List.range 12) (bistFences { s with pwr := activePwr s, boot := { s.boot with stage := 5 } }) restartLink := if_pos boots
  rw [goes]
  exact forEach_kept (bistFences_kept (by decide) (Kept.refl _ _)) fun _ _ h => restartLink_kept (by decide) h

theorem tryExit_goes (waking : s.pwr.waking = true) (alive : s.pwr.dead = false) (coolant : s.pwr.coolant = true)
    (low : s.pwr.state = .lowPower) (cool : coolEnough s = true) : tryExit s = goActive s :=
  if_pos ⟨waking, by simp [alive], coolant, low, cool⟩

/-! ### Wake and exit -/

/-- A wake has been commanded (R404). -/
def wakeWaits (s : State) : State := { s with pwr := { s.pwr with waking := true } }

/-- COOLANT_OK is asserted (R422). -/
def coolantOk (s : State) : State := { s with pwr := { s.pwr with coolant := true } }

theorem wakeEffect_asleep (up : isReady s = true) (low : s.pwr.state = .lowPower) (alive : s.pwr.dead = false) :
    wakeEffect s = tryExit (wakeWaits s) := by
  rw [wakeEffect, if_neg (by simp [up]), if_pos ⟨low, by simp [alive]⟩, wakeWaits]

theorem wakeEffect_waits (up : isReady s = true) (low : s.pwr.state = .lowPower) (alive : s.pwr.dead = false)
    (unmet : s.pwr.coolant = false ∨ coolEnough s = false) : wakeEffect s = wakeWaits s := by
  rw [wakeEffect_asleep up low alive]
  refine if_neg ?_
  rintro ⟨-, -, coolant, -, cool⟩
  rcases unmet with warm | hot
  · exact Bool.false_ne_true (warm.symm.trans coolant)
  · exact Bool.false_ne_true (hot.symm.trans cool)

theorem lowPowerExitEffect_goes (waking : s.pwr.waking = true) (alive : s.pwr.dead = false) (low : s.pwr.state = .lowPower)
    (cool : coolEnough s = true) : lowPowerExitEffect s = goActive (coolantOk s) :=
  tryExit_goes (s := coolantOk s) waking alive rfl low cool

theorem lowPowerExitEffect_stays
    (unmet : s.pwr.waking = false ∨ s.pwr.dead = true ∨ s.pwr.state ≠ .lowPower ∨ coolEnough s = false) :
    lowPowerExitEffect s = coolantOk s := by
  refine if_neg ?_
  rintro ⟨waking, alive, -, low, cool⟩
  rcases unmet with calm | dead | other | hot
  · exact Bool.false_ne_true (calm.symm.trans waking)
  · exact alive dead
  · exact other low
  · exact Bool.false_ne_true (hot.symm.trans cool)

theorem booted_of_ready (up : isReady s = true) : s.boot.stage ≠ 3 := by
  rw [of_decide_eq_true up]
  decide

/-! ### The obligation -/

/-- Settles O6: a way out of LOW_POWER that is open is going ACTIVE, one that is not leaves the request waiting. -/
theorem sleepAndWake : Obligations.SleepAndWake := by
  unfold Obligations.SleepAndWake
  refine ⟨fun s up active empty => ?_, fun s up loaded => congrArg Host.Outcome.next (sleepEffect_loaded up loaded),
    fun s up low alive coolant cool => ?_, fun s up low alive unmet => ?_, fun s waking alive low cool booted => ?_,
    fun s waking alive low cool boots => ?_, fun s unmet => ?_⟩
  · have effect := sleepEffect_accepted up active empty
    have gated : ∀ p < 16, (pairOf (sleeping s) p).gated = true := fun p => sleeping_gated s
    have wakes := sleeping_wakes s
    have refreshed : ∀ k < 12, (stackOf (sleeping s) k).selfRefresh = true := fun k => sleeping_refreshed s
    have kept := sleeping_kept s
    generalize sleeping s = u at effect gated wakes refreshed kept
    exact ⟨_, congrArg Host.Outcome.next effect, rfl, gated, wakes, refreshed, (pwrSet_kept (by decide) kept).frame⟩
  · have booted : (wakeWaits s).boot.stage ≠ 3 := booted_of_ready up
    have effect : wakeEffect s = goActive (wakeWaits s) :=
      (wakeEffect_asleep up low alive).trans (tryExit_goes (s := wakeWaits s) rfl alive coolant low cool)
    exact ⟨_, congrArg Host.Outcome.next effect, congrArg PwrSt.state (goActive_booted_pwr booted),
      fun k => goActive_booted_stack booted,
      (goActive_booted_kept booted (List.Subset.refl _) (pwrSet_kept (by decide) (Kept.refl _ s))).frame⟩
  · exact ⟨_, congrArg Host.Outcome.next (wakeEffect_waits up low alive unmet), low, rfl,
      (pwrSet_kept (List.Subset.refl _) (Kept.refl _ s)).frame⟩
  · have booted : (coolantOk s).boot.stage ≠ 3 := booted
    have pwr := goActive_booted_pwr booted
    exact ⟨_, congrArg Host.Outcome.next (lowPowerExitEffect_goes waking alive low cool), congrArg PwrSt.state pwr,
      congrArg PwrSt.coolant pwr, congrArg PwrSt.waking pwr,
      (goActive_booted_kept booted (List.Subset.refl _) (pwrSet_kept (by decide) (Kept.refl _ s))).frame⟩
  · have kept := goActive_boot_kept (s := coolantOk s) boots
    have pwr := kept.frame .pwr (by decide)
    exact ⟨_, congrArg Host.Outcome.next (lowPowerExitEffect_goes waking alive low cool), congrArg PwrSt.state pwr,
      congrArg PwrSt.coolant pwr, congrArg BootSt.stage (kept.frame .boot (by decide))⟩
  · exact ⟨_, congrArg Host.Outcome.next (lowPowerExitEffect_stays unmet), rfl, rfl,
      (pwrSet_kept (List.Subset.refl _) (Kept.refl _ s)).frame⟩

end Sys2Proof.Proofs
end

section
/-! Gating and the wake governor (R405, R411 to R413): a gated pair leaves the governor's queue; a release starts the pair at
the queue's front, or, with the queue empty, raises every clock by one step towards its target. -/

namespace Sys2Proof.Proofs

open Sys2Proof Sys2Proof.Machine Sys2Proof.Laws

variable {s : State} {p : Nat}

/-! ### Gating -/

/-- The clock stops and the rails fall to 0.50 V, that is 200 steps of 2.5 mV (R405). -/
theorem pairGateEffect_gates (may : mayGate s p = true) :
    pairGateEffect p s =
      { updPair s p fun x => { x with gated := true, setpoint := 200 } with
        pwr := { (updPair s p fun x => { x with gated := true, setpoint := 200 }).pwr with
          wakes := s.pwr.wakes.filter fun q => decide (q ≠ p) } } := if_pos may

theorem pairGateEffect_refuses (mayNot : mayGate s p = false) : pairGateEffect p s = s := if_neg (by simp [mayNot])

theorem pairOf_pairGateEffect (may : mayGate s p = true) (q : Nat) :
    pairOf (pairGateEffect p s) q = if q = p then { pairOf s p with gated := true, setpoint := 200 } else pairOf s q := by
  rw [pairGateEffect_gates may, pairOf_wakes, pairOf_updPair]

theorem not_mem_wakes_pairGateEffect (may : mayGate s p = true) : p ∉ (pairGateEffect p s).pwr.wakes := by
  rw [pairGateEffect_gates may]
  simp

/-! ### Starting a clock -/

theorem governorReleaseEffect_idle (idle : s.pwr.state ≠ .active) : governorReleaseEffect s = s := if_pos idle

/-- The pair at the front of the queue starts (R411). -/
theorem governorReleaseEffect_starts {rest : List Nat} (active : s.pwr.state = .active) (queue : s.pwr.wakes = p :: rest) :
    governorReleaseEffect s = startPair { s with pwr := { s.pwr with wakes := rest } } p := by
  simp [governorReleaseEffect, active, queue]

/-- A pair starts at its target (R412). -/
theorem pairOf_startPair (s : State) (p q : Nat) :
    pairOf (startPair s p) q =
      if q = p then
        { pairOf s p with
          gated := false, clk := clockTarget s p, setpoint := (tableEntry s p (clockTarget s p)).1, guard := 0, stretch := 0, quiet := 0 }
      else pairOf s q := pairOf_updPair ..

/-! ### Raising the clocks -/

/-- A pair whose clock has risen by one step, unless it is gated or at its target (R413). -/
def raised (s : State) (p : Nat) : Pair :=
  { pairOf s p with
    clk := if (pairOf s p).gated ∨ clockTarget s p ≤ (pairOf s p).clk then (pairOf s p).clk else (pairOf s p).clk + 1 }

/-- The raise of one pair. -/
def raiseClock (s : State) (p : Nat) : State :=
  if (pairOf s p).gated ∨ clockTarget s p ≤ (pairOf s p).clk then s else updPair s p fun x => { x with clk := x.clk + 1 }

theorem pairOf_raiseClock (s : State) (p q : Nat) : pairOf (raiseClock s p) q = if q = p then raised s p else pairOf s q := by
  by_cases still : (pairOf s p).gated ∨ clockTarget s p ≤ (pairOf s p).clk
  · rw [raiseClock, raised, if_pos still, if_pos still]
    split
    · next same => rw [same]
    · rfl
  · rw [raiseClock, raised, if_neg still, if_neg still, pairOf_updPair]

/-- What every change of a single pair keeps, a raise keeps. -/
theorem raiseClock_keeps {P : State → Prop} (keeps : ∀ t p f, P t → P (updPair t p f)) {s : State} (start : P s) (p : Nat) :
    P (raiseClock s p) := by
  unfold raiseClock
  split
  · exact start
  · exact keeps _ _ _ start

theorem raised_congr {s t : State} (limits : SameLimits s t) {p : Nat} (pair : pairOf t p = pairOf s p) : raised t p = raised s p := by
  rw [raised, raised, pair, limits.target pair]

/-- Raising all clocks raises each of them as it stood. -/
theorem raiseClocks_pairs (s : State) (p : Nat) :
    pairOf (forEach (List.range 16) s raiseClock) p = if p < 16 then raised s p else pairOf s p := by
  refine (forEach_range pairOf (SameLimits s) raiseClock (raised s) s (SameLimits.refl s) (fun t p limits pair => ⟨?_, fun q other => ?_, ?_⟩)
    16).2 p
  · rw [pairOf_raiseClock, if_pos rfl, raised_congr limits pair]
  · rw [pairOf_raiseClock, if_neg other]
  · exact raiseClock_keeps (fun _ p f h => h.updPair p f) limits p

theorem governorReleaseEffect_raises (active : s.pwr.state = .active) (empty : s.pwr.wakes = []) :
    governorReleaseEffect s = forEach (List.range 16) (lowerClocks s) raiseClock := by
  rw [governorReleaseEffect, if_neg (by simp [active]), empty]
  rfl

theorem governorReleaseEffect_raises_wakes (active : s.pwr.state = .active) (empty : s.pwr.wakes = []) :
    (governorReleaseEffect s).pwr.wakes = [] := by
  have lowered : (lowerClocks s).pwr.wakes = [] := lowerClocks_keeps (P := fun t => t.pwr.wakes = []) empty fun _ _ _ h => h
  rw [governorReleaseEffect_raises active empty]
  exact forEach_keeps (P := fun t => t.pwr.wakes = []) (fun _ p h => raiseClock_keeps (P := fun t => t.pwr.wakes = []) (fun _ _ _ h => h) h p)
    lowered

/-- The clocks are lowered to what the limits allow before they are raised. -/
theorem pairOf_governorReleaseEffect_raises (active : s.pwr.state = .active) (empty : s.pwr.wakes = []) (pair : p < 16) :
    pairOf (governorReleaseEffect s) p =
      { pairOf s p with
        clk := if (pairOf s p).gated ∨ clockTarget s p ≤ effClock s p then effClock s p else effClock s p + 1 } := by
  rw [governorReleaseEffect_raises active empty, raiseClocks_pairs, if_pos pair, raised, (lowerClocks_pairs s).2, if_pos pair,
    lowerClocks_target]

/-! ### The obligation -/

/-- Settles O7: gating and a clock start write one pair each; the raises are pair by pair, under limits that do not depend on the
clocks. -/
theorem gatingAndGovernor : Obligations.GatingAndGovernor := by
  unfold Obligations.GatingAndGovernor
  refine ⟨fun s p may => ?_, fun s p mayNot => congrArg Host.Outcome.next (pairGateEffect_refuses mayNot),
    fun s p rest active queue => ?_, fun s active empty => ?_, fun s idle => congrArg Host.Outcome.next (governorReleaseEffect_idle idle)⟩
  · have pair := pairOf_pairGateEffect may
    exact ⟨_, rfl, by rw [pair, if_pos rfl], by rw [pair, if_pos rfl], fun q other => by rw [pair, if_neg other],
      not_mem_wakes_pairGateEffect may, (pairGateEffect_kept (List.Subset.refl _) (Kept.refl _ s)).frame⟩
  · have pair := pairOf_startPair { s with pwr := { s.pwr with wakes := rest } } p
    exact ⟨_, congrArg Host.Outcome.next (governorReleaseEffect_starts active queue), rfl, by rw [pair, if_pos rfl],
      by rw [pair, if_pos rfl]; rfl, fun q other => by rw [pair, if_neg other, pairOf_wakes],
      (startPair_kept (List.Subset.refl _) (pwrSet_kept (List.Subset.refl _) (Kept.refl _ s))).frame⟩
  · refine ⟨_, rfl, governorReleaseEffect_raises_wakes active empty, fun p pair => ?_,
      (governorReleaseEffect_kept (List.Subset.refl _) (Kept.refl _ s)).frame⟩
    rw [pairOf_governorReleaseEffect_raises active empty pair]
    exact ⟨rfl, rfl⟩

end Sys2Proof.Proofs
end

section
/-! Thermal limits and the adaptive loops (R415 to R419): what a hot reading takes from a pair, a stack and the IOD, and what a
stretch, a window of the voltage loop and the codes of memory and links move. -/

namespace Sys2Proof.Proofs

open Sys2Proof Sys2Proof.Machine Sys2Proof.Laws

variable {s : State} {p q : Nat}

/-! ### What THROTTLE_N and its event leave alone -/

theorem pairOf_of_pairs {s t : State} (pairs : t.pwr.pairs = s.pwr.pairs) (p : Nat) : pairOf t p = pairOf s p := by
  rw [pairOf, pairs, pairOf]

theorem stackOf_of_mem {s t : State} (same : Part.same .mem s t) (k : Nat) : stackOf t k = stackOf s k := by
  have mem : t.mem = { s.mem with dev := t.mem.dev, scratch := t.mem.scratch } := same
  rw [stackOf, mem, stackOf]

/-- Of the power controller only THROTTLE_N follows (R423). -/
theorem throttleOut_pwr (s : State) : (throttleOut s).pwr = { s.pwr with throttle := restricted s } := by
  by_cases same : restricted s = s.pwr.throttle
  · rw [throttleOut, if_pos same, same]
  · rw [throttleOut, if_neg same]
    exact (blockEvent_kept (List.Subset.refl _) (Kept.refl _ _)).frame .pwr (by decide)

theorem pairOf_throttleOut (s : State) (p : Nat) : pairOf (throttleOut s) p = pairOf s p :=
  pairOf_of_pairs (by rw [throttleOut_pwr]) p

theorem stackOf_throttleOut (s : State) (k : Nat) : stackOf (throttleOut s) k = stackOf s k :=
  stackOf_of_mem ((throttleOut_kept (List.Subset.refl _) (Kept.refl _ s)).frame .mem (by decide)) k

/-- The event of an episode goes to the host (R457). -/
theorem throttleEvent_told (s : State) (begins : Bool) (unit inst q : Nat) :
    Kept [.out, .hostMem, .host] s (throttleEvent s begins unit inst q) := throttleEvent_kept (List.Subset.refl _) (Kept.refl _ s)

theorem throttleEvent_pwr (s : State) (begins : Bool) (unit inst q : Nat) : (throttleEvent s begins unit inst q).pwr = s.pwr :=
  (throttleEvent_told ..).frame .pwr (by decide)

theorem stackOf_throttleEvent (s : State) (begins : Bool) (unit inst q k : Nat) :
    stackOf (throttleEvent s begins unit inst q) k = stackOf s k :=
  stackOf_of_mem ((throttleEvent_told ..).frame .mem (by decide)) k

/-! ### Thermal limits -/

/-- From 100 °C on a pair is hot and its limit is one step below the clock it runs at (R418). -/
def heated (s : State) (p q : Nat) : State :=
  updPair s p fun x => { x with temp := q, hot := true, therm := max 48 (min (pairOf s p).therm (effClock s p) - 1) }

theorem thermPair_hot (hot : 400 ≤ q) :
    thermPair s p q = throttleEvent (lowerClocks (heated s p q)) (decide (0x090 ≤ (pairOf s p).therm)) 8 p q := by
  simp [thermPair, heated, hot]

/-- Lowering the clocks leaves what is no clock of a pair. -/
theorem pairOf_thermPair_hot (hot : 400 ≤ q) (s : State) (pair : p < 16) :
    pairOf (thermPair s p q) p =
      { pairOf s p with
        temp := q, hot := true, therm := max 48 (min (pairOf s p).therm (effClock s p) - 1), clk := effClock (heated s p q) p } := by
  rw [thermPair_hot hot, pairOf_of_pairs (congrArg PwrSt.pairs (throttleEvent_pwr ..)), (lowerClocks_pairs _).2, if_pos pair, heated,
    pairOf_updPair, if_pos rfl]

theorem stackOf_thermStack (s : State) (k q : Nat) : stackOf (thermStack s k q) k = { stackOf s k with temp := q } :=
  (stackOf_throttleEvent ..).trans ((stackOf_updStack ..).trans (if_pos rfl))

/-- A fraction falls by one level at 100 °C or more (R418). -/
theorem thermFrac_hot (hot : 400 ≤ q) (old now_ : Nat) : thermFrac q old now_ = min 3 (max old now_ + 1) := if_pos hot

/-- The power controller with the IOD's reading and the Rink fraction that follows from it. -/
def iodRead (s : State) (q : Nat) : PwrSt := { s.pwr with iodFrac := thermFrac q s.pwr.iodFrac (rinkFraction s), iodTemp := q }

theorem thermalLimitTickEffect_iod (q : Nat) (s : State) :
    ∃ begins, thermalLimitTickEffect .iod q s = throttleOut (throttleEvent { s with pwr := iodRead s q } begins 10 0 q) := ⟨_, rfl⟩

/-! ### Droop and voltage -/

theorem droopStretchEffect_runs (runs : (pairOf s p).gated = false) :
    droopStretchEffect p s = updPair s p fun x => { x with stretch := x.stretch + 1, quiet := 0 } := if_neg (by simp [runs])

/-- The setpoint that a window starts from: at least the calibrated one with the guard band (R417, R419). -/
def windowSetpoint (s : State) (p : Nat) : Nat :=
  max (pairOf s p).setpoint ((tableEntry s p (effClock s p)).1 + (pairOf s p).guard)

/-- A window with more than one stretch in 10,000 clocks raises the setpoint by one step while it stays below 0.95 V (R415). -/
theorem pairOf_voltageLoopTickEffect_stretched {clocks : Nat} (runs : (pairOf s p).gated = false)
    (stretched : clocks < 10000 * (pairOf s p).stretch) (below : windowSetpoint s p < voltMax) (load : Nat) :
    ∃ quiet, pairOf (voltageLoopTickEffect p clocks load s) p =
      { pairOf s p with stretch := 0, quiet := quiet, setpoint := windowSetpoint s p + 1 } := by
  have room : ¬ voltMax < windowSetpoint s p + 1 := Nat.not_lt.2 below
  unfold windowSetpoint at room
  refine ⟨if (pairOf s p).stretch = 0 then (pairOf s p).quiet + 1 else 0, ?_⟩
  simp [voltageLoopTickEffect, runs, stretched, room, windowSetpoint]

/-! ### Codes -/

theorem memoryRecentreEffect_moves {k : Nat} (trained : (stackOf s k).trained = true) (awake : (stackOf s k).selfRefresh = false)
    (code : Nat) :
    memoryRecentreEffect k code s =
      updStack { s with free := s.free + 1 } k fun x => { x with centre := moveCode s.free x.centre code } :=
  if_pos ⟨trained, by simp [awake]⟩

theorem fabricEqualisationEffect_moves (up : (linkOf s p).state = .up) (inUse : (linkOf s p).out = false) (lane code : Nat) :
    fabricEqualisationEffect p lane code s =
      updLink { s with free := s.free + 1 } p fun l => { l with taps := mupd l.taps (0, 0) lane fun x => moveCode s.free x code } :=
  if_pos ⟨up, by simp [inUse]⟩

/-- A code moves by one step at most (R416). -/
theorem moveCode_step (i : Nat) (old : Nat × Nat) (to_ : Nat) :
    (moveCode i old to_).1 = old.1 ∨ (moveCode i old to_).1 = old.1 + 1 ∨ (moveCode i old to_).1 + 1 = old.1 := by
  simp only [moveCode]
  split
  · exact .inr (.inl rfl)
  · split
    · exact .inr (.inr (by omega))
    · exact .inl rfl

/-! ### The obligation -/

/-- Settles O9: THROTTLE_N, its event and the lowering of the clocks leave the readings and limits that a tick has set; the loops
write the one pair, stack or lane they are for. -/
theorem thermalAndAdaptiveLoops : Obligations.ThermalAndAdaptiveLoops := by
  unfold Obligations.ThermalAndAdaptiveLoops
  refine ⟨fun s p q hot => ?_, fun s k q => ?_, fun s q hot => ?_, fun s p runs => ?_, fun s p n l runs stretched below => ?_,
    fun s k code trained awake => ?_, fun s p lane code up inUse => ?_,
    fun i old to_ => ⟨Nat.mod_lt _ (by decide), moveCode_step i old to_⟩⟩
  · have pair : pairOf (thermalLimitTickEffect (.pair p) q s) p.val = _ :=
      (pairOf_throttleOut ..).trans (pairOf_thermPair_hot hot s p.isLt)
    exact ⟨_, rfl, congrArg Pair.temp pair, congrArg Pair.hot pair, congrArg Pair.therm pair,
      (throttleOut_kept (by decide) (thermPair_kept (List.Subset.refl _) (Kept.refl _ s))).frame⟩
  · have stack : stackOf (thermalLimitTickEffect (.dram k) q s) k.val =
        { stackOf s k.val with temp := q, dblRefresh := decide (340 < q) } := by
      refine (stackOf_throttleOut ..).trans ?_
      rw [stackOf_updStack, if_pos rfl, stackOf_thermStack]
    exact ⟨_, rfl, congrArg StackSt.temp stack, congrArg StackSt.dblRefresh stack,
      (thermalLimitTickEffect_kept (List.Subset.refl _) (Kept.refl _ s)).frame⟩
  · obtain ⟨begins, effect⟩ := thermalLimitTickEffect_iod q s
    refine ⟨_, congrArg Host.Outcome.next effect, ?_, ?_,
      (throttleOut_kept (by decide) (throttleEvent_kept (by decide) (pwrSet_kept (by decide) (Kept.refl _ s)))).frame⟩
    · rw [throttleOut_pwr, throttleEvent_pwr, iodRead]
    · rw [throttleOut_pwr, throttleEvent_pwr, iodRead]
      exact thermFrac_hot hot ..
  · have pair := pairOf_updPair s p.val fun x => { x with stretch := x.stretch + 1, quiet := 0 }
    exact ⟨_, congrArg Host.Outcome.next (droopStretchEffect_runs runs), (pair p.val).trans (if_pos rfl),
      fun q other => (pair q).trans (if_neg other), (updPair_kept (List.Subset.refl _) (Kept.refl _ s)).frame⟩
  · obtain ⟨quiet, pair⟩ := pairOf_voltageLoopTickEffect_stretched runs stretched below l.val
    exact ⟨_, rfl, congrArg Pair.stretch pair, congrArg Pair.setpoint pair,
      (voltageLoopTickEffect_kept (List.Subset.refl _) (Kept.refl _ s)).frame⟩
  · exact ⟨_, congrArg Host.Outcome.next (memoryRecentreEffect_moves trained awake code), (stackOf_updStack ..).trans (if_pos rfl),
      memoryRecentreEffect_moves trained awake code ▸ (memoryRecentreEffect_kept (List.Subset.refl _) (Kept.refl _ s)).frame⟩
  · have effect := fabricEqualisationEffect_moves up inUse lane.val code
    have taps : (linkOf (fabricEqualisationEffect p.val lane.val code s) p.val).taps =
        mupd (linkOf s p.val).taps (0, 0) lane.val fun x => moveCode s.free x code := by
      rw [effect, linkOf_updLink, if_pos rfl]
      rfl
    exact ⟨_, rfl, by rw [taps, mget_mupd, if_pos rfl], fun m other => by rw [taps, mget_mupd, if_neg other],
      (fabricEqualisationEffect_kept (List.Subset.refl _) (Kept.refl _ s)).frame⟩

end Sys2Proof.Proofs
end

section
/-! Power-up, boot and the reset triggers (R402, R426, R427, R433 to R437): the boot ROM takes a firmware copy and waits to leave
low power, or stops in RECOVERY; a warm trigger begins an announcement. -/

namespace Sys2Proof.Proofs

open Sys2Proof Sys2Proof.Machine Sys2Proof.Laws

variable {s : State}

theorem bootSet_kept {C : List Part} {z : State} {x : BootSt} (hC : ([.boot] : List Part) ⊆ C) (h : Kept C z s) :
    Kept C z { s with boot := x } := Kept.put h

/-! ### Power-on -/

theorem aonPowerOnResetEffect_off (off : s.boot.aon = false) (straps : BitVec 3) :
    aonPowerOnResetEffect straps s = { s with boot := { s.boot with aon := true, straps := straps, refclk := true } } :=
  if_neg (by simp [off])

theorem regulatorStartEffect_starts (aon : s.boot.aon = true) (off : s.boot.regs = false) (clock : s.boot.refclk = true) :
    regulatorStartEffect s =
      { s with boot := { s.boot with regs := true, stage := 1 }, pwr := { s.pwr with state := .lowPower } } :=
  if_neg (by simp [aon, off, clock])

/-! ### The boot ROM -/

/-- With both copies valid the higher sequence number wins, and A on a tie (R433). -/
theorem pickFw_both {a b : FwCopy} (first : mget s.boot.fw ⟨true, 0, 0, 0, 0⟩ 0 = a) (second : mget s.boot.fw ⟨true, 0, 0, 0, 0⟩ 1 = b)
    (validA : a.valid = true) (validB : b.valid = true) : pickFw s = if a.seq < b.seq then some (1, b) else some (0, a) := by
  simp only [pickFw, first, second, validA, validB, if_true]

/-- A boot draws a new epoch (R375). -/
def newEpoch (s : State) : State :=
  { s with free := s.free + 1, sec := { s.sec with epoch := Config.drbg s.free % 2 ^ 31 } }

theorem newEpoch_kept {C : List Part} {z : State} (hC : ([.sec] : List Part) ⊆ C) (h : Kept C z s) : Kept C z (newEpoch s) := Kept.put h

/-- The copy is measured and started, and the part waits to leave low power (R434). -/
def fwStarted (s : State) (k : Nat) (f : FwCopy) : State :=
  { s with
    boot := { s.boot with stage := 3, copy := k }
    sec := { s.sec with fwDigest := f.fwDigest, codecDigest := f.codecDigest, svn := BitVec.toNat (BitVec.ofNat 32 f.svn) }
    pwr := { s.pwr with waking := true } }

theorem fwStarted_kept {C : List Part} {z : State} {k : Nat} {f : FwCopy} (hC : ([.sec, .pwr, .boot] : List Part) ⊆ C) (h : Kept C z s) :
    Kept C z (fwStarted s k f) := Kept.put h

theorem bootRom_starts {k : Nat} {f : FwCopy} (picked : pickFw s = some (k, f)) : bootRom s = fwStarted (newEpoch s) k f := by
  have picked : pickFw (newEpoch s) = some (k, f) := picked
  unfold newEpoch at picked
  simp only [bootRom, picked]
  rfl

/-- Every link leaves service (R437). -/
def linksOut (s : State) : State := forEach (List.range 12) s outLink

theorem linksOut_kept (s : State) : Kept [.out, .fab, .host] s (linksOut s) :=
  forEach_kept (Kept.refl _ s) fun _ _ h => outLink_kept (List.Subset.refl _) h

theorem linksOut_out (s : State) {p : Nat} (port : p < 12) : (linkOf (linksOut s) p).out = true := by
  have out := (forEach_range (fun u q => (linkOf u q).out) (fun _ => True) outLink (fun _ => true) s trivial
    (fun u q _ _ => ⟨outLink_out u q, fun j other => by rw [linkOf_outLink_ne other], trivial⟩) 12).2 p
  exact out.trans (if_pos port)

/-- The part stops in RECOVERY and says so (R437). -/
def recovery (s : State) : State := emit { s with boot := { s.boot with stage := 0xE } } (.ibi 0x03)

theorem linkOf_recovery (s : State) (p : Nat) : linkOf (recovery s) p = linkOf s p := rfl

theorem recovery_out (s : State) : (recovery s).out = s.out ++ [.ibi 0x03] := rfl

theorem bootRom_recovers (missing : pickFw s = none) : bootRom s = recovery (linksOut (newEpoch s)) := by
  have missing : pickFw (newEpoch s) = none := missing
  unfold newEpoch at missing
  simp only [bootRom, missing, recovery, linksOut, newEpoch]

/-- A message has left the part after all that left it before. -/
theorem bootRom_recovers_out (missing : pickFw s = none) : (bootRom s).out ≠ s.out := by
  obtain ⟨later, told⟩ := (linksOut_kept (newEpoch s)).out
  have before : s.out ++ later = (linksOut (newEpoch s)).out := told
  rw [bootRom_recovers missing, recovery_out, ← before, List.append_assoc]
  simp

/-! ### Cold boot and warm restart -/

/-- The part with the courses that its BIST will fail (R436). -/
def bistKnown (s : State) (b : List CourseId) : State :=
  { s with boot := { s.boot with bistFail := (List.range 32).filter fun n => b.any fun c => decide (c.val = n) } }

theorem coldBootEffect_boots (stage : s.boot.stage = 1) (regs : s.boot.regs = true) (alive : s.pwr.dead = false) (b : List CourseId) :
    coldBootEffect b s = bootRom (bistKnown s b) := if_neg (by simp [stage, regs, alive])

theorem coldBootEffect_refuses (unmet : s.boot.stage ≠ 1 ∨ s.boot.regs = false ∨ s.pwr.dead = true) (b : List CourseId) :
    coldBootEffect b s = s := if_pos (by simpa using unmet)

/-- The part at the restart, with its rails and clock (R427). -/
def restarting (s : State) : State :=
  { s with boot := { s.boot with stopped := false, regs := true, refclk := true, stage := 1 } }

theorem warmRestartEffect_restarts (stopped : s.boot.stopped = true) (released : s.boot.perst = false) (free : tapHolds s = false) :
    warmRestartEffect s = bootRom (restarting s) := if_pos (by simp [stopped, released, free])

theorem warmRestartEffect_refuses (unmet : s.boot.stopped = false ∨ s.boot.perst = true ∨ tapHolds s = true) :
    warmRestartEffect s = s := by
  refine if_neg ?_
  rintro ⟨stopped, released, free⟩
  rcases unmet with runs | held | tap
  · exact Bool.false_ne_true (runs.symm.trans stopped)
  · exact released held
  · exact free tap

/-! ### Memory training and READY -/

/-- Every stack trained and out of self-refresh (R434). -/
def stacksTrained (s : State) : State :=
  forEach (List.range 12) s fun s k => updStack s k fun x => { x with trained := true, trainData := true, selfRefresh := false }

theorem stacksTrained_kept (s : State) : Kept [.mem] s (stacksTrained s) :=
  forEach_kept (Kept.refl _ s) fun _ _ h => updStack_kept (List.Subset.refl _) h

theorem stacksTrained_trained (s : State) {k : Nat} (stack : k < 12) : (stackOf (stacksTrained s) k).trained = true := by
  have trained := forEach_updStack (fun _ x => { x with trained := true, trainData := true, selfRefresh := false }) s 12 k
  rw [if_pos stack] at trained
  exact congrArg StackSt.trained trained

/-- Stage 7 of the boot, at which the scrub begins (R373, R434). -/
def trainingDone (s : State) : State :=
  { stacksTrained s with boot := { (stacksTrained s).boot with stage := 7, trained := true } }

theorem trainingDone_trained (s : State) {k : Nat} (stack : k < 12) : (stackOf (trainingDone s) k).trained = true :=
  stacksTrained_trained s stack

theorem memoryTrainingCompleteEffect_done (stage : s.boot.stage = 5) :
    memoryTrainingCompleteEffect s = scrubStart (trainingDone s) := if_neg (by simp [stage])

/-- The part is up, its configuration unlocked (R434). -/
def partUp (s : State) : State := { s with boot := { s.boot with stage := 0xF }, cfg := { s.cfg with state := 0 } }

/-- READY is told to the host, and nothing more is done. -/
theorem readyEffect_told (stage : s.boot.stage = 8) : Kept [.out, .hostMem, .host] (partUp s) (readyEffect s) := by
  have told : Kept [.out, .hostMem, .host] (partUp s) (raisePart (emit (partUp s) (.ibi 0x01)) 0x0100 {}) :=
    raisePart_kept (by decide) (emit_kept (by decide) (Kept.refl _ _))
  rw [readyEffect, if_neg (by simp [stage])]
  exact Kept.ite told (signalSource_kept (by decide) told)

/-! ### Warm and cold triggers -/

theorem warmBegin_announces (aon : s.boot.aon = true) (cause : Nat) :
    warmBegin s cause = { s with boot := { s.boot with announce := some (2, cause) } } := if_pos aon

theorem rstWarmEffect_warm {v : Word} (heard : pageAnswers s 0x2000 = true) (key : fld v 31 16 = 0x574D) (go : v.getLsbD 0 = true) :
    rstWarmEffect v s = warmBegin s 3 := by
  rw [rstWarmEffect, if_neg (by simp [heard]), if_neg (by simp [key]), if_pos go]

theorem perstNAssertEffect_asserts (released : s.boot.perst = false) :
    perstNAssertEffect s = warmBegin { s with boot := { s.boot with perst := true } } 2 := if_neg (by simp [released])

theorem rstactEffect_warm (aon : s.boot.aon = true) : rstactEffect 1 s = warmBegin s 4 := by
  rw [rstactEffect, if_neg (by simp [aon]), if_pos rfl]

theorem rstactEffect_cold (aon : s.boot.aon = true) : rstactEffect 2 s = aonLost s 5 := by
  rw [rstactEffect, if_neg (by simp [aon]), if_neg (by decide), if_pos rfl]

/-! ### The obligation -/

/-- Settles O50: a cold boot and a warm restart are the boot ROM on a state whose firmware copies are those of the state before. -/
theorem powerUpAndBoot : Obligations.PowerUpAndBoot := by
  unfold Obligations.PowerUpAndBoot
  refine ⟨fun s straps off => ?_, fun s aon off clock => ?_, fun s b k f stage regs alive picked => ?_,
    fun s b stage regs alive missing => ?_, fun s b unmet => congrArg Host.Outcome.next (coldBootEffect_refuses unmet b),
    fun s k f stopped released free picked => ?_, fun s unmet => congrArg Host.Outcome.next (warmRestartEffect_refuses unmet),
    fun s a b first second validA validB => pickFw_both first second validA validB, fun s stage => ?_, fun s stage => ?_,
    fun s v heard key go aon => ?_, fun s released aon => ?_, fun s => ?_, fun s aon => ?_, fun s aon => ?_⟩
  · exact ⟨_, congrArg Host.Outcome.next (aonPowerOnResetEffect_off off straps), rfl, (bootSet_kept (List.Subset.refl _) (Kept.refl _ s)).frame⟩
  · exact ⟨_, congrArg Host.Outcome.next (regulatorStartEffect_starts aon off clock), rfl, rfl,
      regulatorStartEffect_starts aon off clock ▸ (regulatorStartEffect_kept (List.Subset.refl _) (Kept.refl _ s)).frame⟩
  · have effect : coldBootEffect b s = fwStarted (newEpoch (bistKnown s b)) k f :=
      (coldBootEffect_boots stage regs alive b).trans (bootRom_starts (s := bistKnown s b) picked)
    exact ⟨_, congrArg Host.Outcome.next effect, rfl, rfl, rfl,
      (fwStarted_kept (by decide) (newEpoch_kept (by decide) (bootSet_kept (by decide) (Kept.refl _ s)))).frame⟩
  · have missing : pickFw (bistKnown s b) = none := missing
    have told : (bootRom (bistKnown s b)).out ≠ s.out := bootRom_recovers_out missing
    have effect := coldBootEffect_boots stage regs alive b
    rw [bootRom_recovers missing] at told effect
    exact ⟨_, congrArg Host.Outcome.next effect, rfl, told, fun p port => (congrArg Link.out (linkOf_recovery _ p)).trans
      (linksOut_out _ port)⟩
  · have effect : warmRestartEffect s = fwStarted (newEpoch (restarting s)) k f :=
      (warmRestartEffect_restarts stopped released free).trans (bootRom_starts (s := restarting s) picked)
    exact ⟨_, congrArg Host.Outcome.next effect, rfl, rfl, rfl, rfl,
      (fwStarted_kept (by decide) (newEpoch_kept (by decide) (bootSet_kept (by decide) (Kept.refl _ s)))).frame⟩
  · obtain ⟨waiting, begun⟩ := scrubStart_eq (trainingDone s)
    have effect := (memoryTrainingCompleteEffect_done stage).trans begun
    have frame := (memoryTrainingCompleteEffect_kept (List.Subset.refl _) (Kept.refl _ s)).frame
    have kept := trowelsZero_kept (trainingDone s)
    have trained : ∀ k < 12, (stackOf (trowelsZero (trainingDone s)) k).trained = true ∧
        (mget (trowelsZero (trainingDone s)).trw {} k).zero = true := fun k stack =>
      ⟨by rw [stackOf_of_mem (kept.frame .mem (by decide)), trainingDone_trained s stack], trowelsZero_zero _ stack⟩
    have stage : (trowelsZero (trainingDone s)).boot.stage = 7 := congrArg BootSt.stage (kept.frame .boot (by decide))
    rw [effect] at frame
    generalize trowelsZero (trainingDone s) = u at effect frame trained stage
    exact ⟨_, congrArg Host.Outcome.next effect, stage, rfl, rfl, rfl, trained, frame⟩
  · have told := readyEffect_told stage
    exact ⟨_, rfl, by rw [isReady, told.frame .boot (by decide)]; rfl, congrArg CfgSt.state (told.frame .cfg (by decide)),
      (readyEffect_kept (List.Subset.refl _) (Kept.refl _ s)).frame⟩
  · exact ⟨_, congrArg Host.Outcome.next ((rstWarmEffect_warm heard key go).trans (warmBegin_announces aon 3)), rfl,
      (bootSet_kept (List.Subset.refl _) (Kept.refl _ s)).frame⟩
  · have effect : perstNAssertEffect s = { s with boot := { s.boot with perst := true, announce := some (2, 2) } } :=
      (perstNAssertEffect_asserts released).trans (warmBegin_announces (s := { s with boot := { s.boot with perst := true } }) aon 2)
    exact ⟨_, congrArg Host.Outcome.next effect, rfl, (bootSet_kept (List.Subset.refl _) (Kept.refl _ s)).frame⟩
  · exact ⟨_, rfl, rfl, rfl, (perstNDeassertEffect_kept (List.Subset.refl _) (Kept.refl _ s)).frame⟩
  · exact ⟨_, congrArg Host.Outcome.next ((rstactEffect_warm aon).trans (warmBegin_announces aon 4)), rfl,
      (bootSet_kept (List.Subset.refl _) (Kept.refl _ s)).frame⟩
  · exact ⟨_, congrArg Host.Outcome.next (rstactEffect_cold aon), rfl, rfl, rfl, rfl, rfl⟩

end Sys2Proof.Proofs
end

section
/-! The step (log 5) and the state after reset (log 1, 2, 7): what a step runs, and what nothing has written yet. -/

namespace Sys2Proof.Proofs

open Sys2Proof Sys2Proof.Machine Sys2Proof.Laws

/-! ### The step -/

theorem step_idle {s : State} (idle : s.pending = []) : step s = .next (idleTick s) := by
  unfold step
  rw [idle]

theorem idleTick_pending (s : State) : (idleTick s).pending = s.pending :=
  (idleTick_kept (List.Subset.refl _) (Kept.refl _ s)).pending

/-- Settles O1: the queue is first in, first out, and an idle cycle puts nothing into it. -/
theorem stepRunsTheFrontCommand : Obligations.StepRunsTheFrontCommand := by
  unfold Obligations.StepRunsTheFrontCommand
  exact ⟨fun c rest s => rfl, fun s idle => ⟨step_idle idle, (idleTick_pending s).trans idle⟩⟩

/-! ### The state after reset -/

theorem reset_memoriesCanonical : State.reset.memoriesCanonical :=
  ⟨Mem.empty_wf, Mem.empty_wf, Mem.empty_wf, Mem.empty_wf, Mem.empty_wf⟩

theorem devGet_reset (a : Nat) : devGet State.reset a = 0 := by
  unfold devGet
  split
  · rfl
  · rfl

/-- The vector map is one to one: source i has vector i (R458, R467). -/
theorem rwReset_vector {i : Nat} (source : i < 256) : rwReset (0x400 + 4 * i) = BitVec.ofNat 32 i := by
  have page : (0x400 + 4 * i) / 0x1000 * 0x1000 = 0 := by omega
  have off : (0x400 + 4 * i) % 0x1000 = 0x400 + 4 * i := Nat.mod_eq_of_lt (by omega)
  have inMap : 0x400 ≤ 0x400 + 4 * i ∧ 0x400 + 4 * i < 0x800 := by omega
  unfold rwReset
  dsimp only
  rw [page, off, if_pos ⟨rfl, inMap⟩]
  congr 1
  omega

theorem rw_reset (off : Nat) : rw State.reset off = rwReset off := rfl

/-- Settles O4: what reset lists nowhere reads as its reset value. -/
theorem stateAfterReset : Obligations.StateAfterReset := by
  unfold Obligations.StateAfterReset
  exact ⟨rfl, rfl, reset_memoriesCanonical, devGet_reset, fun i source => (rw_reset _).trans (rwReset_vector source), fun _ => rfl, fun _ => rfl,
    rfl, by decide +kernel, rfl, rfl, fun _ _ => rfl, fun _ _ => rfl, fun _ _ _ _ => rfl, fun _ _ => rfl, rfl, rfl, rfl, rfl, rfl, rfl⟩

end Sys2Proof.Proofs
end

section
/-! Freeze ticks and the roll-up (R474 to R477): a tick copies the counters and starts the roll-up, and the boundaries that wait for
the tick at its end go on to their verdict. -/

namespace Sys2Proof.Proofs

open Sys2Proof Sys2Proof.Machine Sys2Proof.Laws

/-! ### What reductions may touch -/

section

variable {P : State → Prop} (fab : ∀ u d g, P u → P (updFab u d g)) (send : ∀ u p, P u → P (inject u p))
  (count : ∀ u, P u → P (countDiscard u))

include send in
theorem sendDown_keeps {s : State} (d : Nat) (r : RedSt) (w : Dword) (h : P s) : P (sendDown s d r w) :=
  forEach_keeps (fun u _ hu => send u _ hu) h

include fab count in
theorem redHold_keeps {s : State} (d port : Nat) (p : Packet) (h : P s) : P (redHold s d port p) := by
  unfold redHold
  dsimp only
  split
  · exact count _ h
  · exact fab _ _ _ h

include fab send

theorem tryCombine_keeps {s : State} (d : Nat) (r : RedSt) (h : P s) : P (tryCombine s d r) := by
  unfold tryCombine
  split
  · exact fab _ _ _ h
  · split
    · exact fab _ _ _ h
    · split
      · dsimp only
        split
        · exact send _ _ (fab _ _ _ h)
        · exact sendDown_keeps send d r _ (fab _ _ _ h)
      · exact fab _ _ _ h

include count

theorem redTake_keeps {s : State} (d port : Nat) (p : Packet) (h : P s) : P (redTake s d port p) := by
  unfold redTake
  dsimp only
  split
  · exact count _ h
  · split
    · exact redHold_keeps fab count d port p h
    · split
      · exact count _ h
      · split
        · split
          · exact count _ h
          · split
            · exact redHold_keeps fab count d port p h
            · exact tryCombine_keeps fab send d _ h
        · split
          · exact count _ h
          · exact sendDown_keeps send d _ _ (fab _ _ _ h)

/-- A contribution to a reduction is made of changes of a context's fabric state, packets sent, and discards counted. -/
theorem reduce_keeps {s : State} (d : Nat) (cls : RedClass) (id seq : Nat) (word : Dword) (h : P s) : P (reduce s d cls id seq word) := by
  unfold reduce redRetry contribute
  split
  · exact forEach_keeps (fun _ _ hu => redTake_keeps fab send count d _ _ hu) (fab _ d _ (tryCombine_keeps fab send d _ h))
  · exact fab _ _ _ h

end

theorem reduce_counts (s : State) (d : Nat) (cls : RedClass) (id seq : Nat) (word : Dword) : CountsOnly s (reduce s d cls id seq word) :=
  reduce_keeps (P := CountsOnly s) (fun _ _ _ hu => hu) (fun u p hu => hu.trans (forward_counts u none p)) (fun u hu => hu.trans (t := u) rfl) d
    cls id seq word (.refl s)

/-! ### The boundaries after a tick -/

theorem toVerdict_counts (s : State) (c : Nat) : CountsOnly s (toVerdict s c) := by
  unfold toVerdict
  exact CountsOnly.trans (t := updBnd s c _) rfl (reduce_counts ..)

/-- Of the boundaries only that of the job itself moves on, to wait for its verdict (R352). -/
theorem toVerdict_phase (s : State) (c d : Nat) :
    (ctxOf (toVerdict s c) d).bnd.phase = if d = c then .awaitVerdict else (ctxOf s d).bnd.phase := by
  obtain ⟨f, q, ctx⟩ : SameStep d (updBnd s c fun b => { b with phase := .awaitVerdict }) (toVerdict s c) := (SameStep.refl _).reduce ..
  rw [ctx, ctxOf_updBnd]
  split
  · rfl
  · rfl

/-- The phase in which a tick leaves a boundary (R477). -/
def tickedPhase (p : BPhase) : BPhase := if p = .awaitTick then .awaitVerdict else p

/-- The boundary of a job goes on if it waits for the tick. -/
def tickTaken (s : State) (c : Nat) : State := if (ctxOf s c).bnd.phase = .awaitTick then toVerdict s c else s

theorem tickTaken_phase (s : State) (c d : Nat) :
    (ctxOf (tickTaken s c) d).bnd.phase = if d = c then tickedPhase (ctxOf s c).bnd.phase else (ctxOf s d).bnd.phase := by
  unfold tickTaken tickedPhase
  by_cases waits : (ctxOf s c).bnd.phase = .awaitTick
  · rw [if_pos waits, if_pos waits, toVerdict_phase]
  · rw [if_neg waits, if_neg waits]
    split
    · next own => rw [own]
    · rfl

theorem ticksTaken_eq (s : State) : ticksTaken s = forEach (List.range 8) s tickTaken := rfl

theorem ticksTaken_phase (s : State) {c : Nat} (ctx : c < 8) :
    (ctxOf (ticksTaken s) c).bnd.phase = tickedPhase (ctxOf s c).bnd.phase := by
  have phases := (forEach_range (fun u d => (ctxOf u d).bnd.phase) (fun _ => True) tickTaken (fun d => tickedPhase (ctxOf s d).bnd.phase) s
    trivial (fun u d _ same => ⟨by rw [tickTaken_phase, if_pos rfl, same], fun e other => by rw [tickTaken_phase, if_neg other], trivial⟩) 8).2 c
  rw [ticksTaken_eq]
  exact phases.trans (if_pos ctx)

/-- After a tick no boundary waits for one (R477). -/
theorem tickedPhase_ne (p : BPhase) : tickedPhase p ≠ .awaitTick := by
  unfold tickedPhase
  split
  · decide
  · assumption

theorem ticksTaken_counts (s : State) : CountsOnly s (ticksTaken s) := by
  rw [ticksTaken_eq]
  refine .forEach (fun u c => ?_) _ s
  unfold tickTaken
  split
  · exact toVerdict_counts u c
  · exact .refl u

/-! ### Ticks -/

/-- During a roll-up a tick is only asked for (R477). -/
theorem tick_again {s : State} (rolls : s.tel.rolling = true) : tick s = { s with tel := { s.tel with again := true } } := by
  rw [tick, if_pos rolls, freezeTick, if_pos rolls]

theorem tick_frame (s : State) : s.changesOnly [.tel] (tick s) := (tick_kept (List.Subset.refl _) (Kept.refl _ s)).frame

theorem telFreezeEffect_ready {s : State} (ready : isReady s = true) (v : Word) :
    telFreezeEffect v s = if v.getLsbD 0 then tick s else s := if_neg (by simp [ready])

theorem setTel_kept {C : List Part} {z s : State} {x : TelSt} (hC : ([.tel] : List Part) ⊆ C) (h : Kept C z s) :
    Kept C z { s with tel := x } := Kept.put h

/-- The roll-up has ended and its sums can be read (R477). -/
def rolledUp (s : State) : State := { s with tel := { s.tel with rolling := false, rollup := s.tel.totals, valid := true } }

theorem rollupCompleteEffect_ends {s : State} (rolls : s.tel.rolling = true) (last : s.tel.again = false) :
    rollupCompleteEffect s = rolledUp s := by
  rw [rollupCompleteEffect, if_neg (by simp [rolls]), last]
  rfl

/-- The tick that was postponed is taken as the roll-up ends (R477). -/
theorem rollupCompleteEffect_again {s : State} (rolls : s.tel.rolling = true) (again : s.tel.again = true) :
    rollupCompleteEffect s =
      ticksTaken (rollUp (freezeNow { rolledUp s with tel := { (rolledUp s).tel with again := false } })) := by
  rw [rollupCompleteEffect, if_neg (by simp [rolls]), ← tick_taken rfl]
  exact if_pos again

/-! ### The obligation -/

/-- Settles O37: a tick taken is the copy of the counters with its sums, one asked for sets `again`, and the boundaries that go on
touch no more of the telemetry than counters. -/
theorem freezeTicks : Obligations.FreezeTicks := by
  unfold Obligations.FreezeTicks
  refine ⟨fun s v ready go free => ?_, fun s v ready go rolls => ?_, fun s v ready go => ?_, fun s on free => ?_, fun s off => ?_,
    fun s rolls last => ?_, fun s rolls again => ?_⟩
  · have effect : telFreezeEffect v s = tick s := (telFreezeEffect_ready ready v).trans (if_pos go)
    have frame := tick_frame s
    rw [tick_taken free] at effect frame
    exact ⟨_, congrArg Host.Outcome.next effect, rfl, rfl, rfl, rfl, rfl, rfl, rfl, rfl, frame⟩
  · have effect : telFreezeEffect v s = tick s := (telFreezeEffect_ready ready v).trans (if_pos go)
    have frame := tick_frame s
    rw [tick_again rolls] at effect frame
    exact ⟨_, congrArg Host.Outcome.next effect, rfl, frame⟩
  · exact congrArg Host.Outcome.next ((telFreezeEffect_ready ready v).trans (if_neg (ne_true_of_eq_false go)))
  · have effect : periodicFreezeTickEffect s = tick s := if_neg on
    have frame := tick_frame s
    rw [tick_taken free] at effect frame
    exact ⟨_, congrArg Host.Outcome.next effect, rfl, rfl, rfl, rfl, rfl, frame⟩
  · exact congrArg Host.Outcome.next (if_pos off)
  · have effect := rollupCompleteEffect_ends rolls last
    exact ⟨_, congrArg Host.Outcome.next effect, rfl, rfl, rfl, rfl, (setTel_kept (List.Subset.refl _) (Kept.refl _ s)).frame⟩
  · have counts := ticksTaken_counts (rollUp (freezeNow { rolledUp s with tel := { (rolledUp s).tel with again := false } }))
    refine ⟨_, congrArg Host.Outcome.next (rollupCompleteEffect_again rolls again), ?_, ?_, ?_, ?_, ?_, fun c ctx => ?_⟩
    case refine_6 => exact ticksTaken_phase _ ctx ▸ tickedPhase_ne _
    all_goals
      rw [counts]
      rfl

end Sys2Proof.Proofs
end

section
/-! Courses and media units under test (R483, R484, R487): fence, BIST and release of a course, service and self-test of a unit. -/

namespace Sys2Proof.Proofs

open Sys2Proof Sys2Proof.Machine Sys2Proof.Laws

/-! ### Writes that a page accepts in some states only -/

section

variable {s : State} {page off r : Nat} {ok : Bool} {f : State → State} (ready : isReady s = true)
include ready

theorem guarded_accepts (good : ok = true) : guarded s page off r ok f = f s := by
  simp [guarded, ready, good]

theorem guarded_refuses (bad : ok = false) : guarded s page off r ok f = accessErr s page 8 r off := by
  simp [guarded, ready, bad]

end

/-! ### Interrupt bits beside events -/

theorem partEntry_irqStatus (s : State) (e : Ev) : (partEntry s e).host.irqStatus = s.host.irqStatus := by
  unfold partEntry
  dsimp only
  split
  · rfl
  · split
    · exact msix_irqStatus ..
    · rfl

theorem raisePart_irqStatus (s : State) (code : Nat) (f : EvF) : (raisePart s code f).host.irqStatus = s.host.irqStatus := partEntry_irqStatus ..

theorem courseOf_of_kept {C : List Part} {s t : State} (kept : Kept C s t) (n : Nat) (out : Part.tile ∉ C := by decide) :
    courseOf t n = courseOf s n := by
  have courses : t.tile.courses = s.tile.courses := (congrArg TileSt.courses (kept.frame .tile out) :)
  rw [courseOf, courses, courseOf]

/-! ### Fence and BIST -/

/-- The course with its BIST begun, and its pair in the governor's queue if its clock is gated (R484). -/
theorem courseBistEffect_begins {s : State} {r n : Nat} (ready : isReady s = true) (fenced : (courseOf s n).fenced = true)
    (idle : (courseOf s n).bist = false) : ∃ w, courseBistEffect r n s =
      { updCourse s n fun k => { k with bist := true } with pwr := { s.pwr with wakes := w } } ∧
      ((pairOf s (n / 2)).gated = true → n / 2 ∈ w) := by
  have effect := guarded_accepts (page := coursePage n) (off := 0x110) (r := r)
    (f := fun s =>
      let s1 := updCourse s n fun k => { k with bist := true }
      if (pairOf s (n / 2)).gated ∧ ¬ s.pwr.wakes.contains (n / 2) then
        { s1 with pwr := { s1.pwr with wakes := s1.pwr.wakes ++ [n / 2] } }
      else s1) ready (show ((courseOf s n).fenced && !(courseOf s n).bist) = true by simp [fenced, idle])
  by_cases asleep : (pairOf s (n / 2)).gated = true ∧ ¬ s.pwr.wakes.contains (n / 2) = true
  · exact ⟨s.pwr.wakes ++ [n / 2], effect.trans (if_pos asleep), fun _ => by simp⟩
  · refine ⟨s.pwr.wakes, effect.trans (if_neg asleep), fun gated => ?_⟩
    by_contra absent
    exact asleep ⟨gated, by simpa using absent⟩

/-- The result of a BIST is noted and reported as a block event; a failure is an event of the part (R461, R484). -/
def bistNoted (s : State) (n : Nat) (pass : Bool) : State :=
  blockEvent (updCourse s n fun k => { k with bist := false, bistResult := if pass then 1 else 2 }) (coursePage n)

theorem bistDoneEffect_ends {s : State} {n : Nat} (runs : (courseOf s n).bist = true) (pass : Bool) :
    bistDoneEffect n pass s = if pass then bistNoted s n pass else raisePart (bistNoted s n pass) 0x0109 { inst := n } := if_pos runs

theorem courseOf_bistNoted (s : State) (n : Nat) (pass : Bool) :
    courseOf (bistNoted s n pass) n = { courseOf s n with bist := false, bistResult := if pass then 1 else 2 } := by
  rw [bistNoted, courseOf_of_kept (blockEvent_kept (List.Subset.refl _) (Kept.refl _ _)), courseOf_updCourse, if_pos rfl]

theorem bistNoted_irqStatus (s : State) (n : Nat) (pass : Bool) : mget (bistNoted s n pass).host.irqStatus 0 (coursePage n) =
    mget s.host.irqStatus 0 (coursePage n) ||| 1 := setIrq_status ..

/-! ### Release -/

/-- A course whose semaphores are cleared reads 0 in each (R371, R483). -/
theorem semGet_zeroSems (s : State) {t i : Nat} (sem : i < 256) : semGet (zeroSems s (t / 16)) t i = 0 := by
  have dflt : semDflt (zeroSems s (t / 16)) t i = 0 := by
    have known : mget (zeroSems s (t / 16)).tile.semUndef 0 (t / 16) = 0 :=
      (mget_mset s.tile.semUndef 0 (t / 16) 0 (t / 16)).trans (if_pos rfl)
    rw [semDflt, known]
  rw [semGet, dflt]
  refine (mget_filter_key s.tile.sem 0 (fun k => decide (k / 4096 ≠ t / 16)) _).trans (if_neg ?_)
  exact fun h => of_decide_eq_true h (by omega)

theorem mget_zeroVregs (s : State) {n k : Nat} (own : k / 65536 = n) : mget (zeroVregs s n).tile.vreg 0 k = 0 := by
  refine (mget_filter_key s.tile.vreg 0 (fun k => decide (k / 65536 ≠ n)) _).trans (if_neg ?_)
  exact fun h => of_decide_eq_true h own

/-- The course open again, its stores undefined and its registers and semaphores 0 (R483). -/
def courseOpened (s : State) (n : Nat) : State :=
  updCourse (zeroSems (zeroVregs (undefCourse s n) n) n) n fun k => { k with fenced := false }

theorem courseReleaseEffect_opens {s : State} {r n : Nat} (ready : isReady s = true) (fenced : (courseOf s n).fenced = true)
    (idle : (courseOf s n).bist = false) (passed : (courseOf s n).bistResult = 1) :
    courseReleaseEffect r n s = spinReload (courseOpened s n) n (live64 s (coursePage n + 0x100)) := by
  unfold courseReleaseEffect
  exact guarded_accepts ready (by simp [fenced, idle, passed])

theorem courseOpened_kept (s : State) (n : Nat) : Kept [.store, .sem, .vreg, .tile] s (courseOpened s n) :=
  updCourse_kept (by decide) (zeroSems_kept (by decide) (zeroVregs_kept (by decide) (undefCourse_kept (by decide) (Kept.refl _ s))))

/-! ### The obligation for courses -/

/-- Settles O10: an accepted command changes the one course, and a refused one is recorded on its page. -/
theorem courseFenceBistRelease : Obligations.CourseFenceBistRelease := by
  unfold Obligations.CourseFenceBistRelease
  refine ⟨fun s n ready free => ?_, fun s n ready named => ?_, fun s n ready fenced idle => ?_, fun s n pass runs => ?_,
    fun s n ready fenced idle passed => ?_, fun s n ready unmet => ?_⟩
  · exact ⟨_, congrArg Host.Outcome.next (guarded_accepts ready (by simp [free])), (courseOf_updCourse ..).trans (if_pos rfl),
      fun m other => (courseOf_updCourse ..).trans (if_neg other), (updCourse_kept (List.Subset.refl _) (Kept.refl _ s)).frame⟩
  · exact congrArg Host.Outcome.next (guarded_refuses ready (by simp [named]))
  · obtain ⟨w, effect, woken⟩ := courseBistEffect_begins (r := 4) ready fenced idle
    have kept : Kept [.tile, .pwr] s { updCourse s n.val fun k => { k with bist := true } with pwr := { s.pwr with wakes := w } } :=
      pwrSet_kept (by decide) (updCourse_kept (by decide) (Kept.refl _ s))
    exact ⟨_, congrArg Host.Outcome.next effect, (courseOf_updCourse ..).trans (if_pos rfl), woken,
      fun m other => (courseOf_updCourse ..).trans (if_neg other), kept.frame⟩
  · have frame := (bistDoneEffect_kept (n := n.val) (pass := pass) (List.Subset.refl _) (Kept.refl _ s)).frame
    refine ⟨_, rfl, ?_, ?_, frame⟩
    · rw [bistDoneEffect_ends runs]
      cases pass
      · exact (courseOf_of_kept (raisePart_kept (List.Subset.refl _) (Kept.refl _ _)) _).trans (courseOf_bistNoted s n false)
      · exact courseOf_bistNoted s n true
    · rw [bistDoneEffect_ends runs]
      split
      · exact bistNoted_irqStatus s n pass
      · rw [raisePart_irqStatus]
        exact bistNoted_irqStatus s n pass
  · have course := (courseOf_updCourse (courseOpened s n.val) n.val fun k =>
      { k with seed := live64 s (coursePage n.val + 0x100), spinClk := 0, spinSeen := pairClock s (n.val / 2) }) n.val
    rw [if_pos rfl] at course
    exact ⟨_, congrArg Host.Outcome.next (courseReleaseEffect_opens ready fenced idle passed),
      (congrArg CourseSt.fenced course).trans (congrArg CourseSt.fenced ((courseOf_updCourse ..).trans (if_pos rfl))),
      congrArg CourseSt.seed course, congrArg CourseSt.spinClk course, fun k own => mget_zeroVregs _ own,
      fun u i own sem => own ▸ semGet_zeroSems _ sem, (spinReload_kept (by decide) (courseOpened_kept s n.val)).frame⟩
  · have shut : ((courseOf s n.val).fenced && !(courseOf s n.val).bist && decide ((courseOf s n.val).bistResult = 1)) = false := by
      rcases unmet with opened | failed
      · simp [opened]
      · simp [failed]
    have effect : courseReleaseEffect 4 n.val s = accessErr s (coursePage n.val) 8 4 0x110 := by
      unfold courseReleaseEffect
      exact guarded_refuses ready shut
    exact congrArg Host.Outcome.next effect

/-! ### Media units -/

theorem unitKey_injective : Function.Injective unitKey := by
  intro u v same
  cases u <;> cases v <;> simp [unitKey, Fin.ext_iff] at same ⊢ <;> omega

theorem unitOf_updUnit (s : State) (u v : MediaUnit) (f : RUnit → RUnit) :
    unitOf (updUnit s u f) v = if v = u then f (unitOf s u) else unitOf s v := by
  have key : unitKey v = unitKey u ↔ v = u := unitKey_injective.eq_iff
  rw [unitOf, updUnit, mget_mupd]
  simp only [key]
  rfl

theorem unitOf_updUnit_same (s : State) (u : MediaUnit) (f : RUnit → RUnit) : unitOf (updUnit s u f) u = f (unitOf s u) :=
  (unitOf_updUnit ..).trans (if_pos rfl)

theorem updUnit_frame (s : State) (u : MediaUnit) (f : RUnit → RUnit) : s.changesOnly [.rink] (updUnit s u f) :=
  (updUnit_kept (List.Subset.refl _) (Kept.refl _ s)).frame

theorem unitOf_of_rink {s t : State} (same : t.rink = s.rink) (u : MediaUnit) : unitOf t u = unitOf s u := by
  rw [unitOf, same, unitOf]

theorem unitOutOfServiceEffect_ready {s : State} {u : MediaUnit} {r : Nat} (ready : isReady s = true) : unitOutOfServiceEffect r u s =
    updUnit s u fun x => if unitBusy s u then { x with leaving := true } else { x with out := true } := guarded_accepts ready rfl

/-- Settles O11: a command of a unit's page changes the one unit, which keeps what the command does not name. -/
theorem mediaUnitService : Obligations.MediaUnitService := by
  unfold Obligations.MediaUnitService
  refine ⟨fun s u ready free => ?_, fun s u ready busy => ?_, fun s u ready out idle => ?_, fun s u ready used => ?_,
    fun s u pass runs => ?_, fun s u ready idle => ?_⟩
  · refine ⟨_, congrArg Host.Outcome.next (unitOutOfServiceEffect_ready ready), ?_, fun v other => ?_, updUnit_frame _ _ _⟩
    · rw [unitOf_updUnit_same, if_neg (by simp [free])]
    · rw [unitOf_updUnit, if_neg other]
  · refine ⟨_, congrArg Host.Outcome.next (unitOutOfServiceEffect_ready ready), ?_, updUnit_frame _ _ _⟩
    rw [unitOf_updUnit_same, if_pos busy]
  · exact ⟨_, congrArg Host.Outcome.next (guarded_accepts ready (by simp [out, idle])), unitOf_updUnit_same .., updUnit_frame _ _ _⟩
  · exact congrArg Host.Outcome.next (guarded_refuses ready (by simp [used]))
  · have effect : selfTestDoneEffect u pass s =
        blockEvent (updUnit s u fun x => { x with testing := false, result := if pass then 1 else 2 }) (unitPage u) := if_pos runs
    have frame := (selfTestDoneEffect_kept (u := u) (pass := pass) (List.Subset.refl _) (Kept.refl _ s)).frame
    rw [effect] at frame
    refine ⟨_, congrArg Host.Outcome.next effect, ?_, setIrq_status .., frame⟩
    rw [unitOf_of_rink ((blockEvent_kept (List.Subset.refl _) (Kept.refl _ _)).frame .rink (by decide)), unitOf_updUnit_same]
  · exact ⟨_, congrArg Host.Outcome.next (guarded_accepts ready (by simp [idle])), unitOf_updUnit_same .., updUnit_frame _ _ _⟩

end Sys2Proof.Proofs
end

section
/-! The idle scrub (R480, R486), and boundary scan (R488): errors that are met leave the list, an uncorrectable one poisons its line,
and the TAP's instruction falls back to BYPASS where PERST_N does not allow it. -/

namespace Sys2Proof.Proofs

open Sys2Proof Sys2Proof.Machine Sys2Proof.Laws

/-! ### Errors that are met -/

/-- What one element brings about and every change keeps holds at the end. -/
theorem forEach_reaches {α : Type} {P : State → Prop} {f : State → α → State} {a : α} (made : ∀ u, P (f u a))
    (kept : ∀ u b, P u → P (f u b)) {l : List α} (s : State) (listed : a ∈ l) : P (forEach l s f) := by
  induction l generalizing s with
  | nil => exact absurd listed List.not_mem_nil
  | cons b l ih =>
    rcases List.mem_cons.1 listed with rfl | later
    · exact forEach_keeps (l := l) kept (made s)
    · exact ih (f s b) later

/-- A part's other SRAM: its errors are met at once (log 97). -/
def inSram (u : Upset) : Bool := match u.place with | .sram _ _ => true | _ => false

theorem sramError_mem (s : State) (d : Nat) (cnt : Option Nat) (unit kind inst bank ctx line : Nat) :
    (sramError s d cnt unit kind inst bank ctx line).mem = s.mem :=
  mem_of_kept (sramError_kept (List.Subset.refl _) (Kept.refl _ s)) (by decide) (by decide) (by decide)

theorem sramCorrected_mem (s : State) (d : Nat) (cnt : Option Nat) (unit inst bank line a : Nat) :
    (sramCorrected s d cnt unit inst bank line a).mem = s.mem :=
  mem_of_kept (sramCorrected_kept (List.Subset.refl _) (Kept.refl _ s)) (by decide) (by decide) (by decide)

/-- Errors of other SRAM leave the list, and nothing else of the memories changes. -/
theorem meetSrams_mem (s : State) : (meetSrams s).mem = { s.mem with upsets := s.mem.upsets.filter fun u => !inSram u } := by
  unfold meetSrams meetUpsets
  refine forEach_keeps (P := fun u => u.mem = { s.mem with upsets := s.mem.upsets.filter fun u => !inSram u }) (fun u a met => ?_) rfl
  dsimp only
  split
  · split
    · exact (sramError_mem ..).trans met
    · exact (sramCorrected_mem ..).trans met
  · exact met

/-- From s to t no poison has gone and no stack has changed. -/
def PoisonGrows (s t : State) : Prop := t.mem.stk = s.mem.stk ∧ ∀ l ∈ s.mem.poison, l ∈ t.mem.poison

theorem PoisonGrows.trans {s t u : State} (h : PoisonGrows s t) (k : PoisonGrows t u) : PoisonGrows s u :=
  ⟨k.1.trans h.1, fun l poisoned => k.2 l (h.2 l poisoned)⟩

theorem PoisonGrows.of_mem {s t : State} (same : t.mem = s.mem) : PoisonGrows s t := ⟨by rw [same], fun l poisoned => by rwa [same]⟩

/-- An error that cannot be corrected poisons its line (R247). -/
theorem uncorrectedError_poisons (s : State) (k a source ctx : Nat) :
    PoisonGrows s (uncorrectedError s k a source ctx) ∧ a / 64 ∈ (uncorrectedError s k a source ctx).mem.poison := by
  have logged : (logPut (bump s (hbmPage k + 0x118) 1) (hbmPage k + 0x180) (hbmRecord s a 3 source ctx 0)).mem = s.mem :=
    mem_of_kept (logPut_kept (List.Subset.refl _) (bump_kept (List.Subset.refl _) (Kept.refl _ s))) (by decide) (by decide) (by decide)
  unfold uncorrectedError
  dsimp only
  split
  · next known => exact ⟨.of_mem logged, by simpa using known⟩
  · exact ⟨⟨(congrArg MemSt.stk logged :), fun l poisoned => List.mem_append_left _ (by rwa [logged])⟩, by simp⟩

/-- What a stack controller does with an error that it meets. -/
def meetLine (source ctx : Nat) (s : State) (u : Upset) : State :=
  let l := (upsetLine u).getD 0
  if u.kind = 3 then uncorrectedError s (l / stackLines) (64 * l) source ctx
  else correctedError s (l / stackLines) (64 * l) u.kind source ctx

theorem meetLine_grows (source ctx : Nat) (s : State) (u : Upset) : PoisonGrows s (meetLine source ctx s u) := by
  unfold meetLine
  dsimp only
  split
  · exact (uncorrectedError_poisons ..).1
  · exact .of_mem (mem_of_kept (correctedError_kept (List.Subset.refl _) (Kept.refl _ s)) (by decide) (by decide) (by decide))

theorem meetLine_poisons {source ctx : Nat} {u : Upset} {l : Nat} (place : u.place = .device l) (kind : u.kind = 3) (s : State) :
    l ∈ (meetLine source ctx s u).mem.poison := by
  have line : upsetLine u = some l := by rw [upsetLine, place]
  have poisoned := (uncorrectedError_poisons s (l / stackLines) (64 * l) source ctx).2
  rw [Nat.mul_div_cancel_left l (by decide)] at poisoned
  rw [meetLine, line, if_pos kind]
  exact poisoned

theorem meetLines_eq (s : State) (source ctx : Nat) (p : Nat → Bool) : meetLines s source ctx p =
    meetUpsets s (fun u => ((upsetLine u).map p).getD false) (meetLine source ctx) := rfl

theorem meetLines_grows (s : State) (source ctx : Nat) (p : Nat → Bool) : PoisonGrows s (meetLines s source ctx p) := by
  rw [meetLines_eq, meetUpsets]
  exact forEach_keeps (P := PoisonGrows s) (fun u a grown => grown.trans (meetLine_grows source ctx u a)) ⟨rfl, fun _ => id⟩

theorem meetLines_poisons {s : State} {p : Nat → Bool} {u : Upset} {l : Nat} (listed : u ∈ s.mem.upsets) (place : u.place = .device l)
    (kind : u.kind = 3) (read : p l = true) (source ctx : Nat) : l ∈ (meetLines s source ctx p).mem.poison := by
  have line : upsetLine u = some l := by rw [upsetLine, place]
  have met : u ∈ s.mem.upsets.filter fun u => ((upsetLine u).map p).getD false := List.mem_filter.2 ⟨listed, by simp [line, read]⟩
  rw [meetLines_eq, meetUpsets]
  exact forEach_reaches (P := fun t => l ∈ t.mem.poison) (fun v => meetLine_poisons place kind v)
    (fun v b poisoned => (meetLine_grows source ctx v b).2 l poisoned) _ met

/-! ### The idle scrub -/

/-- The errors that have befallen the part stand in its list, and those of other SRAM have been met. -/
def befallen (s : State) (errors : List Upset) : State := meetSrams (befall s errors)

theorem befallen_kept (s : State) (errors : List Upset) : Kept [.out, .hostMem, .mem, .host, .tel] s (befallen s errors) :=
  meetSrams_kept (List.Subset.refl _) (befall_kept (by decide) (Kept.refl _ s))

theorem befallen_mem (s : State) (errors : List Upset) :
    (befallen s errors).mem = { s.mem with upsets := (s.mem.upsets ++ errors).filter fun u => !inSram u } := meetSrams_mem _

theorem stackOf_befallen (s : State) (errors : List Upset) (k : Nat) : stackOf (befallen s errors) k = stackOf s k := by
  have stk : (befallen s errors).mem.stk = s.mem.stk := by rw [befallen_mem]
  rw [stackOf, stk, stackOf]

/-- The lines of stack k that a scrub of n lines reads on from line `at_` (R486). -/
def scrubbed (k at_ n l : Nat) : Bool := decide (l / stackLines = k ∧ (l % stackLines + stackLines - at_) % stackLines < n)

theorem idleScrubEffect_reads {s : State} {k n : Nat} {errors : List Upset} (some_ : 0 < n)
    (on : (rw s (hbmPage k + 0x108)).getLsbD 0 = true) (trained : (stackOf s k).trained = true) (awake : (stackOf s k).selfRefresh = false)
    (idle : s.sec.scrubbing = false) : idleScrubEffect k n errors s =
      updStack (meetLines (befallen s errors) 2 0xFF (scrubbed k (stackOf s k).scrubLine n)) k
        fun x => { x with scrubbing := true, scrubLine := (x.scrubLine + n) % stackLines } := by
  have kept := befallen_kept s errors
  have regs : rw (befallen s errors) (hbmPage k + 0x108) = rw s (hbmPage k + 0x108) := by
    have same : (befallen s errors).host.regs = s.host.regs := kept.frame .regs (by decide)
    rw [rw, same, rw]
  have sec : (befallen s errors).sec = s.sec := kept.frame .sec (by decide)
  have stack := stackOf_befallen s errors k
  have goes : ¬ (n = 0 ∨ ¬ (rw (befallen s errors) (hbmPage k + 0x108)).getLsbD 0 = true ∨ ¬ (stackOf (befallen s errors) k).trained = true ∨
      (stackOf (befallen s errors) k).selfRefresh = true ∨ (befallen s errors).sec.scrubbing = true) := by
    rw [regs, sec, stack, on, trained, awake, idle]
    simp [some_.ne']
  refine (if_neg goes).trans ?_
  rw [← stack]
  rfl

/-- A request for no lines stops the scrub (R486). -/
theorem idleScrubEffect_stops (s : State) (k : Nat) (errors : List Upset) : idleScrubEffect k 0 errors s =
    updStack (befallen s errors) k fun x => { x with scrubbing := false } := by
  unfold idleScrubEffect
  exact if_pos (.inl rfl)

/-! ### Boundary scan -/

/-- The boot ROM leaves the TAP's instruction and the release of the restart as they are. -/
theorem bootRom_tap (s : State) : (bootRom s).boot.tap = s.boot.tap ∧ (bootRom s).boot.stopped = s.boot.stopped := by
  cases picked : pickFw s with
  | none =>
    have boot : (linksOut (newEpoch s)).boot = s.boot := (linksOut_kept (newEpoch s)).frame .boot (by decide)
    rw [bootRom_recovers picked]
    generalize linksOut (newEpoch s) = u at boot
    exact ⟨(congrArg BootSt.tap boot :), (congrArg BootSt.stopped boot :)⟩
  | some c =>
    obtain ⟨k, f⟩ := c
    rw [bootRom_starts picked]
    exact ⟨rfl, rfl⟩

/-- The instruction that the TAP takes: one that acts on the contacts only while PERST_N is asserted, else BYPASS (R488). -/
theorem boundaryScanInstructionEffect_takes {s : State} {ir : Nat} (acts : ir ≤ 2 ∨ (ir ≤ 6 ∧ s.boot.perst = true)) :
    boundaryScanInstructionEffect ir s =
      { s with boot := { s.boot with tap := ir }, out := if ir = 1 then s.out ++ [.idcode idcode] else s.out } := by
  have taken : (if ir ≤ 2 then ir else if ir ≤ 6 ∧ s.boot.perst = true then ir else 0) = ir := by
    rcases acts with low | held
    · rw [if_pos low]
    · rw [if_pos held, ite_self]
  unfold boundaryScanInstructionEffect
  dsimp only
  rw [taken]
  split
  · rfl
  · rfl

theorem boundaryScanInstructionEffect_bypass {s : State} {ir : Nat} (idle : 6 < ir ∨ (2 < ir ∧ s.boot.perst = false)) :
    boundaryScanInstructionEffect ir s = { s with boot := { s.boot with tap := 0 } } := by
  have bypass : (if ir ≤ 2 then ir else if ir ≤ 6 ∧ s.boot.perst = true then ir else 0) = 0 := by
    rw [if_neg (by omega), if_neg]
    rintro ⟨low, held⟩
    rcases idle with high | ⟨-, released⟩
    · omega
    · exact Bool.false_ne_true (released.symm.trans held)
  unfold boundaryScanInstructionEffect
  dsimp only
  rw [bypass]
  rfl

/-- IDCODE is loaded (R488). -/
def tapReset (s : State) : State := { s with boot := { s.boot with tap := 1 } }

theorem testLogicResetEffect_eq (s : State) : testLogicResetEffect s =
    if tapHolds s ∧ s.boot.stopped ∧ ¬ s.boot.perst then bootRom (restarting (tapReset s)) else tapReset s := rfl

/-! ### The obligation -/

/-- Settles O12: an error that the scrub reads is among those that have befallen the part, which meeting other SRAM leaves in the
list; poison only grows meanwhile. -/
theorem idleScrubAndBoundaryScan : Obligations.IdleScrubAndBoundaryScan := by
  unfold Obligations.IdleScrubAndBoundaryScan
  refine ⟨fun s k n errors some_ on trained awake idle => ?_, fun s k errors => ?_,
    fun s ir acts => congrArg Host.Outcome.next (boundaryScanInstructionEffect_takes acts),
    fun s ir idle => congrArg Host.Outcome.next (boundaryScanInstructionEffect_bypass idle), fun s free => ?_,
    fun s tap stopped released => ?_⟩
  · have frame := (idleScrubEffect_kept (k := k.val) (lines := n) (errors := errors) (List.Subset.refl _) (Kept.refl _ s)).frame
    have effect := idleScrubEffect_reads (errors := errors) some_ on trained awake idle
    have mem := befallen_mem s errors
    have grows := meetLines_grows (befallen s errors) 2 0xFF (scrubbed k.val (stackOf s k.val).scrubLine n)
    have stack : stackOf (meetLines (befallen s errors) 2 0xFF (scrubbed k.val (stackOf s k.val).scrubLine n)) k.val = stackOf s k.val := by
      rw [stackOf, grows.1, ← stackOf, stackOf_befallen]
    rw [effect] at frame
    refine ⟨_, congrArg Host.Outcome.next effect, ?_, ?_, fun l poisoned => grows.2 l (by rwa [mem]),
      fun e listed l place kind own near => ?_, frame .dev (by decide), frame⟩
    · rw [stackOf_updStack, if_pos rfl]
    · rw [stackOf_updStack, if_pos rfl, stack]
    · refine meetLines_poisons (u := e) ?_ place kind (decide_eq_true ⟨own, near⟩) 2 0xFF
      rw [mem]
      exact List.mem_filter.2 ⟨List.mem_append_right _ listed, by rw [inSram, place]; rfl⟩
  · have frame := (idleScrubEffect_kept (k := k.val) (lines := 0) (errors := errors) (List.Subset.refl _) (Kept.refl _ s)).frame
    have effect := idleScrubEffect_stops s k.val errors
    rw [effect] at frame
    refine ⟨_, congrArg Host.Outcome.next effect, ?_, fun j other => ?_, (congrArg MemSt.poison (befallen_mem s errors) :), frame⟩
    · rw [stackOf_updStack, if_pos rfl, stackOf_befallen]
    · rw [stackOf_updStack, if_neg other, stackOf_befallen]
  · refine congrArg Host.Outcome.next ((testLogicResetEffect_eq s).trans (if_neg ?_))
    rintro ⟨holds, stopped, released⟩
    rcases free with low | runs | held
    · exact absurd (of_decide_eq_true holds) (by omega)
    · exact Bool.false_ne_true (runs.symm.trans stopped)
    · exact released held
  · have effect : testLogicResetEffect s = bootRom (restarting (tapReset s)) :=
      (testLogicResetEffect_eq s).trans (if_pos ⟨decide_eq_true tap, stopped, by simp [released]⟩)
    obtain ⟨tapped, freed⟩ := bootRom_tap (restarting (tapReset s))
    exact ⟨_, congrArg Host.Outcome.next effect, tapped, freed⟩

end Sys2Proof.Proofs
end

section
/-! Writes through the register file (R452, R462, R463): a write of a word that reaches its page goes to the command of its register;
and staging and discarding of the configuration (R444, R448). -/

namespace Sys2Proof.Proofs

open Sys2Proof Sys2Proof.Machine Sys2Proof.Laws

/-! ### Where registers lie -/

theorem ite_isSome {α : Type} {c : Prop} [Decidable c] {a b : Option α} :
    (if c then a else b).isSome = true ↔ (c ∧ a.isSome = true) ∨ (¬ c ∧ b.isSome = true) := by
  by_cases h : c
  · simp [h]
  · simp [h]

/-- ST registers are aligned and lie beyond the page header, on pages that exist (R466 to R471). -/
theorem stMask_place {off : Nat} (st : (stMask off).isSome = true) : off % 4 = 0 ∧ 0x100 ≤ off % 0x1000 ∧
    (off / 0x1000 ≤ 8 ∨ 0x20 ≤ off / 0x1000 ∧ off / 0x1000 < 0x40 ∨ 0x70 ≤ off / 0x1000 ∧ off / 0x1000 < 0x7D ∨ off / 0x1000 = 0x80) := by
  unfold stMask at st
  simp only [ite_isSome, Option.isSome_some, Option.isSome_none, Bool.false_eq_true, and_false, and_true, false_or, or_false] at st
  omega

theorem pageIndex_st {off : Nat} (st : (stMask off).isSome = true) : (pageIndex (off / 0x1000 * 0x1000)).isSome = true := by
  obtain ⟨-, -, page⟩ := stMask_place st
  unfold pageIndex
  simp only [ite_isSome, Option.isSome_some, Option.isSome_none, Bool.false_eq_true, and_false, and_true, or_false]
  omega

variable {s : State}

/-- An ST or RW register reads, whatever the state (R461). -/
theorem regVal_isSome {off : Nat} (page : (pageIndex (off / 0x1000 * 0x1000)).isSome = true) (body : 0x100 ≤ off % 0x1000)
    (register : (stMask off).isSome = true ∨ (rwMask off).isSome = true) (s : State) : (regVal s off).isSome = true := by
  have found : (pageIndex (off / 0x1000 * 0x1000)).isNone = false := by simpa using page
  unfold regVal
  dsimp only
  rw [found, if_neg Bool.false_ne_true, if_neg (by omega)]
  rcases register with st | plain
  · obtain ⟨m, st⟩ := Option.isSome_iff_exists.1 st
    rw [st]
    rfl
  · obtain ⟨m, plain⟩ := Option.isSome_iff_exists.1 plain
    rw [plain]
    split
    · rfl
    · rfl
    · next none_ => exact absurd none_ (by simp)

/-! ### The way of a write -/

theorem attached_linked (linked : s.host.linkLost = false) (r : Nat) : attached s r = s := if_neg (by simp [linked])

theorem pageAnswers_ready (ready : isReady s = true) (page : Nat) : pageAnswers s page = true := by simp [pageAnswers, ready]

section

variable {r off : Nat} (reach : reachable s r = true) (linked : s.host.linkLost = false)
include reach linked

/-- A 32-bit write of an aligned word (R462). -/
theorem registerWriteEffect_word (aligned : off % 4 = 0) (v : Dword) :
    registerWriteEffect r false off 32 v s = writeWord r off (v.extractLsb' 0 32) s := by
  simp [registerWriteEffect, attached_linked linked, reach, aligned]

/-- A 64-bit write is two of a word, the low one first (R462). -/
theorem registerWriteEffect_pair (aligned : off % 4 = 0) (v : Dword) : registerWriteEffect r false off 64 v s =
    writeWord r (off + 4) (v.extractLsb' 32 32) (writeWord r off (v.extractLsb' 0 32) s) := by
  simp [registerWriteEffect, attached_linked linked, reach, aligned]

end

/-- A write of a word that reaches a register goes on to the register's own command. -/
theorem writeWord_reaches {off : Nat} (page : (pageIndex (off / 0x1000 * 0x1000)).isSome = true)
    (answering : pageAnswers s (off / 0x1000 * 0x1000) = true) (register : (regVal s off).isSome = true) (body : 0x100 ≤ off % 0x1000)
    (r : Nat) (v : Word) : writeWord r off v s =
      if (stMask off).isSome then stWriteEffect r off v s
      else if (qcfgAt off).isSome then queueConfigWriteEffect r off v s
      else if off / 0x1000 * 0x1000 = 0 then hostWrite s r off v
      else if off / 0x1000 * 0x1000 = 0x7000 then jobWrite s r off v
      else unitWrite s r off v := by
  have found : (pageIndex (off / 0x1000 * 0x1000)).isNone = false := by simpa using page
  have there : (regVal s off).isNone = false := by simpa using register
  have beyond : ¬ off % 0x1000 < 0x100 := by omega
  unfold writeWord
  dsimp only
  rw [found, answering, there, if_neg Bool.false_ne_true, Bool.not_true, if_neg Bool.false_ne_true, Bool.false_and, Bool.false_and,
    if_neg Bool.false_ne_true, if_neg beyond]

theorem writeWord_st {off : Nat} (st : (stMask off).isSome = true) (ready : isReady s = true) (r : Nat) (v : Word) :
    writeWord r off v s = stWriteEffect r off v s := by
  obtain ⟨-, body, -⟩ := stMask_place st
  have page := pageIndex_st st
  exact (writeWord_reaches page (pageAnswers_ready ready _) (regVal_isSome page body (.inl st) s) body r v).trans (if_pos st)

/-- CFG_DISCARD.go (R448). -/
theorem writeWord_discard (answering : pageAnswers s 0x5000 = true) (r : Nat) (v : Word) :
    writeWord r 0x5108 v s = if v.getLsbD 0 then cfgDiscardEffect r s else s :=
  writeWord_reaches (off := 0x5108) rfl answering rfl (by decide) r v

/-! ### Staging -/

theorem stWriteEffect_ready {off : Nat} (st : (stMask off).isSome = true) (ready : isReady s = true) (r : Nat) (v : Word) :
    stWriteEffect r off v s =
      if s.cfg.state ≥ 3 then accessErr s (off / 0x1000 * 0x1000) 2 r off else stageValue s off v := by
  obtain ⟨m, st⟩ := Option.isSome_iff_exists.1 st
  unfold stWriteEffect
  rw [st]
  exact if_neg (by simp [ready])

theorem shadow_stageValue (off : Nat) (v : Word) (o : Nat) : shadow (stageValue s off v) o = if o = off then v else shadow s o := by
  unfold shadow stageValue
  by_cases same : o = off
  · rw [if_pos same, same]
    exact (mget_mset ..).trans (if_pos rfl)
  · rw [if_neg same]
    exact mget_mset_ne _ _ _ _ _ same

theorem mem_stageValue_dirty (off : Nat) (v : Word) : off / 0x1000 * 0x1000 ∈ (stageValue s off v).cfg.dirty := by
  unfold stageValue
  dsimp only
  split
  · next listed => simpa using listed
  · exact List.mem_cons_self

/-! ### Discarding -/

theorem cfgResult_cfg (code rule wh : Nat) :
    (cfgResult s code rule wh).cfg = { s.cfg with result := BitVec.ofNat 32 (code * 2 ^ 28 + rule * 2 ^ 20 + wh) } :=
  (blockEvent_kept (List.Subset.refl _) (Kept.refl _ _)).frame .cfg (by decide)

/-- The discard as CFG_DISCARD makes it (R448). -/
def discarded (s : State) : State := discardStaged { s with cfg := { s.cfg with checking := false } }

theorem discarded_kept (s : State) : Kept [.cfg] s (discarded s) :=
  setCfg_kept (s := s) (x := (discarded s).cfg) (List.Subset.refl _) (Kept.refl _ s)

theorem cfgDiscardEffect_open (answering : pageAnswers s 0x5000 = true) (open_ : s.cfg.state < 4) (r : Nat) :
    cfgDiscardEffect r s = cfgResult (discarded s) 7 0 0 := by
  rw [cfgDiscardEffect, answering, Bool.not_true, if_neg Bool.false_ne_true, if_neg (by omega)]
  rfl

theorem cfgDiscardEffect_shut (answering : pageAnswers s 0x5000 = true) (shut : 4 ≤ s.cfg.state) (r : Nat) :
    cfgDiscardEffect r s = accessErr s 0x5000 6 r 0x5108 := by
  rw [cfgDiscardEffect, answering, Bool.not_true, if_neg Bool.false_ne_true, if_pos shut]

theorem accessErr_frame (s : State) (page cause r off : Nat) : s.changesOnly [.out, .host] (accessErr s page cause r off) :=
  (accessErr_kept (List.Subset.refl _) (Kept.refl _ s)).frame

/-! ### The obligation -/

/-- Settles O5: in the states that take a write it is staged and a discard restores the live values; in the others it is recorded.
A register access of either reaches the same effect. -/
theorem stagedWritesAndDiscard : Obligations.StagedWritesAndDiscard := by
  unfold Obligations.StagedWritesAndDiscard
  refine ⟨fun s r off v st ready open_ => ?_, fun s r off p v st ready shut page found first => ?_,
    fun s r off v st ready reach linked aligned => ?_, fun s r answering open_ => ?_, fun s r answering shut first => ?_,
    fun s r v answering reach linked go => ?_⟩
  · have effect := (stWriteEffect_ready st ready r.val v).trans (if_neg (by omega))
    exact ⟨_, congrArg Host.Outcome.next effect, (shadow_stageValue ..).trans (if_pos rfl),
      fun o other => (shadow_stageValue ..).trans (if_neg other), rfl, rfl, mem_stageValue_dirty off v,
      (stageValue_kept (List.Subset.refl _) (Kept.refl _ s)).frame⟩
  · subst page
    have effect := (stWriteEffect_ready st ready r.val v).trans (if_pos shut)
    exact ⟨_, congrArg Host.Outcome.next effect, accessErr_frame _ _ _ _ _ .cfg (by decide), accessErr_first _ _ _ _ _ first,
      accessErr_frame _ _ _ _ _⟩
  · exact congrArg Host.Outcome.next ((registerWriteEffect_word reach linked aligned v).trans (writeWord_st st ready _ _))
  · have frame := (cfgResult_kept (code := 7) (rule := 0) (wh := 0) (by decide : ([.out, .host, .cfg] : List Part) ⊆ [.out, .host, .cfg])
      (kept_widen (discarded_kept s) (by decide))).frame
    have cfg := cfgResult_cfg (s := discarded s) 7 0 0
    refine ⟨_, congrArg Host.Outcome.next (cfgDiscardEffect_open answering open_ _), ?_, ?_, ?_, ?_, ?_, ?_, frame⟩
    all_goals
      rw [cfg]
      rfl
  · exact ⟨_, congrArg Host.Outcome.next (cfgDiscardEffect_shut answering shut _), accessErr_frame _ _ _ _ _ .cfg (by decide),
      accessErr_first _ _ _ _ _ first, accessErr_frame _ _ _ _ _⟩
  · have low : (v.extractLsb' 0 32).getLsbD 0 = true := by simpa using go
    exact congrArg Host.Outcome.next ((registerWriteEffect_word reach linked rfl v).trans
      ((writeWord_discard answering _ _).trans (if_pos low)))

end Sys2Proof.Proofs
end

section
/-! Checking, applying and saving the configuration (R440, R442, R445 to R447, R353): what the checker's verdict makes of the state, the
apply of an idle part, and the copy of the store that a save writes. -/

namespace Sys2Proof.Proofs

open Sys2Proof Sys2Proof.Machine Sys2Proof.Laws

variable {s : State}

theorem cfgResult_frame {C : List Part} {z : State} (code rule wh : Nat) (hC : ([.out, .host] : List Part) ⊆ C ∧ ([.cfg] : List Part) ⊆ C)
    (h : Kept C z s) : z.changesOnly C (cfgResult s code rule wh) :=
  (blockEvent_kept hC.1 (setCfg_kept hC.2 h)).frame

/-- The fields of CFG_RESULT (R445). -/
theorem resultWord_fields {rule off : Nat} (small : rule < 256) (inBar : off < 0x100000) (code : Nat) (nibble : code < 16) :
    fld (BitVec.ofNat 32 (code * 2 ^ 28 + rule * 2 ^ 20 + off)) 31 28 = code ∧
      fld (BitVec.ofNat 32 (code * 2 ^ 28 + rule * 2 ^ 20 + off)) 27 20 = rule ∧
      fld (BitVec.ofNat 32 (code * 2 ^ 28 + rule * 2 ^ 20 + off)) 19 0 = off := by
  have whole : (BitVec.ofNat 32 (code * 2 ^ 28 + rule * 2 ^ 20 + off)).toNat = code * 2 ^ 28 + rule * 2 ^ 20 + off := by
    rw [BitVec.toNat_ofNat]
    exact Nat.mod_eq_of_lt (by omega)
  simp only [fld, bits, whole, Nat.shiftRight_eq_div_pow]
  omega

/-! ### The check -/

/-- The checker has ended and the state is as its verdict makes it (R445). -/
def checkEnds (s : State) (st : Nat) : State := { s with cfg := { s.cfg with checking := false, state := st } }

theorem cfgCheckDoneEffect_passes (runs : s.cfg.checking = true) (good : checkAll s = none) :
    cfgCheckDoneEffect s = cfgResult (checkEnds s (if s.cfg.state = 1 then 2 else s.cfg.state)) 1 0 0 := by
  rw [cfgCheckDoneEffect, if_neg (by simp [runs]), good]
  rfl

theorem cfgCheckDoneEffect_fails {rule off : Nat} (runs : s.cfg.checking = true) (bad : checkAll s = some (rule, off)) :
    cfgCheckDoneEffect s = cfgResult (checkEnds s (if s.cfg.state = 2 then 1 else s.cfg.state)) 2 rule off := by
  rw [cfgCheckDoneEffect, if_neg (by simp [runs]), bad]
  rfl

/-! ### The apply -/

/-- The copy over target k is begun, and not valid until its read-back (R442). -/
def saveBegun (s : State) (k : Nat) : State :=
  { s with cfg := { s.cfg with saving := some k, copies := mset s.cfg.copies none k (some { newCopy s k with valid := false }) } }

/-- The apply waits for the part to be idle (R447). -/
def applyPends (s : State) : State := { s with cfg := { s.cfg with state := 3 } }

section

variable (answering : pageAnswers s 0x5000 = true)
include answering

theorem cfgApplyEffect_checked (checked : s.cfg.state = 2) (r : Nat) : cfgApplyEffect r s = applyIfIdle (applyPends s) := by
  rw [cfgApplyEffect, answering, Bool.not_true, if_neg Bool.false_ne_true, if_neg (by omega), if_neg (by omega), if_pos checked]
  rfl

theorem cfgApplyEffect_unchecked (unchecked : s.cfg.state < 2) (r : Nat) : cfgApplyEffect r s = cfgResult s 6 0 0 := by
  rw [cfgApplyEffect, answering, Bool.not_true, if_neg Bool.false_ne_true, if_neg (by omega), if_neg (by omega), if_neg (by omega)]

theorem cfgCheckEffect_starts (open_ : s.cfg.state < 3) (r : Nat) :
    cfgCheckEffect r s = { s with cfg := { s.cfg with checking := true } } := by
  rw [cfgCheckEffect, answering, Bool.not_true, if_neg Bool.false_ne_true, if_neg (by omega), if_neg (by omega)]

theorem cfgSaveEffect_starts {k : Nat} (open_ : s.cfg.state ≠ 5) (idle : s.cfg.saving = none) (target : saveTarget s = some k) (r : Nat) :
    cfgSaveEffect r s = saveBegun s k := by
  rw [cfgSaveEffect, answering, Bool.not_true, if_neg Bool.false_ne_true, if_neg open_, if_neg (not_not_intro idle), target]
  rfl

end

/-- In an idle part a pending apply takes effect at once (R353, R447). -/
theorem applyPends_idle (idle : partIdle s = true) : applyIfIdle (applyPends s) = applyNow (applyPends s) := if_pos idle

theorem applyNow_passes (good : checkAgain (applyPends s) = none) : applyNow (applyPends s) = cfgResult (goLive (applyPends s)) 3 0 0 := by
  have pends : ¬ (applyPends s).cfg.state ≠ 3 := not_not_intro rfl
  rw [applyNow, if_neg pends, good]

theorem applyNow_fails {rule off : Nat} (bad : checkAgain (applyPends s) = some (rule, off)) :
    applyNow (applyPends s) = cfgResult { s with cfg := { s.cfg with state := 1 } } 4 rule off := by
  have pends : ¬ (applyPends s).cfg.state ≠ 3 := not_not_intro rfl
  rw [applyNow, if_neg pends, bad]
  rfl

/-- What an apply makes of the configuration, whatever links restart and parts go absent with it (R447). -/
theorem goLive_cfg (s : State) : (goLive s).cfg = (wentLive s).cfg := by
  have settled : ∀ ns ps : List Nat, (forEach ns (forEach ps s clockTick) spinSettle).cfg = s.cfg := fun ns ps =>
    (forEach_kept (C := [.tile]) (forEach_kept (Kept.refl _ s) fun _ _ h => clockTick_kept (List.Subset.refl _) h) fun _ _ h =>
      spinSettle_kept (List.Subset.refl _) h).frame .cfg (by decide)
  have follows : ∀ x : State, (afterApply x (wentLive x)).cfg = (wentLive x).cfg := fun x =>
    (afterApply_kept (List.Subset.refl _) (Kept.refl _ _)).frame .cfg (by decide)
  unfold goLive
  refine (follows _).trans ?_
  simp only [wentLive, settled]

/-! ### The save -/

theorem saveTarget_lt {k : Nat} (target : saveTarget s = some k) : k < 2 := by
  unfold saveTarget at target
  split at target
  · cases target
  · cases target
    decide
  · cases target
    decide
  · split_ifs at target <;> cases target <;> decide

theorem copyValid_of_copy {k : Nat} {c : StoreCopy} (copy : mget s.cfg.copies none k = some c) : copyValid s k = c.valid := by
  rw [copyValid, copy]

theorem copyValid_saveBegun (s : State) (k : Nat) : copyValid (saveBegun s k) k = false :=
  copyValid_of_copy (c := { newCopy s k with valid := false }) 
    ((mget_mset s.cfg.copies none k (some { newCopy s k with valid := false }) k).trans (if_pos rfl))

theorem copyOf_saveBegun_ne (s : State) {k j : Nat} (other : j ≠ k) :
    mget (saveBegun s k).cfg.copies none j = mget s.cfg.copies none j :=
  mget_mset_ne s.cfg.copies none none k (some { newCopy s k with valid := false }) other

/-- The save has ended, and the copy is valid as its read-back was right (R442). -/
def saveEnds (s : State) (k : Nat) (ok : Bool) : State :=
  { s with cfg := { s.cfg with
      saving := none, copies := mset s.cfg.copies none k ((mget s.cfg.copies none k).map fun c => { c with valid := ok }) } }

theorem cfgSaveDoneEffect_ends {k : Nat} (runs : s.cfg.saving = some k) (ok : Bool) :
    cfgSaveDoneEffect ok s = cfgResult (saveEnds s k ok) (if ok then 8 else 9) 0 0 := by
  rw [cfgSaveDoneEffect, runs]
  rfl

theorem copyOf_saveEnds (s : State) (k : Nat) (ok : Bool) :
    mget (saveEnds s k ok).cfg.copies none k = (mget s.cfg.copies none k).map fun c => { c with valid := ok } :=
  (mget_mset ..).trans (if_pos rfl)

theorem copyValid_of_copies {t u : State} (same : u.cfg.copies = t.cfg.copies) (k : Nat) : copyValid u k = copyValid t k := by
  rw [copyValid, same, copyValid]

/-! ### The obligation -/

/-- Settles O51: each command sets the configuration's state and CFG_RESULT; only the apply of an idle part whose values pass moves the
live values, and its restarts leave the configuration as the apply made it. -/
theorem configurationStaging : Obligations.ConfigurationStaging := by
  unfold Obligations.ConfigurationStaging
  refine ⟨fun s answering open_ => ?_, fun s runs good => ?_, fun s rule off runs bad small inBar => ?_,
    fun s answering checked busy => ?_, fun s u pends answering checked idle good => ?_, fun s u x pends answering checked idle bad => ?_,
    fun s answering unchecked => congrArg Host.Outcome.next (cfgApplyEffect_unchecked answering unchecked _),
    fun s k answering open_ idle target => ?_, fun s k c runs copy => ?_, fun s k runs => ?_⟩
  · exact ⟨_, congrArg Host.Outcome.next (cfgCheckEffect_starts answering open_ _), rfl,
      (setCfg_kept (List.Subset.refl _) (Kept.refl _ s)).frame⟩
  · have cfg := cfgResult_cfg (s := checkEnds s (if s.cfg.state = 1 then 2 else s.cfg.state)) 1 0 0
    refine ⟨_, congrArg Host.Outcome.next (cfgCheckDoneEffect_passes runs good), ?_, ?_, ?_, ?_, ?_,
      cfgResult_frame 1 0 0 (by decide) (setCfg_kept (by decide) (Kept.refl _ s))⟩
    all_goals
      rw [cfg]
      rfl
  · have cfg := cfgResult_cfg (s := checkEnds s (if s.cfg.state = 2 then 1 else s.cfg.state)) 2 rule off
    obtain ⟨code, failed, where_⟩ := resultWord_fields small inBar 2 (by decide)
    refine ⟨_, congrArg Host.Outcome.next (cfgCheckDoneEffect_fails runs bad), ?_, ?_, ?_, ?_, ?_,
      cfgResult_frame 2 rule off (by decide) (setCfg_kept (by decide) (Kept.refl _ s))⟩
    all_goals rw [cfg]
    · rfl
    · exact code
    · exact failed
    · exact where_
    · rfl
  · have effect : cfgApplyEffect 4 s = applyPends s :=
      (cfgApplyEffect_checked answering checked 4).trans (if_neg (ne_true_of_eq_false busy))
    exact ⟨_, congrArg Host.Outcome.next effect, rfl, (setCfg_kept (List.Subset.refl _) (Kept.refl _ s)).frame⟩
  · subst pends
    have effect := ((cfgApplyEffect_checked answering checked 4).trans (applyPends_idle idle)).trans (applyNow_passes good)
    have cfg := (cfgResult_cfg (s := goLive (applyPends s)) 3 0 0).trans (by rw [goLive_cfg])
    refine ⟨_, congrArg Host.Outcome.next effect, ?_, ?_, ?_, ?_, ?_, ?_⟩
    all_goals
      rw [cfg]
      rfl
  · subst pends
    have effect := ((cfgApplyEffect_checked answering checked 4).trans (applyPends_idle idle)).trans (applyNow_fails bad)
    have cfg := cfgResult_cfg (s := { s with cfg := { s.cfg with state := 1 } }) 4 x.1 x.2
    refine ⟨_, congrArg Host.Outcome.next effect, ?_, ?_, ?_, ?_,
      cfgResult_frame 4 x.1 x.2 (by decide) (setCfg_kept (by decide) (Kept.refl _ s))⟩
    all_goals rw [cfg]
  · have other : 1 - k ≠ k := by
      have low := saveTarget_lt target
      omega
    exact ⟨_, congrArg Host.Outcome.next (cfgSaveEffect_starts answering open_ idle target _), rfl, copyValid_saveBegun s k,
      copyOf_saveBegun_ne s other, (setCfg_kept (List.Subset.refl _) (Kept.refl _ s)).frame⟩
  · have cfg := cfgResult_cfg (s := saveEnds s k true) 8 0 0
    refine ⟨_, congrArg Host.Outcome.next (cfgSaveDoneEffect_ends runs true), ?_, ?_, ?_,
      cfgResult_frame 8 0 0 (by decide) (setCfg_kept (by decide) (Kept.refl _ s))⟩
    · exact (congrArg (fun x : CfgSt => mget x.copies none k) cfg).trans ((copyOf_saveEnds s k true).trans (by rw [copy]; rfl))
    · exact congrArg CfgSt.saving cfg
    · exact congrArg CfgSt.result cfg
  · have cfg := cfgResult_cfg (s := saveEnds s k false) 9 0 0
    refine ⟨_, congrArg Host.Outcome.next (cfgSaveDoneEffect_ends runs false), ?_, ?_, ?_,
      cfgResult_frame 9 0 0 (by decide) (setCfg_kept (by decide) (Kept.refl _ s))⟩
    · refine (copyValid_of_copies (t := saveEnds s k false) (congrArg CfgSt.copies cfg :) k).trans ?_
      rw [copyValid, copyOf_saveEnds]
      cases mget s.cfg.copies none k <;> rfl
    · exact congrArg CfgSt.saving cfg
    · exact congrArg CfgSt.result cfg

end Sys2Proof.Proofs
end

section
/-! Register access of every requester (R451, R452, R461 to R463), interrupts (R458), read ports (R464), the configuration of queues
(R456), MCTP and I3C (R459, R460). -/

namespace Sys2Proof.Proofs

open Sys2Proof Sys2Proof.Machine Sys2Proof.Laws

variable {s : State} {r off : Nat}

/-! ### The vector map, an RW register of the HOST page -/

section

variable (aligned : off % 4 = 0) (low : 0x400 ≤ off) (high : off < 0x800)
include low high

theorem vectorMap_page : off / 0x1000 * 0x1000 = 0 := by omega

theorem stMask_vectorMap : stMask off = none := by
  rw [← Option.not_isSome_iff_eq_none]
  unfold stMask
  simp only [ite_isSome, Option.isSome_some, Option.isSome_none, Bool.false_eq_true, and_false, and_true, false_or, or_false]
  omega

theorem qcfgAt_vectorMap : qcfgAt off = none := by
  unfold qcfgAt
  dsimp only
  rw [if_neg (by omega), if_neg (by omega), if_neg (by omega)]

include aligned

theorem rwMask_vectorMap : (rwMask off).isSome = true := by
  unfold rwMask
  dsimp only
  rw [if_neg (by omega), if_neg (by omega), if_neg (by omega), if_pos (by omega)]
  rfl

theorem writeWord_vectorMap (ready : isReady s = true) (r : Nat) (v : Word) : writeWord r off v s = setRw s off (v &&& 0x7FF) := by
  have page := vectorMap_page low high
  have index : (pageIndex (off / 0x1000 * 0x1000)).isSome = true := by
    rw [page]
    rfl
  have body : 0x100 ≤ off % 0x1000 := by omega
  rw [writeWord_reaches index (pageAnswers_ready ready _) (regVal_isSome index body (.inr (rwMask_vectorMap aligned low high)) s) body,
    stMask_vectorMap low high, qcfgAt_vectorMap low high, page]
  change hostWrite s r off v = setRw s off (v &&& 0x7FF)
  rw [hostWrite, if_neg (by omega), if_neg (by omega), if_neg (by omega), if_neg (by omega), if_neg (by omega)]
  exact if_pos ⟨low, high⟩

end

/-! ### Writes that are refused -/

section

variable (reach : reachable s r = true) (linked : s.host.linkLost = false)
include reach linked

theorem registerWriteEffect_ill {w : Nat} (index : (pageIndex (off / 0x1000 * 0x1000)).isSome = true) (ready : isReady s = true)
    (ill : off % 4 ≠ 0 ∨ (w ≠ 32 ∧ w ≠ 64)) (v : Dword) :
    registerWriteEffect r false off w v s = accessErr s (off / 0x1000 * 0x1000) 1 r off := by
  have found : (pageIndex (off / 0x1000 * 0x1000)).isNone = false := by simpa using index
  rw [registerWriteEffect]
  dsimp only
  rw [attached_linked linked, reach, Bool.not_true, if_neg Bool.false_ne_true, if_pos ill, found, pageAnswers_ready ready]
  rfl

end

theorem registerWriteEffect_unreached (linked : s.host.linkLost = false) (unreached : reachable s r = false) (bar2 : Bool) (w : Nat)
    (v : Dword) : registerWriteEffect r bar2 off w v s = s := by
  rw [registerWriteEffect]
  dsimp only
  rw [attached_linked linked, unreached, Bool.not_false, if_pos rfl]

theorem writeWord_nowhere (nowhere : pageIndex (off / 0x1000 * 0x1000) = none) (r : Nat) (v : Word) :
    writeWord r off v s = accessErr s 0 7 r off := by
  rw [writeWord, nowhere]
  rfl

theorem writeWord_silent (index : (pageIndex (off / 0x1000 * 0x1000)).isSome = true) (silent : pageAnswers s (off / 0x1000 * 0x1000) = false)
    (firmware : 3 ≤ s.boot.stage) (r : Nat) (v : Word) : writeWord r off v s = accessErr s 0 3 r off := by
  have found : (pageIndex (off / 0x1000 * 0x1000)).isNone = false := by simpa using index
  rw [writeWord, found, silent, if_neg Bool.false_ne_true, Bool.not_false, if_pos rfl, notReady, if_pos firmware]

/-! ### Interrupt and error registers -/

/-- No counter lies in a page header (R461, R462). -/
theorem counterVal_header (header : off % 0x1000 < 0x100) (s : State) : counterVal s off = none := by
  have at_ : counterAt off = false := by
    rw [← Bool.not_eq_true]
    unfold counterAt
    simp only [Bool.or_eq_true, Bool.and_eq_true, beq_iff_eq, decide_eq_true_eq]
    omega
  unfold counterVal
  dsimp only
  rw [if_neg (by omega), if_neg (by omega), if_neg (by omega), if_neg (by omega), at_]
  rfl

/-- A page's access error reads and is cleared (R461, R463). -/
theorem readWord_acc {p : Nat} (page : p % 0x1000 = 0) (index : (pageIndex p).isSome = true) (answering : pageAnswers s p = true) (r : Nat) :
    readWord s r (p + 0x20) = (accWord (mget s.host.acc {} p), clearAcc s p) := by
  have found : (pageIndex p).isNone = false := by simpa using index
  have base : (p + 0x20) / 0x1000 * 0x1000 = p := by omega
  have header : (p + 0x20) % 0x1000 = 0x20 := by omega
  have value : regVal s (p + 0x20) = some (accWord (mget s.host.acc {} p)) := by
    unfold regVal
    dsimp only
    rw [base, found, if_neg Bool.false_ne_true, header]
    rfl
  unfold readWord
  dsimp only
  rw [base, answering, found, counterVal_header (by omega), counterVal_header (by omega), ite_self, value, header]
  rfl

theorem acc_clearAcc (s : State) (p q : Nat) : mget (clearAcc s p).host.acc {} q = if q = p then {} else mget s.host.acc {} q :=
  mget_mset s.host.acc {} p {} q

theorem accessErrReadEffect_page {p : Nat} (page : p % 0x1000 = 0) (index : (pageIndex p).isSome = true) (answering : pageAnswers s p = true)
    (r : Nat) : accessErrReadEffect r p s = emit (clearAcc s p) (.reply r (leBytes 4 (accWord (mget s.host.acc {} p)).toNat)) := by
  rw [accessErrReadEffect, readWord_acc page index answering]

theorem irqStatusClearEffect_page {p : Nat} (index : (pageIndex p).isSome = true) (answering : pageAnswers s p = true) (v : Word) :
    irqStatusClearEffect p v s = { s with host := { s.host with irqStatus := mupd s.host.irqStatus 0 p fun x => x &&& ~~~ v } } := by
  have found : (pageIndex p).isNone = false := by simpa using index
  rw [irqStatusClearEffect, found, if_neg Bool.false_ne_true, answering, Bool.not_true, if_neg Bool.false_ne_true]

theorem irqForceEffect_page {p k : Nat} (index : pageIndex p = some k) (answering : pageAnswers s p = true) (v : Word) :
    irqForceEffect p v s = setIrq s p (v &&& irqMask p) := by
  rw [irqForceEffect, index, Option.isNone_some, if_neg Bool.false_ne_true, answering, Bool.not_true, if_neg Bool.false_ne_true]

/-- A read port's oldest record goes (R464), by where the port lies. -/
theorem queuePopEffect_pops {port : Nat} {v : Word} (ready : isReady s = true) (pop : v.getLsbD 0 = true) :
    queuePopEffect (port + 8) v s =
      if port / 0x1000 = 7 ∧ 0x200 ≤ port % 0x1000 ∧ port % 0x1000 < 0xE00 ∧ (port % 0x1000 - 0x200) % 0x180 = 0x100 then
        updFab s ((port % 0x1000 - 0x200) / 0x180) fun f => { f with late := f.late.drop 1 }
      else if (0x10000 ≤ port ∧ port < 0x14000 ∨ 0x50000 ≤ port ∧ port < 0x5C000) ∧ port % 0x1000 = 0x180 then
        { s with tel := { s.tel with logs := mupd s.tel.logs [] port fun q => q.drop 1 } }
      else if port / 0x1000 = 0x80 ∧ 0x400 ≤ port % 0x1000 ∧ port % 0x1000 < 0x800 ∧ port % 0x1000 % 0x80 = 0 then
        { s with rink := { s.rink with merr := mupd s.rink.merr [] ((port % 0x1000 - 0x400) / 0x80) fun q => q.drop 1 } }
      else s := by
  have asked : ¬ (port + 8 < 8 ∨ ¬ v.getLsbD 0 = true) := by simp [pop]
  rw [queuePopEffect, pageAnswers_ready ready, Bool.not_true, if_neg Bool.false_ne_true, if_neg asked, Nat.add_sub_cancel]

theorem msix_open {v : Nat} (open_ : mget s.host.msixOpen false v = true) (up : s.host.d3 = false) (linked : s.host.linkLost = false) :
    msix s v = emit s (.msix v) := by
  simp [msix, open_, up, linked]

theorem setIrq_out {p k : Nat} (index : pageIndex p = some k) (v : Word)
    (open_ : mget s.host.msixOpen false ((rw s (0x400 + 4 * (64 + k))).toNat % 2048) = true) (up : s.host.d3 = false)
    (linked : s.host.linkLost = false) : (setIrq s p v).out = s.out ++
      (if mget s.host.irqStatus 0 p &&& mget s.host.irqEnable 0 p = 0 ∧
          (mget s.host.irqStatus 0 p ||| v) &&& mget s.host.irqEnable 0 p ≠ 0
        then [.msix ((rw s (0x400 + 4 * (64 + k))).toNat % 2048)] else []) := by
  unfold setIrq
  dsimp only
  split
  · rw [index]
    exact congrArg State.out (msix_open (s := { s with host := { s.host with
      irqStatus := mset s.host.irqStatus 0 p (mget s.host.irqStatus 0 p ||| v) } }) open_ up linked)
  · exact (List.append_nil _).symm

/-! ### The configuration of queues -/

theorem qcfgAt_jobEvq {c k : Nat} (context : c < 8) (word : k = 0x80 ∨ k = 0x84 ∨ k = 0x88) :
    qcfgAt (jobBase c + k) = some (.jobEvq c, jobBase c + 0x80) := by
  unfold qcfgAt jobBase
  dsimp only
  have place : (0x7200 + 0x180 * c + k) / 0x1000 = 7 ∧ (0x7200 + 0x180 * c + k) % 0x1000 = 0x200 + 0x180 * c + k := by
    rcases word with rfl | rfl | rfl <;> omega
  rw [place.1, place.2]
  have slot : (0x200 + 0x180 * c + k - 0x200) / 0x180 = c := by omega
  have inside : (0x200 + 0x180 * c + k - 0x200) % 0x180 = k := by omega
  rw [if_neg (by omega), if_neg (by omega), if_pos (by omega), slot, inside, if_pos word]

theorem qcfgAt_dma {ch : Nat} (channel : ch < 32) : qcfgAt (chanBase ch + 8) = some (.dma ch, chanBase ch) := by
  unfold qcfgAt chanBase
  dsimp only
  have slot : ((0x800 + 0x20 * ch + 8) % 0x1000 - 0x800) / 0x20 = ch := by omega
  rw [if_neg (by omega), if_pos (by omega), slot]

theorem jobBase_page {c k : Nat} (context : c < 8) (window : k < 0x180) : (jobBase c + k) / 0x1000 * 0x1000 = 0x7000 := by
  unfold jobBase
  omega

/-- The high word of a base, with the low word that waits (R456, R462). -/
theorem queueConfigWriteEffect_base {q : QCfg} {b : Nat} (answering : pageAnswers s ((b + 4) / 0x1000 * 0x1000) = true)
    (queue : qcfgAt (b + 4) = some (q, b)) (free_ : queueLocked s q = false)
    (aligned : ((mget s.host.lows none (reqKey r b)).getD (rw s b)).toNat % baseAlign q = 0) (v : Word) :
    queueConfigWriteEffect r (b + 4) v s =
      resetQueue (setRw64 (takeLow s r b (rw s b)).2 b ((mget s.host.lows none (reqKey r b)).getD (rw s b)) v) q true := by
  unfold queueConfigWriteEffect
  dsimp only
  rw [answering, Bool.not_true, if_neg Bool.false_ne_true, queue]
  dsimp only
  rw [free_, if_neg Bool.false_ne_true, if_neg (by omega), if_pos rfl]
  exact if_pos aligned

/-- A slot count (R456). -/
theorem queueConfigWriteEffect_slots {q : QCfg} {b : Nat} (answering : pageAnswers s ((b + 8) / 0x1000 * 0x1000) = true)
    (queue : qcfgAt (b + 8) = some (q, b)) (free_ : queueLocked s q = false) (v : Word) :
    queueConfigWriteEffect r (b + 8) v s =
      if slotsOk q v.toNat then resetQueue (setRw s (b + 8) v) q false else accessErr s ((b + 8) / 0x1000 * 0x1000) 10 r (b + 8) := by
  unfold queueConfigWriteEffect
  dsimp only
  rw [answering, Bool.not_true, if_neg Bool.false_ne_true, queue]
  dsimp only
  rw [free_, if_neg Bool.false_ne_true, if_neg (by omega), if_neg (by omega)]

theorem queueConfigWriteEffect_locked {q : QCfg} {b : Nat} (answering : pageAnswers s (off / 0x1000 * 0x1000) = true)
    (queue : qcfgAt off = some (q, b)) (locked : queueLocked s q = true) (v : Word) :
    queueConfigWriteEffect r off v s = accessErr s (off / 0x1000 * 0x1000) 8 r off := by
  unfold queueConfigWriteEffect
  dsimp only
  rw [answering, Bool.not_true, if_neg Bool.false_ne_true, queue]
  exact if_pos locked

theorem toNat_mod_of_and {x : Word} (low : x &&& 63 = 0) : x.toNat % 64 = 0 := by
  have value := congrArg BitVec.toNat low
  rw [BitVec.toNat_and] at value
  exact (Nat.and_two_pow_sub_one_eq_mod x.toNat 6).symm.trans value

theorem rw_setRw64 (s : State) (b : Nat) (lo hi : Word) (o : Nat) :
    rw (setRw64 s b lo hi) o = if o = b + 4 then hi else if o = b then lo else rw s o := by
  rw [setRw64, rw_setRw, rw_setRw]

/-! ### MCTP and I3C -/

theorem setWidth_low (v : Word) : (v.setWidth 64).extractLsb' 0 32 = v := by
  refine BitVec.eq_of_toNat_eq ?_
  simpa using v.isLt

theorem completion_ready (ready : isReady s = true) (off n : Nat) : completion s off n = 0 :=
  if_pos (List.all_eq_true.2 fun _ _ => pageAnswers_ready ready _)

/-- One word of the vector map by way of consecutive writes (R459, R460). -/
theorem writeWords_vectorMap (reach : reachable s r = true) (linked : s.host.linkLost = false) (ready : isReady s = true)
    (aligned : off % 4 = 0) (low : 0x400 ≤ off) (high : off < 0x800) (v : Word) :
    writeWords r off [v] s = setRw s off (v &&& 0x7FF) := by
  rw [writeWords, writeWords, registerWriteEffect_word reach linked aligned, setWidth_low, writeWord_vectorMap aligned low high ready]

theorem wholeWords_word (v : Word) : wholeWords (leBytes 4 v.toNat) = [v] := by
  have value : lat (leBytes 4 v.toNat) 0 4 = v.toNat := lat_leBytes v.isLt
  unfold wholeWords
  rw [leBytes_length]
  simp only [List.range_one, Nat.reduceDiv, List.map_cons, List.map_nil, wordOf, Nat.mul_zero, value, BitVec.ofNat_toNat, BitVec.setWidth_eq]

theorem i3cPrivateWriteEffect_word (aon : s.boot.aon = true) (off v : Word) :
    i3cPrivateWriteEffect (leBytes 4 off.toNat ++ leBytes 4 v.toNat) s =
      writeWords 6 off.toNat [v] { s with host := { s.host with i3cOff := off.toNat } } := by
  have place : lat (leBytes 4 off.toNat ++ leBytes 4 v.toNat) 0 4 = off.toNat := (lat_append_here 4 _ _).trans (Nat.mod_eq_of_lt off.isLt)
  unfold i3cPrivateWriteEffect
  rw [if_neg (by simp [aon])]
  dsimp only
  rw [place, List.drop_left' (leBytes_length ..), wholeWords_word]

/-! ### Messages held for the link -/

theorem sendPending_asleep (asleep : s.host.d3 = true) : sendPending s = s :=
  forEach_same fun v _ => if_neg (by simp [asleep])

theorem sendPending_one {v : Nat} (one : s.host.msixPend = [(v, true)]) (open_ : mget s.host.msixOpen false v = true)
    (up : s.host.d3 = false) (linked : s.host.linkLost = false) :
    sendPending s = emit { s with host := { s.host with msixPend := [] } } (.msix v) := by
  have gone : mset s.host.msixPend false v false = [] := by
    rw [one]
    simp [mset, mdel]
  unfold sendPending
  have may : (mget s.host.msixOpen false v && !s.host.d3 && !s.host.linkLost) = true := by simp [open_, up, linked]
  have pending : s.host.msixPend.map (·.1) = [v] := by rw [one, List.map_cons, List.map_nil]
  rw [pending, ← gone]
  exact if_pos may

/-! ### The obligation -/

theorem setRw_frame (s : State) (off : Nat) (v : Word) : s.changesOnly [.regs] (setRw s off v) :=
  (setRw_kept (List.Subset.refl _) (Kept.refl _ s)).frame

theorem setHost_kept {C : List Part} {z : State} {x : HostSt} (regs : x.regs = s.host.regs) (fw : x.fw = s.host.fw)
    (hC : ([.host] : List Part) ⊆ C) (h : Kept C z s) : Kept C z { s with host := x } := by
  refine Kept.put h (mems := fun ⟨hostMem, dev, scratch, store, buf⟩ => ⟨hostMem, dev, scratch, store, fw ▸ buf⟩) (frame := fun p other => ?_)
  cases p
  case regs => exact regs
  case fw => exact fw
  case host => exact absurd (Part.sub hC (List.mem_singleton_self _)) other
  case sem => exact ⟨rfl, rfl⟩
  all_goals rfl

theorem setHost_frame {x : HostSt} (regs : x.regs = s.host.regs) (fw : x.fw = s.host.fw) : s.changesOnly [.host] { s with host := x } :=
  (setHost_kept regs fw (List.Subset.refl _) (Kept.refl _ s)).frame

theorem resetQueue_host (s : State) (base : Bool) : Kept [.host] s (resetQueue s .hostEvq base) :=
  setHost_kept (x := (resetQueue s .hostEvq base).host) rfl rfl (List.Subset.refl _) (Kept.refl _ s)

theorem resetQueue_job (s : State) (c : Nat) (base : Bool) : Kept [.job] s (resetQueue s (.jobEvq c) base) :=
  updCtx_kept (List.Subset.refl _) (Kept.refl _ s)

theorem i3cOff_kept (s : State) (n : Nat) : Kept [.host] s { s with host := { s.host with i3cOff := n } } :=
  setHost_kept rfl rfl (List.Subset.refl _) (Kept.refl _ s)

/-- Settles O55: each access goes to the command of its register or is refused with its cause; the registers, queues and messages
behind them change as their rules say. -/
theorem registerAccess : Obligations.RegisterAccess := by
  unfold Obligations.RegisterAccess
  refine ⟨fun s r off v reach linked ready aligned low high => ?_, fun s r off v reach linked aligned => ?_,
    fun s r off w v reach linked ready index ill => ?_, fun s r off v reach linked aligned nowhere => ?_,
    fun s r off v reach linked aligned firmware index silent => ?_, fun s r bar2 off w v unreached linked => ?_,
    fun s r p index answering => ?_, fun s p v index answering => ?_, fun s p k v st en index answering status enabled open_ up linked => ?_,
    fun s c v ready pop => ?_, fun s k v ready pop => ?_, fun s d v ready pop => ?_, fun s c v ready pop => ?_,
    fun s r v answering count => ?_, fun s r c v ready notRunning notDraining base => ?_, fun s r c v ready busy => ?_,
    fun s r ch v answering count => ?_, fun s p eid up linked => ?_, fun s p off up linked => ?_,
    fun s p off v up reach linked ready low high aligned => ?_, fun s off v aon linked ready low high aligned => ?_,
    fun s n aon => ?_, fun s a aon => ?_, fun s => ?_, fun s v one open_ linked => ?_⟩
  · have effect := (registerWriteEffect_word reach linked aligned v).trans (writeWord_vectorMap aligned low high ready r.val _)
    exact ⟨_, congrArg Host.Outcome.next effect, (rw_setRw ..).trans (if_pos rfl), fun o other => (rw_setRw ..).trans (if_neg other),
      setRw_frame _ _ _⟩
  · exact congrArg Host.Outcome.next (registerWriteEffect_pair reach linked aligned v)
  · exact congrArg Host.Outcome.next (registerWriteEffect_ill reach linked index ready ill v)
  · exact congrArg Host.Outcome.next ((registerWriteEffect_word reach linked aligned v).trans (writeWord_nowhere nowhere _ _))
  · exact congrArg Host.Outcome.next ((registerWriteEffect_word reach linked aligned v).trans
      (writeWord_silent index silent firmware _ _))
  · exact congrArg Host.Outcome.next (registerWriteEffect_unreached linked unreached bar2 w v)
  · have effect := accessErrReadEffect_page (Nat.mul_mod_left ..) index answering r.val
    exact ⟨_, congrArg Host.Outcome.next effect, rfl, (acc_clearAcc ..).trans (if_pos rfl), fun q other => (acc_clearAcc ..).trans (if_neg other),
      (emit_kept (by decide) (clearAcc_kept (by decide) (Kept.refl _ s))).frame⟩
  · have effect := irqStatusClearEffect_page index answering v
    have status := fun q => mget_mupd s.host.irqStatus 0 (p / 0x1000 * 0x1000) (fun x => x &&& ~~~ v) q
    exact ⟨_, congrArg Host.Outcome.next effect, (status _).trans (if_pos rfl), fun q other => (status q).trans (if_neg other),
      setHost_frame rfl rfl⟩
  · have effect := irqForceEffect_page index answering v
    subst status enabled
    exact ⟨_, congrArg Host.Outcome.next effect, setIrq_status .., setIrq_out index _ open_ up linked,
      (setIrq_kept (by decide) (Kept.refl _ s)).frame⟩
  · have context := c.isLt
    have slot : (jobBase c.val + 0x100) % 0x1000 = 0x300 + 0x180 * c.val ∧ (0x300 + 0x180 * c.val - 0x200) / 0x180 = c.val := by
      unfold jobBase
      omega
    have effect := (queuePopEffect_pops (port := jobBase c.val + 0x100) ready pop).trans (if_pos (by rw [slot.1]; unfold jobBase; omega))
    rw [slot.1, slot.2] at effect
    refine ⟨_, congrArg Host.Outcome.next effect, ?_, (updFab_kept (List.Subset.refl _) (Kept.refl _ s)).frame⟩
    rw [ctxOf_updFab, if_pos rfl]
  · have stack := k.isLt
    have effect := ((queuePopEffect_pops (port := hbmPage k.val + 0x180) ready pop).trans (if_neg (by unfold hbmPage; omega))).trans
      (if_pos (by unfold hbmPage; omega))
    exact ⟨_, congrArg Host.Outcome.next effect, (mget_mupd s.tel.logs [] _ _ _).trans (if_pos rfl), (setTel_kept (List.Subset.refl _) (Kept.refl _ s)).frame⟩
  · have die := d.isLt
    have effect := ((queuePopEffect_pops (port := 0x10180 + 0x1000 * d.val) ready pop).trans (if_neg (by omega))).trans (if_pos (by omega))
    have place : 0x10188 + 0x1000 * d.val = 0x10180 + 0x1000 * d.val + 8 := by omega
    rw [place]
    exact ⟨_, congrArg Host.Outcome.next effect, (mget_mupd s.tel.logs [] _ _ _).trans (if_pos rfl), (setTel_kept (List.Subset.refl _) (Kept.refl _ s)).frame⟩
  · have context := c.isLt
    have slot : (0x80400 + 0x80 * c.val) % 0x1000 = 0x400 + 0x80 * c.val ∧ (0x400 + 0x80 * c.val - 0x400) / 0x80 = c.val := by omega
    have place : 0x80408 + 0x80 * c.val = 0x80400 + 0x80 * c.val + 8 := by omega
    have effect := (((queuePopEffect_pops (port := 0x80400 + 0x80 * c.val) ready pop).trans (if_neg (by omega))).trans
      (if_neg (by omega))).trans (if_pos (by omega))
    rw [slot.1, slot.2] at effect
    rw [place]
    exact ⟨_, congrArg Host.Outcome.next effect, (mget_mupd s.rink.merr [] _ _ _).trans (if_pos rfl),
      (setRink_kept (List.Subset.refl _) (Kept.refl _ s)).frame⟩
  · have effect := (queueConfigWriteEffect_slots (r := r.val) (b := 0x120) answering rfl rfl v).trans (if_pos count)
    exact ⟨_, congrArg Host.Outcome.next effect, (rw_setRw s 0x128 v 0x128).trans (if_pos rfl), rfl,
      ((kept_widen (setRw_kept (List.Subset.refl _) (Kept.refl _ s)) (by decide)).trans
        (kept_widen (resetQueue_host _ _) (by decide))).frame⟩
  · have page : pageAnswers s ((jobBase c.val + 0x80 + 4) / 0x1000 * 0x1000) = true := pageAnswers_ready ready _
    have queue : qcfgAt (jobBase c.val + 0x80 + 4) = _ := qcfgAt_jobEvq (k := 0x84) c.isLt (by decide)
    have free_ : queueLocked s (.jobEvq c.val) = false := by simp [queueLocked, notRunning, notDraining]
    have effect := queueConfigWriteEffect_base (r := r.val) page queue free_ (toNat_mod_of_and base) v
    refine ⟨_, congrArg Host.Outcome.next effect, (rw_setRw64 ..).trans (if_pos rfl),
      (rw_setRw64 ..).trans ((if_neg (by omega)).trans (if_pos rfl)), (congrArg JobCtx.evq (ctxOf_updCtx_same ..) :),
      (mget_mset s.host.lows none _ none _).trans (if_pos rfl), ?_⟩
    exact ((kept_widen (setRw64_kept (by decide) (takeLow_kept (by decide) (Kept.refl [.regs, .host] s))) (by decide)).trans
      (kept_widen (resetQueue_job _ _ _) (by decide))).frame
  · have page := jobBase_page (k := 0x88) c.isLt (by decide)
    have locked : queueLocked s (.jobEvq c.val) = true := by
      rcases busy with running | draining
      · simp [queueLocked, running]
      · simp [queueLocked, draining]
    have effect := queueConfigWriteEffect_locked (r := r.val) (pageAnswers_ready ready _) (qcfgAt_jobEvq (k := 0x88) c.isLt (by decide)) locked v
    rw [page] at effect
    exact congrArg Host.Outcome.next effect
  · have channel := ch.isLt
    have page : (chanBase ch.val + 8) / 0x1000 * 0x1000 = 0 := by
      unfold chanBase
      omega
    have effect := (queueConfigWriteEffect_slots (r := r.val) (page.symm ▸ answering) (qcfgAt_dma ch.isLt) rfl v).trans
      (if_neg (ne_true_of_eq_false count))
    rw [page] at effect
    exact congrArg Host.Outcome.next effect
  · have effect : setEndpointIdEffect p eid s =
        emit { s with host := { s.host with eid := mset s.host.eid 0 (pathKey p) eid.toNat } } (.mctp p [0, 0, eid, 0]) := by
      rw [setEndpointIdEffect, attached_linked linked]
      exact if_pos up
    exact ⟨_, congrArg Host.Outcome.next effect, (mget_mset s.host.eid 0 _ _ _).trans (if_pos rfl),
      Kept.frame (emit_kept (by decide) (setHost_kept (by rfl) (by rfl) (by decide) (Kept.refl _ s)))⟩
  · have effect : mctpRegisterReadEffect p off 1 s = emit (readWord s (pathReq p) (off / 4 * 4)).2
        (.mctp p (completion s off 1 :: leBytes 4 (readWord s (pathReq p) (off / 4 * 4)).1.toNat)) := by
      rw [mctpRegisterReadEffect, attached_linked linked]
      dsimp only
      rw [up, readWords, readWords]
      exact if_neg (by decide)
    have kept : Kept [.job, .host] s (readWord s (pathReq p) (off / 4 * 4)).2 := readWord_kept (List.Subset.refl _) (Kept.refl _ s)
    exact ⟨_, congrArg Host.Outcome.next effect, congrArg (· ++ _) (kept.frame .out (by decide)),
      (emit_kept (C := [.out, .job, .host]) (by decide) (kept_widen kept (by decide))).frame⟩
  · have effect : mctpRegisterWriteEffect p off [v] s = emit (setRw s off (v &&& 0x7FF)) (.mctp p [0]) := by
      rw [mctpRegisterWriteEffect, attached_linked linked, up, writeWords_vectorMap reach linked ready aligned low high, completion_ready ready]
      exact if_neg (by simp)
    exact ⟨_, congrArg Host.Outcome.next effect, (rw_setRw s off _ off).trans (if_pos rfl), rfl,
      (emit_kept (by decide) (setRw_kept (by decide) (Kept.refl _ s))).frame⟩
  · have effect := (i3cPrivateWriteEffect_word aon off v).trans
      (writeWords_vectorMap (s := { s with host := { s.host with i3cOff := off.toNat } }) (r := 6) aon linked ready aligned low high v)
    exact ⟨_, congrArg Host.Outcome.next effect, (rw_setRw _ off.toNat _ _).trans (if_pos rfl), rfl,
      (setRw_kept (by decide) (kept_widen (i3cOff_kept s off.toNat) (by decide))).frame⟩
  · have effect : i3cPrivateReadEffect n s = emit { (readWords s 6 (s.host.i3cOff / 4 * 4) n).2 with
        host := { (readWords s 6 (s.host.i3cOff / 4 * 4) n).2.host with i3cOff := s.host.i3cOff + 4 * n } }
        (.reply 6 ((readWords s 6 (s.host.i3cOff / 4 * 4) n).1.flatMap fun w => leBytes 4 w.toNat)) := if_neg (by simp [aon])
    have kept : Kept [.job, .host] s (readWords s 6 (s.host.i3cOff / 4 * 4) n).2 := readWords_kept (List.Subset.refl _) (Kept.refl _ s)
    exact ⟨_, congrArg Host.Outcome.next effect, rfl, congrArg (· ++ _) (kept.frame .out (by decide)),
      Kept.frame (emit_kept (by decide) (setHost_kept (by rfl) (by rfl) (by decide) (kept_widen kept (by decide))))⟩
  · have effect : dynamicAddressAssignmentEffect a s = { s with host := { s.host with i3cAddr := some a } } := if_pos aon
    exact ⟨_, congrArg Host.Outcome.next effect, rfl, setHost_frame rfl rfl⟩
  · have effect := sendPending_asleep (s := { s with host := { s.host with d3 := true } }) rfl
    exact ⟨_, congrArg Host.Outcome.next effect, rfl, rfl, setHost_frame rfl rfl⟩
  · have effect := sendPending_one (s := { s with host := { s.host with d3 := false } }) one open_ rfl linked
    exact ⟨_, congrArg Host.Outcome.next effect, rfl, rfl, rfl,
      Kept.frame (emit_kept (by decide)
        (setHost_kept (by rfl) (by rfl) (by decide) (setHost_kept (by rfl) (by rfl) (by decide) (Kept.refl _ s))))⟩

end Sys2Proof.Proofs
end

section
/-! Host access to device memory: BAR4 (R453), doorbells (R455) and host DMA (R454); and the firmware window (R437, R438, R467). -/

namespace Sys2Proof.Proofs

open Sys2Proof Sys2Proof.Machine Sys2Proof.Laws

variable {s : State}

/-! ### Runs of device addresses -/

/-- The addresses from `a` on all lie in a window (R12, R13). -/
def Mapped (a n : Nat) : Prop := ∀ i < n, devAddr (a + i) ≠ none

/-- A run of addresses lies in one window, for between the windows nothing does. -/
theorem Mapped.window {a n : Nat} (mapped : Mapped a n) : a + n ≤ 0x9000000000 ∨ 0x10000000000 ≤ a ∨ n = 0 := by
  by_contra out
  obtain ⟨beyond, below, some_⟩ : 0x9000000000 < a + n ∧ a < 0x10000000000 ∧ 0 < n := by omega
  refine mapped (0x9000000000 - a) (by omega) ?_
  unfold devAddr
  rw [if_neg (by omega), if_neg (by omega)]

theorem devAddr_direct {a : Nat} (direct : a < 0x9000000000) : devAddr a = some a := if_pos direct

theorem devAddr_striped {a : Nat} (low : 0x10000000000 ≤ a) (found : devAddr a ≠ none) : a < 0x19000000000 ∧ devAddr a =
    some (0xC00000000 * ((a - 0x10000000000) / 4096 % 12) + 4096 * ((a - 0x10000000000) / 49152) + (a - 0x10000000000) % 4096) := by
  unfold devAddr at found ⊢
  rw [if_neg (by omega)] at found ⊢
  by_cases inside : 0x10000000000 ≤ a ∧ a < 0x19000000000
  · exact ⟨inside.2, if_pos inside⟩
  · exact absurd (if_neg inside) found

theorem stripe_injective {x y r x' y' r' : Nat} (hy : y < 12582912) (hr : r < 4096) (hy' : y' < 12582912) (hr' : r' < 4096)
    (same : 51539607552 * x + 4096 * y + r = 51539607552 * x' + 4096 * y' + r') : x = x' ∧ y = y' ∧ r = r' := by
  have stack : x = x' := by omega
  subst stack
  omega

/-- In a run of addresses no two name the same byte. -/
theorem Mapped.injective {a n : Nat} (mapped : Mapped a n) {i j : Nat} (hi : i < n) (hj : j < n)
    (same : devAddr (a + i) = devAddr (a + j)) : i = j := by
  rcases mapped.window with direct | striped | none_
  · rw [devAddr_direct (by omega), devAddr_direct (by omega)] at same
    have := Option.some.inj same
    omega
  · obtain ⟨hi', at_i⟩ := devAddr_striped (by omega) (mapped i hi)
    obtain ⟨hj', at_j⟩ := devAddr_striped (by omega) (mapped j hj)
    rw [at_i, at_j] at same
    have row_lt {o : Nat} (inside : o < 0x9000000000) : o / 49152 < 12582912 := Nat.div_lt_of_lt_mul inside
    have byte_lt (o : Nat) : o % 4096 < 4096 := Nat.mod_lt o (Nat.succ_pos _)
    obtain ⟨stack, row, byte⟩ := stripe_injective (row_lt (by omega)) (byte_lt _) (row_lt (by omega)) (byte_lt _) (Option.some.inj same)
    omega
  · omega

theorem Mapped.tail {a n : Nat} (mapped : Mapped a (n + 1)) : Mapped (a + 1) n := fun i hi => by
  have := mapped (i + 1) (by omega)
  rwa [Nat.add_assoc, Nat.add_comm 1 i]

/-- What is written over a run of addresses reads back. -/
theorem memWrite_lands {bs : List Byte} {a : Nat} (mapped : Mapped a bs.length) (m : Mem) {i d : Nat} (hi : i < bs.length)
    (at_ : devAddr (a + i) = some d) : (memWrite m a bs).get d = bs[i] := by
  induction bs generalizing m a i with
  | nil => exact absurd hi (Nat.not_lt_zero _)
  | cons b t ih =>
    rw [memWrite]
    cases i with
    | zero =>
      rw [memWrite_get _ _ _ a d at_ fun j hj same => ?_]
      · have set_ : memSet m a b = m.set d b := by
          unfold memSet
          rw [show devAddr a = some d from at_]
        rw [set_, Mem.get_set, if_pos rfl]
        rfl
      · have := mapped.injective (i := 0) (j := j + 1) (by simp) (by simpa using hj) (by rw [Nat.add_zero, same]; congr 1; omega)
        omega
    | succ i =>
      have hi' : i < t.length := by simpa using hi
      exact ih mapped.tail _ hi' (by rw [← at_]; congr 1; omega)

theorem devRead_of_write {t : State} {m : Mem} {a : Nat} {bs : List Byte} (dev : t.mem.dev = memWrite m a bs) (mapped : Mapped a bs.length) :
    devRead t a bs.length = bs := by
  refine List.ext_getElem (devRead_length ..) fun i hi hi' => ?_
  simp only [devRead, List.getElem_map, List.getElem_range]
  obtain ⟨d, at_⟩ := Option.ne_none_iff_exists'.1 (mapped i hi')
  unfold devGet
  rw [at_, dev]
  exact memWrite_lands mapped m hi' at_

theorem devGet_of_write {t : State} {a : Nat} {bs : List Byte} (dev : t.mem.dev = memWrite s.mem.dev a bs) {x : Nat}
    (off : ∀ i < bs.length, devAddr x ≠ devAddr (a + i)) : devGet t x = devGet s x := by
  unfold devGet
  cases at_ : devAddr x with
  | none => rfl
  | some d => exact (congrArg (Mem.get · d) dev).trans (memWrite_get s.mem.dev a bs x d at_ off)

theorem memWrite_append (m : Mem) (a : Nat) (xs ys : List Byte) : memWrite m a (xs ++ ys) = memWrite (memWrite m a xs) (a + xs.length) ys := by
  induction xs generalizing m a with
  | nil => rfl
  | cons b t ih => rw [List.cons_append, memWrite, memWrite, ih, List.length_cons, Nat.add_assoc, Nat.add_comm 1]

theorem write_append (m : Mem) (a : Nat) (xs ys : List Byte) : m.write a (xs ++ ys) = (m.write a xs).write (a + xs.length) ys := by
  induction xs generalizing m a with
  | nil => rfl
  | cons b t ih => rw [List.cons_append, Mem.write, Mem.write, ih, List.length_cons, Nat.add_assoc, Nat.add_comm 1]

theorem read_length (m : Mem) (a n : Nat) : (m.read a n).length = n := by rw [Mem.read, List.length_map, List.length_range]

theorem read_add (m : Mem) (a i j : Nat) : m.read a (i + j) = m.read a i ++ m.read (a + i) j := by
  simp only [Mem.read, List.range_add, List.map_append, List.map_map, Function.comp_def, Nat.add_assoc]

theorem devRead_add (s : State) (a i j : Nat) : devRead s a (i + j) = devRead s a i ++ devRead s (a + i) j := by
  simp only [devRead, List.range_add, List.map_append, List.map_map, Function.comp_def, Nat.add_assoc]

/-! ### Pieces of a range -/

/-- Where the first k pieces of a range end. -/
def pieceEnd (a n k : Nat) : Nat := max a (min (a + n) (64 * (a / 64 + k)))

/-- What holds of no bytes, and goes on over a run of bytes that follows, holds of all bytes of a range after its pieces. -/
theorem forEach_pieces {P : Nat → State → Prop} {f : State → Nat × Nat → State} {a n : Nat} (start : P 0 s)
    (step : ∀ u k m, P k u → k + m ≤ n → P (k + m) (f u (a + k, m))) : P n (forEach (pieces a n) s f) := by
  unfold pieces
  split
  · next none_ => exact none_ ▸ start
  · next some_ =>
    have upTo (j : Nat) (hj : j ≤ (a + n - 1) / 64 + 1 - a / 64) : P (pieceEnd a n j - a) (forEach ((List.range j).map fun i =>
        (max a (64 * (a / 64 + i)), min (a + n) (64 * (a / 64 + i + 1)) - max a (64 * (a / 64 + i)))) s f) := by
      induction j with
      | zero =>
        have none_ : pieceEnd a n 0 - a = 0 := by
          unfold pieceEnd
          omega
        rw [none_]
        exact start
      | succ j ih =>
        have here := step _ _ (min (a + n) (64 * (a / 64 + j + 1)) - max a (64 * (a / 64 + j))) (ih (by omega))
          (by unfold pieceEnd; omega)
        have from_ : a + (pieceEnd a n j - a) = max a (64 * (a / 64 + j)) := by
          unfold pieceEnd
          omega
        have upto : pieceEnd a n j - a + (min (a + n) (64 * (a / 64 + j + 1)) - max a (64 * (a / 64 + j))) = pieceEnd a n (j + 1) - a := by
          unfold pieceEnd
          omega
        rw [from_, upto] at here
        rw [List.range_succ, List.map_append, forEach, List.foldl_append]
        exact here
    have whole : pieceEnd a n ((a + n - 1) / 64 + 1 - a / 64) - a = n := by
      unfold pieceEnd
      omega
    have all := upTo _ (le_refl _)
    rw [whole] at all
    exact all

/-! ### Bytes that the host may not touch -/

theorem hostBarred_of_same {t : State} (sec : t.sec = s.sec) (boot : t.boot = s.boot) (job : t.job = s.job) (a : Nat) :
    hostBarred t a = hostBarred s a := by
  unfold hostBarred isReady isSealed sealedRanges
  rw [sec, boot, job]

theorem accessBarred_within {a n i m : Nat} (clear : accessBarred s a n = false) (inside : i + m ≤ n) : accessBarred s (a + i) m = false := by
  rw [accessBarred, List.any_eq_false] at clear ⊢
  intro j hj
  rw [Nat.add_assoc]
  exact clear (i + j) (List.mem_range.2 (by have := List.mem_range.1 hj; omega))

theorem accessBarred_of_same {t : State} (sec : t.sec = s.sec) (boot : t.boot = s.boot) (job : t.job = s.job) (a n : Nat) :
    accessBarred t a n = accessBarred s a n :=
  congrArg (List.any _) (funext fun i => hostBarred_of_same sec boot job (a + i))

theorem mapped_of_clear {a n : Nat} (clear : accessBarred s a n = false) : Mapped a n := fun i hi none_ => by
  rw [accessBarred, List.any_eq_false] at clear
  refine clear i (List.mem_range.2 hi) ?_
  unfold hostBarred
  rw [none_]
  exact Bool.or_true _

theorem devWrite_beds (a : Nat) (bs : List Byte) : ∀ p ∈ (devWrite s none a bs).mem.bedLines, p.2 ∉ touchLines 128 a bs.length := by
  intro p kept
  have test := (List.mem_filter.1 kept).2
  simpa using test

/-! ### What a refused access records -/

theorem msix_bar4 (s : State) (v : Nat) : (msix s v).host.bar4Err = s.host.bar4Err ∧ (msix s v).host.bar4ErrHeld = s.host.bar4ErrHeld := by
  unfold msix
  split
  · exact ⟨rfl, rfl⟩
  · exact ⟨rfl, rfl⟩

theorem setIrq_bar4 (s : State) (p : Nat) (v : Word) :
    (setIrq s p v).host.bar4Err = s.host.bar4Err ∧ (setIrq s p v).host.bar4ErrHeld = s.host.bar4ErrHeld := by
  unfold setIrq
  dsimp only
  split
  · split
    · exact msix_bar4 _ _
    · exact ⟨rfl, rfl⟩
  · exact ⟨rfl, rfl⟩

theorem refuseAccess_bar4 (s : State) (a : Nat) : (refuseAccess s a).host.bar4Err = (if s.host.bar4ErrHeld = true then s.host.bar4Err else a) ∧
    (refuseAccess s a).host.bar4ErrHeld = true := by
  unfold refuseAccess accessErr
  dsimp only
  rw [(setIrq_bar4 ..).1, (setIrq_bar4 ..).2]
  split
  · next held => exact ⟨rfl, held⟩
  · exact ⟨rfl, rfl⟩

theorem accessErr_count (s : State) (p cause r off : Nat) : (mget (accessErr s p cause r off).host.acc {} p).count ≠ 0 := by
  by_cases first : (mget s.host.acc {} p).count = 0
  · rw [accessErr_first _ _ _ _ _ first]
    exact Nat.one_ne_zero
  · rw [accessErr_more _ _ _ _ _ first]
    exact fun none_ => by
      have := (Nat.min_eq_zero_iff.1 none_)
      omega

theorem refuseAccess_frame (s : State) (a : Nat) : s.changesOnly [.out, .host] (refuseAccess s a) :=
  (refuseAccess_kept (List.Subset.refl _) (Kept.refl _ s)).frame

end Sys2Proof.Proofs
end

section
/-! Host DMA (R454), and the firmware window (R437, R438, R467). -/

namespace Sys2Proof.Proofs

open Sys2Proof Sys2Proof.Machine Sys2Proof.Laws

variable {s : State}

/-! ### Single fields -/

theorem setHostMem_frame (s : State) (m : Mem) : s.changesOnly [.hostMem] { s with hostMem := m } := by
  intro p other
  cases p
  case hostMem => exact absurd (List.mem_singleton_self _) other
  case sem => exact ⟨rfl, rfl⟩
  all_goals rfl

theorem updFw_frame (s : State) (f : FwWin → FwWin) : s.changesOnly [.fw] (updFw s f) := by
  intro p other
  cases p
  case fw => exact absurd (List.mem_singleton_self _) other
  case sem => exact ⟨rfl, rfl⟩
  all_goals rfl

theorem changesOnly_trans {ps qs : List Part} {t u : State} (first : s.changesOnly ps t) (then_ : t.changesOnly qs u) :
    s.changesOnly (ps ++ qs) u := fun p other =>
  Part.same_trans (first p fun listed => other (List.mem_append_left _ listed)) (then_ p fun listed => other (List.mem_append_right _ listed))

/-! ### The bytes an ordinary descriptor moves -/

/-- Host to device: the bytes land as one write over the whole range, whatever its pieces. -/
theorem dmaIn_moves {free : Bool} {h v n : Nat} (clear : free = true → accessBarred s v n = false) :
    s.changesOnly [.dev, .mem] (dmaIn s free h v n) ∧ (dmaIn s free h v n).mem.dev = memWrite s.mem.dev v (s.hostMem.read h n) := by
  unfold dmaIn
  refine forEach_pieces (P := fun k u => s.changesOnly [.dev, .mem] u ∧ u.mem.dev = memWrite s.mem.dev v (s.hostMem.read h k))
    ⟨fun p _ => p.same_refl s, rfl⟩ fun u k m ⟨frame, dev⟩ inside => ?_
  have open_ : ¬ (free && accessBarred u (v + k) m) = true := by
    rw [accessBarred_of_same (frame .sec (by decide)) (frame .boot (by decide)) (frame .job (by decide))]
    cases free with
    | false => simp
    | true => simp [accessBarred_within (clear rfl) inside]
  have host : u.hostMem = s.hostMem := frame .hostMem (by decide)
  have offset : h + (v + k - v) = h + k := by omega
  rw [if_neg open_, offset, host]
  refine ⟨fun p other => Part.same_trans (frame p other) ((devWrite_kept (List.Subset.refl _) (Kept.refl _ u)).frame p other), ?_⟩
  change memWrite u.mem.dev (v + k) _ = _
  rw [dev, read_add, memWrite_append, read_length]

/-- Device to host: the bytes land as one write over the whole range, whatever its pieces. -/
theorem dmaOut_moves {free : Bool} {h v n : Nat} (clear : free = true → accessBarred s v n = false)
    (unsealed : ∀ i < n, isSealed s (v + i) = false) :
    s.changesOnly [.hostMem] (dmaOut s free h v n) ∧ (dmaOut s free h v n).hostMem = s.hostMem.write h (devRead s v n) := by
  unfold dmaOut
  refine forEach_pieces (P := fun k u => s.changesOnly [.hostMem] u ∧ u.hostMem = s.hostMem.write h (devRead s v k))
    ⟨fun p _ => p.same_refl s, rfl⟩ fun u k m ⟨frame, host⟩ inside => ?_
  have sec : u.sec = s.sec := frame .sec (by decide)
  have job : u.job = s.job := frame .job (by decide)
  have open_ : (if free = true then accessBarred u (v + k) m else (List.range m).any fun i => isSealed u (v + k + i)) = false := by
    cases free with
    | true =>
      rw [if_pos rfl, accessBarred_of_same sec (frame .boot (by decide)) job]
      exact accessBarred_within (clear rfl) inside
    | false =>
      rw [if_neg Bool.false_ne_true, List.any_eq_false]
      intro i hi
      have same : isSealed u (v + k + i) = isSealed s (v + (k + i)) := by
        unfold isSealed sealedRanges
        rw [sec, job, Nat.add_assoc]
      rw [same, unsealed (k + i) (by have := List.mem_range.1 hi; omega)]
      exact Bool.false_ne_true
  have offset : h + (v + k - v) = h + k := by omega
  have read : devRead u (v + k) m = devRead s (v + k) m := devRead_of_dev (frame .dev (by decide)) _ _
  dsimp only
  rw [open_, if_neg Bool.false_ne_true, if_neg Bool.false_ne_true, offset, read, host]
  refine ⟨fun p other => Part.same_trans (frame p other) (setHostMem_frame u _ p other), ?_⟩
  rw [devRead_add, write_append, devRead_length]

theorem chanOf_updChan (s : State) (ch : Nat) (f : DmaChan → DmaChan) : chanOf (updChan s ch f) ch = f (chanOf s ch) :=
  (mget_mupd s.host.dma {} ch f ch).trans (if_pos rfl)

/-- A channel holds its descriptor with an outcome (R454). -/
def held (s : State) (ch : Nat) (d : List Byte) (st : Nat) : State := updChan s ch fun k => { k with cur := some (d, st) }

theorem held_cur (s : State) (ch : Nat) (d : List Byte) (st : Nat) : (chanOf (held s ch d st) ch).cur = some (d, st) := by
  rw [held, chanOf_updChan]

theorem held_frame (s : State) (ch : Nat) (d : List Byte) (st : Nat) : s.changesOnly [.host] (held s ch d st) :=
  (updChan_kept (List.Subset.refl _) (Kept.refl _ s)).frame

theorem not_not_ready {b : Bool} (ready : b = true) : ¬ (!b) = true := by simp [ready]

section

variable {ch : Nat} {d : List Byte} (ready : dmaReady s ch = true)
  (head : d = s.hostMem.read (rw64 s (chanBase ch) + 32 * (chanOf s ch).head) 32)
include ready head

theorem hostDmaDescriptorEffect_bad (bad : dmaBad ch d = true) : hostDmaDescriptorEffect ch [] s = held s ch d 6 := by
  subst head
  unfold hostDmaDescriptorEffect
  exact (if_neg (not_not_ready ready)).trans (if_pos bad)

variable (good : dmaBad ch d = false)
include good

theorem hostDmaDescriptorEffect_weights (weights : bit (lat d 0x15 1) 0 = true) : hostDmaDescriptorEffect ch [] s =
    { held s ch d 0 with sec := { s.sec with xfer := mset s.sec.xfer none ch (some {}) } } := by
  subst head
  unfold hostDmaDescriptorEffect
  exact ((if_neg (not_not_ready ready)).trans (if_neg (ne_true_of_eq_false good))).trans (if_pos weights)

theorem hostDmaDescriptorEffect_moves (ordinary : bit (lat d 0x15 1) 0 = false) :
    hostDmaDescriptorEffect ch [] s = held (dmaMove s d).1 ch d (dmaMove s d).2 := by
  subst head
  unfold hostDmaDescriptorEffect
  exact ((if_neg (not_not_ready ready)).trans (if_neg (ne_true_of_eq_false good))).trans (if_neg (ne_true_of_eq_false ordinary))

end

section

variable {d : List Byte} {h v n : Nat} (hh : h = lat d 0 8) (hv : v = lat d 8 8) (hn : n = lat d 0x10 4)
include hh hv hn

theorem dmaMove_in (dir : lat d 0x14 1 = 0)
    (allowed : if lat d 0x16 1 = 0xFF then accessBarred s v n = false else regionCheck (ctxOf s (lat d 0x16 1)).man 1 v n = none) :
    dmaMove s d = (dmaIn s (decide (lat d 0x16 1 = 0xFF)) h v n, 1) := by
  subst hh hv hn
  unfold dmaMove
  dsimp only
  rw [dir]
  by_cases part : lat d 0x16 1 = 0xFF
  · exact (if_neg (by simp [part])).trans (if_neg (by decide))
  · rw [if_neg part] at allowed
    exact (if_neg (by simp [allowed])).trans (if_neg (by decide))

theorem dmaMove_out (dir : lat d 0x14 1 = 1)
    (allowed : if lat d 0x16 1 = 0xFF then accessBarred s v n = false else regionCheck (ctxOf s (lat d 0x16 1)).man 0 v n = none)
    (quiet : s.mem.upsets = []) (clean : poisonedAt s v n = none) :
    dmaMove s d = (dmaOut s (decide (lat d 0x16 1 = 0xFF)) h v n, 1) := by
  subst hh hv hn
  unfold dmaMove
  dsimp only
  rw [dir, meetRanges_quiet quiet, clean]
  by_cases part : lat d 0x16 1 = 0xFF
  · exact (if_neg (by simp [part])).trans (if_pos (by decide))
  · rw [if_neg part] at allowed
    exact (if_neg (by simp [allowed])).trans (if_pos (by decide))

end

theorem dmaMove_refused {d : List Byte} (job : lat d 0x16 1 < 8)
    (refused : (regionCheck (ctxOf s (lat d 0x16 1)).man (if lat d 0x14 1 = 1 then 0 else 1) (lat d 8 8) (lat d 0x10 4)).isSome = true) :
    dmaMove s d = (s, 3) := by
  unfold dmaMove
  have part : decide (lat d 0x16 1 = 0xFF) = false := decide_eq_false (by omega)
  dsimp only
  rw [part]
  simp only [decide_eq_true_eq]
  exact if_pos (by simp [refused])

/-! ### Completion -/

/-- A descriptor without an interrupt ends: its status byte and the channel's head (R454). -/
theorem hostDmaCompleteEffect_ends {ch st : Nat} {d : List Byte} (cur : (chanOf s ch).cur = some (d, st)) (outcome : st ≠ 0)
    (up : s.host.d3 = false) (linked : s.host.linkLost = false) (silent : bit (lat d 0x15 1) 1 = false) :
    hostDmaCompleteEffect ch s = updChan { s with
        hostMem := s.hostMem.set (rw64 s (chanBase ch) + 32 * (chanOf s ch).head + 0x17) (BitVec.ofNat 8 st) } ch fun k =>
      { k with head := (k.head + 1) % max 1 (chanSlots s ch), cur := none } := by
  unfold hostDmaCompleteEffect
  rw [cur]
  dsimp only
  rw [if_neg (by simp [outcome, up, linked]), chanFinish]
  dsimp only
  rw [cur]
  exact if_neg (ne_true_of_eq_false silent)

/-! ### The firmware window -/

theorem fwGuard_passes {r off st : Nat} {f : State → State} (answering : pageAnswers s 0 = true)
    (owned : s.host.fw.state = 0 ∨ s.host.fw.owner = r) (state : s.host.fw.state = st) : fwGuard s r off st f = f s := by
  rw [fwGuard, answering, Bool.not_true, if_neg Bool.false_ne_true, if_neg (by tauto), if_neg (by simpa using state)]

theorem fwGuard_foreign {r off st : Nat} {f : State → State} (answering : pageAnswers s 0 = true) (busy : s.host.fw.state ≠ 0)
    (foreign : s.host.fw.owner ≠ r) : fwGuard s r off st f = accessErr s 0 9 r off := by
  rw [fwGuard, answering, Bool.not_true, if_neg Bool.false_ne_true, if_pos ⟨busy, foreign⟩]

/-- One word staged at HOST_FW_OFFSET (R467). -/
def fwStaged (s : State) (v : Word) : State :=
  updFw (setRw s 0x134 (BitVec.ofNat 32 ((rw s 0x134).toNat + 4))) fun w => { w with buf := w.buf.wr (rw s 0x134).toNat 4 v.toNat }

theorem fwDataEffect_stages {r : Nat} (answering : pageAnswers s 0 = true) (opened : s.host.fw.state = 1) (own : s.host.fw.owner = r)
    (fits : (rw s 0x134).toNat + 4 ≤ 0x400000) (v : Word) : fwDataEffect r v s = fwStaged s v := by
  rw [fwDataEffect, fwGuard_passes answering (.inr own) opened]
  exact if_pos fits

/-- What a commit does with a copy that verifies (R438). -/
def fwCommitted (s : State) : State :=
  let c := if s.boot.stage = 0xE then fwParse s.host.fw.buf
    else fwParse (s.host.fw.buf.wr 8 4 ((mget s.boot.fw ⟨true, 0, 0, 0, 0⟩ s.boot.copy).seq + 1))
  let s1 := updFw s fun w => { w with state := 3, found := some c }
  { s1 with boot := { s1.boot with fw := mset s1.boot.fw ⟨true, 0, 0, 0, 0⟩ (fwTarget s) { c with valid := false } } }

theorem fwCommitEffect_open {r : Nat} (answering : pageAnswers s 0 = true) (opened : s.host.fw.state = 1) (own : s.host.fw.owner = r) :
    fwCommitEffect r s = if (fwParse s.host.fw.buf).valid = true then fwCommitted s
      else updFw s fun w => { w with state := 2, found := none } := by
  rw [fwCommitEffect, fwGuard_passes answering (.inr own) opened]
  cases verified : (fwParse s.host.fw.buf).valid with
  | true => exact (if_neg (by simp [verified])).trans (if_pos rfl).symm
  | false => exact (if_pos (by simp [verified])).trans (if_neg Bool.false_ne_true).symm

theorem setBoot_frame (s : State) (x : BootSt) : s.changesOnly [.boot] { s with boot := x } := by
  intro p other
  cases p
  case boot => exact absurd (List.mem_singleton_self _) other
  case sem => exact ⟨rfl, rfl⟩
  all_goals rfl

theorem fwCommitted_frame (s : State) : s.changesOnly [.fw, .boot] (fwCommitted s) :=
  changesOnly_trans (updFw_frame s _) (setBoot_frame _ _)

/-- The update ends, and the window is free (R438). -/
def fwUpdated (s : State) (b : Bool) (f : FwCopy) : State :=
  let s1 := updFw s fun _ => { result := if b then 1 else 2 }
  { s1 with boot := { s1.boot with fw := mset s1.boot.fw ⟨true, 0, 0, 0, 0⟩ (fwTarget s) { f with valid := b } } }

theorem fwUpdateDoneEffect_written {f : FwCopy} (state : s.host.fw.state = 3) (found : s.host.fw.found = some f) (b : Bool) :
    fwUpdateDoneEffect b s = blockEvent (fwUpdated s b f) 0 := by
  rw [fwUpdateDoneEffect, state, found]
  rfl

theorem fwUpdateDoneEffect_failed (state : s.host.fw.state = 2) (b : Bool) :
    fwUpdateDoneEffect b s = blockEvent (updFw s fun _ => { result := 2 }) 0 := by
  rw [fwUpdateDoneEffect, state]
  rfl

theorem fwUpdated_frame (s : State) (b : Bool) (f : FwCopy) : s.changesOnly [.fw, .boot] (fwUpdated s b f) :=
  changesOnly_trans (updFw_frame s _) (setBoot_frame _ _)

theorem blockEvent_frame (s : State) (p : Nat) : s.changesOnly [.out, .host] (blockEvent s p) :=
  (blockEvent_kept (List.Subset.refl _) (Kept.refl _ s)).frame

theorem changesOnly_widen {ps qs : List Part} {t : State} (frame : s.changesOnly ps t) (sub : ps ⊆ qs) : s.changesOnly qs t :=
  fun p other => frame p fun listed => other (sub listed)

/-! ### The obligation -/

theorem rw64_setRw64 (s : State) (b : Nat) (lo hi : Word) : rw64 (setRw64 s b lo hi) b = lo.toNat + 2 ^ 32 * hi.toNat := by
  rw [rw64, rw_setRw64, rw_setRw64, if_neg (by omega), if_pos rfl, if_pos rfl]

theorem bar4BaseWriteEffect_answers (answering : pageAnswers s 0 = true) (r : Nat) (hi : Word) : bar4BaseWriteEffect r hi s =
    if (((mget s.host.lows none (reqKey r 0x108)).getD (rw s 0x108)).toNat + 2 ^ 32 * hi.toNat) % 2 ^ s.host.bar4Log = 0 then
      setRw64 (takeLow s r 0x108 (rw s 0x108)).2 0x108 ((mget s.host.lows none (reqKey r 0x108)).getD (rw s 0x108)) hi
    else accessErr (takeLow s r 0x108 (rw s 0x108)).2 0 10 r 0x10C := by
  rw [bar4BaseWriteEffect, answering, Bool.not_true, if_neg Bool.false_ne_true]
  rfl

section

variable {off n : Nat} (reach : reachable s 4 = true) (linked : s.host.linkLost = false) (inside : off + n ≤ 2 ^ s.host.bar4Log)
include reach linked inside

/-- BAR4_READ within the window (R453). -/
theorem bar4ReadEffect_inside : bar4ReadEffect off n s =
    if accessBarred s (rw64 s 0x108 + off) n then
      emit (refuseAccess s (rw64 s 0x108 + off)) (.reply 4 (List.replicate n 0))
    else if (poisonedAt (meetRanges s 0 0xFF [(rw64 s 0x108 + off, n)]) (rw64 s 0x108 + off) n).isSome then
      emit (meetRanges s 0 0xFF [(rw64 s 0x108 + off, n)]) (.poisonedReply n)
    else emit (meetRanges s 0 0xFF [(rw64 s 0x108 + off, n)])
      (.reply 4 (devRead (meetRanges s 0 0xFF [(rw64 s 0x108 + off, n)]) (rw64 s 0x108 + off) n)) := by
  rw [bar4ReadEffect, attached_linked linked]
  exact if_neg (by simp [reach, inside])

/-- BAR4_WRITE within the window (R453). -/
theorem bar4WriteEffect_inside {bs : List Byte} (length : bs.length = n) : bar4WriteEffect off bs s =
    if accessBarred s (rw64 s 0x108 + off) bs.length then refuseAccess s (rw64 s 0x108 + off)
    else devWrite s none (rw64 s 0x108 + off) bs := by
  rw [bar4WriteEffect, attached_linked linked]
  exact if_neg (by simp [reach, length, inside])

end

/-- Settles O56: the window, the doorbells, host DMA and the firmware window move what their rules say, and record what is refused. -/
theorem hostMemoryAndFirmware : Obligations.HostMemoryAndFirmware := by
  unfold Obligations.HostMemoryAndFirmware
  refine ⟨fun s r hi lo answering low aligned => ?_, fun s r hi lo answering low misaligned => ?_, fun s n least most => ?_,
    fun s off n a reach linked inside at_ quiet clear clean => ?_, fun s off n a reach linked inside at_ barred => ?_,
    fun s off a bs reach linked inside at_ clear => ?_, fun s off a bs reach linked inside at_ barred => ?_,
    fun s c i below => ?_, fun s i below => ?_, fun s i beyond => ?_, fun s ch i below => ?_, fun s ch i beyond => ?_,
    fun s ch d h v n ready head good ordinary hh hv hn dir allowed mapped => ?_,
    fun s ch d h v n ready head good ordinary hh hv hn dir allowed quiet clean unsealed => ?_,
    fun s ch d ready head bad => ?_, fun s ch d ready head good ordinary job refused => ?_, fun s ch d ready head good weights => ?_,
    fun s ch hw => rfl, fun s ch d st cur outcome up linked silent => ?_, fun s r b answering free_ => ?_,
    fun s r b answering busy foreign => ?_, fun s r v answering opened own fits => ?_, fun s r answering opened own => ?_,
    fun s r answering opened own unverified => ?_, fun s r answering opened own => ?_, fun s b f state found => ?_, fun s b state => ?_⟩
  · subst low
    have effect := (bar4BaseWriteEffect_answers answering r.val hi).trans (if_pos aligned)
    exact ⟨_, congrArg Host.Outcome.next effect, rw64_setRw64 .., Kept.frame (setRw64_kept (by decide) (takeLow_kept (by decide) (Kept.refl _ s)))⟩
  · subst low
    have effect := (bar4BaseWriteEffect_answers answering r.val hi).trans (if_neg misaligned)
    have frame : s.changesOnly [.out, .host] _ := Kept.frame (accessErr_kept (page := 0) (cause := 10) (requester := r.val) (offset := 0x10C)
      (by decide) (takeLow_kept (r := r.val) (off := 0x108) (cur := rw s 0x108) (by decide) (Kept.refl _ s)))
    exact ⟨_, congrArg Host.Outcome.next effect, rw64_of_regs (frame .regs (by decide)) _, accessErr_count _ _ _ _ _, frame⟩
  · have range : ¬ (n < 30 ∨ 41 < n) := by omega
    by_cases fits : rw64 s 0x108 % 2 ^ n = 0
    · rw [if_pos fits]
      have effect : bar4ResizeEffect n s = { s with host := { s.host with bar4Log := n } } := (if_neg range).trans (if_pos fits)
      exact ⟨_, congrArg Host.Outcome.next effect, rfl, rfl,
        changesOnly_widen (setHost_frame (by rfl) (by rfl)) (by decide)⟩
    · rw [if_neg fits]
      have effect : bar4ResizeEffect n s = setRw64 { s with host := { s.host with bar4Log := n } } 0x108 0 0 := (if_neg range).trans (if_neg fits)
      exact ⟨_, congrArg Host.Outcome.next effect, rfl, rw64_setRw64 ..,
        Kept.frame (setRw64_kept (by decide) (setHost_kept (by rfl) (by rfl) (by decide) (Kept.refl _ s)))⟩
  · subst at_
    have effect := bar4ReadEffect_inside reach linked inside
    rw [meetRanges_quiet quiet, clear, clean, if_neg Bool.false_ne_true] at effect
    exact ⟨_, congrArg Host.Outcome.next effect, rfl, Kept.frame (emit_kept (by decide) (Kept.refl _ s))⟩
  · subst at_
    have effect := (bar4ReadEffect_inside reach linked inside).trans (if_pos barred)
    have recorded := refuseAccess_bar4 s (rw64 s 0x108 + off)
    exact ⟨_, congrArg Host.Outcome.next effect, List.mem_append_right _ (List.mem_singleton_self _), recorded.1, recorded.2,
      Kept.frame (emit_kept (by decide) (refuseAccess_kept (by decide) (Kept.refl _ s)))⟩
  · subst at_
    have effect := (bar4WriteEffect_inside reach linked inside rfl).trans (if_neg (ne_true_of_eq_false clear))
    exact ⟨_, congrArg Host.Outcome.next effect, devRead_of_write rfl (mapped_of_clear clear), fun x off => devGet_of_write rfl off,
      devWrite_beds _ _, Kept.frame (devWrite_kept (by decide) (Kept.refl _ s))⟩
  · subst at_
    have effect := (bar4WriteEffect_inside reach linked inside rfl).trans (if_pos barred)
    exact ⟨_, congrArg Host.Outcome.next effect, (refuseAccess_bar4 ..).2, accessErr_count _ _ _ _ _, refuseAccess_frame _ _⟩
  · have effect : eventQueueDoorbellEffect (some c.val) i s = updCtx s c.val fun j => { j with evq := { j.evq with cons := i } } :=
      if_neg (by omega)
    exact ⟨_, congrArg Host.Outcome.next effect, (congrArg JobCtx.evq (ctxOf_updCtx_same ..) :), Kept.frame (updCtx_kept (by decide) (Kept.refl _ s))⟩
  · have effect : eventQueueDoorbellEffect none i s = { s with host := { s.host with evq := { s.host.evq with cons := i } } } :=
      if_neg (by omega)
    exact ⟨_, congrArg Host.Outcome.next effect, rfl, setHost_frame (by rfl) (by rfl)⟩
  · exact congrArg Host.Outcome.next (if_pos beyond)
  · have effect : dmaDoorbellEffect ch.val i s = updChan s ch.val fun k => { k with tail := i } := if_neg (by omega)
    exact ⟨_, congrArg Host.Outcome.next effect, chanOf_updChan .., Kept.frame (updChan_kept (by decide) (Kept.refl _ s))⟩
  · exact congrArg Host.Outcome.next (if_pos beyond)
  · have effect := hostDmaDescriptorEffect_moves ready head good ordinary
    rw [dmaMove_in hh hv hn dir allowed] at effect
    obtain ⟨frame, dev⟩ := dmaIn_moves (s := s) (free := decide (lat d 0x16 1 = 0xFF)) (h := h) (v := v) (n := n)
      fun part => by rwa [if_pos (of_decide_eq_true part)] at allowed
    have length : (s.hostMem.read h n).length = n := read_length ..
    refine ⟨_, congrArg Host.Outcome.next effect, ?_, held_cur .., fun x off => ?_, frame .hostMem (by decide), ?_⟩
    · have lands := devRead_of_write (t := held (dmaIn s (decide (lat d 0x16 1 = 0xFF)) h v n) ch.val d 1) dev (length.symm ▸ mapped)
      rwa [length] at lands
    · exact devGet_of_write dev fun i hi => off i (length ▸ hi)
    · exact changesOnly_trans frame (held_frame _ _ _ _)
  · have effect := hostDmaDescriptorEffect_moves ready head good ordinary
    rw [dmaMove_out hh hv hn dir allowed quiet clean] at effect
    obtain ⟨frame, host⟩ := dmaOut_moves (s := s) (free := decide (lat d 0x16 1 = 0xFF)) (h := h) (v := v) (n := n)
      (fun part => by rwa [if_pos (of_decide_eq_true part)] at allowed) unsealed
    refine ⟨_, congrArg Host.Outcome.next effect, ?_, held_cur .., changesOnly_trans frame (held_frame _ _ _ _)⟩
    have lands := Mem.read_write s.hostMem h (devRead s v n)
    rw [devRead_length] at lands
    exact (congrArg (Mem.read · h n) host).trans lands
  · exact ⟨_, congrArg Host.Outcome.next (hostDmaDescriptorEffect_bad ready head bad), held_cur .., held_frame _ _ _ _⟩
  · have effect := hostDmaDescriptorEffect_moves ready head good ordinary
    rw [dmaMove_refused job refused] at effect
    exact ⟨_, congrArg Host.Outcome.next effect, held_cur .., held_frame _ _ _ _⟩
  · have effect := hostDmaDescriptorEffect_weights ready head good weights
    exact ⟨_, congrArg Host.Outcome.next effect, held_cur s ch.val d 0, (mget_mset s.sec.xfer none ch.val (some {}) ch.val).trans (if_pos rfl),
      changesOnly_trans (held_frame s ch.val d 0) (changesOnly_sec _ _)⟩
  · have effect := hostDmaCompleteEffect_ends cur outcome up linked silent
    exact ⟨_, congrArg Host.Outcome.next effect, (Mem.get_set ..).trans (if_pos rfl), fun a other => (Mem.get_set ..).trans (if_neg other),
      chanOf_updChan .., changesOnly_trans (setHostMem_frame s _) (Kept.frame (updChan_kept (List.Subset.refl _) (Kept.refl _ _)))⟩
  · have effect : fwOpenEffect r.val b s = updFw s fun _ => { state := 1, owner := r.val, target := b } :=
      fwGuard_passes answering (.inl free_) free_
    exact ⟨_, congrArg Host.Outcome.next effect, rfl, updFw_frame _ _⟩
  · exact congrArg Host.Outcome.next (fwGuard_foreign answering busy foreign)
  · have effect := fwDataEffect_stages answering opened own fits v
    refine ⟨_, congrArg Host.Outcome.next effect, ?_, ?_, fun a off => ?_, changesOnly_trans (setRw_frame _ _ _) (updFw_frame _ _)⟩
    · exact (Mem.rd_wr s.host.fw.buf _ 4 _).trans (Nat.mod_eq_of_lt v.isLt)
    · have next : rw (fwStaged s v) 0x134 = BitVec.ofNat 32 ((rw s 0x134).toNat + 4) := (rw_setRw s 0x134 _ 0x134).trans (if_pos rfl)
      rw [next, BitVec.toNat_ofNat, Nat.mod_eq_of_lt (by omega)]
    · exact (Mem.get_write s.host.fw.buf _ _ a).trans (if_neg (by rw [leBytes_length]; omega))
  · have effect := fwCommitEffect_open answering opened own
    by_cases verified : (fwParse s.host.fw.buf).valid = true
    · rw [if_pos verified] at effect ⊢
      exact ⟨_, congrArg Host.Outcome.next effect, rfl, fwCommitted_frame s⟩
    · rw [if_neg verified] at effect ⊢
      exact ⟨_, congrArg Host.Outcome.next effect, rfl, changesOnly_widen (updFw_frame s _) (by decide)⟩
  · have effect := (fwCommitEffect_open answering opened own).trans (if_neg (ne_true_of_eq_false unverified))
    exact ⟨_, congrArg Host.Outcome.next effect, rfl, rfl, updFw_frame s _⟩
  · have effect : fwAbortEffect r.val s = updFw s fun _ => {} := fwGuard_passes answering (.inr own) opened
    exact ⟨_, congrArg Host.Outcome.next effect, rfl, updFw_frame s _⟩
  · have frame := blockEvent_frame (fwUpdated s b f) 0
    refine ⟨_, congrArg Host.Outcome.next (fwUpdateDoneEffect_written state found b), frame .fw (by decide), ?_, setIrq_status ..,
      changesOnly_widen (changesOnly_trans (fwUpdated_frame s b f) frame) (by decide)⟩
    rw [frame .boot (by decide)]
    exact (mget_mset s.boot.fw _ _ _ _).trans (if_pos rfl)
  · have frame := blockEvent_frame (updFw s fun _ => { result := 2 }) 0
    exact ⟨_, congrArg Host.Outcome.next (fwUpdateDoneEffect_failed state b), frame .fw (by decide), setIrq_status ..,
      changesOnly_widen (changesOnly_trans (updFw_frame s _) frame) (by decide)⟩

end Sys2Proof.Proofs
end

section
/-! The compute reset (R250, R429), the function-level reset and link loss (R428), and block resets (R430). -/

namespace Sys2Proof.Proofs

open Sys2Proof Sys2Proof.Machine Sys2Proof.Laws

variable {s : State}

/-! ### Every job is torn down -/

/-- What the compute reset does with one job (R429 action 1). -/
def tornByReset (s : State) (c : Nat) : State := tornDown (tearCore s c 3) c

theorem ctxOf_tornDown (s : State) (c d : Nat) :
    ctxOf (tornDown s c) d = if d = c then { ctxOf s c with state := .tornDown } else ctxOf s d := ctxOf_updCtx s c _ d

theorem tornDown_counts (s : State) (c : Nat) : CountsOnly s (tornDown s c) := rfl

theorem tornByReset_state (s : State) (c : Nat) : (ctxOf (tornByReset s c) c).state = .tornDown := by
  rw [tornByReset, ctxOf_tornDown, if_pos rfl]

theorem tearCore_other (s : State) {c d : Nat} (other : d ≠ c) (b4 : Nat) : ctxOf (tearCore s c b4) d = ctxOf s d := by
  have stopped : Within c s (stopDma (stopJob s c) c) :=
    (Within.stopJob (Within.refl s)).of_kept (stopDma_kept (List.Subset.refl _) (Kept.refl _ _)) (by decide)
  have cleared : Within c s (forEach (heldCourses s c) (stopDma (stopJob s c) c) undefSems) :=
    Within.forEach (fun u n h => h.of_kept (undefSems_kept (List.Subset.refl _) (Kept.refl _ u)) (by decide)) stopped
  rw [tearCore, ctxOf_releaseJob_other _ other]
  exact (cleared.of_kept (floodJobLost_kept (List.Subset.refl _) (Kept.refl _ _)) (by decide)) d other

theorem tornByReset_other (s : State) {c d : Nat} (other : d ≠ c) : ctxOf (tornByReset s c) d = ctxOf s d := by
  rw [tornByReset, ctxOf_tornDown, if_neg other, tearCore_other s other]

theorem floodJobLost_counts (s : State) (c b4 : Nat) : CountsOnly s (floodJobLost s c b4) := by
  unfold floodJobLost
  dsimp only
  split
  · exact .refl s
  · exact (CountsOnly.of_kept (addKey_kept (List.Subset.refl _) (Kept.refl _ s)) (by decide)).trans (flood_counts ..)

theorem tearCore_counts (s : State) (c b4 : Nat) : CountsOnly s (tearCore s c b4) := by
  have stopped : CountsOnly s (stopDma (stopJob s c) c) :=
    (CountsOnly.of_kept (stopJob_kept (List.Subset.refl _) (Kept.refl _ s)) (by decide)).trans
      (.of_kept (stopDma_kept (List.Subset.refl _) (Kept.refl _ _)) (by decide))
  have cleared := stopped.trans (.forEach (f := undefSems) (fun u n => .of_kept (undefSems_kept (List.Subset.refl _) (Kept.refl _ u)) (by decide))
    (heldCourses s c) _)
  exact (cleared.trans (floodJobLost_counts _ c b4)).trans (.of_kept (releaseJob_kept (List.Subset.refl _) (Kept.refl _ _)) (by decide))

theorem tornByReset_counts (s : State) (c : Nat) : CountsOnly s (tornByReset s c) := (tearCore_counts s c 3).trans (tornDown_counts _ c)

theorem forEach_cons {α : Type} (a : α) (l : List α) (s : State) (f : State → α → State) : forEach (a :: l) s f = forEach l (f s a) f := rfl

theorem forEach_tornByReset_state (cs : List Nat) (s : State) (c : Nat) :
    (ctxOf (forEach cs s tornByReset) c).state = if c ∈ cs then .tornDown else (ctxOf s c).state := by
  induction cs generalizing s with
  | nil => rfl
  | cons d cs ih =>
    rw [forEach_cons, ih]
    by_cases later : c ∈ cs
    · rw [if_pos later, if_pos (List.mem_cons_of_mem _ later)]
    · rw [if_neg later]
      by_cases own : c = d
      · rw [own, tornByReset_state, if_pos List.mem_cons_self]
      · rw [tornByReset_other s own, if_neg (by simp [own, later])]

theorem tearAll_state (s : State) {c : Nat} (context : c < 8) :
    (ctxOf (tearAll s) c).state = if (ctxOf s c).loaded = true then .tornDown else (ctxOf s c).state := by
  refine (forEach_tornByReset_state (loadedCtxs s) s c).trans ?_
  have listed : c ∈ loadedCtxs s ↔ (ctxOf s c).loaded = true := by simp [loadedCtxs, context]
  simp only [listed]

theorem tearAll_ret (s : State) : (tearAll s).tel.ret = s.tel.ret := by
  have counts : CountsOnly s (tearAll s) := .forEach tornByReset_counts (loadedCtxs s) s
  rw [counts]

/-! ### What the units hold is cleared -/

/-- Nothing is left in the units after a compute reset (R429 actions 3 to 5). -/
structure Cleared (s : State) : Prop where
  vreg : s.tile.vreg = []
  bars : s.tile.bars = []
  seqs : s.tile.seqs = []
  plumb : s.tel.plumb = []
  trw : s.trw = []
  tasks : s.rink.tasks = []
  run : s.post.run = []
  rr : s.post.rr = []

theorem spinReload_stands (s : State) (n seed : Nat) :
    (spinReload s n seed).tile.bars = s.tile.bars ∧ (spinReload s n seed).tile.seqs = s.tile.seqs := ⟨rfl, rfl⟩

theorem clearUnits_spec (s : State) : Cleared (clearUnits s) ∧ (clearUnits s).boot = s.boot ∧ (clearUnits s).job.ctxs = s.job.ctxs ∧
    (clearUnits s).tel.ret = s.tel.ret := by
  unfold clearUnits
  extract_lets s1 mem tile job fab rink post tel sec s2
  have undef : Kept [.store, .sem] s s1 := forEach_kept (Kept.refl _ s) fun u n h => undefSems_kept (by decide) (undefCourse_kept (by decide) h)
  have spun : Kept [.tile] s2 (forEach (List.range 32) s2 fun s n => spinReload s n (live64 s (coursePage n + 0x100))) :=
    forEach_kept (Kept.refl _ s2) fun u n h => spinReload_kept (List.Subset.refl _) h
  have stands : (forEach (List.range 32) s2 fun s n => spinReload s n (live64 s (coursePage n + 0x100))).tile.bars = [] ∧
      (forEach (List.range 32) s2 fun s n => spinReload s n (live64 s (coursePage n + 0x100))).tile.seqs = [] :=
    forEach_keeps (P := fun u => u.tile.bars = [] ∧ u.tile.seqs = []) (fun u n ⟨bars, seqs⟩ =>
      ⟨(spinReload_stands u n _).1.trans bars, (spinReload_stands u n _).2.trans seqs⟩) ⟨rfl, rfl⟩
  generalize (forEach (List.range 32) s2 fun s n => spinReload s n (live64 s (coursePage n + 0x100))) = t at spun stands ⊢
  have telemetry : t.tel = s2.tel := spun.frame .tel (by decide)
  have media : t.rink = s2.rink := spun.frame .rink (by decide)
  have posts : t.post = s2.post := spun.frame .post (by decide)
  have jobs : t.job = s2.job := spun.frame .job (by decide)
  refine ⟨⟨spun.frame .vreg (by decide), stands.1, stands.2, by rw [telemetry], spun.frame .trw (by decide), by rw [media], by rw [posts],
      by rw [posts]⟩,
    (spun.frame .boot (by decide)).trans (undef.frame .boot (by decide)), ?_, ?_⟩
  · rw [jobs]
    exact (congrArg JobSt.ctxs (undef.frame .job (by decide)) :)
  · rw [telemetry]
    exact (congrArg TelSt.ret (undef.frame .tel (by decide)) :)

/-- What a compute reset comes to (R429). -/
theorem computeReset_spec (idle : s.boot.resetting = false) : Cleared (computeReset s) ∧ (computeReset s).boot.resetting = true ∧
    (∀ c < 8, (ctxOf (computeReset s) c).state = if (ctxOf s c).loaded = true then .tornDown else (ctxOf s c).state) ∧
    (computeReset s).tel.ret = s.tel.ret := by
  have effect : computeReset s = clearUnits { tearAll s with boot := { (tearAll s).boot with resetting := true } } :=
    if_neg (ne_true_of_eq_false idle)
  obtain ⟨cleared, boot, ctxs, ret⟩ := clearUnits_spec { tearAll s with boot := { (tearAll s).boot with resetting := true } }
  rw [effect]
  refine ⟨cleared, by rw [boot], fun c context => ?_, ret.trans (tearAll_ret s)⟩
  rw [ctxOf, ctxs]
  exact tearAll_state s context

theorem Cleared.seqrOf (h : Cleared s) (k : Nat) : seqrOf s k = {} := by
  rw [Machine.seqrOf, h.seqs]
  rfl

/-! ### Links restarted -/

theorem portOff_of_cfg {t : State} (cfg : t.cfg = s.cfg) (p : Nat) : portOff t p = portOff s p := by
  rw [portOff, live_of_cfg cfg, neighbour_of_cfg cfg, portOff]

theorem chgLink_cfg (s : State) (p : Nat) (f : Link → Link) : (chgLink s p f).cfg = s.cfg :=
  (chgLink_kept (List.Subset.refl _) (Kept.refl _ s)).frame .cfg (by decide)

/-- A restarted link trains on all its lanes again, or is held down (R239, R241). -/
theorem linkOf_restartLink (s : State) (p q : Nat) : linkOf (restartLink s p) q = if q = p then { linkOf s p with
    state := .detect, out := portOff s p, prbs := false, agreed := false, lost := false, credits := [], replay := [], inUse := [],
    hops := 0xFF, lanes := 0, bad := 0 } else linkOf s q := by
  unfold restartLink retrainLink
  rw [portOff_of_cfg (chgLink_cfg s p _), linkOf_chgLink, linkOf_chgLink_same, linkOf_chgLink]
  split
  · rfl
  · rfl

theorem restartLink_absent (s : State) (p : Nat) : (restartLink s p).fab.absent = s.fab.absent := by
  rw [restartLink, retrainLink, chgLink_absent, chgLink_absent]

theorem inService_softRst (s : State) (p q : Nat) (b : Bool) : inService (updLink s p fun l => { l with softRst := b }) q = inService s q := by
  unfold inService
  rw [linkOf_updLink]
  split
  · next own => rw [own]
  · rfl

theorem portPresent_of_link {t : State} {p : Nat} (link : linkOf t p = linkOf s p) : portPresent t p = portPresent s p := by
  rw [portPresent, link, portPresent]

/-- A soft reset of a port, before its neighbour is considered (R430). -/
def softRestarted (s : State) (p : Nat) : State := restartLink (updLink s p fun l => { l with softRst := !portOff s p }) p

section

variable (s) (p : Nat)

theorem linkOf_softRestarted (q : Nat) : linkOf (softRestarted s p) q = if q = p then { linkOf s p with
    state := .detect, out := portOff s p, prbs := false, agreed := false, lost := false, credits := [], replay := [], inUse := [],
    hops := 0xFF, lanes := 0, bad := 0, softRst := !portOff s p } else linkOf s q := by
  have off : portOff (updLink s p fun l => { l with softRst := !portOff s p }) p = portOff s p := portOff_of_cfg rfl p
  rw [softRestarted, linkOf_restartLink, off]
  by_cases own : q = p
  · rw [if_pos own, if_pos own, linkOf_updLink, if_pos rfl]
  · rw [if_neg own, if_neg own, linkOf_updLink, if_neg own]

theorem softRestarted_kept : Kept [.out, .fab, .host] s (softRestarted s p) :=
  restartLink_kept (by decide) (updLink_kept (by decide) (Kept.refl _ s))

theorem softRestarted_cfg : (softRestarted s p).cfg = s.cfg := (softRestarted_kept s p).frame .cfg (by decide)

end

theorem forEach_nil {α : Type} (s : State) (f : State → α → State) : forEach [] s f = s := rfl

/-- Restarting one port alone (R239, R254): one that was in service moves its traffic, and perhaps loses its neighbour. -/
theorem restartLinks_one (u : State) (p : Nat) : restartLinks u [p] =
    if inService u p = true then portsOut (afterOut (restartLink u p) p) p 1 else restartLink u p := by
  unfold restartLinks
  dsimp only
  rw [List.filter_cons, List.filter_nil]
  split
  · rw [forEach_cons, forEach_nil, forEach_cons, forEach_nil, forEach_cons, forEach_nil]
  · rw [forEach_cons, forEach_nil, forEach_nil, forEach_nil]

theorem softResetEffect_link {r p : Nat} (ready : isReady s = true) (runs : switchbackRuns s = true) (port : p < 12) :
    softResetEffect r (0x71000 + 0x1000 * p) s = applyIfIdle (if inService s p = true
      then portsOut (afterOut (softRestarted s p) p) p 1 else softRestarted s p) := by
  have index : (0x71000 + 0x1000 * p - 0x71000) / 0x1000 = p := by omega
  unfold softResetEffect
  dsimp only
  rw [if_neg (by simp [ready]), if_pos (by omega), index, if_pos runs, restartLinks_one, inService_softRst]
  rfl

theorem softResetEffect_stopped {r p : Nat} (ready : isReady s = true) (stopped : switchbackRuns s = false) (port : p < 12) :
    softResetEffect r (0x71000 + 0x1000 * p) s = s := by
  unfold softResetEffect
  dsimp only
  rw [if_neg (by simp [ready]), if_pos (by omega), stopped]
  rfl

theorem reroute_empty {p : Nat} (empty : (linkOf s p).queue = []) : reroute s p = updLink s p fun l => { l with queue := [] } := by
  unfold reroute
  rw [empty]
  rfl

/-- Without traffic, and with no test of its twin, a port's leaving moves only the time followed (R238, R243). -/
theorem afterOut_empty {p : Nat} (empty : (linkOf s p).queue = []) (untested : (linkOf s (twinOf p)).prbs = false) :
    afterOut s p = refollow (updLink s p fun l => { l with queue := [] }) := by
  rw [afterOut, twinCheck, untested, if_neg Bool.false_ne_true, reroute_empty empty]

/-- A port that restarts alone in that: its neighbour stays present by the twin, or there is none (R239, R254, R430). -/
theorem softReset_stays {p : Nat} (port : p < 12) (empty : (linkOf s p).queue = []) (untested : (linkOf s (twinOf p)).prbs = false)
    (quiet : s.cfg.state ≠ 3) (stays : portPresent s (twinOf p) = true ∨ neighbour s p = none ∨ inService s p = false) :
    ∃ t, applyIfIdle (if inService s p = true then portsOut (afterOut (softRestarted s p) p) p 1 else softRestarted s p) = t ∧
      (linkOf t p) = { linkOf (softRestarted s p) p with queue := [] } ∧ (∀ q, q ≠ p → linkOf t q = linkOf s q) ∧
      s.changesOnly [.out, .hostMem, .fab, .host] t := by
  have restarted := linkOf_softRestarted s p
  have cfg := softRestarted_cfg s p
  have settled {t : State} (same : t.cfg = s.cfg) : applyIfIdle t = t := applyIfIdle_none (same ▸ quiet)
  have queue : (linkOf (softRestarted s p) p).queue = [] := by
    rw [restarted, if_pos rfl]
    exact empty
  by_cases served : inService s p = true
  · have others (q : Nat) (other : q ≠ p) : linkOf (softRestarted s p) q = linkOf s q := (restarted q).trans (if_neg other)
    have moved := afterOut_empty queue (p := p) (by rw [others _ (twinOf_ne p)]; exact untested)
    have kept : Kept [.out, .hostMem, .fab, .host] s (afterOut (softRestarted s p) p) := by
      rw [moved]
      exact refollow_kept (by decide) (updLink_kept (by decide) (kept_widen (softRestarted_kept s p) (by decide)))
    have same : (afterOut (softRestarted s p) p).cfg = s.cfg := kept.frame .cfg (by decide)
    have link (q : Nat) : linkOf (afterOut (softRestarted s p) p) q =
        if q = p then { linkOf (softRestarted s p) p with queue := [] } else linkOf (softRestarted s p) q := by
      rw [moved, linkOf_refollow, linkOf_updLink]
    have present : portsOut (afterOut (softRestarted s p) p) p 1 = afterOut (softRestarted s p) p := by
      rcases stays with twin | uncabled | out
      · cases cable : neighbour s p with
        | none =>
          rw [portsOut, neighbour_of_cfg same, cable]
        | some n =>
          refine portsOut_twin port ((neighbour_of_cfg same p).trans cable) ?_ 1
          rw [portPresent_of_link ((link _).trans ((if_neg (twinOf_ne p)).trans (others _ (twinOf_ne p))))]
          exact twin
      · rw [portsOut, neighbour_of_cfg same, uncabled]
      · exact absurd served (ne_true_of_eq_false out)
    rw [if_pos served, present, settled same]
    exact ⟨_, rfl, (link p).trans (if_pos rfl), fun q other => (link q).trans ((if_neg other).trans (others q other)), kept.frame⟩
  · rw [if_neg served, settled cfg]
    refine ⟨_, rfl, ?_, fun q other => (restarted q).trans (if_neg other), (kept_widen (softRestarted_kept s p) (by decide)).frame⟩
    rw [← queue]

/-- A port that restarts takes its neighbour with it where no other port to it is present (R254, R430). -/
theorem softReset_absent {p n : Nat} (cabled : neighbour s p = some n)
    (alone : ∀ q < 12, q ≠ p → neighbour s q = some n → portPresent s q = false) (untested : (linkOf s (twinOf p)).prbs = false)
    (quiet : s.cfg.state ≠ 3) (room : s.fab.absent.length < 64) (jobs : NoPloughs s) :
    isAbsent (applyIfIdle (portsOut (afterOut (softRestarted s p) p) p 1)) n = true := by
  have restarted := linkOf_softRestarted s p
  have others (q : Nat) (other : q ≠ p) : linkOf (softRestarted s p) q = linkOf s q := (restarted q).trans (if_neg other)
  have free : (linkOf (softRestarted s p) (twinOf p)).prbs = false := by rw [others _ (twinOf_ne p)]; exact untested
  have kept : Kept [.out, .hostMem, .fab, .host, .tel] s (afterOut (softRestarted s p) p) :=
    afterOut_kept (by decide) (kept_widen (softRestarted_kept s p) (by decide))
  have cfg : (afterOut (softRestarted s p) p).cfg = s.cfg := kept.frame .cfg (by decide)
  have absent : (afterOut (softRestarted s p) p).fab.absent = s.fab.absent := (afterOut_absent _ free).trans (restartLink_absent _ p)
  have idle (q : Nat) : portPresent (afterOut (softRestarted s p) p) q = portPresent (softRestarted s p) q :=
    portPresent_of_idle (afterOut_idle free q)
  have down : ¬ ((List.range 12).any fun q => decide (neighbour (afterOut (softRestarted s p) p) q = some n) &&
      portPresent (afterOut (softRestarted s p) p) q) = true := by
    rw [List.any_eq_true]
    rintro ⟨q, below, present⟩
    obtain ⟨cable, up⟩ := (Bool.and_eq_true _ _).mp present
    rw [decide_eq_true_eq, neighbour_of_cfg cfg] at cable
    rw [idle] at up
    by_cases own : q = p
    · rw [own, portPresent, restarted, if_pos rfl] at up
      simp at up
    · rw [portPresent_of_link (others q own), alone q (List.mem_range.1 below) own cable] at up
      exact absurd up (by decide)
  have gone : portsOut (afterOut (softRestarted s p) p) p 1 = absentNow (afterOut (softRestarted s p) p) n 1 (ownCoord s) none := by
    unfold portsOut
    rw [neighbour_of_cfg cfg, cabled, ownCoord_of_cfg cfg]
    exact if_neg down
  rw [gone]
  exact (goAbsent_spec (by rw [absent]; exact room) (cfg ▸ quiet) (jobs.of_same (kept.frame .job (by decide)) cfg) n 1 (ownCoord s) none).1

/-! ### The host interface at its reset state -/

/-- A channel that holds nothing and has nothing waiting (R428). -/
def channelStopped (k : DmaChan) : DmaChan := { head := k.head, tail := k.head }

/-- A job's event queue begins anew for its consumer (R428). -/
def consumerReset (s : State) (c : Nat) : State := updCtx s c fun j => { j with evq := { j.evq with cons := 0 } }

theorem consumersReset_spec (l : List Nat) (u : State) : (forEach l u consumerReset).host = u.host ∧
    ∀ c, (ctxOf (forEach l u consumerReset) c).state = (ctxOf u c).state := by
  refine forEach_keeps (f := consumerReset) (P := fun v => v.host = u.host ∧ ∀ c, (ctxOf v c).state = (ctxOf u c).state)
    (fun v d ⟨hosts, same⟩ => ⟨hosts, fun c => ?_⟩) ⟨rfl, fun _ => rfl⟩
  rw [consumerReset, ctxOf_updCtx, ← same c]
  split
  · next own => rw [own]
  · rfl

/-- What the host interface's reset comes to (R428). -/
theorem hostReset_spec (s : State) : (∀ c, (ctxOf (hostReset s) c).state = (ctxOf s c).state) ∧
    (∀ ch, chanOf (hostReset s) ch = channelStopped (chanOf (stopChannels s) ch)) ∧ (hostReset s).host.msixTbl = [] ∧
    (hostReset s).host.linkLost = false ∧ (hostReset s).host.d3 = false ∧ ∀ x ∈ (hostReset s).sec.sessions, x.path ≠ .pcie := by
  have jobs : (stopChannels s).job = s.job := (stopChannels_kept (List.Subset.refl _) (Kept.refl _ s)).frame .job (by decide)
  unfold hostReset
  generalize stopChannels s = stopped at jobs ⊢
  extract_lets h ctrl was evq s1 s2 sec
  have same (c : Nat) : (ctxOf s1 c).state = (ctxOf s c).state := by rw [ctxOf_of_job (t := s1) (s := s) jobs]
  obtain ⟨host, states⟩ : s2.host = s1.host ∧ ∀ c, (ctxOf s2 c).state = (ctxOf s1 c).state :=
    consumersReset_spec (List.range 8) s1
  clear_value s2
  refine ⟨fun c => (states c).trans (same c), fun ch => ?_, by rw [host], by rw [host], by rw [host],
    fun x listed => of_decide_eq_true (List.mem_filter.1 listed).2⟩
  have dma : s2.host.dma = stopped.host.dma.map fun p => (p.1, channelStopped p.2) := by rw [host]; rfl
  exact (congrArg (mget · {} ch) dma).trans (mget_map_value channelStopped _ {} ch)

/-! ### Pages of the units -/

theorem pageUnit_unitPage (u : MediaUnit) : pageUnit (unitPage u) = some u ∧ unitPage u / 0x1000 * 0x1000 = unitPage u ∧ 0x80000 < unitPage u := by
  cases u with
  | vdec n => revert n; decide
  | venc n => revert n; decide
  | idec n => revert n; decide
  | adec => decide
  | shap n => revert n; decide

theorem softResetEffect_unit (ready : isReady s = true) (r : Nat) (u : MediaUnit) (out : (unitOf s u).out = true) :
    softResetEffect r (unitPage u) s = updUnit s u fun x => { x with testing := false, result := 0 } := by
  obtain ⟨unit, -, far⟩ := pageUnit_unitPage u
  unfold softResetEffect
  dsimp only
  rw [if_neg (by simp [ready]), if_neg (by omega), if_neg (by omega), unit]
  exact if_pos out

/-- What a POST unit holds is gone (R430). -/
def postCleared (s : State) (d : Nat) : State :=
  let zero := fun (m : NMap Nat) => m.filter fun p => decide (p.1 / 8 ≠ d)
  { s with post := { s.post with base := zero s.post.base, slots := zero s.post.slots, run := mset s.post.run none d none,
                                 rr := mset s.post.rr 7 d 7 } }

theorem softResetEffect_post (ready : isReady s = true) (r : Nat) {d : Nat} (below : d < 4) :
    softResetEffect r (0x48000 + 0x1000 * d) s =
      if noneLoaded s = true then postCleared s d else accessErr s (0x48000 + 0x1000 * d) 6 r 0x10 := by
  have index : (0x48000 + 0x1000 * d - 0x48000) / 0x1000 = d := by omega
  unfold softResetEffect
  dsimp only
  rw [if_neg (by simp [ready]), if_neg (by omega), if_pos (by omega), index]
  rfl

theorem setPost_frame (s : State) (x : PostSt) : s.changesOnly [.post] { s with post := x } := by
  intro p other
  cases p
  case post => exact absurd (List.mem_singleton_self _) other
  case sem => exact ⟨rfl, rfl⟩
  all_goals rfl

/-! ### The obligation -/

theorem rstComputeEffect_answers (answering : pageAnswers s 0x2000 = true) (v : Word) : rstComputeEffect v s =
    if fld v 31 16 ≠ 0x434D then accessErr s 0x2000 8 4 0x104 else if v.getLsbD 0 = true then computeReset s else s := by
  rw [rstComputeEffect, answering, Bool.not_true, if_neg Bool.false_ne_true]

theorem retain_ret (s : State) (e : Ev) : (retain s e).tel.ret.tail = s.tel.ret.take 15 := rfl

theorem raiseRetained_ret (s : State) (code : Nat) (f : EvF) : (raiseRetained s code f).tel.ret.tail = s.tel.ret.take 15 := by
  have entered : (raiseRetained s code f).tel = (retain s ⟨code, 0xFF, now s, f.bytes, true, true, none⟩).tel :=
    (partEntry_kept (List.Subset.refl _) (Kept.refl _ _)).frame .tel (by decide)
  rw [entered, retain_ret]

/-- Settles O48: every job is torn down and the units are cleared by a compute reset, whatever raises it; the host interface, a link
and a block restart as their resets say. -/
theorem computeAndBlockResets : Obligations.ComputeAndBlockResets := by
  unfold Obligations.ComputeAndBlockResets
  refine ⟨fun s v answering key go idle => ?_, fun s v answering key still => ?_, fun s v answering key => ?_,
    fun s unit inst hangs idle => ?_, fun s unit inst works => ?_, fun s ready idle => ?_, fun s early => ?_, fun s => ?_, fun s up => ?_,
    fun s held => ?_, fun s r ready runs empty untested quiet stays => ?_,
    fun s r n ready runs served cabled alone untested quiet room jobs => ?_, fun s r ready stopped => ?_, fun s r ready free_ => ?_,
    fun s r ready busy => ?_, fun s r u ready out => ?_⟩
  · have effect : rstComputeEffect v s = computeReset s :=
      ((rstComputeEffect_answers answering v).trans (if_neg (not_not.2 key))).trans (if_pos go)
    obtain ⟨cleared, resetting, states, -⟩ := computeReset_spec idle
    exact ⟨_, congrArg Host.Outcome.next effect, resetting, states, fun k _ => by rw [cleared.seqrOf]; exact ⟨rfl, rfl⟩,
      fun i => by rw [cleared.vreg]; rfl, cleared.bars, fun i => by rw [cleared.plumb]; rfl, cleared.trw, cleared.tasks, cleared.run,
      cleared.rr, (computeReset_kept (List.Subset.refl _) (Kept.refl _ s)).frame⟩
  · have effect := (rstComputeEffect_answers answering v).trans (if_neg (not_not.2 key))
    refine congrArg Host.Outcome.next (effect.trans ?_)
    rcases still with unset | under
    · exact if_neg (ne_true_of_eq_false unset)
    · rw [computeReset, if_pos under, ite_self]
  · exact congrArg Host.Outcome.next ((rstComputeEffect_answers answering v).trans (if_pos key))
  · have effect : unitHangEffect unit inst s = computeReset (raiseRetained s 0x0110 { unit := unit, inst := inst }) := if_pos hangs
    have kept := raiseRetained_kept (code := 0x0110) (f := { unit := unit, inst := inst }) (List.Subset.refl _) (Kept.refl _ s)
    have boot := kept.frame .boot (by decide)
    have job := kept.frame .job (by decide)
    obtain ⟨cleared, resetting, states, ret⟩ := computeReset_spec ((congrArg BootSt.resetting boot).trans idle)
    refine ⟨_, congrArg Host.Outcome.next effect, resetting, ?_, fun c context => ?_, cleared.trw, cleared.tasks⟩
    · rw [ret, raiseRetained_ret]
    · rw [states c context, ctxOf_of_job job]
  · exact congrArg Host.Outcome.next (if_neg (ne_true_of_eq_false works))
  · have effect : functionLevelResetEffect s = hostReset (computeReset s) := by rw [functionLevelResetEffect, if_pos ready]
    obtain ⟨-, resetting, states, -⟩ := computeReset_spec idle
    have boot := (hostReset_kept (List.Subset.refl _) (Kept.refl _ (computeReset s))).frame .boot (by decide)
    refine ⟨_, congrArg Host.Outcome.next effect, (congrArg BootSt.resetting boot).trans resetting, fun c context => ?_⟩
    rw [(hostReset_spec (computeReset s)).1, states c context]
  · have effect : functionLevelResetEffect s = hostReset s := by
      rw [functionLevelResetEffect, if_neg (ne_true_of_eq_false early)]
    exact ⟨_, congrArg Host.Outcome.next effect, (hostReset_kept (List.Subset.refl _) (Kept.refl _ s)).frame .boot (by decide),
      fun c _ => (hostReset_spec s).1 c⟩
  · have frame := (functionLevelResetEffect_kept (List.Subset.refl _) (Kept.refl _ s)).frame
    obtain ⟨-, channels, table, linked, awake, sessions⟩ := hostReset_spec (if isReady s then computeReset s else s)
    exact ⟨_, rfl, fun ch _ => by rw [functionLevelResetEffect, channels]; exact ⟨rfl, rfl⟩, table, linked, awake, frame .cfg (by decide),
      frame .pwr (by decide), sessions⟩
  · exact ⟨_, congrArg Host.Outcome.next (if_neg (ne_true_of_eq_false up)), rfl, setHost_frame rfl rfl⟩
  · exact congrArg Host.Outcome.next (if_pos held)
  · have effect := softResetEffect_link (r := r.val) (p := 0) ready runs (by decide)
    obtain ⟨t, restarts, own, others, frame⟩ := softReset_stays (p := 0) (by decide) empty untested quiet stays
    have link := own
    rw [linkOf_softRestarted, if_pos rfl] at link
    refine ⟨t, congrArg Host.Outcome.next (effect.trans restarts), ?_, ?_, ?_, ?_, ?_, ?_, ?_, others, frame⟩
    all_goals rw [link]
  · have effect := (softResetEffect_link (r := r.val) (p := 0) ready runs (by decide)).trans (by rw [if_pos served])
    exact ⟨_, congrArg Host.Outcome.next effect, softReset_absent cabled alone untested quiet room jobs⟩
  · exact congrArg Host.Outcome.next (softResetEffect_stopped (r := r.val) (p := 0) ready stopped (by decide))
  · have effect := (softResetEffect_post ready r.val (d := 3) (by decide)).trans (if_pos free_)
    refine ⟨_, congrArg Host.Outcome.next effect, (mget_mset s.post.run none 3 none 3).trans (if_pos rfl), fun c context => ?_,
      (mget_mset s.post.rr 7 3 7 3).trans (if_pos rfl), setPost_frame s _⟩
    exact (mget_filter_key s.post.slots 0 (fun k => decide (k / 8 ≠ 3)) (24 + c)).trans (if_neg (by simp; omega))
  · exact congrArg Host.Outcome.next ((softResetEffect_post ready r.val (d := 3) (by decide)).trans (if_neg (ne_true_of_eq_false busy)))
  · obtain ⟨-, page, -⟩ := pageUnit_unitPage u
    have effect : softResetEffect r.val (unitPage u / 0x1000 * 0x1000) s = _ :=
      (congrArg (softResetEffect r.val · s) page).trans (softResetEffect_unit ready r.val u out)
    exact ⟨_, congrArg Host.Outcome.next effect, unitOf_updUnit_same _ _ _, updUnit_frame _ _ _⟩

end Sys2Proof.Proofs
end

section
/-! What a MATMUL and a CONV write (R80, R81, R107). -/

namespace Sys2Proof.Proofs

open Sys2Proof Sys2Proof.Machine Sys2Proof.Laws

variable {s : State} {t : Nat} {d : Desc}

/-! ### The unit's work -/

/-- A unit alone in its stores works on the state as it is, at its pair's clock where it draws spin bits (R62, R102). -/
theorem unitEffect_alone {k i : Nat} (picked : pickDesc s t k i = some d) (quiet : s.quietWork t d) :
    unitEffect k t i s = clocked s t d (unitWork k t i) := by
  obtain ⟨noUpsets, alone, unchanged⟩ := quiet
  simp only [unitEffect, picked, storesMet, noUpsets, if_true, alone, List.map_nil, List.filter_nil, unchanged]

/-- A MATMUL or CONV whose rounding is not stochastic draws no spin bits. -/
theorem drawsSpin_engine (cls : d.cls = 2 ∨ d.cls = 3) (plain : d.bit 8 28 = false) : drawsSpin s t d = false := by
  have notVec : d.cls ≠ 4 := by omega
  simp [drawsSpin, plain, notVec]

theorem clocked_done {work : State → State}
    (done : ∀ u : State, u.tile.seqs = s.tile.seqs → ∃ e ∈ (seqrOf (work u) t).descs, e.seq = d.seq ∧ e.phase = .done) :
    ∃ e ∈ (seqrOf (clocked s t d work) t).descs, e.seq = d.seq ∧ e.phase = .done := by
  unfold clocked
  split
  · exact done (setClock s (t / 32) d.clk) rfl
  · exact done s rfl

theorem pickDesc_of_seqs {u : State} (same : u.tile.seqs = s.tile.seqs) (k i : Nat) : pickDesc u t k i = pickDesc s t k i := by
  rw [pickDesc, pickDesc, seqrOf, seqrOf, same]

/-! ### What the parts of a row leave alone -/

theorem plumbCount_tile (s : State) (t : Nat) (ps : List (Nat × Nat)) : (plumbCount s t ps).tile = s.tile := by
  have frame := (plumbCount_kept (t := t) (ps := ps) (List.Subset.refl ([.job, .tel] : List Part)) (Kept.refl _ s)).frame
  obtain ⟨sem, undef⟩ : Part.sem.same s (plumbCount s t ps) := frame .sem (by decide)
  have rest : Part.tile.same s (plumbCount s t ps) := frame .tile (by decide)
  have store : Part.store.same s (plumbCount s t ps) := frame .store (by decide)
  have vreg : Part.vreg.same s (plumbCount s t ps) := frame .vreg (by decide)
  exact rest.trans (by rw [store, sem, undef, vreg])

theorem spin16_seqs (s : State) (t j : Nat) : (spin16 s t j).2.tile.seqs = s.tile.seqs := by
  unfold spin16 spinConsume clockTick
  dsimp only
  split
  · rfl
  · split <;> rfl

theorem spinRow_seqs (s : State) (t : Nat) (rnd : Bool) (first n : Nat) : (spinRow s t rnd first n).2.tile.seqs = s.tile.seqs := by
  induction n generalizing s first with
  | zero => rfl
  | succ n ih =>
    unfold spinRow
    split
    · exact (ih _ _).trans (spin16_seqs s t first)
    · rfl

theorem spinRow_plain (s : State) (t first n : Nat) : spinRow s t false first n = (List.replicate n none, s) := by
  cases n <;> rfl

/-- Without stochastic rounding a row is converted without spin bits, and nothing is drawn (R49). -/
theorem convRow_plain {p : ConvP} (plain : p.rnd = false) (s : State) (t : Nat) (vs : List Word) :
    convRow s t p vs = (convRun p (vs.map fun w => (w, none)), s) := by
  have zipped : vs.zip (List.replicate vs.length (none : Option Nat)) = vs.map fun w => (w, none) := by
    induction vs with
    | nil => rfl
    | cons v vs ih => rw [List.length_cons, List.replicate_succ, List.zip_cons_cons, ih, List.map_cons]
  rw [convRow, plain, spinRow_plain, zipped]

/-! ### Rows in a store -/

theorem read_write_off (m : Mem) {a b n : Nat} {bs : List Byte} (off : b + n ≤ a) : (m.write a bs).read b n = m.read b n := by
  refine List.map_congr_left fun i hi => ?_
  have inside := List.mem_range.1 hi
  rw [Mem.get_write, if_neg (by omega)]

/-- Rows written upward in a store, each beginning at or after the ends of those before it, are all there at the end. -/
theorem storeRead_rows {n : Nat} {start : Nat → Nat} {row : Nat → List Byte} {f : State → Nat → State}
    (writes : ∀ u i, (f u i).tile.store = u.tile.store.write (2 ^ 21 * t + start i) (row i))
    (apart : ∀ j < n, ∀ i < j, start i + (row i).length ≤ start j) :
    ∀ i < n, storeRead (forEach (List.range n) s f) t (start i) (row i).length = row i := by
  induction n with
  | zero => exact fun i hi => absurd hi (Nat.not_lt_zero i)
  | succ n ih =>
    intro i hi
    have last : forEach (List.range (n + 1)) s f = f (forEach (List.range n) s f) n := by simp [forEach, List.range_succ]
    rw [storeRead, last, writes]
    rcases Nat.lt_succ_iff_lt_or_eq.1 hi with before | rfl
    · have later := apart n (Nat.lt_succ_self n) i before
      rw [read_write_off _ (by omega)]
      exact ih (fun j hj => apart j (Nat.lt_succ_of_lt hj)) i before
    · exact Mem.read_write ..

/-! ### MATMUL -/

/-- The rows of B of a MATMUL (R80). -/
def matmulB (s : State) (t : Nat) (d : Desc) : List (List Opd) :=
  (List.range (d.fld 6 15 0)).map fun k => readElems s t (engOf d).fb (d.sa 3 + k * d.sa 9) (d.fld 7 31 16)

/-- Row `i` of a MATMUL that found the state `s`, written (R81). -/
def matmulStep (s : State) (t : Nat) (d : Desc) (u : State) (i : Nat) : State :=
  let r := matmulRow s t d (matmulB s t d) i
  let c := convRow u t (convOf d 8 13) r.1
  plumbCount (storeWrite c.2 t (d.sa 4 + i * d.sa 10) c.1.bytes) t (r.2 ++ convCounts (engOf d).fc (engOf d).tc c.1.outs)

theorem matmulWork_picked (picked : pickDesc s t 2 0 = some d) :
    matmulWork t s = markDone (forEach (List.range (d.fld 6 31 16)) s (matmulStep s t d)) t d.seq := by
  rw [matmulWork, picked]
  rfl

theorem matmulStep_seqs (s : State) (t : Nat) (d : Desc) (u : State) (i : Nat) : (matmulStep s t d u i).tile.seqs = u.tile.seqs :=
  (congrArg TileSt.seqs (plumbCount_tile ..)).trans (spinRow_seqs ..)

/-- The bytes of row `i` of a MATMUL without stochastic rounding. -/
def matmulBytes (s : State) (t : Nat) (d : Desc) (i : Nat) : List Byte :=
  (convRun (convOf d 8 13) ((matmulRow s t d (matmulB s t d) i).1.map fun w => (w, none))).bytes

theorem matmulStep_store (plain : d.bit 8 28 = false) (u : State) (i : Nat) :
    (matmulStep s t d u i).tile.store = u.tile.store.write (2 ^ 21 * t + (d.sa 4 + i * d.sa 10)) (matmulBytes s t d i) := by
  refine (congrArg TileSt.store (plumbCount_tile ..)).trans ?_
  rw [convRow_plain (p := convOf d 8 13) plain]
  rfl

/-! ### CONV -/

theorem convWork_picked (picked : pickDesc s t 3 0 = some d) :
    convWork t s = markDone (forEach (List.range (geoOf d).outRows) s fun y r =>
      forEach (List.range (geoOf d).outW.toNat) y fun z x => convWrite s t d z r x) t d.seq := by
  rw [convWork, picked]

theorem convWrite_seqs (s0 : State) (t : Nat) (d : Desc) (u : State) (r x : Nat) :
    (convWrite s0 t d u r x).tile.seqs = u.tile.seqs :=
  (congrArg TileSt.seqs (plumbCount_tile ..)).trans (spinRow_seqs ..)

theorem convWrite_store (plain : d.bit 8 28 = false) (u : State) :
    (convWrite s t d u 0 0).tile.store = u.tile.store.write (2 ^ 21 * t + d.sa 4)
      (padTo (rowBytes (fmtCode (engOf d).fc) (geoOf d).outC) (convRun (convOf d 8 12) ((convPixel s t d 0 0).1.map fun w => (w, none))).bytes) := by
  refine (congrArg TileSt.store (plumbCount_tile ..)).trans ?_
  rw [convRow_plain (p := convOf d 8 12) plain, Nat.zero_mul, Nat.zero_mul]
  rfl

/-- Work that leaves the sequencers and then marks the descriptor done. -/
theorem markDone_of_seqs {u : State} (picked : d ∈ (seqrOf s t).descs) (same : u.tile.seqs = s.tile.seqs) :
    ∃ e ∈ (seqrOf (markDone u t d.seq) t).descs, e.seq = d.seq ∧ e.phase = .done :=
  markDone_done (s := u) (by rwa [seqrOf, same])

theorem convWork_done {u : State} (picked : pickDesc s t 3 0 = some d) (same : u.tile.seqs = s.tile.seqs) :
    ∃ e ∈ (seqrOf (convWork t u) t).descs, e.seq = d.seq ∧ e.phase = .done := by
  rw [convWork_picked ((pickDesc_of_seqs same 3 0).trans picked)]
  refine markDone_of_seqs (pickDesc_some picked).1 ?_
  exact forEach_keeps (P := fun y => y.tile.seqs = s.tile.seqs)
    (fun y r row => forEach_keeps (P := fun z => z.tile.seqs = s.tile.seqs) (fun z x pixel => (convWrite_seqs u t d z r x).trans pixel) row) same

/-! ### The obligation -/

theorem matmulEffect_frame (picked : pickDesc s t 2 0 = some d) (quiet : s.quietWork t d) :
    s.changesOnly [.store, .tile, .job, .tel] (matmulEffect t s) := by
  rw [matmulEffect, unitEffect_alone picked quiet]
  exact (clocked_kept (by decide) (Kept.refl _ s) fun _ kept => matmulWork_kept (by decide) kept).frame

theorem convEffect_frame (picked : pickDesc s t 3 0 = some d) (quiet : s.quietWork t d) :
    s.changesOnly [.store, .tile, .job, .tel] (convEffect t s) := by
  rw [convEffect, unitEffect_alone picked quiet]
  exact (clocked_kept (by decide) (Kept.refl _ s) fun _ kept => convWork_kept (by decide) kept).frame

theorem convEffect_done (picked : pickDesc s t 3 0 = some d) (quiet : s.quietWork t d) :
    ∃ e ∈ (seqrOf (convEffect t s) t).descs, e.seq = d.seq ∧ e.phase = .done := by
  rw [convEffect, unitEffect_alone picked quiet]
  exact clocked_done fun _ same => convWork_done picked same

/-- A MATMUL without stochastic rounding, alone in its stores, is its rows one after another. -/
theorem matmulEffect_plain (picked : pickDesc s t 2 0 = some d) (quiet : s.quietWork t d) (plain : d.bit 8 28 = false) :
    matmulEffect t s = markDone (forEach (List.range (d.fld 6 31 16)) s (matmulStep s t d)) t d.seq :=
  (unitEffect_quiet picked quiet (drawsSpin_engine (.inl (pickDesc_some picked).2.1) plain)).trans (matmulWork_picked picked)

/-- A CONV of one pixel without stochastic rounding, alone in its stores, is that pixel. -/
theorem convEffect_plain (picked : pickDesc s t 3 0 = some d) (quiet : s.quietWork t d) (plain : d.bit 8 28 = false)
    (oneRow : (geoOf d).outRows = 1) (oneColumn : (geoOf d).outW = 1) :
    convEffect t s = markDone (convWrite s t d s 0 0) t d.seq := by
  refine (unitEffect_quiet picked quiet (drawsSpin_engine (.inr (pickDesc_some picked).2.1) plain)).trans ?_
  refine (convWork_picked picked).trans ?_
  rw [oneRow, oneColumn]
  rfl

/-- Settles O22: the rows of a MATMUL are written in order and none reaches into a later one; a CONV writes its one pixel. -/
theorem matmulAndConvResults : Obligations.MatmulAndConvResults := by
  unfold Obligations.MatmulAndConvResults
  refine ⟨fun s t d picked quiet plain apart => ⟨matmulEffect t.val s, rfl, ?_, ?_, matmulEffect_frame picked quiet⟩,
    fun s t d picked quiet plain oneRow oneColumn => ⟨convEffect t.val s, rfl, ?_, convEffect_done picked quiet, convEffect_frame picked quiet⟩,
    fun s t d picked quiet => ⟨convEffect t.val s, rfl, convEffect_done picked quiet, convEffect_frame picked quiet⟩⟩
  · rw [matmulEffect_plain picked quiet plain]
    exact storeRead_rows (start := fun i => d.sa 4 + i * d.sa 10) (row := matmulBytes s t.val d) (matmulStep_store plain) apart
  · rw [matmulEffect_plain picked quiet plain]
    refine markDone_of_seqs (pickDesc_some picked).1 ?_
    exact forEach_keeps (P := fun u => u.tile.seqs = s.tile.seqs) (fun u i same => (matmulStep_seqs s t.val d u i).trans same) rfl
  · rw [convEffect_plain picked quiet plain oneRow oneColumn]
    exact (congrArg (fun m : Mem => m.read _ _) (convWrite_store plain s)).trans (Mem.read_write ..)

end Sys2Proof.Proofs
end

section
/-! Encode pictures and the shaping of decoded ones: where the statements of O58 and O59 fail. The hardware context table may name
any entry number, and an entry past the 2¹⁸ of R280 has its address in the striped window, which stands for bytes anywhere in device
memory: for a byte that a completion writes, or for one of an output row. -/

namespace Sys2Proof.Proofs

open Sys2Proof Sys2Proof.Machine Sys2Proof.Laws

/-- An entry past those of R280. -/
def farEntry : Nat := 0x1C040001

/-- Its address lies in the striped window and stands for byte 0x400 of device memory. -/
theorem devAddr_farEntry : devAddr (entryAddr farEntry) = devAddr 0x400 := by decide +kernel

theorem entryState_farEntry (s : State) : entryState s farEntry = (devGet s 0x400).toNat := by
  rw [entryState, devGet, devAddr_farEntry, devGet]

/-! ### ENCODE with an output buffer that is too short -/

/-- An ENCODE of stream 0 whose output buffer has no room. -/
def shortEncode : RTask := { ctx := 7, enc := true, slot := 0, d := [2] }

/-- The stream that firmware keeps in the far entry: its buffer model asks for a byte of output. -/
def farStrm : Strm := { enc := true, open_ := List.replicate 0x4C 0 ++ [1] }

/-- Job 7 runs; its encode ring lies at 0x360, so that byte 0x60 of slot 0 is byte 0x400; stream 0 has the far entry, OPEN. -/
def farEncoding : State :=
  { updCtx State.reset 7 fun j => { j with state := .running } with
    cfg := { State.reset.cfg with live := [(0x802EC, 0x360), (0x802F4, 2)] }
    mem := { State.reset.mem with dev := State.reset.mem.dev.set 0x400 1 }
    rink := { State.reset.rink with table := [(7 * 2 ^ 18, farEntry + 1)], tasks := [shortEncode], strm := [(farEntry, farStrm)] } }

/-- Refutes O59: its clause of the output buffer that is too short does not bound the entry. The status of that completion, 0x15,
goes to the very byte that is the state of the far entry, which the clause says is unchanged. -/
theorem not_encodePictures : ¬ Obligations.EncodePictures := by
  unfold Obligations.EncodePictures
  rintro ⟨-, -, -, -, -, tooShort, -⟩
  obtain ⟨u, -, ⟨slot, -, -⟩, same, -⟩ :=
    tooShort farEncoding 7 0 farEntry 0 shortEncode farStrm (by decide +kernel) (by decide +kernel) rfl (by decide +kernel) (by decide +kernel)
      (by decide +kernel) (by decide +kernel) (by decide +kernel) (by decide +kernel) (by decide +kernel) (by decide +kernel)
  have status : devGet u 0x400 = 0x15 := (List.cons.inj ((devRead_cons u 0x400 31).symm.trans slot)).1
  rw [entryState_farEntry, entryState_farEntry, status] at same
  exact absurd same (by decide +kernel)

/-! ### SHAPE of raw planes into a row that holds the far entry's state -/

/-- A shaping block that makes every value 2.03125 in BF16, whose low byte is 2: gammas 1, scale 0, one channel of full range. -/
def flatBlock : List Byte :=
  List.replicate 0xB 0 ++ [1, 1, 1, 0, 0, 0, 0, 0x80, 0x3F, 0, 0, 0x80, 0x3F] ++ List.replicate 0x5C 0 ++ [0, 0, 0x02, 0x40] ++ List.replicate 0x48 0

/-- A SHAPE of raw planes to one pixel at 0x400, its block at 0x800. -/
def rowShape : RTask :=
  { ctx := 7, enc := false, slot := 0, phase := .shaping, unit := some (.shap 0)
    d := [3] ++ List.replicate 0x20 0 ++ [4] ++ List.replicate 6 0 ++ [64, 0, 0, 0, 1, 0, 1, 0, 0, 8] ++ List.replicate 0x10 0 ++ [8] }

/-- Job 7 runs and may write all of device memory; its ingest ring lies at 0x1000; stream 0 has the far entry. -/
def farShaping : State :=
  { updCtx State.reset 7 fun j =>
      { j with
        state := .running
        man := { courseMask := 1, regions := [{ base := 0, len := 0x9000000000, perm := 15, kind := 1, placed := true }] } } with
    cfg := { State.reset.cfg with live := [(0x802E0, 0x1000), (0x802E8, 2)] }
    mem := { State.reset.mem with dev := State.reset.mem.dev.write 0x800 flatBlock }
    rink := { State.reset.rink with table := [(7 * 2 ^ 18, farEntry + 1)], tasks := [rowShape] } }

/-- The row that the shaper writes begins with 2, the state ACTIVE. -/
theorem shapeRow_flatBlock : (shapeRow flatBlock (rawPicture farShaping rowShape.d) (true, true) 1 1 0 0).head? = some 2 := by decide +kernel

/-- The far entry is found ACTIVE after the row is written, and is set OPEN: the row's first byte is 1. -/
theorem shapeComplete_farShaping : devGet (shapeCompleteEffect 7 0 farShaping) 0x400 = 1 := by decide +kernel

/-- Refutes O58: its clause of the SHAPE of raw planes does not speak of the entry. The far entry's state is the first byte of the
row, so that the completion changes the row. -/
theorem not_decodeAndShape : ¬ Obligations.DecodeAndShape := by
  unfold Obligations.DecodeAndShape
  rintro ⟨-, -, -, -, -, -, -, -, rawPlanes, -⟩
  obtain ⟨u, ran, -, row, -⟩ :=
    rawPlanes farShaping 7 0 0x400 0 0 flatBlock rowShape (by decide +kernel) (by decide +kernel) rfl rfl rfl (by decide +kernel) (by decide +kernel)
      (by decide +kernel) (by decide +kernel) (by decide +kernel) (by decide +kernel) (by decide +kernel) (by decide +kernel)
  have result : shapeCompleteEffect 7 0 farShaping = u := Host.Outcome.next.inj ran
  have first : devGet u 0x400 = 2 := Option.some.inj ((congrArg List.head? ((devRead_cons u 0x400 63).symm.trans row)).trans shapeRow_flatBlock)
  rw [← result, shapeComplete_farShaping] at first
  exact absurd first (by decide)

end Sys2Proof.Proofs
end
